-- ==== Sys2Proof/Word.lean ====
section
/-! DEFINITION. Words, bytes and the identifiers of units that commands and state name. -/

namespace Sys2Proof

/-- A 32-bit register word (12 R375). -/
abbrev Word := BitVec 32

/-- A byte of memory or of a frame. -/
abbrev Byte := BitVec 8

/-- A byte string, first byte first. -/
abbrev Bytes := List Byte

/-- A logical kite, 0 to 127 (00 R1). -/
abbrev Kite := Fin 128

/-- A physical slot as 17 × train + slot (12 R376). -/
abbrev Slot := Fin 136

/-- A train, 0 to 7 (00 R1). -/
abbrev Train := Fin 8

/-- A fabric line, 0 to 31 (00 R3). -/
abbrev LineNo := Fin 32

/-- An HBM stack, 0 to 15 (00 R3). -/
abbrev StackNo := Fin 16

/-- A physical pseudo-channel of a stack, 0 to 31 (00 R3). -/
abbrev PcNo := Fin 32

/-- A management core, 0 to 3. -/
abbrev Core := Fin 4

/-- A device number, 0 to 4,095 (08 R275). -/
abbrev Dev := Fin 4096

/-- A scoring model slot, 0 to 15 (11 R351). -/
abbrev ScSlot := Fin 16

/-- A tick of the fabric time base, 1 ns (00 R11). -/
abbrev Tick := Nat

end Sys2Proof
end

