-- ==== Sys2Proof/Syntax.lean ====
section
/-! DEFINITION. The commands of the block: one constructor of `Instr` per row of spec/opcode_table.json, with the
row's operands. Facts of the environment that a command meets (arrival ticks, bit errors, measured values, physical
failures) are operands of the command that meets them (log 9). -/

namespace Sys2Proof

/-- The IPv6 addresses and UDP ports of a datagram: its sender's, and those it names here. -/
structure UdpAddr where
  ip : Nat
  port : Nat
  here : Nat
  herePort : Nat
deriving DecidableEq, Repr

/-- Where a host frame came from and where its answer goes (12 R363, R373, R374): the sender's Ethernet address, the address
it was sent to, 802.1Q tag and, under UDP, IPv6 addresses and ports. -/
structure HostAddr where
  mac : Nat
  here : Nat
  tag : Option Nat
  udp : Option UdpAddr
deriving DecidableEq, Repr

/-- The header of a control frame as the rows NOP to ATTEST carry it (12 R366). -/
structure CmdHdr where
  stream : Fin 4
  seq : Word
  ack : Word
  src : HostAddr
deriving DecidableEq, Repr

/-- How LOAD, START, STOP and COMMIT are given: by a control frame, or by STEP_CMD (12 R367). -/
inductive CmdVia where
  | frame (h : CmdHdr)
  | register
deriving DecidableEq, Repr

/-- Who asks for an attestation report: the host (R367) or a fabric peer (R377). -/
inductive AttestBy where
  | host (h : CmdHdr)
  | peer (dev : Dev) (txn : BitVec 16)
deriving DecidableEq, Repr

/-- An access to a window register. -/
inductive Access where
  | read
  | write (v : Word)
deriving DecidableEq, Repr

/-- Why the receive filter meets a frame (12 R363, R364). -/
inductive RxFrame where
  | badFcs
  | wrongDest
  | twoTags
  | vlan (vid : Option Nat)
  | badUdpSum
  | unknownType
deriving DecidableEq, Repr

/-- An IEEE 1588 message at the port (12 R365); times are in the timestamp unit's own time base. -/
inductive PtpMsg where
  | announce
  | sync (seq : Nat) (rx : Nat)
  | followUp (seq : Nat) (origin : Nat)
  | delayReqSent (seq : Nat) (tx : Nat)
  | delayResp (seq : Nat) (rx : Nat)
  | other
deriving DecidableEq, Repr

/-- What a batch of the scoring partition meets in the scratchpads (11 R347, 01 R47): (partition kite, bank, row) of
corrected rows, and of a row with a double-bit error. -/
structure PartEnv where
  ceRows : List (Fin 16 × Nat × Nat) := []
  ue : Option (Fin 16 × Nat × Nat) := none
deriving DecidableEq, Repr

/-- A sequencer that issues SYNC records (07 R254, R255). -/
inductive SeqUnit where
  | kite (k : Kite)
  | memory (t : Train)
  | winch (t : Train)
  | burner (t : Train)
deriving DecidableEq, Repr

/-- What a scratchpad-reading op meets: rows read with a single-bit error, a row read with a double-bit error, cycles in which
a weight column had not arrived, in which the weight port and in which another port of the op waited for a bank (01 R46,
R47, R37), and whether the op acts in the kite cycle of its slot's latest fault (03 R124). -/
structure OpEnv where
  ceRows : List (Nat × Nat) := []
  ue : Option (Nat × Nat) := none
  bubbles : Nat := 0
  weightStalls : Nat := 0
  stalls : Nat := 0
  together : Bool := false
deriving DecidableEq, Repr

/-- The two parts of ARRAY_OP: the start (`together`: in the kite cycle of the slot's latest fault, 03 R124), and the
streaming of one live tile (01 R54). -/
inductive ArrayPart where
  | start (together : Bool)
  | stream (env : OpEnv)
deriving DecidableEq, Repr

/-- A unit whose running op completes (07 R248). -/
inductive OpUnit where
  | array (k : Kite)
  | vector (k : Kite)
  | port (k : Kite)
  | loader (k : Kite)
  | memory (t : Train)
deriving DecidableEq, Repr

/-- The files of a kite that hold live and shadow banks (03 R113, R132; 05 R188). -/
inductive FileKind where
  | codebook | scale | program
deriving DecidableEq, Repr

/-- A precision replica (04 R165): of a kite slot, a winch, a burner or the scoring front end. -/
inductive Replica where
  | kite (s : Slot)
  | winch (t : Train)
  | burner (t : Train)
deriving DecidableEq, Repr

/-- One tag's statistics: six counts of 40 bits, EMAX, EMIN and 32 bins (04 R148). -/
structure TagRec where
  counts : List Nat
  emax : Int
  emin : Int
  bins : List Nat
deriving DecidableEq, Repr

/-- A domain or part summary of step S: records of the tags that have any (04 R150, R152). -/
structure Summary where
  step : Nat
  tags : List (Nat × TagRec)
deriving DecidableEq, Repr

/-- The result of the error code on a 64-byte transfer (06 R216, R217). -/
inductive EccResult where
  | clean
  | corrected (symbols : Nat)
  | retryOk (corrected : Bool)
  | uncorrectable
deriving DecidableEq, Repr

/-- Who consumes a transfer that may be uncorrectable (06 R217, 14 R409). -/
inductive Consumer where
  | kite (k : Kite)
  | memory (t : Train)
  | winch (t : Train)
  | burner (t : Train)
  | line (l : LineNo)
  | arrival
  | fetch
  | host
  | scrub
deriving DecidableEq, Repr

/-- One access to the spool as a unit makes it (06 R206, R208): a read of `len` bytes, or a write. `part` is the
partition charged (R212), `sram` an error of the spool's own memory that the access meets (R211; true:
uncorrectable), `parity` the parity errors that its commands to the stack met (R199), `who` the consumer of an uncorrectable
read. -/
structure SpoolReq where
  addr : Nat
  len : Nat
  hint : Fin 4
  write : Option Bytes := none
  part : Option (Fin 8) := none
  sram : Option Bool := none
  parity : Nat := 0
  who : Consumer := .host
deriving DecidableEq, Repr

/-- What patrol scrub found at a transfer of a physical channel (06 R218): bank as SID × 16 + bank group × 4 + bank, row 0 to
32,767 or 32,768 + a spare row, transfer within the row. -/
structure ScrubFind where
  pc : PcNo
  bank : Fin 48
  row : Fin 32800
  xfer : Fin 16
  res : EccResult
deriving DecidableEq, Repr

/-- A work item of a stack's window (06 R226): the migration switch, a retirement copy by granule, calibration, a repair step by
row, a way replacement by set group and way, due refreshes. -/
inductive WorkItem where
  | migration
  | retirement (granule : Nat)
  | calibration
  | repair (row : Nat)
  | way (group way : Nat)
  | refresh
deriving DecidableEq, Repr

/-- An SRAM macro other than the scratchpad (14 R405): a file of a kite slot, a train's spool tags, winch or burner buffers, a
line's flit or replay buffer. -/
inductive SramUnit where
  | kiteFile (slot : Slot) (f : FileKind)
  | spoolTags (t : Train)
  | winchBuffer (t : Train)
  | burnerBuffer (t : Train)
  | flitBuffer (l : LineNo)
  | replayBuffer (l : LineNo)
deriving DecidableEq, Repr

/-- A row of a macro that is due for a spare (14 R405): its correctable count has reached the mark, or (`ue`) it met an
uncorrectable error. -/
structure SramFind where
  unit : SramUnit
  ue : Bool
deriving DecidableEq, Repr

/-- What a stack's window met (06 R218, R222, R226): what the scrub found, bank groups (12 × channel + 4 × SID + group) whose
stack reports no repair resource left, on-die corrections read from the stack, the work items that did not fit, and rows of
other SRAM macros that are due (14 R405). -/
structure WindowReport where
  scrub : List ScrubFind := []
  noRepair : List Nat := []
  odeCe : Nat := 0
  notFitting : List WorkItem := []
  sram : List SramFind := []
deriving DecidableEq, Repr

/-- A register command of a fabric peer (12 R377). -/
inductive PeerOp where
  | read (addr : Word) (count : Nat) (fixed : Bool)
  | write (addr : Word) (count : Nat) (fixed : Bool) (words : List Word)
deriving DecidableEq, Repr

/-- What an IDENT flit tells (08 R287). -/
structure IdentInfo where
  dev : Dev
  assigned : Bool
  line : LineNo
  dist : Fin 32
  master : Dev
  serial : BitVec 64
deriving DecidableEq, Repr

/-- A TIME_SYNC flit (08 R289): the child's request, or the parent's reply, with their ticks. -/
inductive SyncMsg where
  | request (t1 t2 dist : Nat)
  | reply (t1 t2 t3 t4 dist : Nat)
deriving DecidableEq, Repr

/-- IEEE 1149.1 instructions (17 R462). -/
inductive TapInstr where
  | bypass | idcode | sample | extest | other
deriving DecidableEq, Repr

/-- The commands of the block, one constructor per row of spec/opcode_table.json, in the table's order. -/
inductive Instr where
  /-- NOP: answers an empty response in its stream. -/
  | nop (h : CmdHdr)
  /-- OPEN: X := SEQ+1, held frames and stored responses of the stream go, stream 0 sets the EVENT/BULK destination, answered. -/
  | openStream (h : CmdHdr)
  /-- REG_READ: reads words in order, answers INDEX, live EPOCH, data. -/
  | regRead (h : CmdHdr) (addr : Word) (count : Nat) (fixed : Bool)
  /-- REG_WRITE: writes words in order, answers INDEX and the epoch joined. -/
  | regWrite (h : CmdHdr) (addr : Word) (count : Nat) (fixed : Bool) (words : List Word)
  /-- MEM_READ: reads HBM through the spool, MEM_UE without data on an uncorrectable transfer. -/
  | memRead (h : CmdHdr) (addr : Nat) (len : Nat)
  /-- MEM_WRITE: writes HBM through the spool, sector by sector. -/
  | memWrite (h : CmdHdr) (addr : Nat) (len : Nat) (data : Bytes)
  /-- PLAN_WRITE: writes the plan region, PLAN_STAT.STATE := EMPTY. -/
  | planWrite (h : CmdHdr) (ofs : Nat) (len : Nat) (data : Bytes)
  /-- PLAN_LOAD: IDLE: PLAN_STAT.STATE := CHECKING; otherwise BUSY. -/
  | planLoad (via : CmdVia)
  /-- STEP_START: LOADED, locked and not stale: ARMED with the first step tick. -/
  | stepStart (via : CmdVia) (tick : Tick)
  /-- STEP_STOP: END_REQ to the seal root. -/
  | stepStop (via : CmdVia)
  /-- COMMIT: no plan runs: arms the device-local commit at now+64. -/
  | commit (via : CmdVia)
  /-- ATTEST: answers the signed report, ATT_COUNT+1. -/
  | attest (who : AttestBy) (nonceLen : Nat) (nonce : Bytes)
  /-- CONTROL_FRAME_RX: parses the 16-byte header: bad, held, duplicate, out of window, or executed when SEQ = X. -/
  | controlFrameRx (src : HostAddr) (bytes : Bytes)
  /-- HELD_COMMAND_EXECUTE: the held frame with SEQ = X executes. -/
  | heldCommandExecute (stream : Fin 4)
  /-- EVENT_FRAME_SEND: up to 64 queued records leave as one EVENT frame when fewer than 64 are outstanding. -/
  | eventFrameSend
  /-- EVENT_FRAME_RETX: an unacknowledged EVENT frame is sent again. -/
  | eventFrameRetx (num : Word)
  /-- HOST_FRAME_DROPPED: the receive filter drops and counts the frame. -/
  | hostFrameDropped (f : RxFrame)
  /-- PAUSE_RX: PAUSE_RX counts. -/
  | pauseRx
  /-- PTP_MESSAGE: stamped, handled by the slave-only two-step clock. -/
  | ptpMessage (m : PtpMsg)
  /-- SCORING_REQUEST: parsed, judged by R349, joins or opens a batch or gets a non-OK verdict. -/
  | scoringRequest (src : HostAddr) (payload : Bytes) (rxTick : Tick)
  /-- BATCH_START: the pending batch of the slot starts and closes to new rows. -/
  | batchStart (slot : ScSlot)
  /-- BATCH_END: the layers run, the scores are ready (or FAULT verdicts). -/
  | batchEnd (slot : ScSlot) (env : PartEnv)
  /-- VERDICT_SEND: the verdict of the earliest calendar slot leaves. -/
  | verdictSend
  /-- VALIDATE: starts the validation of the slot's shadow descriptor. -/
  | validate (slot : ScSlot)
  /-- VALIDATED: the validation ends: SC_VRES, SHADOW_OK. -/
  | validated
  /-- WEIGHT_LOAD: SC_WL_CMD.GO: starts the load the SC_WL registers describe. -/
  | weightLoad
  /-- WL_DONE: the weight load completes. -/
  | wlDone
  /-- SC_DWIN: window access to a slot descriptor word. -/
  | scDwin (acc : Access)
  /-- PLAN_CHECK_DONE: the check of the image ends: REJECTED with REASON and offset, or loaded. -/
  | planCheckDone
  /-- STEP_TICK: T(S): commit of every shadowed bank, epoch+1, step S starts. -/
  | stepTick
  /-- DEVICE_READY: READY(S) is sent with the digest when everything is done. -/
  | deviceReady
  /-- READY: root collects; on the last: SEAL, or ABORT on diverging digests. -/
  | ready (src : Dev) (step : Nat) (attempt : Nat) (digest : Word)
  /-- SEAL_RECEIVED: seal: envelope banks swap, counters land, MERGE starts, burner latches. -/
  | sealReceived (step : Nat) (tseal : Tick) (final : Bool)
  /-- END_REQ: root marks its next SEAL final. -/
  | endReq (src : Dev)
  /-- STOP: root broadcasts ABORT, or REPLAY_LIMIT. -/
  | stop (src : Dev) (step : Nat)
  /-- ABORT_RECEIVED: pre-seal work ceases and is discarded, restores begin. -/
  | abortReceived (step : Nat) (diverged : Bool)
  /-- REPLAY_READY: own: sent once restores are done; root: broadcasts REPLAY on the last. -/
  | replayReady (src : Dev) (step : Nat)
  /-- REPLAY: arms the replay tick. -/
  | replay (step : Nat) (tr : Tick)
  /-- REPLAY_TICK: T_r: gates, registrations, flags clear, repair swap, step S starts again. -/
  | replayTick
  /-- STEP_TIMEOUT: STEP_LIMIT passed: STEP_TIMEOUT and fabric-wide haul-down. -/
  | stepTimeout
  /-- HANDOVER: partner stands in (root), covers (partner). -/
  | handover (src : Dev) (step : Nat) (partner : Dev)
  /-- SYNC: waits and signals gates only. -/
  | sync (who : SeqUnit)
  /-- ARRAY_OP: start: the op is accepted and latched; stream: the live tile's columns enter and the results are written. -/
  | arrayOp (k : Kite) (part : ArrayPart)
  /-- STATIONARY_LOAD: the started op's tile loads into the shadow set (and fills tables). -/
  | stationaryLoad (k : Kite) (env : OpEnv)
  /-- TILE_SWAP: live and shadow sets exchange. -/
  | tileSwap (k : Kite)
  /-- OP_INVALID: the op at issue cannot run: fault OP_INVALID (together: in the kite cycle of another fault). -/
  | opInvalid (k : Kite) (together : Bool)
  /-- OP_COMPLETE: the running op of the unit completes: gate signal, op-counter snapshot. -/
  | opComplete (who : OpUnit)
  /-- MAP: vector op VOP 0. -/
  | map (k : Kite) (env : OpEnv)
  /-- CONV: vector op VOP 1. -/
  | conv (k : Kite) (env : OpEnv)
  /-- SCAN: vector op VOP 2. -/
  | scan (k : Kite) (env : OpEnv)
  /-- REDUCE: vector op VOP 3. -/
  | reduce (k : Kite) (env : OpEnv)
  /-- RESCALE: vector op VOP 4. -/
  | rescale (k : Kite) (env : OpEnv)
  /-- RNG: vector op VOP 5. -/
  | rng (k : Kite) (env : OpEnv)
  /-- CBF_LOAD: copies records from scratchpad into a file's shadow bank. -/
  | cbfLoad (k : Kite) (env : OpEnv)
  /-- MOVE: moves data between HBM and scratchpad. -/
  | move (k : Kite) (env : OpEnv)
  /-- FILE_COPY: the background copy live to shadow starts. -/
  | fileCopy (slot : Slot) (file : FileKind)
  /-- FAULT_CLR: KITE_CMD.FAULT_CLR (together: the slot's latest fault arrived in this cycle). -/
  | faultClr (slot : Slot) (together : Bool)
  /-- CBF_DATA: window access to a codebook or scale file word. -/
  | cbfData (slot : Slot) (acc : Access)
  /-- VP_DATA: window access to a program file word. -/
  | vpData (slot : Slot) (acc : Access)
  /-- ENV_WIN: window read of the envelope snapshot. -/
  | envWin (slot : Slot)
  /-- GOV_SUMMARY: a summary arrives in the EXCHANGE tree. -/
  | govSummary (src : Dev) (down : Bool) (sum : Summary)
  /-- GOV_EVAL: rules, watch, resolution on the domain summary. -/
  | govEval
  /-- GOV_READY: replicas acknowledged: READY, digest. -/
  | govReady
  /-- REPLICA_RELOAD: the live banks are loaded into both banks of a replica that missed a commit. -/
  | replicaReload (rep : Replica)
  /-- GOV_SV_DATA: window access to the governor state image. -/
  | govSvData (acc : Access)
  /-- UFW_CTL: write of UFW_CTL. -/
  | ufwCtl (v : Word)
  /-- SPOOL_ACCESS: one sector access under its hint. -/
  | spoolAccess (req : SpoolReq)
  /-- REG_ADMIT: the head access of the partition's queue proceeds when the bucket allows. -/
  | regAdmit (t : Train) (p : Fin 8)
  /-- HBM_READ: a 64-byte transfer returns clean, corrected, after retry, or uncorrectable. -/
  | hbmRead (addr : Nat) (parity : Fin 3) (res : EccResult) (who : Consumer)
  /-- RETRAIN_DONE: a retrain ends, or fails. -/
  | retrainDone (st : StackNo) (pc : PcNo) (ok : Bool)
  /-- PC_DEAD: the channel returned no data for 1,000 cycles. -/
  | pcDead (st : StackNo) (pc : PcNo)
  /-- STACK_TEMP_READ: temperature reading, band and throttle. -/
  | stackTempRead (st : StackNo) (temp : BitVec 8)
  /-- MAINT_WINDOW_START: tick W: acceptance stops. -/
  | maintWindowStart
  /-- WINDOW_WORK: the stack's window work in priority order. -/
  | windowWork (st : StackNo) (w : WindowReport)
  /-- TABLE_SWAP: W+1,400: map, remap and translation tables swap. -/
  | tableSwap
  /-- WINDOW_END: W+1,500: acceptance resumes. -/
  | windowEnd
  /-- MIG_INTERVAL_END: an interval of 1,024 windows ends. -/
  | migIntervalEnd (st : StackNo)
  /-- MIG_COPY_DONE: the migration copy completes. -/
  | migCopyDone (st : StackNo)
  /-- MIGRATE: STK_CMD.MIGRATE. -/
  | migrate (st : StackNo) (logical : Fin 32)
  /-- UE_CLR: STK_CMD.UE_CLR. -/
  | ueClr (st : StackNo) (together : Bool)
  /-- UNPIN_ALL: SPOOL_CMD.UNPIN_ALL. -/
  | unpinAll (t : Train)
  /-- COPY: memory-program record MOP 0. -/
  | copy (t : Train)
  /-- PREFETCH: memory-program record MOP 1. -/
  | prefetch (t : Train)
  /-- UNPIN: memory-program record MOP 2. -/
  | unpin (t : Train)
  /-- WRITEBACK: memory-program record MOP 3. -/
  | writeback (t : Train)
  /-- LINE_SCHEDULE_RECORD: the next record of the line's schedule starts its transfer. -/
  | lineScheduleRecord (l : LineNo)
  /-- FLIT_SEND: the next flit by priority is sent. -/
  | flitSend (l : LineNo)
  /-- FLIT_RX: a flit arrives: accepted in SEQ order or discarded. -/
  | flitRx (l : LineNo) (bytes : Bytes) (fecBad : Bool) (fecUe : Nat) (fecCe : Nat) (symErrs : List (Nat × Nat))
  /-- RETRY_REQ: the sender rewinds to the named SEQ. -/
  | retryReq (l : LineNo) (seq : Fin 4096)
  /-- RETRY_TIMEOUT: RETRY_REQ repeats, or the line goes DOWN at RETRY_MAX. -/
  | retryTimeout (l : LineNo)
  /-- IDLE_ACK: an IDLE flit carries ACK. -/
  | idleAck (l : LineNo)
  /-- DATA_FLIT: the oldest buffered flit is routed onward or taken at its endpoint. -/
  | dataFlit (l : LineNo) (vc : Fin 8) (cls : Fin 2)
  /-- TRANSFER_WRITTEN: an open transfer's last byte is written: gate, DONE. -/
  | transferWritten (src : Dev) (ep : Fin 16) (vc : Fin 8) (together : Bool)
  /-- DONE: completes the record or segment send. -/
  | done (src : Dev) (vc : Fin 8) (txn : BitVec 16) (nbytes : Nat)
  /-- NACK: VC 0 and 7 resend once, VC 2 to 6 send STOP. -/
  | nack (src : Dev) (vc : Fin 8) (txn : BitVec 16)
  /-- PEER_REGISTER_COMMAND: executed or answered from the last 16. -/
  | peerRegisterCommand (src : Dev) (txn : BitVec 16) (op : PeerOp)
  /-- RESTORE_READ: served as one VC 7 transfer, or NACK. -/
  | restoreRead (src : Dev) (body : Bytes) (progress : Nat)
  /-- TB_QUERY: answered with the tick and TB_SYNC. -/
  | tbQuery (src : Dev)
  /-- IDENT: fills NBR_l, NBR_CHANGE. -/
  | ident (l : LineNo) (info : IdentInfo)
  /-- DISCOVERY: starts training of the enabled lines, ends when every line is UP or timed out. -/
  | discovery
  /-- DISC_TIMEOUT: the line stays DOWN. -/
  | discTimeout (l : LineNo)
  /-- DISCOVER: FAB_CMD.DISCOVER. -/
  | discover
  /-- FAB_DEVNUM: write of FAB_DEVNUM. -/
  | fabDevnum (v : Word)
  /-- LINE_UP: training and alignment complete. -/
  | lineUp (l : LineNo)
  /-- LINE_DOWN: the line goes DOWN. -/
  | lineDown (l : LineNo)
  /-- DOWN_NOTICE: the peer takes the line down. -/
  | downNotice (l : LineNo)
  /-- ALIGNMENT_LOSS: alignment lost for 1 ms. -/
  | alignmentLoss (l : LineNo)
  /-- LINE_RETRAIN: a DOWN line with EN 1 starts training. -/
  | lineRetrain (l : LineNo)
  /-- LINE_CFG: write of LINE_CFG. -/
  | lineCfg (l : LineNo) (v : Word)
  /-- LANE_INTERVAL_END: an interval of 2^24 codewords ends. -/
  | laneIntervalEnd (l : LineNo)
  /-- LANE_SWAP: a LANE_SWAP flit agrees the window. -/
  | laneSwap (l : LineNo) (window : Nat) (lane : Fin 8)
  /-- LANE_WINDOW_SWAP: in the agreed window the lane moves to the ballast lane. -/
  | laneWindowSwap (l : LineNo)
  /-- LANE_LOCK_LOSS: replaced at once, or the line goes DOWN. -/
  | laneLockLoss (l : LineNo) (lane : Fin 8)
  /-- LANE_SWAP_CMD: LANE_CMD.LANE_SWAP_CMD. -/
  | laneSwapCmd (l : LineNo) (lane : Fin 8)
  /-- TIME_SYNC_SEND: the child sends TIME_SYNC with t1. -/
  | timeSyncSend
  /-- TIME_SYNC: parent answers; child updates offset, rate, first-lock load. -/
  | timeSync (l : LineNo) (m : SyncMsg)
  /-- SYNC_TIMEOUT: no reply for 100 us: LOCKED drops, new parent, or TB_BACKUP takes over. -/
  | syncTimeout
  /-- ROUTE_DATA: window access to the routing table. -/
  | routeData (acc : Access)
  /-- WINCH_RECORD: a reduction record starts, accumulates, or enters the ring. -/
  | winchRecord (t : Train) (ue : Bool) (together : Bool)
  /-- SEGMENT_COMBINE: the next context with a segment ready combines it. -/
  | segmentCombine (t : Train)
  /-- SEGMENT_SEND: the next segment is sent to a successor when its slot is free. -/
  | segmentSend (t : Train) (ctx : Fin 8) (backup : Bool)
  /-- SLOT_FREE: frees the sender for segment j+4. -/
  | slotFree (src : Dev) (t : Train) (ctx : Fin 8) (lap : Fin 2) (seg : Nat)
  /-- WINCH_RECORD_DONE: results, DONEs and scales written: the record completes. -/
  | winchRecordDone (t : Train) (ctx : Fin 8)
  /-- WN_FAULT_CLR: WN_CMD.FAULT_CLR. -/
  | wnFaultClr (t : Train) (together : Bool)
  /-- NAN_CLR: WN_CMD.NAN_CLR. -/
  | nanClr (t : Train) (together : Bool)
  /-- BURNER_RECORD: one pass of the update record (to the element that meets an uncorrectable read). -/
  | burnerRecord (t : Train) (ue : Option Nat)
  /-- REEL_COMPUTE: the next updating group's rate and constants. -/
  | reelCompute (t : Train)
  /-- BURNER_RECORD_DONE: the record completes, its signal is held or delivered. -/
  | burnerRecordDone (t : Train)
  /-- BN_FAULT_CLR: BN_CMD.FAULT_CLR (together: a fault latches in the same cycle). -/
  | bnFaultClr (t : Train) (together : Bool)
  /-- BN_GWIN: window access to the group file. -/
  | bnGwin (t : Train) (acc : Access)
  /-- EC_DELIVER: the best eligible source goes to a free core. -/
  | ecDeliver
  /-- EC_EOI: completion, or STRAY_EOI. -/
  | ecEoi (c : Core) (src : Fin 1024)
  /-- EC_CORE: write of CORE_EN. -/
  | ecCore (v : Word)
  /-- EC_TIMER: the counter reaches CMP. -/
  | ecTimer (i : Fin 16)
  /-- PIN_INPUT: a pin level held for a number of reference cycles. -/
  | pinInput (pin : Fin 3) (level : Bool) (cycles : Nat)
  /-- EVT_PEND: software write resolved against raises of the same cycle. -/
  | evtPend (page : Word) (v : Word) (raised : Word)
  /-- EC_PEND: software write of an EC_PEND word. -/
  | ecPend (i : Fin 32) (v : Word)
  /-- EC_CFG: window access to a source's configuration. -/
  | ecCfg (acc : Access)
  /-- KITE_HANG: PLAN_PC unchanged for KITE_HANG ticks in RUN: FAILED. -/
  | kiteHang (k : Kite)
  /-- REPLACE: TRN_CMD.REPLACE. -/
  | replace (t : Train) (logical : Fin 16)
  /-- CORE_FAILURE: a management core fails. -/
  | coreFailure (c : Core)
  /-- ROLE_TAKEOVER: the standby completes taking the role. -/
  | roleTakeover
  /-- PHASE_SHED: a regulator phase is shed. -/
  | phaseShed
  /-- PLAN_UE_DONE: PLAN_UE_CMD: clears PLAN_UE. -/
  | planUeDone
  /-- HAUL: HD_CMD.HAUL. -/
  | haul (fabric : Bool) (all : Bool)
  /-- HAUL_MSG: forwarded once, accepted for this root. -/
  | haulMsg (l : LineNo) (t : Tick) (origin : Dev) (root : Dev) (cause : Fin 16)
  /-- HAUL_CUT: the cut tick: every island stops. -/
  | haulCut
  /-- CUT_MARKER: the line's capture closes once LAST_SEQ is accepted. -/
  | cutMarker (l : LineNo) (t : Tick) (last : Fin 4096)
  /-- MARK_TIMEOUT: captures not closed in time close as they stand. -/
  | markTimeout
  /-- SCAN_DONE: scan-out completes: HALTED. -/
  | scanDone
  /-- HD_DUMP: write of HD_DUMP, GO copies a scratchpad to a dump slot. -/
  | hdDump (v : Word)
  /-- DUMP_DONE: DUMP_BUSY clears. -/
  | dumpDone
  /-- RELEASE: HD_CMD.RELEASE. -/
  | release (fabric : Bool)
  /-- RELEASE_MSG: forwarded, sets the resume tick. -/
  | releaseMsg (l : LineNo) (r : Tick) (root : Dev)
  /-- RELEASE_TICK: islands resume, plan ticks move by D. -/
  | releaseTick
  /-- ABANDON: HD_CMD.ABANDON. -/
  | abandon
  /-- TRACE_BURST: buffered records go to the ring. -/
  | traceBurst (t : Train)
  /-- TR_CTL: write of TR_CTL. -/
  | trCtl (v : Word)
  /-- MEASURE: TB_CMD.MEASURE. -/
  | measure
  /-- MEAS_DONE: the pairs are taken. -/
  | measDone
  /-- TB_NOW_LO: reads the low tick word, latches the high word. -/
  | tbNowLo
  /-- LOW_WORD_READ: reads a low word, latches its high word. -/
  | lowWordRead (addr : Word)
  /-- HEALTH: reads the health block. -/
  | health
  /-- REG_ADDR: starts a register read. -/
  | regAddr (addr : Word)
  /-- REG_GET: returns status and value. -/
  | regGet
  /-- REG_PUT: writes a register when SB_WR_EN allows. -/
  | regPut (addr : Word) (v : Word)
  /-- HEALTH_REFRESH: the health block copy is renewed. -/
  | healthRefresh
  /-- SOFT_RESET: page header SOFT_RESET. -/
  | softReset (page : Word)
  /-- FREEZE: page header FREEZE. -/
  | freeze (page : Word) (on : Bool)
  /-- REGISTER_WRITE: a register write, applied, shadowed or refused. -/
  | registerWrite (addr : Word) (v : Word)
  /-- POWER_ENABLE: PWR_EN rises. -/
  | powerEnable
  /-- POWER_GOOD: rails in tolerance: power-on reset. -/
  | powerGood
  /-- POWER_OFF: every rail is removed. -/
  | powerOff
  /-- REF_LOST: REFCLK lost for 10 us. -/
  | refLost
  /-- POWER_EVAL: the 100 us power evaluation. -/
  | powerEval (vin : Nat) (iin : Nat) (watts : Nat)
  /-- THERMAL_EVAL: the 100 us sensor reading. -/
  | thermalEval (die : BitVec 8) (coolIn : BitVec 8) (coolOut : BitVec 8)
  /-- RESET: DEV_RST: schedules a device reset 1 ms later. -/
  | reset (key : BitVec 16) (sideband : Bool)
  /-- DEVICE_RESET: the scheduled reset takes effect. -/
  | deviceReset
  /-- ROM_STAGE: stage 1. -/
  | romStage
  /-- VERIFY_STAGE: stage 2. -/
  | verifyStage
  /-- LOAD_STAGE: stage 3 (parity: code memory meets a parity error). -/
  | loadStage (parity : Bool)
  /-- CONFIG_STAGE: stage 4. -/
  | configStage
  /-- HBM_STAGE: stage 5. -/
  | hbmStage (hppr : List Nat)
  /-- DEV_READY: stage 7. -/
  | devReady
  /-- FL_DATA: access to a flash word. -/
  | flData (acc : Access)
  /-- ERASE: FL_CMD.ERASE. -/
  | erase
  /-- FL_COMMIT: FL_CMD.COMMIT. -/
  | flCommit (seg : Fin 16)
  /-- FL_DONE: the flash operation completes, or fails. -/
  | flDone (failed : Bool)
  /-- STAGE: FW_CMD.STAGE. -/
  | stage
  /-- SWAP: FW_CMD.SWAP. -/
  | swap
  /-- HANDOVER_DONE: one role hand-over completes. -/
  | handoverDone
  /-- EXTEND: SEC_CMD.EXTEND. -/
  | extend
  /-- SVN_BURN: SEC_CMD.SVN_BURN. -/
  | svnBurn (key : BitVec 16)
  /-- UKH_BURN: SEC_CMD.UKH_BURN. -/
  | ukhBurn (key : BitVec 16)
  /-- LOG_WIN: window read of the measurement log. -/
  | logWin
  /-- SERVICE_HOUR: the hourly service record header. -/
  | serviceHour
  /-- COMMIT_TICK: the device-local commit. -/
  | commitTick
  /-- FILE_COPY_DONE: the background copy ends. -/
  | fileCopyDone (slot : Slot) (file : FileKind)
  /-- PT_COPY_DONE: COPY ends, TABLE_PHASE OPEN. -/
  | ptCopyDone
  /-- GOV_MERGE_DONE: the merge of 128 snapshots ends. -/
  | govMergeDone
  /-- HOST_LINK_UP: LINK rises. -/
  | hostLinkUp (preempt : Bool)
  /-- HOST_LINK_DOWN: LINK falls. -/
  | hostLinkDown
  /-- REF_RETURN: REFCLK returns. -/
  | refReturn
  /-- ENTROPY_SAMPLE: health test of one sample. -/
  | entropySample (pass : Bool)
  /-- BOUNDARY_SCAN: an IEEE 1149.1 instruction. -/
  | boundaryScan (ir : TapInstr)
  /-- DYNAMIC_ADDRESSING: ENTDAA or SETDASA. -/
  | dynamicAddressing (addr : BitVec 7)
  /-- SIDEBAND_READ_DONE: the REG_ADDR read completes. -/
  | sidebandReadDone
  /-- PHY_MARGIN_LOW: the PHY margin is below the limit. -/
  | phyMarginLow (st : StackNo) (pc : PcNo)
deriving DecidableEq, Repr

end Sys2Proof
end

