-- ==== Sys2Proof/Decode.lean ====
section
/-! DEFINITION. The command a table word spells. The rows of spec/opcode_table.json give no bits (a command reaches the
block as a frame, a register write, a message or an event, which their own meanings parse), so no word spells one. -/

namespace Sys2Proof

/-- The command of a word of `nbits` bits, numbered as the table numbers them: the table gives none any bits. -/
def decodeTableWord (_nbits _w : Nat) : Option Instr := none

end Sys2Proof
end

