-- ==== Sys2Proof/Config.lean ====
section
/-! DEFINITION. What a module is given once and what the spec leaves free: constants without a body, of which nothing
can be proved. -/

namespace Sys2Proof

/-- ID_PART.STEPPING, per die (12, identity page; log 2). -/
opaque Config.stepping : BitVec 8

/-- ID_PART.MODULE_ISSUE, per module (12, identity page; log 2). -/
opaque Config.moduleIssue : BitVec 8

/-- ID_SERIAL, per module (12, identity page; log 2). -/
opaque Config.serial : BitVec 64

/-- MAC_ADDR, per module (12, identity page; log 2). -/
opaque Config.macAddr : BitVec 48

/-- The vendor key hash burnt in fuses (16 R445; log 2). -/
opaque Config.vendorKeyHash : BitVec 256

/-- The module's unique secret (16 R452; log 2). -/
opaque Config.uniqueSecret : BitVec 256

/-- The bytes of module flash as manufactured (16 R446; log 26). -/
opaque Config.flashByte : Nat → BitVec 8

/-- What an erased byte of module flash reads (16 R446; log 26). -/
opaque Config.erasedByte : BitVec 8

/-- The digests of the boot ROM, of the fuse configuration by SVN_MIN and user key hash, and of a RECOVERY entry by
BOOT_ERR (16 R450; log 64). -/
opaque Config.romDigest : BitVec 256

opaque Config.fuseDigest : Nat → Option Nat → BitVec 256

opaque Config.recoveryDigest : Nat → BitVec 256

/-- The address-select straps of the module (17 R458 pins ADDR_SEL; 12 R381). -/
opaque Config.addrSel : BitVec 3

/-- How many bytes of segments code memory holds (16 R455; log 62). -/
opaque Config.codeMemory : Nat

/-- The code a store divided by a tag scale of zero gives, by destination format and the FP32 code divided (05 R181
states no result; log 34). -/
opaque Config.overZero : Nat → Nat → Nat

/-- 14 R398, R405: spare rows of an SRAM macro other than the scratchpad, by macro: 2 % of rows the spec does not count (log
100). -/
opaque Config.sramSpares : Nat → Nat

/-- The share of cell-cycles gated in a slot's last completed step, by the slot and the tick of the seal (01 PWR_GATED;
log 18). -/
opaque Config.gatedShare : Nat → Nat → Nat

/-- The signals that the other devices of a seal group send to a gate in one step, by the CRC of the image, the logical kite and
the gate: no image shows them to the checker (07 R259; log 15). -/
opaque Config.remoteSignals : Nat → Nat → Nat → Nat

/-- A value the spec leaves open, by the running number of its use (log 8). -/
opaque Config.free : Nat → Nat

end Sys2Proof
end

