-- ==== Sys2Proof/Machine/Bits.lean ====
section
/-! DEFINITION. Bit fields, signs, byte order (02 R69: little-endian) and saturation, used by every operation. -/

namespace Sys2Proof.Machine

/-- Bits [lo + len − 1 : lo] of `n`. -/
def getBits (n lo len : Nat) : Nat := n / 2 ^ lo % 2 ^ len

/-- `n` with bits [lo + len − 1 : lo] replaced by the low `len` bits of `v`. -/
def setBits (n lo len v : Nat) : Nat := n - getBits n lo len * 2 ^ lo + v % 2 ^ len * 2 ^ lo

/-- Bit `i` of `n`. -/
def bit (n i : Nat) : Bool := n / 2 ^ i % 2 == 1

/-- 1 for true, 0 for false. -/
def ofBool (b : Bool) : Nat := if b then 1 else 0

/-- The low `len` bits of `n` read as two's complement. -/
def toSigned (len n : Nat) : Int :=
  let v := n % 2 ^ len
  if 2 ^ (len - 1) ≤ v then (v : Int) - (2 ^ len : Nat) else v

/-- The two's complement code of `i` in `len` bits. -/
def ofSigned (len : Nat) (i : Int) : Nat := (i % ((2 ^ len : Nat) : Int)).toNat

/-- R14 SC: adds `n` and holds at all ones. -/
def satAdd (len v n : Nat) : Nat := min (2 ^ len - 1) (v + n)

/-- The value of bytes stored little-endian (R69). -/
def leNat : Bytes → Nat
  | [] => 0
  | b :: bs => b.toNat + 256 * leNat bs

/-- The low `n` bytes of `v`, lowest first (R69). -/
def leBytes : Nat → Nat → Bytes
  | 0, _ => []
  | n + 1, v => BitVec.ofNat 8 v :: leBytes n (v / 256)

/-- The value of bytes stored most significant first. -/
def beNat (bs : Bytes) : Nat := bs.foldl (fun a b => a * 256 + b.toNat) 0

/-- The low `n` bytes of `v`, highest first. -/
def beBytes (n v : Nat) : Bytes := (leBytes n v).reverse

/-- The little-endian field of `n` bytes at offset `o`. -/
def leAt (bs : Bytes) (o n : Nat) : Nat := leNat ((bs.drop o).take n)

/-- Zero bytes. -/
def zeros (n : Nat) : Bytes := List.replicate n 0

/-- `bs` in exactly `n` bytes, cut or padded with zeros. -/
def fit (n : Nat) (bs : Bytes) : Bytes := (bs ++ zeros (n - bs.length)).take n

/-- Little-endian 32-bit words of a byte string. -/
def wordsLE : Nat → Bytes → List Nat
  | 0, _ => []
  | n + 1, bs => leNat (bs.take 4) :: wordsLE n (bs.drop 4)

/-- Rounded-up quotient. -/
def ceilDiv (a b : Nat) : Nat := (a + b - 1) / b

/-- The set bits of `n` below `len`, lowest first. -/
def bitsOf (len n : Nat) : List Nat := (List.range len).filter (fun i => bit n i)

/-- The number of set bits of `n` below `len`. -/
def popCount (len n : Nat) : Nat := (bitsOf len n).length

/-- The lowest element of `l` that passes `p`. -/
def firstThat (p : Nat → Bool) (l : List Nat) : Option Nat := l.find? p

/-- The list with element `i` replaced, unchanged when it has none. -/
def setAt {α : Type} (l : List α) (i : Nat) (v : α) : List α := l.set i v

/-- Element `i` of a list, or `d`. -/
def atD {α : Type} (l : List α) (i : Nat) (d : α) : α := l.getD i d

end Sys2Proof.Machine
end

