-- ==== Sys2Proof/Machine/Page.lean ====
section
/-! DEFINITION. Pages of the register space (12 R376, R379), their addresses and event sources (13 R389), and what a
register field is (00 R14). -/

namespace Sys2Proof.Machine

/-- R376: the page types, in the order of the address map. -/
inductive PageKind where
  | identity | devCtl | clocks | thermal | dfi | governor | precision | memory | plan | fabric
  | eventCtl | core | security | flash | mac | scoring | cmdEngine | timeBase | haulDown | trace
  | trainCtl | spool | regulator | winch | burner | reel
  | kiteCtl | kiteArr | kiteVec | kiteEnv
  | stackCtl | stackErr | stackChan
  | lineCtl | lineLane
deriving DecidableEq, Repr

/-- One page: its type and R376's INSTANCE (train, 17 × train + slot, stack, line, core; 0 elsewhere). -/
structure Page where
  kind : PageKind
  inst : Nat := 0
deriving DecidableEq, Repr

/-- R14: access types of register fields. -/
inductive Acc where
  | ro | rw | wo | rwc | sc
deriving DecidableEq, Repr

/-- Where a field's reset value comes from: the table's constant, a per-module constant, the page's own number,
the register's own index, or the factory record (log 3). -/
inductive Dflt where
  | const (n : Nat)
  | stepping | issue | serialLo | serialHi | macLo | macHi
  | own | index | kiteState | channelState | laneState
deriving DecidableEq, Repr

/-- One register field of a page type: an array of `count` registers `stride` bytes apart has the field at the same
bits of each. `dagger` is the dagger of R15. -/
structure Fld where
  page : PageKind
  ofs : Nat
  lo : Nat
  len : Nat
  kind : Acc
  dflt : Dflt
  count : Nat := 1
  stride : Nat := 4
  dagger : Bool := false
deriving DecidableEq, Repr

/-- One page event: page type and bit (R384). -/
structure Evt where
  page : PageKind
  bit : Nat
deriving DecidableEq, Repr

/-- R376: the physical base address of a page. -/
def pageBase (k : PageKind) (n : Nat) : Nat :=
  let train := fun t : Nat => 0x01000000 + t * 0x100000
  let kite := fun p : Nat => train (n / 17) + 0x40000 + (n % 17) * 0x4000 + p * 0x1000
  let stack := fun p : Nat => train (n / 2) + 0xC0000 + (n % 2) * 0x20000 + p * 0x1000
  match k with
  | .identity => 0x00000 | .devCtl => 0x01000 | .clocks => 0x02000 | .thermal => 0x03000
  | .dfi => 0x04000 | .governor => 0x05000 | .precision => 0x06000 | .memory => 0x07000
  | .plan => 0x08000 | .fabric => 0x09000 | .eventCtl => 0x10000 | .core => 0x11000 + n * 0x1000
  | .security => 0x18000 | .flash => 0x19000 | .mac => 0x20000 | .scoring => 0x21000
  | .cmdEngine => 0x22000 | .timeBase => 0x30000 | .haulDown => 0x31000 | .trace => 0x32000
  | .trainCtl => train n | .spool => train n + 0x1000 | .regulator => train n + 0x2000
  | .winch => train n + 0x3000 | .burner => train n + 0x4000 | .reel => train n + 0x5000
  | .kiteCtl => kite 0 | .kiteArr => kite 1 | .kiteVec => kite 2 | .kiteEnv => kite 3
  | .stackCtl => stack 0 | .stackErr => stack 1 | .stackChan => stack 2
  | .lineCtl => 0x02000000 + n * 0x2000 | .lineLane => 0x02001000 + n * 0x2000

def Page.base (p : Page) : Nat := pageBase p.kind p.inst

/-- R376: how many pages of a type there are. -/
def pageCount : PageKind → Nat
  | .kiteCtl | .kiteArr | .kiteVec | .kiteEnv => 136
  | .trainCtl | .spool | .regulator | .winch | .burner | .reel => 8
  | .stackCtl | .stackErr | .stackChan => 16
  | .lineCtl | .lineLane => 32
  | .core => 4
  | .identity | .devCtl | .clocks | .thermal | .dfi | .governor | .precision | .memory | .plan | .fabric | .eventCtl
  | .security | .flash | .mac | .scoring | .cmdEngine | .timeBase | .haulDown | .trace => 1

/-- The page and the register of a field exist. -/
def Fld.valid (f : Fld) (inst i : Nat) : Bool := decide (inst < pageCount f.page) && decide (i < f.count)

/-- The key of a field's register bits: eight times its byte address, plus its lowest bit. -/
def Fld.key (f : Fld) (inst i : Nat) : Nat := 8 * (pageBase f.page inst + f.ofs + i * f.stride) + f.lo

/-- R389: the event source a page drives, the channel page none (it raises no events). -/
def pageSource (k : PageKind) (n : Nat) : Option Nat :=
  match k with
  | .kiteCtl => some (4 * n) | .kiteArr => some (4 * n + 1)
  | .kiteVec => some (4 * n + 2) | .kiteEnv => some (4 * n + 3)
  | .trainCtl => some (544 + 6 * n) | .spool => some (545 + 6 * n) | .regulator => some (546 + 6 * n)
  | .winch => some (547 + 6 * n) | .burner => some (548 + 6 * n) | .reel => some (549 + 6 * n)
  | .stackCtl => some (592 + 3 * n) | .stackErr => some (593 + 3 * n) | .stackChan => some (594 + 3 * n)
  | .lineCtl => some (640 + 2 * n) | .lineLane => some (641 + 2 * n)
  | .identity => some 704 | .devCtl => some 705 | .clocks => some 706 | .thermal => some 707
  | .dfi => some 708 | .governor => some 709 | .precision => some 710 | .memory => some 711
  | .plan => some 712 | .fabric => some 713 | .eventCtl => some 714 | .core => some (715 + n)
  | .security => some 719 | .flash => some 720 | .mac => some 721 | .scoring => some 722
  | .cmdEngine => some 723 | .timeBase => some 724 | .haulDown => some 725 | .trace => some 726

/-- The page that drives a source below 727 (R389), the inverse of `pageSource`. -/
def sourcePage (n : Nat) : Option Page :=
  if n < 544 then
    some ⟨if n % 4 = 0 then .kiteCtl else if n % 4 = 1 then .kiteArr else if n % 4 = 2 then .kiteVec else .kiteEnv, n / 4⟩
  else if n < 592 then
    let j := (n - 544) % 6
    some ⟨if j = 0 then .trainCtl else if j = 1 then .spool else if j = 2 then .regulator
          else if j = 3 then .winch else if j = 4 then .burner else .reel, (n - 544) / 6⟩
  else if n < 640 then
    let j := (n - 592) % 3
    some ⟨if j = 0 then .stackCtl else if j = 1 then .stackErr else .stackChan, (n - 592) / 3⟩
  else if n < 704 then
    some ⟨if (n - 640) % 2 = 0 then .lineCtl else .lineLane, (n - 640) / 2⟩
  else match n with
    | 704 => some ⟨.identity, 0⟩ | 705 => some ⟨.devCtl, 0⟩ | 706 => some ⟨.clocks, 0⟩ | 707 => some ⟨.thermal, 0⟩
    | 708 => some ⟨.dfi, 0⟩ | 709 => some ⟨.governor, 0⟩ | 710 => some ⟨.precision, 0⟩ | 711 => some ⟨.memory, 0⟩
    | 712 => some ⟨.plan, 0⟩ | 713 => some ⟨.fabric, 0⟩ | 714 => some ⟨.eventCtl, 0⟩
    | 715 => some ⟨.core, 0⟩ | 716 => some ⟨.core, 1⟩ | 717 => some ⟨.core, 2⟩ | 718 => some ⟨.core, 3⟩
    | 719 => some ⟨.security, 0⟩ | 720 => some ⟨.flash, 0⟩ | 721 => some ⟨.mac, 0⟩ | 722 => some ⟨.scoring, 0⟩
    | 723 => some ⟨.cmdEngine, 0⟩ | 724 => some ⟨.timeBase, 0⟩ | 725 => some ⟨.haulDown, 0⟩ | 726 => some ⟨.trace, 0⟩
    | _ => none

/-- The device pages and core pages below 0x0100_0000, by page number. -/
def devicePage (pn : Nat) : Option Page :=
  match pn with
  | 0x00 => some ⟨.identity, 0⟩ | 0x01 => some ⟨.devCtl, 0⟩ | 0x02 => some ⟨.clocks, 0⟩
  | 0x03 => some ⟨.thermal, 0⟩ | 0x04 => some ⟨.dfi, 0⟩ | 0x05 => some ⟨.governor, 0⟩
  | 0x06 => some ⟨.precision, 0⟩ | 0x07 => some ⟨.memory, 0⟩ | 0x08 => some ⟨.plan, 0⟩
  | 0x09 => some ⟨.fabric, 0⟩ | 0x10 => some ⟨.eventCtl, 0⟩
  | 0x11 => some ⟨.core, 0⟩ | 0x12 => some ⟨.core, 1⟩ | 0x13 => some ⟨.core, 2⟩ | 0x14 => some ⟨.core, 3⟩
  | 0x18 => some ⟨.security, 0⟩ | 0x19 => some ⟨.flash, 0⟩ | 0x20 => some ⟨.mac, 0⟩
  | 0x21 => some ⟨.scoring, 0⟩ | 0x22 => some ⟨.cmdEngine, 0⟩ | 0x30 => some ⟨.timeBase, 0⟩
  | 0x31 => some ⟨.haulDown, 0⟩ | 0x32 => some ⟨.trace, 0⟩
  | _ => none

def kitePageKind (p : Nat) : PageKind :=
  if p = 0 then .kiteCtl else if p = 1 then .kiteArr else if p = 2 then .kiteVec else .kiteEnv

def stackPageKind (p : Nat) : Option PageKind :=
  if p = 0 then some .stackCtl else if p = 1 then some .stackErr else if p = 2 then some .stackChan else none

/-- The page of train `t` at page number `r` (0 to 255) of the train's megabyte (R376). -/
def trainPage (t r : Nat) : Option Page :=
  if r < 6 then
    some ⟨if r = 0 then .trainCtl else if r = 1 then .spool else if r = 2 then .regulator
          else if r = 3 then .winch else if r = 4 then .burner else .reel, t⟩
  else if 0x40 ≤ r ∧ r < 0x40 + 68 then some ⟨kitePageKind ((r - 0x40) % 4), 17 * t + (r - 0x40) / 4⟩
  else if 0xC0 ≤ r ∧ r < 0xC3 then (stackPageKind (r - 0xC0)).map (⟨·, 2 * t⟩)
  else if 0xE0 ≤ r ∧ r < 0xE3 then (stackPageKind (r - 0xE0)).map (⟨·, 2 * t + 1⟩)
  else none

/-- R376: the page that holds a byte address, a logical kite's alias pages resolved by `phys` (the live kite map).
`none` is R375's UNMAPPED. -/
def pageOf (phys : Nat → Nat) (addr : Nat) : Option Page :=
  let pn := addr / 0x1000
  if pn < 0x1000 then devicePage pn
  else if pn < 0x1800 then trainPage ((pn - 0x1000) / 0x100) ((pn - 0x1000) % 0x100)
  else if 0x2000 ≤ pn ∧ pn < 0x2040 then
    some ⟨if pn % 2 = 0 then .lineCtl else .lineLane, (pn - 0x2000) / 2⟩
  else if 0x4000 ≤ pn ∧ pn < 0x4200 then some ⟨kitePageKind (pn % 4), phys ((pn - 0x4000) / 4)⟩
  else none

/-- R379 HAS_BALLAST and R399: the page types whose BALLAST_MAP is used, core 0 among the core pages. -/
def hasBallast (p : Page) : Bool :=
  match p.kind with
  | .trainCtl | .stackCtl | .stackErr | .lineLane | .kiteCtl | .spool | .thermal => true
  | .core => p.inst == 0
  | _ => false

end Sys2Proof.Machine
end

