-- ==== Sys2Proof/Machine/RegMap.lean ====
section
/-! DEFINITION. The register map: every register field the spec's register tables list, with its page type,
offset, position, access type, reset value and whether the user defaults image may override it (00 R14, R15), and
every page event. One definition per field, named REGISTER_FIELD as the tables name them; an array of registers is
one definition with a count and a stride. -/

namespace Sys2Proof.Machine

namespace Reg

/-! ### page identity (12_host_port_and_registers.md) -/
def ID_PART_PRODUCT : Fld := { page := .identity, ofs := 0x40, lo := 16, len := 16, kind := .ro, dflt := .const 1846 }
def ID_PART_STEPPING : Fld := { page := .identity, ofs := 0x40, lo := 8, len := 8, kind := .ro, dflt := .stepping }
def ID_PART_MODULE_ISSUE : Fld := { page := .identity, ofs := 0x40, lo := 0, len := 8, kind := .ro, dflt := .issue }
def ID_SERIAL_LO : Fld := { page := .identity, ofs := 0x44, lo := 0, len := 32, kind := .ro, dflt := .serialLo }
def ID_SERIAL_HI : Fld := { page := .identity, ofs := 0x48, lo := 0, len := 32, kind := .ro, dflt := .serialHi }
def MAC_ADDR_LO : Fld := { page := .identity, ofs := 0x4c, lo := 0, len := 32, kind := .ro, dflt := .macLo }
def MAC_ADDR_HI : Fld := { page := .identity, ofs := 0x50, lo := 0, len := 16, kind := .ro, dflt := .macHi }

/-! ### page devCtl (16_start_up_and_trust.md) -/
def DEV_STAT_STATE : Fld := { page := .devCtl, ofs := 0x40, lo := 28, len := 4, kind := .ro, dflt := .const 0 }
def DEV_STAT_CAUSE : Fld := { page := .devCtl, ofs := 0x40, lo := 24, len := 4, kind := .ro, dflt := .const 0 }
def DEV_STAT_BOOT_MS : Fld := { page := .devCtl, ofs := 0x40, lo := 0, len := 16, kind := .ro, dflt := .const 0 }
def DEV_RST_KEY : Fld := { page := .devCtl, ofs := 0x44, lo := 16, len := 16, kind := .wo, dflt := .const 0 }
def DEV_RST_RESET : Fld := { page := .devCtl, ofs := 0x44, lo := 0, len := 1, kind := .wo, dflt := .const 0 }

/-! ### page clocks (17_module.md) -/
def CLK_KITE_FREQ_MHZ : Fld := { page := .clocks, ofs := 0x40, lo := 16, len := 16, kind := .ro, dflt := .const 1500 }
def CLK_KITE_CAUSE : Fld := { page := .clocks, ofs := 0x40, lo := 14, len := 2, kind := .ro, dflt := .const 0 }
def CLK_ISL_MEM_MHZ : Fld := { page := .clocks, ofs := 0x44, lo := 16, len := 16, kind := .ro, dflt := .const 1550 }
def CLK_ISL_LINE_MHZ : Fld := { page := .clocks, ofs := 0x44, lo := 0, len := 16, kind := .ro, dflt := .const 1600 }
def CLK_REF_REF_OK : Fld := { page := .clocks, ofs := 0x48, lo := 31, len := 1, kind := .ro, dflt := .const 0 }
def CLK_REF_PLL_LOCK : Fld := { page := .clocks, ofs := 0x48, lo := 30, len := 1, kind := .ro, dflt := .const 0 }
def CLK_REF_MGMT_MHZ : Fld := { page := .clocks, ofs := 0x48, lo := 0, len := 16, kind := .ro, dflt := .const 800 }

/-! ### page thermal (17_module.md) -/
def PWR_IN_VIN : Fld := { page := .thermal, ofs := 0x40, lo := 16, len := 16, kind := .ro, dflt := .const 0 }
def PWR_IN_IIN : Fld := { page := .thermal, ofs := 0x40, lo := 0, len := 16, kind := .ro, dflt := .const 0 }
def PWR_AVG_AVG_100MS : Fld := { page := .thermal, ofs := 0x44, lo := 16, len := 16, kind := .ro, dflt := .const 0 }
def PWR_AVG_AVG_100US : Fld := { page := .thermal, ofs := 0x44, lo := 0, len := 16, kind := .ro, dflt := .const 0 }
def PWR_CAPS_PWR_CAP : Fld := { page := .thermal, ofs := 0x48, lo := 16, len := 16, kind := .rw, dflt := .const 2400, dagger := true }
def PWR_CAPS_PEAK_CAP : Fld := { page := .thermal, ofs := 0x48, lo := 0, len := 16, kind := .rw, dflt := .const 2600, dagger := true }
def THERM_DIE_MAX : Fld := { page := .thermal, ofs := 0x4c, lo := 24, len := 8, kind := .ro, dflt := .const 0 }
def THERM_DIE_THROTTLE : Fld := { page := .thermal, ofs := 0x4c, lo := 16, len := 8, kind := .rw, dflt := .const 95, dagger := true }
def THERM_COOL_IN : Fld := { page := .thermal, ofs := 0x4c, lo := 8, len := 8, kind := .ro, dflt := .const 0 }
def THERM_COOL_OUT : Fld := { page := .thermal, ofs := 0x4c, lo := 0, len := 8, kind := .ro, dflt := .const 0 }
def THERM_STAT_PWR_LIMIT : Fld := { page := .thermal, ofs := 0x50, lo := 31, len := 1, kind := .ro, dflt := .const 0 }
def THERM_STAT_THERM_LIMIT : Fld := { page := .thermal, ofs := 0x50, lo := 30, len := 1, kind := .ro, dflt := .const 0 }
def THERM_STAT_PEAK_LAPSED : Fld := { page := .thermal, ofs := 0x50, lo := 29, len := 1, kind := .ro, dflt := .const 0 }
def THERM_STAT_COOL_HOT : Fld := { page := .thermal, ofs := 0x50, lo := 28, len := 1, kind := .ro, dflt := .const 0 }
def PHASES_TOTAL : Fld := { page := .thermal, ofs := 0x54, lo := 24, len := 8, kind := .ro, dflt := .const 24 }
def PHASES_SHED : Fld := { page := .thermal, ofs := 0x54, lo := 16, len := 8, kind := .ro, dflt := .const 0 }
def PHASES_EFF_CAP : Fld := { page := .thermal, ofs := 0x54, lo := 0, len := 16, kind := .ro, dflt := .const 2400 }
def THROTTLE_TICKS_LO : Fld := { page := .thermal, ofs := 0x58, lo := 0, len := 32, kind := .sc, dflt := .const 0 }
def THROTTLE_TICKS_HI : Fld := { page := .thermal, ofs := 0x5c, lo := 0, len := 32, kind := .sc, dflt := .const 0 }

/-! ### page dfi (12_host_port_and_registers.md) -/
def DFI_STAT_STATE : Fld := { page := .dfi, ofs := 0x40, lo := 28, len := 4, kind := .ro, dflt := .const 0 }
def DFI_STAT_APPLIED : Fld := { page := .dfi, ofs := 0x40, lo := 11, len := 11, kind := .ro, dflt := .const 0 }
def DFI_STAT_REFUSED : Fld := { page := .dfi, ofs := 0x40, lo := 0, len := 11, kind := .ro, dflt := .const 0 }
def DFI_FIRST_REF_REASON : Fld := { page := .dfi, ofs := 0x44, lo := 30, len := 2, kind := .ro, dflt := .const 0 }
def DFI_FIRST_REF_RECORD : Fld := { page := .dfi, ofs := 0x44, lo := 0, len := 10, kind := .ro, dflt := .const 0 }
def DFI_OK_APPLIED : Fld := { page := .dfi, ofs := 0x100, lo := 0, len := 32, kind := .ro, dflt := .const 0, count := 32 }

/-! ### page governor (04_envelope_and_precision.md) -/
def GOV_CTL_GOV_EN : Fld := { page := .governor, ofs := 0x40, lo := 0, len := 1, kind := .rw, dflt := .const 1, dagger := true }
def GOV_STAT_UFLOW_WATCH_OFF : Fld := { page := .governor, ofs := 0x44, lo := 31, len := 1, kind := .ro, dflt := .const 0 }
def GOV_STAT_DIVERGED : Fld := { page := .governor, ofs := 0x44, lo := 30, len := 1, kind := .ro, dflt := .const 0 }
def GOV_STAT_TABLE_PHASE : Fld := { page := .governor, ofs := 0x44, lo := 8, len := 2, kind := .ro, dflt := .const 0 }
def GOV_STAT_STATS_PHASE : Fld := { page := .governor, ofs := 0x44, lo := 0, len := 2, kind := .ro, dflt := .const 0 }
def GOV_EVAL_STEP_STEP : Fld := { page := .governor, ofs := 0x48, lo := 0, len := 32, kind := .ro, dflt := .const 0 }
def GOV_LAT_TICKS : Fld := { page := .governor, ofs := 0x4c, lo := 0, len := 32, kind := .ro, dflt := .const 0 }
def GOV_DIGEST_DIGEST : Fld := { page := .governor, ofs := 0x50, lo := 0, len := 32, kind := .ro, dflt := .const 0 }
def UFW_CTL_UFW_EN : Fld := { page := .governor, ofs := 0x54, lo := 31, len := 1, kind := .rw, dflt := .const 1, dagger := true }
def UFW_CTL_UFW_WIDEN : Fld := { page := .governor, ofs := 0x54, lo := 30, len := 1, kind := .rw, dflt := .const 0, dagger := true }
def UFW_CTL_UFW_STREAK : Fld := { page := .governor, ofs := 0x54, lo := 16, len := 10, kind := .rw, dflt := .const 64, dagger := true }
def UFW_CTL_UFW_THRESH : Fld := { page := .governor, ofs := 0x54, lo := 0, len := 16, kind := .rw, dflt := .const 4096, dagger := true }
def UFW_ALARMS_ALARMS : Fld := { page := .governor, ofs := 0x58, lo := 0, len := 32, kind := .sc, dflt := .const 0 }
def UFW_LAST_STEP : Fld := { page := .governor, ofs := 0x5c, lo := 8, len := 24, kind := .ro, dflt := .const 0 }
def UFW_LAST_TAG : Fld := { page := .governor, ofs := 0x5c, lo := 0, len := 8, kind := .ro, dflt := .const 0 }
def GOV_FIRES_COUNT : Fld := { page := .governor, ofs := 0x60, lo := 0, len := 32, kind := .sc, dflt := .const 0 }
def GOV_CHANGES_COUNT : Fld := { page := .governor, ofs := 0x64, lo := 0, len := 32, kind := .sc, dflt := .const 0 }
def GOV_BOUND_COUNT : Fld := { page := .governor, ofs := 0x68, lo := 0, len := 32, kind := .sc, dflt := .const 0 }
def GOV_BLOCKED_COUNT : Fld := { page := .governor, ofs := 0x6c, lo := 0, len := 32, kind := .sc, dflt := .const 0 }
def GOV_LATE_COUNT : Fld := { page := .governor, ofs := 0x70, lo := 0, len := 32, kind := .sc, dflt := .const 0 }
def GOV_LAST_FIRE_RULE : Fld := { page := .governor, ofs := 0x74, lo := 26, len := 6, kind := .ro, dflt := .const 0 }
def GOV_LAST_FIRE_ACTION : Fld := { page := .governor, ofs := 0x74, lo := 23, len := 3, kind := .ro, dflt := .const 0 }
def GOV_LAST_FIRE_TAG : Fld := { page := .governor, ofs := 0x74, lo := 15, len := 8, kind := .ro, dflt := .const 0 }
def GOV_SV_IDX_AUTO_INC : Fld := { page := .governor, ofs := 0x78, lo := 31, len := 1, kind := .rw, dflt := .const 1 }
def GOV_SV_IDX_WORD : Fld := { page := .governor, ofs := 0x78, lo := 0, len := 15, kind := .rw, dflt := .const 0 }
def GOV_SV_DATA_DATA : Fld := { page := .governor, ofs := 0x7c, lo := 0, len := 32, kind := .rw, dflt := .const 0 }
def GOV_RULE_W0_EN : Fld := { page := .governor, ofs := 0x400, lo := 31, len := 1, kind := .rwc, dflt := .const 0, count := 64, stride := 16, dagger := true }
def GOV_RULE_W0_ACT : Fld := { page := .governor, ofs := 0x400, lo := 11, len := 17, kind := .rwc, dflt := .const 0, count := 64, stride := 16, dagger := true }
def GOV_RULE_W1_TAGS : Fld := { page := .governor, ofs := 0x404, lo := 8, len := 24, kind := .rwc, dflt := .const 0, count := 64, stride := 16, dagger := true }
def GOV_RULE_W1_BIN : Fld := { page := .governor, ofs := 0x404, lo := 0, len := 5, kind := .rwc, dflt := .const 0, count := 64, stride := 16, dagger := true }
def GOV_RULE_W2_THRESH : Fld := { page := .governor, ofs := 0x408, lo := 0, len := 16, kind := .rwc, dflt := .const 0, count := 64, stride := 16, dagger := true }
def GOV_RULE_W3_FIRES : Fld := { page := .governor, ofs := 0x40c, lo := 0, len := 32, kind := .sc, dflt := .const 0, count := 64, stride := 16 }

/-! ### page precision (04_envelope_and_precision.md) -/
def PT_VIEW_BANK : Fld := { page := .precision, ofs := 0x40, lo := 0, len := 1, kind := .rw, dflt := .const 0 }
def PT_EPOCH_EPOCH : Fld := { page := .precision, ofs := 0x44, lo := 0, len := 32, kind := .ro, dflt := .const 0 }
def PT_PEND_PENDING : Fld := { page := .precision, ofs := 0x48, lo := 0, len := 1, kind := .ro, dflt := .const 0 }
def PT_ENTRY_LOCK : Fld := { page := .precision, ofs := 0x400, lo := 31, len := 1, kind := .rwc, dflt := .const 0, count := 256 }
def PT_ENTRY_LEVEL : Fld := { page := .precision, ofs := 0x400, lo := 29, len := 2, kind := .rwc, dflt := .const 0, count := 256 }
def PT_ENTRY_LAD_LEN : Fld := { page := .precision, ofs := 0x400, lo := 26, len := 3, kind := .rwc, dflt := .const 0, count := 256 }
def PT_ENTRY_LADDER : Fld := { page := .precision, ofs := 0x400, lo := 0, len := 24, kind := .rwc, dflt := .const 0, count := 256 }
def TAG_MAP_ROLE : Fld := { page := .precision, ofs := 0x800, lo := 8, len := 2, kind := .rwc, dflt := .const 3, count := 256 }
def TAG_MAP_LAYER : Fld := { page := .precision, ofs := 0x800, lo := 0, len := 8, kind := .rwc, dflt := .const 0, count := 256 }
def TAG_SCALE_T : Fld := { page := .precision, ofs := 0xc00, lo := 0, len := 32, kind := .rwc, dflt := .const 1065353216, count := 256 }

/-! ### page memory (06_memory.md) -/
def MW_PHASE_WIN_PHASE : Fld := { page := .memory, ofs := 0x40, lo := 0, len := 20, kind := .rwc, dflt := .const 0 }
def MW_WORK_RETRAIN_PERIOD : Fld := { page := .memory, ofs := 0x44, lo := 16, len := 16, kind := .rw, dflt := .const 1024, dagger := true }
def MW_WORK_SCRUB_PER_WIN : Fld := { page := .memory, ofs := 0x44, lo := 0, len := 11, kind := .rw, dflt := .const 1024, dagger := true }
def MW_COUNT_WINDOWS : Fld := { page := .memory, ofs := 0x48, lo := 0, len := 32, kind := .sc, dflt := .const 0 }
def WIN_DEFERRED_DEFERRED : Fld := { page := .memory, ofs := 0x4c, lo := 0, len := 32, kind := .sc, dflt := .const 0 }
def MEM_THRESH_RETRAIN_CE : Fld := { page := .memory, ofs := 0x50, lo := 16, len := 16, kind := .rw, dflt := .const 64, dagger := true }
def MEM_THRESH_ROW_CE_THRESH : Fld := { page := .memory, ofs := 0x50, lo := 0, len := 8, kind := .rw, dflt := .const 4, dagger := true }
def MIG_CTL_MIG_EN : Fld := { page := .memory, ofs := 0x54, lo := 31, len := 1, kind := .rw, dflt := .const 1, dagger := true }
def MIG_CTL_MIG_INTERVALS : Fld := { page := .memory, ofs := 0x54, lo := 24, len := 4, kind := .rw, dflt := .const 3, dagger := true }
def MIG_CTL_MIG_SHARE : Fld := { page := .memory, ofs := 0x54, lo := 20, len := 4, kind := .rw, dflt := .const 8, dagger := true }
def MIG_CTL_MIG_CE_THRESH : Fld := { page := .memory, ofs := 0x54, lo := 0, len := 16, kind := .rw, dflt := .const 1000, dagger := true }
def HOST_PART_PART : Fld := { page := .memory, ofs := 0x58, lo := 0, len := 3, kind := .rw, dflt := .const 7, dagger := true }
def MEM_CAP_ADDR_GIB : Fld := { page := .memory, ofs := 0x5c, lo := 0, len := 16, kind := .ro, dflt := .const 736 }

/-! ### page plan (07_flight_plans.md) -/
def PLAN_BASE_BASE : Fld := { page := .plan, ofs := 0x40, lo := 0, len := 14, kind := .rw, dflt := .const 11775, dagger := true }
def PLAN_STAT_STATE : Fld := { page := .plan, ofs := 0x44, lo := 28, len := 4, kind := .ro, dflt := .const 0 }
def PLAN_STAT_REASON : Fld := { page := .plan, ofs := 0x44, lo := 16, len := 8, kind := .ro, dflt := .const 0 }
def PLAN_REJ_OFS_OFFSET : Fld := { page := .plan, ofs := 0x48, lo := 0, len := 32, kind := .ro, dflt := .const 0 }
def PLAN_CRC_CRC : Fld := { page := .plan, ofs := 0x4c, lo := 0, len := 32, kind := .ro, dflt := .const 0 }
def STEP_NUM_LO : Fld := { page := .plan, ofs := 0x50, lo := 0, len := 32, kind := .ro, dflt := .const 0 }
def STEP_NUM_HI : Fld := { page := .plan, ofs := 0x54, lo := 0, len := 32, kind := .ro, dflt := .const 0 }
def STEP_EPOCH_EPOCH : Fld := { page := .plan, ofs := 0x58, lo := 0, len := 32, kind := .ro, dflt := .const 0 }
def STEP_STAT_REPLAY_RUN : Fld := { page := .plan, ofs := 0x5c, lo := 8, len := 8, kind := .ro, dflt := .const 0 }
def STEP_STAT_STATE : Fld := { page := .plan, ofs := 0x5c, lo := 0, len := 4, kind := .ro, dflt := .const 0 }
def STEP_TICK_LO : Fld := { page := .plan, ofs := 0x60, lo := 0, len := 32, kind := .ro, dflt := .const 0 }
def STEP_TICK_HI : Fld := { page := .plan, ofs := 0x64, lo := 0, len := 32, kind := .ro, dflt := .const 0 }
def SEAL_TICK_LO : Fld := { page := .plan, ofs := 0x68, lo := 0, len := 32, kind := .ro, dflt := .const 0 }
def SEAL_TICK_HI : Fld := { page := .plan, ofs := 0x6c, lo := 0, len := 32, kind := .ro, dflt := .const 0 }
def SEALS_COUNT : Fld := { page := .plan, ofs := 0x70, lo := 0, len := 32, kind := .sc, dflt := .const 0 }
def REPLAYS_COUNT : Fld := { page := .plan, ofs := 0x74, lo := 0, len := 32, kind := .sc, dflt := .const 0 }
def STEP_SLIPS_COUNT : Fld := { page := .plan, ofs := 0x78, lo := 0, len := 32, kind := .sc, dflt := .const 0 }
def REPLAY_MAX_MAX : Fld := { page := .plan, ofs := 0x7c, lo := 0, len := 4, kind := .rw, dflt := .const 3, dagger := true }
def STEP_CMD_COMMIT : Fld := { page := .plan, ofs := 0x80, lo := 3, len := 1, kind := .wo, dflt := .const 0 }
def STEP_CMD_LOAD : Fld := { page := .plan, ofs := 0x80, lo := 2, len := 1, kind := .wo, dflt := .const 0 }
def STEP_CMD_STOP : Fld := { page := .plan, ofs := 0x80, lo := 1, len := 1, kind := .wo, dflt := .const 0 }
def STEP_CMD_START : Fld := { page := .plan, ofs := 0x80, lo := 0, len := 1, kind := .wo, dflt := .const 0 }
def START_TICK_LO : Fld := { page := .plan, ofs := 0x84, lo := 0, len := 32, kind := .rw, dflt := .const 0 }
def START_TICK_HI : Fld := { page := .plan, ofs := 0x88, lo := 0, len := 32, kind := .rw, dflt := .const 0 }
def WS_TABLE_BASE : Fld := { page := .plan, ofs := 0x8c, lo := 0, len := 28, kind := .rwc, dflt := .const 0 }
def RANK_PAIR_PAIR_VALID : Fld := { page := .plan, ofs := 0x90, lo := 31, len := 1, kind := .rwc, dflt := .const 0 }
def RANK_PAIR_ROLE : Fld := { page := .plan, ofs := 0x90, lo := 30, len := 1, kind := .rwc, dflt := .const 0 }
def RANK_PAIR_PARTNER : Fld := { page := .plan, ofs := 0x90, lo := 0, len := 12, kind := .rwc, dflt := .const 0 }
def RECOV_STAT_HANDED : Fld := { page := .plan, ofs := 0x94, lo := 31, len := 1, kind := .ro, dflt := .const 0 }
def RECOV_STAT_COVERING : Fld := { page := .plan, ofs := 0x94, lo := 30, len := 1, kind := .ro, dflt := .const 0 }
def RECOV_STAT_PLAN_UE : Fld := { page := .plan, ofs := 0x94, lo := 29, len := 1, kind := .ro, dflt := .const 0 }
def RECOV_STAT_LAST_RUNG : Fld := { page := .plan, ofs := 0x94, lo := 0, len := 2, kind := .ro, dflt := .const 0 }
def PLAN_UE_CMD_PLAN_UE_DONE : Fld := { page := .plan, ofs := 0x98, lo := 0, len := 1, kind := .wo, dflt := .const 0 }
def REC_COUNT_COUNT : Fld := { page := .plan, ofs := 0xa0, lo := 0, len := 32, kind := .sc, dflt := .const 0, count := 4 }
def RESTORED_COUNT : Fld := { page := .plan, ofs := 0xb0, lo := 0, len := 32, kind := .sc, dflt := .const 0 }
def HANDOVERS_COUNT : Fld := { page := .plan, ofs := 0xb4, lo := 0, len := 32, kind := .sc, dflt := .const 0 }
def SVC_HOURS_COUNT : Fld := { page := .plan, ofs := 0xb8, lo := 0, len := 32, kind := .ro, dflt := .const 0 }
def WEAR_HOT_COUNT : Fld := { page := .plan, ofs := 0xbc, lo := 0, len := 32, kind := .ro, dflt := .const 0 }

/-! ### page fabric (08_fabric.md) -/
def FAB_DEVNUM_ASSIGNED : Fld := { page := .fabric, ofs := 0x40, lo := 31, len := 1, kind := .rw, dflt := .const 0, dagger := true }
def FAB_DEVNUM_DEVNUM : Fld := { page := .fabric, ofs := 0x40, lo := 0, len := 12, kind := .rw, dflt := .const 0, dagger := true }
def FAB_STAT_DISC_STATE : Fld := { page := .fabric, ofs := 0x44, lo := 28, len := 4, kind := .ro, dflt := .const 0 }
def FAB_STAT_LINES_UP : Fld := { page := .fabric, ofs := 0x44, lo := 0, len := 6, kind := .ro, dflt := .const 0 }
def FAB_CTL_PEER_RD_EN : Fld := { page := .fabric, ofs := 0x48, lo := 31, len := 1, kind := .rw, dflt := .const 1, dagger := true }
def FAB_CTL_PEER_WR_EN : Fld := { page := .fabric, ofs := 0x48, lo := 30, len := 1, kind := .rw, dflt := .const 0, dagger := true }
def FAB_CTL_RX_PART : Fld := { page := .fabric, ofs := 0x48, lo := 16, len := 3, kind := .rw, dflt := .const 7, dagger := true }
def FAB_CTL_DISC_TIMEOUT : Fld := { page := .fabric, ofs := 0x48, lo := 0, len := 10, kind := .rw, dflt := .const 500, dagger := true }
def FAB_CMD_DISCOVER : Fld := { page := .fabric, ofs := 0x4c, lo := 0, len := 1, kind := .wo, dflt := .const 0 }
def FAB_TB_TB_MASTER : Fld := { page := .fabric, ofs := 0x50, lo := 16, len := 12, kind := .rw, dflt := .const 0, dagger := true }
def FAB_TB_TB_BACKUP : Fld := { page := .fabric, ofs := 0x50, lo := 0, len := 12, kind := .rw, dflt := .const 1, dagger := true }
def ROUTE_CTL_AUTO_INC : Fld := { page := .fabric, ofs := 0x54, lo := 9, len := 1, kind := .rw, dflt := .const 1 }
def ROUTE_CTL_BANK : Fld := { page := .fabric, ofs := 0x54, lo := 8, len := 1, kind := .rw, dflt := .const 0 }
def ROUTE_INDEX_INDEX : Fld := { page := .fabric, ofs := 0x58, lo := 0, len := 12, kind := .rw, dflt := .const 0 }
def ROUTE_DATA_ENTRY : Fld := { page := .fabric, ofs := 0x5c, lo := 0, len := 32, kind := .rwc, dflt := .const 0 }
def NO_ROUTE_COUNT : Fld := { page := .fabric, ofs := 0x60, lo := 0, len := 32, kind := .sc, dflt := .const 0 }
def BAD_EP_COUNT : Fld := { page := .fabric, ofs := 0x64, lo := 0, len := 32, kind := .sc, dflt := .const 0 }
def ORDER_DROPS_COUNT : Fld := { page := .fabric, ofs := 0x68, lo := 0, len := 32, kind := .sc, dflt := .const 0 }
def STALE_DROPS_COUNT : Fld := { page := .fabric, ofs := 0x6c, lo := 0, len := 32, kind := .sc, dflt := .const 0 }
def PERSIST_HITS_COUNT : Fld := { page := .fabric, ofs := 0x70, lo := 0, len := 32, kind := .sc, dflt := .const 0 }
def RANGE_DROPS_COUNT : Fld := { page := .fabric, ofs := 0x74, lo := 0, len := 32, kind := .sc, dflt := .const 0 }
def NBR_VALID : Fld := { page := .fabric, ofs := 0x100, lo := 31, len := 1, kind := .ro, dflt := .const 0, count := 32 }
def NBR_PEER_ASSIGNED : Fld := { page := .fabric, ofs := 0x100, lo := 30, len := 1, kind := .ro, dflt := .const 0, count := 32 }
def NBR_PEER_DEV : Fld := { page := .fabric, ofs := 0x100, lo := 16, len := 12, kind := .ro, dflt := .const 0, count := 32 }
def NBR_PEER_LINE : Fld := { page := .fabric, ofs := 0x100, lo := 8, len := 5, kind := .ro, dflt := .const 0, count := 32 }
def NBR_PEER_DIST : Fld := { page := .fabric, ofs := 0x100, lo := 0, len := 5, kind := .ro, dflt := .const 31, count := 32 }

/-! ### page eventCtl (13_events.md) -/
def EC_SEL_AUTO_INC : Fld := { page := .eventCtl, ofs := 0x40, lo := 31, len := 1, kind := .rw, dflt := .const 1 }
def EC_SEL_SRC : Fld := { page := .eventCtl, ofs := 0x40, lo := 0, len := 10, kind := .rw, dflt := .const 0 }
def EC_CFG_DATA : Fld := { page := .eventCtl, ofs := 0x44, lo := 0, len := 32, kind := .rw, dflt := .const 0 }
def EC_CORE_CORE_EN : Fld := { page := .eventCtl, ofs := 0x48, lo := 0, len := 4, kind := .rw, dflt := .const 1 }
def EC_CLAIM_VALID : Fld := { page := .eventCtl, ofs := 0x50, lo := 31, len := 1, kind := .ro, dflt := .const 0, count := 4 }
def EC_CLAIM_SOURCE : Fld := { page := .eventCtl, ofs := 0x50, lo := 0, len := 10, kind := .ro, dflt := .const 0, count := 4 }
def EC_EOI_SOURCE : Fld := { page := .eventCtl, ofs := 0x60, lo := 0, len := 10, kind := .wo, dflt := .const 0, count := 4 }
def STRAY_EOI_COUNT : Fld := { page := .eventCtl, ofs := 0x70, lo := 0, len := 32, kind := .sc, dflt := .const 0 }
def LATE_MASK_COUNT : Fld := { page := .eventCtl, ofs := 0x74, lo := 0, len := 32, kind := .sc, dflt := .const 0 }
def GLITCH_REJ_COUNT : Fld := { page := .eventCtl, ofs := 0x78, lo := 0, len := 32, kind := .sc, dflt := .const 0 }
def PIN_EDGES_COUNT : Fld := { page := .eventCtl, ofs := 0x7c, lo := 0, len := 32, kind := .sc, dflt := .const 0, count := 3 }
def EC_PEND_BITS : Fld := { page := .eventCtl, ofs := 0x100, lo := 0, len := 32, kind := .rw, dflt := .const 0, count := 32 }
def EC_MASK_BITS : Fld := { page := .eventCtl, ofs := 0x180, lo := 0, len := 32, kind := .rw, dflt := .const 4294967295, count := 32 }
def EC_RAW_BITS : Fld := { page := .eventCtl, ofs := 0x200, lo := 0, len := 32, kind := .ro, dflt := .const 0, count := 32 }
def EC_ACTIVE_BITS : Fld := { page := .eventCtl, ofs := 0x280, lo := 0, len := 32, kind := .ro, dflt := .const 0, count := 32 }
def EC_TMR_CMP_LO_CMP : Fld := { page := .eventCtl, ofs := 0x300, lo := 0, len := 32, kind := .rw, dflt := .const 0, count := 16, stride := 16 }
def EC_TMR_CMP_HI_CMP : Fld := { page := .eventCtl, ofs := 0x304, lo := 0, len := 32, kind := .rw, dflt := .const 0, count := 16, stride := 16 }
def EC_TMR_PERIOD_PERIOD : Fld := { page := .eventCtl, ofs := 0x308, lo := 0, len := 32, kind := .rw, dflt := .const 0, count := 16, stride := 16 }
def EC_TMR_EN_EN : Fld := { page := .eventCtl, ofs := 0x30c, lo := 0, len := 1, kind := .rw, dflt := .const 0, count := 16, stride := 16 }

/-! ### page core (16_start_up_and_trust.md) -/
def CORE_STAT_ROLE : Fld := { page := .core, ofs := 0x40, lo := 28, len := 4, kind := .ro, dflt := .own }
def CORE_STAT_STATE : Fld := { page := .core, ofs := 0x40, lo := 20, len := 4, kind := .ro, dflt := .const 0 }
def CORE_STAT_VERSION : Fld := { page := .core, ofs := 0x40, lo := 0, len := 16, kind := .ro, dflt := .const 0 }

/-! ### page security (16_start_up_and_trust.md) -/
def SEC_STAT_RECOVERY : Fld := { page := .security, ofs := 0x40, lo := 31, len := 1, kind := .ro, dflt := .const 0 }
def SEC_STAT_LOG_OVERFLOW : Fld := { page := .security, ofs := 0x40, lo := 30, len := 1, kind := .ro, dflt := .const 0 }
def SEC_STAT_RNG_FAIL : Fld := { page := .security, ofs := 0x40, lo := 29, len := 1, kind := .ro, dflt := .const 0 }
def SEC_STAT_USER_KEY_SET : Fld := { page := .security, ofs := 0x40, lo := 28, len := 1, kind := .ro, dflt := .const 0 }
def SEC_STAT_BOOT_ERR : Fld := { page := .security, ofs := 0x40, lo := 0, len := 8, kind := .ro, dflt := .const 0 }
def SEC_SVN_SVN_MIN : Fld := { page := .security, ofs := 0x44, lo := 16, len := 16, kind := .ro, dflt := .const 0 }
def SEC_SVN_SVN_RUN : Fld := { page := .security, ofs := 0x44, lo := 0, len := 16, kind := .ro, dflt := .const 0 }
def MR_SEL_MR : Fld := { page := .security, ofs := 0x48, lo := 4, len := 4, kind := .rw, dflt := .const 0 }
def MR_SEL_WORD : Fld := { page := .security, ofs := 0x48, lo := 0, len := 4, kind := .rw, dflt := .const 0 }
def MR_WIN_DATA : Fld := { page := .security, ofs := 0x4c, lo := 0, len := 32, kind := .ro, dflt := .const 0 }
def LOG_COUNT_COUNT : Fld := { page := .security, ofs := 0x50, lo := 0, len := 32, kind := .ro, dflt := .const 0 }
def LOG_SEL_ENTRY : Fld := { page := .security, ofs := 0x54, lo := 16, len := 16, kind := .rw, dflt := .const 0 }
def LOG_SEL_WORD : Fld := { page := .security, ofs := 0x54, lo := 0, len := 4, kind := .rw, dflt := .const 0 }
def LOG_WIN_DATA : Fld := { page := .security, ofs := 0x58, lo := 0, len := 32, kind := .ro, dflt := .const 0 }
def MR_EXT_DIGEST : Fld := { page := .security, ofs := 0x60, lo := 0, len := 32, kind := .wo, dflt := .const 0, count := 8 }
def SEC_CMD_KEY : Fld := { page := .security, ofs := 0x80, lo := 16, len := 16, kind := .wo, dflt := .const 0 }
def SEC_CMD_SVN_BURN : Fld := { page := .security, ofs := 0x80, lo := 2, len := 1, kind := .wo, dflt := .const 0 }
def SEC_CMD_UKH_BURN : Fld := { page := .security, ofs := 0x80, lo := 1, len := 1, kind := .wo, dflt := .const 0 }
def SEC_CMD_EXTEND : Fld := { page := .security, ofs := 0x80, lo := 0, len := 1, kind := .wo, dflt := .const 0 }
def ATT_COUNT_COUNT : Fld := { page := .security, ofs := 0x84, lo := 0, len := 32, kind := .sc, dflt := .const 0 }
def USER_KEY_HASH_HASH : Fld := { page := .security, ofs := 0x100, lo := 0, len := 32, kind := .rw, dflt := .const 0, count := 8 }

/-! ### page flash (16_start_up_and_trust.md) -/
def FL_ADDR_ADDR : Fld := { page := .flash, ofs := 0x40, lo := 0, len := 27, kind := .rw, dflt := .const 0 }
def FL_DATA_DATA : Fld := { page := .flash, ofs := 0x44, lo := 0, len := 32, kind := .rw, dflt := .const 0 }
def FL_CMD_SEG : Fld := { page := .flash, ofs := 0x48, lo := 4, len := 4, kind := .wo, dflt := .const 0 }
def FL_CMD_COMMIT : Fld := { page := .flash, ofs := 0x48, lo := 1, len := 1, kind := .wo, dflt := .const 0 }
def FL_CMD_ERASE : Fld := { page := .flash, ofs := 0x48, lo := 0, len := 1, kind := .wo, dflt := .const 0 }
def FL_STAT_BUSY : Fld := { page := .flash, ofs := 0x4c, lo := 31, len := 1, kind := .ro, dflt := .const 0 }
def FL_STAT_RESULT : Fld := { page := .flash, ofs := 0x4c, lo := 0, len := 8, kind := .ro, dflt := .const 0 }
def FW_CMD_SWAP : Fld := { page := .flash, ofs := 0x50, lo := 1, len := 1, kind := .wo, dflt := .const 0 }
def FW_CMD_STAGE : Fld := { page := .flash, ofs := 0x50, lo := 0, len := 1, kind := .wo, dflt := .const 0 }
def FW_STAT_PHASE : Fld := { page := .flash, ofs := 0x54, lo := 28, len := 4, kind := .ro, dflt := .const 0 }
def FW_STAT_MIXED : Fld := { page := .flash, ofs := 0x54, lo := 27, len := 1, kind := .ro, dflt := .const 0 }
def FW_STAT_STAGED_VER : Fld := { page := .flash, ofs := 0x54, lo := 0, len := 16, kind := .ro, dflt := .const 0 }
def SVC_STAT_SVC_FULL : Fld := { page := .flash, ofs := 0x58, lo := 31, len := 1, kind := .ro, dflt := .const 0 }
def SVC_STAT_SVC_LOST : Fld := { page := .flash, ofs := 0x58, lo := 0, len := 31, kind := .ro, dflt := .const 0 }

/-! ### page mac (12_host_port_and_registers.md) -/
def PORT_CFG_MEDIA : Fld := { page := .mac, ofs := 0x40, lo := 30, len := 2, kind := .rw, dflt := .const 0, dagger := true }
def PORT_CFG_VLAN_FILT : Fld := { page := .mac, ofs := 0x40, lo := 29, len := 1, kind := .rw, dflt := .const 0, dagger := true }
def PORT_CFG_VID : Fld := { page := .mac, ofs := 0x40, lo := 0, len := 12, kind := .rw, dflt := .const 0, dagger := true }
def PORT_STAT_LINK : Fld := { page := .mac, ofs := 0x44, lo := 31, len := 1, kind := .ro, dflt := .const 0 }
def PORT_STAT_FEC_LOCK : Fld := { page := .mac, ofs := 0x44, lo := 30, len := 1, kind := .ro, dflt := .const 0 }
def RX_FRAMES_COUNT : Fld := { page := .mac, ofs := 0x48, lo := 0, len := 32, kind := .sc, dflt := .const 0 }
def RX_FCS_ERR_COUNT : Fld := { page := .mac, ofs := 0x4c, lo := 0, len := 32, kind := .sc, dflt := .const 0 }
def RX_FILTERED_COUNT : Fld := { page := .mac, ofs := 0x50, lo := 0, len := 32, kind := .sc, dflt := .const 0 }
def TX_FRAMES_COUNT : Fld := { page := .mac, ofs := 0x54, lo := 0, len := 32, kind := .sc, dflt := .const 0 }
def PORT_FEC_CE_COUNT : Fld := { page := .mac, ofs := 0x58, lo := 0, len := 32, kind := .sc, dflt := .const 0 }
def PORT_FEC_UE_COUNT : Fld := { page := .mac, ofs := 0x5c, lo := 0, len := 32, kind := .sc, dflt := .const 0 }
def PAUSE_RX_COUNT : Fld := { page := .mac, ofs := 0x60, lo := 0, len := 32, kind := .sc, dflt := .const 0 }
def PFC_TX_COUNT : Fld := { page := .mac, ofs := 0x64, lo := 0, len := 32, kind := .sc, dflt := .const 0 }

/-! ### page scoring (11_inline_scoring.md) -/
def SC_CTL_EN : Fld := { page := .scoring, ofs := 0x40, lo := 31, len := 1, kind := .rw, dflt := .const 0, dagger := true }
def SC_CTL_UDP_EN : Fld := { page := .scoring, ofs := 0x40, lo := 30, len := 1, kind := .rw, dflt := .const 0, dagger := true }
def SC_CTL_WL_PART : Fld := { page := .scoring, ofs := 0x40, lo := 27, len := 3, kind := .rw, dflt := .const 7, dagger := true }
def SC_CTL_PFC_PRIO : Fld := { page := .scoring, ofs := 0x40, lo := 24, len := 3, kind := .rw, dflt := .const 3, dagger := true }
def SC_CTL_UDP_PORT : Fld := { page := .scoring, ofs := 0x40, lo := 0, len := 16, kind := .rw, dflt := .const 0, dagger := true }
def SC_PART_TRAIN : Fld := { page := .scoring, ofs := 0x44, lo := 16, len := 3, kind := .rwc, dflt := .const 0 }
def SC_PART_KMASK : Fld := { page := .scoring, ofs := 0x44, lo := 0, len := 16, kind := .rwc, dflt := .const 0 }
def SC_STAT_PREEMPT : Fld := { page := .scoring, ofs := 0x48, lo := 31, len := 1, kind := .ro, dflt := .const 0 }
def SC_STAT_PFC_ACTIVE : Fld := { page := .scoring, ofs := 0x48, lo := 30, len := 1, kind := .ro, dflt := .const 0 }
def SC_STAT_WL_BUSY : Fld := { page := .scoring, ofs := 0x48, lo := 29, len := 1, kind := .ro, dflt := .const 0 }
def SC_STAT_V_BUSY : Fld := { page := .scoring, ofs := 0x48, lo := 28, len := 1, kind := .ro, dflt := .const 0 }
def SC_STAT_CAL_USED : Fld := { page := .scoring, ofs := 0x48, lo := 0, len := 11, kind := .ro, dflt := .const 0 }
def SC_DSEL_AUTO_INC : Fld := { page := .scoring, ofs := 0x50, lo := 31, len := 1, kind := .rw, dflt := .const 1 }
def SC_DSEL_BANK : Fld := { page := .scoring, ofs := 0x50, lo := 30, len := 1, kind := .rw, dflt := .const 0 }
def SC_DSEL_SLOT : Fld := { page := .scoring, ofs := 0x50, lo := 8, len := 4, kind := .rw, dflt := .const 0 }
def SC_DSEL_WORD : Fld := { page := .scoring, ofs := 0x50, lo := 0, len := 6, kind := .rw, dflt := .const 0 }
def SC_DWIN_DATA : Fld := { page := .scoring, ofs := 0x54, lo := 0, len := 32, kind := .rwc, dflt := .const 0 }
def SC_DCMD_VALIDATE : Fld := { page := .scoring, ofs := 0x58, lo := 4, len := 1, kind := .wo, dflt := .const 0 }
def SC_DCMD_SLOT : Fld := { page := .scoring, ofs := 0x58, lo := 0, len := 4, kind := .wo, dflt := .const 0 }
def SC_VRES_OK : Fld := { page := .scoring, ofs := 0x5c, lo := 31, len := 1, kind := .ro, dflt := .const 0 }
def SC_VRES_SLOT : Fld := { page := .scoring, ofs := 0x5c, lo := 24, len := 4, kind := .ro, dflt := .const 0 }
def SC_VRES_CODE : Fld := { page := .scoring, ofs := 0x5c, lo := 16, len := 8, kind := .ro, dflt := .const 0 }
def SC_VRES_LAYER : Fld := { page := .scoring, ofs := 0x5c, lo := 0, len := 4, kind := .ro, dflt := .const 0 }
def SC_WL_SRC_LO_SRC : Fld := { page := .scoring, ofs := 0x60, lo := 0, len := 32, kind := .rw, dflt := .const 0 }
def SC_WL_SRC_HI_KITE : Fld := { page := .scoring, ofs := 0x64, lo := 16, len := 4, kind := .rw, dflt := .const 0 }
def SC_WL_SRC_HI_SRC_HI : Fld := { page := .scoring, ofs := 0x64, lo := 0, len := 8, kind := .rw, dflt := .const 0 }
def SC_WL_DST_DST : Fld := { page := .scoring, ofs := 0x68, lo := 0, len := 23, kind := .rw, dflt := .const 0 }
def SC_WL_LEN_LEN : Fld := { page := .scoring, ofs := 0x6c, lo := 0, len := 23, kind := .rw, dflt := .const 0 }
def SC_WL_CMD_GO : Fld := { page := .scoring, ofs := 0x70, lo := 0, len := 1, kind := .wo, dflt := .const 0 }
def SC_REQS_COUNT : Fld := { page := .scoring, ofs := 0x80, lo := 0, len := 32, kind := .sc, dflt := .const 0 }
def SC_OK_COUNT : Fld := { page := .scoring, ofs := 0x84, lo := 0, len := 32, kind := .sc, dflt := .const 0 }
def SC_BUSY_COUNT : Fld := { page := .scoring, ofs := 0x88, lo := 0, len := 32, kind := .sc, dflt := .const 0 }
def SC_BADS_COUNT : Fld := { page := .scoring, ofs := 0x8c, lo := 0, len := 32, kind := .sc, dflt := .const 0 }
def SC_FAULTS_COUNT : Fld := { page := .scoring, ofs := 0x90, lo := 0, len := 32, kind := .sc, dflt := .const 0 }
def SC_RUNTS_COUNT : Fld := { page := .scoring, ofs := 0x94, lo := 0, len := 32, kind := .sc, dflt := .const 0 }
def SC_LOST_COUNT : Fld := { page := .scoring, ofs := 0x98, lo := 0, len := 32, kind := .sc, dflt := .const 0 }
def SWAP_SKIPS_COUNT : Fld := { page := .scoring, ofs := 0x9c, lo := 0, len := 32, kind := .sc, dflt := .const 0 }
def SC_HALTED_COUNT : Fld := { page := .scoring, ofs := 0xa0, lo := 0, len := 32, kind := .sc, dflt := .const 0 }
def SC_FAULT_KITE : Fld := { page := .scoring, ofs := 0xa4, lo := 28, len := 4, kind := .ro, dflt := .const 0 }
def SC_FAULT_SLOT : Fld := { page := .scoring, ofs := 0xa4, lo := 24, len := 4, kind := .ro, dflt := .const 0 }
def SC_FAULT_CODE : Fld := { page := .scoring, ofs := 0xa4, lo := 0, len := 8, kind := .ro, dflt := .const 0 }
def SC_SLOT_LIVE : Fld := { page := .scoring, ofs := 0x100, lo := 31, len := 1, kind := .ro, dflt := .const 0, count := 16 }
def SC_SLOT_SHADOW_OK : Fld := { page := .scoring, ofs := 0x100, lo := 30, len := 1, kind := .ro, dflt := .const 0, count := 16 }
def SC_SLOT_RETIRING : Fld := { page := .scoring, ofs := 0x100, lo := 29, len := 1, kind := .ro, dflt := .const 0, count := 16 }
def SC_SLOT_STALE : Fld := { page := .scoring, ofs := 0x100, lo := 28, len := 1, kind := .ro, dflt := .const 0, count := 16 }
def SC_SLOT_COST_C : Fld := { page := .scoring, ofs := 0x100, lo := 16, len := 10, kind := .ro, dflt := .const 0, count := 16 }
def SC_SLOT_VERSION : Fld := { page := .scoring, ofs := 0x100, lo := 0, len := 16, kind := .ro, dflt := .const 0, count := 16 }
def SC_LAT_COUNT : Fld := { page := .scoring, ofs := 0x140, lo := 0, len := 32, kind := .sc, dflt := .const 0, count := 16 }

/-! ### page cmdEngine (12_host_port_and_registers.md) -/
def CE_CTL_CE_UDP_EN : Fld := { page := .cmdEngine, ofs := 0x40, lo := 31, len := 1, kind := .rw, dflt := .const 0, dagger := true }
def CE_CTL_SB_WR_EN : Fld := { page := .cmdEngine, ofs := 0x40, lo := 30, len := 1, kind := .rw, dflt := .const 0, dagger := true }
def CE_CTL_EVT_RETX : Fld := { page := .cmdEngine, ofs := 0x40, lo := 16, len := 10, kind := .rw, dflt := .const 100, dagger := true }
def CE_CTL_CE_UDP_PORT : Fld := { page := .cmdEngine, ofs := 0x40, lo := 0, len := 16, kind := .rw, dflt := .const 0, dagger := true }
def CE_EXP_X : Fld := { page := .cmdEngine, ofs := 0x44, lo := 0, len := 32, kind := .ro, dflt := .const 0, count := 4 }
def EVT_NEXT_SEQ : Fld := { page := .cmdEngine, ofs := 0x54, lo := 0, len := 32, kind := .ro, dflt := .const 0 }
def CE_BAD_COUNT : Fld := { page := .cmdEngine, ofs := 0x58, lo := 0, len := 32, kind := .sc, dflt := .const 0 }
def CE_DUPS_COUNT : Fld := { page := .cmdEngine, ofs := 0x5c, lo := 0, len := 32, kind := .sc, dflt := .const 0 }
def CE_WINDOW_COUNT : Fld := { page := .cmdEngine, ofs := 0x60, lo := 0, len := 32, kind := .sc, dflt := .const 0 }
def EVT_OUT_COUNT : Fld := { page := .cmdEngine, ofs := 0x64, lo := 0, len := 32, kind := .ro, dflt := .const 0 }
def EVT_FWD_LOST_COUNT : Fld := { page := .cmdEngine, ofs := 0x68, lo := 0, len := 32, kind := .sc, dflt := .const 0 }
def BULK_LOST_COUNT : Fld := { page := .cmdEngine, ofs := 0x6c, lo := 0, len := 32, kind := .sc, dflt := .const 0 }

/-! ### page timeBase (07_flight_plans.md) -/
def TB_NOW_LO_NOW : Fld := { page := .timeBase, ofs := 0x40, lo := 0, len := 32, kind := .ro, dflt := .const 0 }
def TB_NOW_HI_NOW : Fld := { page := .timeBase, ofs := 0x44, lo := 0, len := 32, kind := .ro, dflt := .const 0 }
def TB_SYNC_LOCKED : Fld := { page := .timeBase, ofs := 0x48, lo := 31, len := 1, kind := .ro, dflt := .const 0 }
def TB_SYNC_LOADED : Fld := { page := .timeBase, ofs := 0x48, lo := 30, len := 1, kind := .ro, dflt := .const 0 }
def TB_SYNC_MASTER : Fld := { page := .timeBase, ofs := 0x48, lo := 16, len := 12, kind := .ro, dflt := .const 0 }
def TB_SYNC_OFFSET : Fld := { page := .timeBase, ofs := 0x48, lo := 0, len := 8, kind := .ro, dflt := .const 0 }
def TB_CMD_MEASURE : Fld := { page := .timeBase, ofs := 0x4c, lo := 0, len := 1, kind := .wo, dflt := .const 0 }
def TB_MEAS_SEL_SEL : Fld := { page := .timeBase, ofs := 0x50, lo := 0, len := 5, kind := .rw, dflt := .const 0 }
def TB_MEAS_TICK_LO_TICK : Fld := { page := .timeBase, ofs := 0x54, lo := 0, len := 32, kind := .ro, dflt := .const 0 }
def TB_MEAS_TICK_HI_TICK : Fld := { page := .timeBase, ofs := 0x58, lo := 0, len := 32, kind := .ro, dflt := .const 0 }
def TB_MEAS_VAL_LO_VAL : Fld := { page := .timeBase, ofs := 0x5c, lo := 0, len := 32, kind := .ro, dflt := .const 0 }
def TB_MEAS_VAL_HI_VAL : Fld := { page := .timeBase, ofs := 0x60, lo := 0, len := 32, kind := .ro, dflt := .const 0 }
def TB_MEAS_AT_LO : Fld := { page := .timeBase, ofs := 0x64, lo := 0, len := 32, kind := .ro, dflt := .const 0 }
def TB_MEAS_AT_HI : Fld := { page := .timeBase, ofs := 0x68, lo := 0, len := 32, kind := .ro, dflt := .const 0 }

/-! ### page haulDown (15_observability_and_haul_down.md) -/
def HD_CTL_LEAD_FAB : Fld := { page := .haulDown, ofs := 0x40, lo := 16, len := 16, kind := .rw, dflt := .const 2000, dagger := true }
def HD_CTL_LEAD_CHIP : Fld := { page := .haulDown, ofs := 0x40, lo := 0, len := 8, kind := .rw, dflt := .const 64, dagger := true }
def HD_TRIP_EVT_EN : Fld := { page := .haulDown, ofs := 0x44, lo := 31, len := 1, kind := .rw, dflt := .const 0, dagger := true }
def HD_TRIP_EVT_SRC : Fld := { page := .haulDown, ofs := 0x44, lo := 16, len := 10, kind := .rw, dflt := .const 0, dagger := true }
def HD_TRIP_UE_HALT : Fld := { page := .haulDown, ofs := 0x44, lo := 3, len := 1, kind := .rw, dflt := .const 0, dagger := true }
def HD_TRIP_MODE_SKEW : Fld := { page := .haulDown, ofs := 0x44, lo := 2, len := 1, kind := .rw, dflt := .const 0, dagger := true }
def HD_TRIP_NAN_TRAP : Fld := { page := .haulDown, ofs := 0x44, lo := 1, len := 1, kind := .rw, dflt := .const 0, dagger := true }
def HD_TRIP_FABRIC : Fld := { page := .haulDown, ofs := 0x44, lo := 0, len := 1, kind := .rw, dflt := .const 0, dagger := true }
def HD_DEBUG_BASE : Fld := { page := .haulDown, ofs := 0x48, lo := 0, len := 12, kind := .rw, dflt := .const 2942, dagger := true }
def HD_CMD_ALL : Fld := { page := .haulDown, ofs := 0x4c, lo := 4, len := 1, kind := .wo, dflt := .const 0 }
def HD_CMD_ABANDON : Fld := { page := .haulDown, ofs := 0x4c, lo := 3, len := 1, kind := .wo, dflt := .const 0 }
def HD_CMD_RELEASE : Fld := { page := .haulDown, ofs := 0x4c, lo := 2, len := 1, kind := .wo, dflt := .const 0 }
def HD_CMD_HAUL : Fld := { page := .haulDown, ofs := 0x4c, lo := 1, len := 1, kind := .wo, dflt := .const 0 }
def HD_CMD_FABRIC : Fld := { page := .haulDown, ofs := 0x4c, lo := 0, len := 1, kind := .wo, dflt := .const 0 }
def HD_REL_LO : Fld := { page := .haulDown, ofs := 0x50, lo := 0, len := 32, kind := .rw, dflt := .const 0 }
def HD_REL_HI : Fld := { page := .haulDown, ofs := 0x54, lo := 0, len := 32, kind := .rw, dflt := .const 0 }
def HD_STAT_STATE : Fld := { page := .haulDown, ofs := 0x58, lo := 28, len := 4, kind := .ro, dflt := .const 0 }
def HD_STAT_LATE : Fld := { page := .haulDown, ofs := 0x58, lo := 27, len := 1, kind := .ro, dflt := .const 0 }
def HD_STAT_INCOMPLETE : Fld := { page := .haulDown, ofs := 0x58, lo := 26, len := 1, kind := .ro, dflt := .const 0 }
def HD_STAT_FABRIC : Fld := { page := .haulDown, ofs := 0x58, lo := 25, len := 1, kind := .ro, dflt := .const 0 }
def HD_STAT_DUMP_BUSY : Fld := { page := .haulDown, ofs := 0x58, lo := 24, len := 1, kind := .ro, dflt := .const 0 }
def HD_STAT_ORIGIN : Fld := { page := .haulDown, ofs := 0x58, lo := 0, len := 12, kind := .ro, dflt := .const 0 }
def HD_CAUSE_CAUSE : Fld := { page := .haulDown, ofs := 0x5c, lo := 28, len := 4, kind := .ro, dflt := .const 0 }
def HD_CAUSE_SOURCE : Fld := { page := .haulDown, ofs := 0x5c, lo := 0, len := 10, kind := .ro, dflt := .const 0 }
def HD_CUT_LO : Fld := { page := .haulDown, ofs := 0x60, lo := 0, len := 32, kind := .ro, dflt := .const 0 }
def HD_CUT_HI : Fld := { page := .haulDown, ofs := 0x64, lo := 0, len := 32, kind := .ro, dflt := .const 0 }
def HD_RESUMED_LO : Fld := { page := .haulDown, ofs := 0x68, lo := 0, len := 32, kind := .ro, dflt := .const 0 }
def HD_RESUMED_HI : Fld := { page := .haulDown, ofs := 0x6c, lo := 0, len := 32, kind := .ro, dflt := .const 0 }
def HD_LINES_OPEN_LINES : Fld := { page := .haulDown, ofs := 0x70, lo := 0, len := 32, kind := .ro, dflt := .const 0 }
def HD_DUMP_SLOT : Fld := { page := .haulDown, ofs := 0x74, lo := 16, len := 5, kind := .rw, dflt := .const 0 }
def HD_DUMP_LOGICAL : Fld := { page := .haulDown, ofs := 0x74, lo := 8, len := 7, kind := .rw, dflt := .const 0 }
def HD_DUMP_GO : Fld := { page := .haulDown, ofs := 0x74, lo := 0, len := 1, kind := .wo, dflt := .const 0 }
def HD_MARK_TO_US : Fld := { page := .haulDown, ofs := 0x78, lo := 0, len := 10, kind := .rw, dflt := .const 100, dagger := true }
def HAULS_COUNT : Fld := { page := .haulDown, ofs := 0x80, lo := 0, len := 32, kind := .sc, dflt := .const 0 }
def HAULS_IGNORED_COUNT : Fld := { page := .haulDown, ofs := 0x84, lo := 0, len := 32, kind := .sc, dflt := .const 0 }
def HAUL_OTHER_COUNT : Fld := { page := .haulDown, ofs := 0x88, lo := 0, len := 32, kind := .sc, dflt := .const 0 }
def LATE_CUTS_COUNT : Fld := { page := .haulDown, ofs := 0x8c, lo := 0, len := 32, kind := .sc, dflt := .const 0 }
def MARK_TIMEOUTS_COUNT : Fld := { page := .haulDown, ofs := 0x90, lo := 0, len := 32, kind := .sc, dflt := .const 0 }
def LATE_RELEASES_COUNT : Fld := { page := .haulDown, ofs := 0x94, lo := 0, len := 32, kind := .sc, dflt := .const 0 }

/-! ### page trace (15_observability_and_haul_down.md) -/
def TR_CTL_TRAINS : Fld := { page := .trace, ofs := 0x40, lo := 24, len := 8, kind := .rw, dflt := .const 0, dagger := true }
def TR_CTL_CLASSES : Fld := { page := .trace, ofs := 0x40, lo := 16, len := 8, kind := .rw, dflt := .const 255, dagger := true }
def TR_CTL_STOP_FULL : Fld := { page := .trace, ofs := 0x40, lo := 8, len := 1, kind := .rw, dflt := .const 0, dagger := true }
def TR_CTL_PART : Fld := { page := .trace, ofs := 0x40, lo := 0, len := 3, kind := .rw, dflt := .const 7, dagger := true }
def TR_BASE_BASE : Fld := { page := .trace, ofs := 0x44, lo := 0, len := 18, kind := .rw, dflt := .const 0, dagger := true }
def TR_HEAD_WRAPPED : Fld := { page := .trace, ofs := 0x48, lo := 31, len := 1, kind := .ro, dflt := .const 0, count := 8 }
def TR_HEAD_OFFSET : Fld := { page := .trace, ofs := 0x48, lo := 0, len := 22, kind := .ro, dflt := .const 0, count := 8 }
def TR_DROPS_DROPS : Fld := { page := .trace, ofs := 0x68, lo := 0, len := 32, kind := .sc, dflt := .const 0, count := 8 }
def OPC_SEL_UNIT : Fld := { page := .trace, ofs := 0x88, lo := 8, len := 1, kind := .rw, dflt := .const 0 }
def OPC_SEL_LOGICAL : Fld := { page := .trace, ofs := 0x88, lo := 0, len := 7, kind := .rw, dflt := .const 0 }
def OPC_CUR_CYCLES_V : Fld := { page := .trace, ofs := 0x8c, lo := 0, len := 32, kind := .ro, dflt := .const 0 }
def OPC_CUR_HOLDS_V : Fld := { page := .trace, ofs := 0x90, lo := 0, len := 32, kind := .ro, dflt := .const 0 }
def OPC_CUR_SLIP_V : Fld := { page := .trace, ofs := 0x94, lo := 0, len := 32, kind := .ro, dflt := .const 0 }
def OPC_SNAP_CYCLES_V : Fld := { page := .trace, ofs := 0x98, lo := 0, len := 32, kind := .ro, dflt := .const 0 }
def OPC_SNAP_HOLDS_V : Fld := { page := .trace, ofs := 0x9c, lo := 0, len := 32, kind := .ro, dflt := .const 0 }
def OPC_SNAP_SLIP_V : Fld := { page := .trace, ofs := 0xa0, lo := 0, len := 32, kind := .ro, dflt := .const 0 }
def OPC_SNAP_OP_V : Fld := { page := .trace, ofs := 0xa4, lo := 0, len := 32, kind := .ro, dflt := .const 0 }
def OPC_CUR_OP_V : Fld := { page := .trace, ofs := 0xa8, lo := 0, len := 32, kind := .ro, dflt := .const 0 }

/-! ### page trainCtl (14_spares_and_recovery.md) -/
def TRN_KMAP_SLOT : Fld := { page := .trainCtl, ofs := 0x40, lo := 0, len := 5, kind := .rwc, dflt := .index, count := 16 }
def TRN_BALLAST_USED : Fld := { page := .trainCtl, ofs := 0x80, lo := 31, len := 1, kind := .ro, dflt := .const 0 }
def TRN_BALLAST_SLOT : Fld := { page := .trainCtl, ofs := 0x80, lo := 0, len := 5, kind := .ro, dflt := .const 16 }
def TRN_CMD_REPLACE : Fld := { page := .trainCtl, ofs := 0x84, lo := 8, len := 1, kind := .wo, dflt := .const 0 }
def TRN_CMD_LOGICAL : Fld := { page := .trainCtl, ofs := 0x84, lo := 0, len := 4, kind := .wo, dflt := .const 0 }
def TRN_KSTAT_FAILED : Fld := { page := .trainCtl, ofs := 0x88, lo := 0, len := 17, kind := .ro, dflt := .const 0 }
def KITE_HANG_TICKS : Fld := { page := .trainCtl, ofs := 0x8c, lo := 0, len := 32, kind := .rw, dflt := .const 10000000, dagger := true }

/-! ### page spool (06_memory.md) -/
def SPOOL_CTL_LAST_EN : Fld := { page := .spool, ofs := 0x40, lo := 4, len := 1, kind := .rw, dflt := .const 1, dagger := true }
def SPOOL_CTL_KEEP_MAX : Fld := { page := .spool, ofs := 0x40, lo := 0, len := 4, kind := .rw, dflt := .const 8, dagger := true }
def SPOOL_CMD_UNPIN_ALL : Fld := { page := .spool, ofs := 0x44, lo := 0, len := 1, kind := .wo, dflt := .const 0 }
def SPOOL_SPARE_WAY_DISABLED : Fld := { page := .spool, ofs := 0x48, lo := 16, len := 16, kind := .ro, dflt := .const 0 }
def SPOOL_SPARE_SPARE_USED : Fld := { page := .spool, ofs := 0x48, lo := 0, len := 16, kind := .ro, dflt := .const 0 }
def KEEP_PINNED_PINNED : Fld := { page := .spool, ofs := 0x4c, lo := 0, len := 18, kind := .ro, dflt := .const 0 }
def SP_HITS_LO : Fld := { page := .spool, ofs := 0x50, lo := 0, len := 32, kind := .sc, dflt := .const 0 }
def SP_HITS_HI : Fld := { page := .spool, ofs := 0x54, lo := 0, len := 32, kind := .sc, dflt := .const 0 }
def SP_MISSES_LO : Fld := { page := .spool, ofs := 0x58, lo := 0, len := 32, kind := .sc, dflt := .const 0 }
def SP_MISSES_HI : Fld := { page := .spool, ofs := 0x5c, lo := 0, len := 32, kind := .sc, dflt := .const 0 }
def SP_WRITEBACKS_COUNT : Fld := { page := .spool, ofs := 0x60, lo := 0, len := 32, kind := .sc, dflt := .const 0 }
def LAST_DIRTY_DROPS_COUNT : Fld := { page := .spool, ofs := 0x64, lo := 0, len := 32, kind := .sc, dflt := .const 0 }
def LAST_ON_KEEP_COUNT : Fld := { page := .spool, ofs := 0x68, lo := 0, len := 32, kind := .sc, dflt := .const 0 }
def KEEP_DENIED_COUNT : Fld := { page := .spool, ofs := 0x6c, lo := 0, len := 32, kind := .sc, dflt := .const 0 }
def SP_REFETCH_COUNT : Fld := { page := .spool, ofs := 0x70, lo := 0, len := 32, kind := .sc, dflt := .const 0 }

/-! ### page regulator (06_memory.md) -/
def REG_CFG_EN : Fld := { page := .regulator, ofs := 0x40, lo := 31, len := 1, kind := .rwc, dflt := .const 0, count := 8, dagger := true }
def REG_CFG_BURST : Fld := { page := .regulator, ofs := 0x40, lo := 16, len := 15, kind := .rwc, dflt := .const 4096, count := 8, dagger := true }
def REG_CFG_RATE : Fld := { page := .regulator, ofs := 0x40, lo := 0, len := 15, kind := .rwc, dflt := .const 31744, count := 8, dagger := true }
def REG_TOKENS_UNITS : Fld := { page := .regulator, ofs := 0x60, lo := 0, len := 26, kind := .ro, dflt := .const 4194304, count := 8 }
def REG_STALLS_STALLS : Fld := { page := .regulator, ofs := 0x80, lo := 0, len := 32, kind := .sc, dflt := .const 0, count := 8 }

/-! ### page winch (09_gradient_reduction.md) -/
def WN_STAT_BUSY : Fld := { page := .winch, ofs := 0x40, lo := 31, len := 1, kind := .ro, dflt := .const 0 }
def WN_STAT_PHASE : Fld := { page := .winch, ofs := 0x40, lo := 28, len := 3, kind := .ro, dflt := .const 0 }
def WN_STAT_CTX : Fld := { page := .winch, ofs := 0x40, lo := 21, len := 3, kind := .ro, dflt := .const 0 }
def WN_STAT_SEG : Fld := { page := .winch, ofs := 0x40, lo := 0, len := 21, kind := .ro, dflt := .const 0 }
def WN_DESC_BASE_BASE : Fld := { page := .winch, ofs := 0x44, lo := 0, len := 32, kind := .rwc, dflt := .const 0 }
def WN_FAULT_RECORD : Fld := { page := .winch, ofs := 0x48, lo := 8, len := 24, kind := .ro, dflt := .const 0 }
def WN_FAULT_CODE : Fld := { page := .winch, ofs := 0x48, lo := 0, len := 8, kind := .ro, dflt := .const 0 }
def WN_CMD_NAN_CLR : Fld := { page := .winch, ofs := 0x4c, lo := 1, len := 1, kind := .wo, dflt := .const 0 }
def WN_CMD_FAULT_CLR : Fld := { page := .winch, ofs := 0x4c, lo := 0, len := 1, kind := .wo, dflt := .const 0 }
def WN_LAT_WIRE_BYTES : Fld := { page := .winch, ofs := 0x50, lo := 16, len := 16, kind := .ro, dflt := .const 256 }
def WN_LAT_FIX_LAT : Fld := { page := .winch, ofs := 0x50, lo := 0, len := 16, kind := .ro, dflt := .const 40 }
def SEGS_COMBINED_COUNT : Fld := { page := .winch, ofs := 0x54, lo := 0, len := 32, kind := .sc, dflt := .const 0 }
def SCALE_RAISED_COUNT : Fld := { page := .winch, ofs := 0x58, lo := 0, len := 32, kind := .sc, dflt := .const 0 }
def WN_CLIPS_COUNT : Fld := { page := .winch, ofs := 0x5c, lo := 0, len := 32, kind := .sc, dflt := .const 0 }
def WN_OF_COUNT : Fld := { page := .winch, ofs := 0x60, lo := 0, len := 32, kind := .sc, dflt := .const 0 }
def NAN_ELEMS_COUNT : Fld := { page := .winch, ofs := 0x64, lo := 0, len := 32, kind := .sc, dflt := .const 0 }
def WAIT_TICKS_COUNT : Fld := { page := .winch, ofs := 0x68, lo := 0, len := 32, kind := .sc, dflt := .const 0 }
def BACKUP_TAKEN_COUNT : Fld := { page := .winch, ofs := 0x6c, lo := 0, len := 32, kind := .sc, dflt := .const 0 }
def DUP_DISCARDS_COUNT : Fld := { page := .winch, ofs := 0x70, lo := 0, len := 32, kind := .sc, dflt := .const 0 }
def PROTO_DROPS_COUNT : Fld := { page := .winch, ofs := 0x74, lo := 0, len := 32, kind := .sc, dflt := .const 0 }
def WN_NAN_INFO_VALID : Fld := { page := .winch, ofs := 0x78, lo := 31, len := 1, kind := .ro, dflt := .const 0 }
def WN_NAN_INFO_RANK : Fld := { page := .winch, ofs := 0x78, lo := 16, len := 12, kind := .ro, dflt := .const 0 }
def WN_NAN_INFO_DESC : Fld := { page := .winch, ofs := 0x78, lo := 0, len := 16, kind := .ro, dflt := .const 0 }
def WN_NAN_ELEM_ELEM : Fld := { page := .winch, ofs := 0x7c, lo := 0, len := 32, kind := .ro, dflt := .const 0 }
def WN_NAN_STEP_STEP : Fld := { page := .winch, ofs := 0x80, lo := 0, len := 32, kind := .ro, dflt := .const 0 }
def SCALE_CLAMPED_COUNT : Fld := { page := .winch, ofs := 0x84, lo := 0, len := 32, kind := .sc, dflt := .const 0 }
def NAN_GROUPS_GROUPS : Fld := { page := .winch, ofs := 0x100, lo := 0, len := 32, kind := .ro, dflt := .const 0, count := 8 }
def NAN_SEALED_GROUPS : Fld := { page := .winch, ofs := 0x120, lo := 0, len := 32, kind := .ro, dflt := .const 0, count := 8 }
def WG_CFG_W0_VALID : Fld := { page := .winch, ofs := 0x200, lo := 31, len := 1, kind := .rwc, dflt := .const 0, count := 8, stride := 16 }
def WG_CFG_W0_ROLE : Fld := { page := .winch, ofs := 0x200, lo := 30, len := 1, kind := .rwc, dflt := .const 0, count := 8, stride := 16 }
def WG_CFG_W0_SIZE : Fld := { page := .winch, ofs := 0x200, lo := 12, len := 13, kind := .rwc, dflt := .const 0, count := 8, stride := 16 }
def WG_CFG_W0_RANK_POS : Fld := { page := .winch, ofs := 0x200, lo := 0, len := 12, kind := .rwc, dflt := .const 0, count := 8, stride := 16 }
def WG_CFG_W1_NEXT_B_VALID : Fld := { page := .winch, ofs := 0x204, lo := 31, len := 1, kind := .rwc, dflt := .const 0, count := 8, stride := 16 }
def WG_CFG_W1_NEXT_B : Fld := { page := .winch, ofs := 0x204, lo := 12, len := 12, kind := .rwc, dflt := .const 0, count := 8, stride := 16 }
def WG_CFG_W1_NEXT_P : Fld := { page := .winch, ofs := 0x204, lo := 0, len := 12, kind := .rwc, dflt := .const 0, count := 8, stride := 16 }
def WG_CFG_W2_PREV_B_VALID : Fld := { page := .winch, ofs := 0x208, lo := 31, len := 1, kind := .rwc, dflt := .const 0, count := 8, stride := 16 }
def WG_CFG_W2_PREV_B : Fld := { page := .winch, ofs := 0x208, lo := 12, len := 12, kind := .rwc, dflt := .const 0, count := 8, stride := 16 }
def WG_CFG_W2_PREV_P : Fld := { page := .winch, ofs := 0x208, lo := 0, len := 12, kind := .rwc, dflt := .const 0, count := 8, stride := 16 }
def WG_CFG_W3_STAGE_ADDR : Fld := { page := .winch, ofs := 0x20c, lo := 0, len := 28, kind := .rwc, dflt := .const 0, count := 8, stride := 16 }

/-! ### page burner (10_parameter_update.md) -/
def BN_STAT_BUSY : Fld := { page := .burner, ofs := 0x40, lo := 31, len := 1, kind := .ro, dflt := .const 0 }
def BN_STAT_PHASE : Fld := { page := .burner, ofs := 0x40, lo := 28, len := 3, kind := .ro, dflt := .const 0 }
def BN_STAT_RECORD : Fld := { page := .burner, ofs := 0x40, lo := 0, len := 24, kind := .ro, dflt := .const 0 }
def BN_DESC_BASE_BASE : Fld := { page := .burner, ofs := 0x44, lo := 0, len := 32, kind := .rwc, dflt := .const 0 }
def BN_FAULT_RECORD : Fld := { page := .burner, ofs := 0x48, lo := 8, len := 24, kind := .ro, dflt := .const 0 }
def BN_FAULT_CODE : Fld := { page := .burner, ofs := 0x48, lo := 0, len := 8, kind := .ro, dflt := .const 0 }
def BN_CMD_FAULT_CLR : Fld := { page := .burner, ofs := 0x4c, lo := 0, len := 1, kind := .wo, dflt := .const 0 }
def BN_PROGRESS_ELEM : Fld := { page := .burner, ofs := 0x50, lo := 0, len := 32, kind := .ro, dflt := .const 0 }
def UPDATES_COUNT : Fld := { page := .burner, ofs := 0x54, lo := 0, len := 32, kind := .sc, dflt := .const 0 }
def NAN_SKIPS_COUNT : Fld := { page := .burner, ofs := 0x58, lo := 0, len := 32, kind := .sc, dflt := .const 0 }
def BLOCK_FALLBACK_COUNT : Fld := { page := .burner, ofs := 0x5c, lo := 0, len := 32, kind := .sc, dflt := .const 0 }
def REFACTORS_COUNT : Fld := { page := .burner, ofs := 0x60, lo := 0, len := 32, kind := .sc, dflt := .const 0 }
def DAMP_RAISES_COUNT : Fld := { page := .burner, ofs := 0x64, lo := 0, len := 32, kind := .sc, dflt := .const 0 }
def BN_CLIPS_COUNT : Fld := { page := .burner, ofs := 0x68, lo := 0, len := 32, kind := .sc, dflt := .const 0 }
def WC_CLIPS_COUNT : Fld := { page := .burner, ofs := 0x6c, lo := 0, len := 32, kind := .sc, dflt := .const 0 }
def UPD_NONFINITE_COUNT : Fld := { page := .burner, ofs := 0x70, lo := 0, len := 32, kind := .sc, dflt := .const 0 }
def WC_REWRITES_COUNT : Fld := { page := .burner, ofs := 0x74, lo := 0, len := 32, kind := .sc, dflt := .const 0 }
def REEL_WAITS_COUNT : Fld := { page := .burner, ofs := 0x78, lo := 0, len := 32, kind := .sc, dflt := .const 0 }
def BN_GSEL_AUTO_INC : Fld := { page := .burner, ofs := 0x80, lo := 31, len := 1, kind := .rw, dflt := .const 1 }
def BN_GSEL_BANK : Fld := { page := .burner, ofs := 0x80, lo := 30, len := 1, kind := .rw, dflt := .const 0 }
def BN_GSEL_GROUP : Fld := { page := .burner, ofs := 0x80, lo := 5, len := 8, kind := .rw, dflt := .const 0 }
def BN_GSEL_WORD : Fld := { page := .burner, ofs := 0x80, lo := 0, len := 5, kind := .rw, dflt := .const 0 }
def BN_GWIN_DATA : Fld := { page := .burner, ofs := 0x84, lo := 0, len := 32, kind := .rw, dflt := .const 0 }
def BN_GINVALID_GROUPS : Fld := { page := .burner, ofs := 0x88, lo := 0, len := 32, kind := .ro, dflt := .const 0, count := 8 }

/-! ### page reel (10_parameter_update.md) -/
def LR_BASE_LR_BASE : Fld := { page := .reel, ofs := 0x40, lo := 0, len := 32, kind := .rwc, dflt := .const 0 }
def RL_SEL_GROUP : Fld := { page := .reel, ofs := 0x44, lo := 0, len := 8, kind := .rw, dflt := .const 0 }
def RL_LAT_CYCLES : Fld := { page := .reel, ofs := 0x48, lo := 0, len := 8, kind := .ro, dflt := .const 64 }
def RL_LR_VALUE : Fld := { page := .reel, ofs := 0x4c, lo := 0, len := 32, kind := .ro, dflt := .const 0 }
def RL_A_VALUE : Fld := { page := .reel, ofs := 0x50, lo := 0, len := 32, kind := .ro, dflt := .const 0 }
def RL_B_VALUE : Fld := { page := .reel, ofs := 0x54, lo := 0, len := 32, kind := .ro, dflt := .const 0 }
def RL_DEC_VALUE : Fld := { page := .reel, ofs := 0x58, lo := 0, len := 32, kind := .ro, dflt := .const 0 }
def RL_C1_VALUE : Fld := { page := .reel, ofs := 0x5c, lo := 0, len := 32, kind := .ro, dflt := .const 0 }
def RL_C2_VALUE : Fld := { page := .reel, ofs := 0x60, lo := 0, len := 32, kind := .ro, dflt := .const 0 }
def RL_STEP_STEP : Fld := { page := .reel, ofs := 0x64, lo := 0, len := 32, kind := .ro, dflt := .const 0 }

/-! ### page kiteCtl (01_kite_array.md) -/
def KITE_ID_BALLAST : Fld := { page := .kiteCtl, ofs := 0x40, lo := 31, len := 1, kind := .ro, dflt := .const 0 }
def KITE_ID_ACTIVE : Fld := { page := .kiteCtl, ofs := 0x40, lo := 30, len := 1, kind := .ro, dflt := .const 0 }
def KITE_ID_SLOT : Fld := { page := .kiteCtl, ofs := 0x40, lo := 16, len := 5, kind := .ro, dflt := .const 0 }
def KITE_ID_TRAIN : Fld := { page := .kiteCtl, ofs := 0x40, lo := 8, len := 3, kind := .ro, dflt := .const 0 }
def KITE_ID_LOGICAL : Fld := { page := .kiteCtl, ofs := 0x40, lo := 0, len := 7, kind := .ro, dflt := .const 0 }
def KITE_STATE_STATE : Fld := { page := .kiteCtl, ofs := 0x44, lo := 0, len := 4, kind := .ro, dflt := .kiteState }
def LIVE_EPOCH_EPOCH : Fld := { page := .kiteCtl, ofs := 0x48, lo := 0, len := 32, kind := .ro, dflt := .const 0 }
def KITE_CLK_THROTTLED : Fld := { page := .kiteCtl, ofs := 0x4c, lo := 16, len := 1, kind := .ro, dflt := .const 0 }
def KITE_CLK_FREQ_MHZ : Fld := { page := .kiteCtl, ofs := 0x4c, lo := 0, len := 16, kind := .ro, dflt := .const 1500 }
def KITE_FAULT_OP_INDEX : Fld := { page := .kiteCtl, ofs := 0x50, lo := 8, len := 24, kind := .ro, dflt := .const 0 }
def KITE_FAULT_CODE : Fld := { page := .kiteCtl, ofs := 0x50, lo := 0, len := 8, kind := .ro, dflt := .const 0 }
def OPS_BASE_BASE : Fld := { page := .kiteCtl, ofs := 0x54, lo := 0, len := 32, kind := .rwc, dflt := .const 0 }
def OPS_COUNT_COUNT : Fld := { page := .kiteCtl, ofs := 0x58, lo := 0, len := 32, kind := .rwc, dflt := .const 0 }
def PLAN_PC_PC : Fld := { page := .kiteCtl, ofs := 0x5c, lo := 0, len := 32, kind := .ro, dflt := .const 0 }
def SLIP_COUNT_SLIPS : Fld := { page := .kiteCtl, ofs := 0x60, lo := 0, len := 32, kind := .sc, dflt := .const 0 }
def ACC_BASE_ACC_BASE : Fld := { page := .kiteCtl, ofs := 0x64, lo := 12, len := 11, kind := .rwc, dflt := .const 0 }
def ACC_SIZE_ACC_SIZE : Fld := { page := .kiteCtl, ofs := 0x68, lo := 0, len := 12, kind := .rwc, dflt := .const 0 }
def SP_SPARE_SPARE_TOTAL : Fld := { page := .kiteCtl, ofs := 0x6c, lo := 16, len := 16, kind := .ro, dflt := .const 1312 }
def SP_SPARE_SPARE_USED : Fld := { page := .kiteCtl, ofs := 0x6c, lo := 0, len := 16, kind := .ro, dflt := .const 0 }
def SP_RETIRE_SP_RETIRE_CE : Fld := { page := .kiteCtl, ofs := 0x70, lo := 0, len := 8, kind := .rw, dflt := .const 3, dagger := true }
def BANK_STALL_STALLS : Fld := { page := .kiteCtl, ofs := 0x74, lo := 0, len := 32, kind := .sc, dflt := .const 0 }
def GATE_CTL_ZERO_GATE_EN : Fld := { page := .kiteCtl, ofs := 0x78, lo := 0, len := 1, kind := .rw, dflt := .const 1, dagger := true }
def PWR_GATED_GATED_FRAC : Fld := { page := .kiteCtl, ofs := 0x7c, lo := 0, len := 16, kind := .ro, dflt := .const 0 }
def KITE_CMD_FAULT_CLR : Fld := { page := .kiteCtl, ofs := 0x80, lo := 0, len := 1, kind := .wo, dflt := .const 0 }

/-! ### page kiteArr (01_kite_array.md) -/
def ARR_PROFILE_MODE : Fld := { page := .kiteArr, ofs := 0x40, lo := 5, len := 2, kind := .rwc, dflt := .const 0, count := 8 }
def ARR_PROFILE_SHAPE : Fld := { page := .kiteArr, ofs := 0x40, lo := 4, len := 1, kind := .rwc, dflt := .const 0, count := 8 }
def ARR_PROFILE_BRIDLE : Fld := { page := .kiteArr, ofs := 0x40, lo := 0, len := 3, kind := .rwc, dflt := .const 0, count := 8 }
def ROW_MASK_ROWS : Fld := { page := .kiteArr, ofs := 0x60, lo := 0, len := 32, kind := .rwc, dflt := .const 4294967295, count := 4 }
def ARR_STATUS_LOAD_ROW : Fld := { page := .kiteArr, ofs := 0x70, lo := 16, len := 16, kind := .ro, dflt := .const 0 }
def ARR_STATUS_LIVE_PROFILE : Fld := { page := .kiteArr, ofs := 0x70, lo := 7, len := 3, kind := .ro, dflt := .const 0 }
def ARR_STATUS_LIVE_BRIDLE : Fld := { page := .kiteArr, ofs := 0x70, lo := 4, len := 3, kind := .ro, dflt := .const 0 }
def ARR_STATUS_LIVE_SHAPE : Fld := { page := .kiteArr, ofs := 0x70, lo := 3, len := 1, kind := .ro, dflt := .const 0 }
def ARR_STATUS_LIVE_VALID : Fld := { page := .kiteArr, ofs := 0x70, lo := 2, len := 1, kind := .ro, dflt := .const 0 }
def ARR_STATUS_SHADOW_STATE : Fld := { page := .kiteArr, ofs := 0x70, lo := 0, len := 2, kind := .ro, dflt := .const 0 }
def ARR_FLAGS_STEP_FLAGS : Fld := { page := .kiteArr, ofs := 0x74, lo := 16, len := 4, kind := .ro, dflt := .const 0 }
def ARR_FLAGS_UF : Fld := { page := .kiteArr, ofs := 0x74, lo := 3, len := 1, kind := .ro, dflt := .const 0 }
def ARR_FLAGS_OF : Fld := { page := .kiteArr, ofs := 0x74, lo := 2, len := 1, kind := .ro, dflt := .const 0 }
def ARR_FLAGS_INVALID : Fld := { page := .kiteArr, ofs := 0x74, lo := 1, len := 1, kind := .ro, dflt := .const 0 }
def ARR_FLAGS_NAN_IN : Fld := { page := .kiteArr, ofs := 0x74, lo := 0, len := 1, kind := .ro, dflt := .const 0 }
def STAT_LOADS_LO : Fld := { page := .kiteArr, ofs := 0x78, lo := 0, len := 32, kind := .sc, dflt := .const 0 }
def STAT_LOADS_HI : Fld := { page := .kiteArr, ofs := 0x7c, lo := 0, len := 32, kind := .sc, dflt := .const 0 }
def STREAM_COLS_LO : Fld := { page := .kiteArr, ofs := 0x80, lo := 0, len := 32, kind := .sc, dflt := .const 0 }
def STREAM_COLS_HI : Fld := { page := .kiteArr, ofs := 0x84, lo := 0, len := 32, kind := .sc, dflt := .const 0 }
def WEIGHT_BUBBLES_BUBBLES : Fld := { page := .kiteArr, ofs := 0x88, lo := 0, len := 32, kind := .sc, dflt := .const 0 }
def ARR_LAT_THIN_ADD : Fld := { page := .kiteArr, ofs := 0x8c, lo := 24, len := 8, kind := .ro, dflt := .const 6 }
def ARR_LAT_ACC_LAT : Fld := { page := .kiteArr, ofs := 0x8c, lo := 16, len := 8, kind := .ro, dflt := .const 4 }
def ARR_LAT_BRIDLE_ADD : Fld := { page := .kiteArr, ofs := 0x8c, lo := 8, len := 8, kind := .ro, dflt := .const 84 }
def ARR_LAT_BASE_LAT : Fld := { page := .kiteArr, ofs := 0x8c, lo := 0, len := 8, kind := .ro, dflt := .const 12 }
def ARR_CAP_MODES : Fld := { page := .kiteArr, ofs := 0x90, lo := 8, len := 3, kind := .ro, dflt := .const 7 }
def ARR_CAP_SHAPES : Fld := { page := .kiteArr, ofs := 0x90, lo := 6, len := 2, kind := .ro, dflt := .const 3 }
def ARR_CAP_BRIDLES : Fld := { page := .kiteArr, ofs := 0x90, lo := 0, len := 5, kind := .ro, dflt := .const 31 }
def CB_FILE_STAT_CB_COPY_BUSY : Fld := { page := .kiteArr, ofs := 0x94, lo := 31, len := 1, kind := .ro, dflt := .const 0 }
def CB_FILE_STAT_RSC_COPY_BUSY : Fld := { page := .kiteArr, ofs := 0x94, lo := 30, len := 1, kind := .ro, dflt := .const 0 }
def CB_FILE_STAT_CB_RETIRING : Fld := { page := .kiteArr, ofs := 0x94, lo := 29, len := 1, kind := .ro, dflt := .const 0 }
def CB_FILE_STAT_RSC_RETIRING : Fld := { page := .kiteArr, ofs := 0x94, lo := 28, len := 1, kind := .ro, dflt := .const 0 }
def ESC_FAULT_CAUSE : Fld := { page := .kiteArr, ofs := 0x98, lo := 30, len := 2, kind := .ro, dflt := .const 0 }
def ESC_FAULT_BLOCK : Fld := { page := .kiteArr, ofs := 0x98, lo := 28, len := 2, kind := .ro, dflt := .const 0 }
def ESC_FAULT_COUNT : Fld := { page := .kiteArr, ofs := 0x98, lo := 24, len := 4, kind := .ro, dflt := .const 0 }
def ESC_FAULT_COLUMN : Fld := { page := .kiteArr, ofs := 0x98, lo := 0, len := 16, kind := .ro, dflt := .const 0 }
def ESC_SUBST_SUBSTS : Fld := { page := .kiteArr, ofs := 0x9c, lo := 0, len := 32, kind := .sc, dflt := .const 0 }
def SLICE_SKIP_LO : Fld := { page := .kiteArr, ofs := 0xa0, lo := 0, len := 32, kind := .sc, dflt := .const 0 }
def SLICE_SKIP_HI : Fld := { page := .kiteArr, ofs := 0xa4, lo := 0, len := 32, kind := .sc, dflt := .const 0 }
def SLICE_LAT_COMBINE_LAT : Fld := { page := .kiteArr, ofs := 0xa8, lo := 0, len := 8, kind := .ro, dflt := .const 2 }
def TBL_FILLS_FILLS : Fld := { page := .kiteArr, ofs := 0xac, lo := 0, len := 32, kind := .sc, dflt := .const 0 }
def CBF_CTL_AUTO_INC : Fld := { page := .kiteArr, ofs := 0xb0, lo := 9, len := 1, kind := .rw, dflt := .const 1 }
def CBF_CTL_BANK : Fld := { page := .kiteArr, ofs := 0xb0, lo := 8, len := 1, kind := .rw, dflt := .const 0 }
def CBF_CTL_FILE : Fld := { page := .kiteArr, ofs := 0xb0, lo := 0, len := 2, kind := .rw, dflt := .const 0 }
def CBF_INDEX_WORD : Fld := { page := .kiteArr, ofs := 0xb4, lo := 0, len := 13, kind := .rw, dflt := .const 0 }
def CBF_DATA_DATA : Fld := { page := .kiteArr, ofs := 0xb8, lo := 0, len := 32, kind := .rw, dflt := .const 0 }
def CBF_WAITS_WAITS : Fld := { page := .kiteArr, ofs := 0xbc, lo := 0, len := 32, kind := .sc, dflt := .const 0 }

/-! ### page kiteVec (05_vector_engine.md) -/
def VEC_STATUS_BUSY : Fld := { page := .kiteVec, ofs := 0x40, lo := 31, len := 1, kind := .ro, dflt := .const 0 }
def VEC_STATUS_VOP : Fld := { page := .kiteVec, ofs := 0x40, lo := 24, len := 3, kind := .ro, dflt := .const 0 }
def VEC_STATUS_ELEM : Fld := { page := .kiteVec, ofs := 0x40, lo := 0, len := 24, kind := .ro, dflt := .const 0 }
def VEC_FLAGS_STEP_FLAGS : Fld := { page := .kiteVec, ofs := 0x44, lo := 16, len := 5, kind := .ro, dflt := .const 0 }
def VEC_FLAGS_DZ : Fld := { page := .kiteVec, ofs := 0x44, lo := 4, len := 1, kind := .ro, dflt := .const 0 }
def VEC_FLAGS_UF : Fld := { page := .kiteVec, ofs := 0x44, lo := 3, len := 1, kind := .ro, dflt := .const 0 }
def VEC_FLAGS_OF : Fld := { page := .kiteVec, ofs := 0x44, lo := 2, len := 1, kind := .ro, dflt := .const 0 }
def VEC_FLAGS_INVALID : Fld := { page := .kiteVec, ofs := 0x44, lo := 1, len := 1, kind := .ro, dflt := .const 0 }
def VEC_FLAGS_NAN_IN : Fld := { page := .kiteVec, ofs := 0x44, lo := 0, len := 1, kind := .ro, dflt := .const 0 }
def VEC_CLIPS_CLIPS : Fld := { page := .kiteVec, ofs := 0x48, lo := 0, len := 32, kind := .sc, dflt := .const 0 }
def VEC_ELEMS_LO : Fld := { page := .kiteVec, ofs := 0x4c, lo := 0, len := 32, kind := .sc, dflt := .const 0 }
def VEC_ELEMS_HI : Fld := { page := .kiteVec, ofs := 0x50, lo := 0, len := 32, kind := .sc, dflt := .const 0 }
def NAN_TRAP_STEP_STEP : Fld := { page := .kiteVec, ofs := 0x54, lo := 0, len := 32, kind := .ro, dflt := .const 0 }
def NAN_TRAP_OP_OP_INDEX : Fld := { page := .kiteVec, ofs := 0x58, lo := 0, len := 24, kind := .ro, dflt := .const 0 }
def NAN_TRAP_ELEM_TAG : Fld := { page := .kiteVec, ofs := 0x5c, lo := 24, len := 8, kind := .ro, dflt := .const 0 }
def NAN_TRAP_ELEM_ELEM : Fld := { page := .kiteVec, ofs := 0x5c, lo := 0, len := 24, kind := .ro, dflt := .const 0 }
def NAN_TRAP_INFO_VALID : Fld := { page := .kiteVec, ofs := 0x60, lo := 31, len := 1, kind := .ro, dflt := .const 0 }
def NAN_TRAP_INFO_KIND : Fld := { page := .kiteVec, ofs := 0x60, lo := 30, len := 1, kind := .ro, dflt := .const 0 }
def NAN_TRAP_INFO_SOURCE : Fld := { page := .kiteVec, ofs := 0x60, lo := 28, len := 2, kind := .ro, dflt := .const 0 }
def NAN_TRAP_INFO_UOP : Fld := { page := .kiteVec, ofs := 0x60, lo := 23, len := 5, kind := .ro, dflt := .const 0 }
def NAN_TRAP_INFO_CARRY : Fld := { page := .kiteVec, ofs := 0x60, lo := 22, len := 1, kind := .ro, dflt := .const 0 }
def NAN_TRAP_INFO_LOGICAL : Fld := { page := .kiteVec, ofs := 0x60, lo := 0, len := 7, kind := .ro, dflt := .const 0 }
def NAN_TRAPS_TRAPS : Fld := { page := .kiteVec, ofs := 0x64, lo := 0, len := 32, kind := .sc, dflt := .const 0 }
def VEC_LAT_RED_ADD : Fld := { page := .kiteVec, ofs := 0x68, lo := 24, len := 8, kind := .ro, dflt := .const 5 }
def VEC_LAT_SCAN_RATE : Fld := { page := .kiteVec, ofs := 0x68, lo := 16, len := 8, kind := .ro, dflt := .const 8 }
def VEC_LAT_LANES : Fld := { page := .kiteVec, ofs := 0x68, lo := 8, len := 8, kind := .ro, dflt := .const 32 }
def VEC_LAT_PIPE_LAT : Fld := { page := .kiteVec, ofs := 0x68, lo := 0, len := 8, kind := .ro, dflt := .const 20 }
def VP_CTL_AUTO_INC : Fld := { page := .kiteVec, ofs := 0x6c, lo := 9, len := 1, kind := .rw, dflt := .const 1 }
def VP_CTL_BANK : Fld := { page := .kiteVec, ofs := 0x6c, lo := 8, len := 1, kind := .rw, dflt := .const 0 }
def VP_INDEX_WORD : Fld := { page := .kiteVec, ofs := 0x70, lo := 0, len := 12, kind := .rw, dflt := .const 0 }
def VP_DATA_DATA : Fld := { page := .kiteVec, ofs := 0x74, lo := 0, len := 32, kind := .rw, dflt := .const 0 }
def VP_FILE_STAT_VP_COPY_BUSY : Fld := { page := .kiteVec, ofs := 0x78, lo := 31, len := 1, kind := .ro, dflt := .const 0 }
def VP_FILE_STAT_VP_RETIRING : Fld := { page := .kiteVec, ofs := 0x78, lo := 30, len := 1, kind := .ro, dflt := .const 0 }

/-! ### page kiteEnv (04_envelope_and_precision.md) -/
def ENV_STAT_SNAP_VALID : Fld := { page := .kiteEnv, ofs := 0x40, lo := 0, len := 1, kind := .ro, dflt := .const 0 }
def ENV_SNAP_STEP_STEP : Fld := { page := .kiteEnv, ofs := 0x44, lo := 0, len := 32, kind := .ro, dflt := .const 0 }
def ENV_SEL_AUTO_INC : Fld := { page := .kiteEnv, ofs := 0x48, lo := 31, len := 1, kind := .rw, dflt := .const 1 }
def ENV_SEL_TAG : Fld := { page := .kiteEnv, ofs := 0x48, lo := 8, len := 8, kind := .rw, dflt := .const 0 }
def ENV_SEL_WORD : Fld := { page := .kiteEnv, ofs := 0x48, lo := 0, len := 6, kind := .rw, dflt := .const 0 }
def ENV_WIN_DATA : Fld := { page := .kiteEnv, ofs := 0x4c, lo := 0, len := 32, kind := .ro, dflt := .const 0 }
def ENV_DISCARD_DISCARDS : Fld := { page := .kiteEnv, ofs := 0x50, lo := 0, len := 32, kind := .sc, dflt := .const 0 }
def ENV_SAT_COUNT_SATS : Fld := { page := .kiteEnv, ofs := 0x54, lo := 0, len := 32, kind := .sc, dflt := .const 0 }
def TAG_CFG_HIST_BASE : Fld := { page := .kiteEnv, ofs := 0x400, lo := 8, len := 9, kind := .rwc, dflt := .const 0, count := 256 }
def TAG_CFG_HIST_SHIFT : Fld := { page := .kiteEnv, ofs := 0x400, lo := 0, len := 2, kind := .rwc, dflt := .const 0, count := 256 }

/-! ### page stackCtl (06_memory.md) -/
def STK_ID_DIE_GBIT : Fld := { page := .stackCtl, ofs := 0x40, lo := 16, len := 8, kind := .ro, dflt := .const 32 }
def STK_ID_PCS : Fld := { page := .stackCtl, ofs := 0x40, lo := 8, len := 8, kind := .ro, dflt := .const 32 }
def STK_ID_SIDS : Fld := { page := .stackCtl, ofs := 0x40, lo := 4, len := 4, kind := .ro, dflt := .const 3 }
def STK_ID_STACK : Fld := { page := .stackCtl, ofs := 0x40, lo := 0, len := 4, kind := .ro, dflt := .own }
def STK_TEMP_BAND : Fld := { page := .stackCtl, ofs := 0x44, lo := 20, len := 3, kind := .ro, dflt := .const 0 }
def STK_TEMP_TEMP_MAX : Fld := { page := .stackCtl, ofs := 0x44, lo := 8, len := 8, kind := .ro, dflt := .const 0 }
def STK_TEMP_TEMP : Fld := { page := .stackCtl, ofs := 0x44, lo := 0, len := 8, kind := .ro, dflt := .const 0 }
def STK_THERM_HYST : Fld := { page := .stackCtl, ofs := 0x48, lo := 0, len := 4, kind := .rw, dflt := .const 3, dagger := true }
def MIG_STAT_ACTIVE : Fld := { page := .stackCtl, ofs := 0x4c, lo := 31, len := 1, kind := .ro, dflt := .const 0 }
def MIG_STAT_BALLAST_USED : Fld := { page := .stackCtl, ofs := 0x4c, lo := 30, len := 1, kind := .ro, dflt := .const 0 }
def MIG_STAT_SRC : Fld := { page := .stackCtl, ofs := 0x4c, lo := 24, len := 5, kind := .ro, dflt := .const 0 }
def MIG_STAT_COPIED : Fld := { page := .stackCtl, ofs := 0x4c, lo := 0, len := 20, kind := .ro, dflt := .const 0 }
def STK_CMD_LOGICAL : Fld := { page := .stackCtl, ofs := 0x50, lo := 8, len := 5, kind := .wo, dflt := .const 0 }
def STK_CMD_UE_CLR : Fld := { page := .stackCtl, ofs := 0x50, lo := 2, len := 1, kind := .wo, dflt := .const 0 }
def STK_CMD_MIGRATE : Fld := { page := .stackCtl, ofs := 0x50, lo := 0, len := 1, kind := .wo, dflt := .const 0 }
def PC_MAP_PHYS : Fld := { page := .stackCtl, ofs := 0x100, lo := 0, len := 5, kind := .rwc, dflt := .index, count := 31 }
def PC_BALLAST_PHYS : Fld := { page := .stackCtl, ofs := 0x17c, lo := 0, len := 5, kind := .ro, dflt := .const 31 }

/-! ### page stackErr (06_memory.md) -/
def UE_ADDR_LO_ADDR : Fld := { page := .stackErr, ofs := 0x40, lo := 0, len := 32, kind := .ro, dflt := .const 0 }
def UE_ADDR_HI_VALID : Fld := { page := .stackErr, ofs := 0x44, lo := 31, len := 1, kind := .ro, dflt := .const 0 }
def UE_ADDR_HI_ADDR : Fld := { page := .stackErr, ofs := 0x44, lo := 0, len := 8, kind := .ro, dflt := .const 0 }
def UE_INFO_PPC : Fld := { page := .stackErr, ofs := 0x48, lo := 27, len := 5, kind := .ro, dflt := .const 0 }
def UE_INFO_SID : Fld := { page := .stackErr, ofs := 0x48, lo := 25, len := 2, kind := .ro, dflt := .const 0 }
def UE_INFO_BG : Fld := { page := .stackErr, ofs := 0x48, lo := 23, len := 2, kind := .ro, dflt := .const 0 }
def UE_INFO_BANK : Fld := { page := .stackErr, ofs := 0x48, lo := 21, len := 2, kind := .ro, dflt := .const 0 }
def UE_INFO_ROW : Fld := { page := .stackErr, ofs := 0x48, lo := 6, len := 15, kind := .ro, dflt := .const 0 }
def UE_INFO_XFER : Fld := { page := .stackErr, ofs := 0x48, lo := 0, len := 6, kind := .ro, dflt := .const 0 }
def ODE_CE_COUNT : Fld := { page := .stackErr, ofs := 0x4c, lo := 0, len := 32, kind := .sc, dflt := .const 0 }
def SYM_CE_COUNT : Fld := { page := .stackErr, ofs := 0x50, lo := 0, len := 32, kind := .sc, dflt := .const 0 }
def RETRY_OK_COUNT : Fld := { page := .stackErr, ofs := 0x54, lo := 0, len := 32, kind := .sc, dflt := .const 0 }
def ROW_REMAPS_COUNT : Fld := { page := .stackErr, ofs := 0x58, lo := 0, len := 32, kind := .sc, dflt := .const 0 }
def HPPR_DONE_COUNT : Fld := { page := .stackErr, ofs := 0x5c, lo := 0, len := 32, kind := .sc, dflt := .const 0 }
def PAGES_RETIRED_COUNT : Fld := { page := .stackErr, ofs := 0x60, lo := 0, len := 32, kind := .ro, dflt := .const 0 }
def SPARES_USED_COUNT : Fld := { page := .stackErr, ofs := 0x64, lo := 0, len := 32, kind := .ro, dflt := .const 0 }
def TRACKER_EVICT_COUNT : Fld := { page := .stackErr, ofs := 0x68, lo := 0, len := 32, kind := .sc, dflt := .const 0 }
def UNSCHED_RETRAINS_COUNT : Fld := { page := .stackErr, ofs := 0x6c, lo := 0, len := 32, kind := .sc, dflt := .const 0 }
def SCRUB_PASSES_COUNT : Fld := { page := .stackErr, ofs := 0x70, lo := 0, len := 32, kind := .sc, dflt := .const 0 }
def SPARE_PERM_COUNT : Fld := { page := .stackErr, ofs := 0x74, lo := 0, len := 32, kind := .ro, dflt := .const 0 }
def RESERVE_FREE_COUNT : Fld := { page := .stackErr, ofs := 0x78, lo := 0, len := 32, kind := .ro, dflt := .const 262144 }
def HPPR_STEPS_COUNT : Fld := { page := .stackErr, ofs := 0x7c, lo := 0, len := 32, kind := .ro, dflt := .const 0 }

/-! ### page stackChan (06_memory.md) -/
def PC_REC_CE_CE : Fld := { page := .stackChan, ofs := 0x100, lo := 0, len := 32, kind := .sc, dflt := .const 0, count := 32, stride := 16 }
def PC_REC_UE_UE : Fld := { page := .stackChan, ofs := 0x104, lo := 0, len := 32, kind := .sc, dflt := .const 0, count := 32, stride := 16 }
def PC_REC_ST_STATE : Fld := { page := .stackChan, ofs := 0x108, lo := 28, len := 4, kind := .ro, dflt := .channelState, count := 32, stride := 16 }
def PC_REC_ST_LOGICAL : Fld := { page := .stackChan, ofs := 0x108, lo := 16, len := 5, kind := .ro, dflt := .index, count := 32, stride := 16 }
def PC_REC_ST_INTERVAL_CE : Fld := { page := .stackChan, ofs := 0x108, lo := 0, len := 16, kind := .ro, dflt := .const 0, count := 32, stride := 16 }
def PC_REC_RT_RETRAINS : Fld := { page := .stackChan, ofs := 0x10c, lo := 0, len := 32, kind := .sc, dflt := .const 0, count := 32, stride := 16 }

/-! ### page lineCtl (08_fabric.md) -/
def LINE_CFG_EN : Fld := { page := .lineCtl, ofs := 0x40, lo := 31, len := 1, kind := .rw, dflt := .const 1, dagger := true }
def LINE_CFG_DATELINE : Fld := { page := .lineCtl, ofs := 0x40, lo := 30, len := 1, kind := .rwc, dflt := .const 0 }
def LINE_CFG_DIM : Fld := { page := .lineCtl, ofs := 0x40, lo := 28, len := 2, kind := .rwc, dflt := .const 0 }
def LINE_CFG_MEDIA : Fld := { page := .lineCtl, ofs := 0x40, lo := 26, len := 2, kind := .rw, dflt := .const 0, dagger := true }
def LINE_CFG_PART : Fld := { page := .lineCtl, ofs := 0x40, lo := 23, len := 3, kind := .rwc, dflt := .const 7 }
def LINE_CFG_DELAY_ASYM : Fld := { page := .lineCtl, ofs := 0x40, lo := 8, len := 8, kind := .rw, dflt := .const 0, dagger := true }
def LINE_CFG_RETRY_MAX : Fld := { page := .lineCtl, ofs := 0x40, lo := 0, len := 8, kind := .rw, dflt := .const 8, dagger := true }
def LINE_STAT_STATE : Fld := { page := .lineCtl, ofs := 0x44, lo := 28, len := 4, kind := .ro, dflt := .const 0 }
def LINE_STAT_DETOUR_USE : Fld := { page := .lineCtl, ofs := 0x44, lo := 27, len := 1, kind := .ro, dflt := .const 0 }
def LINE_STAT_TB_PARENT : Fld := { page := .lineCtl, ofs := 0x44, lo := 26, len := 1, kind := .ro, dflt := .const 0 }
def LINE_RTT_RTT : Fld := { page := .lineCtl, ofs := 0x48, lo := 0, len := 16, kind := .ro, dflt := .const 0 }
def TX_FLITS_LO : Fld := { page := .lineCtl, ofs := 0x4c, lo := 0, len := 32, kind := .sc, dflt := .const 0 }
def TX_FLITS_HI : Fld := { page := .lineCtl, ofs := 0x50, lo := 0, len := 32, kind := .sc, dflt := .const 0 }
def RX_FLITS_LO : Fld := { page := .lineCtl, ofs := 0x54, lo := 0, len := 32, kind := .sc, dflt := .const 0 }
def RX_FLITS_HI : Fld := { page := .lineCtl, ofs := 0x58, lo := 0, len := 32, kind := .sc, dflt := .const 0 }
def CRC_ERRS_COUNT : Fld := { page := .lineCtl, ofs := 0x5c, lo := 0, len := 32, kind := .sc, dflt := .const 0 }
def RETRIES_COUNT : Fld := { page := .lineCtl, ofs := 0x60, lo := 0, len := 32, kind := .sc, dflt := .const 0 }
def RETRY_FLITS_COUNT : Fld := { page := .lineCtl, ofs := 0x64, lo := 0, len := 32, kind := .sc, dflt := .const 0 }
def LINE_FEC_CE_COUNT : Fld := { page := .lineCtl, ofs := 0x68, lo := 0, len := 32, kind := .sc, dflt := .const 0 }
def LINE_FEC_UE_COUNT : Fld := { page := .lineCtl, ofs := 0x6c, lo := 0, len := 32, kind := .sc, dflt := .const 0 }
def LINE_DOWNS_COUNT : Fld := { page := .lineCtl, ofs := 0x70, lo := 0, len := 32, kind := .sc, dflt := .const 0 }
def CREDIT_STALLS_COUNT : Fld := { page := .lineCtl, ofs := 0x74, lo := 0, len := 32, kind := .sc, dflt := .const 0 }
def REPLAY_FULL_COUNT : Fld := { page := .lineCtl, ofs := 0x78, lo := 0, len := 32, kind := .sc, dflt := .const 0 }
def TX_BYTES_VC7_COUNT : Fld := { page := .lineCtl, ofs := 0x7c, lo := 0, len := 32, kind := .sc, dflt := .const 0 }

/-! ### page lineLane (08_fabric.md) -/
def LANE_MAP_MAP : Fld := { page := .lineLane, ofs := 0x40, lo := 0, len := 32, kind := .ro, dflt := .const 1985229328 }
def LANE_BALLAST_BALLAST_USED : Fld := { page := .lineLane, ofs := 0x44, lo := 31, len := 1, kind := .ro, dflt := .const 0 }
def LANE_BALLAST_PHYS : Fld := { page := .lineLane, ofs := 0x44, lo := 0, len := 4, kind := .ro, dflt := .const 8 }
def LANE_THRESH_LANE_CE_THRESH : Fld := { page := .lineLane, ofs := 0x48, lo := 0, len := 16, kind := .rw, dflt := .const 4096, dagger := true }
def LANE_CMD_LOGICAL : Fld := { page := .lineLane, ofs := 0x4c, lo := 4, len := 3, kind := .wo, dflt := .const 0 }
def LANE_CMD_LANE_SWAP_CMD : Fld := { page := .lineLane, ofs := 0x4c, lo := 0, len := 1, kind := .wo, dflt := .const 0 }
def LANE_REC_ERR_SYM_ERR : Fld := { page := .lineLane, ofs := 0x100, lo := 0, len := 32, kind := .sc, dflt := .const 0, count := 9, stride := 8 }
def LANE_REC_ST_STATE : Fld := { page := .lineLane, ofs := 0x104, lo := 28, len := 4, kind := .ro, dflt := .laneState, count := 9, stride := 8 }
def LANE_REC_ST_INTERVAL_ERR : Fld := { page := .lineLane, ofs := 0x104, lo := 0, len := 16, kind := .ro, dflt := .const 0, count := 9, stride := 8 }

end Reg

/-- The register fields of a page type, in the order of the spec's tables. -/
def pageFields : PageKind → List Fld
  | .identity =>
    [Reg.ID_PART_PRODUCT, Reg.ID_PART_STEPPING, Reg.ID_PART_MODULE_ISSUE, Reg.ID_SERIAL_LO,
     Reg.ID_SERIAL_HI, Reg.MAC_ADDR_LO, Reg.MAC_ADDR_HI]
  | .devCtl =>
    [Reg.DEV_STAT_STATE, Reg.DEV_STAT_CAUSE, Reg.DEV_STAT_BOOT_MS, Reg.DEV_RST_KEY,
     Reg.DEV_RST_RESET]
  | .clocks =>
    [Reg.CLK_KITE_FREQ_MHZ, Reg.CLK_KITE_CAUSE, Reg.CLK_ISL_MEM_MHZ, Reg.CLK_ISL_LINE_MHZ,
     Reg.CLK_REF_REF_OK, Reg.CLK_REF_PLL_LOCK, Reg.CLK_REF_MGMT_MHZ]
  | .thermal =>
    [Reg.PWR_IN_VIN, Reg.PWR_IN_IIN, Reg.PWR_AVG_AVG_100MS, Reg.PWR_AVG_AVG_100US,
     Reg.PWR_CAPS_PWR_CAP, Reg.PWR_CAPS_PEAK_CAP, Reg.THERM_DIE_MAX, Reg.THERM_DIE_THROTTLE,
     Reg.THERM_COOL_IN, Reg.THERM_COOL_OUT, Reg.THERM_STAT_PWR_LIMIT, Reg.THERM_STAT_THERM_LIMIT,
     Reg.THERM_STAT_PEAK_LAPSED, Reg.THERM_STAT_COOL_HOT, Reg.PHASES_TOTAL, Reg.PHASES_SHED,
     Reg.PHASES_EFF_CAP, Reg.THROTTLE_TICKS_LO, Reg.THROTTLE_TICKS_HI]
  | .dfi =>
    [Reg.DFI_STAT_STATE, Reg.DFI_STAT_APPLIED, Reg.DFI_STAT_REFUSED, Reg.DFI_FIRST_REF_REASON,
     Reg.DFI_FIRST_REF_RECORD, Reg.DFI_OK_APPLIED]
  | .governor =>
    [Reg.GOV_CTL_GOV_EN, Reg.GOV_STAT_UFLOW_WATCH_OFF, Reg.GOV_STAT_DIVERGED, Reg.GOV_STAT_TABLE_PHASE,
     Reg.GOV_STAT_STATS_PHASE, Reg.GOV_EVAL_STEP_STEP, Reg.GOV_LAT_TICKS, Reg.GOV_DIGEST_DIGEST,
     Reg.UFW_CTL_UFW_EN, Reg.UFW_CTL_UFW_WIDEN, Reg.UFW_CTL_UFW_STREAK, Reg.UFW_CTL_UFW_THRESH,
     Reg.UFW_ALARMS_ALARMS, Reg.UFW_LAST_STEP, Reg.UFW_LAST_TAG, Reg.GOV_FIRES_COUNT,
     Reg.GOV_CHANGES_COUNT, Reg.GOV_BOUND_COUNT, Reg.GOV_BLOCKED_COUNT, Reg.GOV_LATE_COUNT,
     Reg.GOV_LAST_FIRE_RULE, Reg.GOV_LAST_FIRE_ACTION, Reg.GOV_LAST_FIRE_TAG, Reg.GOV_SV_IDX_AUTO_INC,
     Reg.GOV_SV_IDX_WORD, Reg.GOV_SV_DATA_DATA, Reg.GOV_RULE_W0_EN, Reg.GOV_RULE_W0_ACT,
     Reg.GOV_RULE_W1_TAGS, Reg.GOV_RULE_W1_BIN, Reg.GOV_RULE_W2_THRESH, Reg.GOV_RULE_W3_FIRES]
  | .precision =>
    [Reg.PT_VIEW_BANK, Reg.PT_EPOCH_EPOCH, Reg.PT_PEND_PENDING, Reg.PT_ENTRY_LOCK,
     Reg.PT_ENTRY_LEVEL, Reg.PT_ENTRY_LAD_LEN, Reg.PT_ENTRY_LADDER, Reg.TAG_MAP_ROLE,
     Reg.TAG_MAP_LAYER, Reg.TAG_SCALE_T]
  | .memory =>
    [Reg.MW_PHASE_WIN_PHASE, Reg.MW_WORK_RETRAIN_PERIOD, Reg.MW_WORK_SCRUB_PER_WIN, Reg.MW_COUNT_WINDOWS,
     Reg.WIN_DEFERRED_DEFERRED, Reg.MEM_THRESH_RETRAIN_CE, Reg.MEM_THRESH_ROW_CE_THRESH, Reg.MIG_CTL_MIG_EN,
     Reg.MIG_CTL_MIG_INTERVALS, Reg.MIG_CTL_MIG_SHARE, Reg.MIG_CTL_MIG_CE_THRESH, Reg.HOST_PART_PART,
     Reg.MEM_CAP_ADDR_GIB]
  | .plan =>
    [Reg.PLAN_BASE_BASE, Reg.PLAN_STAT_STATE, Reg.PLAN_STAT_REASON, Reg.PLAN_REJ_OFS_OFFSET,
     Reg.PLAN_CRC_CRC, Reg.STEP_NUM_LO, Reg.STEP_NUM_HI, Reg.STEP_EPOCH_EPOCH,
     Reg.STEP_STAT_REPLAY_RUN, Reg.STEP_STAT_STATE, Reg.STEP_TICK_LO, Reg.STEP_TICK_HI,
     Reg.SEAL_TICK_LO, Reg.SEAL_TICK_HI, Reg.SEALS_COUNT, Reg.REPLAYS_COUNT,
     Reg.STEP_SLIPS_COUNT, Reg.REPLAY_MAX_MAX, Reg.STEP_CMD_COMMIT, Reg.STEP_CMD_LOAD,
     Reg.STEP_CMD_STOP, Reg.STEP_CMD_START, Reg.START_TICK_LO, Reg.START_TICK_HI,
     Reg.WS_TABLE_BASE, Reg.RANK_PAIR_PAIR_VALID, Reg.RANK_PAIR_ROLE, Reg.RANK_PAIR_PARTNER,
     Reg.RECOV_STAT_HANDED, Reg.RECOV_STAT_COVERING, Reg.RECOV_STAT_PLAN_UE, Reg.RECOV_STAT_LAST_RUNG,
     Reg.PLAN_UE_CMD_PLAN_UE_DONE, Reg.REC_COUNT_COUNT, Reg.RESTORED_COUNT, Reg.HANDOVERS_COUNT,
     Reg.SVC_HOURS_COUNT, Reg.WEAR_HOT_COUNT]
  | .fabric =>
    [Reg.FAB_DEVNUM_ASSIGNED, Reg.FAB_DEVNUM_DEVNUM, Reg.FAB_STAT_DISC_STATE, Reg.FAB_STAT_LINES_UP,
     Reg.FAB_CTL_PEER_RD_EN, Reg.FAB_CTL_PEER_WR_EN, Reg.FAB_CTL_RX_PART, Reg.FAB_CTL_DISC_TIMEOUT,
     Reg.FAB_CMD_DISCOVER, Reg.FAB_TB_TB_MASTER, Reg.FAB_TB_TB_BACKUP, Reg.ROUTE_CTL_AUTO_INC,
     Reg.ROUTE_CTL_BANK, Reg.ROUTE_INDEX_INDEX, Reg.ROUTE_DATA_ENTRY, Reg.NO_ROUTE_COUNT,
     Reg.BAD_EP_COUNT, Reg.ORDER_DROPS_COUNT, Reg.STALE_DROPS_COUNT, Reg.PERSIST_HITS_COUNT,
     Reg.RANGE_DROPS_COUNT, Reg.NBR_VALID, Reg.NBR_PEER_ASSIGNED, Reg.NBR_PEER_DEV,
     Reg.NBR_PEER_LINE, Reg.NBR_PEER_DIST]
  | .eventCtl =>
    [Reg.EC_SEL_AUTO_INC, Reg.EC_SEL_SRC, Reg.EC_CFG_DATA, Reg.EC_CORE_CORE_EN,
     Reg.EC_CLAIM_VALID, Reg.EC_CLAIM_SOURCE, Reg.EC_EOI_SOURCE, Reg.STRAY_EOI_COUNT,
     Reg.LATE_MASK_COUNT, Reg.GLITCH_REJ_COUNT, Reg.PIN_EDGES_COUNT, Reg.EC_PEND_BITS,
     Reg.EC_MASK_BITS, Reg.EC_RAW_BITS, Reg.EC_ACTIVE_BITS, Reg.EC_TMR_CMP_LO_CMP,
     Reg.EC_TMR_CMP_HI_CMP, Reg.EC_TMR_PERIOD_PERIOD, Reg.EC_TMR_EN_EN]
  | .core =>
    [Reg.CORE_STAT_ROLE, Reg.CORE_STAT_STATE, Reg.CORE_STAT_VERSION]
  | .security =>
    [Reg.SEC_STAT_RECOVERY, Reg.SEC_STAT_LOG_OVERFLOW, Reg.SEC_STAT_RNG_FAIL, Reg.SEC_STAT_USER_KEY_SET,
     Reg.SEC_STAT_BOOT_ERR, Reg.SEC_SVN_SVN_MIN, Reg.SEC_SVN_SVN_RUN, Reg.MR_SEL_MR,
     Reg.MR_SEL_WORD, Reg.MR_WIN_DATA, Reg.LOG_COUNT_COUNT, Reg.LOG_SEL_ENTRY,
     Reg.LOG_SEL_WORD, Reg.LOG_WIN_DATA, Reg.MR_EXT_DIGEST, Reg.SEC_CMD_KEY,
     Reg.SEC_CMD_SVN_BURN, Reg.SEC_CMD_UKH_BURN, Reg.SEC_CMD_EXTEND, Reg.ATT_COUNT_COUNT,
     Reg.USER_KEY_HASH_HASH]
  | .flash =>
    [Reg.FL_ADDR_ADDR, Reg.FL_DATA_DATA, Reg.FL_CMD_SEG, Reg.FL_CMD_COMMIT,
     Reg.FL_CMD_ERASE, Reg.FL_STAT_BUSY, Reg.FL_STAT_RESULT, Reg.FW_CMD_SWAP,
     Reg.FW_CMD_STAGE, Reg.FW_STAT_PHASE, Reg.FW_STAT_MIXED, Reg.FW_STAT_STAGED_VER,
     Reg.SVC_STAT_SVC_FULL, Reg.SVC_STAT_SVC_LOST]
  | .mac =>
    [Reg.PORT_CFG_MEDIA, Reg.PORT_CFG_VLAN_FILT, Reg.PORT_CFG_VID, Reg.PORT_STAT_LINK,
     Reg.PORT_STAT_FEC_LOCK, Reg.RX_FRAMES_COUNT, Reg.RX_FCS_ERR_COUNT, Reg.RX_FILTERED_COUNT,
     Reg.TX_FRAMES_COUNT, Reg.PORT_FEC_CE_COUNT, Reg.PORT_FEC_UE_COUNT, Reg.PAUSE_RX_COUNT,
     Reg.PFC_TX_COUNT]
  | .scoring =>
    [Reg.SC_CTL_EN, Reg.SC_CTL_UDP_EN, Reg.SC_CTL_WL_PART, Reg.SC_CTL_PFC_PRIO,
     Reg.SC_CTL_UDP_PORT, Reg.SC_PART_TRAIN, Reg.SC_PART_KMASK, Reg.SC_STAT_PREEMPT,
     Reg.SC_STAT_PFC_ACTIVE, Reg.SC_STAT_WL_BUSY, Reg.SC_STAT_V_BUSY, Reg.SC_STAT_CAL_USED,
     Reg.SC_DSEL_AUTO_INC, Reg.SC_DSEL_BANK, Reg.SC_DSEL_SLOT, Reg.SC_DSEL_WORD,
     Reg.SC_DWIN_DATA, Reg.SC_DCMD_VALIDATE, Reg.SC_DCMD_SLOT, Reg.SC_VRES_OK,
     Reg.SC_VRES_SLOT, Reg.SC_VRES_CODE, Reg.SC_VRES_LAYER, Reg.SC_WL_SRC_LO_SRC,
     Reg.SC_WL_SRC_HI_KITE, Reg.SC_WL_SRC_HI_SRC_HI, Reg.SC_WL_DST_DST, Reg.SC_WL_LEN_LEN,
     Reg.SC_WL_CMD_GO, Reg.SC_REQS_COUNT, Reg.SC_OK_COUNT, Reg.SC_BUSY_COUNT,
     Reg.SC_BADS_COUNT, Reg.SC_FAULTS_COUNT, Reg.SC_RUNTS_COUNT, Reg.SC_LOST_COUNT,
     Reg.SWAP_SKIPS_COUNT, Reg.SC_HALTED_COUNT, Reg.SC_FAULT_KITE, Reg.SC_FAULT_SLOT,
     Reg.SC_FAULT_CODE, Reg.SC_SLOT_LIVE, Reg.SC_SLOT_SHADOW_OK, Reg.SC_SLOT_RETIRING,
     Reg.SC_SLOT_STALE, Reg.SC_SLOT_COST_C, Reg.SC_SLOT_VERSION, Reg.SC_LAT_COUNT]
  | .cmdEngine =>
    [Reg.CE_CTL_CE_UDP_EN, Reg.CE_CTL_SB_WR_EN, Reg.CE_CTL_EVT_RETX, Reg.CE_CTL_CE_UDP_PORT,
     Reg.CE_EXP_X, Reg.EVT_NEXT_SEQ, Reg.CE_BAD_COUNT, Reg.CE_DUPS_COUNT,
     Reg.CE_WINDOW_COUNT, Reg.EVT_OUT_COUNT, Reg.EVT_FWD_LOST_COUNT, Reg.BULK_LOST_COUNT]
  | .timeBase =>
    [Reg.TB_NOW_LO_NOW, Reg.TB_NOW_HI_NOW, Reg.TB_SYNC_LOCKED, Reg.TB_SYNC_LOADED,
     Reg.TB_SYNC_MASTER, Reg.TB_SYNC_OFFSET, Reg.TB_CMD_MEASURE, Reg.TB_MEAS_SEL_SEL,
     Reg.TB_MEAS_TICK_LO_TICK, Reg.TB_MEAS_TICK_HI_TICK, Reg.TB_MEAS_VAL_LO_VAL, Reg.TB_MEAS_VAL_HI_VAL,
     Reg.TB_MEAS_AT_LO, Reg.TB_MEAS_AT_HI]
  | .haulDown =>
    [Reg.HD_CTL_LEAD_FAB, Reg.HD_CTL_LEAD_CHIP, Reg.HD_TRIP_EVT_EN, Reg.HD_TRIP_EVT_SRC,
     Reg.HD_TRIP_UE_HALT, Reg.HD_TRIP_MODE_SKEW, Reg.HD_TRIP_NAN_TRAP, Reg.HD_TRIP_FABRIC,
     Reg.HD_DEBUG_BASE, Reg.HD_CMD_ALL, Reg.HD_CMD_ABANDON, Reg.HD_CMD_RELEASE,
     Reg.HD_CMD_HAUL, Reg.HD_CMD_FABRIC, Reg.HD_REL_LO, Reg.HD_REL_HI,
     Reg.HD_STAT_STATE, Reg.HD_STAT_LATE, Reg.HD_STAT_INCOMPLETE, Reg.HD_STAT_FABRIC,
     Reg.HD_STAT_DUMP_BUSY, Reg.HD_STAT_ORIGIN, Reg.HD_CAUSE_CAUSE, Reg.HD_CAUSE_SOURCE,
     Reg.HD_CUT_LO, Reg.HD_CUT_HI, Reg.HD_RESUMED_LO, Reg.HD_RESUMED_HI,
     Reg.HD_LINES_OPEN_LINES, Reg.HD_DUMP_SLOT, Reg.HD_DUMP_LOGICAL, Reg.HD_DUMP_GO,
     Reg.HD_MARK_TO_US, Reg.HAULS_COUNT, Reg.HAULS_IGNORED_COUNT, Reg.HAUL_OTHER_COUNT,
     Reg.LATE_CUTS_COUNT, Reg.MARK_TIMEOUTS_COUNT, Reg.LATE_RELEASES_COUNT]
  | .trace =>
    [Reg.TR_CTL_TRAINS, Reg.TR_CTL_CLASSES, Reg.TR_CTL_STOP_FULL, Reg.TR_CTL_PART,
     Reg.TR_BASE_BASE, Reg.TR_HEAD_WRAPPED, Reg.TR_HEAD_OFFSET, Reg.TR_DROPS_DROPS,
     Reg.OPC_SEL_UNIT, Reg.OPC_SEL_LOGICAL, Reg.OPC_CUR_CYCLES_V, Reg.OPC_CUR_HOLDS_V,
     Reg.OPC_CUR_SLIP_V, Reg.OPC_SNAP_CYCLES_V, Reg.OPC_SNAP_HOLDS_V, Reg.OPC_SNAP_SLIP_V,
     Reg.OPC_SNAP_OP_V, Reg.OPC_CUR_OP_V]
  | .trainCtl =>
    [Reg.TRN_KMAP_SLOT, Reg.TRN_BALLAST_USED, Reg.TRN_BALLAST_SLOT, Reg.TRN_CMD_REPLACE,
     Reg.TRN_CMD_LOGICAL, Reg.TRN_KSTAT_FAILED, Reg.KITE_HANG_TICKS]
  | .spool =>
    [Reg.SPOOL_CTL_LAST_EN, Reg.SPOOL_CTL_KEEP_MAX, Reg.SPOOL_CMD_UNPIN_ALL, Reg.SPOOL_SPARE_WAY_DISABLED,
     Reg.SPOOL_SPARE_SPARE_USED, Reg.KEEP_PINNED_PINNED, Reg.SP_HITS_LO, Reg.SP_HITS_HI,
     Reg.SP_MISSES_LO, Reg.SP_MISSES_HI, Reg.SP_WRITEBACKS_COUNT, Reg.LAST_DIRTY_DROPS_COUNT,
     Reg.LAST_ON_KEEP_COUNT, Reg.KEEP_DENIED_COUNT, Reg.SP_REFETCH_COUNT]
  | .regulator =>
    [Reg.REG_CFG_EN, Reg.REG_CFG_BURST, Reg.REG_CFG_RATE, Reg.REG_TOKENS_UNITS,
     Reg.REG_STALLS_STALLS]
  | .winch =>
    [Reg.WN_STAT_BUSY, Reg.WN_STAT_PHASE, Reg.WN_STAT_CTX, Reg.WN_STAT_SEG,
     Reg.WN_DESC_BASE_BASE, Reg.WN_FAULT_RECORD, Reg.WN_FAULT_CODE, Reg.WN_CMD_NAN_CLR,
     Reg.WN_CMD_FAULT_CLR, Reg.WN_LAT_WIRE_BYTES, Reg.WN_LAT_FIX_LAT, Reg.SEGS_COMBINED_COUNT,
     Reg.SCALE_RAISED_COUNT, Reg.WN_CLIPS_COUNT, Reg.WN_OF_COUNT, Reg.NAN_ELEMS_COUNT,
     Reg.WAIT_TICKS_COUNT, Reg.BACKUP_TAKEN_COUNT, Reg.DUP_DISCARDS_COUNT, Reg.PROTO_DROPS_COUNT,
     Reg.WN_NAN_INFO_VALID, Reg.WN_NAN_INFO_RANK, Reg.WN_NAN_INFO_DESC, Reg.WN_NAN_ELEM_ELEM,
     Reg.WN_NAN_STEP_STEP, Reg.SCALE_CLAMPED_COUNT, Reg.NAN_GROUPS_GROUPS, Reg.NAN_SEALED_GROUPS,
     Reg.WG_CFG_W0_VALID, Reg.WG_CFG_W0_ROLE, Reg.WG_CFG_W0_SIZE, Reg.WG_CFG_W0_RANK_POS,
     Reg.WG_CFG_W1_NEXT_B_VALID, Reg.WG_CFG_W1_NEXT_B, Reg.WG_CFG_W1_NEXT_P, Reg.WG_CFG_W2_PREV_B_VALID,
     Reg.WG_CFG_W2_PREV_B, Reg.WG_CFG_W2_PREV_P, Reg.WG_CFG_W3_STAGE_ADDR]
  | .burner =>
    [Reg.BN_STAT_BUSY, Reg.BN_STAT_PHASE, Reg.BN_STAT_RECORD, Reg.BN_DESC_BASE_BASE,
     Reg.BN_FAULT_RECORD, Reg.BN_FAULT_CODE, Reg.BN_CMD_FAULT_CLR, Reg.BN_PROGRESS_ELEM,
     Reg.UPDATES_COUNT, Reg.NAN_SKIPS_COUNT, Reg.BLOCK_FALLBACK_COUNT, Reg.REFACTORS_COUNT,
     Reg.DAMP_RAISES_COUNT, Reg.BN_CLIPS_COUNT, Reg.WC_CLIPS_COUNT, Reg.UPD_NONFINITE_COUNT,
     Reg.WC_REWRITES_COUNT, Reg.REEL_WAITS_COUNT, Reg.BN_GSEL_AUTO_INC, Reg.BN_GSEL_BANK,
     Reg.BN_GSEL_GROUP, Reg.BN_GSEL_WORD, Reg.BN_GWIN_DATA, Reg.BN_GINVALID_GROUPS]
  | .reel =>
    [Reg.LR_BASE_LR_BASE, Reg.RL_SEL_GROUP, Reg.RL_LAT_CYCLES, Reg.RL_LR_VALUE,
     Reg.RL_A_VALUE, Reg.RL_B_VALUE, Reg.RL_DEC_VALUE, Reg.RL_C1_VALUE,
     Reg.RL_C2_VALUE, Reg.RL_STEP_STEP]
  | .kiteCtl =>
    [Reg.KITE_ID_BALLAST, Reg.KITE_ID_ACTIVE, Reg.KITE_ID_SLOT, Reg.KITE_ID_TRAIN,
     Reg.KITE_ID_LOGICAL, Reg.KITE_STATE_STATE, Reg.LIVE_EPOCH_EPOCH, Reg.KITE_CLK_THROTTLED,
     Reg.KITE_CLK_FREQ_MHZ, Reg.KITE_FAULT_OP_INDEX, Reg.KITE_FAULT_CODE, Reg.OPS_BASE_BASE,
     Reg.OPS_COUNT_COUNT, Reg.PLAN_PC_PC, Reg.SLIP_COUNT_SLIPS, Reg.ACC_BASE_ACC_BASE,
     Reg.ACC_SIZE_ACC_SIZE, Reg.SP_SPARE_SPARE_TOTAL, Reg.SP_SPARE_SPARE_USED, Reg.SP_RETIRE_SP_RETIRE_CE,
     Reg.BANK_STALL_STALLS, Reg.GATE_CTL_ZERO_GATE_EN, Reg.PWR_GATED_GATED_FRAC, Reg.KITE_CMD_FAULT_CLR]
  | .kiteArr =>
    [Reg.ARR_PROFILE_MODE, Reg.ARR_PROFILE_SHAPE, Reg.ARR_PROFILE_BRIDLE, Reg.ROW_MASK_ROWS,
     Reg.ARR_STATUS_LOAD_ROW, Reg.ARR_STATUS_LIVE_PROFILE, Reg.ARR_STATUS_LIVE_BRIDLE, Reg.ARR_STATUS_LIVE_SHAPE,
     Reg.ARR_STATUS_LIVE_VALID, Reg.ARR_STATUS_SHADOW_STATE, Reg.ARR_FLAGS_STEP_FLAGS, Reg.ARR_FLAGS_UF,
     Reg.ARR_FLAGS_OF, Reg.ARR_FLAGS_INVALID, Reg.ARR_FLAGS_NAN_IN, Reg.STAT_LOADS_LO,
     Reg.STAT_LOADS_HI, Reg.STREAM_COLS_LO, Reg.STREAM_COLS_HI, Reg.WEIGHT_BUBBLES_BUBBLES,
     Reg.ARR_LAT_THIN_ADD, Reg.ARR_LAT_ACC_LAT, Reg.ARR_LAT_BRIDLE_ADD, Reg.ARR_LAT_BASE_LAT,
     Reg.ARR_CAP_MODES, Reg.ARR_CAP_SHAPES, Reg.ARR_CAP_BRIDLES, Reg.CB_FILE_STAT_CB_COPY_BUSY,
     Reg.CB_FILE_STAT_RSC_COPY_BUSY, Reg.CB_FILE_STAT_CB_RETIRING, Reg.CB_FILE_STAT_RSC_RETIRING, Reg.ESC_FAULT_CAUSE,
     Reg.ESC_FAULT_BLOCK, Reg.ESC_FAULT_COUNT, Reg.ESC_FAULT_COLUMN, Reg.ESC_SUBST_SUBSTS,
     Reg.SLICE_SKIP_LO, Reg.SLICE_SKIP_HI, Reg.SLICE_LAT_COMBINE_LAT, Reg.TBL_FILLS_FILLS,
     Reg.CBF_CTL_AUTO_INC, Reg.CBF_CTL_BANK, Reg.CBF_CTL_FILE, Reg.CBF_INDEX_WORD,
     Reg.CBF_DATA_DATA, Reg.CBF_WAITS_WAITS]
  | .kiteVec =>
    [Reg.VEC_STATUS_BUSY, Reg.VEC_STATUS_VOP, Reg.VEC_STATUS_ELEM, Reg.VEC_FLAGS_STEP_FLAGS,
     Reg.VEC_FLAGS_DZ, Reg.VEC_FLAGS_UF, Reg.VEC_FLAGS_OF, Reg.VEC_FLAGS_INVALID,
     Reg.VEC_FLAGS_NAN_IN, Reg.VEC_CLIPS_CLIPS, Reg.VEC_ELEMS_LO, Reg.VEC_ELEMS_HI,
     Reg.NAN_TRAP_STEP_STEP, Reg.NAN_TRAP_OP_OP_INDEX, Reg.NAN_TRAP_ELEM_TAG, Reg.NAN_TRAP_ELEM_ELEM,
     Reg.NAN_TRAP_INFO_VALID, Reg.NAN_TRAP_INFO_KIND, Reg.NAN_TRAP_INFO_SOURCE, Reg.NAN_TRAP_INFO_UOP,
     Reg.NAN_TRAP_INFO_CARRY, Reg.NAN_TRAP_INFO_LOGICAL, Reg.NAN_TRAPS_TRAPS, Reg.VEC_LAT_RED_ADD,
     Reg.VEC_LAT_SCAN_RATE, Reg.VEC_LAT_LANES, Reg.VEC_LAT_PIPE_LAT, Reg.VP_CTL_AUTO_INC,
     Reg.VP_CTL_BANK, Reg.VP_INDEX_WORD, Reg.VP_DATA_DATA, Reg.VP_FILE_STAT_VP_COPY_BUSY,
     Reg.VP_FILE_STAT_VP_RETIRING]
  | .kiteEnv =>
    [Reg.ENV_STAT_SNAP_VALID, Reg.ENV_SNAP_STEP_STEP, Reg.ENV_SEL_AUTO_INC, Reg.ENV_SEL_TAG,
     Reg.ENV_SEL_WORD, Reg.ENV_WIN_DATA, Reg.ENV_DISCARD_DISCARDS, Reg.ENV_SAT_COUNT_SATS,
     Reg.TAG_CFG_HIST_BASE, Reg.TAG_CFG_HIST_SHIFT]
  | .stackCtl =>
    [Reg.STK_ID_DIE_GBIT, Reg.STK_ID_PCS, Reg.STK_ID_SIDS, Reg.STK_ID_STACK,
     Reg.STK_TEMP_BAND, Reg.STK_TEMP_TEMP_MAX, Reg.STK_TEMP_TEMP, Reg.STK_THERM_HYST,
     Reg.MIG_STAT_ACTIVE, Reg.MIG_STAT_BALLAST_USED, Reg.MIG_STAT_SRC, Reg.MIG_STAT_COPIED,
     Reg.STK_CMD_LOGICAL, Reg.STK_CMD_UE_CLR, Reg.STK_CMD_MIGRATE, Reg.PC_MAP_PHYS,
     Reg.PC_BALLAST_PHYS]
  | .stackErr =>
    [Reg.UE_ADDR_LO_ADDR, Reg.UE_ADDR_HI_VALID, Reg.UE_ADDR_HI_ADDR, Reg.UE_INFO_PPC,
     Reg.UE_INFO_SID, Reg.UE_INFO_BG, Reg.UE_INFO_BANK, Reg.UE_INFO_ROW,
     Reg.UE_INFO_XFER, Reg.ODE_CE_COUNT, Reg.SYM_CE_COUNT, Reg.RETRY_OK_COUNT,
     Reg.ROW_REMAPS_COUNT, Reg.HPPR_DONE_COUNT, Reg.PAGES_RETIRED_COUNT, Reg.SPARES_USED_COUNT,
     Reg.TRACKER_EVICT_COUNT, Reg.UNSCHED_RETRAINS_COUNT, Reg.SCRUB_PASSES_COUNT, Reg.SPARE_PERM_COUNT,
     Reg.RESERVE_FREE_COUNT, Reg.HPPR_STEPS_COUNT]
  | .stackChan =>
    [Reg.PC_REC_CE_CE, Reg.PC_REC_UE_UE, Reg.PC_REC_ST_STATE, Reg.PC_REC_ST_LOGICAL,
     Reg.PC_REC_ST_INTERVAL_CE, Reg.PC_REC_RT_RETRAINS]
  | .lineCtl =>
    [Reg.LINE_CFG_EN, Reg.LINE_CFG_DATELINE, Reg.LINE_CFG_DIM, Reg.LINE_CFG_MEDIA,
     Reg.LINE_CFG_PART, Reg.LINE_CFG_DELAY_ASYM, Reg.LINE_CFG_RETRY_MAX, Reg.LINE_STAT_STATE,
     Reg.LINE_STAT_DETOUR_USE, Reg.LINE_STAT_TB_PARENT, Reg.LINE_RTT_RTT, Reg.TX_FLITS_LO,
     Reg.TX_FLITS_HI, Reg.RX_FLITS_LO, Reg.RX_FLITS_HI, Reg.CRC_ERRS_COUNT,
     Reg.RETRIES_COUNT, Reg.RETRY_FLITS_COUNT, Reg.LINE_FEC_CE_COUNT, Reg.LINE_FEC_UE_COUNT,
     Reg.LINE_DOWNS_COUNT, Reg.CREDIT_STALLS_COUNT, Reg.REPLAY_FULL_COUNT, Reg.TX_BYTES_VC7_COUNT]
  | .lineLane =>
    [Reg.LANE_MAP_MAP, Reg.LANE_BALLAST_BALLAST_USED, Reg.LANE_BALLAST_PHYS, Reg.LANE_THRESH_LANE_CE_THRESH,
     Reg.LANE_CMD_LOGICAL, Reg.LANE_CMD_LANE_SWAP_CMD, Reg.LANE_REC_ERR_SYM_ERR, Reg.LANE_REC_ST_STATE,
     Reg.LANE_REC_ST_INTERVAL_ERR]

/-- R376: the BLOCK code of each page type. -/
def blockCode : PageKind → Nat
  | .identity => 0x1
  | .devCtl => 0x2
  | .clocks => 0x3
  | .thermal => 0x4
  | .dfi => 0x5
  | .governor => 0x6
  | .precision => 0x7
  | .memory => 0x8
  | .plan => 0x9
  | .fabric => 0xa
  | .eventCtl => 0x10
  | .core => 0x11
  | .security => 0x12
  | .flash => 0x13
  | .mac => 0x20
  | .scoring => 0x21
  | .cmdEngine => 0x22
  | .timeBase => 0x30
  | .haulDown => 0x31
  | .trace => 0x32
  | .trainCtl => 0x40
  | .spool => 0x41
  | .regulator => 0x42
  | .winch => 0x43
  | .burner => 0x44
  | .reel => 0x45
  | .kiteCtl => 0x50
  | .kiteArr => 0x51
  | .kiteVec => 0x52
  | .kiteEnv => 0x53
  | .stackCtl => 0x60
  | .stackErr => 0x61
  | .stackChan => 0x62
  | .lineCtl => 0x70
  | .lineLane => 0x71

namespace Ev

def devCtl_WR_ILLEGAL : Evt := ⟨.devCtl, 0⟩
def devCtl_DEV_READY : Evt := ⟨.devCtl, 1⟩
def clocks_WR_ILLEGAL : Evt := ⟨.clocks, 0⟩
def clocks_REF_LOST : Evt := ⟨.clocks, 1⟩
def clocks_CLK_CHANGE : Evt := ⟨.clocks, 2⟩
def thermal_WR_ILLEGAL : Evt := ⟨.thermal, 0⟩
def thermal_PWR_LIMIT : Evt := ⟨.thermal, 1⟩
def thermal_THERM_LIMIT : Evt := ⟨.thermal, 2⟩
def thermal_PHASE_SHED : Evt := ⟨.thermal, 3⟩
def thermal_COOL_HOT : Evt := ⟨.thermal, 4⟩
def thermal_VIN_LOW : Evt := ⟨.thermal, 5⟩
def governor_WR_ILLEGAL : Evt := ⟨.governor, 0⟩
def governor_GOV_FIRE : Evt := ⟨.governor, 1⟩
def governor_GOV_CHANGE : Evt := ⟨.governor, 2⟩
def governor_GOV_BOUND : Evt := ⟨.governor, 3⟩
def governor_UFLOW_STREAK : Evt := ⟨.governor, 4⟩
def governor_UFW_OFF : Evt := ⟨.governor, 5⟩
def governor_GOV_DIVERGE : Evt := ⟨.governor, 6⟩
def governor_GOV_LATE : Evt := ⟨.governor, 7⟩
def precision_WR_ILLEGAL : Evt := ⟨.precision, 0⟩
def memory_WR_ILLEGAL : Evt := ⟨.memory, 0⟩
def memory_WIN_DEFER : Evt := ⟨.memory, 1⟩
def plan_WR_ILLEGAL : Evt := ⟨.plan, 0⟩
def plan_PLAN_REJECT : Evt := ⟨.plan, 1⟩
def plan_PLAN_LOADED : Evt := ⟨.plan, 2⟩
def plan_STEP_SEALED : Evt := ⟨.plan, 3⟩
def plan_STEP_ABORT : Evt := ⟨.plan, 4⟩
def plan_MODE_SKEW : Evt := ⟨.plan, 5⟩
def plan_EPOCH_MISMATCH : Evt := ⟨.plan, 6⟩
def plan_REPLAY_LIMIT : Evt := ⟨.plan, 7⟩
def plan_STEP_TIMEOUT : Evt := ⟨.plan, 8⟩
def plan_PLAN_UE : Evt := ⟨.plan, 9⟩
def plan_HANDOVER : Evt := ⟨.plan, 10⟩
def plan_RUNG3 : Evt := ⟨.plan, 11⟩
def plan_RUNG4 : Evt := ⟨.plan, 12⟩
def fabric_WR_ILLEGAL : Evt := ⟨.fabric, 0⟩
def fabric_DISC_DONE : Evt := ⟨.fabric, 1⟩
def fabric_NBR_CHANGE : Evt := ⟨.fabric, 2⟩
def fabric_NO_ROUTE : Evt := ⟨.fabric, 3⟩
def fabric_ORDER_DROP : Evt := ⟨.fabric, 4⟩
def fabric_PERSIST_HIT : Evt := ⟨.fabric, 5⟩
def fabric_TB_MASTER_LOST : Evt := ⟨.fabric, 6⟩
def eventCtl_WR_ILLEGAL : Evt := ⟨.eventCtl, 0⟩
def eventCtl_STRAY_EOI : Evt := ⟨.eventCtl, 1⟩
def eventCtl_LATE_MASK : Evt := ⟨.eventCtl, 2⟩
def eventCtl_GLITCH_REJ : Evt := ⟨.eventCtl, 3⟩
def core_CORE_FAILED : Evt := ⟨.core, 1⟩
def core_HANDOVER_DONE : Evt := ⟨.core, 2⟩
def security_WR_ILLEGAL : Evt := ⟨.security, 0⟩
def security_RNG_FAIL : Evt := ⟨.security, 1⟩
def security_LOG_OVERFLOW : Evt := ⟨.security, 2⟩
def flash_WR_ILLEGAL : Evt := ⟨.flash, 0⟩
def flash_FL_DONE : Evt := ⟨.flash, 1⟩
def flash_FW_PHASE : Evt := ⟨.flash, 2⟩
def mac_WR_ILLEGAL : Evt := ⟨.mac, 0⟩
def mac_LINK_UP : Evt := ⟨.mac, 1⟩
def mac_LINK_DOWN : Evt := ⟨.mac, 2⟩
def mac_FEC_UE : Evt := ⟨.mac, 3⟩
def scoring_WR_ILLEGAL : Evt := ⟨.scoring, 0⟩
def scoring_VALIDATED : Evt := ⟨.scoring, 1⟩
def scoring_WL_DONE : Evt := ⟨.scoring, 2⟩
def scoring_SC_FAULT : Evt := ⟨.scoring, 3⟩
def scoring_STALE : Evt := ⟨.scoring, 4⟩
def scoring_BUSY : Evt := ⟨.scoring, 5⟩
def scoring_SLOW : Evt := ⟨.scoring, 6⟩
def scoring_PFC : Evt := ⟨.scoring, 7⟩
def cmdEngine_WR_ILLEGAL : Evt := ⟨.cmdEngine, 0⟩
def cmdEngine_CE_BAD : Evt := ⟨.cmdEngine, 1⟩
def cmdEngine_EVT_LOST : Evt := ⟨.cmdEngine, 2⟩
def timeBase_WR_ILLEGAL : Evt := ⟨.timeBase, 0⟩
def timeBase_TB_UNLOCK : Evt := ⟨.timeBase, 1⟩
def timeBase_TB_LOCK : Evt := ⟨.timeBase, 2⟩
def timeBase_MEAS_DONE : Evt := ⟨.timeBase, 3⟩
def haulDown_WR_ILLEGAL : Evt := ⟨.haulDown, 0⟩
def haulDown_HAUL_CUT : Evt := ⟨.haulDown, 1⟩
def haulDown_SCAN_DONE : Evt := ⟨.haulDown, 2⟩
def haulDown_RELEASED : Evt := ⟨.haulDown, 3⟩
def haulDown_LATE_CUT : Evt := ⟨.haulDown, 4⟩
def haulDown_MARK_TIMEOUT : Evt := ⟨.haulDown, 5⟩
def trace_WR_ILLEGAL : Evt := ⟨.trace, 0⟩
def trace_TR_DROP : Evt := ⟨.trace, 1⟩
def trace_TR_FULL : Evt := ⟨.trace, 2⟩
def trainCtl_WR_ILLEGAL : Evt := ⟨.trainCtl, 0⟩
def trainCtl_KITE_FAILED : Evt := ⟨.trainCtl, 1⟩
def trainCtl_KITE_REPLACED : Evt := ⟨.trainCtl, 2⟩
def trainCtl_BALLAST_EXHAUSTED : Evt := ⟨.trainCtl, 3⟩
def spool_WR_ILLEGAL : Evt := ⟨.spool, 0⟩
def spool_DIRTY_DROP : Evt := ⟨.spool, 1⟩
def spool_SP_UE : Evt := ⟨.spool, 2⟩
def spool_WAY_SPARED : Evt := ⟨.spool, 3⟩
def spool_WAY_OFF : Evt := ⟨.spool, 4⟩
def regulator_WR_ILLEGAL : Evt := ⟨.regulator, 0⟩
def regulator_REG_STALL : Evt := ⟨.regulator, 1⟩
def winch_WR_ILLEGAL : Evt := ⟨.winch, 0⟩
def winch_WN_FAULT : Evt := ⟨.winch, 1⟩
def winch_SCALE_RAISED : Evt := ⟨.winch, 2⟩
def winch_WN_NAN : Evt := ⟨.winch, 3⟩
def winch_BACKUP_TAKEN : Evt := ⟨.winch, 4⟩
def winch_BACKUP_DIVERGE : Evt := ⟨.winch, 5⟩
def winch_WN_CLIP : Evt := ⟨.winch, 6⟩
def burner_WR_ILLEGAL : Evt := ⟨.burner, 0⟩
def burner_BN_FAULT : Evt := ⟨.burner, 1⟩
def burner_NAN_SKIP : Evt := ⟨.burner, 2⟩
def burner_BLOCK_FALLBACK : Evt := ⟨.burner, 3⟩
def burner_UPD_NONFINITE : Evt := ⟨.burner, 4⟩
def burner_GROUP_INVALID : Evt := ⟨.burner, 5⟩
def burner_T_SAT : Evt := ⟨.burner, 6⟩
def reel_WR_ILLEGAL : Evt := ⟨.reel, 0⟩
def reel_REEL_WAIT : Evt := ⟨.reel, 1⟩
def kiteCtl_WR_ILLEGAL : Evt := ⟨.kiteCtl, 0⟩
def kiteCtl_OP_FAULT : Evt := ⟨.kiteCtl, 1⟩
def kiteCtl_SP_CE : Evt := ⟨.kiteCtl, 2⟩
def kiteCtl_SP_UE : Evt := ⟨.kiteCtl, 3⟩
def kiteCtl_SPARE_LOW : Evt := ⟨.kiteCtl, 4⟩
def kiteCtl_SPARE_EXHAUSTED : Evt := ⟨.kiteCtl, 5⟩
def kiteCtl_SLIP : Evt := ⟨.kiteCtl, 6⟩
def kiteCtl_BANK_CONFLICT : Evt := ⟨.kiteCtl, 7⟩
def kiteCtl_THROTTLE : Evt := ⟨.kiteCtl, 8⟩
def kiteArr_WR_ILLEGAL : Evt := ⟨.kiteArr, 0⟩
def kiteArr_NAN_OUT : Evt := ⟨.kiteArr, 1⟩
def kiteArr_OF_OUT : Evt := ⟨.kiteArr, 2⟩
def kiteArr_INVALID : Evt := ⟨.kiteArr, 3⟩
def kiteArr_WEIGHT_BUBBLE : Evt := ⟨.kiteArr, 4⟩
def kiteArr_ACC_RANGE : Evt := ⟨.kiteArr, 5⟩
def kiteArr_PROFILE_ILLEGAL : Evt := ⟨.kiteArr, 6⟩
def kiteArr_ESC_OVERRUN : Evt := ⟨.kiteArr, 7⟩
def kiteArr_CBF_WAIT : Evt := ⟨.kiteArr, 8⟩
def kiteVec_WR_ILLEGAL : Evt := ⟨.kiteVec, 0⟩
def kiteVec_NAN_TRAP : Evt := ⟨.kiteVec, 1⟩
def kiteVec_VEC_OF : Evt := ⟨.kiteVec, 2⟩
def kiteVec_VEC_INVALID : Evt := ⟨.kiteVec, 3⟩
def kiteVec_VEC_DZ : Evt := ⟨.kiteVec, 4⟩
def kiteVec_VEC_CLIP : Evt := ⟨.kiteVec, 5⟩
def kiteVec_LOAD_RANGE : Evt := ⟨.kiteVec, 6⟩
def kiteEnv_WR_ILLEGAL : Evt := ⟨.kiteEnv, 0⟩
def kiteEnv_ENV_SAT : Evt := ⟨.kiteEnv, 1⟩
def kiteEnv_ENV_DISCARD : Evt := ⟨.kiteEnv, 2⟩
def stackCtl_WR_ILLEGAL : Evt := ⟨.stackCtl, 0⟩
def stackCtl_BAND_CHANGE : Evt := ⟨.stackCtl, 1⟩
def stackCtl_THROTTLE : Evt := ⟨.stackCtl, 2⟩
def stackCtl_MIG_START : Evt := ⟨.stackCtl, 3⟩
def stackCtl_MIG_DONE : Evt := ⟨.stackCtl, 4⟩
def stackCtl_PC_DEAD : Evt := ⟨.stackCtl, 5⟩
def stackCtl_STACK_DEGRADED : Evt := ⟨.stackCtl, 6⟩
def stackErr_MEM_CE : Evt := ⟨.stackErr, 0⟩
def stackErr_MEM_UE : Evt := ⟨.stackErr, 1⟩
def stackErr_ROW_REMAP : Evt := ⟨.stackErr, 2⟩
def stackErr_PAGE_RETIRED : Evt := ⟨.stackErr, 3⟩
def stackErr_RESERVE_EXHAUSTED : Evt := ⟨.stackErr, 4⟩
def stackErr_RETRAIN : Evt := ⟨.stackErr, 5⟩
def lineCtl_WR_ILLEGAL : Evt := ⟨.lineCtl, 0⟩
def lineCtl_LINE_UP : Evt := ⟨.lineCtl, 1⟩
def lineCtl_LINE_DOWN : Evt := ⟨.lineCtl, 2⟩
def lineCtl_RETRY : Evt := ⟨.lineCtl, 3⟩
def lineCtl_FEC_UE : Evt := ⟨.lineCtl, 4⟩
def lineLane_WR_ILLEGAL : Evt := ⟨.lineLane, 0⟩
def lineLane_LANE_SWAPPED : Evt := ⟨.lineLane, 1⟩
def lineLane_LANE_FAILED : Evt := ⟨.lineLane, 2⟩

end Ev

/-- R379 EVENTS: the number of event bits the page type defines. -/
def eventCount : PageKind → Nat
  | .identity => 0
  | .devCtl => 2
  | .clocks => 3
  | .thermal => 6
  | .dfi => 0
  | .governor => 8
  | .precision => 1
  | .memory => 2
  | .plan => 13
  | .fabric => 7
  | .eventCtl => 4
  | .core => 2
  | .security => 3
  | .flash => 3
  | .mac => 4
  | .scoring => 8
  | .cmdEngine => 3
  | .timeBase => 4
  | .haulDown => 6
  | .trace => 3
  | .trainCtl => 4
  | .spool => 5
  | .regulator => 2
  | .winch => 7
  | .burner => 7
  | .reel => 2
  | .kiteCtl => 9
  | .kiteArr => 9
  | .kiteVec => 7
  | .kiteEnv => 3
  | .stackCtl => 7
  | .stackErr => 6
  | .stackChan => 0
  | .lineCtl => 5
  | .lineLane => 3

end Sys2Proof.Machine
end

