-- ==== Sys2Proof/Machine/Table.lean ====
section
/-! DEFINITION. Sparse tables: lists of (key, value) with keys strictly rising. Every store of the model that is
indexed by an address or a number is one of these; byte memories also drop entries equal to what an unlisted
address reads as, so that equal memories are equal lists. -/

namespace Sys2Proof.Machine

/-- A table from numbers to values. -/
abbrev Table (α : Type) := List (Nat × α)

/-- The value stored at key `k`. -/
def Table.find {α : Type} (k : Nat) : Table α → Option α
  | [] => none
  | (j, v) :: t => if k = j then some v else Table.find k t

/-- The value stored at key `k`, or `d`. -/
def Table.getD {α : Type} (t : Table α) (k : Nat) (d : α) : α := (Table.find k t).getD d

/-- The table with `v` stored at `k`, keys rising. -/
def Table.put {α : Type} (t : Table α) (k : Nat) (v : α) : Table α :=
  match t with
  | [] => [(k, v)]
  | (j, w) :: r =>
    if k < j then (k, v) :: (j, w) :: r
    else if k = j then (k, v) :: r
    else (j, w) :: Table.put r k v

/-- The table without an entry at `k`. -/
def Table.erase {α : Type} (t : Table α) (k : Nat) : Table α := t.filter (fun e => e.1 != k)

/-- The table without the entries whose key passes `p`. -/
def Table.drop {α : Type} (t : Table α) (p : Nat → Bool) : Table α := t.filter (fun e => !p e.1)

/-- Every entry of `u` stored over `t`. -/
def Table.putAll {α : Type} (t : Table α) (u : Table α) : Table α :=
  u.foldl (fun a e => Table.put a e.1 e.2) t

/-- The table's value at `k` changed by `f`, starting from `d`. -/
def Table.modify {α : Type} (t : Table α) (k : Nat) (d : α) (f : α → α) : Table α :=
  Table.put t k (f (Table.getD t k d))

/-- Keys strictly rise: the first key is above `lo` when `lo` is given. -/
def Table.rising {α : Type} : Option Nat → Table α → Bool
  | _, [] => true
  | lo, (k, _) :: t => (match lo with | none => true | some j => decide (j < k)) && Table.rising (some k) t

/-- The canonical form of a byte memory whose unlisted bytes read as `d`: keys rise, no entry equals `d`. -/
def Table.wf {α : Type} [DecidableEq α] (d : α) (t : Table α) : Bool :=
  Table.rising none t && t.all (fun e => e.2 ≠ d)

/-- Stores `v` at `k` in a memory whose unlisted bytes read as `d`, keeping the canonical form. -/
def Table.store {α : Type} [DecidableEq α] (d : α) (t : Table α) (k : Nat) (v : α) : Table α :=
  if v = d then Table.erase t k else Table.put t k v

/-- Reads `n` consecutive keys from `k`. -/
def Table.readN {α : Type} (d : α) (t : Table α) (k : Nat) : Nat → List α
  | 0 => []
  | n + 1 => Table.getD t k d :: Table.readN d t (k + 1) n

/-- Stores a list at consecutive keys from `k`. -/
def Table.storeN {α : Type} [DecidableEq α] (d : α) (t : Table α) (k : Nat) : List α → Table α
  | [] => t
  | v :: vs => Table.storeN d (Table.store d t k v) (k + 1) vs

end Sys2Proof.Machine
end

