-- ==== Sys2Proof/Machine/State.lean ====
section
/-! DEFINITION. The state of the block, plain data, and the state right after reset. -/

namespace Sys2Proof.Machine

/-- Why a command would stop the block. No meaning raises one: the spec gives every command an effect. -/
inductive Fault where
  /-- Raised by no one; safe. -/
  | none
deriving DecidableEq, Repr

/-- Why a command is turned away by the model. -/
inductive Refusal where
  /-- Raised by the dispatch alone, for a command whose meaning is not written; safe. -/
  | notModelled (mnemonic : String)
deriving DecidableEq, Repr

/-- The common page header of one page (12 R379), the parts that are not computed. -/
structure Hdr where
  freeze : Bool := false
  mask : Word := 0xFFFFFFFF
  pend : Word := 0
  raw : Word := 0
  count : Nat := 0
  ce : Nat := 0
  ue : Nat := 0
  util : Nat := 0
  failed : Bool := false
deriving DecidableEq, Repr

/-- EC_CFG of one event source (13). -/
structure SrcCfg where
  fwd : Bool := false
  level : Bool := true
  pol : Bool := false
  prio : Nat := 0
  target : Nat := 1
  glitch : Nat := 16
deriving DecidableEq, Repr

/-- A source a management core holds, and the tick from which EC_CLAIM shows it (13 R393). -/
structure Claim where
  source : Nat
  shownAt : Nat
deriving DecidableEq, Repr

/-- A filtered pin input: its level at the module edge (13 R390). -/
structure PinIn where
  filtered : Bool := true
deriving DecidableEq, Repr

/-- The event controller (13 R392 to R396). -/
structure EventCtl where
  pend : BitVec 1024 := 0
  mask : BitVec 1024 := BitVec.allOnes 1024
  active : BitVec 1024 := 0
  cfg : Table SrcCfg := []
  claims : Table Claim := []
  pins : Table PinIn := []
deriving DecidableEq, Repr

/-- One event record for the host (13 R397). -/
structure EventRec where
  source : Nat
  level : Bool
  swSet : Bool
  pend : Word
  tick : Nat
  count : Nat
deriving DecidableEq, Repr

/-- A message of the fabric (07 R235 to R237, 08 R284, 09 R311, 12 R377, R378, 15 R430, R439). -/
inductive Msg where
  | ready (src step attempt : Nat) (digest : Word)
  | sealed (step tseal : Nat) (final : Bool)
  | endReq (src : Nat)
  | stop (src step : Nat)
  | abort (step : Nat) (diverged : Bool)
  | replayReady (src step : Nat)
  | replay (step tr : Nat)
  | handover (step : Nat)
  | haul (t origin root cause : Nat)
  | releaseAt (r root : Nat)
  | done (txn bytes : Nat)
  | nack (txn status : Nat)
  | restoreRead (txn flags addr len record : Nat)
  | slotFree (train ctx lap seg : Nat)
  | summary (down : Bool) (sum : Summary)
  | peerReply (txn status : Nat) (body : Bytes)
  | tbReply (tick sync : Nat)
deriving DecidableEq, Repr

/-- The IPv6 and UDP headers of a datagram that leaves (12 R364, R374). -/
structure UdpHead where
  src : Nat
  dst : Nat
  sport : Nat
  dport : Nat
  hops : Nat
  checksum : Nat
deriving DecidableEq, Repr

/-- A frame of the host port that leaves (11 R350, R359, 12 R374): on the express or the preemptable MAC. -/
structure EthFrame where
  dst : Nat
  src : Nat
  tag : Option Nat
  etherType : Nat
  udp : Option UdpHead
  express : Bool
  payload : Bytes
deriving DecidableEq, Repr

/-- What the device sends or answers; the environment carries it (log 10). `msg` is a message of the device to itself, whose
own command follows. -/
inductive Out where
  | msg (vc dst : Nat) (m : Msg)
  | readData (data : Bytes)
  | word (v : Nat)
  | flit (line : Nat) (bytes : Bytes)
  | message (src ep vc : Nat) (body : Bytes)
  | frame (cls : Nat) (f : EthFrame)
  | pause (prio : Nat) (on : Bool)
deriving DecidableEq, Repr

/-- A write of a shadowed word, or of a word of a kite file's shadow bank, that the last 64 ticks before a commit hold back
(07 R241). -/
inductive ShWrite where
  | field (key value : Nat)
  | file (slot : Nat) (f : FileKind) (word value : Nat)
deriving DecidableEq, Repr

/-- One trace record (15 R424). -/
structure TraceRec where
  tick : Nat
  kind : Nat
  unit : Nat
  attempt : Nat
  step : Nat
  a : Nat
  b : Nat
  c : Nat
deriving DecidableEq, Repr

/-- Haul-down (15 R427 to R441): the last HAULs and RELEASEs seen, the ROOT of the cut, the resume tick, the lines whose
captures are open with the LAST_SEQ of their cut marker, and whether the STOP of R428 waits for release. -/
structure Haul where
  seen : List (Nat × Nat) := []
  released : List (Nat × Nat) := []
  root : Nat := 0
  resume : Nat := 0
  captures : Table (Option Nat) := []
  stopAtRelease : Bool := false
deriving DecidableEq, Repr

/-- The loaded plan (07 R244, R245): its header, and by section where train programs (key train × 4 + program) and line
schedules lie in the plan region (offset, bytes), the seal group, this device's domain and all domains, the RESIDENT ranges of
each logical kite and the SP_DATA sections (offset, bytes, scratchpad address), and the PERSISTENT ranges. -/
structure Plan where
  seed : Nat := 0
  rank : Nat := 0
  relShift : Nat := 0
  firstStep : Nat := 0
  stepCount : Nat := 0
  winPhase : Nat := 0
  stepLead : Nat := 256
  stepMin : Nat := 0
  stepLimit : Nat := 0
  progs : Table (Nat × Nat) := []
  scheds : Table (Nat × Nat) := []
  devices : List Nat := []
  domain : List Nat := []
  domains : List (List Nat) := []
  resident : Table (List (Nat × Nat)) := []
  spData : Table (List (Nat × Nat × Nat)) := []
  persistent : List (Nat × Nat) := []
deriving DecidableEq, Repr

/-- A line of a train's spool (06 R206): its address / 128, the way it sits in, and per 64-byte sector whether it is
valid and, when dirty, its data. A clean sector's data is HBM's, but for one that HBM has lost since (R221, R229): `k0`, `k1`
hold its bytes. -/
structure SpoolLine where
  tag : Nat
  way : Nat
  pin : Bool := false
  v0 : Bool := false
  v1 : Bool := false
  d0 : Option Bytes := none
  d1 : Option Bytes := none
  k0 : Option Bytes := none
  k1 : Option Bytes := none
deriving DecidableEq, Repr

/-- State of a remap entry (06 R220). -/
inductive RemapState where
  | spare | pprPending | repaired | sparePerm
deriving DecidableEq, Repr

/-- A row's entry in its bank's remap table (06 R220): failures so far, the spare row it uses, its state, and the
repair windows done (R222). -/
structure RemapEntry where
  failures : Nat
  spare : Option Nat
  st : RemapState := .spare
  steps : Nat := 0
deriving DecidableEq, Repr

/-- A pseudo-channel migration (06 R228): from physical channel `src` to `dst`, serving `logical`; whether it is copied, and
whether its switch is deferred to a later window (R226). -/
structure Migration where
  src : Nat
  dst : Nat
  logical : Nat
  copied : Bool := false
  deferred : Bool := false
deriving DecidableEq, Repr

/-- One HBM stack beyond its registers (06 R215 to R229). Rows are numbered
((physical channel × 48 + bank) × 32,768 + row), granules of a logical channel (channel × 2^20 + granule), spare rows
(32 × bank of the stack + spare). `bad`: transfers that read uncorrectable, by address / 64. `repaired`: rows whose repair ended
in the open window. `queued`: failed rows that wait for a repair of their bank. `badSpares`, `deadReserve`: spare rows and
reserve granules that have failed. `candidates`: channels without a free reserve granule. `ceRun`: by channel, the cycles of
the latest correctable errors. `scrubbed`: by channel, the transfers scrubbed. `idle`: bytes of channels that serve none. -/
structure StackState where
  bad : List Nat := []
  tracker : List (Nat × Nat) := []
  remap : Table RemapEntry := []
  xlat : Table Nat := []
  xlatShadow : Table Nat := []
  retire : List Nat := []
  repaired : List Nat := []
  queued : List Nat := []
  badSpares : List Nat := []
  deadReserve : List Nat := []
  candidates : List Nat := []
  mig : Option Migration := none
  overRuns : Table Nat := []
  cool : Nat := 0
  ceRun : Table (List Nat) := []
  failedRetrain : Table Nat := []
  scrubbed : Table Nat := []
  idle : List Host.Cell := []
deriving DecidableEq, Repr

/-- A regulator bucket (06 R213): content in 1/1,024 token and the memory-side cycle it was brought up to. -/
structure Bucket where
  units : Int := 4194304
  cycle : Nat := 0
deriving DecidableEq, Repr

/-- A spool access that waits for tokens, and the memory-side cycle in which it came to the head of its queue (06 R213). -/
structure Waiting where
  req : SpoolReq
  since : Nat
deriving DecidableEq, Repr

/-- The maintenance window that is open (06 R225): its number and its first tick. -/
structure Window where
  k : Nat
  start : Nat
  queue : List SpoolReq := []
deriving DecidableEq, Repr

/-- The memory side of the trains: spool sets, errors of ways and the ways that are disabled by set group (16 × train + group),
stacks, regulators, the open window, the values in force of the fields that take effect in the next one (06 R230), and the
spare rows other SRAM macros use (14 R405). -/
structure Memory where
  spool : Table (List SpoolLine) := []
  wayErrs : Table (Nat × Nat) := []
  wayOff : Table Nat := []
  stackTab : Table StackState := []
  buckets : Table Bucket := []
  queues : Table (List Waiting) := []
  window : Option Window := none
  tuned : Table Nat := []
  sramUsed : Table Nat := []
deriving DecidableEq, Repr

/-- The step and the seal (07 R233 to R241): the armed step tick with the number of its step, the armed device-local commits
and replay tick, T(S) of the running step, the tick of the last commit, whether the running step is sealed, whether the plan
closes after a final seal, what was sent, whether the next step tick was missed, the ticks of halts since the step start (15
R440), the slots whose gating was off throughout the running and the last completed step (01 R43), and at the seal root the
READYs with their digests, the REPLAY_READYs, END_REQ, divergences in succession and the devices that handed over with their
partners. -/
structure Step where
  armed : Option (Nat × Nat) := none
  commitAt : List Nat := []
  replayAt : Option Nat := none
  stepT : Nat := 0
  lastCommit : Nat := 0
  isSealed : Bool := false
  closing : Bool := false
  readySent : Bool := false
  restored : Bool := false
  replaySent : Bool := false
  stopNext : Bool := false
  late : Bool := false
  shift : Nat := 0
  ungated : List Nat := []
  ungatedLast : List Nat := []
  rootReady : List (Nat × Nat) := []
  rootReplay : List Nat := []
  rootDone : Bool := false
  endReq : Bool := false
  diverged : Nat := 0
  handed : List (Nat × Nat) := []
deriving DecidableEq, Repr

/-- An op under way until it completes (07 R248): its index, class, the gate it signals, the tick it started in, its slip
and held cycles (15 R419), the units' granules still to come, and its flags. -/
structure OpRun where
  idx : Nat
  cls : Nat
  sig : Option Nat
  start : Nat
  slip : Nat
  holds : Nat := 0
  flags : Nat := 0
deriving DecidableEq, Repr

/-- A train program's sequencer (07 R248, R255): its next record and, for a memory program, the record that runs. -/
structure Seq where
  next : Nat := 0
  run : Option OpRun := none
deriving DecidableEq, Repr

/-- The governor (04 R152 to R174): the step sealed last with its tick, this device's summary, the children's summaries,
the domain summary with its step when it waits for an evaluation, the streaks (256 × rule + tag) and watch streaks, the
rules whose words the host wrote, the streaks, watch streaks and precision shadow words as
they stood before the last evaluation, the summary evaluated, the replicas that have not
acknowledged, the step evaluated last, and whether GOV_LATE runs. -/
structure Gov where
  sealedStep : Nat := 0
  sealTick : Nat := 0
  own : Option (Table TagRec) := none
  children : List (Nat × Summary) := []
  domain : Option Summary := none
  held : Bool := false
  streaks : Table Nat := []
  watch : Table Nat := []
  touched : List Nat := []
  before : Option (Table Nat × Table Nat × Table Nat) := none
  evaluated : Option Summary := none
  missing : List Replica := []
  evalStep : Option Nat := none
  lateSince : Option Nat := none
deriving DecidableEq, Repr

/-- A flit beyond its link fields (08 R264, R265); `msg` is the message of this device that it carries, `via` the line and the
class it arrived with (R278). -/
structure Flit where
  ftype : Nat
  vc : Nat
  cls : Nat
  first : Bool
  last : Bool
  dst : Nat
  src : Nat
  txn : Nat
  ofs : Nat
  payload : Bytes
  seq : Nat := 0
  msg : Option Msg := none
  via : Option (Nat × Nat) := none
deriving DecidableEq, Repr

/-- What a transfer that this device sends is for (08 R281, 09 R310, 12 R378). -/
inductive SendOwner where
  | lineRecord (line idx : Nat)
  | segment (train ctx lap seg : Nat) (backup : Bool)
  | restore
deriving DecidableEq, Repr

/-- A transfer sent and not yet answered by DONE (08 R284). -/
structure Send where
  txn : Nat
  vc : Nat
  src : Nat
  dst : Nat
  owner : SendOwner
  line : Option Nat
  body : Bytes
  resent : Bool := false
deriving DecidableEq, Repr

/-- A transfer that arrives (08 R280 to R284). `dropped` marks one whose remaining flits are discarded, `sink` one that
is accepted and discarded (14 R414). -/
structure Recv where
  src : Nat
  ep : Nat
  vc : Nat
  txn : Nat
  daddr : Nat := 0
  addr : Nat := 0
  bytes : Nat := 0
  expect : Nat := 0
  sig : Option (Nat × Nat) := none
  dropped : Bool := false
  sink : Bool := false
deriving DecidableEq, Repr

/-- A line (08 R261 to R293): output queues, arrival buffers, credits held and owed by 2 × VC + CLS, LINK flits to send,
the replay buffer and the rewound flits, sequence numbers, retry, round-robin, bytes of VC 7 not yet counted, the peer's
answer times, lane windows, and the schedule's sequencer with its records not DONE. -/
structure LineState where
  outq : Table (List Flit) := []
  rxq : Table (List Flit) := []
  credits : Table Nat := []
  owed : Table Nat := []
  link : List Bytes := []
  replay : List Flit := []
  rewound : List Flit := []
  txSeq : Nat := 0
  rxSeq : Nat := 0
  anyRx : Bool := false
  discarding : Bool := false
  askedSeq : Nat := 0
  asked : Nat := 0
  rr : Nat := 2
  vc7Wait : Nat := 0
  vc7Bytes : Nat := 0
  laneSwap : Option (Nat × Nat) := none
  laneMap : List Nat := [0, 1, 2, 3, 4, 5, 6, 7]
  next : Nat := 0
  undone : List Nat := []
  lastTxn : Option Nat := none
  timedOut : Bool := false
  peerMaster : Nat := 0
  peerSerial : Nat := 0
deriving DecidableEq, Repr

/-- An answer to a fabric peer's command, kept to answer a repeated TXN (12 R377, R378). -/
inductive Reply where
  | nack (status : Nat)
  | body (status : Nat) (bytes : Bytes)
  | transfer (dst : Nat) (stream : Bytes)
deriving DecidableEq, Repr

/-- The fabric: lines, the detours in force as (primary, detour) lines (R277), transfers sent and arriving, the last 16
answers to each peer, and the time base distance and parent. -/
structure Fabric where
  lines : Table LineState := []
  inForce : List (Nat × Nat) := []
  txn : Nat := 0
  sends : List Send := []
  recvs : List Recv := []
  written : List Recv := []
  replies : Table (List (Nat × Reply)) := []
  parent : Option Nat := none
  tookOver : Bool := false
deriving DecidableEq, Repr

/-- A winch descriptor (09 R296). -/
structure WinchDesc where
  grad : Nat
  result : Nat
  lacc : Nat
  scale : Nat
  count : Nat
  stream : Nat
  accSteps : Nat
  pgroup : Nat
  gtag : Nat
  wire : Nat
  gradFmt : Nat
  gts : Bool
  decay : Bool
  zeroBits : Bool
deriving DecidableEq, Repr

/-- A segment as a device sends it (09 R310): element bytes, scale bytes, and the trailer's fields that travel. -/
structure Segment where
  elems : Nat
  data : Bytes
  scales : Bytes
  firstNan : Nat
  nanRank : Nat
  raises : Nat
deriving DecidableEq, Repr

/-- A segment in a staging slot (09 R311, R313): its source, the slot's address, its bytes as they arrived, the tick it was
complete at, and whether it passed the checks of R312. -/
structure Staged where
  src : Nat
  addr : Nat
  bytes : Bytes
  since : Nat
  checked : Bool := false
deriving DecidableEq, Repr

/-- A segment sent whose SLOT_FREE has not come (09 R311), of record `idx`. -/
structure WinchSent where
  ctx : Nat
  backup : Bool
  lap : Nat
  seg : Nat
  idx : Nat
deriving DecidableEq, Repr

/-- A winch record under way (09 R295, R300, R307): the ring as latched, progress of both laps, segments to send to each
successor, sends not DONE, CRCs of consumed segments, next segments to arrive (2 × lap + role), freed slots, and the
counts added at the seal. -/
structure WinchRun where
  idx : Nat
  ctx : Nat
  desc : Nat
  d : WinchDesc
  sig : Option Nat
  kite : Nat
  part : Nat
  start : Nat
  accOnly : Bool
  rho : Nat
  size : Nat
  rank : Nat
  lap1 : Nat := 0
  lap2 : Nat := 0
  outP : List (Nat × Nat × Segment) := []
  outB : List (Nat × Nat × Segment) := []
  doneP : Nat := 0
  arrived : Table Nat := []
  crcs : Table Nat := []
  freedP : Table Nat := []
  freedB : Table Nat := []
  raised : Nat := 0
  clips : Nat := 0
  overs : Nat := 0
  clamped : Nat := 0
  nans : Nat := 0
  firstNan : Option (Nat × Nat) := none
deriving DecidableEq, Repr

/-- What a completed record adds at the seal (09 R316, R317). -/
structure WinchTotals where
  raised : Nat := 0
  clips : Nat := 0
  overs : Nat := 0
  clamped : Nat := 0
  nans : Nat := 0
  first : Option (Nat × Nat × Nat × Nat) := none
deriving DecidableEq, Repr

/-- A train's winch beyond its registers: running records by context, the last completed one of each (for second copies),
completed records with segments left to send to a backup (R308), segments sent and not freed, staging slots (16 × context +
slot), stream ids registered in the step, the totals of the step, the context served last, and since when the combine waits
(R309). -/
structure Winch where
  runs : Table WinchRun := []
  past : Table WinchRun := []
  backs : List WinchRun := []
  unfreed : List WinchSent := []
  staged : Table Staged := []
  streams : List Nat := []
  totals : WinchTotals := {}
  last : Nat := 7
  waitSince : Option Nat := none
deriving DecidableEq, Repr

/-- What a burner latches of a group at the seal (10 R324, R325): its configuration words, the working copy's level and tag
scale, whether it has none, is invalid, skipped or updating, whether its working copy is stale (R339), and the reel's constants
(R328). -/
structure GroupLatch where
  words : List Nat
  level : Nat
  scale : Nat
  noFormat : Bool
  invalid : Bool
  skipped : Bool
  updates : Bool
  stale : Bool
  consts : Option (List Nat) := none
deriving DecidableEq, Repr

/-- A burner descriptor (10 R336). -/
structure BurnDesc where
  state : Nat
  grad : Nat
  wcopy : Nat
  wscale : Nat
  count : Nat
  stream : Nat
  rnd : Nat
  zeroBits : Bool
deriving DecidableEq, Repr

/-- The update record under way (10 R338, R343): `pos` is the first element not written, `open_` the
masters written and not yet converted into the working copy, `whole` says the pass is over. -/
structure BurnRun where
  idx : Nat
  group : Nat
  d : BurnDesc
  part : Nat
  kite : Nat
  sig : Option Nat
  start : Nat
  updating : Bool
  pos : Nat := 0
  open_ : List Nat := []
  whole : Bool := false
deriving DecidableEq, Repr

/-- A train's burner beyond its registers (10 R321 to R344): state words of groups (24 × group + word), what it latched at
the seal, the groups whose constants are to be computed, the reel's last constants by group, the running record, stream
ids registered, signals of completed records, and whether records of a sealed step are left. -/
structure Burner where
  words : Table Nat := []
  step : Nat := 0
  lrBase : Nat := 0
  latched : Table GroupLatch := []
  rates : List Nat := []
  shown : Table (List Nat) := []
  run : Option BurnRun := none
  streams : List Nat := []
  signals : List (Nat × Nat) := []
  active : Bool := false
  freeSince : Nat := 0
deriving DecidableEq, Repr

/-- One entry of the service record (14 R417, 16 R456). -/
structure SvcEntry where
  tick : Nat
  kind : Nat
  block : Nat
  inst : Nat
  detail : Nat
  hours : Nat
deriving DecidableEq, Repr

/-- A range asked of the partner (14 R410, R411, 12 R378): TXN, address, bytes, and the train whose burner waits for it. -/
structure Restore where
  txn : Nat
  addr : Nat
  len : Nat
  burner : Option Nat
deriving DecidableEq, Repr

/-- One entry of the event log that takes a kite's fault before FAULT_CLR (07 R237): tick, logical kite, CODE and OP_INDEX. -/
structure KiteFaultRec where
  tick : Nat
  kite : Nat
  code : Nat
  op : Nat
deriving DecidableEq, Repr

/-- Recovery in progress (14 R400 to R413): uncorrectable addresses of pre-seal consumers and of burners (by train), dead
channels, restores asked for and not written, whether no rung but the fourth is left, the repair swaps of the replay tick and
those of the next commit (logical kite, slot that takes it), pieces of RESIDENT ranges to read again (slot; image offset,
scratchpad address, bytes), the log of cleared kite faults (07 R237), the service record, the core that takes a role with that
role, the roles that joined a core (R404), and whether a stack stood in band 2 or above in this hour (R417). -/
structure Recovery where
  ues : List Nat := []
  burnUes : List (Nat × Nat) := []
  dead : List (Nat × Nat) := []
  restores : List Restore := []
  stuck : Bool := false
  swaps : List (Nat × Nat) := []
  planned : List (Nat × Nat) := []
  pieces : List (Nat × Nat × Nat × Nat) := []
  faults : List KiteFaultRec := []
  svc : List SvcEntry := []
  role : Option (Nat × Nat) := none
  joined : List (Nat × Nat) := []
  hot : Bool := false
deriving DecidableEq, Repr

/-- A scoring request admitted to a batch (11 R349, R356): where it came from, the tick of its last bit, FLOW_ID and CTAG,
its feature codes up to the model's K, and its calendar slot. -/
structure ScReq where
  src : HostAddr
  rxTick : Nat
  flow : Nat
  ctag : Nat
  codes : List Nat
  v : Nat
deriving DecidableEq, Repr

/-- A scoring batch, pending or running (11 R355, R356): the model it is bound to (its descriptor words, the partition
train, and per KSET kite the live codebook and program banks), its ticks and its rows. -/
structure Batch where
  slot : Nat
  train : Nat
  words : List Nat
  banks : Table (Table Nat × Table Nat)
  opened : Nat
  start : Nat
  fin : Nat
  running : Bool := false
  reqs : List ScReq := []
deriving DecidableEq, Repr

/-- A verdict in the egress calendar (11 R350, R356, R358): its slot's first tick, ticks taken, request, and payload once
the scores are known. -/
structure Verdict where
  v : Nat
  len : Nat
  src : HostAddr
  rxTick : Nat
  body : Option Bytes
deriving DecidableEq, Repr

/-- A weight load under way (11 R352): partition kite, scratchpad address, HBM source, bytes. -/
structure WeightLoad where
  kite : Nat
  dst : Nat
  src : Nat
  len : Nat
deriving DecidableEq, Repr

/-- The scoring front end beyond its registers (11): batches in the order they opened, the calendar in slot order, the slot
under validation, the weight load under way, and by partition kite the ranges of lost weights not loaded again (R347). -/
structure Scoring where
  batches : List Batch := []
  calendar : List Verdict := []
  validating : Option Nat := none
  load : Option WeightLoad := none
  lost : Table (List (Nat × Nat)) := []
deriving DecidableEq, Repr

/-- A control frame that waits for its turn (12 R370): where it came from and its bytes, header first. -/
structure HeldFrame where
  src : HostAddr
  bytes : Bytes
deriving DecidableEq, Repr

/-- A command stream (12 R370): held frames and stored responses by SEQ. -/
structure CmdStream where
  waiting : Table HeldFrame := []
  answered : Table HeldFrame := []
deriving DecidableEq, Repr

/-- The slave clock of the host port (12 R365): the last Sync's number, its arrival and origin, the last Delay_Req's number
and sending, and the offset found. Times are in the timestamp unit's own time base, in ns. -/
structure Ptp where
  syncSeq : Nat := 0
  syncRx : Nat := 0
  origin : Option Nat := none
  reqSeq : Nat := 0
  reqTx : Option Nat := none
  offset : Int := 0
  stamps : Nat := 0
deriving DecidableEq, Repr

/-- The host port and the control protocol (12 R370 to R373): records to forward, streams, where EVENT and BULK frames
go, the EVENT frames not acknowledged, and control and bulk frames that a verdict holds back (11 R359). -/
structure HostPort where
  events : List EventRec := []
  streams : Table CmdStream := []
  dest : Option HostAddr := none
  unacked : Table Bytes := []
  egress : List (Nat × EthFrame) := []
  ptp : Ptp := {}
deriving DecidableEq, Repr

/-- The sideband (12 R381, R382): its dynamic address, the pending REG_ADDR, the status and value REG_GET returns, whether
a REG_PUT was refused since the last REG_GET, and the health block's copy with its tick. -/
structure Sideband where
  dynAddr : Option Nat := none
  asked : Option Nat := none
  status : Nat := 0
  value : Nat := 0
  refused : Bool := false
  health : Bytes := []
  healthTick : Nat := 0
deriving DecidableEq, Repr

/-- The measured pairs of ticks and own values (07 R232), by SEL, and whether a measurement runs. -/
structure TimePairs where
  pairs : Table (Nat × Nat) := []
  running : Bool := false
deriving DecidableEq, Repr

/-- One entry of the measurement log (16 R451). -/
structure LogEntry where
  mr : Nat
  kind : Nat
  seg : Nat
  num : Nat
  tick : Nat
  digest : Nat
deriving DecidableEq, Repr

/-- A firmware image's segment (16 R447): its index, role, bytes' digest and length. -/
structure Segment16 where
  idx : Nat
  role : Nat
  len : Nat
  digest : Nat
deriving DecidableEq, Repr

/-- A firmware image in code memory (16 R447). -/
structure Image where
  iface : Nat := 0
  svn : Nat := 0
  ver : Nat := 0
  segs : List Segment16 := []
deriving DecidableEq, Repr

/-- What the flash is doing (16 FL_STAT.BUSY). -/
inductive FlashOp where
  | erase (sector : Nat)
  | program (addr value : Nat)
  | commit (seg : Nat)
deriving DecidableEq, Repr

/-- The repairs in the factory record (16 R456): register words, per stack its remap and translation tables with the spares
and reserve granules that have failed, per kite slot its spare rows in use, per line its lane map, and the spare rows in use
of other SRAM macros (14 R405). -/
structure Repairs where
  regs : Table Nat := []
  remap : Table (Table RemapEntry) := []
  xlat : Table (Table Nat) := []
  spares : Table (Table Nat) := []
  lanes : Table (List Nat) := []
  badSpares : Table (List Nat) := []
  deadReserve : Table (List Nat) := []
  sram : Table Nat := []
deriving DecidableEq, Repr

/-- Start-up, trust and flash (16): the tick and cause of the last reset, a device reset to come with its cause, the
measurement registers and log, the fused SVN_MIN and user key hash, flash bytes written since their sector was erased or made,
the sectors erased, the flash operation that runs, the running and staged images, the versions that cores run, the role a swap
hands over next, the health-test passes in a row, the factory record's repairs, whether stage 4 has restored them, and the
service record's header copies, and the applied records of the user defaults image (address, value, mask). -/
structure Trust where
  since : Nat := 0
  resetAt : Option (Nat × Nat) := none
  mrs : Table Nat := []
  log : List LogEntry := []
  svnMin : Nat := 0
  userKey : Option Nat := none
  flash : Table (BitVec 8) := []
  erased : List Nat := []
  op : Option FlashOp := none
  running : Image := {}
  staged : Option Image := none
  newCores : List Nat := []
  swapRole : Nat := 0
  passes : Nat := 0
  factory : Repairs := {}
  restored : Bool := false
  svcHeads : List (Nat × Nat × Nat) := []
  applied : List (Nat × Nat × Nat) := []
deriving DecidableEq, Repr

/-- Power and temperature (17 R461 to R466): whether PWR_EN is high and the rails are up, the last 1,000 readings of input
power, and for how many evaluations in a row the 100 µs average stood above PWR_CAP, power left room, and the die was cool. -/
structure Power where
  enabled : Bool := true
  rails : Bool := true
  readings : List Nat := []
  above : Nat := 0
  room : Nat := 0
  cool : Nat := 0
  powerClk : Nat := 1500
  thermClk : Nat := 1500
deriving DecidableEq, Repr

/-- One file of a kite (03 R113, R132; 05 R188): its banks as words that differ from the file's reset words, the epoch at
which it was last latched, and whether the copy of live to shadow is still to start after a commit. -/
structure FileBanks where
  live : Table Nat := []
  shadow : Table Nat := []
  epoch : Nat := 0
  copyDue : Bool := false
deriving DecidableEq, Repr

/-- An array op's fields (07 R250). -/
structure ArrayFields where
  part : Nat
  profile : Nat
  mLoad : Nat
  kActive : Nat
  n : Nat
  xAddr : Nat
  wSrc : Nat
  wAddr : Nat
  tag : Nat
  accAddr : Nat
  accMode : Nat
  srStream : Nat
  layer : Nat
  cbFmt : Nat
  cbGshift : Nat
  cbBase : Nat
  wBits : Nat
deriving DecidableEq, Repr

/-- The tile of an array op (01 R29 to R34): what it latched at its load, and the operands loaded. A masked row holds
no elements. -/
structure Tile where
  run : OpRun
  op : ArrayFields
  base : Nat := 0
  hint : Nat := 0
  loaded : Bool := false
  streamed : Bool := false
  mode : Nat := 0
  thin : Bool := false
  bridle : Nat := 1
  fmt : Nat := 0
  blk : Nat := 0
  mask : Nat := 0
  epoch : Nat := 0
  rows : List (List Nat) := []
  scales : List (List Nat) := []
  books : List (List Nat) := []
deriving DecidableEq, Repr

/-- One op counter set with its snapshot (15 R419, R420). -/
structure OpCounters where
  curOp : Nat := 0
  curStart : Option Nat := none
  curCycles : Nat := 0
  curHolds : Nat := 0
  curSlip : Nat := 0
  snapOp : Nat := 0
  snapCycles : Nat := 0
  snapHolds : Nat := 0
  snapSlip : Nat := 0
deriving DecidableEq, Repr

/-- What the NaN trap registers latch (05 R193). -/
structure NanTrap where
  step : Nat
  op : Nat
  tag : Nat
  elem : Nat
  kind : Nat
  source : Nat
  uop : Nat
  carry : Nat
  logical : Nat
deriving DecidableEq, Repr

/-- A fault a kite meets (01 R60, 03 R142, 05 R193): its code and op, and what ESC_FAULT (cause, block, count, column) and
the NaN trap registers latch with it. -/
structure KiteFault where
  code : Nat
  op : Nat
  esc : Option (Nat × Nat × Nat × Nat) := none
  trap : Option NanTrap := none
deriving DecidableEq, Repr

/-- One kite slot beyond its registers (01 to 05): scratchpad bytes, correctable errors of rows (row = bank × 2,048 + row),
spares used by bank, rows that found no spare, rows with uncorrectable errors, the three files, the envelope banks, gates,
stream ids registered, the sequencer, tiles and running ops, counters, the
attempts of this step that met an SP_UE, the tick at which PLAN_PC last changed, and the first op that a fault stops (R61, R473)
with the latest fault (R124). -/
structure KiteState where
  sp : List Host.Cell := []
  rowCe : Table Nat := []
  spares : Table Nat := []
  noSpare : List Nat := []
  ueRows : List Nat := []
  cb : FileBanks := {}
  sc : FileBanks := {}
  vp : FileBanks := {}
  acc : Table TagRec := []
  snap : Table TagRec := []
  gates : Table Nat := []
  streams : List Nat := []
  nextRec : Nat := 0
  nextOp : Nat := 0
  tileLive : Option Tile := none
  tileNext : Option Tile := none
  arr : List OpRun := []
  vec : Option OpRun := none
  port : Option OpRun := none
  loader : Option OpRun := none
  opcArr : OpCounters := {}
  opcVec : OpCounters := {}
  ueStep : Nat := 0
  ueAttempts : List Nat := []
  pcTick : Nat := 0
  missed : Bool := false
  cbfSince : Option Nat := none
  epoch : Nat := 0
  latchTick : Nat := 0
  stopFrom : Option Nat := none
  fault : Option KiteFault := none
deriving DecidableEq, Repr

/-- The whole block. `pending`: the commands that wait, first in, first out. `tick`: the time base (R11). `regs`: live
register fields that differ from reset, by key. `shadow`: fields of shadow banks that a write made different (R14).
`held`: writes held for a commit (R241). `hiLatch`: latched high words (R231). `frozen`: frozen counters (R380). `hdrs`:
page headers. `ec`: the event controller. `host`: the host port. `hbm`: HBM's bytes. `mem`: stacks, spools and
regulators. `kites`: the 136 slots. `step`, `seqs`: the step protocol and the op queues. `gov`: the precision governor.
`fab`: the lines. `winch`, `burner`: per train. `sc`: scoring. `recov`: replacements and rank pairs. `sb`: the sideband.
`tb`: time pairs. `trust`: flash, fuses and keys. `pwr`: power and clocks. `hd`: haul-down. `plan`: the loaded plan.
`trace`, `traceFull`: trace rings, and the trains whose ring has stopped (R425). `out`: what has left the device (log
10). `fresh`: how many free values were drawn (log 8). -/
structure State where
  pending : List Instr := []
  tick : Nat := 0
  regs : Table Nat := []
  shadow : Table Nat := []
  held : List ShWrite := []
  hiLatch : Table Nat := []
  frozen : Table Nat := []
  hdrs : Table Hdr := []
  ec : EventCtl := {}
  host : HostPort := {}
  hbm : List Host.Cell := []
  mem : Memory := {}
  kites : Table KiteState := []
  step : Step := {}
  seqs : Table Seq := []
  gov : Gov := {}
  fab : Fabric := {}
  winch : Table Winch := []
  burner : Table Burner := []
  sc : Scoring := {}
  recov : Recovery := {}
  sb : Sideband := {}
  tb : TimePairs := {}
  trust : Trust := {}
  pwr : Power := {}
  hd : Haul := {}
  plan : Plan := {}
  trace : Table (List TraceRec) := []
  traceFull : List Nat := []
  out : List Out := []
  fresh : Nat := 0
deriving DecidableEq, Repr

def State.reset : State := {}

end Sys2Proof.Machine
end

