-- ==== Sys2Proof/Machine/Ops.lean ====
section
/-! DEFINITION. The named operations over registers, page headers, events, trace and the haul-down trigger. -/

namespace Sys2Proof.Machine

/-! ### Registers (00 R14) -/

/-- The reset value of field `f` of page number `inst`, register `i`. -/
def Fld.reset (f : Fld) (inst i : Nat) : Nat :=
  match f.dflt with
  | .const n => n
  | .stepping => Config.stepping.toNat
  | .issue => Config.moduleIssue.toNat
  | .serialLo => Config.serial.toNat % 2 ^ 32
  | .serialHi => Config.serial.toNat / 2 ^ 32
  | .macLo => Config.macAddr.toNat % 2 ^ 32
  | .macHi => Config.macAddr.toNat / 2 ^ 32
  | .own => inst
  | .index => i
  | .kiteState => if inst % 17 = 16 then 7 else 1
  | .channelState => if i = 31 then 1 else 0
  | .laneState => if i = 8 then 1 else 0

/-- The live value of a field. -/
def State.rd (s : State) (f : Fld) (inst : Nat := 0) (i : Nat := 0) : Nat :=
  s.regs.getD (f.key inst i) (f.reset inst i)

/-- A field given a live value, cut to its width. There is nothing to write on a page or in a register that does not
exist. -/
def State.wr (s : State) (f : Fld) (v : Nat) (inst : Nat := 0) (i : Nat := 0) : State :=
  { s with regs := if f.valid inst i then s.regs.put (f.key inst i) (v % 2 ^ f.len) else s.regs }

/-- The shadow value of a field: the dirty one, else the live one (07 R240; log 12). -/
def State.rdSh (s : State) (f : Fld) (inst : Nat := 0) (i : Nat := 0) : Nat :=
  s.shadow.getD (f.key inst i) (s.rd f inst i)

/-- A field given a shadow value. -/
def State.wrSh (s : State) (f : Fld) (v : Nat) (inst : Nat := 0) (i : Nat := 0) : State :=
  { s with shadow := s.shadow.put (f.key inst i) (v % 2 ^ f.len) }

/-- R14: a saturating count rises by `n`. -/
def State.bump (s : State) (f : Fld) (inst : Nat := 0) (i : Nat := 0) (n : Nat := 1) : State :=
  s.wr f (satAdd f.len (s.rd f inst i) n) inst i

/-- The value of a 64-bit register held in two words. -/
def State.rd64 (s : State) (lo hi : Fld) (inst : Nat := 0) : Nat := s.rd lo inst + 2 ^ 32 * s.rd hi inst

def State.wr64 (s : State) (lo hi : Fld) (v : Nat) (inst : Nat := 0) : State :=
  (s.wr lo (v % 2 ^ 32) inst).wr hi (v / 2 ^ 32) inst

/-- R14: a 64-bit saturating count rises by `n`. -/
def State.bump64 (s : State) (lo hi : Fld) (inst : Nat := 0) (n : Nat := 1) : State :=
  s.wr64 lo hi (satAdd 64 (s.rd64 lo hi inst) n) inst

/-- The key of word `n` of a table behind a window register (routing table, group files, slot descriptors): beyond the
register space, so that its live and shadow words stand with those of the registers (07 R240). -/
def windowKey (table n : Nat) : Nat := 8 * (2 ^ 33 + table * 2 ^ 24 + 4 * n)

/-- The live and the shadow word of a table behind a window register. -/
def State.liveWord (s : State) (key : Nat) : Nat := s.regs.getD key 0

def State.shadowWord (s : State) (key : Nat) : Nat := s.shadow.getD key (s.liveWord key)

/-- R241: a word's value `v` once the writes held for the next commit have landed. -/
def State.heldOver (s : State) (key v : Nat) : Nat :=
  s.held.foldl (fun v h => match h with
    | .field k w => if k = key then w else v
    | .file .. => v) v

/-- The shadow word of a window's table once the held writes have landed; writes are judged by it. -/
def State.nextWord (s : State) (key : Nat) : Nat := s.heldOver key (s.shadowWord key)

/-! ### Page headers (12 R379) -/

def State.hdr (s : State) (k : PageKind) (inst : Nat := 0) : Hdr := s.hdrs.getD (pageBase k inst) {}

def State.setHdr (s : State) (k : PageKind) (inst : Nat) (h : Hdr) : State :=
  { s with hdrs := s.hdrs.put (pageBase k inst) h }

/-- R379 ERR_CE rises. -/
def State.countCe (s : State) (k : PageKind) (inst : Nat) (n : Nat := 1) : State :=
  s.setHdr k inst { s.hdr k inst with ce := satAdd 32 (s.hdr k inst).ce n }

/-- R379 ERR_UE rises. -/
def State.countUe (s : State) (k : PageKind) (inst : Nat) (n : Nat := 1) : State :=
  s.setHdr k inst { s.hdr k inst with ue := satAdd 32 (s.hdr k inst).ue n }

/-! ### Messages -/

def State.emit (s : State) (o : Out) : State := { s with out := s.out ++ [o] }

/-- 08 R275: this device's number. -/
def State.self (s : State) : Nat := s.rd Reg.FAB_DEVNUM_DEVNUM

/-- 07 R235: the seal root, this device itself when no plan gives one. -/
def State.sealRoot (s : State) : Nat := s.plan.devices.headD s.self

/-- The lines whose LINE_STAT.STATE is UP. -/
def State.linesUp (s : State) : List Nat := (List.range 32).filter (fun l => s.rd Reg.LINE_STAT_STATE l == 2)

def State.line (s : State) (l : Nat) : LineState := s.fab.lines.getD l {}

def State.setLine (s : State) (l : Nat) (x : LineState) : State :=
  { s with fab := { s.fab with lines := s.fab.lines.put l x } }

/-- The key of a pair of virtual channel and class. -/
def pairKey (vc cls : Nat) : Nat := 2 * vc + cls

/-- 08 R265: the MSG flit of a message from one fabric address to another. -/
def msgFlit (vc src dst : Nat) (m : Msg) : Flit :=
  { ftype := 2, vc := vc, cls := 0, first := true, last := true, dst := dst, src := src, txn := 0, ofs := 0,
    payload := [], msg := some m }

/-- 08 R278: the class a flit leaves line `out` with, by the line it arrived on. -/
def outClass (s : State) (out : Nat) (f : Flit) : Nat :=
  let kept := match f.via with
    | some (l, cls) => if s.rd Reg.LINE_CFG_DIM l = s.rd Reg.LINE_CFG_DIM out then cls else 0
    | none => 0
  if s.rd Reg.LINE_CFG_DATELINE out = 1 then 1 else kept

/-- 08 R278: a flit enters the output queue of line `out`, with its class there. -/
def enqueue (s : State) (out : Nat) (f : Flit) : State :=
  let x := s.line out
  let c := outClass s out f
  s.setLine out { x with outq := x.outq.put (pairKey f.vc c) (x.outq.getD (pairKey f.vc c) [] ++ [{ f with cls := c }]) }

/-- A message to the neighbour's gondola on every line of `ls`, virtual channel 1 (15 R430). -/
def State.flood (s : State) (ls : List Nat) (m : Msg) : State :=
  ls.foldl (fun s l => enqueue s l (msgFlit 1 (16 * s.self + 8) (16 * s.rd Reg.NBR_PEER_DEV 0 l + 8) m)) s

/-- A free value (log 8) and the state with the counter advanced. -/
def State.draw (s : State) : Nat × State := (Config.free s.fresh, { s with fresh := s.fresh + 1 })

/-! ### Haul-down trigger (15 R427 to R430) -/

/-- R429: a trigger of cause `cause` with the cut tick `t` takes the place of a later pending cut. It is counted when the
device is already stopped (a RELEASING device is still stopped: DEDUCED, log 27). LATE and INCOMPLETE are those of the
last cut. -/
def haulAt (s : State) (t cause source origin root : Nat) (fabric : Bool) : State :=
  let st := s.rd Reg.HD_STAT_STATE
  if st = 0 ∨ (st = 1 ∧ t < s.rd64 Reg.HD_CUT_LO Reg.HD_CUT_HI) then
    let s1 := ((s.wr64 Reg.HD_CUT_LO Reg.HD_CUT_HI t).wr Reg.HD_CAUSE_CAUSE cause).wr Reg.HD_CAUSE_SOURCE source
    let s2 := ((s1.wr Reg.HD_STAT_STATE 1).wr Reg.HD_STAT_FABRIC (ofBool fabric)).wr Reg.HD_STAT_ORIGIN origin
    let s3 := ((s2.wr Reg.HD_STAT_LATE 0).wr Reg.HD_STAT_INCOMPLETE 0).wr Reg.HD_LINES_OPEN_LINES 0
    { s3 with hd := { s3.hd with root := root } }
  else if st = 1 then s
  else s.bump Reg.HAULS_IGNORED_COUNT

/-- R430: the last 16 HAULs seen. -/
def rememberHaul (s : State) (origin t : Nat) : State :=
  { s with hd := { s.hd with seen := (((origin, t) :: s.hd.seen).take 16) } }

/-- R427, R429, R430: this device triggers a haul-down. -/
def haulTrigger (s : State) (cause source : Nat) (fabric all : Bool) : State :=
  let t := s.tick + (if fabric then s.rd Reg.HD_CTL_LEAD_FAB else s.rd Reg.HD_CTL_LEAD_CHIP)
  let stopped := 2 ≤ s.rd Reg.HD_STAT_STATE
  let s1 := haulAt s t cause source s.self (if all then 0xFFF else s.sealRoot) fabric
  if fabric && !stopped then
    (rememberHaul s1 s.self t).flood s.linesUp (.haul t s.self (if all then 0xFFF else s.sealRoot) cause)
  else s1

/-! ### The kite map (00 R2, 14 TRN_KMAP) -/

/-- The physical slot, as 17 × train + slot, that serves logical kite `k` in the live kite map. -/
def State.slotOf (s : State) (k : Nat) : Nat := 17 * (k / 16) + s.rd Reg.TRN_KMAP_SLOT (k / 16) (k % 16)

/-- The logical kite a physical slot serves, if any. -/
def State.logicalOf (s : State) (slot : Nat) : Option Nat :=
  ((List.range 16).find? (fun i => s.rd Reg.TRN_KMAP_SLOT (slot / 17) i == slot % 17)).map (16 * (slot / 17) + ·)

/-- 11 R345: logical kite `k` is in the partition. -/
def partitionKite (s : State) (k : Nat) : Bool :=
  s.rd Reg.SC_PART_TRAIN == k / 16 && bit (s.rd Reg.SC_PART_KMASK) (k % 16)

/-- 11 R345: the slot serves a kite of the partition. -/
def partitionSlot (s : State) (n : Nat) : Bool :=
  match s.logicalOf n with
  | some k => partitionKite s k
  | none => false

/-! ### Events (13 R384 to R397) -/

/-- R384: event `e` of a page is raised, in the page's own header. -/
def hdrRaise (s : State) (e : Evt) (inst : Nat) : State :=
  let h := s.hdr e.page inst
  let b : Word := BitVec.ofNat 32 (2 ^ e.bit)
  s.setHdr e.page inst { h with pend := h.pend ||| b, raw := h.raw ||| b, count := satAdd 32 h.count 1 }

/-- R385: the page's event line. -/
def lineOf (h : Hdr) : Bool := h.pend &&& ~~~h.mask != 0

def bit1024 (v : BitVec 1024) (n : Nat) : Bool := v.getLsbD n

def oneHot (n : Nat) : BitVec 1024 := BitVec.ofNat 1024 (2 ^ n)

/-- EC_CFG of a source: pages are level sources, timers edge sources, pins as configured (R389). -/
def State.srcCfg (s : State) (n : Nat) : SrcCfg := s.ec.cfg.getD n { level := n < 752 }

def State.pin (s : State) (p : Nat) : PinIn := s.ec.pins.getD p {}

/-- R390: a pin's input to EC_RAW, inverted when POL is 0. -/
def pinAsserted (s : State) (p : Nat) : Bool := (s.pin p).filtered == (s.srcCfg (736 + p)).pol

/-- R389: the present input level of a source (EC_RAW). -/
def asserted (s : State) (n : Nat) : Bool :=
  match sourcePage n with
  | some p => lineOf (s.hdr p.kind p.inst)
  | none => decide (736 ≤ n) && decide (n ≤ 738) && pinAsserted s (n - 736)

/-- R397: the record of source `n` pending now. -/
def eventRec (s : State) (n : Nat) (sw : Bool) : EventRec :=
  match sourcePage n with
  | some p =>
    { source := n, level := true, swSet := sw, pend := (s.hdr p.kind p.inst).pend, tick := s.tick,
      count := (s.hdr p.kind p.inst).count }
  | none =>
    { source := n, level := (s.srcCfg n).level, swSet := sw, pend := 0, tick := s.tick,
      count := if n < 752 then s.rd Reg.PIN_EDGES_COUNT 0 (n - 736) else 0 }

/-- R392, R397, R427: the pending bit of source `n` sets. Nothing happens when it is already set (the pends merge);
otherwise the record of a forwarded source is queued, or lost when the queue of 1,024 is full (R372), and the
haul-down trip of cause 1 is taken. `fuel` bounds the chain a lost record starts: it raises an event itself. -/
def pendSource : Nat → State → Nat → Bool → State
  | 0, s, _, _ => s
  | fuel + 1, s, n, sw =>
    if bit1024 s.ec.pend n then s
    else
      let s1 := { s with ec := { s.ec with pend := s.ec.pend ||| oneHot n } }
      let s2 := if s.rd Reg.HD_TRIP_EVT_EN = 1 ∧ s.rd Reg.HD_TRIP_EVT_SRC = n then
          haulTrigger s1 1 n (s.rd Reg.HD_TRIP_FABRIC == 1) false
        else s1
      if (s.srcCfg n).fwd then
        if s2.host.events.length < 1024 then
          { s2 with host := { s2.host with events := s2.host.events ++ [eventRec s n sw] } }
        else
          let s3 := hdrRaise (s2.bump Reg.EVT_FWD_LOST_COUNT) Ev.cmdEngine_EVT_LOST 0
          if asserted s3 723 && !bit1024 s3.ec.active 723 then pendSource fuel s3 723 false else s3
      else s2

/-- R392: a level source whose input is asserted pends while it is not active. -/
def sampleSource (s : State) (n : Nat) : State :=
  if (s.srcCfg n).level && asserted s n && !bit1024 s.ec.active n then pendSource 3 s n false else s

def samplePage (s : State) (k : PageKind) (inst : Nat) : State :=
  match pageSource k inst with
  | some n => sampleSource s n
  | none => s

/-- R384: an event is raised: the page header, then the event controller. -/
def raiseQuiet (s : State) (e : Evt) (inst : Nat := 0) : State := samplePage (hdrRaise s e inst) e.page inst

/-! ### Trace (15 R423 to R426) -/

/-- The train whose ring takes a page's events. -/
def pageTrain (k : PageKind) (inst : Nat) : Option Nat :=
  match k with
  | .kiteCtl | .kiteArr | .kiteVec | .kiteEnv => some (inst / 17)
  | .trainCtl | .spool | .regulator | .winch | .burner | .reel => some inst
  | .stackCtl | .stackErr | .stackChan => some (inst / 2)
  | _ => none

/-- R424 UNIT: the logical kite of a kite page, 128 + train of other pages of a train. -/
def pageUnit (s : State) (k : PageKind) (inst t : Nat) : Nat :=
  match k with
  | .kiteCtl | .kiteArr | .kiteVec | .kiteEnv => (s.logicalOf inst).getD (128 + t)
  | _ => 128 + t

/-- R425: TR_DROPS counts a discarded record. -/
def traceDrop (s : State) (t : Nat) : State := raiseQuiet (s.bump Reg.TR_DROPS_DROPS 0 t) Ev.trace_TR_DROP

/-- R424: a trace record made now. -/
def traceRec (s : State) (kind unit a b c : Nat) : TraceRec :=
  { tick := s.tick, kind := kind, unit := unit, attempt := s.rd Reg.STEP_STAT_REPLAY_RUN,
    step := s.rd Reg.STEP_NUM_LO, a := a, b := b, c := c }

/-- R424, R425: a record of class `cls` enters train `t`'s buffer of 64, or is discarded when that is full. -/
def traceAdd (s : State) (t cls kind unit a b c : Nat) : State :=
  if bit (s.rd Reg.TR_CTL_TRAINS) t && bit (s.rd Reg.TR_CTL_CLASSES) cls then
    let q := s.trace.getD t []
    if q.length < 64 && !s.traceFull.contains t then { s with trace := s.trace.put t (q ++ [traceRec s kind unit a b c]) }
    else traceDrop s t
  else s

/-- R423: a device-wide record goes to every enabled ring. -/
def traceAll (s : State) (cls kind a b c : Nat) : State :=
  (List.range 8).foldl (fun s t => traceAdd s t cls kind 255 a b c) s

/-- R384, R424: an event is raised; a page of a train also leaves a trace record. -/
def raise (s : State) (e : Evt) (inst : Nat := 0) : State :=
  let s1 := raiseQuiet s e inst
  match pageTrain e.page inst with
  | some t => traceAdd s1 t 3 0x30 (pageUnit s e.page inst t) e.bit (blockCode e.page + 65536 * inst)
      (s1.hdr e.page inst).count
  | none => s1

/-- R10: a refused write raises WR_ILLEGAL, bit 0 of every page that has it. -/
def refuse (s : State) (k : PageKind) (inst : Nat := 0) : State := raise s ⟨k, 0⟩ inst

/-! ### Which pages are reached (R375, 16 R445) -/

/-- R445: in recovery mode only the identity, device control, security and flash pages are reached. -/
def servedPage (s : State) (k : PageKind) : Bool :=
  s.rd Reg.DEV_STAT_STATE != 7 || k == .identity || k == .devCtl || k == .security || k == .flash

/-- The page an aligned word's address reaches; none is UNMAPPED. -/
def reachPage (s : State) (addr : Nat) : Option Page :=
  match pageOf s.slotOf addr with
  | some p => if servedPage s p.kind then some p else none
  | none => none

/-! ### Times -/

/-- R12: the memory-side cycle of a tick, 1.55 GHz. -/
def memCycle (tick : Nat) : Nat := tick * 31 / 20

/-- Whether the islands run: no cut has stopped them (15 R431). -/
def State.islandsRun (s : State) : Bool := s.rd Reg.HD_STAT_STATE ≤ 1

end Sys2Proof.Machine
end

