-- ==== Sys2Proof/Machine/Idle.lean ====
section
/-! DEFINITION. Units that work (12 R379 BUSY), and what passes with the ticks of the time base (log 5, log 7). -/

namespace Sys2Proof.Machine

/-! ### BUSY (R379) -/

/-- Pages of kite slot `n` whose units work. -/
def busyKite (n : Nat) (k : KiteState) : List Page :=
  let arr := k.arr != [] || k.tileNext.isSome || k.tileLive.isSome
  let on := fun (b : Bool) (p : PageKind) => if b then [(⟨p, n⟩ : Page)] else []
  on (arr || k.vec.isSome || k.port.isSome || k.loader.isSome) .kiteCtl ++ on arr .kiteArr ++ on k.vec.isSome .kiteVec
    ++ on (arr || k.vec.isSome) .kiteEnv

/-- Pages of train `t` whose units work. -/
def busyTrain (s : State) (t : Nat) : List Page :=
  let on := fun (b : Bool) (p : PageKind) => if b then [(⟨p, t⟩ : Page)] else []
  let waits := s.mem.queues.any (fun e => e.1 / 8 == t && e.2 != [])
  on (s.seqs.getD (4 * t) {}).run.isSome .trainCtl ++ on waits .spool ++ on waits .regulator
    ++ on ((s.winch.getD t {}).runs != []) .winch ++ on (s.burner.getD t {}).run.isSome .burner
    ++ on ((s.burner.getD t {}).rates != []) .reel

/-- Device pages whose units work. -/
def busyDevice (s : State) : List Page :=
  let on := fun (b : Bool) (p : PageKind) => if b then [(⟨p, 0⟩ : Page)] else []
  on (decide (s.rd Reg.DEV_STAT_STATE < 6)) .devCtl
    ++ on (s.rd Reg.GOV_STAT_STATS_PHASE != 0 || s.rd Reg.GOV_STAT_TABLE_PHASE == 1) .governor
    ++ on (s.rd Reg.GOV_STAT_TABLE_PHASE == 3) .precision ++ on s.mem.window.isSome .memory
    ++ on (s.rd Reg.STEP_STAT_STATE != 0 || s.rd Reg.PLAN_STAT_STATE == 1) .plan
    ++ on (s.rd Reg.FAB_STAT_DISC_STATE == 1 || s.rd Reg.FAB_STAT_DISC_STATE == 2) .fabric
    ++ on (s.rd Reg.FL_STAT_BUSY == 1) .flash ++ on (s.sc.batches != [] || s.sc.validating.isSome) .scoring
    ++ on s.tb.running .timeBase ++ on (s.rd Reg.HD_STAT_STATE != 0) .haulDown ++ on (s.trace.any (fun e => e.2 != [])) .trace

/-- Pages of stacks and lines whose units work: a migration, a retraining channel, flits to send, a lane swap agreed. -/
def busyLinks (s : State) : List Page :=
  (s.mem.stackTab.filter (fun e => e.2.mig.isSome)).map (fun e => ⟨.stackCtl, e.1⟩)
    ++ ((List.range 16).filter (fun k => (List.range 32).any (fun p => s.rd Reg.PC_REC_ST_STATE k p == 4))).map (⟨.stackChan, ·⟩)
    ++ (s.fab.lines.filter (fun e => e.2.outq.any (fun q => q.2 != []) || e.2.rewound != [])).map (fun e => ⟨.lineCtl, e.1⟩)
    ++ (s.fab.lines.filter (fun e => e.2.laneSwap.isSome)).map (fun e => ⟨.lineLane, e.1⟩)

/-- R379: the pages whose BUSY reads 1. -/
def busyPages (s : State) : List Page :=
  busyDevice s ++ (List.range 8).flatMap (busyTrain s) ++ busyLinks s ++ s.kites.flatMap (fun e => busyKite e.1 e.2)

/-! ### Ticks -/

/-- R379: UTIL of a page rises by `n`. -/
def addUtil (n : Nat) (s : State) (p : Page) : State :=
  s.setHdr p.kind p.inst { s.hdr p.kind p.inst with util := satAdd 64 (s.hdr p.kind p.inst).util n }

/-- R464, 17 THROTTLE_TICKS: ticks with the kite clock below 1,500 MHz. -/
def throttleTicks (s : State) (n : Nat) : State :=
  if s.rd Reg.CLK_KITE_FREQ_MHZ < 1500 then s.bump64 Reg.THROTTLE_TICKS_LO Reg.THROTTLE_TICKS_HI 0 n else s

/-- R384: EVT_RAW shows an event for one tick. -/
def clearRaw (s : State) : State := { s with hdrs := s.hdrs.map (fun e => (e.1, { e.2 with raw := 0 })) }

/-- `n` ticks pass with the units as they stand. -/
def State.advance (s : State) (n : Nat) : State :=
  if n = 0 ∨ s.pwr.rails = false then s
  else { (busyPages s).foldl (addUtil n) (throttleTicks (clearRaw s) n) with tick := s.tick + n }

/-- The ticks up to `t` pass, unless they have passed (log 7). -/
def State.passTo (s : State) (t : Nat) : State := s.advance (t - s.tick)

/-- One tick passes. -/
def idleTick (s : State) : State := s.advance 1

end Sys2Proof.Machine
end

