-- ==== Sys2Proof/Machine/Routing.lean ====
section
/-! DEFINITION. Fabric routing (08 R275 to R277) and the device's own messages, which leave as MSG flits (R265, R271). -/

namespace Sys2Proof.Machine

def State.lineUp (s : State) (l : Nat) : Bool := s.rd Reg.LINE_STAT_STATE l == 2

/-- R275: this device has a number. -/
def State.assigned (s : State) : Bool := s.rd Reg.FAB_DEVNUM_ASSIGNED == 1

/-- R276: where the entry of a destination device is held among the register words. -/
def routeKey (dev : Nat) : Nat := windowKey 0 dev

/-- R276: the live routing entry of a device. -/
def routeEntry (s : State) (dev : Nat) : Nat := s.regs.getD (routeKey dev) 0

/-- R276: the lines an entry names. -/
def primaryOf (e : Nat) : Nat := getBits e 0 5

def detourOf (e : Nat) : Nat := getBits e 5 5

/-- R277: the entry's detour can be used. -/
def detourUsable (s : State) (e : Nat) : Bool := bit e 30 && s.lineUp (detourOf e)

/-- R277: the output line of a flit to device `dev`. A detour in force stays until a commit after PRIMARY came up. -/
def routeLine (s : State) (dev : Nat) : Option Nat :=
  let e := routeEntry s dev
  let p := primaryOf e
  if !bit e 31 then none
  else if s.lineUp p && !(s.fab.inForce.contains (p, detourOf e) && detourUsable s e) then some p
  else if detourUsable s e then some (detourOf e)
  else none

/-- R276, R278: a flit enters the output queue of its routed line, if it has one. -/
def routeFlit (s : State) (f : Flit) : Option State := (routeLine s (f.dst / 16)).map (fun out => enqueue s out f)

/-- R277: a flit without a usable output line is dropped and counted. -/
def noRoute (s : State) : State := raise (s.bump Reg.NO_ROUTE_COUNT) Ev.fabric_NO_ROUTE

/-- R265, R271, R276: a message of the gondola to the gondola of a device on virtual channel 0, 1 or 7. -/
def State.send (s : State) (vc dst : Nat) (m : Msg) : State :=
  if dst = s.self then s.emit (.msg vc dst m)
  else (routeFlit s (msgFlit vc (16 * s.self + 8) (16 * dst + 8) m)).getD (noRoute s)

/-! ### The seal tree (07 R235) -/

/-- 04 R152, 07 R235: the children of place `i` in the binary tree of `n` devices. -/
def treeChildren (i n : Nat) : List Nat := [2 * i + 1, 2 * i + 2].filter (fun c => decide (c < n))

/-- The place of this device in the DEVICES list, if it has one. -/
def State.sealPlace (s : State) : Option Nat := s.plan.devices.findIdx? (· == s.self)

/-- R235: the device's parent in the seal tree; the root's is itself. -/
def State.sealParent (s : State) : Nat :=
  match s.sealPlace with
  | some i => if i = 0 then s.self else s.plan.devices.getD ((i - 1) / 2) s.sealRoot
  | none => s.sealRoot

/-- R235: the device's children in the seal tree. -/
def State.sealChildren (s : State) : List Nat :=
  match s.sealPlace with
  | some i => (treeChildren i s.plan.devices.length).map (fun c => s.plan.devices.getD c 0)
  | none => []

/-- R235: a message for the seal root goes up the tree. -/
def State.sendUp (s : State) (m : Msg) : State := s.send 1 s.sealParent m

/-- R235: a message of the seal root goes down the tree. -/
def State.sendTree (s : State) (m : Msg) : State := s.sealChildren.foldl (fun s d => s.send 1 d m) s

/-- A plan runs: STEP_STAT.STATE is not IDLE (07). -/
def State.planRuns (s : State) : Bool := s.rd Reg.STEP_STAT_STATE ≠ 0

/-- R235, 14 R414: between root and leaf a device passes the tree's messages on, up or down, whatever its own state. -/
def passUp (s : State) (m : Msg) : State := if s.planRuns && s.self != s.sealRoot then s.sendUp m else s

def passDown (s : State) (m : Msg) : State := if s.planRuns && s.self != s.sealRoot then s.sendTree m else s

end Sys2Proof.Machine
end

