-- ==== Sys2Proof/Machine/Faults.lean ====
section
/-! DEFINITION. Faults as state: stopping a step (07 R237), the rungs of the recovery ladder (14 R407 to R409), the
fault registers of kites, winches and burners, and the service record (14 R417, 16 R456). -/

namespace Sys2Proof.Machine

/-- A step is running and not yet sealed or abandoned: RUN or READY. -/
def State.inStep (s : State) : Bool := s.rd Reg.STEP_STAT_STATE == 2 || s.rd Reg.STEP_STAT_STATE == 3

def State.stepNum (s : State) : Nat := s.rd64 Reg.STEP_NUM_LO Reg.STEP_NUM_HI

/-- The live epoch (07 R233, R241). -/
def State.epoch (s : State) : Nat := s.rd Reg.STEP_EPOCH_EPOCH

/-- R241: the last 64 ticks before a commit. -/
def State.nearCommit (s : State) : Bool :=
  ((s.step.armed.map Prod.fst).toList ++ s.step.commitAt).any (fun t => decide (s.tick ≤ t) && decide (t < s.tick + 64))

/-- R237, R343: the device concerned sends STOP(S) to the seal root. What stops after the seal of S stops step S + 1 as it
begins. -/
def stopStep (s : State) : State :=
  if !s.inStep then s
  else if s.step.isSealed then { s with step := { s.step with stopNext := true } }
  else s.sendUp (.stop s.self s.stepNum)

/-- R428: a trip of cause 3 to 5 takes the place of the STOP, which follows at release; otherwise STOP is sent. -/
def stopOrTrip (s : State) (trip : Bool) (cause source : Nat) : State :=
  if trip then
    let s1 := haulTrigger s cause source (s.rd Reg.HD_TRIP_FABRIC == 1) false
    { s1 with hd := { s1.hd with stopAtRelease := true } }
  else stopStep s

/-- R407: a fault is met at rung `n`, 1 to 4; above rung 1 it shows in LAST_RUNG. -/
def rung (s : State) (n : Nat) : State :=
  let s1 := s.bump Reg.REC_COUNT_COUNT 0 (n - 1)
  let s2 := if 2 ≤ n then s1.wr Reg.RECOV_STAT_LAST_RUNG (n - 1) else s1
  if n = 3 then raise s2 Ev.plan_RUNG3 else if n = 4 then raise s2 Ev.plan_RUNG4 else s2

/-- R407, R408: `n` faults the lowest rung absorbs are counted. -/
def absorbed (s : State) (n : Nat := 1) : State := s.bump Reg.REC_COUNT_COUNT 0 0 n

/-- R408: a fault met at rung 2: the step is abandoned and replayed. -/
def replayFault (s : State) : State := stopStep (rung s 2)

/-- R456: the entries the service record holds. -/
def svcCapacity : Nat := 753662

/-- R417, R456: an entry is appended to the service record, or counted lost when it is full. -/
def svcAppend (s : State) (kind : Nat) (k : PageKind) (inst detail : Nat) : State :=
  if s.recov.svc.length < svcCapacity then
    let e : SvcEntry := { tick := s.tick, kind := kind, block := blockCode k, inst := inst, detail := detail,
                          hours := s.rd Reg.SVC_HOURS_COUNT }
    { s with recov := { s.recov with svc := s.recov.svc ++ [e] } }
  else (s.wr Reg.SVC_STAT_SVC_FULL 1).bump Reg.SVC_STAT_SVC_LOST

/-- R407, R417: a fault met at rung 3 or 4 also enters the service record. -/
def rungRecorded (s : State) (n : Nat) (k : PageKind) (inst : Nat) : State :=
  svcAppend (rung s n) (14 + n) k inst 0

/-- R412: the partner, if the live RANK_PAIR names one. -/
def State.partner (s : State) : Option Nat :=
  if s.rd Reg.RANK_PAIR_PAIR_VALID = 1 then some (s.rd Reg.RANK_PAIR_PARTNER) else none

/-- R413: this device hands its rank over. With no partner the ladder goes to rung 4. -/
def handOver (s : State) : State :=
  match s.partner with
  | some p =>
    let s1 := ((s.send 1 s.sealRoot (.handover s.stepNum)).send 1 p (.handover s.stepNum))
    let s2 := (s1.wr Reg.RECOV_STAT_HANDED 1).wr Reg.STEP_STAT_STATE 5
    svcAppend (raise ((rungRecorded s2 3 .plan 0).bump Reg.HANDOVERS_COUNT) Ev.plan_HANDOVER) 16 .plan 0 p
  | none => rungRecorded s 4 .plan 0

/-- R410, R411, 12 R378: the granule at `a` is asked of the partner, for a burner of the same record when `burner` names a
train. Without a partner the ladder goes to rung 4. -/
def askRestore (s : State) (a : Nat) (burner : Option Nat) (record : Nat) : State :=
  if s.recov.restores.any (fun r => r.addr == a) then s
  else match s.partner with
  | some p =>
    let txn := s.fab.txn
    let r : Restore := { txn := txn, addr := a, len := 2048, burner := burner }
    let s1 := { s with fab := { s.fab with txn := (txn + 1) % 65536 },
                       recov := { s.recov with restores := s.recov.restores ++ [r] } }
    s1.send 7 p (.restoreRead txn (ofBool burner.isSome) a 2048 record)
  | none =>
    let s1 := rungRecorded s 4 .plan 0
    { s1 with recov := { s1.recov with stuck := true } }

/-- R243: the plan region holds address `a`. -/
def State.inPlanRegion (s : State) (a : Nat) : Bool :=
  let b := s.rd Reg.PLAN_BASE_BASE * 2 ^ 26
  decide (b ≤ a) && decide (a < b + 2 ^ 26)

/-- R238, R409: a PERSISTENT range of the loaded plan holds the granule of address `a`. -/
def State.inPersistent (s : State) (a : Nat) : Bool :=
  s.plan.persistent.any (fun r => decide (r.1 / 2048 * 2048 ≤ a) && decide (a < r.1 + r.2))

/-- R409: the uncorrectable address is kept for the ladder; in the plan region PLAN_UE sets and is raised. -/
def noteUe (s : State) (a : Nat) : State :=
  let s1 := { s with recov := { s.recov with ues := s.recov.ues ++ [a] } }
  if s1.inPlanRegion a then raise (rung (s1.wr Reg.RECOV_STAT_PLAN_UE 1) 2) Ev.plan_PLAN_UE
  else if s1.inPersistent a then rungRecorded s1 3 .plan 0
  else rung s1 2

/-- R217, R237, R428: an uncorrectable memory error meets a consumer of the running step. -/
def stopForUe (s : State) (a : Nat) : State :=
  if s.inStep then stopOrTrip (noteUe s a) (s.rd Reg.HD_TRIP_UE_HALT == 1) 5 0 else s

/-- R60: an event count of a page rises without the event. -/
def countEvent (s : State) (k : PageKind) (inst : Nat) : State :=
  let h := s.hdr k inst
  s.setHdr k inst { h with count := satAdd 32 h.count 1 }

def State.winchOf (s : State) (t : Nat) : Winch := s.winch.getD t {}

def State.setWinch (s : State) (t : Nat) (w : Winch) : State := { s with winch := s.winch.put t w }

/-- R309, R317: a wait that ends is counted, whatever becomes of the attempt. -/
def endWait (s : State) (t : Nat) : State :=
  let w := s.winchOf t
  match w.waitSince with
  | some a => (s.setWinch t { w with waitSince := none }).bump Reg.WAIT_TICKS_COUNT t 0 (s.tick - a)
  | none => s

/-- R319: the winch of train `t` meets a record fault, in the cycle of the latched one when `w`: then the lower code stays. -/
def winchFault (s : State) (t code record : Nat) (w : Bool := false) : State :=
  let s1 := if s.rd Reg.WN_FAULT_CODE t = 0 ∨ (w = true ∧ code < s.rd Reg.WN_FAULT_CODE t) then
      raise ((s.wr Reg.WN_FAULT_CODE code t).wr Reg.WN_FAULT_RECORD record t) Ev.winch_WN_FAULT t
    else countEvent s .winch t
  let s2 := (endWait s1 t).wr Reg.WN_STAT_PHASE 5 t
  if code = 6 then stopOrTrip s2 (s.rd Reg.HD_TRIP_UE_HALT == 1) 5 0
  else stopStep (rung s2 (if code = 5 then 4 else 2))

/-- R343: the burner of train `t` meets a record fault at element `elem`. BN_FAULT is raised when it latches a code. A trip for
an uncorrectable error takes the place of the STOP (15 R428). -/
def burnerFault (s : State) (t code record elem : Nat) : State :=
  let s1 := if s.rd Reg.BN_FAULT_CODE t = 0 then
      raise ((s.wr Reg.BN_FAULT_CODE code t).wr Reg.BN_FAULT_RECORD record t) Ev.burner_BN_FAULT t else s
  stopOrTrip (rung ((s1.wr Reg.BN_PROGRESS_ELEM elem t).wr Reg.BN_STAT_PHASE 5 t) (if code = 4 then 3 else 2))
    (code == 4 && s.rd Reg.HD_TRIP_UE_HALT == 1) 5 0

/-- R167, R427: a unit raises MODE_SKEW. -/
def modeSkew (s : State) : State :=
  stopOrTrip (rung (raise s Ev.plan_MODE_SKEW) 2) (s.rd Reg.HD_TRIP_MODE_SKEW == 1) 4 0

/-! ### Kite faults (01 R60, R61, 03 R124, R142, 05 R193) -/

def State.kite (s : State) (n : Nat) : KiteState := s.kites.getD n {}

def State.setKite (s : State) (n : Nat) (k : KiteState) : State := { s with kites := s.kites.put n k }

/-- R142: ESC_FAULT of slot `n`. -/
def setEsc (s : State) (n : Nat) (e : Nat × Nat × Nat × Nat) : State :=
  (((s.wr Reg.ESC_FAULT_CAUSE e.1 n).wr Reg.ESC_FAULT_BLOCK e.2.1 n).wr Reg.ESC_FAULT_COUNT e.2.2.1 n).wr
    Reg.ESC_FAULT_COLUMN e.2.2.2 n

/-- R193: the NaN trap registers of slot `n`. -/
def setTrap (s : State) (n valid : Nat) (x : NanTrap) : State :=
  let s1 := (((s.wr Reg.NAN_TRAP_STEP_STEP x.step n).wr Reg.NAN_TRAP_OP_OP_INDEX x.op n).wr Reg.NAN_TRAP_ELEM_TAG x.tag n).wr
    Reg.NAN_TRAP_ELEM_ELEM x.elem n
  let s2 := ((s1.wr Reg.NAN_TRAP_INFO_VALID valid n).wr Reg.NAN_TRAP_INFO_KIND x.kind n).wr Reg.NAN_TRAP_INFO_SOURCE x.source n
  ((s2.wr Reg.NAN_TRAP_INFO_UOP x.uop n).wr Reg.NAN_TRAP_INFO_CARRY x.carry n).wr Reg.NAN_TRAP_INFO_LOGICAL x.logical n

/-- R60, R142, R193: what FAULT_CLR clears. -/
def clearLatches (s : State) (n : Nat) : State :=
  setTrap (setEsc ((s.wr Reg.KITE_FAULT_OP_INDEX 0 n).wr Reg.KITE_FAULT_CODE 0 n) n (0, 0, 0, 0)) n 0 ⟨0, 0, 0, 0, 0, 0, 0, 0, 0⟩

/-- R60, R142, R193: KITE_FAULT takes a fault, and ESC_FAULT or the trap registers what comes with it. -/
def latchKite (s : State) (n : Nat) (f : KiteFault) : State :=
  let s1 := (s.wr Reg.KITE_FAULT_CODE f.code n).wr Reg.KITE_FAULT_OP_INDEX f.op n
  let s2 := match f.esc with | some e => setEsc s1 n e | none => s1
  match f.trap with | some x => setTrap s2 n 1 x | none => s2

/-- R124: fault `f` arises in the kite cycle of the slot's latest fault, which KITE_FAULT holds, and has the lower code. -/
def outranks (s : State) (n : Nat) (f : KiteFault) (together : Bool) : Bool :=
  together && (match (s.kite n).fault with
    | some x => x.code == s.rd Reg.KITE_FAULT_CODE n && x.op == s.rd Reg.KITE_FAULT_OP_INDEX n && decide (f.code < x.code)
    | none => false)

/-- R60, R124: the first fault latches and is raised; a later one counts, and takes the place of a fault of its own cycle
with a higher code. -/
def latchFirst (s : State) (n : Nat) (f : KiteFault) (together : Bool) : State :=
  if s.rd Reg.KITE_FAULT_CODE n = 0 then raise (latchKite s n f) Ev.kiteCtl_OP_FAULT n
  else countEvent (if outranks s n f together then latchKite (setEsc s n (0, 0, 0, 0)) n f else s) .kiteCtl n

/-- R124: the fault that a clear of this cycle leaves latched. -/
def latestFault (k : KiteState) (f : KiteFault) (together : Bool) : KiteFault :=
  match k.fault with
  | some x => if together && decide (x.code ≤ f.code) then x else f
  | none => f

/-- R61, R473: the first op that a fault stops: all of them, but OP_INVALID lets the ops before it run on. -/
def stopsFrom (k : KiteState) (f : KiteFault) : Nat :=
  if f.code = 0x0A then (match k.stopFrom with | some i => min i f.op | none => f.op) else 0

/-- R60, R61: kite slot `n` meets fault `f`: it latches or counts, and the op stream stops. -/
def kiteFaultLatch (s : State) (n : Nat) (f : KiteFault) (together : Bool := false) : State :=
  let s1 := (latchFirst s n f together).wr Reg.KITE_STATE_STATE 4 n
  let k := s1.kite n
  s1.setKite n { k with fault := some (latestFault (s.kite n) f together), stopFrom := some (stopsFrom k f) }

/-- R408: a KITE_FAULT is met at rung 2, and the step is abandoned (R237). -/
def kiteFault (s : State) (n : Nat) (f : KiteFault) (together : Bool := false) : State :=
  replayFault (kiteFaultLatch s n f together)

/-- R60, R142, R193: FAULT_CLR. A fault of the same cycle is latched, and the clear is lost. -/
def faultClear (s : State) (n : Nat) (together : Bool := false) : State :=
  match together, (s.kite n).fault with
  | true, some f => latchKite (clearLatches s n) n f
  | _, _ => clearLatches s n

/-- R61, R473: the op of index `i` of a slot is stopped. -/
def KiteState.stops (k : KiteState) (i : Nat) : Bool :=
  match k.stopFrom with
  | some j => decide (j ≤ i)
  | none => false

/-- The stop of a slot ends. -/
def endStop (s : State) (n : Nat) : State := s.setKite n { s.kite n with stopFrom := none, fault := none }

/-- R43: a write of 1 to ZERO_GATE_EN enables gating in the running step. -/
def gateOpens (s : State) (f : Fld) (v n : Nat) : State :=
  if f = Reg.GATE_CTL_ZERO_GATE_EN ∧ v = 1 then { s with step := { s.step with ungated := s.step.ungated.filter (· != n) } }
  else s

/-- R43: a step starts: the slots whose gating is off. -/
def startGates (s : State) : State :=
  { s with step := { s.step with
    ungated := (List.range 136).filter (fun n => s.rd Reg.GATE_CTL_ZERO_GATE_EN n == 0) } }

/-- R46, R47, R137: event `e` is raised at each of `n` increments of a count. -/
def raiseTimes (s : State) (e : Evt) (inst n : Nat) : State := (List.range n).foldl (fun s _ => raise s e inst) s

/-! ### Scratchpad rows (01 R48, R49) -/

/-- R48: spare rows of each bank. -/
def bankSpares : Nat := 41

/-- R48, R49: a row is remapped to a spare of its bank, which starts with a correctable count of 0 (log 86); answers whether
one was free. SPARE_LOW is raised while 4 or fewer are left. -/
def remapRow (s : State) (n row : Nat) : Bool × State :=
  let k := s.kite n
  let b := row / 2048
  let used := k.spares.getD b 0
  if used < bankSpares then
    let k1 := { k with spares := k.spares.put b (used + 1), rowCe := k.rowCe.erase row }
    let s1 := rung ((s.setKite n k1).bump Reg.SP_SPARE_SPARE_USED n) 1
    (true, if bankSpares ≤ used + 5 then raise s1 Ev.kiteCtl_SPARE_LOW n else s1)
  else
    let rows := if k.noSpare.contains row then k.noSpare else k.noSpare ++ [row]
    (false, raise (s.setKite n { k with noSpare := rows }) Ev.kiteCtl_SPARE_EXHAUSTED n)

/-- R48: the rows of slot `n` whose count has reached SP_RETIRE_CE and that are not known to lack a spare. -/
def dueRows (s : State) (n : Nat) : List Nat :=
  ((s.kite n).rowCe.filter (fun e => decide (s.rd Reg.SP_RETIRE_SP_RETIRE_CE n ≤ e.2)
    && !(s.kite n).noSpare.contains e.1)).map Prod.fst

/-- R48: the rows of slot `n` that are due move to spare rows, copied and corrected; a row without a spare stays. -/
def remapDue (s : State) (n : Nat) : State := (dueRows s n).foldl (fun s r => (remapRow s n r).2) s

/-! ### Failed kites, other SRAM (14 R400, R405) -/

/-- R400: slot `n` is declared FAILED: nothing more of its stream runs. -/
def declareFailed (s : State) (n : Nat) : State :=
  let s0 := s.setKite n { s.kite n with stopFrom := some 0 }
  let s1 := (s0.wr Reg.KITE_STATE_STATE 8 n).setHdr .kiteCtl n { s.hdr .kiteCtl n with failed := true }
  let t := n / 17
  raise (s1.wr Reg.TRN_KSTAT_FAILED (Nat.lor (s1.rd Reg.TRN_KSTAT_FAILED t) (2 ^ (n % 17))) t) Ev.trainCtl_KITE_FAILED t

/-- R405: the number of a macro. -/
def sramKey : SramUnit → Nat
  | .kiteFile n f => 4 * n + (match f with | .codebook => 0 | .scale => 1 | .program => 2)
  | .spoolTags t => 1024 + t
  | .winchBuffer t => 1032 + t
  | .burnerBuffer t => 1040 + t
  | .flitBuffer l => 1048 + l
  | .replayBuffer l => 1080 + l

/-- R400, R405: a macro has no spare row left: a kite fails; a train or line whose error is uncorrectable stops the step and
the rank is handed over. -/
def sramExhausted (s : State) (f : SramFind) : State :=
  match f.unit with
  | .kiteFile n _ => let s1 := declareFailed s n; if partitionSlot s n then s1 else stopStep s1
  | _ => if f.ue then handOver (stopStep s) else s

/-- R405, R408: a row of an SRAM macro that is due moves to a spare row of its macro. -/
def remapSram (s : State) (f : SramFind) : State :=
  let key := sramKey f.unit
  let used := s.mem.sramUsed.getD key 0
  if used < Config.sramSpares key then
    rung { s with mem := { s.mem with sramUsed := s.mem.sramUsed.put key (used + 1) } } 1
  else sramExhausted s f

end Sys2Proof.Machine
end

