-- ==== Sys2Proof/Machine/Memory.lean ====
section
/-! DEFINITION. HBM addresses, the spool, and byte access to HBM through it (06 R201 to R213, R471). -/

namespace Sys2Proof.Machine

/-! ### Addresses (R201, R202) -/

/-- R201: the first address beyond the device's HBM. -/
def hbmTop : Nat := 736 * 2 ^ 30

/-- Where an address lies (R202): stack, logical pseudo-channel, granule within it, offset in the granule. -/
structure Loc where
  stack : Nat
  lpc : Nat
  q : Nat
  o : Nat
deriving DecidableEq, Repr

/-- R202: the exclusive-or of the nibbles of `g`, lowest `n` of them. -/
def foldNibbles : Nat → Nat → Nat
  | 0, _ => 0
  | n + 1, g => Nat.xor (g % 16) (foldNibbles n (g / 16))

/-- R202: the stack of granule `g` (bits [27:0] by nibbles, and bit 28). -/
def stackOf (g : Nat) : Nat := Nat.xor (foldNibbles 7 g) (g / 2 ^ 28 % 2)

/-- R202: the decoding of a device address before page translation. -/
def decodeAddr (a : Nat) : Loc :=
  let g := a / 2048
  { stack := stackOf g, lpc := g / 16 % 31, q := g / 16 / 31, o := a % 2048 }

/-- The address a location decodes from: the inverse of `decodeAddr`. -/
def encodeAddr (l : Loc) : Nat :=
  let j := l.q * 31 + l.lpc
  let low := Nat.xor (stackOf (16 * j)) l.stack
  (16 * j + low) * 2048 + l.o

def State.stack (s : State) (k : Nat) : StackState := s.mem.stackTab.getD k {}

def State.setStack (s : State) (k : Nat) (x : StackState) : State :=
  { s with mem := { s.mem with stackTab := s.mem.stackTab.put k x } }

/-- The number of a granule of a stack in its translation table. -/
def granuleKey (lpc q : Nat) : Nat := lpc * 2 ^ 20 + q

/-- R223: the granule a stack's live translation table gives. -/
def translate (x : StackState) (lpc q : Nat) : Nat := x.xlat.getD (granuleKey lpc q) q

/-- R203, R204: the physical channel of a logical one, by the live map. -/
def State.ppc (s : State) (k lpc : Nat) : Nat := s.rd Reg.PC_MAP_PHYS k lpc

/-- R202: bank of a physical channel: SID × 16 + bank group × 4 + bank. -/
def bankOf (q o : Nat) : Nat :=
  let bp := q % 24
  bp / 8 * 16 + (bp % 8 / 4 + if 1024 ≤ o then 2 else 0) * 4 + bp % 4

/-- R202: the row of a bank. -/
def rowOf (q : Nat) : Nat := q / 24

/-- The number of the physical row that holds address `a` of stack `k`. -/
def State.rowId (s : State) (a : Nat) : Nat :=
  let l := decodeAddr a
  let q := translate (s.stack l.stack) l.lpc l.q
  (s.ppc l.stack l.lpc * 48 + bankOf q l.o) * 32768 + rowOf q

/-! ### HBM bytes -/

/-- What a byte of HBM that nothing has written reads as (log 4). -/
def hbmBlank : Byte := 0

/-- The HBM byte at a device address, the spool left aside. -/
def hbmByte (s : State) (a : Nat) : Byte := Table.getD s.hbm a hbmBlank

/-- R206: whole sectors reach HBM with fresh check symbols: the transfers written are no longer faulty (R471). -/
def hbmWrite (s : State) (a : Nat) (bs : Bytes) : State :=
  let k := (decodeAddr a).stack
  let x := s.stack k
  let s1 := if x.bad.contains (a / 64) then s.setStack k { x with bad := x.bad.filter (· != a / 64) } else s
  { s1 with hbm := Table.storeN hbmBlank s1.hbm a bs }

/-- Whether the 64-byte transfer of address `a` reads uncorrectable (R217, R471). -/
def faulty (s : State) (a : Nat) : Bool := (s.stack (decodeAddr a).stack).bad.contains (a / 64)

/-! ### Spool sets (R206 to R211) -/

/-- R206: the spool set of an address, with its train: 16,384 × train + {j[8:0], o[10:7], s[0]}. -/
def spoolSet (a : Nat) : Nat :=
  let g := a / 2048
  let k := stackOf g
  16384 * (k / 2) + g / 16 % 512 * 32 + a % 2048 / 128 * 2 + k % 2

/-- The train whose spool serves an address. -/
def trainOf (a : Nat) : Nat := stackOf (a / 2048) / 2

def State.lines (s : State) (set : Nat) : List SpoolLine := s.mem.spool.getD set []

def State.setLines (s : State) (set : Nat) (ls : List SpoolLine) : State :=
  { s with mem := { s.mem with spool := s.mem.spool.put set ls } }

def findLine (ls : List SpoolLine) (tag : Nat) : Option SpoolLine := ls.find? (fun l => l.tag == tag)

/-- The set without the line of a tag. -/
def dropLine (ls : List SpoolLine) (tag : Nat) : List SpoolLine := ls.filter (fun l => l.tag != tag)

/-- The set with a line in place of the one of the same tag. -/
def replaceLine (ls : List SpoolLine) (x : SpoolLine) : List SpoolLine :=
  ls.map (fun l => if l.tag = x.tag then x else l)

def SpoolLine.valid (x : SpoolLine) (h : Nat) : Bool := if h = 0 then x.v0 else x.v1

def SpoolLine.dirty (x : SpoolLine) (h : Nat) : Option Bytes := if h = 0 then x.d0 else x.d1

/-- The bytes of a clean sector that HBM has lost. -/
def SpoolLine.kept (x : SpoolLine) (h : Nat) : Option Bytes := if h = 0 then x.k0 else x.k1

/-- The bytes that a sector holds and HBM does not. -/
def SpoolLine.data (x : SpoolLine) (h : Nat) : Option Bytes := (x.dirty h).or (x.kept h)

def SpoolLine.anyDirty (x : SpoolLine) : Bool := x.d0.isSome || x.d1.isSome

def SpoolLine.setValid (x : SpoolLine) (h : Nat) : SpoolLine :=
  if h = 0 then { x with v0 := true } else { x with v1 := true }

def SpoolLine.setDirty (x : SpoolLine) (h : Nat) (d : Bytes) : SpoolLine :=
  if h = 0 then { x with v0 := true, d0 := some d, k0 := none } else { x with v1 := true, d1 := some d, k1 := none }

/-- The line with a clean sector that keeps bytes HBM is about to lose. -/
def SpoolLine.keep (x : SpoolLine) (h : Nat) (d : Bytes) : SpoolLine :=
  if x.valid h && (x.data h).isNone then (if h = 0 then { x with k0 := some d } else { x with k1 := some d }) else x

/-- The line without a sector. -/
def SpoolLine.invalidate (x : SpoolLine) (h : Nat) : SpoolLine :=
  if h = 0 then { x with v0 := false, k0 := none } else { x with v1 := false, k1 := none }

/-- The byte that a read of address `a` returns: the sector's own, else HBM's (R206, R207). -/
def memByte (s : State) (a : Nat) : Byte :=
  match findLine (s.lines (spoolSet a)) (a / 128) with
  | some x =>
    match x.data (a / 64 % 2) with
    | some d => d.getD (a % 64) 0
    | none => hbmByte s a
  | none => hbmByte s a

/-- `n` bytes from address `a` as a read returns them. -/
def memBytes (s : State) (a : Nat) : Nat → Bytes
  | 0 => []
  | n + 1 => memByte s a :: memBytes s (a + 1) n

/-- R206: the dirty sectors of a line go to HBM, counted. -/
def writebackLine (s : State) (t : Nat) (x : SpoolLine) : State :=
  let s1 := match x.d0 with
    | some d => (hbmWrite s (x.tag * 128) d).bump Reg.SP_WRITEBACKS_COUNT t
    | none => s
  match x.d1 with
  | some d => (hbmWrite s1 (x.tag * 128 + 64) d).bump Reg.SP_WRITEBACKS_COUNT t
  | none => s1

/-- R206: the bytes a read returns from clean sectors of these transfers are kept before HBM loses them. -/
def keepClean (s : State) (ns : List Nat) : State :=
  ns.foldl (fun s n =>
    let set := spoolSet (n * 64)
    match findLine (s.lines set) (n / 2) with
    | some x => s.setLines set (replaceLine (s.lines set) (x.keep (n % 2) (memBytes s (n * 64) 64)))
    | none => s) s

/-- R211: the way that is disabled in the group of a set. -/
def offWay (s : State) (set : Nat) : Option Nat := Table.find (set / 1024) s.mem.wayOff

/-- R211: the ways a set has: 16, or 15 where its group runs with a way disabled. -/
def waysOf (s : State) (set : Nat) : Nat :=
  if bit (s.rd Reg.SPOOL_SPARE_WAY_DISABLED (set / 16384)) (set % 16384 / 1024) then 15 else 16

/-- R208: room for one more line: the least recently used unpinned line leaves a full set, its dirty sectors written
back. The lines stand most recently used first. -/
def makeRoom (s : State) (set : Nat) : State :=
  let ls := s.lines set
  if ls.length < waysOf s set then s
  else match ls.reverse.find? (fun l => !l.pin) with
    | some v => (writebackLine s (set / 16384) v).setLines set (dropLine ls v.tag)
    | none => s

/-- The lowest way in service that no line of the set sits in. -/
def freeWay (off : Option Nat) (ls : List SpoolLine) : Nat :=
  ((List.range 16).find? (fun w => off != some w && !ls.any (fun l => l.way == w))).getD 0

/-- R208, R209: how an access under `hint` (0 NORMAL, 1 STREAM, 2 KEEP, 3 LAST) is served: KEEP beyond KEEP_MAX is
served as NORMAL and counted; LAST is served as NORMAL when LAST_EN is 0, and on a pinned line, counted. -/
def effectiveHint (s : State) (set tag hint : Nat) : Nat × State :=
  let t := set / 16384
  let ls := s.lines set
  let pinned := (findLine ls tag).any (·.pin)
  if hint = 2 then
    if pinned || (ls.filter (·.pin)).length < s.rd Reg.SPOOL_CTL_KEEP_MAX t then (2, s)
    else (0, s.bump Reg.KEEP_DENIED_COUNT t)
  else if hint = 3 then
    if s.rd Reg.SPOOL_CTL_LAST_EN t = 0 then (0, s)
    else if pinned then (0, s.bump Reg.LAST_ON_KEEP_COUNT t)
    else (3, s)
  else (hint, s)

/-- The set with `x` at the place a hit under `hint` leaves it. -/
def touchLine (ls : List SpoolLine) (x : SpoolLine) (hint : Nat) : List SpoolLine :=
  if hint = 1 then replaceLine ls x
  else { x with pin := x.pin || hint == 2 } :: dropLine ls x.tag

/-- The set with a new line at the place an allocation under `hint` gives it. -/
def allocLine (off : Option Nat) (ls : List SpoolLine) (x : SpoolLine) (hint : Nat) : List SpoolLine :=
  let y := { x with pin := hint == 2, way := freeWay off ls }
  if hint = 1 then ls ++ [y] else y :: ls

/-- R208: the sector of `a` is brought into the spool under an effective hint 0 to 2, hits and misses counted. -/
def bringSector (s : State) (a hint : Nat) : State :=
  let set := spoolSet a
  let h := a / 64 % 2
  match findLine (s.lines set) (a / 128) with
  | some x =>
    let s1 := if x.valid h then s.bump64 Reg.SP_HITS_LO Reg.SP_HITS_HI (set / 16384)
      else s.bump64 Reg.SP_MISSES_LO Reg.SP_MISSES_HI (set / 16384)
    s1.setLines set (touchLine (s1.lines set) (x.setValid h) hint)
  | none =>
    let s1 := makeRoom (s.bump64 Reg.SP_MISSES_LO Reg.SP_MISSES_HI (set / 16384)) set
    s1.setLines set (allocLine (offWay s1 set) (s1.lines set) (({ tag := a / 128, way := 0 } : SpoolLine).setValid h) hint)

/-- R208, R210: the line of `a`, if present, leaves without writeback, a dirty one counted as a drop. -/
def dropLast (s : State) (a : Nat) : State :=
  let set := spoolSet a
  match findLine (s.lines set) (a / 128) with
  | some x =>
    let s1 := s.setLines set (dropLine (s.lines set) x.tag)
    if x.anyDirty then raise (s1.bump Reg.LAST_DIRTY_DROPS_COUNT (set / 16384)) Ev.spool_DIRTY_DROP (set / 16384) else s1
  | none => s

/-- Whether a read of the sector of `a` must go to HBM. -/
def missesSector (s : State) (a : Nat) : Bool :=
  match findLine (s.lines (spoolSet a)) (a / 128) with
  | some x => !x.valid (a / 64 % 2)
  | none => true

/-- Hits and misses of the sectors at `as`. -/
def countSectors (s : State) (as : List Nat) : State :=
  as.foldl (fun s a => if missesSector s a then s.bump64 Reg.SP_MISSES_LO Reg.SP_MISSES_HI (trainOf a)
    else s.bump64 Reg.SP_HITS_LO Reg.SP_HITS_HI (trainOf a)) s

/-- The sectors of a range, by their first address. -/
def sectorsOf (a len : Nat) : List Nat :=
  if len = 0 then [] else (List.range ((a + len - 1) / 64 - a / 64 + 1)).map (fun i => (a / 64 + i) * 64)

/-- R208: one sector read under a hint other than LAST. The data is that of `memByte` before the read. A read that misses and
meets a faulty transfer returns nothing and brings nothing in (R217). -/
def readSector (s : State) (a hint : Nat) : Option Bytes × State :=
  let a0 := a / 64 * 64
  if missesSector s a0 && faulty s a0 then
    (none, s.bump64 Reg.SP_MISSES_LO Reg.SP_MISSES_HI (trainOf a0))
  else
    let (h, s1) := effectiveHint s (spoolSet a0) (a0 / 128) hint
    (some (memBytes s a0 64), bringSector s1 a0 h)

/-- The 64 bytes of a sector with `bs` written from offset `o`. -/
def mergeBytes (old : Bytes) (o : Nat) (bs : Bytes) : Bytes :=
  (old.take o ++ bs ++ old.drop (o + bs.length)).take 64

/-- R206: one write within a sector under a hint. A part sector that is not valid in the spool is read and merged
first; when that read is faulty the write is abandoned (R471, answer `false`). A LAST write that misses goes to HBM
and allocates nothing; one that hits is served as NORMAL (DEDUCED, log 28). -/
def writeSector (s : State) (a : Nat) (bs : Bytes) (hint : Nat) : Bool × State :=
  let a0 := a / 64 * 64
  let whole := bs.length = 64
  if !whole && missesSector s a0 && faulty s a0 then (false, s)
  else
    let data := if whole then bs else mergeBytes (memBytes s a0 64) (a % 64) bs
    let (h0, s1) := effectiveHint s (spoolSet a0) (a0 / 128) (if hint = 3 then 0 else hint)
    if hint = 3 && (findLine (s1.lines (spoolSet a0)) (a0 / 128)).isNone
        && s.rd Reg.SPOOL_CTL_LAST_EN (trainOf a0) == 1 then
      (true, hbmWrite (s1.bump64 Reg.SP_MISSES_LO Reg.SP_MISSES_HI (trainOf a0)) a0 data)
    else
      let s2 := bringSector s1 a0 h0
      let set := spoolSet a0
      match findLine (s2.lines set) (a0 / 128) with
      | some x => (true, s2.setLines set (replaceLine (s2.lines set) (x.setDirty (a0 / 64 % 2) data)))
      | none => (true, s2)

/-- A range read through the spool under a hint other than LAST, sector by sector: its bytes, the transfers that are
uncorrectable, and the state. `fuel` bounds the sectors. -/
def readRange : Nat → State → Nat → Nat → Nat → Bytes × List Nat × State
  | 0, s, _, _, _ => ([], [], s)
  | fuel + 1, s, a, len, hint =>
    if len = 0 then ([], [], s)
    else
      let n := min len (64 - a % 64)
      let (d, s1) := readSector s a hint
      let (bs, ue, s2) := readRange fuel s1 (a + n) (len - n) hint
      match d with
      | some x => ((x.drop (a % 64)).take n ++ bs, ue, s2)
      | none => (zeros n ++ bs, (a / 64 * 64) :: ue, s2)

/-- R208, R210: `n` bytes of one line read under LAST: all of them are returned, then the line is dropped. A line whose data is
not returned stays. -/
def readLine (s : State) (a n : Nat) : Bytes × List Nat × State :=
  let (h, s1) := effectiveHint s (spoolSet a) (a / 128) 3
  if h = 3 then
    let ue := (sectorsOf a n).filter (fun b => missesSector s b && faulty s b)
    let s2 := countSectors s1 (sectorsOf a n)
    (memBytes s a n, ue, if ue = [] then dropLast s2 a else s2)
  else readRange 3 s1 a n 0

/-- A range read under LAST, line by line. -/
def readLines : Nat → State → Nat → Nat → Bytes × List Nat × State
  | 0, s, _, _ => ([], [], s)
  | fuel + 1, s, a, len =>
    if len = 0 then ([], [], s)
    else
      let n := min len (128 - a % 128)
      let (bs, ue, s1) := readLine s a n
      let (bs1, ue1, s2) := readLines fuel s1 (a + n) (len - n)
      (bs ++ bs1, ue ++ ue1, s2)

/-- R206 to R210: a range read through the spool: its bytes, the transfers that are uncorrectable, and the state. -/
def memRead (s : State) (a len hint : Nat) : Bytes × List Nat × State :=
  if hint = 3 then readLines (len / 128 + 2) s a len else readRange (len / 64 + 2) s a len hint

/-- A range written through the spool: the addresses whose merge read failed (R471), and the state. -/
def writeRange : Nat → State → Nat → Bytes → Nat → List Nat × State
  | 0, s, _, _, _ => ([], s)
  | fuel + 1, s, a, bs, hint =>
    if bs = [] then ([], s)
    else
      let n := min bs.length (64 - a % 64)
      let (ok, s1) := writeSector s a (bs.take n) hint
      let (bad, s2) := writeRange fuel s1 (a + n) (bs.drop n) hint
      (if ok then bad else (a / 64 * 64) :: bad, s2)

def memWrite (s : State) (a : Nat) (bs : Bytes) (hint : Nat) : List Nat × State :=
  writeRange (bs.length / 64 + 2) s a bs hint

/-- R209: every line a predicate picks is unpinned. -/
def unpinLines (s : State) (p : Nat → SpoolLine → Bool) : State :=
  { s with mem := { s.mem with spool := s.mem.spool.map (fun e =>
      (e.1, e.2.map (fun l => if p e.1 l then { l with pin := false } else l))) } }

/-- The lines of train `t` now pinned (KEEP_PINNED). -/
def pinnedLines (s : State) (t : Nat) : Nat :=
  (s.mem.spool.filter (fun e => e.1 / 16384 = t)).foldl (fun n e => n + (e.2.filter (·.pin)).length) 0

/-! ### Regulators (R212, R213) -/

def State.bucketAt (s : State) (t p : Nat) : Bucket := s.mem.buckets.getD (8 * t + p) {}

/-- R213: the bucket brought up to the present memory-side cycle. -/
def bucketNow (s : State) (t p : Nat) : Bucket :=
  let b := s.bucketAt t p
  let now := memCycle s.tick
  if b.cycle < now then
    { units := min (s.rd Reg.REG_CFG_BURST t p * 1024 : Nat)
        (b.units + ((s.rd Reg.REG_CFG_RATE t p * (now - b.cycle) : Nat) : Int)), cycle := now }
  else b

def State.setBucket (s : State) (t p : Nat) (b : Bucket) : State :=
  { s with mem := { s.mem with buckets := s.mem.buckets.put (8 * t + p) b } }

/-- R213: the units an access of `n` sectors needs before it proceeds. -/
def threshold (s : State) (t p n : Nat) : Nat := min n (s.rd Reg.REG_CFG_BURST t p) * 1024

/-- R213: a regulator that holds its partition entirely. -/
def partitionHeld (s : State) (t p : Nat) : Bool := s.rd Reg.REG_CFG_EN t p == 1 && s.rd Reg.REG_CFG_RATE t p == 0

/-- R213: whether an access of `n` sectors may proceed now. -/
def admits (s : State) (t p n : Nat) : Bool :=
  s.rd Reg.REG_CFG_EN t p == 0
    || (!partitionHeld s t p && decide ((threshold s t p n : Int) ≤ (bucketNow s t p).units))

/-- R213: an access of `n` sectors deducts its tokens. -/
def deduct (s : State) (t p n : Nat) : State :=
  if s.rd Reg.REG_CFG_EN t p = 0 then s
  else
    let b := bucketNow s t p
    s.setBucket t p { b with units := b.units - (n * 1024 : Nat) }

/-- R213: `n` cycles of waiting are counted. -/
def countStalls (s : State) (t p n : Nat) : State :=
  if n = 0 then s else raise (s.bump Reg.REG_STALLS_STALLS t p n) Ev.regulator_REG_STALL t

/-- R213: a stream of `n` single-sector accesses is charged. Where tokens are short, the stream waits for refill, the
cycles are counted, and the bucket is brought up to the cycle the stream ends in (log 13). -/
def chargeStream (s : State) (t p n : Nat) : State :=
  let rate := s.rd Reg.REG_CFG_RATE t p
  if s.rd Reg.REG_CFG_EN t p = 0 ∨ n = 0 then s
  else
    let b := bucketNow s t p
    let need : Int := (n * 1024 : Nat)
    if need ≤ b.units ∨ rate = 0 then s.setBucket t p { b with units := b.units - need }
    else
      let wait := ceilDiv (need - b.units).toNat rate
      countStalls (s.setBucket t p { units := b.units + ((rate * wait : Nat) : Int) - need, cycle := b.cycle + wait })
        t p wait

/-- R212: every sector of a range is charged to partition `p` of the train that serves it. -/
def chargeRange (s : State) (p a len : Nat) : State :=
  (List.range 8).foldl (fun s t => chargeStream s t p ((sectorsOf a len).filter (fun x => trainOf x == t)).length) s

/-- R213, R225: an access of partition `p` to the range must wait: a maintenance window is open, or the regulator of a train
that serves it holds the partition. -/
def mustWait (s : State) (p a len : Nat) : Bool :=
  s.mem.window.isSome
    || (List.range 8).any (fun t => partitionHeld s t p && (sectorsOf a len).any (fun x => trainOf x == t))

end Sys2Proof.Machine
end

