-- ==== Sys2Proof/Machine/HbmErrors.lean ====
section
/-! DEFINITION. HBM errors and what repairs them: the symbol code's outcomes, row faults, page retirement, channel
retraining, migration and loss (06 R216 to R229, 14 R409). -/

namespace Sys2Proof.Machine

/-! ### Rows (R219 to R224) -/

/-- R200: spare rows of a bank. -/
def sparesPerBank : Nat := 32

/-- R220: entries of a bank's remap table. -/
def remapCapacity : Nat := 64

/-- The bank of a row number, counted through the stack's channels. -/
def rowBank (row : Nat) : Nat := row / 32768

/-- The physical channel of a row number. -/
def rowChannel (row : Nat) : Nat := row / 32768 / 48

/-- R202: the granule of its channel that a row number holds half of. -/
def rowGranule (row : Nat) : Nat :=
  let b := row / 32768 % 48
  row % 32768 * 24 + b / 16 * 8 + b % 16 / 4 % 2 * 4 + b % 4

/-- R202: where the row's half begins in its granule. -/
def rowHalf (row : Nat) : Nat := if row / 32768 % 16 / 4 < 2 then 0 else 1024

/-- R202: the granules of a logical channel that addresses reach; the rest are its page reserve. -/
def channelTop (lpc : Nat) : Nat := if lpc < 23 then 777976 else 777975

/-- The logical channel that a physical one serves. -/
def State.servedBy (s : State) (k pc : Nat) : Option Nat := (List.range 31).find? (fun l => s.ppc k l == pc)

/-- R202, R223: the granule of a logical channel that stands in a row, none for a row that holds no address. -/
def granuleIn (s : State) (k row : Nat) : Option Nat :=
  match s.servedBy k (rowChannel row) with
  | none => none
  | some l =>
    let q := rowGranule row
    let x := s.stack k
    match x.xlat.find? (fun e => e.1 / 2 ^ 20 == l && e.2 == q) with
    | some e => some e.1
    | none => if q < channelTop l ∧ (Table.find (granuleKey l q) x.xlat).isNone then some (granuleKey l q) else none

/-- The device address of the first byte of a row. -/
def rowAddr (s : State) (k row : Nat) : Option Nat :=
  (granuleIn s k row).map (fun g => encodeAddr { stack := k, lpc := g / 2 ^ 20, q := g % 2 ^ 20, o := rowHalf row })

/-- The spare rows of bank `b` that remap entries use. -/
def sparesUsed (x : StackState) (b : Nat) : List Nat :=
  x.remap.filterMap (fun e => if rowBank e.1 = b then e.2.spare else none)

/-- The lowest spare row of a bank that no entry uses and that has not failed. -/
def freeSpare (x : StackState) (b : Nat) : Option Nat :=
  (List.range sparesPerBank).find? (fun i => !(sparesUsed x b).contains i && !x.badSpares.contains (32 * b + i))

/-- R220: the remap table of a bank has room for a row. -/
def remapRoom (x : StackState) (row : Nat) : Bool :=
  (Table.find row x.remap).isSome
    || decide ((x.remap.filter (fun e => rowBank e.1 = rowBank row)).length < remapCapacity)

/-- Spare rows the stack has assigned (SPARES_USED). -/
def sparesAssigned (x : StackState) : Nat := (x.remap.filter (fun e => e.2.spare.isSome)).length

def sparePermCount (x : StackState) : Nat := (x.remap.filter (fun e => e.2.st = .sparePerm)).length

/-- The registers that count the stack's repairs follow its tables. -/
def showRepairs (s : State) (k : Nat) : State :=
  let x := s.stack k
  (((s.wr Reg.SPARES_USED_COUNT (sparesAssigned x) k).wr Reg.SPARE_PERM_COUNT (sparePermCount x) k).wr
    Reg.PAGES_RETIRED_COUNT x.xlat.length k).wr Reg.RESERVE_FREE_COUNT (262144 - x.xlat.length - x.deadReserve.length) k

/-- R217: an uncorrectable read is counted, and its address latched when none is. -/
def latchUe (s : State) (a : Nat) : State :=
  let l := decodeAddr a
  let k := l.stack
  let q := translate (s.stack k) l.lpc l.q
  let s1 := raise ((s.countUe .stackErr k).bump Reg.PC_REC_UE_UE k (s.ppc k l.lpc)) Ev.stackErr_MEM_UE k
  if s1.rd Reg.UE_ADDR_HI_VALID k = 1 then s1
  else
    let s2 := ((s1.wr Reg.UE_ADDR_LO_ADDR (a % 2 ^ 32) k).wr Reg.UE_ADDR_HI_ADDR (a / 2 ^ 32) k).wr
      Reg.UE_ADDR_HI_VALID 1 k
    let bp := q % 24
    ((((((s2.wr Reg.UE_INFO_PPC (s.ppc k l.lpc) k).wr Reg.UE_INFO_SID (bp / 8) k).wr
      Reg.UE_INFO_BG (bp % 8 / 4 + if 1024 ≤ l.o then 2 else 0) k).wr Reg.UE_INFO_BANK (bp % 4) k).wr
      Reg.UE_INFO_ROW (rowOf q) k).wr Reg.UE_INFO_XFER (l.o / 64) k)

/-- R206: HBM's transfers `ns` of stack `k` become zeros and read clean; clean spool sectors keep what they hold. -/
def zeroTransfers (s : State) (k : Nat) (ns : List Nat) : State :=
  let s1 := keepClean s ns
  let x := s1.stack k
  let s2 := s1.setStack k { x with bad := x.bad.filter (fun n => !ns.contains n) }
  ns.foldl (fun s n => { s with hbm := Table.storeN hbmBlank s.hbm (n * 64) (zeros 64) }) s2

/-- R221: the copy of a row into its spare. A transfer of the row that stays uncorrectable is written as zeros, and the step
stops; transfer `met`, whose read brought the failure, has been counted and has met its consumer. -/
def copyRow (s : State) (k row : Nat) (met : Option Nat) : State :=
  match rowAddr s k row with
  | none => s
  | some a =>
    let hit := (s.stack k).bad.filter (fun n => n / 16 == a / 1024)
    zeroTransfers ((hit.filter (fun n => met != some n)).foldl (fun s n => stopForUe (latchUe s (n * 64)) (n * 64)) s) k hit

/-- R220: the entry of a row after one more failure, and the stack whose spare in use has failed with it. -/
def failEntry (x : StackState) (row : Nat) : RemapEntry × StackState :=
  let e := (Table.find row x.remap).getD { failures := 0, spare := none }
  ({ e with failures := e.failures + 1 },
    match e.spare with
    | some i => { x with badSpares := (32 * rowBank row + i) :: x.badSpares }
    | none => x)

/-- R220: the granule that holds the row is to be retired. -/
def sendRetire (s : State) (k row : Nat) : State :=
  match granuleIn s k row with
  | some g => s.setStack k { s.stack k with retire := if (s.stack k).retire.contains g then (s.stack k).retire
                                                     else (s.stack k).retire ++ [g] }
  | none => s

/-- R220, R221: a row fails: the first and second failure take a free spare at once, the third, or a row of a bank without a
spare or an entry left, retires the granule at the next table swap. -/
def failNow (s : State) (k row : Nat) (met : Option Nat) : State :=
  let (e, x) := failEntry (s.stack k) row
  match freeSpare x (rowBank row) with
  | some sp =>
    if e.failures ≤ 2 ∧ remapRoom x row then
      let s1 := copyRow s k row met
      let x1 := { s1.stack k with badSpares := x.badSpares,
                                  remap := x.remap.put row { failures := e.failures, spare := some sp } }
      svcAppend (showRepairs (raise (absorbed ((s1.setStack k x1).bump Reg.ROW_REMAPS_COUNT k)) Ev.stackErr_ROW_REMAP k) k) 3
        .stackErr k (row % 32768)
    else sendRetire (s.setStack k (if remapRoom x row then { x with remap := x.remap.put row e } else x)) k row
  | none => sendRetire (s.setStack k (if remapRoom x row then { x with remap := x.remap.put row e } else x)) k row

/-- R222, R224: a repair of bank `b` is running: a row of it has had its first step and not its last (DEDUCED, log 92). -/
def bankRepairs (x : StackState) (b : Nat) : Bool :=
  x.remap.any (fun e => rowBank e.1 == b && e.2.st == .pprPending) || x.repaired.any (fun r => rowBank r == b)

/-- R219, R224: a row fails; while its bank's repair is running the failure waits behind it. -/
def rowFails (s : State) (k row : Nat) (met : Option Nat) : State :=
  let x := s.stack k
  if bankRepairs x (rowBank row) then s.setStack k { x with queued := x.queued ++ [row] } else failNow s k row met

/-- R224: the failures whose bank's repair has ended are handled in the order they arrived. -/
def handleQueued (s : State) (k : Nat) : State :=
  let x := s.stack k
  let free := x.queued.filter (fun r => !bankRepairs x (rowBank r))
  free.foldl (fun s r => failNow s k r none)
    (s.setStack k { x with queued := x.queued.filter (fun r => bankRepairs x (rowBank r)) })

/-- R219: the tracker of 1,024 rows, oldest entry first, with one more error of `row`; the entry of lowest count, the
oldest among equals, makes room. Answers the row's count and whether an entry was evicted. -/
def track (t : List (Nat × Nat)) (row : Nat) : List (Nat × Nat) × Nat × Bool :=
  match t.find? (fun e => e.1 = row) with
  | some e => (t.map (fun x => if x.1 = row then (row, e.2 + 1) else x), e.2 + 1, false)
  | none =>
    if t.length < 1024 then (t ++ [(row, 1)], 1, false)
    else
      let low := t.foldl (fun m e => min m e.2) 4294967295
      match t.find? (fun e => e.2 = low) with
      | some v => (t.filter (fun e => e.1 ≠ v.1) ++ [(row, 1)], 1, true)
      | none => (t ++ [(row, 1)], 1, false)

/-! ### Channels (R227 to R229) -/

/-- R219: an error of a row enters the tracker; answers the row's count. -/
def trackRow (s : State) (k row : Nat) : Nat × State :=
  let (t, n, ev) := track (s.stack k).tracker row
  let s1 := s.setStack k { s.stack k with tracker := t }
  (n, if ev then s1.bump Reg.TRACKER_EVICT_COUNT k else s1)

/-- R230: the value in force of a field whose new value takes effect in the next window. -/
def State.inForce (s : State) (f : Fld) : Nat := s.mem.tuned.getD (f.key 0 0) (s.rd f)

/-- R227: a channel retrains outside a window. -/
def unscheduledRetrain (s : State) (k pc : Nat) : State :=
  if s.rd Reg.PC_REC_ST_STATE k pc = 4 ∨ s.rd Reg.PC_REC_ST_STATE k pc = 5 then s
  else
    let s1 := ((s.wr Reg.PC_REC_ST_STATE 4 k pc).bump Reg.PC_REC_RT_RETRAINS k pc).bump Reg.UNSCHED_RETRAINS_COUNT k
    raise (absorbed s1) Ev.stackErr_RETRAIN k

/-- R227: correctable errors and parity retries of a channel within the last 4,096 memory-side cycles; RETRAIN_CE of them
retrain it. -/
def countChannelCe (s : State) (k pc : Nat) : State :=
  let x := s.stack k
  let now := memCycle s.tick
  let run := ((x.ceRun.getD pc []).filter (fun c => decide (now < c + 4096))) ++ [now]
  if s.inForce Reg.MEM_THRESH_RETRAIN_CE ≤ run.length then
    unscheduledRetrain (s.setStack k { x with ceRun := x.ceRun.erase pc }) k pc
  else s.setStack k { x with ceRun := x.ceRun.put pc run }

/-- R199, R227: `n` parity errors of one command to a channel: the first retries the command and counts toward RETRAIN_CE; the
retry's own retrains the channel (DEDUCED, log 93). -/
def parityErrors (s : State) (k pc n : Nat) : State :=
  if n = 0 then s else if n = 1 then countChannelCe s k pc else unscheduledRetrain (countChannelCe s k pc) k pc

/-- The sectors of the spools that lie in logical channels `p` of stack `k`. -/
def cleanSectors (s : State) (k : Nat) (p : Nat → Bool) : List Nat :=
  s.mem.spool.flatMap (fun e => e.2.flatMap (fun x =>
    let l := decodeAddr (x.tag * 128)
    if l.stack == k && p l.lpc then [2 * x.tag, 2 * x.tag + 1] else []))

/-- The content of the stack's HBM moved so that logical channel `l` holds what the physical channel `new l` held,
under the old map `old`; what no channel serves stays in the stack's idle store, by physical channel. Clean spool sectors
keep what they hold (R206). -/
def rekeyStack (s0 : State) (k : Nat) (old new : Nat → Nat) : State :=
  let s := keepClean s0 (cleanSectors s0 k (fun l => old l != new l))
  let x := s.stack k
  let mine := s.hbm.filter (fun c => (decodeAddr c.1).stack = k)
  let other := s.hbm.filter (fun c => (decodeAddr c.1).stack ≠ k)
  let phys : List (Nat × Nat × Byte) :=
    mine.map (fun c => let l := decodeAddr c.1
                       (old l.lpc, l.q * 2048 + l.o, c.2)) ++
    x.idle.map (fun c => (c.1 / 2 ^ 31, c.1 % 2 ^ 31, c.2))
  let served := fun p : Nat => (List.range 31).find? (fun l => new l == p)
  let home := phys.filterMap (fun e => (served e.1).map (fun l =>
    (encodeAddr { stack := k, lpc := l, q := e.2.1 / 2048, o := e.2.1 % 2048 }, e.2.2)))
  let away := phys.filterMap (fun e => if (served e.1).isNone then some (e.1 * 2 ^ 31 + e.2.1, e.2.2) else none)
  let bad := x.bad.filterMap (fun n => let l := decodeAddr (n * 64)
                                       (served (old l.lpc)).map (fun i => encodeAddr { l with lpc := i } / 64))
  let s1 := s.setStack k { x with bad := bad, idle := away.foldl (fun t c => Table.store hbmBlank t c.1 c.2) [] }
  { s1 with hbm := home.foldl (fun t c => Table.store hbmBlank t c.1 c.2) other }

/-- Whether the stack's ballast channel is free (R228). -/
def ballastFree (s : State) (k : Nat) : Bool :=
  s.rd Reg.MIG_STAT_BALLAST_USED k == 0

/-- R203: the physical channel no map entry names. -/
def ballastChannel (s : State) (k : Nat) : Nat :=
  ((List.range 32).find? (fun p => !(List.range 31).any (fun l => s.ppc k l == p))).getD 31

/-- R228: the migration of logical channel `l` to the ballast channel starts. -/
def startMigration (s : State) (k l : Nat) : State :=
  let src := s.ppc k l
  let dst := ballastChannel s k
  let s1 := s.setStack k { s.stack k with mig := some { src := src, dst := dst, logical := l } }
  let s2 := (((s1.wr Reg.MIG_STAT_ACTIVE 1 k).wr Reg.MIG_STAT_SRC src k).wr Reg.MIG_STAT_COPIED 0 k)
  let s3 := ((s2.wr Reg.PC_REC_ST_STATE 2 k src).wr Reg.PC_REC_ST_STATE 3 k dst).wr Reg.PC_REC_ST_LOGICAL l k dst
  raise (absorbed s3) Ev.stackCtl_MIG_START k

/-- R228: the map entry moves to the former ballast channel; the source becomes FAILED. -/
def switchMigration (s : State) (k : Nat) (m : Migration) : State :=
  let x := s.stack k
  let s1 := s.setStack k { x with mig := none, overRuns := x.overRuns.erase m.src,
                                  candidates := x.candidates.filter (· != m.src),
                                  scrubbed := x.scrubbed.put m.dst (x.scrubbed.getD m.src 0) }
  let s2 := ((s1.wr Reg.PC_MAP_PHYS m.dst k m.logical).wr Reg.PC_REC_ST_STATE 5 k m.src).wr
    Reg.PC_REC_ST_STATE 0 k m.dst
  let s3 := ((s2.wr Reg.PC_REC_ST_LOGICAL m.logical k m.dst).wr Reg.MIG_STAT_ACTIVE 0 k).wr
    Reg.MIG_STAT_BALLAST_USED 1 k
  svcAppend (raise s3 Ev.stackCtl_MIG_DONE k) 2 .stackCtl k m.src

/-- R229: a migration is abandoned: its source serves on as before. -/
def abandonMigration (s : State) (k : Nat) : State :=
  match (s.stack k).mig with
  | none => s
  | some m =>
    let s1 := (s.setStack k { s.stack k with mig := none }).wr Reg.MIG_STAT_ACTIVE 0 k
    if s.rd Reg.PC_REC_ST_STATE k m.src = 2 then s1.wr Reg.PC_REC_ST_STATE 0 k m.src else s1

/-- R229: physical channel `pc` dies. Every step in flight stops. A free ballast channel takes over the map entry at
once, its contents to be rebuilt (rung 3); without one the stack is degraded and the rank is handed over. -/
def channelDies (s : State) (k pc : Nat) : State :=
  let s1 := stopStep (raise (s.wr Reg.PC_REC_ST_STATE 5 k pc) Ev.stackCtl_PC_DEAD k)
  match s1.servedBy k pc with
  | none => s1
  | some l =>
    if ballastFree s1 k then
      let b := ballastChannel s1 k
      let old := s1.ppc k
      let s3 := abandonMigration (rekeyStack s1 k old (fun i => if i = l then b else old i)) k
      let s4 := ((s3.wr Reg.PC_MAP_PHYS b k l).wr Reg.PC_REC_ST_STATE 0 k b).wr Reg.PC_REC_ST_LOGICAL l k b
      let s5 := s4.wr Reg.MIG_STAT_BALLAST_USED 1 k
      let s6 := { s5 with recov := { s5.recov with dead := s5.recov.dead ++ [(k, l)] } }
      rungRecorded (svcAppend s6 2 .stackCtl k pc) 3 .stackCtl k
    else handOver (raise s1 Ev.stackCtl_STACK_DEGRADED k)

/-! ### The outcomes of a read (R217) -/

/-- R219, R227: a correctable error of a row of channel `pc`. -/
def correctedRow (s : State) (k pc row : Nat) : State :=
  let (n, s1) := trackRow s k row
  let s2 := if s.inForce Reg.MEM_THRESH_ROW_CE_THRESH ≤ n then
      rowFails (s1.setStack k { s1.stack k with tracker := (s1.stack k).tracker.filter (fun e => e.1 ≠ row) }) k row none
    else s1
  countChannelCe (rung s2 1) k pc

/-- R217: symbols corrected in a transfer of channel `pc` are counted. -/
def countSymbols (s : State) (k pc symbols : Nat) : State :=
  let s1 := raise (((s.bump Reg.SYM_CE_COUNT k 0 symbols).countCe .stackErr k).bump Reg.PC_REC_CE_CE k pc)
    Ev.stackErr_MEM_CE k
  s1.bump Reg.PC_REC_ST_INTERVAL_CE k pc

/-- R217: one symbol corrected. -/
def correctedRead (s : State) (a symbols : Nat) : State :=
  let l := decodeAddr a
  let pc := s.ppc l.stack l.lpc
  correctedRow (countSymbols s l.stack pc symbols) l.stack pc (s.rowId a)

/-- HBM keeps a faulty transfer of stack `k`. -/
def markBad (s : State) (k n : Nat) : State :=
  let x := s.stack k
  if x.bad.contains n then s else s.setStack k { x with bad := x.bad ++ [n] }

/-- R217, R219 to R221: an uncorrectable read after its retry, apart from the consumer: counted, latched, and its row
fails. Where a spare takes the row over, the transfer is written there as zeros; else HBM keeps the faulty transfer. -/
def uncorrectableRead (s : State) (a : Nat) : State :=
  let k := (decodeAddr a).stack
  let s1 := latchUe s a
  rowFails (markBad s1 k (a / 64)) k (s.rowId a) (some (a / 64))

/-- R471: a merge read that stays uncorrectable: counted and latched as any read, and HBM keeps the faulty transfer. -/
def failedMerge (s : State) (a : Nat) : State :=
  markBad (latchUe s a) (decodeAddr a).stack (a / 64)

/-- R217, R343, R319: what the loss of the data does to its consumer. Host and scrub reads stop no step. -/
def consumerLoses (s : State) (a : Nat) (who : Consumer) : State :=
  match who with
  | .host | .scrub => s
  | .winch t => winchFault (if s.inStep then noteUe s a else s) t 6
    ((s.seqs.getD (4 * t.val + 1) {}).next - 1)
  | .burner t =>
    burnerFault { s with recov := { s.recov with ues := s.recov.ues ++ [a] } } t 4 (s.rd Reg.BN_STAT_RECORD t)
      (s.rd Reg.BN_PROGRESS_ELEM t)
  | .kite _ | .memory _ | .line _ | .arrival | .fetch => stopForUe s a

/-- R217, R409: a unit loses the transfers `bad`: it meets the first, the others are kept for the ladder with it. -/
def losesData (s : State) (bad : List Nat) (who : Consumer) : State :=
  match bad, who with
  | [], _ | _, .host | _, .scrub => s
  | a :: r, .burner _ => consumerLoses { s with recov := { s.recov with ues := s.recov.ues ++ r } } a who
  | a :: r, _ => consumerLoses (r.foldl (fun s b => if s.inStep then noteUe s b else s) s) a who

/-- R206, R217: a unit reads a range through the spool; none when a transfer of it is lost, which the unit meets. -/
def readFor (s : State) (who : Consumer) (a len hint : Nat) : Option Bytes × State :=
  let (bs, bad, s1) := memRead s a len hint
  if bad = [] then (some bs, s1) else (none, losesData (bad.foldl uncorrectableRead s1) bad who)

/-- R206, R471: a unit writes a range through the spool; whether every merge read succeeded. One that fails leaves its sector
as it was, and the unit is its consumer. -/
def writeFor (s : State) (who : Consumer) (a : Nat) (bs : Bytes) (hint : Nat) : Bool × State :=
  let (bad, s1) := memWrite s a bs hint
  (bad == [], losesData (bad.foldl failedMerge s1) bad who)

/-- A unit writes a range through the spool and does not wait for the outcome. -/
def storeFor (s : State) (who : Consumer) (a : Nat) (bs : Bytes) (hint : Nat) : State := (writeFor s who a bs hint).2

/-- R217, R218: a 64-byte transfer returns from HBM. -/
def transferReturns (s : State) (a : Nat) (res : EccResult) (who : Consumer) : State :=
  match res with
  | .clean => s
  | .corrected n => correctedRead s a n
  | .retryOk c =>
    let s1 := s.bump Reg.RETRY_OK_COUNT (decodeAddr a).stack
    if c then correctedRead s1 a 1 else s1
  | .uncorrectable => consumerLoses (uncorrectableRead s a) a who

end Sys2Proof.Machine
end

