-- ==== Sys2Proof/Machine/MemorySystem.lean ====
section
/-! DEFINITION. Commands of the memory system: spool accesses, regulators, HBM reads, channel retraining and loss,
temperature, maintenance windows and migration (06). -/

namespace Sys2Proof.Machine

/-- The outcome of a step. -/
abbrev Result := Host.Outcome State Fault Refusal

/-- An event that is enabled takes effect; one that is not leaves the state as it is (log 6). -/
@[inline] def whenOk (ok : Bool) (s t : State) : Result := .next (if ok then t else s)

/-! ### Spool accesses (R206 to R213) -/

/-- R211: the address of an uncorrectable dirty sector is latched like an HBM one (14 R409). -/
def dirtySectorUe (s : State) (a : Nat) : State :=
  let t := trainOf a
  let s1 := raise (s.countUe .spool t) Ev.spool_SP_UE t
  let k := (decodeAddr a).stack
  let s2 := if s1.rd Reg.UE_ADDR_HI_VALID k = 1 then s1
    else ((s1.wr Reg.UE_ADDR_LO_ADDR (a % 2 ^ 32) k).wr Reg.UE_ADDR_HI_ADDR (a / 2 ^ 32) k).wr
      Reg.UE_ADDR_HI_VALID 1 k
  stopForUe s2 a

/-- The counts of corrected and uncorrectable errors of a way of a set group (R211). -/
def wayKey (set way : Nat) : Nat := (set / 1024) * 16 + way

/-- R211: the spool's own memory errs on the sector of `a`: corrected, or uncorrectable in a clean sector (which is
invalidated and read again) or a dirty one. Answers whether the data is lost. -/
def sramError (s : State) (a : Nat) (ue : Bool) : Bool × State :=
  let set := spoolSet a
  let t := set / 16384
  match findLine (s.lines set) (a / 128) with
  | none => (false, s)
  | some x =>
    let (c, u) := s.mem.wayErrs.getD (wayKey set x.way) (0, 0)
    let count := fun (s : State) (e : Nat × Nat) =>
      { s with mem := { s.mem with wayErrs := s.mem.wayErrs.put (wayKey set x.way) e } }
    if !ue then (false, absorbed ((count s (c + 1, u)).countCe .spool t))
    else if (x.dirty (a / 64 % 2)).isSome then (true, dirtySectorUe (count s (c, u + 1)) (a / 64 * 64))
    else
      (false, ((count s (c, u + 1)).setLines set (replaceLine (s.lines set) (x.invalidate (a / 64 % 2)))).bump Reg.SP_REFETCH_COUNT t)

/-- R199: the parity errors of the commands to the channel that holds address `a`. -/
def parityAt (s : State) (a n : Nat) : State :=
  let l := decodeAddr a
  parityErrors s l.stack (s.ppc l.stack l.lpc) n

/-- R206 to R211: an access is served: a write under its hint, or a read whose data goes to the requester. -/
def serveAccess (s00 : State) (r : SpoolReq) : State :=
  let s := parityAt s00 r.addr r.parity
  let (lost, s0) := match r.sram with
    | some ue => sramError s r.addr ue
    | none => (false, s)
  if lost then s0
  else match r.write with
    | some bs => storeFor s0 r.who r.addr bs r.hint.val
    | none =>
      match readFor s0 r.who r.addr r.len r.hint.val with
      | (some bs, s1) => s1.emit (.readData bs)
      | (none, s1) => s1

/-- The bytes an access addresses. -/
def reqBytes (r : SpoolReq) : Nat := match r.write with | some bs => bs.length | none => r.len

/-- R212: the sectors an access is charged for. -/
def reqSectors (r : SpoolReq) : Nat := (sectorsOf r.addr (reqBytes r)).length

/-- R212, R213: the access proceeds at once, or waits in its partition's queue behind those before it. -/
def regulateAccess (s : State) (r : SpoolReq) : State :=
  match r.part with
  | none => serveAccess s r
  | some p =>
    let t := trainOf r.addr
    let q := s.mem.queues.getD (8 * t + p.val) []
    if q = [] && admits s t p.val (reqSectors r) then serveAccess (deduct s t p.val (reqSectors r)) r
    else
      let w : Waiting := { req := r, since := memCycle s.tick }
      { s with mem := { s.mem with queues := s.mem.queues.put (8 * t + p.val) (q ++ [w]) } }

/-- R225: an access that reaches an open maintenance window waits until it ends. -/
def acceptAccess (s : State) (r : SpoolReq) : State :=
  match s.mem.window with
  | some w => { s with mem := { s.mem with window := some { w with queue := w.queue ++ [r] } } }
  | none => regulateAccess s r

/-- R201: every byte of the access is below 736 GiB. -/
def accessOk (r : SpoolReq) : Bool := decide (r.addr + reqBytes r ≤ hbmTop)

/-- 15 R431: while the device is halted only host accesses are served. -/
def accessRuns (s : State) (r : SpoolReq) : Bool := s.islandsRun || r.who == .host

def execSpoolAccess (req : SpoolReq) (s : State) : Result :=
  whenOk (accessOk req && accessRuns s req) s (acceptAccess s req)

/-- R213: a queue whose first access comes to the head now. -/
def newHead (s : State) (q : List Waiting) : List Waiting :=
  match q with
  | [] => []
  | w :: r => { w with since := memCycle s.tick } :: r

/-- R213: the head access of a partition's queue proceeds; the cycles it waited as the head are counted. -/
def admitHead (s : State) (t p : Nat) : State :=
  match s.mem.queues.getD (8 * t + p) [] with
  | [] => s
  | w :: rest =>
    let s1 := { s with mem := { s.mem with queues := s.mem.queues.put (8 * t + p) (newHead s rest) } }
    let s2 := countStalls s1 t p (memCycle s.tick - w.since)
    serveAccess (deduct s2 t p (reqSectors w.req)) w.req

def canAdmit (s : State) (t p : Nat) : Bool :=
  match s.mem.queues.getD (8 * t + p) [] with
  | [] => false
  | w :: _ => admits s t p (reqSectors w.req) && s.mem.window.isNone && accessRuns s w.req

def execRegAdmit (t : Train) (p : Fin 8) (s : State) : Result := whenOk (canAdmit s t p) s (admitHead s t p)

def execHbmRead (addr : Nat) (parity : Fin 3) (res : EccResult) (who : Consumer) (s : State) : Result :=
  whenOk (decide (addr < hbmTop)) s (transferReturns (parityAt s addr parity) (addr / 64 * 64) res who)

def execUnpinAll (t : Train) (s : State) : Result := .next (unpinLines s (fun set _ => set / 16384 == t.val))

/-- R217: UE_CLR empties UE_ADDR and UE_INFO. -/
def clearUe (s : State) (k : Nat) : State :=
  let s1 := ((s.wr Reg.UE_ADDR_LO_ADDR 0 k).wr Reg.UE_ADDR_HI_VALID 0 k).wr Reg.UE_ADDR_HI_ADDR 0 k
  (((((s1.wr Reg.UE_INFO_PPC 0 k).wr Reg.UE_INFO_SID 0 k).wr Reg.UE_INFO_BG 0 k).wr Reg.UE_INFO_BANK 0 k).wr
    Reg.UE_INFO_ROW 0 k).wr Reg.UE_INFO_XFER 0 k

/-- 06 UE_INFO: a UE latched in the cycle of a UE_CLR (`together`) stays, and the clear is lost. -/
def execUeClr (st : StackNo) (together : Bool) (s : State) : Result := .next (if together then s else clearUe s st)

/-! ### Channels -/

/-- R228: the state of a channel in service: the source or the target of a migration, or ACTIVE. -/
def servingState (x : StackState) (pc : Nat) : Nat :=
  match x.mig with
  | some m => if m.src = pc then 2 else if m.dst = pc then 3 else 0
  | none => 0

/-- R227, R229: a retrain ends; two failures in succession kill the channel. -/
def retrainEnds (s : State) (k pc : Nat) (ok : Bool) : State :=
  let x := s.stack k
  if ok then
    (s.setStack k { x with failedRetrain := x.failedRetrain.put pc 0 }).wr Reg.PC_REC_ST_STATE (servingState x pc) k pc
  else
    let n := x.failedRetrain.getD pc 0 + 1
    let s1 := s.setStack k { x with failedRetrain := x.failedRetrain.put pc n }
    if 2 ≤ n then channelDies s1 k pc else s1.bump Reg.PC_REC_RT_RETRAINS k pc

def execRetrainDone (st : StackNo) (pc : PcNo) (ok : Bool) (s : State) : Result :=
  whenOk (s.rd Reg.PC_REC_ST_STATE st pc == 4) s (retrainEnds s st pc ok)

/-- R229: only a channel that serves a logical one can fail to return data. -/
def channelServes (s : State) (k pc : Nat) : Bool := (List.range 31).any (fun l => s.ppc k l == pc)

def execPcDead (st : StackNo) (pc : PcNo) (s : State) : Result :=
  whenOk (channelServes s st pc && s.rd Reg.PC_REC_ST_STATE st pc != 5) s (channelDies s st pc)

def execPhyMarginLow (st : StackNo) (pc : PcNo) (s : State) : Result :=
  whenOk (channelServes s st pc && s.rd Reg.PC_REC_ST_STATE st pc != 4) s (unscheduledRetrain s st pc)

/-! ### Temperature (R215) -/

/-- R215: the band of a temperature. -/
def bandOf (t : Int) : Nat :=
  if t ≤ 85 then 0 else if t ≤ 95 then 1 else if t ≤ 105 then 2 else if t ≤ 110 then 3 else if t ≤ 115 then 4 else 5

/-- R215: the lower edge of a band. -/
def bandEdge (b : Nat) : Int :=
  if b = 1 then 85 else if b = 2 then 95 else if b = 3 then 105 else if b = 4 then 110 else if b = 5 then 115 else -256

/-- R215: the stack enters a band. -/
def enterBand (s : State) (k b : Nat) : State :=
  let s0 := if 2 ≤ b then { s with recov := { s.recov with hot := true } } else s
  let s1 := raise (s0.wr Reg.STK_TEMP_BAND b k) Ev.stackCtl_BAND_CHANGE k
  if 3 ≤ b then raise s1 Ev.stackCtl_THROTTLE k else s1

/-- R215: a reading. A hotter band takes effect at once, a cooler one after 16 readings in a row that lie at least
HYST below the lower edge of the present band. -/
def readTemp (s : State) (k : Nat) (temp : BitVec 8) : State :=
  let t := temp.toInt
  let x := s.stack k
  let s1 := s.wr Reg.STK_TEMP_TEMP temp.toNat k
  let s2 := if toSigned 8 (s.rd Reg.STK_TEMP_TEMP_MAX k) < t then s1.wr Reg.STK_TEMP_TEMP_MAX temp.toNat k else s1
  let b := s.rd Reg.STK_TEMP_BAND k
  if b < bandOf t then enterBand (s2.setStack k { x with cool := 0 }) k (bandOf t)
  else if bandOf t < b ∧ t ≤ bandEdge b - (s.rd Reg.STK_THERM_HYST k : Int) then
    if x.cool + 1 = 16 then enterBand (s2.setStack k { x with cool := 0 }) k (bandOf t)
    else s2.setStack k { x with cool := x.cool + 1 }
  else s2.setStack k { x with cool := 0 }

def execStackTempRead (st : StackNo) (temp : BitVec 8) (s : State) : Result := .next (readTemp s st temp)

/-! ### Maintenance windows (R225, R226) -/

def windowPeriod : Nat := 1024000

/-- R225: the number of the first window that starts at or after tick `t`. -/
def nextWindow (s : State) (t : Nat) : Nat := ceilDiv (t - s.rd Reg.MW_PHASE_WIN_PHASE) windowPeriod

def windowTick (s : State) (k : Nat) : Nat := windowPeriod * k + s.rd Reg.MW_PHASE_WIN_PHASE

/-- R225, R230: the window opens at its tick; acceptance stops, and values written since the last window take effect. -/
def openWindow (s : State) : State :=
  let k := nextWindow s s.tick
  let w := windowTick s k
  let s1 := { s.passTo w with mem := { s.mem with window := some { k := k, start := w }, tuned := [] } }
  s1.bump Reg.MW_COUNT_WINDOWS

def execMaintWindowStart (s : State) : Result := whenOk s.mem.window.isNone s (openWindow s)

/-- R226: `n` work items are deferred to the next window. -/
def deferWork (s : State) (n : Nat) : State :=
  if n = 0 then s else raise (s.bump Reg.WIN_DEFERRED_DEFERRED 0 0 n) Ev.memory_WIN_DEFER

/-- R223: the lowest reserve granule of a logical channel that no entry uses and that has not failed. -/
def freeReserve (x : StackState) (lpc : Nat) : Option Nat :=
  let used := (x.xlat ++ x.xlatShadow).filterMap (fun e => if e.1 / 2 ^ 20 = lpc then some e.2 else none)
    ++ x.deadReserve.filterMap (fun g => if g / 2 ^ 20 = lpc then some (g % 2 ^ 20) else none)
  (List.range (used.length + 1)).map (channelTop lpc + ·) |>.find? (fun q => decide (q < 786432) && !used.contains q)

/-- R223: the translation table has room for a granule: its entry is rewritten, or 16,384 are not yet taken. -/
def xlatRoom (x : StackState) (g : Nat) : Bool :=
  (Table.find g x.xlat).isSome || (Table.find g x.xlatShadow).isSome
    || decide ((x.xlat.putAll x.xlatShadow).length < 16384)

/-- R223: the reserve is exhausted: the row stays in service, and its channel is a candidate for migration. -/
def reserveExhausted (s : State) (k lpc : Nat) : State :=
  let x := s.stack k
  raise (s.setStack k { x with candidates := x.candidates ++ [s.ppc k lpc] }) Ev.stackErr_RESERVE_EXHAUSTED k

/-- R223: one retirement: a translation entry enters the shadow table, or the reserve is exhausted. -/
def retireGranule (s : State) (k g : Nat) : State :=
  let x := s.stack k
  match freeReserve x (g / 2 ^ 20) with
  | some q =>
    if xlatRoom x g then absorbed (s.setStack k { x with xlatShadow := x.xlatShadow.put g q })
    else reserveExhausted s k (g / 2 ^ 20)
  | none => reserveExhausted s k (g / 2 ^ 20)

/-- R226 item 1: the retirement copies of the stack that fit. -/
def retireAll (s : State) (k : Nat) (todo : List Nat) : State :=
  let x := s.stack k
  todo.foldl (fun s g => retireGranule s k g) (s.setStack k { x with retire := x.retire.filter (fun g => !todo.contains g) })

/-- R200, R222: the bank group of a row's bank: 12 × channel + 4 × SID + group. -/
def rowBankGroup (row : Nat) : Nat := rowBank row / 4

/-- R222: the entries under repair in this window: of each bank group the first entry in row order that is not yet
repaired. -/
def repairNow (x : StackState) : List Nat :=
  (x.remap.filter (fun e => e.2.st = .spare ∨ e.2.st = .pprPending)).foldl (fun l e =>
    if l.any (fun r => rowBankGroup r == rowBankGroup e.1) then l else l ++ [e.1]) []

/-- R222: one repair step of one entry. The last one ends the repair, which the table swap shows (R205). -/
def repairStep (s : State) (k row : Nat) (noRepair : List Nat) : State :=
  let x := s.stack k
  match Table.find row x.remap with
  | none => s
  | some e =>
    let steps := s.rd Reg.HPPR_STEPS_COUNT k
    if steps = 0 ∨ noRepair.contains (rowBankGroup row) then
      s.setStack k { x with remap := x.remap.put row { e with st := .sparePerm } }
    else
      s.setStack k { x with remap := x.remap.put row { e with st := .pprPending, steps := e.steps + 1 },
                            repaired := if e.steps + 1 < steps then x.repaired else x.repaired ++ [row] }

/-- R226 item 4: repair steps of a stack. -/
def repairAll (s : State) (k : Nat) (rows noRepair : List Nat) : State :=
  showRepairs (rows.foldl (fun s r => repairStep s k r noRepair) s) k

/-- R211: a way that has produced two uncorrectable errors or 16 corrected ones. -/
def wayFails (e : Nat × Nat) : Bool := decide (2 ≤ e.2) || decide (16 ≤ e.1)

/-- R211: every line of a way of set group `g` of train `t` leaves, its dirty sectors written back. -/
def emptyWay (s : State) (t g way : Nat) : State :=
  let sets := s.mem.spool.filter (fun e => decide (e.1 / 16384 = t) && decide (e.1 % 16384 / 1024 = g))
  sets.foldl (fun s e => match e.2.find? (fun l => l.way = way) with
    | some x => (writebackLine s t x).setLines e.1 (dropLine e.2 x.tag)
    | none => s) s

/-- R211: a failing way of set group `g` is replaced by the group's spare way, or disabled. -/
def replaceWay (s : State) (t g way : Nat) : State :=
  let s1 := emptyWay s t g way
  let s2 := { s1 with mem := { s1.mem with wayErrs := s1.mem.wayErrs.erase ((16 * t + g) * 16 + way) } }
  let used := s2.rd Reg.SPOOL_SPARE_SPARE_USED t
  if !bit used g then
    svcAppend (raise (absorbed (s2.wr Reg.SPOOL_SPARE_SPARE_USED (used + 2 ^ g) t)) Ev.spool_WAY_SPARED t) 6 .spool t g
  else
    let off := s2.rd Reg.SPOOL_SPARE_WAY_DISABLED t
    if bit off g then s2
    else
      let s3 := { s2 with mem := { s2.mem with wayOff := s2.mem.wayOff.put (16 * t + g) way } }
      svcAppend (raise (s3.wr Reg.SPOOL_SPARE_WAY_DISABLED (off + 2 ^ g) t) Ev.spool_WAY_OFF t) 6 .spool t g

/-- R226 item 4: the ways of train `t` that are due for replacement: set group and way. -/
def failingWays (s : State) (t : Nat) : List (Nat × Nat) :=
  (s.mem.wayErrs.filter (fun e => decide (e.1 / 256 = t) && wayFails e.2)).map (fun e => (e.1 / 16 % 16, e.1 % 16))

/-- R226: window k is the one in which the stack's scheduled retrain falls. -/
def retrainWindow (s : State) (k win : Nat) : Bool :=
  let p := s.inForce Reg.MW_WORK_RETRAIN_PERIOD
  win % p == k * p / 16

/-- R226 item 2: every channel in service retrains. -/
def scheduledRetrain (s : State) (k : Nat) : State :=
  (List.range 32).foldl (fun s pc =>
    if s.rd Reg.PC_REC_ST_STATE k pc = 5 then s else s.bump Reg.PC_REC_RT_RETRAINS k pc) s

/-! ### Patrol scrub (R218) -/

/-- R218: transfers of one channel that a full scrub pass reads (24,576 windows at 1,024; log 30). -/
def scrubTransfers : Nat := 25165824

/-- R224: the order of a find: physical channel, bank, row. -/
def findKey (f : ScrubFind) : Nat := (f.pc.val * 48 + f.bank.val) * 32800 + f.row.val

/-- R224: what the scrub found, in the order of physical channel, bank and row. -/
def findsInOrder (fs : List ScrubFind) : List ScrubFind :=
  ((fs.foldl (fun (t : Table (List ScrubFind)) f => t.put (findKey f) (t.getD (findKey f) [] ++ [f])) []).map Prod.snd).flatten

/-- R218, R220: the row whose contents stand where the scrub found an error: the row itself, or the one that uses the spare.
None for a spare that none uses, or a row that a spare has replaced. -/
def scrubRow (x : StackState) (f : ScrubFind) : Option Nat :=
  let b := f.pc.val * 48 + f.bank.val
  if f.row.val < 32768 then
    let row := b * 32768 + f.row.val
    if ((Table.find row x.remap).bind RemapEntry.spare).isSome then none else some row
  else (x.remap.find? (fun e => rowBank e.1 == b && e.2.spare == some (f.row.val - 32768))).map Prod.fst

/-- R218: an uncorrectable transfer that holds no address is counted; the row enters the tracker and fails, an unused spare is
not used again (DEDUCED, log 92). -/
def scrubLost (s : State) (k : Nat) (f : ScrubFind) : State :=
  let s1 := raise ((s.countUe .stackErr k).bump Reg.PC_REC_UE_UE k f.pc) Ev.stackErr_MEM_UE k
  match scrubRow (s.stack k) f with
  | some row => rowFails (trackRow s1 k row).2 k row none
  | none =>
    if f.row.val < 32768 then s1
    else
      let x := s1.stack k
      s1.setStack k { x with badSpares := (32 * (f.pc.val * 48 + f.bank.val) + (f.row.val - 32768)) :: x.badSpares }

/-- R218: a transfer that the scrub read with `n` corrected symbols. -/
def scrubCorrected (s : State) (k : Nat) (f : ScrubFind) (n : Nat) : State :=
  match scrubRow (s.stack k) f with
  | some row => correctedRow (countSymbols s k f.pc n) k f.pc row
  | none => countChannelCe (rung (countSymbols s k f.pc n) 1) k f.pc

/-- R218: one transfer that the scrub read with an error. An uncorrectable one stops no step: no consumer receives it. -/
def scrubFind (s : State) (k : Nat) (f : ScrubFind) : State :=
  match f.res with
  | .clean => s
  | .corrected n => scrubCorrected s k f n
  | .retryOk c => if c then scrubCorrected (s.bump Reg.RETRY_OK_COUNT k) k f 1 else s.bump Reg.RETRY_OK_COUNT k
  | .uncorrectable =>
    match (scrubRow (s.stack k) f).bind (fun row => (rowAddr s k row).map (fun a => (row, a + 64 * f.xfer.val))) with
    | some (row, a) => uncorrectableRead (trackRow s k row).2 a
    | none => scrubLost s k f

/-- R218: a physical channel that serves. -/
def channelActive (s : State) (k pc : Nat) : Bool :=
  let st := s.rd Reg.PC_REC_ST_STATE k pc
  st == 0 || st == 2

/-- R218: the full passes that every active channel of the stack has completed. -/
def passesDone (s : State) (k : Nat) : Nat :=
  (((List.range 32).filter (channelActive s k)).map (fun p => (s.stack k).scrubbed.getD p 0 / scrubTransfers)).min?.getD 0

/-- R218, R226 item 5: the scrub of the active channels that no other item of the window works on. -/
def scrubStack (s : State) (k : Nat) (busy : List Nat) (fs : List ScrubFind) : State :=
  let n := s.inForce Reg.MW_WORK_SCRUB_PER_WIN
  if n = 0 then s
  else
    let pcs := (List.range 32).filter (fun p => channelActive s k p && !busy.contains p)
    let x := s.stack k
    let s1 := s.setStack k { x with scrubbed := pcs.foldl (fun t p => t.put p (t.getD p 0 + n)) x.scrubbed }
    let s2 := s1.bump Reg.SCRUB_PASSES_COUNT k 0 (passesDone s1 k - passesDone s k)
    (findsInOrder (fs.filter (fun f => pcs.contains f.pc.val))).foldl (fun s f => scrubFind s k f) s2

/-! ### Window work (R226) -/

/-- R226: a copied migration whose switch does not fit waits for a later window. -/
def deferSwitch (s : State) (k : Nat) (defers : Bool) : State :=
  match (s.stack k).mig with
  | some m => if m.copied && defers then s.setStack k { s.stack k with mig := some { m with deferred := true } } else s
  | none => s

/-- R226: the channels that items 1 and 4 work on. -/
def workedChannels (s : State) (k : Nat) (granules rows : List Nat) : List Nat :=
  granules.map (fun g => s.ppc k (g / 2 ^ 20)) ++ rows.map rowChannel
    ++ (match (s.stack k).mig with | some m => if m.copied && !m.deferred then [m.src, m.dst] else [] | none => [])

/-- R226, R432: the window work of stack `k` in priority order. A train's way replacements run in the window of its first stack
(DESIGN CHOICE, log 94); rows of other SRAM macros that are due move to spares (14 R405). While the device is halted only
calibration and scrub run; a scheduled retrain fills the window. -/
def windowWork (s : State) (k : Nat) (w : WindowReport) (win : Nat) : State :=
  let s0 := w.sram.foldl remapSram (s.bump Reg.ODE_CE_COUNT k 0 w.odeCe)
  let x := s.stack k
  let out := fun i => w.notFitting.contains i
  let ways := if k % 2 = 0 then failingWays s (k / 2) else []
  if 2 ≤ s.rd Reg.HD_STAT_STATE then
    scrubStack (deferWork s0 (x.retire.length + (repairNow x).length + ways.length)) k [] w.scrub
  else
    let todo := x.retire.filter (fun g => !out (.retirement g))
    let s1 := retireAll (deferSwitch s0 k (out .migration)) k todo
    let rows := repairNow (s1.stack k)
    let kept := ofBool (x.mig.any Migration.copied && out .migration) + (x.retire.length - todo.length)
    if retrainWindow s k win then deferWork (scheduledRetrain s1 k) (kept + rows.length + ways.length)
    else
      let rs := rows.filter (fun r => !out (.repair r))
      let ws := ways.filter (fun e => !out (.way e.1 e.2))
      let s2 := ws.foldl (fun s e => replaceWay s (k / 2) e.1 e.2) (repairAll s1 k rs w.noRepair)
      let late := kept + (rows.length - rs.length) + (ways.length - ws.length) + ofBool (out .calibration) + ofBool (out .refresh)
      scrubStack (deferWork s2 late) k (workedChannels s2 k todo rs) w.scrub

def execWindowWork (st : StackNo) (w : WindowReport) (s : State) : Result :=
  match s.mem.window with
  | some win => .next (windowWork s st w win.k)
  | none => .next s

/-! ### Table swaps (R205) -/

/-- R228: a copied migration switches, unless its switch did not fit. -/
def swapMigration (s : State) (k : Nat) : State :=
  match (s.stack k).mig with
  | some m =>
    if m.copied then
      if m.deferred then s.setStack k { s.stack k with mig := some { m with deferred := false } } else switchMigration s k m
    else s
  | none => s

/-- R205, R222: the row remap tables show the repairs that ended in the window: REPAIRED, the spare free. -/
def endRepairs (s : State) (k : Nat) : State :=
  let x := s.stack k
  if x.repaired = [] then s
  else
    let remap := x.repaired.foldl (fun t r => t.modify r { failures := 0, spare := none } (fun e =>
      { e with st := .repaired, spare := none, steps := 0 })) x.remap
    showRepairs ((s.setStack k { x with remap := remap, repaired := [] }).bump Reg.HPPR_DONE_COUNT k 0 x.repaired.length) k

/-- R202: the two rows of granule `q` of physical channel `pc`. -/
def granuleRows (pc q : Nat) : List Nat :=
  [(pc * 48 + bankOf q 0) * 32768 + rowOf q, (pc * 48 + bankOf q 1024) * 32768 + rowOf q]

/-- R220, R223: a granule has moved to its new reserve granule: the entries of the rows that held it clear, and a reserve
granule that held it is not used again. -/
def leaveGranule (s : State) (k g : Nat) : State :=
  let x := s.stack k
  let l := g / 2 ^ 20
  let q := translate x l (g % 2 ^ 20)
  s.setStack k { x with
    remap := (granuleRows (s.ppc k l) q).foldl Table.erase x.remap,
    deadReserve := if channelTop l ≤ q then granuleKey l q :: x.deadReserve else x.deadReserve }

/-- R205, R223: the translation table takes its entries. -/
def swapPages (s : State) (k : Nat) : State :=
  let news := (s.stack k).xlatShadow
  if news = [] then s
  else
    let s1 := news.foldl (fun s e => leaveGranule s k e.1) s
    let x := s1.stack k
    let s2 := showRepairs (s1.setStack k { x with xlat := x.xlat.putAll news, xlatShadow := [] }) k
    raiseTimes s2 Ev.stackErr_PAGE_RETIRED k (news.filter (fun e => (Table.find e.1 x.xlat).isNone)).length

/-- R205, R224: the swaps of stack `k`; failures that waited for a repair follow. -/
def swapTables (s : State) (k : Nat) : State := handleQueued (swapPages (endRepairs (swapMigration s k) k) k) k

/-- R205: what happens at a swap is stamped with the window's tick. -/
def stampedAt (s : State) (w : Nat) (f : State → State) : State := { f { s with tick := w } with tick := s.tick }

/-- R48, R205: at W + 1,400 the tables of every stack swap and the scratchpad rows that are due are remapped, unless the
device is halted (R432). -/
def swapAllTables (s : State) (w : Window) : State :=
  let s1 := s.passTo (w.start + 1400)
  if 2 ≤ s.rd Reg.HD_STAT_STATE then s1
  else (List.range 136).foldl remapDue (stampedAt s1 w.start (fun s => (List.range 16).foldl swapTables s))

def execTableSwap (s : State) : Result :=
  match s.mem.window with
  | some w => .next (swapAllTables s w)
  | none => .next s

/-- R225: at W + 1,500 acceptance resumes; the accesses that waited are taken in order. -/
def closeWindow (s : State) (w : Window) : State :=
  let s1 := { s.passTo (w.start + 1500) with mem := { s.mem with window := none } }
  w.queue.foldl regulateAccess s1

def execWindowEnd (s : State) : Result :=
  match s.mem.window with
  | some w => .next (closeWindow s w)
  | none => .next s

/-! ### Migration (R228) -/

/-- R223, R228: an interval of 1,024 windows ends for a stack: the lowest logical channel that has been over the threshold for
long enough, or that has no free reserve granule, migrates. -/
def intervalEnds (s : State) (k : Nat) : State :=
  let x := s.stack k
  let runs := (List.range 32).foldl (fun (t : Table Nat) pc =>
    t.put pc (if s.inForce Reg.MIG_CTL_MIG_CE_THRESH < s.rd Reg.PC_REC_ST_INTERVAL_CE k pc then t.getD pc 0 + 1 else 0)) x.overRuns
  let s1 := (List.range 32).foldl (fun s pc => s.wr Reg.PC_REC_ST_INTERVAL_CE 0 k pc)
    (s.setStack k { x with overRuns := runs })
  if s.inForce Reg.MIG_CTL_MIG_EN = 1 ∧ x.mig = none ∧ ballastFree s k = true then
    match (List.range 31).find? (fun l => decide (s.inForce Reg.MIG_CTL_MIG_INTERVALS ≤ runs.getD (s.ppc k l) 0)
        || x.candidates.contains (s.ppc k l)) with
    | some l => startMigration s1 k l
    | none => s1
  else s1

def execMigIntervalEnd (st : StackNo) (s : State) : Result := .next (intervalEnds s st)

/-- Granules of a physical channel (R200), the count a complete copy shows. -/
def channelGranules : Nat := 786432

def migCopied (s : State) (k : Nat) (m : Migration) : State :=
  (s.setStack k { s.stack k with mig := some { m with copied := true } }).wr Reg.MIG_STAT_COPIED channelGranules k

def execMigCopyDone (st : StackNo) (s : State) : Result :=
  match (s.stack st).mig with
  | some m => .next (migCopied s st m)
  | none => .next s

/-- STK_CMD.MIGRATE: refused while a migration runs or the ballast channel is used, or of a channel beyond 30. -/
def canMigrate (s : State) (k l : Nat) : Bool :=
  (s.stack k).mig.isNone && ballastFree s k && decide (l ≤ 30)

def execMigrate (st : StackNo) (logical : Fin 32) (s : State) : Result :=
  .next (if canMigrate s st logical then startMigration s st logical else refuse s .stackCtl st)

end Sys2Proof.Machine
end

