-- ==== Sys2Proof/Machine/EventCtl.lean ====
section
/-! DEFINITION. The event controller and page events as commands reach them (13). -/

namespace Sys2Proof.Machine

/-! ### Sources (R389) -/

def isPin (n : Nat) : Bool := decide (736 ≤ n) && decide (n ≤ 738)

def isTimer (n : Nat) : Bool := decide (752 ≤ n) && decide (n ≤ 767)

/-- R389: a page event, a pin or a timer drives the source. -/
def driven (n : Nat) : Bool := decide (n ≤ 726) || isPin n || isTimer n

def setBit1024 (v : BitVec 1024) (n : Nat) (b : Bool) : BitVec 1024 := if b then v ||| oneHot n else v &&& ~~~oneHot n

/-- Word `i` of a bitmap. -/
def bitmapWord (v : BitVec 1024) (i : Nat) : Nat := v.toNat / 2 ^ (32 * i) % 2 ^ 32

/-- EC_RAW word `i`. -/
def rawWord (s : State) (i : Nat) : Nat :=
  ((List.range 32).map (fun b => ofBool (asserted s (32 * i + b)) * 2 ^ b)).sum

/-! ### Delivery and completion (R393 to R396) -/

/-- R393: a core that is enabled and holds no source. -/
def coreFree (s : State) (c : Nat) : Bool := bit (s.rd Reg.EC_CORE_CORE_EN) c && (Table.find c s.ec.claims).isNone

/-- R393: the core a source would go to. -/
def coreFor (s : State) (n : Nat) : Option Nat :=
  (List.range 4).find? (fun c => bit (s.srcCfg n).target c && coreFree s c)

/-- R393: a source that may be delivered. -/
def eligible (s : State) (n : Nat) : Bool :=
  bit1024 s.ec.pend n && !bit1024 s.ec.mask n && !bit1024 s.ec.active n && (coreFor s n).isSome

/-- R393: the eligible source of the highest PRIO, the lowest numbered among equals. -/
def bestSource (s : State) : Option Nat :=
  ([3, 2, 1, 0].findSome? (fun p => (List.range 1024).find? (fun n => (s.srcCfg n).prio == p && eligible s n)))

/-- Eight management cycles, in ticks. -/
def claimDelay : Nat := 10

/-- R393: source `n` goes to core `c`. -/
def deliverTo (s : State) (n c : Nat) : State :=
  let claim : Claim := { source := n, shownAt := s.tick + claimDelay }
  { s with ec := { s.ec with pend := setBit1024 s.ec.pend n false, active := setBit1024 s.ec.active n true,
                             claims := s.ec.claims.put c claim } }

def deliver (s : State) : State :=
  match bestSource s with
  | some n => match coreFor s n with
    | some c => deliverTo s n c
    | none => s
  | none => s

def execEcDeliver (s : State) : Result := .next (deliver s)

/-- EC_CLAIM.VALID of core `c`, with its source. -/
def claimShown (s : State) (c : Nat) : Option Nat :=
  match Table.find c s.ec.claims with
  | some x => if x.shownAt ≤ s.tick then some x.source else none
  | none => none

/-- R394, R396: core `c` no longer holds source `n`; a level source is sampled again. -/
def freeClaim (s : State) (c n : Nat) : State :=
  sampleSource { s with ec := { s.ec with active := setBit1024 s.ec.active n false, claims := s.ec.claims.erase c } } n

/-- R394, R395: a completion. -/
def endOfInterrupt (s : State) (c n : Nat) : State :=
  if claimShown s c = some n then freeClaim s c n
  else raise (s.bump Reg.STRAY_EOI_COUNT) Ev.eventCtl_STRAY_EOI

def execEcEoi (c : Core) (src : Fin 1024) (s : State) : Result := .next (endOfInterrupt s c src)

/-- R396: core `c` gives back what it holds; an edge source pends again. -/
def releaseCore (s : State) (c : Nat) : State :=
  match Table.find c s.ec.claims with
  | some x =>
    let s1 := freeClaim s c x.source
    if (s.srcCfg x.source).level then s1 else pendSource 3 s1 x.source false
  | none => s

/-- R396: a write of CORE_EN. -/
def writeCoreEn (s : State) (v : Nat) : State :=
  let s1 := s.wr Reg.EC_CORE_CORE_EN v
  (List.range 4).foldl (fun s c => if bit v c then s else releaseCore s c) s1

def execEcCore (v : Word) (s : State) : Result := .next (writeCoreEn s v.toNat)

/-! ### Timers and pins (R390, R391) -/

def timerCmp (s : State) (i : Nat) : Nat := s.rd Reg.EC_TMR_CMP_LO_CMP 0 i + 2 ^ 32 * s.rd Reg.EC_TMR_CMP_HI_CMP 0 i

def setTimerCmp (s : State) (i v : Nat) : State :=
  (s.wr Reg.EC_TMR_CMP_LO_CMP (v % 2 ^ 32) 0 i).wr Reg.EC_TMR_CMP_HI_CMP (v / 2 ^ 32 % 2 ^ 32) 0 i

/-- R391: the counter has yet to reach CMP of an enabled timer. -/
def canTimer (s : State) (i : Nat) : Bool := s.rd Reg.EC_TMR_EN_EN 0 i == 1 && decide (s.tick ≤ timerCmp s i)

/-- R391: timer `i` pends; CMP moves on by PERIOD, or EN clears. -/
def fireTimer (s : State) (i : Nat) : State :=
  let c := timerCmp s i
  let p := s.rd Reg.EC_TMR_PERIOD_PERIOD 0 i
  let s1 := s.passTo c
  let s2 := if p = 0 then s1.wr Reg.EC_TMR_EN_EN 0 0 i else setTimerCmp s1 i (c + p)
  pendSource 3 s2 (752 + i) false

def execEcTimer (i : Fin 16) (s : State) : Result := whenOk (canTimer s i) s (fireTimer s i)

/-- R390, R392: the input of pin `p` may have risen from `before`: its edges count, and an edge source pends. -/
def pinMoves (before s : State) (p : Nat) : State :=
  if pinAsserted s p && !pinAsserted before p then
    let s1 := s.bump Reg.PIN_EDGES_COUNT 0 p
    if (s.srcCfg (736 + p)).level then sampleSource s1 (736 + p) else pendSource 3 s1 (736 + p) false
  else s

/-- R390: pin `p` holds `level` for `cycles` reference cycles. -/
def pinHeld (s : State) (p : Nat) (level : Bool) (cycles : Nat) : State :=
  if level == (s.pin p).filtered then s
  else if cycles < (s.srcCfg (736 + p)).glitch then raise (s.bump Reg.GLITCH_REJ_COUNT) Ev.eventCtl_GLITCH_REJ
  else pinMoves s { s with ec := { s.ec with pins := s.ec.pins.put p { filtered := level } } } p

def execPinInput (pin : Fin 3) (level : Bool) (cycles : Nat) (s : State) : Result := .next (pinHeld s pin level cycles)

/-! ### Software writes (R386, R387) -/

/-- R386: a write of a page's EVT_PEND lands with the events `raised` in the same cycle. -/
def writePend (s : State) (p : Page) (v raised : Nat) : State :=
  let s1 := s.setHdr p.kind p.inst { s.hdr p.kind p.inst with pend := BitVec.ofNat 32 v }
  let s2 := (bitsOf (eventCount p.kind) raised).foldl (fun s i => raise s ⟨p.kind, i⟩ p.inst) s1
  samplePage s2 p.kind p.inst

def execEvtPend (page : Word) (v : Word) (raised : Word) (s : State) : Result :=
  match reachPage s page.toNat with
  | some p => .next (writePend s p v.toNat raised.toNat)
  | none => .next s

/-- R385: a write of a page's EVT_MASK. -/
def writeMask (s : State) (p : Page) (v : Nat) : State :=
  samplePage (s.setHdr p.kind p.inst { s.hdr p.kind p.inst with mask := BitVec.ofNat 32 v }) p.kind p.inst

/-- R386, R389, R392: a write of EC_PEND word `i`. -/
def writeEcPend (s : State) (i v : Nat) : State :=
  (List.range 32).foldl (fun s b =>
    let n := 32 * i + b
    if !bit v b then sampleSource { s with ec := { s.ec with pend := setBit1024 s.ec.pend n false } } n
    else if driven n then pendSource 3 s n true else s) s

def execEcPend (i : Fin 32) (v : Word) (s : State) : Result := .next (writeEcPend s i v.toNat)

/-- R393: core `c` waits for a source that a mask write has just masked. -/
def lateMasked (s : State) (n : Nat) : Bool :=
  s.ec.claims.any (fun e => e.2.source == n && decide (s.tick < e.2.shownAt))

/-- R387, R389, R393: a write of EC_MASK word `i`. -/
def writeEcMask (s : State) (i v : Nat) : State :=
  (List.range 32).foldl (fun s b =>
    let n := 32 * i + b
    let old := bit1024 s.ec.mask n
    let new := if driven n then bit v b else old && bit v b
    let s1 := { s with ec := { s.ec with mask := setBit1024 s.ec.mask n new } }
    if new && !old && lateMasked s n then raise (s1.bump Reg.LATE_MASK_COUNT) Ev.eventCtl_LATE_MASK else s1) s

/-! ### EC_CFG -/

/-- The word EC_CFG reads for a source: 0 for one nothing drives, no pin fields but the sense for other sources. -/
def cfgWord (s : State) (n : Nat) : Nat :=
  let c := s.srcCfg n
  if !driven n then 0
  else ofBool c.fwd * 2 ^ 31 + ofBool c.level * 2 ^ 30 + c.prio * 2 ^ 26 + c.target * 2 ^ 20
    + (if isPin n then ofBool c.pol * 2 ^ 29 + c.glitch else 0)

/-- The values EC_CFG accepts for a source (log 52). -/
def cfgOk (n v : Nat) : Bool :=
  driven n && (if isPin n then getBits v 0 8 != 0 else !(bit v 29) && getBits v 0 8 == 0)

/-- EC_CFG as written for a source: LEVEL is fixed but for pins. -/
def cfgOf (s : State) (n v : Nat) : SrcCfg :=
  { fwd := bit v 31, level := if isPin n then bit v 30 else (s.srcCfg n).level, pol := bit v 29, prio := getBits v 26 2,
    target := getBits v 20 4, glitch := if isPin n then getBits v 0 8 else 16 }

def cfgAdvance (s : State) : State :=
  if s.rd Reg.EC_SEL_AUTO_INC = 1 then s.wr Reg.EC_SEL_SRC ((s.rd Reg.EC_SEL_SRC + 1) % 1024) else s

def cfgRead (s : State) : Nat × State := (cfgWord s (s.rd Reg.EC_SEL_SRC), cfgAdvance s)

def cfgWrite (s : State) (v : Nat) : State :=
  let n := s.rd Reg.EC_SEL_SRC
  if cfgOk n v then
    let s1 := { s with ec := { s.ec with cfg := s.ec.cfg.put n (cfgOf s n v) } }
    cfgAdvance (if isPin n then pinMoves s (sampleSource s1 n) (n - 736) else sampleSource s1 n)
  else refuse s .eventCtl

def execEcCfg (acc : Access) (s : State) : Result :=
  match acc with
  | .read => .next ((cfgRead s).2.emit (.word (cfgRead s).1))
  | .write v => .next (cfgWrite s v.toNat)

end Sys2Proof.Machine
end

