-- ==== Sys2Proof/Machine/Flags.lean ====
section
/-! DEFINITION. The arithmetic flags (01 ARR_FLAGS, 02 R82, 05 VEC_FLAGS) and how they are gathered. -/

namespace Sys2Proof.Machine

/-- Flags of one result or of an op so far, with the clips counted (R93) and, for the vector engine, DZ. -/
structure Flags where
  nanIn : Bool := false
  invalid : Bool := false
  ovf : Bool := false
  unf : Bool := false
  dz : Bool := false
  clips : Nat := 0
deriving DecidableEq, Repr

def Flags.or (a b : Flags) : Flags :=
  { nanIn := a.nanIn || b.nanIn, invalid := a.invalid || b.invalid, ovf := a.ovf || b.ovf, unf := a.unf || b.unf,
    dz := a.dz || b.dz, clips := a.clips + b.clips }

/-- The bits of ARR_FLAGS and VEC_FLAGS: 0 NAN_IN, 1 INVALID, 2 OF, 3 UF, 4 DZ. -/
def Flags.toNat (f : Flags) : Nat :=
  ofBool f.nanIn + 2 * ofBool f.invalid + 4 * ofBool f.ovf + 8 * ofBool f.unf + 16 * ofBool f.dz

end Sys2Proof.Machine
end

