-- ==== Sys2Proof/Machine/Num.lean ====
section
/-! DEFINITION. Element formats, exact values and the one rounding of every conversion (00 R5 to R8, 02 R66 to R73, R87 to
R99), and the reproducible draws (R101, R102). -/

namespace Sys2Proof.Machine

/-! ### Exact values -/

/-- The value of an element or of an exact intermediate: NaN, an infinity, or ±m × 2^e (a zero keeps its sign). -/
inductive Val where
  | nan
  | inf (neg : Bool)
  | fin (neg : Bool) (m : Nat) (e : Int)
deriving DecidableEq, Repr

def Val.zero (neg : Bool := false) : Val := .fin neg 0 0

def Val.ofInt (i : Int) : Val := .fin (decide (i < 0)) i.natAbs 0

def Val.isNan : Val → Bool
  | .nan => true
  | _ => false

def Val.isInf : Val → Bool
  | .inf _ => true
  | _ => false

def Val.isZero : Val → Bool
  | .fin _ m _ => m == 0
  | _ => false

def Val.isFinite : Val → Bool
  | .fin _ _ _ => true
  | _ => false

def Val.neg : Val → Bool
  | .nan => false
  | .inf n => n
  | .fin n _ _ => n

def Val.negate : Val → Val
  | .nan => .nan
  | .inf n => .inf (!n)
  | .fin n m e => .fin (!n) m e

def Val.abs : Val → Val
  | .nan => .nan
  | .inf _ => .inf false
  | .fin _ m e => .fin false m e

/-- `m` moved left by `k`. -/
def shl (m k : Nat) : Nat := m * 2 ^ k

/-- The product with 2^k. -/
def Val.scale2 (v : Val) (k : Int) : Val :=
  match v with
  | .fin n m e => .fin n m (e + k)
  | x => x

/-- The exact product of two finite values, of an infinity and a non-zero, of NaN; an infinity times zero is NaN. -/
def Val.mul (a b : Val) : Val :=
  match a, b with
  | .nan, _ => .nan
  | _, .nan => .nan
  | .fin n m e, .fin n' m' e' => .fin (n != n') (m * m') (e + e')
  | x, y => if x.isZero || y.isZero then .nan else .inf (x.neg != y.neg)

/-- A finite value as a signed integer multiple of 2^e0, for e0 at or below its exponent. -/
def alignTo (e0 : Int) (neg : Bool) (m : Nat) (e : Int) : Int :=
  let a : Int := shl m (e - e0).toNat
  if neg then -a else a

/-- The exact sum; of opposite infinities NaN. A zero sum is −0 only when both operands are −0 (R84). -/
def Val.add (a b : Val) : Val :=
  match a, b with
  | .nan, _ => .nan
  | _, .nan => .nan
  | .inf n, .inf n' => if n = n' then .inf n else .nan
  | .inf n, _ => .inf n
  | _, .inf n => .inf n
  | .fin n m e, .fin n' m' e' =>
    let e0 := min e e'
    let t := alignTo e0 n m e + alignTo e0 n' m' e'
    if t = 0 then .fin (n && n' && m == 0 && m' == 0) 0 0 else .fin (decide (t < 0)) t.natAbs e0

def Val.sub (a b : Val) : Val := a.add b.negate

/-- Order of two values that are not NaN: −1, 0 or 1; zeros are equal. -/
def Val.cmp (a b : Val) : Int :=
  match a, b with
  | .inf n, .inf n' => if n = n' then 0 else if n then -1 else 1
  | .inf n, _ => if n then -1 else 1
  | _, .inf n => if n then 1 else -1
  | .fin n m e, .fin n' m' e' =>
    let e0 := min e e'
    let d := alignTo e0 n m e - alignTo e0 n' m' e'
    if d < 0 then -1 else if d = 0 then 0 else 1
  | _, _ => 0

/-- floor(log2 |v|) of a finite non-zero value. -/
def floorLog2 (m : Nat) (e : Int) : Int := (Nat.log2 m : Int) + e

/-! ### Formats (R5, R66, R67) -/

/-- How an element format encodes values. Floats: widths of exponent and significand, bias, the largest finite code,
and whether infinities and NaN codes exist. -/
inductive Enc where
  | float (ebits mbits bias maxCode : Nat) (hasInf hasNan : Bool)
  | int (signed : Bool) (bits : Nat)
  | e8m0
deriving DecidableEq, Repr

/-- R66, R67: the encoding of a FMT code; CB4 and the reserved codes have none of their own. -/
def encOf (fmt : Nat) : Option Enc :=
  match fmt with
  | 0 => some (.float 8 23 127 0x7F7FFFFF true true)
  | 1 => some (.float 8 7 127 0x7F7F true true)
  | 2 => some (.float 5 10 15 0x7BFF true true)
  | 3 => some (.float 4 3 7 0x7E false true)
  | 4 => some (.float 5 2 15 0x7B true true)
  | 5 => some (.float 3 2 3 0x1F false false)
  | 6 => some (.float 2 3 1 0x1F false false)
  | 7 => some (.float 2 1 1 0x7 false false)
  | 8 => some (.int true 8)
  | 9 => some (.int true 4)
  | 0xB => some (.int false 8)
  | 0xC => some .e8m0
  | _ => none

/-- R5: element bits of a FMT code, 0 for a reserved one. -/
def fmtBits (fmt : Nat) : Nat :=
  match fmt with
  | 0 => 32 | 1 => 16 | 2 => 16 | 3 => 8 | 4 => 8 | 5 => 6 | 6 => 6 | 7 => 4 | 8 => 8 | 9 => 4
  | 0xA => 4 | 0xB => 8 | 0xC => 8 | _ => 0

/-- R66: a float code's value. Every NaN code is accepted. -/
def decodeFloat (ebits mbits bias maxCode : Nat) (hasInf hasNan : Bool) (c : Nat) : Val :=
  let neg := bit c (ebits + mbits)
  let mag := c % 2 ^ (ebits + mbits)
  if hasInf && mag == maxCode + 1 then .inf neg
  else if hasNan && decide (maxCode < mag) then .nan
  else
    let ex := mag / 2 ^ mbits
    let sig := mag % 2 ^ mbits
    if ex = 0 then .fin neg sig (1 - (bias : Int) - mbits)
    else .fin neg (2 ^ mbits + sig) ((ex : Int) - bias - mbits)

/-- The value of an element code in an encoding (R66, R67; E8M0: 2^(code − 127), 0xFF NaN). -/
def decodeEnc (x : Enc) (c : Nat) : Val :=
  match x with
  | .float eb mb bias mx hi hn => decodeFloat eb mb bias mx hi hn c
  | .int signed bits => Val.ofInt (if signed then toSigned bits c else (c % 2 ^ bits : Nat))
  | .e8m0 => if c % 256 = 0xFF then .nan else .fin false 1 ((c % 256 : Nat) - 127)

/-- The value of an element code in a format. -/
def decodeFmt (fmt c : Nat) : Val :=
  match encOf fmt with
  | some x => decodeEnc x c
  | none => .nan

def fp32 (c : Nat) : Val := decodeFmt 0 c

/-- R66 NaN produced, R93: the code a NaN result takes; formats without NaN write +0 or 0. -/
def nanCode (fmt : Nat) : Nat :=
  match fmt with
  | 0 => 0x7FC00000 | 1 => 0x7FC0 | 2 => 0x7E00 | 3 => 0x7F | 4 => 0x7E | 0xC => 0xFF | _ => 0

/-- Whether a format has a NaN code to produce. -/
def fmtHasNan (fmt : Nat) : Bool := decide (fmt ≤ 4) || fmt == 0xC

/-! ### Rounding (R87, R92, R99) -/

/-- R87: rounding modes. -/
inductive Rnd where
  | rne | rtz | rup | rdn | sr
deriving DecidableEq, Repr

def rndOf (c : Nat) : Option Rnd :=
  match c with
  | 0 => some .rne | 1 => some .rtz | 2 => some .rup | 3 => some .rdn | 4 => some .sr | _ => none

/-- A rounded magnitude i × 2^q, whether it differs from the exact one, and whether it went away from zero. -/
structure Rounded where
  i : Nat
  q : Int
  inexact : Bool
  up : Bool
deriving DecidableEq, Repr

/-- The magnitude m × 2^e rounded to a multiple of 2^q. `sticky` says that the exact magnitude lies above m × 2^e by less than
any bit of it (R79); `d` is the draw of SR (R99). -/
def roundAt (rnd : Rnd) (neg sticky : Bool) (d m : Nat) (e q : Int) : Rounded :=
  if q ≤ e then
    let i := shl m (e - q).toNat
    let up := sticky && (match rnd with | .rup => !neg | .rdn => neg | _ => false)
    { i := if up then i + 1 else i, q := q, inexact := sticky, up := up }
  else
    let sh := (q - e).toNat
    let i := m / 2 ^ sh
    let f := m % 2 ^ sh
    let inexact := sticky || f != 0
    let half := 2 ^ (sh - 1)
    let up := match rnd with
      | .rne => decide (half < f) || (f == half && (sticky || i % 2 == 1))
      | .rtz => false
      | .rup => inexact && !neg
      | .rdn => inexact && neg
      | .sr => decide (65536 ≤ f * 65536 / 2 ^ sh + d)
    { i := if up then i + 1 else i, q := q, inexact := inexact, up := up }

/-- R89: m × 2^e rounded to a float format, exponent unbounded above, on the subnormal grid below. -/
def roundFloat (mbits bias : Nat) (rnd : Rnd) (neg sticky : Bool) (d m : Nat) (e : Int) : Rounded :=
  let emin : Int := 1 - (bias : Int)
  let k := if m = 0 then emin else max (floorLog2 m e) emin
  roundAt rnd neg sticky d m e (k - mbits)

/-- The code of a magnitude rounded by `roundFloat`; it exceeds the largest finite code exactly on overflow. -/
def floatCode (mbits bias : Nat) (r : Rounded) : Nat :=
  ((r.q + mbits + bias - 1) * (2 ^ mbits : Nat) + r.i).toNat

/-- Sign bit of a float format. -/
def signBit (ebits mbits : Nat) (neg : Bool) : Nat := if neg then 2 ^ (ebits + mbits) else 0

/-- What a conversion yields: the code, its flags (with the clip), and the classes of R94. -/
structure Conv where
  code : Nat
  flags : Flags := {}
  toZero : Bool := false
  subnormal : Bool := false
deriving DecidableEq, Repr

/-- R93: a clip: the largest finite value of the sign stands in. -/
def clipFlags : Flags := { clips := 1 }

/-- R93: an overflow that rounds away from zero: by the mode, under SR by the draw. -/
def overflowAway (rnd : Rnd) (neg up : Bool) : Bool :=
  match rnd with
  | .rne => true
  | .rtz => false
  | .rup => !neg
  | .rdn => neg
  | .sr => up

/-- R89 to R94: finite u = ±m × 2^e into a float format. -/
def convFloat (fmt ebits mbits bias maxCode : Nat) (rnd : Rnd) (nonsat : Bool) (d : Nat) (neg : Bool) (m : Nat)
    (e : Int) : Conv :=
  let r := roundFloat mbits bias rnd neg false d m e
  let c := floatCode mbits bias r
  let sb := signBit ebits mbits neg
  if maxCode < c then
    if nonsat && overflowAway rnd neg r.up && decide (fmt ≤ 4) then
      if fmt = 3 then { code := 0x7F, flags := { ovf := true, invalid := true } }
      else { code := sb + maxCode + 1, flags := { ovf := true } }
    else { code := sb + maxCode, flags := { ovf := true, clips := 1 } }
  else
    let low := decide (c < 2 ^ mbits)
    { code := sb + c, flags := { unf := m != 0 && low && r.inexact },
      toZero := m != 0 && c == 0, subnormal := low && c != 0 }

/-- R89, R93: finite u into an integer format. -/
def convInt (signed : Bool) (bits : Nat) (rnd : Rnd) (d : Nat) (neg : Bool) (m : Nat) (e : Int) : Conv :=
  let r := roundAt rnd neg false d m e 0
  let v : Int := if neg then -(r.i : Int) else r.i
  let lo : Int := if signed then -(2 ^ (bits - 1) : Nat) else 0
  let hi : Int := if signed then (2 ^ (bits - 1) : Nat) - 1 else (2 ^ bits : Nat) - 1
  if v < lo then { code := ofSigned bits lo, flags := { ovf := true, clips := 1 } }
  else if hi < v then { code := ofSigned bits hi, flags := { ovf := true, clips := 1 } }
  else { code := ofSigned bits v }

/-- R95: a finite value into E8M0. -/
def convE8m0 (m : Nat) (e : Int) : Conv :=
  if m = 0 then { code := 0 }
  else
    let k := floorLog2 m e + 127
    if k < 0 then { code := 0, flags := { unf := true } }
    else if 254 < k then { code := 254, flags := { ovf := true } }
    else { code := k.toNat }

/-- R93: the result of an infinite input. -/
def convInf (fmt : Nat) (nonsat neg : Bool) : Conv :=
  match encOf fmt with
  | some (.float eb mb _ mx hasInf _) =>
    let sb := signBit eb mb neg
    if nonsat && hasInf then { code := sb + mx + 1 }
    else if nonsat && fmt == 3 then { code := 0x7F, flags := { invalid := true } }
    else { code := sb + mx, flags := { clips := 1 } }
  | some (.int signed bits) =>
    let lo : Int := if signed then -(2 ^ (bits - 1) : Nat) else 0
    let hi : Int := if signed then (2 ^ (bits - 1) : Nat) - 1 else (2 ^ bits : Nat) - 1
    { code := ofSigned bits (if neg then lo else hi), flags := { clips := 1 } }
  | some .e8m0 => { code := 0xFE, flags := { ovf := true } }
  | none => { code := 0 }

/-- R93: the result of a NaN input. -/
def convNan (fmt : Nat) : Conv :=
  if fmtHasNan fmt then { code := nanCode fmt, flags := { nanIn := true } }
  else { code := 0, flags := { invalid := true } }

/-- R89: a value that already carries its multiplier, converted with exactly one rounding. -/
def convertVal (fmt : Nat) (rnd : Rnd) (nonsat : Bool) (d : Nat) (u : Val) : Conv :=
  match u with
  | .nan => convNan fmt
  | .inf neg => convInf fmt nonsat neg
  | .fin neg m e =>
    match encOf fmt with
    | some (.float eb mb bias mx _ _) => convFloat fmt eb mb bias mx rnd nonsat d neg m e
    | some (.int signed bits) => convInt signed bits rnd d neg m e
    | some .e8m0 => convE8m0 m e
    | none => { code := 0 }

/-- R89: convert(v, M, dst, rnd, ovf): the special cases of v come before the product. -/
def convert (v mul : Val) (fmt : Nat) (rnd : Rnd) (nonsat : Bool) (d : Nat) : Conv :=
  if v.isNan || mul.isNan then convNan fmt
  else match v with
    | .inf neg => convInf fmt nonsat neg
    | x => convertVal fmt rnd nonsat d (x.mul mul)

/-! ### Binary32 results (R82, R84, R85) -/

/-- ±m × 2^e rounded to FP32 with overflow to infinity, as sums and accumulations are (R82, R85). -/
def roundFp32 (rnd : Rnd) (neg sticky : Bool) (d m : Nat) (e : Int) : Nat × Flags :=
  let r := roundFloat 23 127 rnd neg sticky d m e
  let c := floatCode 23 127 r
  let sb := if neg then 2 ^ 31 else 0
  if 0x7F7FFFFF < c then (sb + 0x7F800000, { ovf := true })
  else (sb + c, { unf := (m != 0 || sticky) && decide (c < 2 ^ 23) && r.inexact })

/-- The FP32 code of a value rounded once; NaN is canonical. -/
def toFp32 (v : Val) (rnd : Rnd := .rne) (d : Nat := 0) : Nat × Flags :=
  match v with
  | .nan => (0x7FC00000, {})
  | .inf neg => (if neg then 0xFF800000 else 0x7F800000, {})
  | .fin neg m e => if m = 0 then (if neg then 2 ^ 31 else 0, {}) else roundFp32 rnd neg false d m e

/-- R84, R85: a + s in FP32, rounded under RNE or SR. -/
def accumulate (a s : Nat) (rnd : Rnd) (d : Nat) : Nat × Flags :=
  let x := fp32 a
  let y := fp32 s
  if x.isNan || y.isNan then (0x7FC00000, { nanIn := true })
  else match x.add y with
    | .nan => (0x7FC00000, { invalid := true })
    | v => toFp32 v rnd d

/-! ### Draws (R101, R102) -/

/-- R101: mix, modulo 2^64. -/
def mix64 (z0 : Nat) : Nat :=
  let z1 := Nat.xor z0 (z0 / 2 ^ 30) * 0xBF58476D1CE4E5B9 % 2 ^ 64
  let z2 := Nat.xor z1 (z1 / 2 ^ 27) * 0x94D049BB133111EB % 2 ^ 64
  Nat.xor z2 (z2 / 2 ^ 31)

/-- R101: draw16. -/
def draw16 (seed unit stream step e : Nat) : Nat :=
  let h1 := mix64 ((seed + unit) % 2 ^ 64)
  let h2 := mix64 ((h1 + stream * 2 ^ 32 + step) % 2 ^ 64)
  let h3 := mix64 ((h2 + e / 4) % 2 ^ 64)
  h3 / 2 ^ (16 * (e % 4)) % 65536

/-- R102: the unit word of RANK, KIND and INDEX. -/
def unitWord (rank kind index : Nat) : Nat := rank % 4096 * 2 ^ 20 + kind * 2 ^ 16 + index * 2 ^ 8

/-! ### Rounded quotients and roots -/

/-- a / b of finite values, b non-zero, rounded once to FP32: a 64-bit quotient with its remainder as one more bit. -/
def divFp32 (a b : Val) (rnd : Rnd := .rne) (d : Nat := 0) : Nat × Flags :=
  match a, b with
  | .fin n m e, .fin n' m' e' =>
    if m = 0 then (if n != n' then 2 ^ 31 else 0, {})
    else
      let sh := 64 + Nat.log2 m' - Nat.log2 m
      let num := shl m sh
      let q := num / m'
      roundFp32 rnd (n != n') false d (2 * q + ofBool (num % m' != 0)) (e - e' - (sh : Int) - 1)
  | _, _ => (0x7FC00000, {})

/-- floor(sqrt n) by bits: `k` bits of the root remain, `r` is the root so far. -/
def isqrtBits : Nat → Nat → Nat → Nat
  | 0, _, r => r
  | k + 1, n, r =>
    let r' := r + 2 ^ k
    isqrtBits k n (if r' * r' ≤ n then r' else r)

/-- floor(sqrt n). -/
def isqrt (n : Nat) : Nat := isqrtBits (Nat.log2 n / 2 + 1) n 0

end Sys2Proof.Machine
end

