-- ==== Sys2Proof/Machine/Kite.lean ====
section
/-! DEFINITION. Kites: the scratchpad and its errors (01 R44 to R49), the three files (03 R113), the op stream, its
gates, issue and completion (07 R246 to R249, R473, 15 R419), and faults of the op stream (01 R60, R61). -/

namespace Sys2Proof.Machine

/-! ### Scratchpad (R44, R47 to R49) -/

/-- R44: 8 MiB. -/
def spTop : Nat := 8388608

/-- Bytes of a scratchpad that nothing has written read 0 (log 4). -/
def spBlank : Byte := 0

def spBytes (k : KiteState) (a n : Nat) : Bytes := Table.readN spBlank k.sp a n

def spStore (k : KiteState) (a : Nat) (bs : Bytes) : KiteState := { k with sp := Table.storeN spBlank k.sp a bs }

/-- A scratchpad write of slot `n`. -/
def State.spWrite (s : State) (n a : Nat) (bs : Bytes) : State := s.setKite n (spStore (s.kite n) a bs)

/-- R44: the number of a bank's row. -/
def spRow (bank row : Nat) : Nat := bank % 32 * 2048 + row % 2048

/-- R47, R48: a single-bit error of a row is corrected and counted. -/
def spCorrected (s : State) (n row : Nat) : State :=
  let s1 := rung (raise (s.countCe .kiteCtl n) Ev.kiteCtl_SP_CE n) 1
  let k := s1.kite n
  s1.setKite n { k with rowCe := k.rowCe.put row (k.rowCe.getD row 0 + 1) }

/-- R47, R400: an uncorrectable row is counted and noted with the attempt that met it. -/
def spUncorrectable (s : State) (n row : Nat) : State :=
  let s1 := raise (s.countUe .kiteCtl n) Ev.kiteCtl_SP_UE n
  let k := s1.kite n
  let a := s.rd Reg.STEP_STAT_REPLAY_RUN
  let old := if k.ueStep = s.stepNum then k.ueAttempts else []
  s1.setKite n { k with ueRows := if k.ueRows.contains row then k.ueRows else k.ueRows ++ [row], ueStep := s.stepNum,
                        ueAttempts := if old.contains a then old else old ++ [a] }

/-- R400: SP_UE met in three consecutive attempts of one step. -/
def threeAttempts (l : List Nat) : Bool := l.any (fun a => l.contains (a + 1) && l.contains (a + 2))

/-! ### Stream position and state (01 KITE_STATE, PLAN_PC) -/

/-- Ops under way in a slot. -/
def KiteState.running (k : KiteState) : List OpRun :=
  k.arr ++ (match k.tileLive with | some t => if t.streamed then [] else [t.run] | none => [])
    ++ (k.tileNext.map Tile.run).toList ++ k.vec.toList ++ k.port.toList ++ k.loader.toList

/-- PLAN_PC and KITE_STATE follow the sequencer: RUN while an op runs, WAIT while ops are left, IDLE at the end
(DEDUCED, log 31). A stopped or failed slot keeps its state. -/
def showStream (s : State) (n : Nat) : State :=
  let k := s.kite n
  let st := s.rd Reg.KITE_STATE_STATE n
  let run := k.running
  let pc := if run.any (fun r => r.idx + 1 == k.nextOp) then k.nextOp - 1 else k.nextOp
  let s1 := if pc = s.rd Reg.PLAN_PC_PC n then s
    else (s.wr Reg.PLAN_PC_PC pc n).setKite n { k with pcTick := s.tick }
  if st = 1 ∨ st = 2 ∨ st = 3 then
    s1.wr Reg.KITE_STATE_STATE
      (if run ≠ [] then 2 else if k.nextRec < s.rd Reg.OPS_COUNT_COUNT n then 3 else 1) n
  else s1

/-- R61: a fault of the slot's op `idx` with KITE_FAULT code `code` (R60, R408); EPOCH_MISMATCH is also a plan page event
(R242). `w` tells that it arises in the kite cycle of the slot's latest fault (R124). -/
def opFault (s : State) (n code idx : Nat) (w : Bool := false) : State :=
  kiteFault (if code = 4 then raise s Ev.plan_EPOCH_MISMATCH else s) n { code := code, op := idx } w

/-- R124: faults of one cycle: the lowest code latches, the others count. -/
def faultTogether (s : State) (n idx : Nat) (codes : List Nat) (w : Bool := false) : State :=
  match codes with
  | [] => s
  | c :: r => r.foldl (fun s _ => countEvent s .kiteCtl n) (opFault s n c idx w)

/-- R47, R61, R400: an op meets an uncorrectable row: SP_UE. A row of a bank without spares, or the third consecutive
attempt, fails the kite. -/
def faultSpUe (s : State) (n row idx : Nat) (w : Bool := false) : State :=
  let s1 := spUncorrectable s n row
  let k := s1.kite n
  let s2 := opFault s1 n 6 idx w
  if bankSpares ≤ k.spares.getD (row / 2048) 0 ∨ threeAttempts k.ueAttempts then declareFailed s2 n else s2

/-- R46: cycles in which a port of the op waited for a bank. -/
def opWaits (e : OpEnv) : Nat := e.stalls + e.weightStalls

/-- R37, R46: cycles in which column entry is held: the column has not arrived, or the weight port waits for a bank. -/
def opHeld (e : OpEnv) : Nat := e.bubbles + e.weightStalls

/-- R46, R47: what an op meets in the scratchpad: corrected rows and cycles lost to bank conflicts; answers the row of an
uncorrectable error. -/
def meetErrors (s : State) (n : Nat) (env : OpEnv) : Option Nat × State :=
  let s1 := env.ceRows.foldl (fun s r => spCorrected s n (spRow r.1 r.2)) s
  (env.ue.map (fun r => spRow r.1 r.2),
    raiseTimes (s1.bump Reg.BANK_STALL_STALLS n 0 (opWaits env)) Ev.kiteCtl_BANK_CONFLICT n (opWaits env))

/-! ### Op records (07 R246, R250 to R254) -/

/-- R243: the HBM address of byte `ofs` of the plan region. -/
def planByte (s : State) (ofs : Nat) : Nat := s.rd Reg.PLAN_BASE_BASE * 2 ^ 26 + ofs

/-- R246: the address of record `r` of a stream at byte offset `base` of the plan region. -/
def planRecordAddr (s : State) (base r : Nat) : Nat := planByte s (base + 16 * r)

/-- The 128-bit record `r` of a stream at byte offset `base` of the plan region (R243, R246). -/
def planRecord (s : State) (base r : Nat) : Nat := leNat (memBytes s (planRecordAddr s base r) 16)

/-- R217, R243: `n` records reach their sequencer through the spool, with hint NORMAL, charged to no partition, and `f` follows;
a lost transfer withholds them. The model takes the fetch, which runs ahead of issue, as the op issues (DESIGN CHOICE,
log 95). -/
def fetchRecords (s : State) (who : Consumer) (base r n : Nat) (f : State → State) : State :=
  match readFor s who (planRecordAddr s base r) (16 * n) 0 with
  | (some _, s1) => f s1
  | (none, s1) => s1

/-- R246: CLASS. -/
def opClass (w : Nat) : Nat := getBits w 124 4

/-- R246: array and vector ops take two records. -/
def opRecords (w : Nat) : Nat := if opClass w = 1 ∨ opClass w = 2 then 2 else 1

/-- R246: the tick a record is released at in the running attempt of the step. -/
def releaseTick (s : State) (w : Nat) : Nat :=
  s.rd64 Reg.STEP_TICK_LO Reg.STEP_TICK_HI + s.step.shift + getBits w 104 20 * 2 ^ s.plan.relShift

/-- R246, R248: the gate a record waits on has reached its count. -/
def gateReached (gates : Table Nat) (w : Nat) : Bool :=
  decide (getBits w 92 7 ≤ gates.getD (getBits w 99 5) 0)

/-- R246: the gate a record signals. -/
def signalOf (w : Nat) : Option Nat := if bit w 91 then some (getBits w 86 5) else none

/-- R247: one signal to a gate of slot `n`, saturating at 65,535. -/
def signalGate (s : State) (n g : Nat) : State :=
  let k := s.kite n
  s.setKite n { k with gates := k.gates.put g (min 65535 (k.gates.getD g 0 + 1)) }

/-- R247: one signal to a gate of logical kite `k`. -/
def signalLogical (s : State) (k g : Nat) : State := signalGate s (s.slotOf k) g

/-- R250: an array op's fields from its two records. -/
def arrayFields (w x : Nat) : ArrayFields :=
  { part := getBits w 83 3, profile := getBits w 80 3, mLoad := getBits w 72 8, kActive := getBits w 62 10,
    n := getBits w 46 16, xAddr := getBits w 30 16 * 128, wSrc := getBits w 29 1,
    wAddr := if bit w 29 then getBits w 13 16 * 128 else getBits w 13 16,
    tag := getBits w 5 8, accAddr := getBits x 112 16 * 128, accMode := getBits x 110 2, srStream := getBits x 94 16,
    layer := getBits x 86 8, cbFmt := getBits x 82 4, cbGshift := getBits x 78 4, cbBase := getBits x 67 11,
    wBits := getBits x 65 2 }

/-- The first record of the next op of slot `n`. -/
def headRecord (s : State) (n : Nat) : Nat := planRecord s (s.rd Reg.OPS_BASE_BASE n) (s.kite n).nextRec

/-- The second record of the next op of slot `n`. -/
def headExtension (s : State) (n : Nat) : Nat := planRecord s (s.rd Reg.OPS_BASE_BASE n) ((s.kite n).nextRec + 1)

/-- R243: the records of the head op of slot `n` are fetched, and `f` follows. -/
def fetchHead (s : State) (n : Nat) (f : State → State) : State :=
  fetchRecords s .fetch (s.rd Reg.OPS_BASE_BASE n) (s.kite n).nextRec (opRecords (headRecord s n)) f

/-- R473: the op at the head cannot run. -/
def headInvalid (s : State) (n : Nat) : Bool :=
  let w := headRecord s n
  decide (5 ≤ opClass w) || decide (s.rd Reg.OPS_COUNT_COUNT n < (s.kite n).nextRec + opRecords w)

/-- R61, R124: op `i` of slot `n` may act: no fault stops it, or it acts in the kite cycle of the fault (`w`), whose own op
it is not. -/
def opRuns (s : State) (n i : Nat) (w : Bool) : Bool :=
  !(s.kite n).stops i || (w && (s.kite n).fault.any (fun f => f.op != i))

/-- R248 items 1 to 3: the head op of logical kite `k` is due: a step runs, the kite is not stopped (`tog` as `w` in
`opRuns`), an op is left, its release tick has come and its gate is reached. -/
def headDue (s : State) (k : Nat) (tog : Bool := false) : Bool :=
  let n := s.slotOf k
  let st := s.rd Reg.KITE_STATE_STATE n
  let i := (s.kite n).nextOp
  let w := headRecord s n
  s.rd Reg.STEP_STAT_STATE == 2 && s.islandsRun && decide (1 ≤ st) && (decide (st ≤ 3) || (tog && st == 4)) && opRuns s n i tog
    && decide ((s.kite n).nextRec < s.rd Reg.OPS_COUNT_COUNT n)
    && decide (releaseTick s w ≤ s.tick) && gateReached (s.kite n).gates w

/-- R248: the head op is due, valid, and of class `cls`. -/
def headIs (s : State) (k cls : Nat) (w : Bool := false) : Bool :=
  headDue s k w && !headInvalid s (s.slotOf k) && opClass (headRecord s (s.slotOf k)) == cls

/-! ### Issue and completion (R248, R249, 15 R419, R424) -/

/-- R12: the kite cycle of a tick at the present kite clock. -/
def kiteCycles (s : State) (ticks : Nat) : Nat := ticks * s.rd Reg.CLK_KITE_FREQ_MHZ / 1000

/-- R248: the run of the head op of slot `n` as it starts. -/
def headRun (s : State) (n : Nat) : OpRun :=
  let w := headRecord s n
  { idx := (s.kite n).nextOp, cls := opClass w, sig := signalOf w, start := s.tick, slip := s.tick - releaseTick s w }

/-- R248, R249: the head op of slot `n` starts: the sequencer moves past it, slip is counted, and its start is traced. -/
def issueHead (s : State) (n : Nat) : State :=
  let r := headRun s n
  let k := s.kite n
  let s1 := s.setKite n { k with nextRec := k.nextRec + opRecords (headRecord s n), nextOp := k.nextOp + 1 }
  let s2 := if r.slip = 0 then s1
    else raise ((s1.bump Reg.SLIP_COUNT_SLIPS n).bump Reg.STEP_SLIPS_COUNT) Ev.kiteCtl_SLIP n
  traceAdd s2 (n / 17) 0 0x01 ((s2.logicalOf n).getD 0) r.idx r.cls r.slip

/-- R419: a unit's counter set resets as its op starts. -/
def OpCounters.starts (c : OpCounters) (r : OpRun) : OpCounters :=
  { c with curOp := r.idx, curStart := some r.start, curCycles := 0, curHolds := 0, curSlip := r.slip }

/-- R419: the set's final values are copied into its snapshot. -/
def OpCounters.completes (c : OpCounters) (r : OpRun) (cycles : Nat) : OpCounters :=
  let c1 := if c.curOp = r.idx ∧ c.curStart = some r.start then
      { c with curStart := none, curCycles := cycles, curHolds := r.holds } else c
  { c1 with snapOp := r.idx, snapCycles := cycles, snapHolds := r.holds, snapSlip := r.slip }

/-- R248: an op of slot `n` completes: its gate is signalled and the completion is traced. -/
def completeRun (s : State) (n : Nat) (r : OpRun) : State :=
  let s1 := match r.sig with
    | some g => signalGate s n g
    | none => s
  let c := kiteCycles s (s.tick - r.start) + 1
  traceAdd s1 (n / 17) 0 0x02 ((s1.logicalOf n).getD 0) r.idx r.cls (c % 2 ^ 32 + 2 ^ 32 * r.holds)

/-- An op that completes in the cycle it starts (R55, R178, R254). -/
def issueAtOnce (s : State) (n : Nat) : State :=
  showStream (completeRun (issueHead s n) n (headRun s n)) n

/-! ### Epochs and files (R113, R242) -/

/-- R242: a bank that slot `n`'s op reads carries another epoch than E(S). -/
def epochOff (s : State) (n : Nat) (fs : List FileBanks) : Bool :=
  (s.kite n).epoch != s.epoch || fs.any (fun f => f.epoch != s.epoch)

/-- The reset word `w` of a file (R138, R188). -/
def fileBlank (f : FileKind) (w : Nat) : Nat :=
  match f with
  | .scale => if w % 2 = 0 then 0x3F800000 else 0
  | .codebook | .program => 0

def KiteState.file (k : KiteState) (f : FileKind) : FileBanks :=
  match f with
  | .codebook => k.cb
  | .scale => k.sc
  | .program => k.vp

def KiteState.setFile (k : KiteState) (f : FileKind) (b : FileBanks) : KiteState :=
  match f with
  | .codebook => { k with cb := b }
  | .scale => { k with sc := b }
  | .program => { k with vp := b }

/-- A word of a file's bank. -/
def fileWord (f : FileKind) (bank : Table Nat) (w : Nat) : Nat := bank.getD w (fileBlank f w)

/-- A bank with word `w` given value `v`, unlisted words at their reset value. -/
def fileStore (f : FileKind) (bank : Table Nat) (w v : Nat) : Table Nat :=
  if v = fileBlank f w then bank.erase w else bank.put w v

/-- The register field that shows a file's copy (03 CB_FILE_STAT, 05 VP_FILE_STAT). -/
def copyBusyFld (f : FileKind) : Fld :=
  match f with
  | .codebook => Reg.CB_FILE_STAT_CB_COPY_BUSY
  | .scale => Reg.CB_FILE_STAT_RSC_COPY_BUSY
  | .program => Reg.VP_FILE_STAT_VP_COPY_BUSY

/-- The register field that shows a file's retiring bank. -/
def retiringFld (f : FileKind) : Fld :=
  match f with
  | .codebook => Reg.CB_FILE_STAT_CB_RETIRING
  | .scale => Reg.CB_FILE_STAT_RSC_RETIRING
  | .program => Reg.VP_FILE_STAT_VP_RETIRING

def copyBusy (s : State) (n : Nat) (f : FileKind) : Bool := s.rd (copyBusyFld f) n == 1

/-- R113: the copy of live to shadow starts once a commit has swapped the banks and no earlier user is left. -/
def canCopy (s : State) (n : Nat) (f : FileKind) : Bool :=
  ((s.kite n).file f).copyDue && s.rd (retiringFld f) n == 0 && s.islandsRun

def startCopy (s : State) (n : Nat) (f : FileKind) : State :=
  let k := s.kite n
  (s.setKite n (k.setFile f { k.file f with copyDue := false })).wr (copyBusyFld f) 1 n

def execFileCopy (slot : Slot) (file : FileKind) (s : State) : Result :=
  whenOk (canCopy s slot file) s (startCopy s slot file)

/-- A word of a file's shadow bank is written. -/
def windowStore (s : State) (n : Nat) (f : FileKind) (w v : Nat) : State :=
  let k := s.kite n
  let b := k.file f
  s.setKite n (k.setFile f { b with shadow := fileStore f b.shadow w v })

/-- R241: a held write of a word of slot `n`'s file `f`. -/
def heldFile (n : Nat) (f : FileKind) (h : ShWrite) : Option (Nat × Nat) :=
  match h with
  | .file m g w v => if m = n ∧ g = f then some (w, v) else none
  | .field _ _ => none

/-- R241: writes of a file that were held land, after the copy that follows the commit (log 87). -/
def landFile (s : State) (n : Nat) (f : FileKind) : State :=
  (s.held.filterMap (heldFile n f)).foldl (fun s e => windowStore s n f e.1 e.2)
    { s with held := s.held.filter (fun h => (heldFile n f h).isNone) }

/-- R113: after the copy the shadow bank equals the live bank, but for writes held for it. -/
def endCopy (s : State) (n : Nat) (f : FileKind) : State :=
  let k := s.kite n
  let b := k.file f
  landFile ((s.setKite n (k.setFile f { b with shadow := b.live })).wr (copyBusyFld f) 0 n) n f

def execFileCopyDone (slot : Slot) (file : FileKind) (s : State) : Result :=
  whenOk (copyBusy s slot file && s.islandsRun) s (endCopy s slot file)

/-- R113, R240: a commit swaps a file's banks, stamps the live one, and leaves the copy to start. -/
def FileBanks.commit (b : FileBanks) (epoch : Nat) : FileBanks :=
  { live := b.shadow, shadow := b.live, epoch := epoch, copyDue := true }

/-- R240, R242: a slot latches its files and replicas at tick `t` under epoch `epoch`. -/
def KiteState.commit (k : KiteState) (epoch t : Nat) : KiteState :=
  { k with cb := k.cb.commit epoch, sc := k.sc.commit epoch, vp := k.vp.commit epoch, epoch := epoch, latchTick := t,
           missed := false }

/-! ### File windows (03 R143, 05 R196) -/

/-- The file CBF_CTL selects. -/
def selectedFile (s : State) (n : Nat) : FileKind := if s.rd Reg.CBF_CTL_FILE n = 1 then .scale else .codebook

/-- 01 KITE_STATE: HALTED while a haul-down has stopped an idle, running or waiting slot (15 R431; log 63). -/
def shownKite (s : State) (n : Nat) : Nat :=
  let st := s.rd Reg.KITE_STATE_STATE n
  if 2 ≤ s.rd Reg.HD_STAT_STATE ∧ 1 ≤ st ∧ st ≤ 3 then 5 else st

/-- R143, R196: KITE_STATE refuses window writes in RUN and WAIT. -/
def kiteBusy (s : State) (n : Nat) : Bool := shownKite s n == 2 || shownKite s n == 3

/-- A word of the bank a window's BANK field selects. -/
def windowWord (s : State) (n : Nat) (f : FileKind) (bank w : Nat) : Nat :=
  let b := (s.kite n).file f
  fileWord f (if bank = 1 then b.shadow else b.live) w

/-- R241: a window write lands in the shadow bank, or is held in the last 64 ticks before a commit. -/
def windowHold (s : State) (n : Nat) (f : FileKind) (w v : Nat) : State :=
  if s.nearCommit then { s with held := s.held ++ [.file n f w (v % 2 ^ 32)] } else windowStore s n f w v

/-- The index of CBF_DATA moves on when AUTO_INC is 1. -/
def cbfAdvance (s : State) (n : Nat) : State :=
  if s.rd Reg.CBF_CTL_AUTO_INC n = 1 then s.wr Reg.CBF_INDEX_WORD ((s.rd Reg.CBF_INDEX_WORD n + 1) % 8192) n else s

/-- R143: a read of CBF_DATA. -/
def cbfRead (s : State) (n : Nat) : Nat × State :=
  (windowWord s n (selectedFile s n) (s.rd Reg.CBF_CTL_BANK n) (s.rd Reg.CBF_INDEX_WORD n), cbfAdvance s n)

/-- R113, R143: the selected file's copy is busy: it runs, or starts in this cycle. -/
def copyBlocks (s : State) (n : Nat) (f : FileKind) : Bool := copyBusy s n f || canCopy s n f

/-- R143: when a write of CBF_DATA is accepted. -/
def cbfWritable (s : State) (n : Nat) : Bool :=
  s.rd Reg.CBF_CTL_BANK n == 1 && !kiteBusy s n && !copyBlocks s n (selectedFile s n)

/-- R143: a write of CBF_DATA. -/
def cbfWrite (s : State) (n v : Nat) : State :=
  if cbfWritable s n then cbfAdvance (windowHold s n (selectedFile s n) (s.rd Reg.CBF_INDEX_WORD n) v) n
  else refuse s .kiteArr n

def execCbfData (slot : Slot) (acc : Access) (s : State) : Result :=
  match acc with
  | .read => .next ((cbfRead s slot).2.emit (.word (cbfRead s slot).1))
  | .write v => .next (cbfWrite s slot v.toNat)

def vpAdvance (s : State) (n : Nat) : State :=
  if s.rd Reg.VP_CTL_AUTO_INC n = 1 then s.wr Reg.VP_INDEX_WORD ((s.rd Reg.VP_INDEX_WORD n + 1) % 4096) n else s

/-- R196: a read of VP_DATA. -/
def vpRead (s : State) (n : Nat) : Nat × State :=
  (windowWord s n .program (s.rd Reg.VP_CTL_BANK n) (s.rd Reg.VP_INDEX_WORD n), vpAdvance s n)

/-- R196: when a write of VP_DATA is accepted: OPC 0x18 and above are reserved (R185). -/
def vpWritable (s : State) (n v : Nat) : Bool :=
  s.rd Reg.VP_CTL_BANK n == 1 && !kiteBusy s n && !copyBlocks s n .program && decide (getBits v 26 6 < 0x18)

/-- R196: a write of VP_DATA. -/
def vpWrite (s : State) (n v : Nat) : State :=
  if vpWritable s n v then vpAdvance (windowHold s n .program (s.rd Reg.VP_INDEX_WORD n) v) n
  else refuse s .kiteVec n

def execVpData (slot : Slot) (acc : Access) (s : State) : Result :=
  match acc with
  | .read => .next ((vpRead s slot).2.emit (.word (vpRead s slot).1))
  | .write v => .next (vpWrite s slot v.toNat)

/-! ### SYNC, OP_INVALID, FAULT_CLR (R60, R142, R193, R254, R473) -/

def canSync (s : State) (k : Nat) : Bool := headIs s k 0

/-- R473: the head op is due and cannot run. -/
def canInvalid (s : State) (k : Nat) (w : Bool := false) : Bool := headDue s k w && headInvalid s (s.slotOf k)

def execOpInvalid (k : Kite) (together : Bool) (s : State) : Result :=
  let n := s.slotOf k
  whenOk (canInvalid s k together) s (fetchHead s n (fun s => opFault s n 0x0A (s.kite n).nextOp together))

def execFaultClr (slot : Slot) (together : Bool) (s : State) : Result := .next (faultClear s slot together)

end Sys2Proof.Machine
end

