-- ==== Sys2Proof/Machine/Envelope.lean ====
section
/-! DEFINITION. The envelope monitor: what a stored value counts as, the banks of a kite, and the snapshot window
(04 R144 to R151). -/

namespace Sys2Proof.Machine

/-- R148: a tag's record with nothing counted. -/
def tagBlank : TagRec := { counts := [0, 0, 0, 0, 0, 0], emax := -32768, emin := 32767, bins := List.replicate 32 0 }

/-- R146: the column, beside COUNT, that a stored value enters. -/
inductive EnvColumn where
  | plain | zeros | subnormal | clipped | nans
deriving DecidableEq, Repr

/-- R146, R147: how one stored value counts: its column, whether it underflowed to zero, and its exponent. -/
structure EnvClass where
  col : EnvColumn
  uflow : Bool := false
  ex : Option Int := none
deriving DecidableEq, Repr

/-- The exponent of a finite non-zero value (R147). -/
def exponentOf (v : Val) : Option Int :=
  match v with
  | .fin _ m e => if m = 0 then none else some (floorLog2 m e)
  | _ => none

/-- R146: an array result as stored: FP32 code and the flags raised in storing it. -/
def classArray (code : Nat) (f : Flags) : EnvClass :=
  let v := fp32 code
  let mag := code % 2 ^ 31
  if v.isInf && f.ovf then { col := .clipped }
  else if v.isNan then { col := .nans }
  else if v.isInf then { col := .plain }
  else if mag = 0 then { col := .zeros, uflow := f.unf }
  else { col := if mag < 2 ^ 23 then .subnormal else .plain, ex := exponentOf v }

/-- R146: a conversion's result as stored in format `fmt`. -/
def classConv (fmt : Nat) (c : Conv) : EnvClass :=
  let v := decodeFmt fmt c.code
  if c.flags.clips ≠ 0 ∨ c.flags.ovf then { col := .clipped, ex := exponentOf v }
  else if v.isNan then { col := .nans }
  else if c.subnormal then { col := .subnormal, ex := exponentOf v }
  else if v.isZero then { col := .zeros, uflow := c.toZero }
  else { col := .plain, ex := exponentOf v }

/-- Element `i` of a list of counts raised by one, saturating at `bits` (R148). -/
def bumpAt (bits : Nat) (l : List Nat) (i : Nat) : List Nat := l.set i (satAdd bits (l.getD i 0) 1)

/-- R147: the bin of exponent `e` under HIST_BASE and HIST_SHIFT. -/
def binOf (base : Int) (shift : Nat) (e : Int) : Nat := (min 31 (max 0 ((e - base) / (2 ^ shift : Nat)))).toNat

/-- R147, R148: an exponent enters EMAX, EMIN and its bin. -/
def tagAddExponent (r : TagRec) (base : Int) (shift : Nat) (e : Int) : TagRec :=
  { r with emax := max r.emax e, emin := min r.emin e, bins := bumpAt 32 r.bins (binOf base shift e) }

/-- R146: the counts with one value of class `c`. -/
def envCounts (l : List Nat) (c : EnvClass) : List Nat :=
  let l1 := bumpAt 40 l 0
  match c.col with
  | .plain => l1
  | .zeros => if c.uflow then bumpAt 40 (bumpAt 40 l1 1) 2 else bumpAt 40 l1 1
  | .subnormal => bumpAt 40 l1 3
  | .clipped => bumpAt 40 l1 4
  | .nans => bumpAt 40 l1 5

/-- R146 to R148: one stored value enters a tag's record. -/
def tagAdd (r : TagRec) (base : Int) (shift : Nat) (c : EnvClass) : TagRec :=
  let r1 := { r with counts := envCounts r.counts c }
  match c.ex with
  | some e => tagAddExponent r1 base shift e
  | none => r1

/-- R144: the values a slot's op stores enter the accumulating bank under the op's tag. -/
def envRecord (s : State) (n tag : Nat) (cs : List EnvClass) : State :=
  if cs = [] then s
  else
    let base := toSigned 9 (s.rd Reg.TAG_CFG_HIST_BASE n tag)
    let shift := s.rd Reg.TAG_CFG_HIST_SHIFT n tag
    let k := s.kite n
    s.setKite n { k with acc := k.acc.put tag (cs.foldl (fun r c => tagAdd r base shift c) (k.acc.getD tag tagBlank)) }

/-- R148: a counter or bin of the record reads all ones. -/
def tagSaturated (r : TagRec) : Bool :=
  r.counts.any (fun c => c == 2 ^ 40 - 1) || r.bins.any (fun b => b == 2 ^ 32 - 1)

/-- R148, R149: at the seal of a step the banks of slot `n` exchange; saturation is reported once. -/
def sealEnvelope (s : State) (n : Nat) : State :=
  let k := s.kite n
  let s1 := (s.setKite n { k with snap := k.acc, acc := k.snap }).wr Reg.ENV_STAT_SNAP_VALID 1 n
  let s2 := s1.wr Reg.ENV_SNAP_STEP_STEP (s.rd Reg.STEP_NUM_LO) n
  if k.acc.any (fun e => tagSaturated e.2) then raise (s2.bump Reg.ENV_SAT_COUNT_SATS n) Ev.kiteEnv_ENV_SAT n else s2

/-- R149: the accumulating bank clears. -/
def clearEnvelope (s : State) (n : Nat) : State := s.setKite n { s.kite n with acc := [] }

/-- R149: the statistics of an abandoned attempt are discarded. -/
def discardEnvelope (s : State) (n : Nat) : State :=
  raise ((clearEnvelope s n).bump Reg.ENV_DISCARD_DISCARDS n) Ev.kiteEnv_ENV_DISCARD n

/-- R150: the share of X in COUNT. -/
def share (x count : Nat) : Nat := if count = 0 then 0 else min 65535 (65536 * x / count)

/-- R151: word `w` of a tag's snapshot record. -/
def envWord (r : TagRec) (w : Nat) : Nat :=
  let count := r.counts.getD 0 0
  if w < 12 then (if w % 2 = 0 then r.counts.getD (w / 2) 0 % 2 ^ 32 else r.counts.getD (w / 2) 0 / 2 ^ 32)
  else if w = 12 then ofSigned 16 r.emax * 65536 + ofSigned 16 r.emin
  else if w = 13 then share (r.counts.getD 4 0) count * 65536 + share (r.counts.getD 2 0) count
  else if w < 46 then r.bins.getD (w - 14) 0
  else 0

/-- The selection of ENV_WIN moves on: WORD from 47 to 0 advances TAG, which wraps from 255 to 0. -/
def envAdvance (s : State) (n : Nat) : State :=
  if s.rd Reg.ENV_SEL_AUTO_INC n = 1 then
    let w := s.rd Reg.ENV_SEL_WORD n
    if w = 47 then (s.wr Reg.ENV_SEL_WORD 0 n).wr Reg.ENV_SEL_TAG ((s.rd Reg.ENV_SEL_TAG n + 1) % 256) n
    else s.wr Reg.ENV_SEL_WORD (w + 1) n
  else s

/-- R151: a read of ENV_WIN. -/
def envRead (s : State) (n : Nat) : Nat × State :=
  (envWord ((s.kite n).snap.getD (s.rd Reg.ENV_SEL_TAG n) tagBlank) (s.rd Reg.ENV_SEL_WORD n), envAdvance s n)

def execEnvWin (slot : Slot) (s : State) : Result := .next ((envRead s slot).2.emit (.word (envRead s slot).1))

end Sys2Proof.Machine
end

