-- ==== Sys2Proof/Machine/Operands.lean ====
section
/-! DEFINITION. Operand forms: packing (02 R69), block scales (R72, R73), the precision entry an op names (04 R161, R162),
formats, bridles and shapes of the array (01 R20 to R28), and column layouts (R35, 03 R119, R127). -/

namespace Sys2Proof.Machine

/-! ### Packed elements (R69) -/

/-- R69: the codes of `n` elements of `bits` bits, packed from bit 0 of byte 0 upward. -/
def unpackBits (bits n : Nat) (bs : Bytes) : List Nat :=
  let v := leNat bs
  (List.range n).map (fun i => getBits v (i * bits) bits)

/-- R69: bytes that hold `n` elements of `bits` bits. -/
def packedBytes (bits n : Nat) : Nat := ceilDiv (n * bits) 8

/-- R69: element codes packed from the low bit upward, as one number. -/
def packNat (bits : Nat) : List Nat → Nat
  | [] => 0
  | c :: cs => c % 2 ^ bits + 2 ^ bits * packNat bits cs

/-- R69: element codes packed into bytes, the last completed with zero bits. -/
def packBits (bits : Nat) (cs : List Nat) : Bytes := leBytes (packedBytes bits cs.length) (packNat bits cs)

/-! ### Block scales (R7, R72, R73) -/

/-- R7: the elements of a block. -/
def blockSize (blk : Nat) : Nat := if blk = 1 then 32 else 16

/-- R7: legal pairs of FMT and BLK. -/
def blkLegal (fmt blk : Nat) : Bool := blk == 0 || (decide (blk ≤ 2) && decide (3 ≤ fmt) && decide (fmt ≤ 9))

/-- 00 R5 to R9, 04 R161: a level of a precision ladder. -/
def levelOk (code : Nat) : Bool := decide (code % 16 ≤ 0xB) && decide (code / 16 ≤ 2) && blkLegal (code % 16) (code / 16)

/-- R7: blocks of `n` elements, none without block scales. -/
def blocksOf (blk n : Nat) : Nat := if blk = 0 then 0 else ceilDiv n (blockSize blk)

/-- R72, R73: a value under block scale code `sc`. -/
def scaled (v : Val) (sc : Nat) : Val := if sc = 255 then .nan else v.scale2 ((sc : Int) - 127)

/-- R72: the value of element `i` with code `c` under the blocks' scale codes. -/
def blockValue (fmt blk : Nat) (scales : List Nat) (i c : Nat) : Val :=
  if blk = 0 then decodeFmt fmt c else scaled (decodeFmt fmt c) (scales.getD (i / blockSize blk) 0)

/-- The values of a list of element codes. -/
def blockValues (fmt blk : Nat) (scales : List Nat) (cs : List Nat) : List Val :=
  cs.zipIdx.map (fun e => blockValue fmt blk scales e.2 e.1)

/-! ### Precision entries (R161, R162) -/

/-- R161: the FMT of entry `l`'s present level in the live bank. -/
def entryFmt (s : State) (l : Nat) : Nat :=
  getBits (s.rd Reg.PT_ENTRY_LADDER 0 l) (6 * s.rd Reg.PT_ENTRY_LEVEL 0 l) 4

/-- R161: the BLK of entry `l`'s present level in the live bank. -/
def entryBlk (s : State) (l : Nat) : Nat :=
  getBits (s.rd Reg.PT_ENTRY_LADDER 0 l) (6 * s.rd Reg.PT_ENTRY_LEVEL 0 l + 4) 2

/-- R162: an entry with LAD_LEN 0 may not be named. -/
def entryUnused (s : State) (l : Nat) : Bool := s.rd Reg.PT_ENTRY_LAD_LEN 0 l == 0

/-- R163: TAG_SCALE of a tag in the live bank. -/
def tagScale (s : State) (tag : Nat) : Val := fp32 (s.rd Reg.TAG_SCALE_T 0 tag)

/-! ### Bridles and shapes (R20 to R26) -/

/-- R21: the bridle a format takes in a shape under a BRIDLE code (0 AUTO, 1 to 5), if legal. -/
def bridleOf (fmt : Nat) (thin : Bool) (code : Nat) : Option Nat :=
  let pick := fun (auto : Nat) (legal : List Nat) =>
    let b := match code with | 0 => auto | 5 => 6 | c => c
    if legal.contains b then some b else none
  match fmt with
  | 0 => if thin then none else pick 6 [6]
  | 1 | 8 | 0xB => pick 2 [2]
  | 2 => if thin then pick 4 [4] else pick 3 [3, 4]
  | 3 | 4 | 5 | 6 | 7 | 9 | 0xA => pick 1 [1]
  | _ => none

/-- The BRIDLE code of a bridle (ARR_STATUS.LIVE_BRIDLE). -/
def bridleCode (b : Nat) : Nat := if b = 6 then 5 else b

/-- R20, R25: effective rows. -/
def effRows (thin : Bool) (b : Nat) : Nat := if thin then 32 / b else 128 / b

/-- R20, R25: effective columns. -/
def effCols (thin : Bool) (b : Nat) : Nat := if thin then 4 * (128 / b) else 128 / b

/-- R112: the formats a codebook may hold. -/
def cbFmtLegal (f : Nat) : Bool := [3, 4, 5, 6, 7, 9].contains f

/-- R125: chunks of a slice-mode weight: bits per chunk and their number. -/
def sliceChunks (b wBits : Nat) : Nat × Nat :=
  let c := if b = 2 then 8 else 4
  (c, (8 + 4 * wBits) / c)

/-- R126: W_BITS legal for the stationary format. -/
def wBitsLegal (fmt wBits : Nat) : Bool := wBits == 0 || wBits == 2 || (wBits == 1 && fmt == 9)

/-- R108, R109: MODE, FMT, BLK and the mode's own fields go together. -/
def modeLegal (mode fmt blk : Nat) (o : ArrayFields) : Bool :=
  match mode with
  | 0 => fmt != 0xA && blkLegal fmt blk
  | 1 => fmt == 0xA && blk == 0 && cbFmtLegal o.cbFmt && decide (4 ≤ o.cbGshift) && decide (o.cbGshift ≤ 9)
      && decide (o.cbBase + ceilDiv o.kActive (2 ^ o.cbGshift) ≤ 2048)
  | 2 => (fmt == 9 || fmt == 8) && blk == 0 && wBitsLegal fmt o.wBits
  | _ => false

/-! ### Stationary operand (R30) -/

/-- R30: the format the stationary operand is read in (R108: CB_FMT in table mode). -/
def stationaryFmt (mode fmt : Nat) (o : ArrayFields) : Nat := if mode = 1 then o.cbFmt else fmt

/-- R30: the row stride: element bytes rounded up to 128. -/
def rowStride (fmt k : Nat) : Nat := ceilDiv (packedBytes (fmtBits fmt) k) 128 * 128

/-- R30: the first address past a stationary operand at X_ADDR. -/
def operandEnd (o : ArrayFields) (fmt blk : Nat) : Nat :=
  o.xAddr + o.mLoad * rowStride fmt o.kActive
    + (if o.mLoad * blocksOf blk o.kActive = 0 then 0 else ceilDiv (o.mLoad * blocksOf blk o.kActive) 128 * 128)

/-- R30: the element codes of row `m`. -/
def operandRow (k : KiteState) (o : ArrayFields) (fmt m : Nat) : List Nat :=
  unpackBits (fmtBits fmt) o.kActive
    (spBytes k (o.xAddr + m * rowStride fmt o.kActive) (packedBytes (fmtBits fmt) o.kActive))

/-- R30: the scale codes of row `m`. -/
def operandScales (k : KiteState) (o : ArrayFields) (fmt blk m : Nat) : List Nat :=
  let nb := blocksOf blk o.kActive
  (spBytes k (o.xAddr + o.mLoad * rowStride fmt o.kActive + m * nb) nb).map BitVec.toNat

/-! ### Weight columns (R35, R119, R127) -/

/-- R35, R127: the bytes of a column in direct or slice mode. -/
def columnBytes (t : Tile) : Nat :=
  if t.mode = 2 then
    let (c, p) := sliceChunks t.bridle t.op.wBits
    p * ceilDiv (t.op.kActive * c) 8
  else packedBytes (fmtBits t.fmt) t.op.kActive + blocksOf t.blk t.op.kActive

/-- R35: the weights of a direct-mode column. -/
def directWeights (t : Tile) (bs : Bytes) : List Val :=
  let e := packedBytes (fmtBits t.fmt) t.op.kActive
  blockValues t.fmt t.blk ((bs.drop e).map BitVec.toNat) (unpackBits (fmtBits t.fmt) t.op.kActive (bs.take e))

/-- R127: the chunks of plane `p` of a slice-mode column. -/
def slicePlane (t : Tile) (bs : Bytes) (p : Nat) : List Nat :=
  let (c, _) := sliceChunks t.bridle t.op.wBits
  let pb := ceilDiv (t.op.kActive * c) 8
  unpackBits c t.op.kActive ((bs.drop (p * pb)).take pb)

/-- R125, R127: the weights of a slice-mode column: the chunks put together, the top one signed. -/
def sliceWeights (t : Tile) (bs : Bytes) : List Int :=
  let (c, np) := sliceChunks t.bridle t.op.wBits
  let planes := (List.range np).map (slicePlane t bs)
  (List.range t.op.kActive).map (fun k =>
    toSigned (c * np) (planes.zipIdx.foldl (fun a pl => a + pl.1.getD k 0 * 2 ^ (c * pl.2)) 0))

/-- R130: group slice cycles gated in one column: groups of 16 effective columns that hold an active one (DEDUCED, log
32) whose chunk is zero in every column. -/
def sliceSkips (t : Tile) (bs : Bytes) : Nat :=
  let (_, np) := sliceChunks t.bridle t.op.wBits
  ((List.range np).map (fun p =>
    let pl := slicePlane t bs p
    ((List.range (ceilDiv t.op.kActive 16)).filter (fun j => ((pl.drop (16 * j)).take 16).all (· == 0))).length)).sum

/-- R119: a block of a table-mode column: COUNT as read, and the escape entries. -/
structure EscBlock where
  count : Nat
  entries : List Nat
deriving DecidableEq, Repr

/-- R119: the side lists of `n` blocks from offset `o` of the bytes, and the offset past them. -/
def escBlocks : Nat → Bytes → Nat → List EscBlock × Nat
  | 0, _, o => ([], o)
  | n + 1, bs, o =>
    let count := leAt bs o 1 % 16
    let es := (List.range count).map (fun i => leAt bs (o + 1 + 2 * i) 2)
    let (r, e) := escBlocks n bs (o + 1 + 2 * count)
    ({ count := count, entries := es } :: r, e)

/-- R119: a table-mode column at offset `o`: its codes, its blocks, and the offset past it. -/
def tableColumn (kActive : Nat) (bs : Bytes) (o : Nat) : List Nat × List EscBlock × Nat :=
  let cb := ceilDiv kActive 2
  let (b, e) := escBlocks (ceilDiv kActive 128) bs (o + cb)
  (unpackBits 4 kActive ((bs.drop o).take cb), b, e)

/-- R119: POS of an escape entry. -/
def escPos (e : Nat) : Nat := e % 128

/-- Strictly rising. -/
def risingList : List Nat → Bool
  | a :: b :: r => decide (a < b) && risingList (b :: r)
  | _ => true

/-- R121: the first check a block of a column fails, 1 to 3, or 0. `codes` are the block's active codes. -/
def escCheck (codes : List Nat) (b : EscBlock) : Nat :=
  if 8 < b.count then 1
  else if b.count ≠ (codes.filter (· == 15)).length then 2
  else if !(risingList (b.entries.map escPos)) || b.entries.any (fun e => codes.getD (escPos e) 0 != 15) then 3
  else 0

/-- R121, R122: the first block of a column that fails, with the check. -/
def escFailure (codes : List Nat) (bl : List EscBlock) : Option (Nat × Nat × Nat) :=
  (bl.zipIdx.map (fun e => (escCheck ((codes.drop (128 * e.2)).take 128) e.1, e.2, e.1.count))).find? (fun x => x.1 != 0)

/-- R111: the scale code of a codebook record. -/
def bookScale (book : List Nat) : Nat := book.getD 15 0

/-- R111: a code of a record or an escape value, cut to CB_FMT, under the record's scale. -/
def bookValue (cbFmt : Nat) (book : List Nat) (c : Nat) : Val :=
  scaled (decodeFmt cbFmt (c % 2 ^ fmtBits cbFmt)) (bookScale book)

/-- R116, R120: the weight at index `k` of a table-mode column. -/
def tableWeight (t : Tile) (codes : List Nat) (bl : List EscBlock) (k : Nat) : Val :=
  let book := t.books.getD (k / 2 ^ t.op.cbGshift) []
  let c := codes.getD k 0
  if c = 15 then
    match (bl.getD (k / 128) { count := 0, entries := [] }).entries.find? (fun e => escPos e == k % 128) with
    | some e => bookValue t.op.cbFmt book (e / 256)
    | none => .zero
  else bookValue t.op.cbFmt book (book.getD c 0)

def tableWeights (t : Tile) (codes : List Nat) (bl : List EscBlock) : List Val :=
  (List.range t.op.kActive).map (tableWeight t codes bl)

end Sys2Proof.Machine
end

