-- ==== Sys2Proof/Machine/Array.lean ====
section
/-! DEFINITION. The array: row sums (02 R76 to R86), and the commands ARRAY_OP, STATIONARY_LOAD and TILE_SWAP
(01 R17 to R56, R470; 03 R108 to R131). -/

namespace Sys2Proof.Machine

/-! ### Row sums (R76 to R83) -/

/-- R77: the formats summed by the 40-bit window rule. -/
def windowRule (fmt : Nat) : Bool := decide (fmt ≤ 2)

/-- R81: every product is −0 (R76: the sign is the XOR of the operands' signs, integers too; DEDUCED, log 33). -/
def allNegZero (ps : List Val) : Bool := ps ≠ [] && ps.all (fun p => p.isZero && p.neg)

/-- R78: the exact sum rounded once. -/
def exactSum (ps : List Val) : Nat × Flags :=
  match ps.foldl Val.add (.zero false) with
  | .fin neg m e => if m = 0 then (0, {}) else roundFp32 .rne neg false 0 m e
  | v => toFp32 v

/-- R79: a product's magnitude in units of 2^lsb, truncated, signed, and whether bits were lost. -/
def windowTerm (lsb : Int) (p : Val) : Int × Bool :=
  match p with
  | .fin neg m e =>
    let a := if lsb ≤ e then shl m (e - lsb).toNat else m / 2 ^ (lsb - e).toNat
    let lost := if lsb ≤ e then false else m % 2 ^ (lsb - e).toNat != 0
    (if neg then -(a : Int) else a, lost)
  | _ => (0, false)

/-- R79: the largest floor(log2) of the non-zero products. -/
def windowTop (ps : List Val) : Option Int :=
  ps.foldl (fun a p => match exponentOf p, a with
    | some e, some x => some (max e x)
    | some e, none => some e
    | none, x => x) none

/-- R79: the sum under the 40-bit window. -/
def windowSum (ps : List Val) : Nat × Flags :=
  match windowTop ps with
  | none => (0, {})
  | some top =>
    let lsb := top - 39
    let ts := ps.map (windowTerm lsb)
    let t := (ts.map Prod.fst).sum
    let sticky := ts.any Prod.snd
    if t = 0 then (0, { unf := sticky }) else roundFp32 .rne (decide (t < 0)) sticky 0 t.natAbs lsb

/-- R80, R81: the row sum of the products x[k] × w[k] of the active columns, with its flags. `fmt` chooses the rule. -/
def rowSum (fmt : Nat) (xs ws : List Val) : Nat × Flags :=
  if xs.any Val.isNan || ws.any Val.isNan then (0x7FC00000, { nanIn := true })
  else
    let ps := List.zipWith Val.mul xs ws
    if ps.any Val.isNan || (ps.contains (.inf true) && ps.contains (.inf false)) then
      (0x7FC00000, { invalid := true })
    else if ps.contains (.inf false) then (0x7F800000, {})
    else if ps.contains (.inf true) then (0xFF800000, {})
    else if allNegZero ps then (0x80000000, {})
    else if windowRule fmt then windowSum ps
    else exactSum ps

/-- R128, R129: a slice-mode row: the exact integer sum, rounded once, no flag. The combiner is an integer: a sum of zero is
+0, whatever the signs of the products (DEDUCED, log 33). -/
def sliceSum (xs : List Val) (ws : List Int) : Nat × Flags :=
  (match (List.zipWith (fun x w => x.mul (Val.ofInt w)) xs ws).foldl Val.add (.zero false) with
    | .fin neg m e => if m = 0 then 0 else (roundFp32 .rne neg false 0 m e).1
    | v => (toFp32 v).1, {})

/-! ### Accumulation (R51, R84, R85) -/

/-- R51: the value stored for row sum `sum` over the stored `a`. -/
def accumulated (mode a : Nat) (sum : Nat × Flags) (d : Nat) : Nat × Flags :=
  match mode with
  | 0 => sum
  | 1 => let r := accumulate a sum.1 .rne 0; (r.1, sum.2.or r.2)
  | _ => let r := accumulate a sum.1 .sr d; (r.1, sum.2.or r.2)

/-- R101, R102: a draw of logical kite `k` in the running step. -/
def kiteDraw (s : State) (k stream e : Nat) : Nat :=
  draw16 s.plan.seed (unitWord s.plan.rank 0 k) stream (s.rd Reg.STEP_NUM_LO) e

/-! ### The start of an array op (R54, R55, R105, R242, R248, R470) -/

/-- R248: the array accepts an op when the previous op's tile has swapped to live. -/
def arrayFree (s : State) (n : Nat) : Bool := (s.kite n).tileNext.isNone

/-- The fields of the array op at the head of slot `n`. -/
def headArray (s : State) (n : Nat) : ArrayFields := arrayFields (headRecord s n) (headExtension s n)

/-- R470: the address of weight stream table entry `i`. -/
def wsEntryAddr (s : State) (i : Nat) : Nat := s.rd Reg.WS_TABLE_BASE * 4096 + 8 * i

/-- R105, R162, R242: the faults an array op meets at its start, lowest code first. -/
def arrayStartFaults (s : State) (n : Nat) (o : ArrayFields) : List Nat :=
  (if entryUnused s o.layer then [1] else [])
    ++ (if epochOff s n (if s.rd Reg.ARR_PROFILE_MODE n o.profile = 1 then [(s.kite n).cb] else []) then [4] else [])
    ++ (if o.accMode = 2 ∧ (s.kite n).streams.contains o.srStream then [9] else [])

/-- R213, R225: the read of the head's weight stream entry waits. -/
def entryWaits (s : State) (n : Nat) : Bool :=
  let o := headArray s n
  o.wSrc == 0 && o.n != 0 && arrayStartFaults s n o == [] && mustWait s o.part (wsEntryAddr s o.wAddr) 8

def canStartArray (s : State) (k : Nat) (w : Bool := false) : Bool :=
  headIs s k 1 w && arrayFree s (s.slotOf k) && !entryWaits s (s.slotOf k)

/-- R470: the weight stream entry is read through the spool as the op is accepted; a lost read stops the step. The spec gives
the entry's own read no hint and no partition: it carries NORMAL and PART of the op (DESIGN CHOICE, log 88). -/
def readWsEntry (s : State) (o : ArrayFields) : Option (Nat × Nat) × State :=
  if o.wSrc = 1 then (some (o.wAddr, 0), s)
  else
    let a := wsEntryAddr s o.wAddr
    let (bs, s1) := readFor (chargeRange s o.part a 8) .fetch a 8 0
    (bs.map (fun b => (leAt b 0 5, leAt b 5 1 % 4)), s1)

/-- R54, R470: the op of slot `n` is accepted: its entry is read, its stream registered, its tile waits for its load. -/
def acceptArray (s : State) (n : Nat) (w : Bool) : State :=
  let o := headArray s n
  let r := headRun s n
  let s1 := issueHead s n
  match arrayStartFaults s n o with
  | c :: cs =>
    let s2 := if (c :: cs).contains 1 then raise s1 Ev.kiteArr_PROFILE_ILLEGAL n else s1
    faultTogether s2 n r.idx (c :: cs) w
  | [] =>
    let (w, s2) := readWsEntry s1 o
    match w with
    | none => s2
    | some (base, hint) =>
      let k := s2.kite n
      let t : Tile := { run := r, op := o, base := base, hint := hint }
      showStream (s2.setKite n { k with
        tileNext := some t, opcArr := k.opcArr.starts r,
        streams := if o.accMode = 2 then k.streams ++ [o.srStream] else k.streams }) n

/-- ARR_FLAGS and STEP_FLAGS as an op completes. -/
def arrayFlags (s : State) (n f : Nat) : State :=
  (((((s.wr Reg.ARR_FLAGS_UF (getBits f 3 1) n).wr Reg.ARR_FLAGS_OF (getBits f 2 1) n).wr Reg.ARR_FLAGS_INVALID
    (getBits f 1 1) n).wr Reg.ARR_FLAGS_NAN_IN (getBits f 0 1) n).wr Reg.ARR_FLAGS_STEP_FLAGS
    (Nat.lor (s.rd Reg.ARR_FLAGS_STEP_FLAGS n) f) n)

/-- R55, R419: an op with N = 0 completes in the cycle it starts, with no flags. -/
def emptyArray (s : State) (n : Nat) : State :=
  let r := headRun s n
  let s1 := arrayFlags (issueAtOnce s n) n 0
  let k := s1.kite n
  s1.setKite n { k with opcArr := (k.opcArr.starts r).completes r 1 }

def startArray (s : State) (n : Nat) (w : Bool := false) : State :=
  fetchHead s n (fun s => if (headArray s n).n = 0 then emptyArray s n else acceptArray s n w)

/-! ### Stationary load (R29, R30, R34, R39, R63, R108, R115) -/

/-- R29, R32, R61: the op's tile may load: it has started, its operand is not loaded, and no fault stops it. -/
def canLoad (s : State) (n : Nat) (w : Bool := false) : Bool :=
  s.islandsRun && (match (s.kite n).tileNext with | some t => !t.loaded && opRuns s n t.run.idx w | none => false)

/-- R34: the live row mask as one number. -/
def rowMask (s : State) (n : Nat) : Nat :=
  s.rd Reg.ROW_MASK_ROWS n 0 + 2 ^ 32 * s.rd Reg.ROW_MASK_ROWS n 1 + 2 ^ 64 * s.rd Reg.ROW_MASK_ROWS n 2
    + 2 ^ 96 * s.rd Reg.ROW_MASK_ROWS n 3

/-- R21, R63: the bridle the tile resolves to; none is PROFILE_ILLEGAL (R27, R28, R63, R109, R126). -/
def resolveBridle (s : State) (n : Nat) (o : ArrayFields) : Option Nat :=
  let mode := s.rd Reg.ARR_PROFILE_MODE n o.profile
  let thin := s.rd Reg.ARR_PROFILE_SHAPE n o.profile == 1
  let fmt := entryFmt s o.layer
  if modeLegal mode fmt (entryBlk s o.layer) o && !(thin && o.wSrc == 0) then
    match bridleOf fmt thin (s.rd Reg.ARR_PROFILE_BRIDLE n o.profile) with
    | some b => if o.mLoad ≤ effRows thin b ∧ o.kActive ≤ effCols thin b then some b else none
    | none => none
  else none

/-- R39: effective row `m` of a tile is unmasked. -/
def Tile.unmasked (t : Tile) (m : Nat) : Bool := decide (m < t.op.mLoad) && bit t.mask m

/-- R110, R111: the codebook records a table-mode tile fills from. -/
def fillBooks (k : KiteState) (o : ArrayFields) : List (List Nat) :=
  (List.range (ceilDiv o.kActive (2 ^ o.cbGshift))).map (fun g =>
    (List.range 16).map (fun j => getBits (fileWord .codebook k.cb.live (4 * (o.cbBase + g) + j / 4)) (8 * (j % 4)) 8))

/-- R29, R30, R34, R39: the tile latches its profile, mask and epoch and loads its operand. -/
def loadTile (s : State) (n : Nat) (t : Tile) (b : Nat) : Tile :=
  let o := t.op
  let mode := s.rd Reg.ARR_PROFILE_MODE n o.profile
  let fmt := entryFmt s o.layer
  let blk := if mode = 0 then entryBlk s o.layer else 0
  let sf := stationaryFmt mode fmt o
  let t1 := { t with loaded := true, mode := mode, thin := s.rd Reg.ARR_PROFILE_SHAPE n o.profile == 1, bridle := b,
                     fmt := fmt, blk := blk, mask := rowMask s n, epoch := s.epoch }
  let k := s.kite n
  { t1 with
    rows := (List.range o.mLoad).map (fun m => if t1.unmasked m then operandRow k o sf m else []),
    scales := (List.range o.mLoad).map (fun m => if t1.unmasked m then operandScales k o sf blk m else []),
    books := if mode = 1 then fillBooks k o else [] }

/-- R30: a load of no rows or no columns reads nothing, so it meets nothing. -/
def loadMeets (o : ArrayFields) (env : OpEnv) : OpEnv := if o.mLoad = 0 ∨ o.kActive = 0 then {} else env

/-- R30, R47: the load reads the operand: beyond the scratchpad it faults LOAD_RANGE, on a double-bit error SP_UE. -/
def loadOperand (s : State) (n : Nat) (t : Tile) (b : Nat) (env : OpEnv) : State :=
  let t1 := loadTile s n t b
  let s0 := s.bump64 Reg.STAT_LOADS_LO Reg.STAT_LOADS_HI n
  if t.op.mLoad ≠ 0 ∧ spTop < operandEnd t.op (stationaryFmt t1.mode t1.fmt t.op) t1.blk then
    opFault s0 n 3 t.run.idx env.together
  else
    let (ue, s1) := meetErrors s0 n (loadMeets t.op env)
    match ue with
    | some row => faultSpUe s1 n row t.run.idx env.together
    | none =>
      let s2 := if t1.mode = 1 then s1.bump Reg.TBL_FILLS_FILLS n else s1
      let r := { t1.run with holds := t1.run.holds + opWaits (loadMeets t.op env) }
      ((s2.setKite n { s2.kite n with tileNext := some { t1 with run := r } }).wr Reg.ARR_STATUS_SHADOW_STATE 3 n).wr
        Reg.ARR_STATUS_LOAD_ROW (t.op.mLoad * b) n

def loadStationary (s : State) (n : Nat) (env : OpEnv) : State :=
  match (s.kite n).tileNext with
  | some t =>
    match resolveBridle s n t.op with
    | some b => loadOperand s n t b env
    | none => opFault (raise s Ev.kiteArr_PROFILE_ILLEGAL n) n 1 t.run.idx env.together
  | none => s

def execStationaryLoad (k : Kite) (env : OpEnv) (s : State) : Result :=
  whenOk (canLoad s (s.slotOf k) env.together) s (loadStationary s (s.slotOf k) env)

/-! ### Swap (R31, R32) -/

/-- R31, R61: the next tile is loaded and not stopped, and the live tile's last column has entered. -/
def canSwap (s : State) (n : Nat) : Bool :=
  s.islandsRun && (match (s.kite n).tileNext with | some t => t.loaded && opRuns s n t.run.idx false | none => false) &&
    (match (s.kite n).tileLive with | some t => t.streamed | none => true)

/-- R31: the sets exchange; ARR_STATUS shows the new live tile. -/
def swapTiles (s : State) (n : Nat) : State :=
  match (s.kite n).tileNext with
  | some t =>
    (((((s.setKite n { s.kite n with tileLive := some t, tileNext := none }).wr Reg.ARR_STATUS_LIVE_PROFILE
      t.op.profile n).wr Reg.ARR_STATUS_LIVE_BRIDLE (bridleCode t.bridle) n).wr Reg.ARR_STATUS_LIVE_SHAPE
      (ofBool t.thin) n).wr Reg.ARR_STATUS_LIVE_VALID 1 n).wr Reg.ARR_STATUS_SHADOW_STATE 0 n
  | none => s

def execTileSwap (k : Kite) (s : State) : Result :=
  whenOk (canSwap s (s.slotOf k)) s (swapTiles s (s.slotOf k))

/-! ### Columns (R35, R50 to R53, R120 to R122, R128) -/

/-- R50: the scratchpad address of entry `e` of a tile. -/
def accEntryAddr (s : State) (n : Nat) (o : ArrayFields) (e : Nat) : Nat :=
  s.rd Reg.ACC_BASE_ACC_BASE n * 4096 + o.accAddr + e * 4

/-- R51, R53: some accumulator access of the tile falls outside the area, or ACC_MODE is reserved. -/
def accOutside (s : State) (n : Nat) (t : Tile) : Bool :=
  let er := effRows t.thin t.bridle
  t.op.accMode == 3 || (List.range t.op.mLoad).any (fun m => t.unmasked m &&
    decide (s.rd Reg.ACC_SIZE_ACC_SIZE n * 4096 < t.op.accAddr + ((t.op.n - 1) * er + m + 1) * 4))

/-- The values of row `m` of a tile. -/
def tileRow (t : Tile) (m : Nat) : List Val :=
  blockValues (stationaryFmt t.mode t.fmt t.op) t.blk (t.scales.getD m []) (t.rows.getD m [])

/-- The weights of one column and how they are summed. -/
inductive Column where
  | vals (ws : List Val)
  | ints (ws : List Int)
deriving DecidableEq, Repr

/-- The row sum of a column with row `m`. -/
def columnSum (t : Tile) (c : Column) (m : Nat) : Nat × Flags :=
  match c with
  | .vals ws => rowSum (stationaryFmt t.mode t.fmt t.op) (tileRow t m) ws
  | .ints ws => sliceSum (tileRow t m) ws

/-- One entry stored: its flags are gathered, its class goes to the monitor. -/
structure Stored where
  flags : Flags
  cls : List EnvClass
deriving DecidableEq, Repr

/-- R18, R51, R144: column `j` enters: every unmasked row's sum meets its accumulator entry. -/
def enterColumn (s : State) (n k : Nat) (t : Tile) (j : Nat) (c : Column) (acc : Stored) : State × Stored :=
  let er := effRows t.thin t.bridle
  ((List.range t.op.mLoad).filter t.unmasked).foldl (fun (st : State × Stored) m =>
    let e := j * er + m
    let a := accEntryAddr st.1 n t.op e
    let old := leNat (spBytes (st.1.kite n) a 4)
    let r := accumulated t.op.accMode old (columnSum t c m) (kiteDraw s k t.op.srStream e)
    (st.1.spWrite n a (leBytes 4 r.1), { flags := st.2.flags.or r.2, cls := classArray r.1 r.2 :: st.2.cls })) (s, acc)

/-- A table-mode column as parsed, with where it ends, and the first failure of R121. -/
structure TableCol where
  ws : List Val
  escapes : Nat
  fail : Option (Nat × Nat × Nat)
  fin : Nat
deriving DecidableEq, Repr

/-- R119, R121: `n` columns of a table-mode stream, up to the first that fails. -/
def tableColumns : Nat → Tile → Bytes → Nat → List TableCol
  | 0, _, _, _ => []
  | n + 1, t, bs, o =>
    let (codes, bl, e) := tableColumn t.op.kActive bs o
    let f := escFailure codes bl
    let c : TableCol := { ws := tableWeights t codes bl, escapes := (bl.map (fun b => b.entries.length)).sum, fail := f,
                          fin := e }
    if f.isSome then [c] else c :: tableColumns n t bs e

/-- R119: the longest a table-mode column can be. -/
def tableColumnMax (t : Tile) : Nat := ceilDiv t.op.kActive 2 + 31 * ceilDiv t.op.kActive 128

/-- The columns of a direct or slice-mode stream. -/
def plainColumns (t : Tile) (bs : Bytes) (m : Nat) : List Column :=
  (List.range m).map (fun j =>
    let col := (bs.drop (j * columnBytes t)).take (columnBytes t)
    if t.mode = 2 then .ints (sliceWeights t col) else .vals (directWeights t col))

/-- R122, R142: an escape overrun: ESC_FAULT latches when KITE_FAULT latches it, and its event is raised then. -/
def escOverrun (s : State) (n idx column : Nat) (f : Nat × Nat × Nat) (w : Bool) : State :=
  let x : KiteFault := { code := 7, op := idx, esc := some (f.1, f.2.1, f.2.2, column) }
  let latches := s.rd Reg.KITE_FAULT_CODE n == 0 || outranks s n x w
  kiteFault (if latches then raise s Ev.kiteArr_ESC_OVERRUN n else s) n x w

/-- R56, R82: the events an op's results raise in the array page. -/
def arrayEvents (s : State) (n : Nat) (r : Stored) : State :=
  let s1 := if r.cls.any (fun c => c.col == .nans) then raise s Ev.kiteArr_NAN_OUT n else s
  let s2 := if r.cls.any (fun c => c.col == .clipped) then raise s1 Ev.kiteArr_OF_OUT n else s1
  if r.flags.invalid then raise s2 Ev.kiteArr_INVALID n else s2

/-- The columns of a live tile that enter, and what stops the stream after them. -/
structure Stream where
  cols : List Column
  escapes : Nat := 0
  skips : Nat := 0
  esc : Option (Nat × Nat × Nat × Nat) := none
deriving DecidableEq, Repr

/-- R35, R119, R127: the columns in the stream's first `m` bytes. -/
def streamColumns (s : State) (n : Nat) (t : Tile) (bs : Bytes) (m : Nat) : Stream :=
  if t.mode = 1 then
    let cs := (tableColumns t.op.n t bs 0).takeWhile (fun c => decide (c.fin ≤ m))
    let good := cs.filter (fun c => c.fail.isNone)
    { cols := good.map (fun c => .vals c.ws), escapes := (good.map TableCol.escapes).sum,
      esc := (cs.find? (fun c => c.fail.isSome)).bind (fun c => c.fail.map (fun f => (f.1, f.2.1, f.2.2, good.length))) }
  else
    let cb := columnBytes t
    let nc := if cb = 0 then t.op.n else min t.op.n (m / cb)
    { cols := plainColumns t bs nc,
      skips := if t.mode = 2 ∧ s.rd Reg.GATE_CTL_ZERO_GATE_EN n = 1 then
          ((List.range nc).map (fun j => sliceSkips t ((bs.drop (j * cb)).take cb))).sum else 0 }

/-- R36: the bytes of the stream as its source holds them now. -/
def streamBytes (s : State) (n : Nat) (t : Tile) (len : Nat) : Bytes :=
  if t.op.wSrc = 1 then spBytes (s.kite n) t.base len else memBytes s t.base len

/-- R35, R119: the bytes the op's N columns take. -/
def streamLength (s : State) (n : Nat) (t : Tile) : Nat :=
  if t.mode = 1 then
    match (tableColumns t.op.n t (streamBytes s n t (t.op.n * tableColumnMax t)) 0).getLast? with
    | some c => c.fin
    | none => 0
  else t.op.n * columnBytes t

/-- R36, R470, R61: the stream reaches beyond the scratchpad or beyond 736 GiB. -/
def streamOutside (t : Tile) (len : Nat) : Bool :=
  if t.op.wSrc = 1 then decide (spTop < t.base + len) else decide (hbmTop < t.base + len)

/-- R18, R120, R130: the columns that entered are counted and their results stored. -/
def runColumns (s : State) (n k : Nat) (t : Tile) (st : Stream) : State × Stored :=
  let r := st.cols.zipIdx.foldl (fun (a : State × Stored) c => enterColumn a.1 n k t c.2 c.1 a.2)
    (s, { flags := {}, cls := [] })
  let s1 := (r.1.bump64 Reg.STREAM_COLS_LO Reg.STREAM_COLS_HI n st.cols.length).bump Reg.ESC_SUBST_SUBSTS n 0 st.escapes
  let s2 := envRecord (s1.bump64 Reg.SLICE_SKIP_LO Reg.SLICE_SKIP_HI n st.skips) n t.op.tag r.2.cls.reverse
  (arrayEvents s2 n r.2, r.2)

/-- The tile's last column has entered: the op's run, with its flags and held cycles, waits for its completion. -/
def finishStream (s : State) (n : Nat) (t : Tile) (r : Stored) (holds : Nat) : State :=
  let k := s.kite n
  let run := { t.run with flags := r.flags.toNat % 16, holds := t.run.holds + holds }
  showStream (s.setKite n { k with tileLive := some { t with streamed := true, run := run }, arr := k.arr ++ [run] }) n

/-- R37: each cycle of held column entry is counted, with its event. -/
def countBubbles (s : State) (n b : Nat) : State :=
  raiseTimes (s.bump Reg.WEIGHT_BUBBLES_BUBBLES n 0 b) Ev.kiteArr_WEIGHT_BUBBLE n b

/-- R53, R61: the faults that keep every column of the live tile out, the lowest code first (R124). -/
def streamFaults (s : State) (n : Nat) (t : Tile) (len : Nat) : List Nat :=
  (if accOutside s n t then [2] else []) ++ (if streamOutside t len then [3] else [])

/-- R36, R208, R212: an HBM stream is read through the spool and charged; answers the lost transfers in the stream's order. -/
def fetchStream (s : State) (t : Tile) (len : Nat) : List Nat × State :=
  if t.op.wSrc = 1 then ([], s) else (memRead (chargeRange s t.op.part t.base len) t.base len t.hint).2

/-- R35 to R56, R120 to R128: the live tile's columns enter and their results are written. -/
def streamTile (s : State) (n k : Nat) (t : Tile) (env : OpEnv) : State :=
  let len := streamLength s n t
  match streamFaults s n t len with
  | c :: cs => faultTogether (if c = 2 then raise s Ev.kiteArr_ACC_RANGE n else s) n t.run.idx (c :: cs) env.together
  | [] =>
    let bs := streamBytes s n t len
    let (lost, s1) := fetchStream s t len
    let (spUe, s2) := meetErrors s1 n env
    let st := streamColumns s n t bs (match lost with | a :: _ => a - t.base | [] => len)
    if let some row := spUe then faultSpUe s2 n row t.run.idx env.together
    else
      let (s3, r) := runColumns (countBubbles s2 n (opHeld env)) n k t st
      match lost, st.esc with
      | _ :: _, _ => losesData (lost.foldl uncorrectableRead s3) lost .fetch
      | [], some (c, b, cnt, col) => escOverrun s3 n t.run.idx col (c, b, cnt) env.together
      | [], none => finishStream s3 n t r (opHeld env + env.stalls)

/-- R213, R225: the reads of an HBM stream wait. -/
def streamWaits (s : State) (n : Nat) (t : Tile) : Bool :=
  let len := streamLength s n t
  t.op.wSrc == 0 && streamFaults s n t len == [] && mustWait s t.op.part t.base len

/-- The live tile waits for its columns, no fault stops it (R61), and its reads may proceed. -/
def canStream (s : State) (n : Nat) (w : Bool := false) : Bool :=
  s.islandsRun && (match (s.kite n).tileLive with
    | some t => !t.streamed && opRuns s n t.run.idx w && !streamWaits s n t
    | none => false)

def streamLive (s : State) (n k : Nat) (env : OpEnv) : State :=
  match (s.kite n).tileLive with
  | some t => streamTile s n k t env
  | none => s

def execArrayOp (k : Kite) (part : ArrayPart) (s : State) : Result :=
  match part with
  | .start w => whenOk (canStartArray s k w) s (startArray s (s.slotOf k) w)
  | .stream env => whenOk (canStream s (s.slotOf k) env.together) s (streamLive s (s.slotOf k) k env)

/-! ### Completion of an array op (R55, R82, 15 R419) -/

/-- The op at the head of the array's completions ends. -/
def completeArray (s : State) (n : Nat) : State :=
  let k := s.kite n
  match k.arr with
  | r :: rest =>
    let c := kiteCycles s (s.tick - r.start) + 1
    let last := match k.tileLive with | some t => t.run.idx == r.idx | none => false
    let s1 := s.setKite n { k with arr := rest, opcArr := k.opcArr.completes r c,
                                   tileLive := if last then none else k.tileLive }
    let s2 := arrayFlags s1 n r.flags
    showStream (completeRun (if last then s2.wr Reg.ARR_STATUS_LIVE_VALID 0 n else s2) n r) n
  | [] => s

end Sys2Proof.Machine
end

