-- ==== Sys2Proof/Machine/Transcendental.lean ====
section
/-! DEFINITION. The correctly rounded functions of the vector engine (05 R187) and of the reel: values in fixed point of
320 fraction bits, rounded once. The exact cases are taken apart; every other result is irrational, and the model takes
it that none lies within 2^−280 of a rounding boundary (log 14). -/

namespace Sys2Proof.Machine

/-- Fraction bits of the fixed-point values. -/
def fxBits : Nat := 320

/-- 1.0. -/
def fxOne : Nat := 2 ^ fxBits

/-- ln 2. -/
def fxLn2 : Nat :=
  1480553391661173448385607439722553250922680800745876974795605978609098082859138712941075737848984

/-- A finite value as fixed point, bits below 2^−320 cut off. -/
def toFx (neg : Bool) (m : Nat) (e : Int) : Int :=
  let k := e + (fxBits : Int)
  let a := if 0 ≤ k then shl m k.toNat else m / 2 ^ (-k).toNat
  if neg then -(a : Int) else a

/-- The terms r^n / n! from n onward, `term` the one before. -/
def expTerms : Nat → Nat → Nat → Nat → Nat
  | 0, _, _, _ => 0
  | fuel + 1, n, term, r => term + expTerms fuel (n + 1) (term * r / fxOne / n) r

/-- e^r for 0 ≤ r < 1. -/
def fxExp (r : Nat) : Nat := expTerms 90 1 fxOne r

/-- The terms p × (z²)^j / (2j + 1) from j onward. -/
def atanhTerms : Nat → Nat → Nat → Nat → Nat
  | 0, _, _, _ => 0
  | fuel + 1, j, p, z2 => p / (2 * j + 1) + atanhTerms fuel (j + 1) (p * z2 / fxOne) z2

/-- ln f for 1 ≤ f < 2. -/
def fxLn (f : Nat) : Nat :=
  let z := (f - fxOne) * fxOne / (f + fxOne)
  2 * atanhTerms 110 0 z (z * z / fxOne)

/-- ln of a positive finite value, signed. -/
def fxLog (m : Nat) (e : Int) : Int :=
  let l := Nat.log2 m
  ((l : Int) + e) * fxLn2 + fxLn (m * fxOne / 2 ^ l)

/-- A magnitude and exponent of e^x: y × 2^k with y fixed point in [1, 2). -/
def fxExpParts (x : Int) : Nat × Int :=
  let k := x / (fxLn2 : Int)
  (fxExp (x - k * fxLn2).toNat, k - fxBits)

/-- The FP32 result of a signed fixed-point value whose bits go on below. -/
def fxRound (v : Int) : Nat × Flags := roundFp32 .rne (decide (v < 0)) true 0 v.natAbs (-(fxBits : Int))

def infCode (neg : Bool) : Nat := if neg then 0xFF800000 else 0x7F800000

def zeroCode (neg : Bool) : Nat := if neg then 0x80000000 else 0

/-- R187 EXP of a finite value. -/
def expResult (neg : Bool) (m : Nat) (e : Int) : Nat × Flags :=
  if m = 0 then (0x3F800000, {})
  else if neg && decide (7 ≤ floorLog2 m e) then (0, { unf := true })
  else if !neg && decide (7 ≤ floorLog2 m e) then (infCode false, { ovf := true })
  else
    let (y, k) := fxExpParts (toFx neg m e)
    roundFp32 .rne false true 0 y k

/-- R187 EXP2 of a finite value: an integer gives the exact power. -/
def exp2Result (neg : Bool) (m : Nat) (e : Int) : Nat × Flags :=
  if m = 0 then (0x3F800000, {})
  else if 8 ≤ floorLog2 m e then (if neg then (0, { unf := true }) else (infCode false, { ovf := true }))
  else
    let x := toFx neg m e
    let k := x / (fxOne : Int)
    let f := (x - k * fxOne).toNat
    if f = 0 then roundFp32 .rne false false 0 1 k
    else roundFp32 .rne false true 0 (fxExp (f * fxLn2 / fxOne)) (k - fxBits)

/-- R187 LOG of a positive finite value. -/
def logResult (m : Nat) (e : Int) : Nat × Flags :=
  let v := fxLog m e
  if m = 2 ^ Nat.log2 m ∧ (Nat.log2 m : Int) + e = 0 then (0, {}) else fxRound v

/-- R187 LOG2 of a positive finite value: an exact power of two gives its exponent. -/
def log2Result (m : Nat) (e : Int) : Nat × Flags :=
  if m = 2 ^ Nat.log2 m then toFp32 (Val.ofInt ((Nat.log2 m : Int) + e))
  else fxRound (fxLog m e * (fxOne : Int) / (fxLn2 : Int))

/-- Square root of a positive finite value, correctly rounded. -/
def sqrtResult (m : Nat) (e : Int) : Nat × Flags :=
  let k := 128 + (if (e % 2) = 0 then 0 else 1)
  let n := shl m k
  let r := isqrt n
  roundFp32 .rne false (r * r != n) 0 r ((e - k) / 2)

/-- Reciprocal square root of a positive finite value, correctly rounded. -/
def rsqrtResult (m : Nat) (e : Int) : Nat × Flags :=
  let m1 := if e % 2 = 0 then m else 2 * m
  let e1 := if e % 2 = 0 then e else e - 1
  let k := 96 + Nat.log2 m1
  let r := isqrt (2 ^ (2 * k) / m1)
  roundFp32 .rne false (r * r * m1 != 2 ^ (2 * k)) 0 r (-(k : Int) - e1 / 2)

/-- The quotient a / b of finite values, b non-zero, to 128 bits with one more for what lies below: one rounding of it
to any format equals one rounding of the exact quotient. -/
def quotient (a b : Val) : Val :=
  match a, b with
  | .fin n m e, .fin n' m' e' =>
    if m = 0 then .fin (n != n') 0 0
    else
      let sh := 128 + Nat.log2 m' - Nat.log2 m
      let num := shl m sh
      .fin (n != n') (2 * (num / m') + ofBool (num % m' != 0)) (e - e' - (sh : Int) - 1)
  | _, _ => .nan

end Sys2Proof.Machine
end

