-- ==== Sys2Proof/Machine/MicroOps.lean ====
section
/-! DEFINITION. The element programs of the vector engine: micro-ops and their flags (05 R184 to R187). -/

namespace Sys2Proof.Machine

/-- The NaN every result uses (R70). -/
def qnan : Nat := 0x7FC00000

def nanInFlag : Flags := { nanIn := true }

def invalidFlag : Flags := { invalid := true }

/-- R184: with FTZ a subnormal becomes a zero of its sign; the flush raises UF. -/
def flush (ftz : Bool) (c : Nat) : Nat × Flags :=
  let mag := c % 2 ^ 31
  if ftz && decide (0 < mag) && decide (mag < 2 ^ 23) then (c - mag, { unf := true }) else (c, {})

def isNanCode (c : Nat) : Bool := (fp32 c).isNan

/-- An exact result rounded once; NaN here is an invalid operation (R185). -/
def fpResult (v : Val) : Nat × Flags := if v.isNan then (qnan, invalidFlag) else toFp32 v

/-- A key that orders FP32 codes with −0 below +0. -/
def orderKey (c : Nat) : Int := if 2 ^ 31 ≤ c then -((c % 2 ^ 31 : Nat) : Int) - 1 else (c : Int)

/-- R185 MIN and MAX of two codes that are not NaN. -/
def minMax (max : Bool) (a b : Nat) : Nat := if decide (orderKey a ≤ orderKey b) != max then a else b

/-- R185 FLOOR and RINT: an integer keeps its sign at zero (DEDUCED, log 33). -/
def toIntegral (rne : Bool) (c : Nat) : Nat × Flags :=
  match fp32 c with
  | .fin neg m e =>
    let r := roundAt (if rne then .rne else .rdn) neg false 0 m e 0
    if r.i = 0 then (zeroCode neg, {}) else toFp32 (.fin neg r.i 0)
  | _ => (c, {})

/-- R185 QDQ: a value through format `fmt` and back. -/
def qdq (c imm d : Nat) : Nat × Flags :=
  let fmt := getBits imm 0 4
  let cv := convert (fp32 c) (fp32 0x3F800000) fmt ((rndOf (getBits imm 4 3)).getD .rne) (bit imm 7) d
  let fl : Flags := { cv.flags with clips := 0 }
  if isNanCode c then (qnan, { fl with nanIn := true, invalid := !fmtHasNan fmt })
  else
    let v := decodeFmt fmt cv.code
    if v.isNan then (qnan, fl) else ((toFp32 v).1, fl)

/-- R187: RCP. Every result below 2^−126 raises UF (DEDUCED, log 35). -/
def rcp (c : Nat) : Nat × Flags :=
  match fp32 c with
  | .fin neg m e =>
    if m = 0 then (infCode neg, { dz := true })
    else
      let r := divFp32 (.fin false 1 0) (.fin neg m e)
      (r.1, { r.2 with unf := decide (r.1 % 2 ^ 31 < 2 ^ 23) })
  | .inf neg => (zeroCode neg, {})
  | .nan => (qnan, nanInFlag)

/-- R187: a function of a non-negative operand: zero, infinity and negatives apart. -/
def ofPositive (zero : Nat × Flags) (inf : Nat) (g : Nat → Int → Nat × Flags) (c : Nat) : Nat × Flags :=
  match fp32 c with
  | .fin neg m e => if m = 0 then zero else if neg then (qnan, invalidFlag) else g m e
  | .inf neg => if neg then (qnan, invalidFlag) else (inf, {})
  | .nan => (qnan, nanInFlag)

/-- R187: e^A and 2^A, infinities apart. -/
def ofAny (g : Bool → Nat → Int → Nat × Flags) (c : Nat) : Nat × Flags :=
  match fp32 c with
  | .fin neg m e => g neg m e
  | .inf neg => (if neg then 0 else infCode false, {})
  | .nan => (qnan, nanInFlag)

/-- The operands a micro-op reads: A, A and B, or A, B and C (R185). -/
def operandCount (opc : Nat) : Nat :=
  if opc = 0x10 ∨ opc = 0 then 0
  else if opc = 4 ∨ opc = 0xC then 3
  else if (1 ≤ opc ∧ opc ≤ 6) ∨ (9 ≤ opc ∧ opc ≤ 0xB) then 2
  else 1

/-- R185: the result of a micro-op on operands none of which is NaN (QDQ and RAND aside). -/
def microCore (opc a b c imm d : Nat) : Nat × Flags :=
  match opc with
  | 0x01 => fpResult ((fp32 a).add (fp32 b))
  | 0x02 => fpResult ((fp32 a).sub (fp32 b))
  | 0x03 => fpResult ((fp32 a).mul (fp32 b))
  | 0x04 => fpResult (((fp32 a).mul (fp32 b)).add (fp32 c))
  | 0x05 => (minMax false a b, {})
  | 0x06 => (minMax true a b, {})
  | 0x07 => (a % 2 ^ 31, {})
  | 0x08 => (Nat.xor a (2 ^ 31), {})
  | 0x09 => (if (fp32 a).cmp (fp32 b) < 0 then 0x3F800000 else 0, {})
  | 0x0A => (if (fp32 a).cmp (fp32 b) ≤ 0 then 0x3F800000 else 0, {})
  | 0x0B => (if (fp32 a).cmp (fp32 b) = 0 then 0x3F800000 else 0, {})
  | 0x0C => (if a % 2 ^ 31 = 0 then c else b, {})
  | 0x0D => toIntegral false a
  | 0x0E => toIntegral true a
  | 0x0F => qdq a imm d
  | 0x10 => ((toFp32 (.fin false (d % 65536) (-16))).1, {})
  | 0x11 => ofPositive (a, {}) (infCode false) sqrtResult a
  | 0x12 => rcp a
  | 0x13 => ofPositive (infCode (bit a 31), { dz := true }) 0 rsqrtResult a
  | 0x14 => ofAny exp2Result a
  | 0x15 => ofPositive (infCode true, { dz := true }) (infCode false) log2Result a
  | 0x16 => ofAny expResult a
  | 0x17 => ofPositive (infCode true, { dz := true }) (infCode false) logResult a
  | _ => (a, {})

/-- R185: a NaN operand: comparisons give +0, all else NaN. -/
def microNan (opc : Nat) : Nat × Flags :=
  (if opc = 0x09 ∨ opc = 0x0A ∨ opc = 0x0B then 0 else qnan, nanInFlag)

/-- R184, R185: one micro-op on operand codes, FTZ applied to what it reads and to its result. -/
def microOp (ftz : Bool) (opc a0 b0 c0 imm d : Nat) : Nat × Flags :=
  let n := operandCount opc
  let (a, fa) := if 1 ≤ n then flush ftz a0 else (a0, {})
  let (b, fb) := if 2 ≤ n then flush ftz b0 else (b0, {})
  let (c, fc) := if 3 ≤ n then flush ftz c0 else (c0, {})
  let fl := (fa.or fb).or fc
  let nan := (decide (1 ≤ n) && isNanCode a) || (decide (2 ≤ n) && isNanCode b) || (decide (3 ≤ n) && isNanCode c)
  let r := if nan && opc != 0x0F then microNan opc else microCore opc a b c imm d
  let (v, fv) := flush ftz r.1
  (v, (fl.or r.2).or fv)

/-! ### Programs (R185, R186) -/

def opcOf (w : Nat) : Nat := getBits w 26 6

/-- R186: a RAND, or a QDQ under SR. -/
def drawsWord (w : Nat) : Bool := opcOf w == 0x10 || (opcOf w == 0x0F && getBits w 4 3 == 4)

/-- R186: a word that no program that can run may hold. -/
def wordIllegal (w : Nat) : Bool :=
  let o := opcOf w
  decide (0x18 ≤ o) || ((o == 4 || o == 0xC) && bit w 25)
    || (o == 0x0F && (!bit w 25 || getBits w 0 4 == 0xA || decide (0xD ≤ getBits w 0 4) || decide (5 ≤ getBits w 4 3)
        || getBits w 8 8 != 0))

/-- R186, R197: the micro-ops that can run break the rules. -/
def programIllegal (ws : List Nat) (reduce : Bool) : Bool :=
  let n := (ws.filter drawsWord).length
  ws.any wordIllegal || decide (1 < n) || (reduce && decide (0 < n))

/-- Where a NaN arose (R193): KIND, SOURCE, UOP, CARRY, and the flags so far. -/
structure NanAt where
  kind : Nat
  source : Nat
  uop : Nat
  carry : Nat
  flags : Flags
deriving DecidableEq, Repr

/-- An element in its program: the temporaries, flags, and the first NaN. -/
structure Elem where
  t : List Nat
  flags : Flags
  nan : Option NanAt
deriving DecidableEq, Repr

/-- R185: micro-op `j` with word `w` on an element; `d` is its draw. -/
def microStep (ftz : Bool) (x : Elem) (w j d : Nat) : Elem :=
  let imm := w % 65536
  let b := if bit w 25 then imm * 65536 else x.t.getD (getBits w 16 3) 0
  let r := microOp ftz (opcOf w) (x.t.getD (getBits w 19 3) 0) b (x.t.getD (getBits w 13 3) 0) imm d
  let fl := x.flags.or r.2
  { t := x.t.set (getBits w 22 3) r.1, flags := fl,
    nan := match x.nan with
      | some y => some y
      | none => if isNanCode r.1 then some { kind := 1, source := 2, uop := j, carry := 0, flags := fl } else none }

/-- R180: an element's value enters as FP32: code, flags, and whether a NaN was consumed. -/
def loadElem (ftz nonsat : Bool) (v : Val) : Nat × Flags :=
  if v.isNan then (qnan, nanInFlag)
  else
    let c := convertVal 0 .rne nonsat 0 v
    let r := flush ftz c.code
    (r.1, ({ c.flags with clips := 0 } : Flags).or r.2)

/-- R184: the program runs on elements A and B; `d` is the element's draw from RNG_STREAM. -/
def runProgram (ftz nonsat : Bool) (ws : List Nat) (d : Nat) (a : Val) (b : Option Val) : Elem :=
  let ra := loadElem ftz nonsat a
  let rb := match b with
    | some v => loadElem ftz nonsat v
    | none => (0, {})
  let fl := ra.2.or rb.2
  let nan := if a.isNan then some { kind := 0, source := 0, uop := 0, carry := 0, flags := ra.2 }
    else match b with
      | some v => if v.isNan then some { kind := 0, source := 1, uop := 0, carry := 0, flags := fl } else none
      | none => none
  ws.zipIdx.foldl (fun x w => microStep ftz x w.1 w.2 d) { t := [ra.1, rb.1, 0, 0, 0, 0, 0, 0], flags := fl, nan := nan }

/-- R190: what a carry starts from. -/
def redIdentity (red : Nat) : Nat := if red = 1 then infCode true else if red = 2 then infCode false else 0

/-- R190: two values combined: ADD in FP32, MAX, MIN. -/
def combine (ftz : Bool) (red a b : Nat) : Nat × Flags :=
  microOp ftz (if red = 1 then 0x06 else if red = 2 then 0x05 else 0x01) a b 0 0 0

end Sys2Proof.Machine
end

