-- ==== Sys2Proof/Machine/Vector.lean ====
section
/-! DEFINITION. The vector engine's ops MAP, CONV, SCAN, REDUCE, RESCALE and RNG (05 R175 to R197, 03 R133, R134, 07 R251,
R253), and the store with its block scales (02 R96, 05 R181). -/

namespace Sys2Proof.Machine

/-! ### Fields (R251, R253) -/

/-- A vector op's fields, RESCALE's own among them. -/
structure VecFields where
  vop : Nat
  prog : Nat
  n : Nat
  aAddr : Nat
  dstAddr : Nat
  rnd : Nat
  nonsat : Bool
  nanPass : Bool
  ftz : Bool
  msel : Bool
  srcTs : Bool
  second : Bool
  redOp : Nat
  excl : Bool
  foldEn : Bool
  aFmt : Nat
  aBlk : Nat
  aFollow : Bool
  follow : Bool
  dstFmt : Nat
  dstBlk : Nat
  layer : Nat
  tag : Nat
  srcTag : Nat
  srStream : Nat
  rngStream : Nat
  m : Nat
  aSaddr : Nat
  dstSaddr : Nat
  bFmt : Nat
  bAddr : Nat
  chAxis : Bool
  scaleSrc : Bool
  biasEn : Bool
  foldX : Nat
  foldW : Nat
  ncol : Nat
  rows : Nat
  chBase : Nat
  scAddr : Nat
deriving DecidableEq, Repr

/-- R251, R253: the fields of a vector op from its two records. -/
def vecFields (w x : Nat) : VecFields :=
  { vop := getBits w 83 3, prog := getBits w 76 7, n := getBits w 52 24, aAddr := getBits w 33 19 * 16,
    dstAddr := getBits w 14 19 * 16, rnd := getBits w 11 3, nonsat := bit w 10, nanPass := bit w 9, ftz := bit w 8,
    msel := bit w 7, srcTs := bit w 6, second := bit w 5, redOp := getBits w 3 2, excl := bit w 2, foldEn := bit w 1,
    aFmt := getBits x 124 4, aBlk := getBits x 122 2, aFollow := bit x 121, follow := bit x 120,
    dstFmt := getBits x 116 4, dstBlk := getBits x 114 2, layer := getBits x 106 8, tag := getBits x 98 8,
    srcTag := getBits x 90 8, srStream := getBits x 74 16, rngStream := getBits x 58 16,
    m := getBits x 26 32, aSaddr := getBits x 42 16 * 128, dstSaddr := getBits x 26 16 * 128,
    bFmt := getBits x 22 4, bAddr := getBits x 3 19 * 16,
    chAxis := bit x 127, scaleSrc := bit x 126, biasEn := bit x 125, foldX := getBits x 90 8, foldW := getBits x 66 8,
    ncol := getBits x 50 16, rows := getBits x 42 8, chBase := getBits x 14 12, scAddr := getBits x 0 14 * 512 }

/-! ### The store (R96, R181) -/

/-- R96: the exponent a block's scale leaves for its elements. -/
def blockEmax (fmt : Nat) : Int :=
  match fmt with | 3 => 8 | 4 => 15 | 5 => 4 | 6 => 2 | 7 => 2 | 8 => 6 | 9 => 2 | _ => 0

/-- R96: the largest exponent of a block's finite non-zero elements. -/
def blockTop (us : List Val) : Option Int := windowTop us

/-- R96: the scale exponent of a block without NaN. -/
def blockExp (fmt : Nat) (us : List Val) : Int :=
  match blockTop us with
  | some t => max (-127) (min 127 (t - blockEmax fmt))
  | none => -127

/-- R181: the multiplier of a store: a literal or tag M, or a division by the tag scale. -/
inductive StoreScale where
  | times (m : Val)
  | divBy (t : Nat)
deriving DecidableEq, Repr

/-- R89, R91, R181: the value u of a store, infinities kept as they are. -/
def storeValue (v : Val) (sc : StoreScale) : Val :=
  match sc with
  | .times m => if m.isNan then .nan else if v.isInf then v else v.mul m
  | .divBy t =>
    let d := fp32 t
    if v.isNan || d.isNan then .nan else if v.isInf then v
    else if d.isInf then .zero (v.neg != d.neg) else quotient v d

/-- R181: whether a store divides a finite value by a zero tag scale. -/
def overZero (v : Val) (sc : StoreScale) : Bool :=
  match sc with
  | .divBy t => v.isFinite && (fp32 t).isZero
  | .times _ => false

/-- R89, R181: one element without block scale. -/
def storeElem (fmt : Nat) (rnd : Rnd) (nonsat : Bool) (sc : StoreScale) (d : Nat) (v : Val) : Conv :=
  if overZero v sc then { code := Config.overZero fmt (toFp32 v).1 % 2 ^ fmtBits fmt }
  else convertVal fmt rnd nonsat d (storeValue v sc)

/-- R96: one block: its scale code and its elements. -/
def storeBlock (fmt : Nat) (rnd : Rnd) (nonsat : Bool) (us : List (Val × Nat)) : Nat × List Conv :=
  if us.any (fun u => u.1.isNan) then
    (255, us.map (fun _ => { code := nanCode fmt, flags := nanInFlag }))
  else
    let e := blockExp fmt (us.map Prod.fst)
    ((e + 127).toNat, us.map (fun u => convertVal fmt rnd nonsat u.2 (u.1.scale2 (-e))))

/-- The list cut into blocks of `k`. -/
def chunks {α : Type} : Nat → Nat → List α → List (List α)
  | 0, _, _ => []
  | fuel + 1, k, l => if l.isEmpty then [] else l.take k :: chunks fuel k (l.drop k)

/-- R181, R96: every element stored, with the block scales. -/
def storeAll (fmt blk : Nat) (rnd : Rnd) (nonsat : Bool) (sc : StoreScale) (vs : List (Val × Nat)) :
    List Conv × List Nat :=
  if blk = 0 then (vs.map (fun v => storeElem fmt rnd nonsat sc v.2 v.1), [])
  else
    let bs := (chunks vs.length (blockSize blk) (vs.map (fun v => (storeValue v.1 sc, v.2)))).map
      (storeBlock fmt rnd nonsat)
    ((bs.map Prod.snd).flatten, bs.map Prod.fst)

/-- R69, R193: element codes written at `a`; bits of the last byte beyond them keep their contents. -/
def writePacked (s : State) (n a bits : Nat) (cs : List Nat) : State :=
  let len := packedBytes bits cs.length
  let old := leNat (spBytes (s.kite n) a len)
  let used := bits * cs.length
  s.spWrite n a (leBytes len (packNat bits cs + old / 2 ^ used * 2 ^ used))

/-! ### Reading the sources (R72, R177, R180, R189) -/

/-- The ranges a vector op reads and writes (R177): address and bytes. A range of no bytes touches nothing. -/
def rangesOutside (rs : List (Nat × Nat)) : Bool := rs.any (fun r => r.2 != 0 && decide (spTop < r.1 + r.2))

/-- The formats an op reads A and writes its destination in (R162, R176). -/
def aFormat (s : State) (o : VecFields) : Nat × Nat :=
  if o.aFollow then (entryFmt s o.layer, entryBlk s o.layer) else (o.aFmt, o.aBlk)

def dstFormat (s : State) (o : VecFields) : Nat × Nat :=
  if o.follow then (entryFmt s o.layer, entryBlk s o.layer) else (o.dstFmt, o.dstBlk)

/-- R72, R180: the exact values of A: element, block scale, TAG_SCALE of SRC_TAG. -/
def aValues (s : State) (n : Nat) (o : VecFields) : List Val :=
  let k := s.kite n
  let (fmt, blk) := aFormat s o
  let cs := unpackBits (fmtBits fmt) o.n (spBytes k o.aAddr (packedBytes (fmtBits fmt) o.n))
  let scs := (spBytes k o.aSaddr (blocksOf blk o.n)).map BitVec.toNat
  (blockValues fmt blk scs cs).map (fun v => if o.srcTs then v.mul (tagScale s o.srcTag) else v)

/-- R176: the values of B, when B_EN is 1. -/
def bValues (s : State) (n : Nat) (o : VecFields) : List Val :=
  if o.vop = 0 ∧ o.second then
    (unpackBits (fmtBits o.bFmt) o.n (spBytes (s.kite n) o.bAddr (packedBytes (fmtBits o.bFmt) o.n))).map
      (decodeFmt o.bFmt)
  else []

/-- R189: element `i` starts a segment. -/
def startsSegment (k : KiteState) (o : VecFields) (i : Nat) : Bool :=
  i == 0 || (o.second && bit (leNat (spBytes k (o.bAddr + i / 8) 1)) (i % 8))

/-- R184, R188: the micro-ops of program PROG of the live bank that can run. -/
def programWords (k : KiteState) (p : Nat) : List Nat :=
  ((List.range 32).map (fun i => fileWord .program k.vp.live (32 * p + i))).takeWhile (fun w => opcOf w != 0)

/-! ### Entries: what is stored, in output order -/

/-- A value to store: exact, with the flags of its making, its first NaN, and the element it belongs to. -/
structure Entry where
  v : Val
  flags : Flags
  nan : Option NanAt
  el : Nat
deriving DecidableEq, Repr

/-- R184: element `i` of a MAP, SCAN or REDUCE through its program. -/
def vecElem (s : State) (k : Nat) (o : VecFields) (ws : List Nat) (i : Nat) (a : Val) (b : Option Val) : Elem :=
  runProgram o.ftz o.nonsat ws (if ws.any drawsWord then kiteDraw s k o.rngStream i else 0) a b

def entryOf (x : Elem) (i : Nat) : Entry := { v := fp32 (x.t.getD 0 0), flags := x.flags, nan := x.nan, el := i }

/-- R184: the entries of a MAP. -/
def mapEntries (s : State) (n k : Nat) (o : VecFields) (ws : List Nat) : List Entry :=
  let bs := bValues s n o
  (aValues s n o).zipIdx.map (fun e => entryOf (vecElem s k o ws e.2 e.1 bs[e.2]?) e.2)

/-- R181: the entries of a CONV: the exact scaled values. -/
def convEntries (s : State) (n : Nat) (o : VecFields) : List Entry :=
  (aValues s n o).zipIdx.map (fun e =>
    { v := e.1, flags := {}, el := e.2,
      nan := if e.1.isNan then some { kind := 0, source := 0, uop := 0, carry := 0, flags := nanInFlag } else none })

/-- R193: a NaN that arises as a carry or combination. An element that yields a NaN both there and in the store of its value (an
exclusive SCAN stores the carry it had) reports the combination (DESIGN CHOICE, log 90). -/
def carryNan (old : Option NanAt) (c : Nat) (fl : Flags) : Option NanAt :=
  match old with
  | some y => some y
  | none => if isNanCode c then some { kind := 1, source := 2, uop := 0, carry := 1, flags := fl } else none

/-- R190: one element of a SCAN: the carry and the entries so far (newest first). -/
def scanStep (o : VecFields) (begins : Nat → Bool) (st : Nat × List Entry) (x : Elem) (i : Nat) : Nat × List Entry :=
  let carry := if begins i then redIdentity o.redOp else st.1
  let r := combine o.ftz o.redOp carry (x.t.getD 0 0)
  let fl := x.flags.or r.2
  (r.1, { v := fp32 (if o.excl then carry else r.1), flags := fl, nan := carryNan x.nan r.1 fl, el := i } :: st.2)

def scanEntries (s : State) (n k : Nat) (o : VecFields) (ws : List Nat) : List Entry :=
  ((aValues s n o).zipIdx.foldl (fun st e =>
    scanStep o (startsSegment (s.kite n) o) st (vecElem s k o ws e.2 e.1 none) e.2) (0, [])).2.reverse

/-- R191: a partial sum of a segment, or absent, with flags, the first NaN and its element. -/
structure Partial where
  p : List (Option Nat)
  flags : Flags
  nan : Option NanAt
  el : Nat
deriving DecidableEq, Repr

/-- R191: element `i`, `j`-th of its segment, joins p[j mod 32]. -/
def reduceStep (o : VecFields) (st : Partial) (x : Elem) (i j : Nat) : Partial :=
  let fl := st.flags.or x.flags
  let seen := match st.nan, x.nan with
    | some y, _ => (some y, st.el)
    | none, some y => (some { y with flags := st.flags.or y.flags }, i)
    | none, none => (none, i)
  match st.p.getD (j % 32) none with
  | none => { p := st.p.set (j % 32) (some (x.t.getD 0 0)), flags := fl, nan := seen.1, el := seen.2 }
  | some a =>
    let r := combine o.ftz o.redOp a (x.t.getD 0 0)
    let fl1 := fl.or r.2
    { p := st.p.set (j % 32) (some r.1), flags := fl1, nan := carryNan seen.1 r.1 fl1, el := seen.2 }

/-- R191: one level of the pairwise tree over the list. -/
def reduceLevel (o : VecFields) (last : Nat) (st : Partial) : Partial :=
  ((List.range (st.p.length / 2)).foldl (fun (acc : Partial) i =>
    match st.p.getD (2 * i) none, st.p.getD (2 * i + 1) none with
    | some a, some b =>
      let r := combine o.ftz o.redOp a b
      let fl := acc.flags.or r.2
      { p := acc.p ++ [some r.1], flags := fl, nan := carryNan acc.nan r.1 fl,
        el := if acc.nan.isSome then acc.el else last }
    | some a, none => { acc with p := acc.p ++ [some a] }
    | none, b => { acc with p := acc.p ++ [b] })
    { st with p := [] })

/-- R191: the 32 partial sums become one. -/
def reduceTree : Nat → VecFields → Nat → Partial → Partial
  | 0, _, _, st => st
  | fuel + 1, o, last, st => reduceTree fuel o last (reduceLevel o last st)

/-- R191: one segment from element `lo`, its elements in order. The entry belongs to the segment's last element: that is the
index a NaN latches which only the store of the segment's value yields, for which R193 gives none (DESIGN CHOICE, log 90). -/
def reduceSegment (o : VecFields) (lo : Nat) (xs : List Elem) : Entry :=
  let last := lo + xs.length - 1
  let st := xs.zipIdx.foldl (fun st e => reduceStep o st e.1 (lo + e.2) e.2)
    { p := List.replicate 32 none, flags := {}, nan := none, el := last }
  let r := reduceTree 5 o last st
  { v := fp32 ((r.p.getD 0 none).getD 0), flags := r.flags, nan := r.nan,
    el := if r.nan.isSome then r.el else last }

/-- R189: the elements cut at the segment starts: each segment with its first index. -/
def segmentsOf (begins : Nat → Bool) (xs : List Elem) : List (Nat × List Elem) :=
  (xs.zipIdx.foldl (fun (acc : List (Nat × List Elem)) e =>
    match acc with
    | (lo, seg) :: r => if begins e.2 then (e.2, [e.1]) :: acc else (lo, e.1 :: seg) :: r
    | [] => [(e.2, [e.1])]) []).reverse.map (fun x => (x.1, x.2.reverse))

def reduceEntries (s : State) (n k : Nat) (o : VecFields) (ws : List Nat) : List Entry :=
  let xs := (aValues s n o).zipIdx.map (fun e => vecElem s k o ws e.2 e.1 none)
  (segmentsOf (startsSegment (s.kite n) o) xs).map (fun g => reduceSegment o g.1 g.2)

/-! ### RESCALE (03 R133, R134; R183) -/

/-- R133: scale and bias of channel `c`. -/
def channelPair (k : KiteState) (o : VecFields) (c : Nat) : Nat × Nat :=
  if o.scaleSrc then
    let a := o.scAddr + (c - o.chBase) * 8
    (leNat (spBytes k a 4), leNat (spBytes k (a + 4) 4))
  else (fileWord .scale k.sc.live (2 * c), fileWord .scale k.sc.live (2 * c + 1))

/-- R133, R134, R183: u of one element; a NaN of no NaN operand is an invalid operation, shown by the flags. -/
def rescaleValue (s : State) (k : KiteState) (o : VecFields) (i : Nat) (y : Val) : Val × Bool :=
  let c := o.chBase + (if o.chAxis then i % o.rows else i / o.rows)
  let (sc, bi) := channelPair k o c
  let bias := if o.biasEn then fp32 bi else .zero
  let fold := if o.foldEn then [tagScale s o.foldX, tagScale s o.foldW] else []
  let u := ((fold.foldl Val.mul (y.mul (fp32 sc)))).add bias
  (u, u.isNan && !(y.isNan || (fp32 sc).isNan || bias.isNan || fold.any Val.isNan))

/-- R134: the stored result of one element of RESCALE. -/
def rescaleElem (fmt : Nat) (rnd : Rnd) (nonsat : Bool) (d : Nat) (u : Val × Bool) : Conv :=
  if u.2 then { code := nanCode fmt, flags := invalidFlag } else convertVal fmt rnd nonsat d u.1

/-- R133: the FP32 block read, in source order. -/
def rescaleValues (s : State) (n : Nat) (o : VecFields) : List (Val × Bool) :=
  let k := s.kite n
  (unpackBits 32 (o.ncol * o.rows) (spBytes k o.aAddr (4 * (o.ncol * o.rows)))).zipIdx.map
    (fun e => rescaleValue s k o e.2 (fp32 e.1))

/-- R134: the entries of a RESCALE. A NaN read is consumed at A, one the op makes is produced by the store. -/
def rescaleEntries (s : State) (n : Nat) (o : VecFields) : List Entry :=
  (rescaleValues s n o).zipIdx.map (fun e =>
    { v := e.1.1, flags := if e.1.2 then invalidFlag else {}, el := e.2,
      nan := if e.1.2 then some { kind := 1, source := 3, uop := 0, carry := 0, flags := invalidFlag }
        else if e.1.1.isNan then some { kind := 0, source := 0, uop := 0, carry := 0, flags := nanInFlag } else none })

/-! ### Start, faults and results (R105, R162, R177 to R179, R197, R242) -/

/-- Input elements of an op (R176, R253). -/
def VecFields.count (o : VecFields) : Nat := if o.vop = 4 then o.ncol * o.rows else o.n

/-- Codes no rule lets run: they arise only when the plan region is rewritten after the load (log 36). -/
def vecFieldsLegal (s : State) (o : VecFields) : Bool :=
  let (df, db) := dstFormat s o
  let (af, ab) := aFormat s o
  let fmtOk := fun (f b : Nat) => f != 0xA && decide (f ≤ 0xC) && blkLegal f b
  if o.vop = 5 then true
  else (rndOf o.rnd).isSome && fmtOk df db && (o.vop != 4 || df != 0xC)
    && (o.vop == 4 || fmtOk af ab) && (o.vop != 0 || !o.second || fmtOk o.bFmt 0)
    && (!(o.vop == 2 || o.vop == 3) || decide (o.redOp ≤ 2))

/-- The values written: one per segment, or one per element (R175). -/
def outCount (s : State) (n : Nat) (o : VecFields) : Nat :=
  if o.vop = 3 then ((List.range o.n).filter (startsSegment (s.kite n) o)).length else o.count

/-- R177: the ranges the op reads. -/
def readRanges (s : State) (o : VecFields) : List (Nat × Nat) :=
  if o.vop = 5 then []
  else if o.vop = 4 then
    (o.aAddr, 4 * o.count) :: (if o.scaleSrc then [(o.scAddr, 8 * (if o.chAxis then o.rows else o.ncol))] else [])
  else
    let (af, ab) := aFormat s o
    [(o.aAddr, packedBytes (fmtBits af) o.n), (o.aSaddr, if ab = 0 then 0 else blocksOf ab o.n)]
      ++ (if o.vop = 0 ∧ o.second then [(o.bAddr, packedBytes (fmtBits o.bFmt) o.n)] else [])
      ++ (if (o.vop = 2 ∨ o.vop = 3) ∧ o.second then [(o.bAddr, ceilDiv o.n 8)] else [])

/-- R177: the ranges the op writes. -/
def writeRanges (s : State) (n : Nat) (o : VecFields) : List (Nat × Nat) :=
  if o.vop = 5 then [(o.dstAddr, 2 * o.n)]
  else
    let (df, db) := dstFormat s o
    let c := outCount s n o
    [(o.dstAddr, packedBytes (fmtBits df) c), (o.dstSaddr, if db = 0 then 0 else blocksOf db c)]

/-- R184: the program words of the ops that run one. -/
def opWords (s : State) (n : Nat) (o : VecFields) : List Nat :=
  if o.vop = 0 ∨ o.vop = 2 ∨ o.vop = 3 then programWords (s.kite n) o.prog else []

/-- R105: the stream ids the op registers. -/
def opStreams (ws : List Nat) (o : VecFields) : List Nat :=
  (if o.vop = 5 ∨ ws.any drawsWord then [o.rngStream] else [])
    ++ (if o.vop ≠ 5 ∧ o.rnd = 4 then [o.srStream] else [])

/-- R105: an id registered before, or twice by the op. -/
def streamDup (old ids : List Nat) : Bool :=
  ids.any old.contains || (match ids with | [a, b] => a == b | _ => false)

/-- The faults a vector op meets at its start, lowest code first. -/
def vecStartFaults (s : State) (n : Nat) (o : VecFields) : List Nat :=
  let ws := opWords s n o
  let k := s.kite n
  let usesEntry := o.follow || (o.aFollow && o.vop != 4)
  let files := (if ws = [] then [] else [k.vp]) ++ (if o.vop = 4 ∧ !o.scaleSrc then [k.sc] else [])
  (if (usesEntry && entryUnused s o.layer) || programIllegal ws (o.vop == 3) || !vecFieldsLegal s o then [1] else [])
    ++ (if rangesOutside (readRanges s o) || rangesOutside (writeRanges s n o)
          || (o.vop == 4 && !o.scaleSrc && decide (4096 < o.chBase + (if o.chAxis then o.rows else o.ncol))) then [3]
        else [])
    ++ (if epochOff s n files then [4] else [])
    ++ (if streamDup k.streams (opStreams ws o) then [9] else [])

/-- The entries of an op by its kind. -/
def vecEntries (s : State) (n k : Nat) (o : VecFields) : List Entry :=
  let ws := opWords s n o
  match o.vop with
  | 0 => mapEntries s n k o ws
  | 1 => convEntries s n o
  | 2 => scanEntries s n k o ws
  | 3 => reduceEntries s n k o ws
  | 4 => rescaleEntries s n o
  | _ => []

/-- R181, R183: what the store multiplies by. -/
def storeScaleOf (s : State) (o : VecFields) : StoreScale :=
  if o.vop = 4 then .times (fp32 0x3F800000)
  else if o.msel then .divBy (s.rd Reg.TAG_SCALE_T 0 o.tag) else .times (fp32 o.m)

/-- The conversions and block scales of a list of entries (R96, R103: draws by output position). -/
def storeEntries (s : State) (k : Nat) (o : VecFields) (es : List Entry) : List Conv × List Nat :=
  let (df, db) := dstFormat s o
  let rnd := (rndOf o.rnd).getD .rne
  let vs := es.zipIdx.map (fun e => (e.1.v, if o.rnd = 4 then kiteDraw s k o.srStream e.2 else 0))
  if o.vop = 4 ∧ db = 0 then
    ((es.zip vs).map (fun x => rescaleElem df rnd o.nonsat x.2.2 (x.1.v, x.1.flags.invalid)), [])
  else storeAll df db rnd o.nonsat (storeScaleOf s o) vs

/-- What a vector op writes: conversions, block scales, flags, and the trap that ended it (element and NaN). -/
structure VecOut where
  convs : List Conv
  scales : List Nat
  flags : Flags
  trap : Option (Nat × NanAt)
deriving DecidableEq, Repr

def gatherFlags (es : List Entry) (cs : List Conv) : Flags :=
  (cs.map Conv.flags).foldl Flags.or ((es.map Entry.flags).foldl Flags.or {})

/-- R193: the store's first NaN that was no NaN before: its position. -/
def storeNan (fmt : Nat) (es : List Entry) (cs : List Conv) : Option Nat :=
  ((es.zip cs).zipIdx.find? (fun x => (decodeFmt fmt x.1.2.code).isNan && !x.1.1.v.isNan)).map Prod.snd

/-- R193: the conversions and block scales of the entries before a trap: a trap on the first element of a block leaves that
block the scale code of no elements. -/
def storeBefore (s : State) (k : Nat) (o : VecFields) (es : List Entry) : List Conv × List Nat :=
  let (cs, scs) := storeEntries s k o es
  let (df, db) := dstFormat s o
  (cs, if db ≠ 0 ∧ es.length % blockSize db = 0 then scs ++ [(storeBlock df .rne false []).1] else scs)

/-- R192, R193: the results of an op, cut at the first NaN unless NAN_PASS is 1. -/
def vecResults (s : State) (n k : Nat) (o : VecFields) : VecOut :=
  let es := vecEntries s n k o
  if o.nanPass then
    let (cs, scs) := storeEntries s k o es
    { convs := cs, scales := scs, flags := gatherFlags es cs, trap := none }
  else
    let keep := es.takeWhile (fun e => e.nan.isNone)
    let (cs, scs) := storeEntries s k o keep
    match storeNan (dstFormat s o).1 keep cs with
    | some j =>
      let keep1 := keep.take j
      let (cs1, scs1) := storeBefore s k o keep1
      let e := keep.getD j { v := .nan, flags := {}, nan := none, el := 0 }
      let fl := e.flags.or (cs.getD j { code := 0 }).flags
      let fl1 : Flags := { fl with clips := 0 }
      { convs := cs1, scales := scs1, flags := (gatherFlags keep1 cs1).or fl1,
        trap := some (e.el, { kind := 1, source := 3, uop := 0, carry := 0, flags := fl1 }) }
    | none =>
      match es.drop keep.length with
      | e :: _ =>
        let y := e.nan.getD { kind := 0, source := 0, uop := 0, carry := 0, flags := {} }
        { convs := cs, scales := (storeBefore s k o keep).2, flags := (gatherFlags keep cs).or y.flags, trap := some (e.el, y) }
      | [] => { convs := cs, scales := scs, flags := gatherFlags es cs, trap := none }

/-- VEC_FLAGS and STEP_FLAGS take an op's flags. -/
def vecFlags (s : State) (n f : Nat) : State :=
  ((((((s.wr Reg.VEC_FLAGS_DZ (getBits f 4 1) n).wr Reg.VEC_FLAGS_UF (getBits f 3 1) n).wr Reg.VEC_FLAGS_OF
    (getBits f 2 1) n).wr Reg.VEC_FLAGS_INVALID (getBits f 1 1) n).wr Reg.VEC_FLAGS_NAN_IN (getBits f 0 1) n).wr
    Reg.VEC_FLAGS_STEP_FLAGS (Nat.lor (s.rd Reg.VEC_FLAGS_STEP_FLAGS n) f) n)

/-- R182: the clips of the stores. -/
def countClips (s : State) (n c : Nat) : State :=
  if c = 0 then s else raise (s.bump Reg.VEC_CLIPS_CLIPS n 0 c) Ev.kiteVec_VEC_CLIP n

/-- R144, R182, R193: the results are written and counted. -/
def writeResults (s : State) (n : Nat) (o : VecFields) (r : VecOut) : State :=
  let (df, db) := dstFormat s o
  let s1 := writePacked s n o.dstAddr (fmtBits df) (r.convs.map Conv.code)
  let s2 := if db = 0 then s1 else s1.spWrite n o.dstSaddr (r.scales.map (BitVec.ofNat 8))
  let s3 := countClips (s2.bump64 Reg.VEC_ELEMS_LO Reg.VEC_ELEMS_HI n r.convs.length) n r.flags.clips
  envRecord s3 n o.tag (r.convs.map (classConv df))

/-- R195: the draws of an RNG op are written. -/
def writeDraws (s : State) (n k : Nat) (o : VecFields) : State :=
  (s.spWrite n o.dstAddr ((List.range o.n).flatMap (fun i => leBytes 2 (kiteDraw s k o.rngStream i)))).bump64
    Reg.VEC_ELEMS_LO Reg.VEC_ELEMS_HI n o.n

/-- R193, R427, R428: the trap latches, the kite stops, and the step is stopped or the haul-down trip is taken. -/
def takeTrap (s : State) (n k idx tag el : Nat) (y : NanAt) (w : Bool) : State :=
  let x : NanTrap := { step := s.rd Reg.STEP_NUM_LO, op := idx, tag := tag, elem := el, kind := y.kind, source := y.source,
                       uop := y.uop, carry := y.carry, logical := k }
  let s0 := if s.rd Reg.NAN_TRAP_INFO_VALID n = 0 then setTrap s n 1 x else s
  let s1 := raise (s0.bump Reg.NAN_TRAPS_TRAPS n) Ev.kiteVec_NAN_TRAP n
  stopOrTrip (rung (kiteFaultLatch s1 n { code := 8, op := idx, trap := some x } w) 2) (s.rd Reg.HD_TRIP_NAN_TRAP == 1) 3 0

/-- R248: the vector engine accepts an op when the previous one has completed. -/
def vecFree (s : State) (n : Nat) : Bool := (s.kite n).vec.isNone

def headVector (s : State) (n : Nat) : VecFields := vecFields (headRecord s n) (headExtension s n)

/-- The op at the head of kite `k` is a vector op of kind `vop`, due, and accepted. -/
def canVector (s : State) (k vop : Nat) (w : Bool := false) : Bool :=
  headIs s k 2 w && (headVector s (s.slotOf k)).vop == vop && vecFree s (s.slotOf k)

/-- VEC_STATUS as an op starts: its input elements are read in the step that runs it. -/
def vecStatus (s : State) (n : Nat) (o : VecFields) (busy : Nat) : State :=
  ((s.wr Reg.VEC_STATUS_BUSY busy n).wr Reg.VEC_STATUS_VOP o.vop n).wr Reg.VEC_STATUS_ELEM o.count n

/-- The results are written, and the op ends in its trap or waits for its completion. -/
def storeVector (s : State) (n k : Nat) (o : VecFields) (r : OpRun) (w : Bool) : State :=
  if o.vop = 5 then
    let s1 := writeDraws s n k o
    showStream (s1.setKite n { s1.kite n with vec := some r }) n
  else
    let out := vecResults s n k o
    let s1 := writeResults s n o out
    match out.trap with
    | some (el, y) =>
      takeTrap (vecFlags (s1.wr Reg.VEC_STATUS_BUSY 0 n) n out.flags.toNat) n k r.idx o.tag el y w
    | none => showStream (s1.setKite n { s1.kite n with vec := some { r with flags := out.flags.toNat } }) n

/-- R47, R105, R179: a vector op without a fault at its start reads its operands and runs. -/
def runVector (s : State) (n k : Nat) (o : VecFields) (r : OpRun) (env : OpEnv) : State :=
  let ids := opStreams (opWords s n o) o
  let (ue, s1) := meetErrors s n env
  match ue with
  | some row => faultSpUe s1 n row r.idx env.together
  | none =>
    let r1 := { r with holds := opWaits env }
    let kk := s1.kite n
    storeVector (vecStatus (s1.setKite n { kk with streams := kk.streams ++ ids, opcVec := kk.opcVec.starts r }) n o 1)
      n k o r1 env.together

/-- R178, R192: an op without elements completes in the cycle it starts. -/
def emptyVector (s : State) (n : Nat) (o : VecFields) : State :=
  vecFlags (vecStatus (issueAtOnce s n) n o 0) n 0

/-- R175 to R197: the vector op at the head of slot `n` starts and runs. -/
def acceptVector (s : State) (n k : Nat) (env : OpEnv) : State :=
  let o := headVector s n
  let r := headRun s n
  if o.count = 0 then emptyVector s n o
  else
    match vecStartFaults s n o with
    | [] => runVector (issueHead s n) n k o r env
    | c :: cs =>
      let s1 := issueHead s n
      faultTogether (if (c :: cs).contains 3 then raise s1 Ev.kiteVec_LOAD_RANGE n else s1) n r.idx (c :: cs) env.together

/-- R243, R248: the vector op at the head starts. -/
def startVector (s : State) (n k : Nat) (env : OpEnv) : State := fetchHead s n (fun s => acceptVector s n k env)

def execMap (k : Kite) (env : OpEnv) (s : State) : Result :=
  whenOk (canVector s k 0 env.together) s (startVector s (s.slotOf k) k env)

def execConv (k : Kite) (env : OpEnv) (s : State) : Result :=
  whenOk (canVector s k 1 env.together) s (startVector s (s.slotOf k) k env)

def execScan (k : Kite) (env : OpEnv) (s : State) : Result :=
  whenOk (canVector s k 2 env.together) s (startVector s (s.slotOf k) k env)

def execReduce (k : Kite) (env : OpEnv) (s : State) : Result :=
  whenOk (canVector s k 3 env.together) s (startVector s (s.slotOf k) k env)

def execRescale (k : Kite) (env : OpEnv) (s : State) : Result :=
  whenOk (canVector s k 4 env.together) s (startVector s (s.slotOf k) k env)

def execRng (k : Kite) (env : OpEnv) (s : State) : Result :=
  whenOk (canVector s k 5 env.together) s (startVector s (s.slotOf k) k env)

/-- R192: the events an op's flags raise as it completes. -/
def vecEvents (s : State) (n f : Nat) : State :=
  let s1 := if bit f 2 then raise s Ev.kiteVec_VEC_OF n else s
  let s2 := if bit f 1 then raise s1 Ev.kiteVec_VEC_INVALID n else s1
  if bit f 4 then raise s2 Ev.kiteVec_VEC_DZ n else s2

/-- The running vector op ends. -/
def completeVector (s : State) (n : Nat) : State :=
  let k := s.kite n
  match k.vec with
  | some r =>
    let c := kiteCycles s (s.tick - r.start) + 1
    let s1 := s.setKite n { k with vec := none, opcVec := k.opcVec.completes r c }
    let s2 := vecEvents (vecFlags (s1.wr Reg.VEC_STATUS_BUSY 0 n) n r.flags) n r.flags
    showStream (completeRun s2 n r) n
  | none => s

end Sys2Proof.Machine
end

