-- ==== Sys2Proof/Machine/KiteOps.lean ====
section
/-! DEFINITION. The kite ops MOVE and CBF_LOAD (07 R254, 03 R136, R137), and the completion of kite ops (07 R248). -/

namespace Sys2Proof.Machine

/-! ### MOVE (R254) -/

/-- R254: a MOVE's fields. -/
structure MoveFields where
  part : Nat
  toHbm : Bool
  hint : Nat
  spAddr : Nat
  hbmAddr : Nat
  len : Nat
deriving DecidableEq, Repr

/-- R254: the fields of a MOVE record, addresses and length in bytes. -/
def moveFields (w : Nat) : MoveFields :=
  { part := getBits w 83 3, toHbm := bit w 82, hint := getBits w 80 2, spAddr := getBits w 64 16 * 128,
    hbmAddr := getBits w 31 33 * 128, len := getBits w 15 16 * 128 }

def headMove (s : State) (n : Nat) : MoveFields := moveFields (headRecord s n)

/-- R61, R201: the MOVE reaches beyond the scratchpad or beyond 736 GiB. -/
def moveOutside (m : MoveFields) : Bool :=
  decide (spTop < m.spAddr + m.len) || decide (hbmTop < m.hbmAddr + m.len)

/-- R248, R213, R225: the memory port accepts an op when the previous MOVE has completed; its accesses may proceed. -/
def canMove (s : State) (k : Nat) (w : Bool := false) : Bool :=
  let m := headMove s (s.slotOf k)
  headIs s k 4 w && (s.kite (s.slotOf k)).port.isNone && (moveOutside m || !mustWait s m.part m.hbmAddr m.len)

/-- The port is taken until the MOVE completes. -/
def takePort (s : State) (n : Nat) (r : OpRun) : State := showStream (s.setKite n { s.kite n with port := some r }) n

/-- R254: scratchpad to HBM, in whole lines, which meet no merge read (R206). -/
def moveOut (s : State) (n : Nat) (m : MoveFields) (r : OpRun) : State :=
  takePort (memWrite (chargeRange s m.part m.hbmAddr m.len) m.hbmAddr (spBytes (s.kite n) m.spAddr m.len) m.hint).2 n r

/-- R217, R254: HBM to scratchpad; a lost transfer withholds the data and stops the step. -/
def moveIn (s : State) (n : Nat) (m : MoveFields) (r : OpRun) : State :=
  match readFor (chargeRange s m.part m.hbmAddr m.len) .fetch m.hbmAddr m.len m.hint with
  | (some bs, s1) => takePort (s1.spWrite n m.spAddr bs) n r
  | (none, s1) => s1

/-- R254: the MOVE at the head starts and moves its data. -/
def acceptMove (s : State) (n : Nat) (env : OpEnv) : State :=
  let m := headMove s n
  let r := headRun s n
  if m.len = 0 then issueAtOnce s n
  else if moveOutside m then opFault (issueHead s n) n 3 r.idx env.together
  else
    let (ue, s1) := meetErrors (issueHead s n) n env
    match ue with
    | some row => faultSpUe s1 n row r.idx env.together
    | none => if m.toHbm then moveOut s1 n m r else moveIn s1 n m r

def startMove (s : State) (n : Nat) (env : OpEnv) : State := fetchHead s n (fun s => acceptMove s n env)

def execMove (k : Kite) (env : OpEnv) (s : State) : Result :=
  whenOk (canMove s k env.together) s (startMove s (s.slotOf k) env)

/-! ### CBF_LOAD (R136, R137) -/

/-- R136: a CBF_LOAD's fields. -/
structure CbfFields where
  file : FileKind
  index : Nat
  count : Nat
  src : Nat
deriving DecidableEq, Repr

def cbfFields (w : Nat) : CbfFields :=
  { file := if bit w 85 then .scale else .codebook, index := getBits w 73 12, count := getBits w 60 13,
    src := getBits w 44 16 * 128 }

/-- R111, R132: words of a record, and records of a file (R113, R132, R188). -/
def recordWords (f : FileKind) : Nat :=
  match f with | .codebook => 4 | .scale => 2 | .program => 32

def fileRecords (f : FileKind) : Nat :=
  match f with | .codebook => 2048 | .scale => 4096 | .program => 128

def headCbf (s : State) (n : Nat) : CbfFields := cbfFields (headRecord s n)

/-- R137, R248: a background copy of one of the loader's two files is under way or still to start. -/
def copyRuns (s : State) (n : Nat) : Bool :=
  [FileKind.codebook, .scale].any (fun f => copyBusy s n f || ((s.kite n).file f).copyDue)

/-- R248: the head is a CBF_LOAD, due, and the loader has completed the one before. -/
def cbfDue (s : State) (k : Nat) (w : Bool := false) : Bool := headIs s k 3 w && (s.kite (s.slotOf k)).loader.isNone

/-- R137: the bytes of records stored in the file's shadow bank from word `w`. -/
def storeWords (f : FileKind) (bank : Table Nat) (w : Nat) (vs : List Nat) : Table Nat :=
  vs.zipIdx.foldl (fun b v => fileStore f b (w + v.2) v.1) bank

/-- Records written to the shadow bank of a file of slot `n` from record `r`. -/
def loadRecords (s : State) (n : Nat) (f : FileKind) (r : Nat) (bs : Bytes) : State :=
  let k := s.kite n
  let b := k.file f
  s.setKite n (k.setFile f { b with shadow := storeWords f b.shadow (recordWords f * r) (wordsLE (bs.length / 4) bs) })

/-- R137: the CBF_LOAD at the head waits for a background copy. -/
def cbfWaits (s : State) (n : Nat) : State :=
  let k := s.kite n
  if k.cbfSince.isSome then s else s.setKite n { k with cbfSince := some s.tick }

/-- R137: the cycles an op waited on the copy are counted as it starts. -/
def cbfWaited (s : State) (n : Nat) : State :=
  let k := s.kite n
  match k.cbfSince with
  | some t =>
    let c := kiteCycles s (s.tick - t)
    let s1 := s.setKite n { k with cbfSince := none }
    raiseTimes (s1.bump Reg.CBF_WAITS_WAITS n 0 c) Ev.kiteArr_CBF_WAIT n c
  | none => s

/-- R137: the records are copied to the shadow bank. An index beyond the file arises only when the plan region is
rewritten after the load (log 36). -/
def runCbf (s : State) (n : Nat) (f : CbfFields) (r : OpRun) (env : OpEnv) : State :=
  let len := 4 * recordWords f.file * f.count
  if fileRecords f.file < f.index + f.count then opFault s n 1 r.idx env.together
  else if spTop < f.src + len then opFault s n 3 r.idx env.together
  else
    let (ue, s1) := meetErrors s n env
    match ue with
    | some row => faultSpUe s1 n row r.idx env.together
    | none =>
      let s2 := loadRecords s1 n f.file f.index (spBytes (s1.kite n) f.src len)
      showStream (s2.setKite n { s2.kite n with loader := some r }) n

/-- R137, R248: the CBF_LOAD at the head starts. -/
def acceptCbf (s : State) (n : Nat) (env : OpEnv) : State :=
  let f := headCbf s n
  if f.count = 0 then issueAtOnce (cbfWaited s n) n
  else runCbf (issueHead (cbfWaited s n) n) n f (headRun s n) env

/-- R136, R137, R248: the CBF_LOAD at the head starts, or waits for a background copy. -/
def startCbf (s : State) (n : Nat) (env : OpEnv) : State :=
  if copyRuns s n then cbfWaits s n else fetchHead s n (fun s => acceptCbf s n env)

def execCbfLoad (k : Kite) (env : OpEnv) (s : State) : Result :=
  whenOk (cbfDue s k env.together) s (startCbf s (s.slotOf k) env)

/-! ### Completion (R248) -/

/-- The MOVE of slot `n` ends. -/
def completeMove (s : State) (n : Nat) : State :=
  let k := s.kite n
  match k.port with
  | some r => showStream (completeRun (s.setKite n { k with port := none }) n r) n
  | none => s

/-- The CBF_LOAD of slot `n` ends. -/
def completeCbf (s : State) (n : Nat) : State :=
  let k := s.kite n
  match k.loader with
  | some r => showStream (completeRun (s.setKite n { k with loader := none }) n r) n
  | none => s

/-- The unit of slot `n` has an op that can complete: the islands run, the step goes on, and no fault stops it (R61). -/
def kiteCompletes (s : State) (n : Nat) (run : Option OpRun) : Bool :=
  s.islandsRun && s.inStep && run.any (fun r => opRuns s n r.idx false)

end Sys2Proof.Machine
end

