-- ==== Sys2Proof/Machine/Trains.lean ====
section
/-! DEFINITION. Train sequencers: the records of a train's programs (07 R246, R248, R255), the memory program's records
COPY, PREFETCH, UNPIN and WRITEBACK (R255, 06 R209), SYNC, and OP_COMPLETE (R248). -/

namespace Sys2Proof.Machine

/-! ### Records of train programs -/

/-- The programs of a train (R245): 0 memory, 1 winch, 2 burner. -/
def progKey (t p : Nat) : Nat := 4 * t + p

def State.seqOf (s : State) (t p : Nat) : Seq := s.seqs.getD (progKey t p) {}

def State.setSeq (s : State) (t p : Nat) (q : Seq) : State := { s with seqs := s.seqs.put (progKey t p) q }

/-- The records of a train program of the loaded plan. -/
def progCount (s : State) (t p : Nat) : Nat := (s.plan.progs.getD (progKey t p) (0, 0)).2 / 16

/-- Record `r` of a train program. -/
def progRecord (s : State) (t p r : Nat) : Nat := planRecord s (s.plan.progs.getD (progKey t p) (0, 0)).1 r

/-- R255: where a program's records hold KITE. -/
def kiteAt (p : Nat) : Nat := if p = 0 then 71 else if p = 1 then 57 else 52

/-- R255: the logical kite whose gates a record names. -/
def recordKite (p w : Nat) : Nat := getBits w (kiteAt p) 7

/-- The next record of a program. -/
def nextRecord (s : State) (t p : Nat) : Nat := progRecord s t p (s.seqOf t p).next

/-- R248: the next record's release tick has come and its gate is reached. -/
def recordFree (s : State) (t p : Nat) : Bool :=
  let w := nextRecord s t p
  decide ((s.seqOf t p).next < progCount s t p) && decide (releaseTick s w ≤ s.tick)
    && gateReached (s.kite (s.slotOf (recordKite p w))).gates w

/-- R234, R248: the next pre-seal record of a program is due in the running step. -/
def recordDue (s : State) (t p : Nat) : Bool :=
  s.rd Reg.STEP_STAT_STATE == 2 && s.islandsRun && recordFree s t p

/-- The run of the next record as it starts. -/
def recordRun (s : State) (t p : Nat) : OpRun :=
  let w := nextRecord s t p
  { idx := (s.seqOf t p).next, cls := opClass w, sig := signalOf w, start := s.tick, slip := s.tick - releaseTick s w }

/-- R206: the next record of a program is fetched, and `f` follows (log 95). -/
def fetchNext (s : State) (who : Consumer) (t p : Nat) (f : State → State) : State :=
  fetchRecords s who (s.plan.progs.getD (progKey t p) (0, 0)).1 (s.seqOf t p).next 1 f

/-- R248, R424: the next record starts. -/
def issueRecord (s : State) (t p : Nat) : State :=
  let r := recordRun s t p
  traceAdd (s.setSeq t p { s.seqOf t p with next := r.idx + 1 }) t 0 0x01 (128 + t) r.idx r.cls r.slip

/-- R247: the gate of a record's logical kite is signalled. -/
def signalRecord (s : State) (kite : Nat) (sig : Option Nat) : State :=
  match sig with
  | some g => signalLogical s kite g
  | none => s

/-- R424: a completed record of a train unit is traced, with its cycles of the memory-side island. -/
def traceRecordDone (s : State) (t : Nat) (idx cls start : Nat) : State :=
  traceAdd s t 0 0x02 (128 + t) idx cls (memCycle (s.tick - start) % 2 ^ 32)

/-- A record that completes in the cycle it starts. -/
def recordAtOnce (s : State) (t p : Nat) : State :=
  let r := recordRun s t p
  traceRecordDone (signalRecord (issueRecord s t p) (recordKite p (nextRecord s t p)) r.sig) t r.idx r.cls r.start

/-! ### Memory programs (R255) -/

/-- R255: a memory record's fields, addresses and length in bytes. -/
structure MemFields where
  mop : Nat
  part : Nat
  hint : Nat
  addr : Nat
  dst : Nat
  len : Nat
deriving DecidableEq, Repr

def memFields (w : Nat) : MemFields :=
  { mop := getBits w 83 3, part := getBits w 80 3, hint := getBits w 78 2, addr := getBits w 42 29 * 2048,
    dst := getBits w 13 29 * 2048, len := getBits w 0 13 * 2048 }

/-- The memory record of train `t` at the head is due, of operation `mop`, and the one before has completed. -/
def memDue (s : State) (t mop : Nat) : Bool :=
  recordDue s t 0 && (s.seqOf t 0).run.isNone && opClass (nextRecord s t 0) == 5
    && (memFields (nextRecord s t 0)).mop == mop

/-- The record runs until OP_COMPLETE. -/
def runMemory (s : State) (t : Nat) (r : OpRun) : State := s.setSeq t 0 { s.seqOf t 0 with run := some r }

/-- The record at the head starts with effect `f`; LEN 0 is a no-op. -/
def startMemory (s : State) (t : Nat) (f : State → MemFields → State) : State :=
  fetchNext s .fetch t 0 (fun s =>
    let m := memFields (nextRecord s t 0)
    if m.len = 0 then recordAtOnce s t 0 else runMemory (f (issueRecord s t 0) m) t (recordRun s t 0))

/-- R255: COPY, in whole granules, which meet no merge read. A lost read stops the step (R217). -/
def copyGranules (s : State) (m : MemFields) : State :=
  match readFor (chargeRange s m.part m.addr m.len) .fetch m.addr m.len m.hint with
  | (some bs, s1) => (memWrite (chargeRange s1 m.part m.dst m.len) m.dst bs m.hint).2
  | (none, s1) => s1

/-- R255: PREFETCH brings the granules into the spool. -/
def prefetchGranules (s : State) (m : MemFields) : State :=
  (readFor (chargeRange s m.part m.addr m.len) .fetch m.addr m.len m.hint).2

/-- A line of the range. -/
def lineInRange (m : MemFields) (l : SpoolLine) : Bool :=
  decide (m.addr ≤ l.tag * 128) && decide (l.tag * 128 < m.addr + m.len)

/-- R209: UNPIN unpins the range's lines. -/
def unpinGranules (s : State) (m : MemFields) : State := unpinLines s (fun _ l => lineInRange m l)

/-- R255: WRITEBACK writes the range's dirty sectors to HBM; the lines stay, clean. -/
def writebackGranules (s : State) (m : MemFields) : State :=
  s.mem.spool.foldl (fun s e => (e.2.filter (fun l => lineInRange m l && l.anyDirty)).foldl (fun s l =>
    (writebackLine s (e.1 / 16384) l).setLines e.1
      (replaceLine (s.lines e.1) { l with d0 := none, d1 := none })) s) s

/-- R213, R225: the accesses of train `t`'s next memory record wait. A writeback is charged to no partition (R212); UNPIN
accesses no HBM. -/
def memWaits (s : State) (t : Nat) : Bool :=
  let m := memFields (nextRecord s t 0)
  m.len != 0 && (match m.mop with
    | 0 => mustWait s m.part m.addr m.len || mustWait s m.part m.dst m.len
    | 1 => mustWait s m.part m.addr m.len
    | 2 => false
    | _ => s.mem.window.isSome)

/-- The memory record of operation `mop` is due, and its accesses may proceed. -/
def canRunMemory (s : State) (t mop : Nat) : Bool := memDue s t mop && !memWaits s t

def execCopy (t : Train) (s : State) : Result := whenOk (canRunMemory s t 0) s (startMemory s t copyGranules)

def execPrefetch (t : Train) (s : State) : Result := whenOk (canRunMemory s t 1) s (startMemory s t prefetchGranules)

def execUnpin (t : Train) (s : State) : Result := whenOk (canRunMemory s t 2) s (startMemory s t unpinGranules)

def execWriteback (t : Train) (s : State) : Result := whenOk (canRunMemory s t 3) s (startMemory s t writebackGranules)

/-- R248, R255: the memory record of train `t` completes. -/
def completeMemory (s : State) (t : Nat) : State :=
  let q := s.seqOf t 0
  match q.run with
  | some r =>
    traceRecordDone (signalRecord (s.setSeq t 0 { q with run := none }) (recordKite 0 (progRecord s t 0 r.idx)) r.sig)
      t r.idx r.cls r.start
  | none => s

/-! ### SYNC (R254, R255) -/

/-- R248: a SYNC record of a pre-seal program is due. -/
def syncDue (s : State) (t p : Nat) : Bool :=
  recordDue s t p && opClass (nextRecord s t p) == 0 && (p != 0 || (s.seqOf t 0).run.isNone)

/-! ### OP_COMPLETE (R248) -/

/-- The unit has an op under way that can complete. -/
def canComplete (s : State) (u : OpUnit) : Bool :=
  match u with
  | .array k => kiteCompletes s (s.slotOf k) ((s.kite (s.slotOf k)).arr.head?)
  | .vector k => kiteCompletes s (s.slotOf k) (s.kite (s.slotOf k)).vec
  | .port k => kiteCompletes s (s.slotOf k) (s.kite (s.slotOf k)).port
  | .loader k => kiteCompletes s (s.slotOf k) (s.kite (s.slotOf k)).loader
  | .memory t => s.islandsRun && s.inStep && (s.seqOf t 0).run.isSome

/-- R248: the op of a unit completes. -/
def completeOp (s : State) (u : OpUnit) : State :=
  match u with
  | .array k => completeArray s (s.slotOf k)
  | .vector k => completeVector s (s.slotOf k)
  | .port k => completeMove s (s.slotOf k)
  | .loader k => completeCbf s (s.slotOf k)
  | .memory t => completeMemory s t

def execOpComplete (who : OpUnit) (s : State) : Result := whenOk (canComplete s who) s (completeOp s who)

end Sys2Proof.Machine
end

