-- ==== Sys2Proof/Machine/Reel.lean ====
section
/-! DEFINITION. Binary64 arithmetic one operation at a time, and the reel's recipes (10 R325 to R328). -/

namespace Sys2Proof.Machine

/-! ### Binary64 -/

/-- A value rounded once to binary64, RNE. -/
def r64 (v : Val) : Val :=
  match v with
  | .fin neg m e =>
    if m = 0 then .zero neg
    else
      let r := roundFloat 52 1023 .rne neg false 0 m e
      if 0x7FEFFFFFFFFFFFFF < floatCode 52 1023 r then .inf neg else .fin neg r.i r.q
  | x => x

/-- The exact quotient for rounding, with the IEEE cases of zeros and infinities. -/
def divVal (a b : Val) : Val :=
  match a, b with
  | .nan, _ => .nan
  | _, .nan => .nan
  | .inf _, .inf _ => .nan
  | .inf n, x => .inf (n != x.neg)
  | x, .inf n => .zero (x.neg != n)
  | .fin n m e, .fin n' m' e' =>
    if m' = 0 then (if m = 0 then .nan else .inf (n != n')) else quotient (.fin n m e) (.fin n' m' e')

/-- The square root for rounding, with one bit for what lies below. -/
def sqrtVal (v : Val) : Val :=
  match v with
  | .nan => .nan
  | .inf neg => if neg then .nan else .inf false
  | .fin neg m e =>
    if m = 0 then v
    else if neg then .nan
    else
      let k := 160 + (if e % 2 = 0 then 0 else 1)
      let n := shl m k
      let r := isqrt n
      .fin false (2 * r + ofBool (r * r != n)) ((e - k) / 2 - 1)

/-- The integer part of a value that is not negative. -/
def floorVal (v : Val) : Nat :=
  match v with
  | .fin false m e => if 0 ≤ e then shl m e.toNat else m / 2 ^ (-e).toNat
  | _ => 0

def mul64 (a b : Val) : Val := r64 (a.mul b)

def add64 (a b : Val) : Val := r64 (a.add b)

def sub64 (a b : Val) : Val := r64 (a.sub b)

def div64 (a b : Val) : Val := r64 (divVal a b)

def nat64 (n : Nat) : Val := .fin false n 0

/-! ### Group words (R321) -/

/-- Word `w` of group `g` in a list of configuration words or the table of state words. -/
def stateWord (b : Burner) (g w : Nat) : Nat := b.words.getD (24 * g + w) 0

def setStateWord (b : Burner) (g w v : Nat) : Burner := { b with words := b.words.put (24 * g + w) v }

/-- R321: ACC_STEPS, WTAG, BK_PERIOD, DECAY and RULE of word 0. -/
def grpAccSteps (w0 : Nat) : Nat := getBits w0 20 9

def grpWtag (w0 : Nat) : Nat := getBits w0 12 8

def grpRule (w0 : Nat) : Nat := getBits w0 29 2

/-- The word of a list as an FP32 value. -/
def fpWord (ws : List Nat) (i : Nat) : Val := fp32 (ws.getD i 0)

/-! ### The state of a group (R325) -/

/-- R325: a LEN of 0 stands for 1. -/
def lenOf (n : Nat) : Nat := if n = 0 then 1 else n

/-- R325: the state words T, CYC, POS, LEN after one update under configuration `ws`. -/
def advance (ws : List Nat) (t cyc pos len : Nat) : Nat × Nat × Nat × Nat :=
  let t1 := satAdd 32 t 1
  let u := t1 - 1
  let warm := ws.getD 10 0
  let period := ws.getD 12 0
  if u = warm then (t1, 0, 0, if period ≠ 0 then period else max (ws.getD 11 0) 1)
  else if warm < u then
    let pos1 := satAdd 32 pos 1
    if period ≠ 0 ∧ pos1 = lenOf len then
      let grown := floorVal (mul64 (nat64 (lenOf len)) (fpWord ws 13))
      (t1, min (cyc + 1) 65535, 0, min (max (lenOf len + 1) grown) (2 ^ 32 - 1))
    else (t1, cyc, pos1, len)
  else (t1, cyc, pos, len)

/-! ### The rate (R327) -/

/-- R327: powers by squaring; `fuel` bounds the bits of the exponent. -/
def pow64 : Nat → Val → Val → Nat → Val
  | 0, r, _, _ => r
  | fuel + 1, r, x, n =>
    if n = 0 then r
    else pow64 fuel (if n % 2 = 1 then mul64 r x else r) (if 1 < n then mul64 x x else x) (n / 2)

def powVal (b : Val) (n : Nat) : Val := pow64 33 (nat64 1) b n

/-- n! -/
def fact : Nat → Nat
  | 0 => 1
  | n + 1 => (n + 1) * fact n

/-- R327: c[k], rounded once. -/
def sinCoeff (k : Nat) : Val :=
  let q := r64 (quotient (nat64 1) (nat64 (fact (2 * k + 1))))
  if k % 2 = 1 then q.negate else q

/-- R327: π/2 in binary64. -/
def halfPi : Val := decodeFloat 11 52 1023 0x7FEFFFFFFFFFFFFF true true 0x3FF921FB54442D18

/-- R327: sin(π/2 × r) by the recipe. -/
def sinHalfPi (r : Val) : Val :=
  let y := mul64 halfPi r
  let z := mul64 y y
  let p := (List.range 10).foldl (fun p i => add64 (mul64 p z) (sinCoeff (9 - i))) (sinCoeff 10)
  mul64 y p

/-- R327: the decay factor. -/
def decayFactor (kind pos len : Nat) : Val :=
  let r := div64 (nat64 (min pos len)) (nat64 len)
  if kind = 0 then nat64 1
  else if kind = 1 then sub64 (nat64 1) r
  else if kind = 2 then
    if len ≤ pos then .zero else
      let s := sinHalfPi r
      sub64 (nat64 1) (mul64 s s)
  else div64 (nat64 1) (r64 (sqrtVal (nat64 (1 + pos))))

/-- R327: the learning rate in binary64, from LR_BASE, the configuration words and the state after R325. -/
def lr64 (lrBase : Nat) (ws : List Nat) (t cyc pos len : Nat) : Val :=
  let u := t - 1
  let warm := ws.getD 10 0
  let base := mul64 (fp32 lrBase) (fpWord ws 1)
  if u < warm then mul64 base (div64 (nat64 (u + 1)) (nat64 warm))
  else
    let peak := powVal (fpWord ws 14) cyc
    let d := decayFactor (getBits (ws.getD 0 0) 2 2) pos (lenOf len)
    mul64 (mul64 base peak) (add64 (fpWord ws 15) (mul64 (sub64 (nat64 1) (fpWord ws 15)) d))

/-- R328: LR, A, B, DEC, C1 and C2. -/
def reelConsts (lrBase : Nat) (ws : List Nat) (t cyc pos len : Nat) : List Nat :=
  let lr := lr64 lrBase ws t cyc pos len
  let bc1 := sub64 (nat64 1) (powVal (fpWord ws 3) t)
  let bc2 := sub64 (nat64 1) (powVal (fpWord ws 4) t)
  ([lr, div64 lr bc1, div64 (nat64 1) bc2, mul64 lr (fpWord ws 6), sub64 (nat64 1) (fpWord ws 3),
    sub64 (nat64 1) (fpWord ws 4)]).map (fun v => (toFp32 v).1)

end Sys2Proof.Machine
end

