-- ==== Sys2Proof/Machine/Frames.lean ====
section
/-! DEFINITION. Frames of the host port as they arrive and leave (11 R350, R359, 12 R363, R364, R366, R373, R374). -/

namespace Sys2Proof.Machine

/-! ### Arrival -/

/-- R363: a frame's tag, or its absence, passes the VLAN filter. -/
def vlanPasses (s : State) (tag : Option Nat) : Bool :=
  s.rd Reg.PORT_CFG_VLAN_FILT == 0 || tag.map (· % 4096) == some (s.rd Reg.PORT_CFG_VID)

/-- 12 MAC_ADDR: the address of the host port. -/
def hostMac (s : State) : Nat := s.rd Reg.MAC_ADDR_LO + 2 ^ 32 * s.rd Reg.MAC_ADDR_HI

/-- R363: the IEEE 1588 multicast address 01-1B-19-00-00-00. -/
def ptpMac : Nat := 0x011B19000000

/-- R363, R364: a frame is accepted; `served` says whether a UDP port is. -/
def accepts (s : State) (src : HostAddr) (served : Nat → Bool) : Bool :=
  (src.here == ptpMac || src.here == hostMac s) && vlanPasses s src.tag && src.udp.all (fun u => served u.herePort)

/-- R363, R364: a frame is accepted and taken by `f`, or dropped and counted. -/
def acceptFrame (s : State) (src : HostAddr) (served : Nat → Bool) (f : State → State) : State :=
  if accepts s src served then f (s.bump Reg.RX_FRAMES_COUNT) else s.bump Reg.RX_FILTERED_COUNT

/-- R366: the header of a control frame. -/
def ctrlHeader (kind stream len seq ack opc status : Nat) : Bytes :=
  leBytes 1 (16 * kind + 1) ++ leBytes 1 (64 * stream) ++ leBytes 2 len ++ leBytes 4 seq ++ leBytes 4 ack
    ++ leBytes 1 opc ++ leBytes 1 status ++ zeros 2

/-! ### Departure -/

/-- The sum of bytes as 16-bit words, the high byte first, the last completed with 0. -/
def wordSum : Bytes → Nat
  | [] => 0
  | [b] => b.toNat * 256
  | b :: c :: r => b.toNat * 256 + c.toNat + wordSum r

/-- The sum of the 16-bit words of a 128-bit address. -/
def addrSum (a : Nat) : Nat := ((List.range 8).map (fun i => getBits a (16 * i) 16)).sum

/-- R364: the UDP checksum over the IPv6 pseudo-header, the UDP header and the payload (IETF RFC 768, RFC 8200); a result of
0 is sent as 0xFFFF. -/
def udpChecksum (src dst sport dport : Nat) (payload : Bytes) : Nat :=
  let len := 8 + payload.length
  let n := addrSum src + addrSum dst + len % 65536 + len / 65536 + 17 + sport + dport + len % 65536 + wordSum payload
  let c := 65535 - ((n - 1) % 65535 + 1)
  if c = 0 then 65535 else c

/-- R350, R374: a frame of egress class `cls` (R359: 0 verdicts, 1 control, 2 bulk) that goes back to where another came
from: addresses and ports swapped, the tag echoed, hop limit 64, in the encapsulation of R364. -/
def frameTo (cls : Nat) (dst : HostAddr) (payload : Bytes) : EthFrame :=
  { dst := dst.mac, src := dst.here, tag := dst.tag,
    etherType := if dst.udp.isSome then 0x86DD else if cls = 0 then 0x88B6 else 0x88B5,
    udp := dst.udp.map (fun u => { src := u.here, dst := u.ip, sport := u.herePort, dport := u.port, hops := 64,
                                   checksum := udpChecksum u.here u.ip u.herePort u.port payload }),
    express := cls == 0, payload := payload }

/-- R359: a verdict whose slot has come is ready. -/
def verdictDue (s : State) : Bool := s.sc.calendar.any (fun x => x.body.isSome && decide (x.v ≤ s.tick))

/-- A frame leaves. -/
def transmit (s : State) (cls : Nat) (f : EthFrame) : State := (s.bump Reg.TX_FRAMES_COUNT).emit (.frame cls f)

/-- R359: a frame leaves, or waits for the verdicts that are ready. -/
def sendFrame (s : State) (cls : Nat) (dst : HostAddr) (payload : Bytes) : State :=
  if cls ≠ 0 ∧ verdictDue s then
    { s with host := { s.host with egress := s.host.egress ++ [(cls, frameTo cls dst payload)] } }
  else transmit s cls (frameTo cls dst payload)

/-- R359: once no verdict is ready the frames that waited leave, control frames before bulk frames. -/
def releaseFrames (s : State) : State :=
  if verdictDue s then s
  else
    let fs := s.host.egress.filter (fun e => e.1 == 1) ++ s.host.egress.filter (fun e => e.1 != 1)
    fs.foldl (fun s e => transmit s e.1 e.2) { s with host := { s.host with egress := [] } }

/-- R373: a flit for the host bridge leaves as a BULK frame, or is lost when stream 0 has not been opened. -/
def sendBulk (s : State) (src : Nat) (payload : Bytes) : State :=
  match s.host.dest with
  | some d => sendFrame s 2 d (ctrlHeader 6 0 (4 + payload.length) 0 0 0 0 ++ leBytes 2 src ++ zeros 2 ++ payload)
  | none => raise (s.bump Reg.BULK_LOST_COUNT) Ev.cmdEngine_EVT_LOST

end Sys2Proof.Machine
end

