-- ==== Sys2Proof/Machine/Fabric.lean ====
section
/-! DEFINITION. The fabric's flit layer: flits and their bytes (08 R264, R265), routing (R276 to R278), link retry and
credits (R266 to R270), and transfers at both ends (R280 to R285). -/

namespace Sys2Proof

/-- R265, R271: the body of a message, which the spec lays out only for RESTORE_READ: a free value (log 10). -/
opaque Config.msgBytes : Machine.Msg → Bytes

end Sys2Proof

namespace Sys2Proof.Machine

/-! ### Flits (R264, R265) -/

/-- The body of a message of this device (R265; 12 R378 for RESTORE_READ). -/
def msgBody (m : Msg) : Bytes :=
  match m with
  | .restoreRead txn flags addr len record =>
    leBytes 2 txn ++ leBytes 2 flags ++ leBytes 8 addr ++ leBytes 4 len ++ leBytes 2 record ++ zeros 6
  | m => (Config.msgBytes m).take 236

/-- R264: the valid payload of a flit. -/
def Flit.body (f : Flit) : Bytes :=
  match f.msg with
  | some m => msgBody m
  | none => f.payload

/-- R265: the header of a flit as it leaves, with the acknowledgement and credits it carries. -/
def flitHeader (f : Flit) (ack : Nat) (ackValid : Bool) (crPair crCount : Nat) : Nat :=
  f.ftype * 2 ^ 124 + f.vc * 2 ^ 121 + f.cls * 2 ^ 120 + ofBool f.first * 2 ^ 119 + ofBool f.last * 2 ^ 118
    + f.seq * 2 ^ 106 + ack * 2 ^ 94 + ofBool ackValid * 2 ^ 93 + crPair / 2 * 2 ^ 90 + crPair % 2 * 2 ^ 89
    + crCount * 2 ^ 83 + f.dst * 2 ^ 67 + f.src * 2 ^ 51 + f.txn * 2 ^ 35 + f.body.length * 2 ^ 27 + f.ofs

/-- R264: the 256 bytes of a flit. -/
def flitBytes (f : Flit) (ack : Nat) (ackValid : Bool) (crPair crCount : Nat) : Bytes :=
  let b := leBytes 16 (flitHeader f ack ackValid crPair crCount) ++ fit 236 f.body
  b ++ leBytes 4 (crc32 b)

/-- R264, R266: bytes form a flit with a good CRC, a defined FTYPE and a PLEN of at most 236. -/
def flitGood (bs : Bytes) : Bool :=
  let h := leNat (bs.take 16)
  bs.length == 256 && crc32 (bs.take 252) == leNat (bs.drop 252) && decide (getBits h 124 4 ≤ 3)
    && decide (getBits h 27 8 ≤ 236)

/-- R265: the flit that good bytes hold. -/
def parseFlit (bs : Bytes) : Flit :=
  let h := leNat (bs.take 16)
  { ftype := getBits h 124 4, vc := getBits h 121 3, cls := getBits h 120 1, first := bit h 119, last := bit h 118,
    seq := getBits h 106 12, dst := getBits h 67 16, src := getBits h 51 16, txn := getBits h 35 16,
    ofs := getBits h 0 27, payload := (bs.drop 16).take (getBits h 27 8) }

/-! ### Forwarding (R276, R277) -/

/-- R277: a flit without a usable output line is dropped; of VC 2 to 6 it stops the running step. -/
def dropUnrouted (s : State) (vc : Nat) : State := if 2 ≤ vc ∧ vc ≤ 6 then replayFault (noRoute s) else noRoute s

/-- R276 to R278: a flit that is not for this device goes to its output line. -/
def forward (s : State) (f : Flit) : State := (routeFlit s f).getD (dropUnrouted s f.vc)

/-- R271, R276: a message of a unit of this device to a fabric address. -/
def tell (s : State) (vc src dst : Nat) (m : Msg) : State :=
  if dst / 16 = s.self then s.emit (.msg vc (dst / 16) m) else forward s (msgFlit vc src dst m)

/-! ### Link layer: sending (R267 to R272) -/

def creditOf (x : LineState) (k : Nat) : Nat := x.credits.getD k 32

/-- The last SEQ accepted. -/
def ackOf (x : LineState) : Nat := (x.rxSeq + 4095) % 4096

/-- A pair whose credits are owed to the peer. -/
def owedPair (x : LineState) : Option (Nat × Nat) := x.owed.find? (fun e => decide (0 < e.2))

/-- A flit leaves the line with the acknowledgement and the credits it can carry. -/
def sendBytes (s : State) (l : Nat) (f : Flit) : State :=
  let x := s.line l
  match owedPair x with
  | some (k, n) =>
    let c := min n 63
    (s.setLine l { x with owed := x.owed.put k (n - c) }).emit (.flit l (flitBytes f (ackOf x) x.anyRx k c))
  | none => s.emit (.flit l (flitBytes f (ackOf x) x.anyRx 0 0))

/-- The first flit of a virtual channel's two queues that has a credit. -/
def readyFlit (x : LineState) (vc : Nat) : Option Flit :=
  ([0, 1].filterMap (fun c =>
    let k := pairKey vc c
    if 0 < creditOf x k then (x.outq.getD k []).head? else none)).head?

/-- A flit waits for a credit. -/
def stalled (x : LineState) : Bool := x.outq.any (fun e => e.2 != [] && creditOf x e.1 == 0)

/-- R272: VCs 2 to 6 from the one after the last served. -/
def rrOrder (last : Nat) : List Nat := (List.range 5).map (fun i => 2 + (last - 2 + 1 + i) % 5)

/-- R272: the order of the virtual channels. While the islands stand still only the gondola's own traffic leaves (15 R431). -/
def vcOrder (x : LineState) (run : Bool) : List Nat :=
  if !run then [1, 0, 7] else if 64 ≤ x.vc7Wait then [1, 7, 0] ++ rrOrder x.rr else [1, 0] ++ rrOrder x.rr ++ [7]

/-- R272: the next flit by priority. -/
def chooseFlit (x : LineState) (run : Bool) : Option Flit := ((vcOrder x run).filterMap (readyFlit x)).head?

/-- The line after the head flit of a pair has left its queue: numbered, its credit used, kept for retry. -/
def takeFlit (x : LineState) (f : Flit) : LineState :=
  let k := pairKey f.vc f.cls
  let g := { f with seq := x.txSeq }
  { x with outq := x.outq.put k ((x.outq.getD k []).drop 1), credits := x.credits.put k (creditOf x k - 1),
           txSeq := (x.txSeq + 1) % 4096, replay := x.replay ++ [g], rr := if 2 ≤ f.vc ∧ f.vc ≤ 6 then f.vc else x.rr,
           vc7Wait := if f.vc = 7 then 0 else x.vc7Wait }

/-- R272: a flit time passes on the line; a VC 7 flit in its queue waits it. -/
def flitTime (s : State) (l : Nat) : State :=
  let x := s.line l
  if [0, 1].all (fun c => x.outq.getD (pairKey 7 c) [] == []) then s.setLine l { x with vc7Wait := 0 }
  else s.setLine l { x with vc7Wait := x.vc7Wait + 1 }

/-- R271: payload bytes of VC 7, in KiB. -/
def countVc7 (s : State) (l : Nat) (f : Flit) : State :=
  if f.vc = 7 then
    let x := s.line l
    let b := x.vc7Bytes + f.body.length
    (s.setLine l { x with vc7Bytes := b % 1024 }).bump Reg.TX_BYTES_VC7_COUNT l 0 (b / 1024)
  else s

/-- A sequenced flit leaves. -/
def sendSequenced (s : State) (l : Nat) (f : Flit) : State :=
  countVc7 (sendBytes (s.bump64 Reg.TX_FLITS_LO Reg.TX_FLITS_HI l) l f) l f

/-- An IDLE or LINK flit, which is neither numbered nor retried. -/
def plainFlit (ftype : Nat) (payload : Bytes) : Flit :=
  { ftype := ftype, vc := 0, cls := 0, first := false, last := false, dst := 0, src := 0, txn := 0, ofs := 0,
    payload := payload }

/-- R267, R272: the line sends its next flit: a LINK flit, a rewound one, or the next by priority. -/
def sendNext (s0 : State) (l : Nat) : State :=
  let s := flitTime s0 l
  let x := s.line l
  match x.link with
  | b :: r => sendBytes (s.setLine l { x with link := r }) l (plainFlit 3 b)
  | [] =>
    match x.rewound with
    | f :: r =>
      let k := pairKey f.vc f.cls
      if creditOf x k = 0 then s.bump Reg.CREDIT_STALLS_COUNT l
      else sendSequenced ((s.setLine l { x with rewound := r, credits := x.credits.put k (creditOf x k - 1) }).bump
        Reg.RETRY_FLITS_COUNT l) l f
    | [] =>
      if 1024 ≤ x.replay.length then s.bump Reg.REPLAY_FULL_COUNT l
      else
        let s1 := if stalled x then s.bump Reg.CREDIT_STALLS_COUNT l else s
        match chooseFlit x s.islandsRun with
        | some f => sendSequenced (s1.setLine l (takeFlit x f)) l { f with seq := x.txSeq }
        | none => s1

def execFlitSend (l : LineNo) (s : State) : Result := whenOk (s.lineUp l) s (sendNext s l)

/-- R268: an IDLE flit carries the last SEQ accepted. -/
def execIdleAck (l : LineNo) (s : State) : Result := whenOk (s.lineUp l) s (sendBytes (flitTime s l) l (plainFlit 0 []))

/-! ### Link layer: receiving (R266 to R270) -/

/-- A LINK flit to send: the subtype and its body. -/
def queueLink (s : State) (l subtype : Nat) (body : Bytes) : State :=
  let x := s.line l
  s.setLine l { x with link := x.link ++ [BitVec.ofNat 8 subtype :: body] }

/-- R267: RETRY_REQ for the expected SEQ. -/
def askRetry (s : State) (l : Nat) : State :=
  let x := s.line l
  let n := if x.askedSeq = x.rxSeq then x.asked + 1 else 1
  queueLink (s.setLine l { x with discarding := true, askedSeq := x.rxSeq, asked := n }) l 0 (leBytes 2 x.rxSeq)

/-- R267: a flit is discarded; the first discard asks for the expected SEQ. -/
def discardFlit (s : State) (l : Nat) : State := if (s.line l).discarding then s else askRetry s l

/-- R267: flits up to an acknowledged SEQ leave the replay buffer. -/
def ackUpTo (x : LineState) (ack : Nat) : LineState :=
  match x.replay.findIdx? (fun f => f.seq == ack) with
  | some i => { x with replay := x.replay.drop (i + 1), rewound := x.rewound.filter (fun f =>
      (x.replay.drop (i + 1)).any (fun g => g.seq == f.seq)) }
  | none => x

/-- R265, R269: the acknowledgement and the credits a flit brings. -/
def takeReturns (s : State) (l : Nat) (bs : Bytes) : State :=
  let h := leNat (bs.take 16)
  let x := s.line l
  let x1 := if bit h 93 then ackUpTo x (getBits h 94 12) else x
  let k := pairKey (getBits h 90 3) (getBits h 89 1)
  s.setLine l { x1 with credits := x1.credits.put k (min 32 (creditOf x1 k + getBits h 83 6)) }

/-- R267, R270: a DATA or MSG flit of the expected SEQ is buffered. -/
def acceptFlit (s : State) (l : Nat) (f : Flit) : State :=
  let x := s.line l
  let k := pairKey f.vc f.cls
  (s.setLine l { x with rxq := x.rxq.put k (x.rxq.getD k [] ++ [f]), rxSeq := (x.rxSeq + 1) % 4096, anyRx := true,
                        discarding := false, asked := 0 }).bump64 Reg.RX_FLITS_LO Reg.RX_FLITS_HI l

/-- R262: corrected codewords and lane symbol errors that arrive with a flit. -/
def countFec (s : State) (l ce : Nat) (errs : List (Nat × Nat)) : State :=
  errs.foldl (fun s e =>
    (s.bump Reg.LANE_REC_ERR_SYM_ERR l (e.1 % 9) e.2).wr Reg.LANE_REC_ST_INTERVAL_ERR
      (satAdd 16 (s.rd Reg.LANE_REC_ST_INTERVAL_ERR l (e.1 % 9)) e.2) l (e.1 % 9))
    (absorbed (s.bump Reg.LINE_FEC_CE_COUNT l 0 ce) ce)

/-- R262: uncorrectable codewords are counted, each with its event. -/
def countFecUe (s : State) (l n : Nat) : State := raiseTimes (s.bump Reg.LINE_FEC_UE_COUNT l 0 n) Ev.lineCtl_FEC_UE l n

/-- R262, R266, R267: a flit arrives on line `l`; one over an uncorrectable codeword counts as one whose CRC failed. A device
without a number accepts only LINK flits (R275). -/
def receiveFlit (s : State) (l : Nat) (bs : Bytes) (fecBad : Bool) : State :=
  if fecBad || !flitGood bs then discardFlit (s.bump Reg.CRC_ERRS_COUNT l) l
  else
    let f := parseFlit bs
    let s1 := takeReturns s l bs
    if f.ftype = 0 ∨ f.ftype = 3 then s1
    else if !s1.assigned then s1
    else if f.seq = (s1.line l).rxSeq then acceptFlit s1 l f
    else discardFlit s1 l

/-- 15 R434: SEQ `last` has been accepted: it lies behind the expected one. -/
def seqReached (x : LineState) (last : Nat) : Bool := decide ((x.rxSeq + 4095 - last) % 4096 < 2048)

/-- 15 R435: every capture is closed: scan-out begins. -/
def scanIfClosed (s : State) : State :=
  if s.rd Reg.HD_STAT_STATE = 2 ∧ s.hd.captures = [] then s.wr Reg.HD_STAT_STATE 3 else s

/-- 15 R434: line `l`'s capture closes. -/
def closeCapture (s : State) (l : Nat) : State :=
  scanIfClosed { s with hd := { s.hd with captures := s.hd.captures.erase l } }

/-- 15 R434: the capture of line `l` closes once its marker has come and every SEQ up to LAST_SEQ is accepted. -/
def closeIfReached (s : State) (l : Nat) : State :=
  match Table.find l s.hd.captures with
  | some (some last) => if seqReached (s.line l) last then closeCapture s l else s
  | _ => s

def execFlitRx (l : LineNo) (bytes : Bytes) (fecBad : Bool) (fecUe fecCe : Nat) (symErrs : List (Nat × Nat)) (s : State) :
    Result :=
  whenOk (s.lineUp l) s (closeIfReached (receiveFlit (countFecUe (countFec s l fecCe symErrs) l fecUe) l bytes fecBad) l)

/-- R267, R269: the peer asks again from `seq`: flits before it are accepted, the others are sent again with their
credits restored. -/
def honourRetry (s : State) (l seq : Nat) : State :=
  let x := s.line l
  let keep := match x.replay.findIdx? (fun f => f.seq == seq) with
    | some i => x.replay.drop i
    | none => if seq = x.txSeq then [] else x.replay
  let back := keep.filter (fun f => !x.rewound.any (fun g => g.seq == f.seq))
  let credits := back.foldl (fun (t : Table Nat) f =>
    t.put (pairKey f.vc f.cls) (min 32 (t.getD (pairKey f.vc f.cls) 32 + 1))) x.credits
  raise (absorbed ((s.setLine l { x with replay := keep, rewound := keep, credits := credits }).bump Reg.RETRIES_COUNT l))
    Ev.lineCtl_RETRY l

def execRetryReq (l : LineNo) (seq : Fin 4096) (s : State) : Result :=
  whenOk (s.lineUp l) s (honourRetry s l seq)

/-! ### Arriving transfers (R280, R282 to R284) -/

/-- The transfer open from a source on a channel at an endpoint. -/
def openRecv (s : State) (src ep vc : Nat) : Option Recv :=
  s.fab.recvs.find? (fun r => r.src == src && r.ep == ep && r.vc == vc)

/-- The open transfers without the one from a source on a channel at an endpoint. -/
def closeRecv (s : State) (src ep vc : Nat) : State :=
  { s with fab := { s.fab with recvs := s.fab.recvs.filter (fun r => !(r.src == src && r.ep == ep && r.vc == vc)) } }

def putRecv (s : State) (r : Recv) : State :=
  let s1 := closeRecv s r.src r.ep r.vc
  { s1 with fab := { s1.fab with recvs := s1.fab.recvs ++ [r] } }

/-- The rest of a transfer is discarded unless this flit was its last. -/
def dropRest (s : State) (f : Flit) (r : Recv) : State :=
  if f.last then closeRecv s r.src r.ep r.vc else putRecv s { r with dropped := true }

/-- R280: a flit that fails the check drops its transfer. -/
def orderDrop (s : State) (f : Flit) (r : Recv) : State :=
  let s1 := raise (s.bump Reg.ORDER_DROPS_COUNT) Ev.fabric_ORDER_DROP
  dropRest (tell s1 f.vc f.dst f.src (.nack f.txn 0)) f r

/-- R282: on VC 2 the DADDR names a staging slot of a context of train `ep`. -/
def stageAddr (s : State) (ep daddr : Nat) : Option Nat :=
  let c := getBits daddr 4 3
  if 2 ^ 7 ≤ daddr ∨ s.rd Reg.WG_CFG_W0_VALID ep c = 0 then none
  else some (s.rd Reg.WG_CFG_W3_STAGE_ADDR ep c * 4096 + getBits daddr 0 4 * 69632)

/-- R283: a range meets a PERSISTENT range. -/
def meetsPersistent (s : State) (a n : Nat) : Bool :=
  s.plan.persistent.any (fun r => decide (a < r.1 + r.2) && decide (r.1 < a + n))

/-- The judgement of R283 on a transfer's descriptor. -/
inductive Verdict283 where
  | accept (addr : Nat)
  | stale
  | range
  | persist
deriving DecidableEq, Repr

/-- R283: the tests of a train endpoint. -/
def judge (s : State) (vc ep : Nat) (d : Bytes) : Verdict283 :=
  if leAt d 14 1 ≠ s.stepNum % 256 ∨ leAt d 15 1 ≠ s.rd Reg.STEP_STAT_REPLAY_RUN ∨ !s.inStep then .stale
  else
    match (if vc = 2 then stageAddr s ep (leAt d 0 5) else some (leAt d 0 5)) with
    | none => .range
    | some a =>
      if hbmTop ≤ a + leAt d 8 4 then .range
      else if meetsPersistent s a (leAt d 8 4) then .persist
      else .accept a

/-- R282: what a transfer signals. -/
def descSignal (d : Bytes) : Option (Nat × Nat) :=
  if bit (leAt d 12 1) 7 then some (leAt d 12 1 % 128, leAt d 13 1 % 32) else none

/-- R283: a transfer of a valid step that must not land is dropped, and the step stops. -/
def refuseTransfer (s : State) (cnt : Fld) : State := replayFault (raise (s.bump cnt) Ev.fabric_PERSIST_HIT)

/-- R414: the device has handed its rank over. -/
def State.sinkMode (s : State) : Bool := s.rd Reg.RECOV_STAT_HANDED == 1

/-- R281, R283, R471: the bytes of an accepted transfer are written, charged to RX_PART; the last one leaves the transfer to
be answered. -/
def landBytes (s : State) (f : Flit) (r : Recv) (bs : Bytes) : State :=
  let at_ := r.expect - 16
  let cut := bs.take (r.bytes - at_)
  let a := r.addr + at_
  let s1 := if r.sink || cut == [] then s
    else storeFor (chargeRange s (s.rd Reg.FAB_CTL_RX_PART) a cut.length) .arrival a cut 0
  let r1 := { r with expect := r.expect + bs.length }
  if f.last then
    let s2 := closeRecv s1 r.src r.ep r.vc
    { s2 with fab := { s2.fab with written := s2.fab.written ++ [r1] } }
  else putRecv s1 r1

/-- R280, R282, R283: the first flit of a transfer at train endpoint `ep`. -/
def openTransfer (s : State) (f : Flit) (ep : Nat) : State :=
  let d := f.payload.take 16
  let r : Recv := { src := f.src, ep := ep, vc := f.vc, txn := f.txn, daddr := leAt d 0 5, bytes := leAt d 8 4,
                    expect := 16, sig := descSignal d }
  if s.sinkMode then landBytes s f { r with sink := true } (f.payload.drop 16)
  else match judge s f.vc ep d with
    | .stale => dropRest (s.bump Reg.STALE_DROPS_COUNT) f r
    | .range => dropRest (refuseTransfer s Reg.RANGE_DROPS_COUNT) f r
    | .persist => dropRest (refuseTransfer s Reg.PERSIST_HITS_COUNT) f r
    | .accept a => landBytes s f { r with addr := a } (f.payload.drop 16)

/-- R283, R285: a transfer is still of the running attempt when a later flit lands. -/
def stillRuns (s : State) (r : Recv) : Bool := r.sink || s.inStep

/-- R280: a DATA flit at train endpoint `ep`. -/
def endpointData (s : State) (f : Flit) (ep : Nat) : State :=
  let blank : Recv := { src := f.src, ep := ep, vc := f.vc, txn := f.txn }
  match openRecv s f.src ep f.vc with
  | none => if f.first ∧ f.ofs = 0 then openTransfer s f ep else orderDrop s f blank
  | some r =>
    if r.dropped then
      if f.first ∧ f.ofs = 0 then openTransfer (closeRecv s r.src r.ep r.vc) f ep
      else if f.last then closeRecv s r.src r.ep r.vc else s
    else if f.first ∨ f.ofs ≠ r.expect ∨ f.txn ≠ r.txn then orderDrop s f r
    else if !stillRuns s r then dropRest (s.bump Reg.STALE_DROPS_COUNT) f r
    else landBytes s f r f.payload

/-- R378: the first flit of a restore transfer at the gondola, which lands at DADDR in every step state. -/
def openRestore (s : State) (f : Flit) : State :=
  let d := f.payload.take 16
  let r : Recv := { src := f.src, ep := 8, vc := f.vc, txn := f.txn, addr := leAt d 0 5, bytes := leAt d 8 4, expect := 16,
                    sig := descSignal d }
  if hbmTop < r.addr + r.bytes then
    dropRest (raise (s.bump Reg.RANGE_DROPS_COUNT) Ev.fabric_PERSIST_HIT) f r
  else landBytes s f r (f.payload.drop 16)

/-- R280, R378: a restore transfer's flit at the gondola, checked in order. -/
def gondolaData (s : State) (f : Flit) : State :=
  match openRecv s f.src 8 f.vc with
  | none =>
    if f.first ∧ f.ofs = 0 then openRestore s f
    else orderDrop s f { src := f.src, ep := 8, vc := f.vc, txn := f.txn }
  | some r =>
    if r.dropped then
      if f.first ∧ f.ofs = 0 then openRestore (closeRecv s r.src r.ep r.vc) f
      else if f.last then closeRecv s r.src r.ep r.vc else s
    else if f.first ∨ f.ofs ≠ r.expect ∨ f.txn ≠ r.txn then orderDrop s f r
    else landBytes s f r f.payload

/-- R274: a flit for this device reaches its endpoint. A MSG flit's body goes to its unit, whose own command follows
(log 10). -/
def atEndpoint (s : State) (f : Flit) : State :=
  let ep := f.dst % 16
  if 11 ≤ ep then s.bump Reg.BAD_EP_COUNT
  else if ep = 9 then sendBulk s f.src f.payload
  else if f.ftype = 2 then s.emit (.message f.src ep f.vc f.payload)
  else if ep ≤ 7 then endpointData s f ep
  else if ep = 8 then gondolaData s f
  else s

/-- R269, R276: the oldest buffered flit of a pair leaves its buffer and is routed onward or taken. -/
def takeBuffered (s : State) (l vc cls : Nat) : State :=
  let x := s.line l
  let k := pairKey vc cls
  match x.rxq.getD k [] with
  | f :: r =>
    let s1 := s.setLine l { x with rxq := x.rxq.put k r, owed := x.owed.put k (x.owed.getD k 0 + 1) }
    if f.dst / 16 = s.self then atEndpoint s1 f else forward s1 { f with via := some (l, cls) }
  | [] => s

/-- 15 R431: what a halted device still handles: VC 0, 1 and 7 traffic that is not for its trains. -/
def gondolaFlit (s : State) (f : Flit) : Bool :=
  [0, 1, 7].contains f.vc && (f.dst / 16 != s.self || decide (8 ≤ f.dst % 16))

/-- Where a DATA flit for this device is to land, none where it writes nothing. -/
def landAddr (s : State) (f : Flit) : Option Nat :=
  let ep := f.dst % 16
  match openRecv s f.src ep f.vc with
  | some r => if r.dropped || r.sink then none else some (r.addr + r.expect - 16)
  | none =>
    if !f.first || s.sinkMode then none
    else if ep = 8 then some (leAt f.payload 0 5)
    else match judge s f.vc ep (f.payload.take 16) with
      | .accept a => some a
      | _ => none

/-- R213, R225: the write of a DATA flit for this device waits in the arrival buffer. -/
def landWaits (s : State) (f : Flit) : Bool :=
  f.ftype == 1 && f.dst / 16 == s.self && decide (f.dst % 16 ≤ 8)
    && (match landAddr s f with
      | some a => mustWait s (s.rd Reg.FAB_CTL_RX_PART) a f.payload.length
      | none => false)

def canTake (s : State) (l vc cls : Nat) : Bool :=
  match (s.line l).rxq.getD (pairKey vc cls) [] with
  | f :: _ => s.assigned && (s.islandsRun || gondolaFlit s f) && !landWaits s f
  | [] => false

def execDataFlit (l : LineNo) (vc : Fin 8) (cls : Fin 2) (s : State) : Result :=
  whenOk (canTake s l vc cls) s (takeBuffered s l vc cls)

/-- R268: the same SEQ has been asked for RETRY_MAX times. -/
def retriesSpent (s : State) (l : Nat) : Bool :=
  let x := s.line l
  x.askedSeq == x.rxSeq && decide (s.rd Reg.LINE_CFG_RETRY_MAX l ≤ x.asked)

/-! ### Sending transfers (R281, R282) -/

/-- R282: the 16-byte descriptor. -/
def descriptorBytes (daddr bytes : Nat) (sig : Option (Nat × Nat)) (step attempt : Nat) : Bytes :=
  leBytes 8 daddr ++ leBytes 4 bytes
    ++ leBytes 4 (match sig with
      | some (k, g) => 128 + k + 256 * g + step % 256 * 65536 + attempt % 256 * 16777216
      | none => step % 256 * 65536 + attempt % 256 * 16777216)

/-- The flits of a transfer's stream, 236 bytes each. -/
def cutStream : Nat → Flit → Bytes → Nat → List Flit
  | 0, _, _, _ => []
  | n + 1, f, bs, ofs =>
    let rest := bs.drop 236
    { f with first := ofs == 0, last := rest == [], ofs := ofs, payload := bs.take 236 } ::
      (if rest = [] then [] else cutStream n f rest (ofs + 236))

/-- The flits of a transfer. -/
def transferFlits (x : Send) : List Flit :=
  let f : Flit := { ftype := 1, vc := x.vc, cls := 0, first := false, last := false, dst := x.dst, src := x.src,
                    txn := x.txn, ofs := 0, payload := [] }
  cutStream (x.body.length / 236 + 1) f x.body 0

/-- R276, R281, R292: a flit of this device goes to its own endpoint, to its schedule's line while that is UP, else to the
routed one. -/
def inject (s : State) (line : Option Nat) (f : Flit) : State :=
  if f.dst / 16 = s.self then atEndpoint s f
  else match line with
    | some l => if s.lineUp l then enqueue s l f else forward s f
    | none => forward s f

/-- The flits of a transfer enter their queues. -/
def putFlits (s : State) (x : Send) : State := (transferFlits x).foldl (fun s f => inject s x.line f) s

/-- A transfer to address `dst` is sent and waits for its DONE. `body` is its stream, descriptor first. -/
def startSend (s : State) (vc src dst : Nat) (owner : SendOwner) (line : Option Nat) (body : Bytes) : State :=
  let x : Send := { txn := s.fab.txn, vc := vc, src := src, dst := dst, owner := owner, line := line, body := body }
  putFlits { s with fab := { s.fab with txn := (s.fab.txn + 1) % 65536, sends := s.fab.sends ++ [x] } } x

/-! ### Line schedules (R281) -/

/-- R281: a line record's fields, in bytes. -/
structure LineFields where
  vc : Nat
  dest : Nat
  kite : Nat
  src : Nat
  dst : Nat
  len : Nat
deriving DecidableEq, Repr

def lineFields (w : Nat) : LineFields :=
  { vc := getBits w 83 3, dest := getBits w 71 12, kite := getBits w 64 7, src := getBits w 36 28 * 4096,
    dst := getBits w 8 28 * 4096, len := getBits w 0 8 * 4096 }

def schedCount (s : State) (l : Nat) : Nat := (s.plan.scheds.getD l (0, 0)).2 / 16

def schedRecord (s : State) (l : Nat) : Nat := planRecord s (s.plan.scheds.getD l (0, 0)).1 (s.line l).next

/-- R281: the previous record's last flit has left the queue. -/
def lastSent (s : State) (l : Nat) : Bool :=
  let x := s.line l
  match x.lastTxn with
  | some t => !x.outq.any (fun e => e.2.any (fun f => f.txn == t && f.src / 16 == s.self))
  | none => true

/-- R281: the next record of a line's schedule is due, and its reads may proceed (R213, R225). -/
def lineDue (s : State) (l : Nat) : Bool :=
  let w := schedRecord s l
  let m := lineFields w
  s.rd Reg.STEP_STAT_STATE == 2 && s.islandsRun && decide ((s.line l).next < schedCount s l)
    && decide (releaseTick s w ≤ s.tick) && gateReached (s.kite (s.slotOf m.kite)).gates w && lastSent s l
    && !(m.len != 0 && mustWait s (s.rd Reg.LINE_CFG_PART l) m.src m.len)

/-- R281: the next record of the line's schedule starts its transfer. The endpoint at either end is the train that
owns the address (log 37). LEN 0 sends nothing. -/
def runLine (s : State) (l : Nat) : State :=
  let w := schedRecord s l
  let m := lineFields w
  let x := s.line l
  if m.len = 0 then s.setLine l { x with next := x.next + 1, lastTxn := none }
  else
    let s1 := s.setLine l { x with next := x.next + 1, lastTxn := some s.fab.txn, undone := x.undone ++ [x.next] }
    match readFor (chargeRange s1 (s.rd Reg.LINE_CFG_PART l) m.src m.len) .fetch m.src m.len 1 with
    | (none, s2) => s2
    | (some bs, s2) =>
      let sig := (signalOf w).map (fun g => (m.kite, g))
      let d := descriptorBytes m.dst m.len sig s2.stepNum (s2.rd Reg.STEP_STAT_REPLAY_RUN)
      startSend s2 m.vc (16 * s2.self + trainOf m.src) (16 * m.dest + trainOf m.dst) (.lineRecord l x.next) (some l)
        (d ++ bs)

/-- R281: the next record of the line's schedule is fetched and runs. -/
def startLine (s : State) (l : Nat) : State :=
  fetchRecords s .fetch (s.plan.scheds.getD l (0, 0)).1 (s.line l).next 1 (fun s => runLine s l)

def execLineScheduleRecord (l : LineNo) (s : State) : Result := whenOk (lineDue s l) s (startLine s l)

/-- R284: every record of a line's schedule has completed. -/
def lineFinished (s : State) (l : Nat) : Bool := decide (schedCount s l ≤ (s.line l).next) && (s.line l).undone == []

end Sys2Proof.Machine
end

