-- ==== Sys2Proof/Machine/Winch.lean ====
section
/-! DEFINITION. The winch (09): descriptors, local accumulation, wire formats, the hop, the two laps of the ring, staging
slots, faults, and its commands. -/

namespace Sys2Proof.Machine

def State.setRun (s : State) (t : Nat) (r : WinchRun) : State :=
  let w := s.winchOf t
  s.setWinch t { w with runs := w.runs.put r.ctx r }

/-! ### Descriptors (R296, R297) -/

/-- R296: the descriptor that 32 bytes hold. -/
def parseDesc (b : Bytes) : WinchDesc :=
  let f := leAt b 30 1
  { grad := leAt b 0 5, result := leAt b 5 5, lacc := leAt b 10 5, scale := leAt b 15 5, count := leAt b 20 4,
    stream := leAt b 24 2, accSteps := leAt b 26 2, pgroup := leAt b 28 1, gtag := leAt b 29 1, wire := getBits f 0 2,
    gradFmt := getBits f 2 2, gts := bit f 4, decay := bit f 5, zeroBits := getBits f 6 2 == 0 && leAt b 31 1 == 0 }

/-- Bytes of a gradient element. -/
def gradBytes (fmt : Nat) : Nat := if fmt = 0 then 4 else 2

/-- `n` rounded up to a multiple of 256. -/
def up256 (n : Nat) : Nat := ceilDiv n 256 * 256

/-- R301: bytes of an accumulator bank. -/
def laccBank (d : WinchDesc) : Nat := up256 (4 * d.count)

/-- R305: bytes of a scale-table bank. -/
def scaleBank (d : WinchDesc) : Nat := up256 (ceilDiv d.count 32)

/-- R297: a range a descriptor implies reaches 736 GiB. -/
def descBeyond (d : WinchDesc) : Bool :=
  decide (hbmTop < d.grad + gradBytes d.gradFmt * d.count) || decide (hbmTop < d.result + 4 * d.count)
    || (d.accSteps != 1 && decide (hbmTop < d.lacc + 2 * laccBank d))
    || (d.wire == 2 && decide (hbmTop < d.scale + 2 * scaleBank d))

/-- R297: fields outside their range. -/
def descRange (d : WinchDesc) : Bool :=
  d.accSteps == 0 || decide (256 < d.accSteps) || !d.zeroBits || d.grad % 256 != 0 || d.result % 256 != 0
    || (d.accSteps != 1 && d.lacc % 256 != 0) || (d.wire == 2 && d.scale % 256 != 0)

/-- R297: the checks of a descriptor, the run-time DESC_RANGE. -/
def descBad (d : WinchDesc) : Bool := d.wire == 3 || d.gradFmt == 3 || descRange d || descBeyond d

/-! ### Contributions (R300, R301) -/

/-- The canonical NaN of R314. -/
def winchNan : Nat := 0x7FC00000

def notFinite (c : Nat) : Bool := !(fp32 c).isFinite

/-- R300: one gradient code as FP32, with its tag scale. -/
def gradValue (s : State) (d : WinchDesc) (c : Nat) : Nat :=
  let v := decodeFmt d.gradFmt c
  if d.gts then (toFp32 (v.mul (tagScale s d.gtag))).1 else (toFp32 v).1

/-- R301: the winch's draw for element `e` of a descriptor. -/
def winchDraw (s : State) (t : Nat) (d : WinchDesc) (e : Nat) : Nat :=
  draw16 s.plan.seed (unitWord s.plan.rank 1 t) d.stream (s.rd Reg.STEP_NUM_LO) e

/-- R300: the window position. -/
def windowPos (s : State) (d : WinchDesc) : Nat := (s.stepNum - s.plan.firstStep) % d.accSteps

/-- R300: the reduction number. -/
def reductionNo (s : State) (d : WinchDesc) : Nat := (s.stepNum - s.plan.firstStep) / d.accSteps

/-- R300: the sums of elements `e0` on: `gs` the gradient codes, `as` the accumulator's (zeros at w = 0). The OF of R99 shows
nowhere here: WN_OF counts the additions of a hop (DESIGN CHOICE, log 97). -/
def accSums (s : State) (t : Nat) (d : WinchDesc) (e0 : Nat) (gs as : List Nat) : List Nat :=
  (gs.zip as).zipIdx.map (fun x => (accumulate x.1.2 (gradValue s d x.1.1) .sr (winchDraw s t d (e0 + x.2))).1)

/-- R217, R319: the winch's record `idx` loses transfers of its HBM data, already counted. -/
def winchLoses (s : State) (t idx : Nat) (bad : List Nat) (w : Bool := false) : State :=
  winchFault (bad.foldl noteUe s) t 6 idx w

/-- A range read by the winch's record `idx`, charged to its partition: the bytes, none when a transfer is lost. -/
def winchRead (s : State) (t idx part a n : Nat) : Option Bytes × State :=
  let (bs, bad, s1) := memRead (chargeRange s part a n) a n 0
  if bad = [] then (some bs, s1) else (none, winchLoses (bad.foldl uncorrectableRead s1) t idx bad)

/-- R471: a range written by the winch's record `idx`. -/
def winchWrite (s : State) (t idx part a : Nat) (bs : Bytes) : State :=
  let (bad, s1) := memWrite (chargeRange s part a bs.length) a bs 0
  if bad = [] then s1 else winchLoses (bad.foldl failedMerge s1) t idx bad

/-- R300: the gradient and accumulator ranges of `n` elements from `e0`. -/
def inputRanges (s : State) (d : WinchDesc) (e0 n : Nat) : List (Nat × Nat) :=
  let gb := gradBytes d.gradFmt
  let w := windowPos s d
  (d.grad + gb * e0, gb * n) :: (if d.accSteps = 1 ∨ w = 0 then [] else [(d.lacc + (w - 1) % 2 * laccBank d + 4 * e0, 4 * n)])

/-- Ranges read one after the other, up to one that is lost. -/
def readAll (s : State) (t idx part : Nat) : List (Nat × Nat) → Option (List Bytes) × State
  | [] => (some [], s)
  | r :: rs =>
    match winchRead s t idx part r.1 r.2 with
    | (none, s1) => (none, s1)
    | (some b, s1) => ((readAll s1 t idx part rs).1.map (b :: ·), (readAll s1 t idx part rs).2)

/-- R300: gradient and accumulator codes of `n` elements from `e0`. -/
def readInputs (s : State) (t idx part : Nat) (d : WinchDesc) (e0 n : Nat) : Option (List Nat × List Nat) × State :=
  let r := readAll s t idx part (inputRanges s d e0 n)
  (r.1.map (fun bs => (unpackBits (8 * gradBytes d.gradFmt) n (bs.headD []),
    match bs with
    | _ :: a :: _ => unpackBits 32 n a
    | _ => List.replicate n 0)), r.2)

/-- R300: the accumulator bank the step writes. -/
def accumTarget (s : State) (d : WinchDesc) : Nat := d.lacc + windowPos s d % 2 * laccBank d

/-- R300: an accumulating pass over the whole descriptor. -/
def accumulatePass (s : State) (t idx part : Nat) (d : WinchDesc) : State :=
  match readInputs s t idx part d 0 d.count with
  | (some (gs, as), s1) => winchWrite s1 t idx part (accumTarget s1 d) (packBits 32 (accSums s t d 0 gs as))
  | (none, s1) => s1

/-- R300: the contributions of a segment. -/
def contributions (s : State) (t : Nat) (r : WinchRun) (e0 n : Nat) : Option (List Nat) × State :=
  let (x, s1) := readInputs s t r.idx r.part r.d e0 n
  (x.map (fun v => if r.d.accSteps = 1 then v.1.map (gradValue s r.d) else accSums s t r.d e0 v.1 v.2), s1)

/-! ### Wire formats and the hop (R302 to R306, R314) -/

/-- R302: elements of a full segment. -/
def segElems (wire : Nat) : Nat := if wire = 0 then 16384 else if wire = 1 then 32768 else 65536

def segCount (d : WinchDesc) : Nat := ceilDiv d.count (segElems d.wire)

/-- Elements of segment `j`. -/
def elemsOf (d : WinchDesc) (j : Nat) : Nat := min (segElems d.wire) (d.count - j * segElems d.wire)

/-- Bytes of an element on the wire. -/
def wireBytes (wire : Nat) : Nat := if wire = 0 then 4 else if wire = 1 then 2 else 1

/-- R303: the FP32 value of a wire code; `sc` is its block's scale. Answers whether the decode exceeds FP32. -/
def wireDecode (wire c sc : Nat) : Nat × Bool :=
  if wire = 0 then (c, false)
  else if wire = 1 then ((toFp32 (decodeFmt 1 c)).1, false)
  else
    let x := toFp32 ((decodeFmt 3 c).scale2 ((sc : Int) - 127))
    if x.2.ovf then (winchNan, true) else (x.1, false)

/-- One element at a hop: the sum, whether a NaN was made here, and whether it counts in WN_OF. -/
structure Hopped where
  s : Nat
  made : Bool
  overran : Bool
deriving DecidableEq, Repr

/-- R303, R314: ring rank 0's element. -/
def hopFirst (c : Nat) : Hopped :=
  if notFinite c then { s := winchNan, made := true, overran := false } else { s := c, made := false, overran := false }

/-- R303, R314: the element of a later rank. -/
def hopNext (inCode : Nat) (decodeOver : Bool) (c : Nat) : Hopped :=
  if decodeOver then { s := winchNan, made := true, overran := true }
  else if notFinite inCode then { s := winchNan, made := (fp32 inCode).isInf, overran := false }
  else
    let x := accumulate inCode c .rne 0
    if notFinite x.1 then { s := winchNan, made := true, overran := x.2.ovf } else { s := x.1, made := false, overran := false }

/-- A block or an element as encoded: codes, scale, whether the scale was raised, clips. -/
structure Encoded where
  codes : List Nat
  scale : Nat
  raised : Bool := false
  clips : Nat := 0
deriving DecidableEq, Repr

/-- The largest finite magnitude of FP32 codes. -/
def largest (cs : List Nat) : Val :=
  cs.foldl (fun m c =>
    let v := (fp32 c).abs
    if v.isFinite && decide (m.cmp v < 0) then v else m) (Val.zero)

/-- R305: whether `amax` × 2^k exceeds 464. -/
def exceeds464 (amax : Val) (k : Int) : Bool := decide (0 < (amax.scale2 k).cmp (.fin false 464 0))

/-- R305: the scale of a block whose largest magnitude is `amax`. -/
def blockScale (amax : Val) (sIn : Nat) : Nat :=
  match amax with
  | .fin _ m e =>
    if m ≠ 0 && exceeds464 amax (127 - (sIn : Int)) then
      let E := floorLog2 m e - 8
      let E := if exceeds464 amax (-E) then E + 1 else E
      (E + 127).toNat
    else sIn
  | _ => sIn

/-- R305: one MX8 block. -/
def encodeBlock (cs : List Nat) (sIn : Nat) : Encoded :=
  let sc := blockScale (largest cs) sIn
  { codes := cs.map (fun c => if notFinite c then 0x7F
      else (convertVal 3 .rne false 0 ((fp32 c).scale2 (127 - (sc : Int)))).code),
    scale := sc, raised := decide (sIn < sc) }

/-- R304: FP32 and BF16 elements. -/
def encodePlain (wire : Nat) (cs : List Nat) : Encoded :=
  if wire = 0 then { codes := cs, scale := 0 }
  else
    let xs := cs.map (fun c => if notFinite c then { code := 0x7FC0 } else convertVal 1 .rne false 0 (fp32 c))
    { codes := xs.map Conv.code, scale := 0, clips := (xs.filter (fun x => x.flags.clips != 0)).length }

/-- A list cut into blocks of 32. -/
def blocks32 : Nat → List Nat → List (List Nat)
  | 0, _ => []
  | n + 1, l => if l = [] then [] else l.take 32 :: blocks32 n (l.drop 32)

/-- R304, R305: the elements of a segment encoded; `scales` holds the incoming scales of its blocks. -/
def encodeSegment (wire : Nat) (cs scales : List Nat) : Bytes × Bytes × Nat × Nat :=
  if wire = 2 then
    let es := (blocks32 (cs.length / 32 + 1) cs).zipIdx.map (fun b => encodeBlock b.1 (scales.getD b.2 0))
    (packBits 8 (es.flatMap Encoded.codes), packBits 8 (es.map Encoded.scale), (es.filter Encoded.raised).length, 0)
  else
    let e := encodePlain wire cs
    (packBits (8 * wireBytes wire) e.codes, [], 0, e.clips)

/-- The codes and block scales a segment carries. -/
def segCodes (wire : Nat) (g : Segment) : List Nat := unpackBits (8 * wireBytes wire) g.elems g.data

def segScales (g : Segment) : List Nat := g.scales.map BitVec.toNat

/-- R303: the elements of a segment decoded, with whether each decode exceeds FP32. -/
def segValues (wire : Nat) (g : Segment) : List (Nat × Bool) :=
  (segCodes wire g).zipIdx.map (fun c => wireDecode wire c.1 ((segScales g).getD (c.2 / 32) 0))

/-- R305: ring rank 0's scales of a segment, with the blocks whose entry was clamped. -/
def tableScales (bs : Bytes) : List Nat × Nat :=
  (bs.map (fun b => min b.toNat 0xF7), (bs.filter (fun b => decide (0xF7 < b.toNat))).length)

/-- R303 to R305, R310: the segment a hop sends, from the hopped elements. -/
def hopSegment (wire p : Nat) (hs : List Hopped) (scales : List Nat) (firstNan nanRank raises : Nat) :
    Segment × Nat × Nat :=
  let (data, sc, raised, clips) := encodeSegment wire (hs.map Hopped.s) scales
  let made := (hs.zipIdx.find? (fun h => h.1.made)).map (·.2)
  let newer := match made with | some o => decide (o < firstNan) | none => false
  ({ elems := hs.length, data := data, scales := sc, firstNan := if newer then made.getD 0 else firstNan,
     nanRank := if newer then p else nanRank, raises := (raises + raised) % 2 ^ 32 }, raised, clips)

/-- R306: the scale of a block in the next reduction, from its final codes. -/
def decayed (decay : Bool) (codes : List Nat) (sc : Nat) : Nat :=
  let big := codes.foldl (fun m c =>
    let v := (decodeFmt 3 c).abs
    if v.isFinite && decide (m.cmp v < 0) then v else m) (Val.zero)
  if decay && decide (big.cmp (.fin false 224 0) ≤ 0) then sc - 1 else sc

/-- R306: the scale bytes every rank writes for a segment. -/
def nextScales (decay : Bool) (g : Segment) : Bytes :=
  ((blocks32 (g.elems / 32 + 1) (segCodes 2 g)).zip (segScales g)).map (fun b => BitVec.ofNat 8 (decayed decay b.1 b.2))

/-! ### Segments on the fabric (R310, R311) -/

/-- R310: the trailer of segment `j` of lap `lap` as a sender writes it. -/
def trailerBytes (s : State) (t : Nat) (r : WinchRun) (lap j : Nat) (g : Segment) : Bytes :=
  leBytes 4 j ++ leBytes 4 g.elems ++ leBytes 4 g.firstNan ++ leBytes 2 g.nanRank ++ leBytes 2 r.rank ++
  leBytes 4 g.raises ++ leBytes 1 (lap + 2 * r.ctx + 16 * s.rd Reg.WG_CFG_W0_ROLE t r.ctx) ++ zeros 3 ++
  leBytes 4 r.rho ++ leBytes 4 (crc32 (g.data ++ g.scales))

/-- R311: the slot of segment `j` of a lap from a sender of a role. -/
def slotNo (lap j role : Nat) : Nat := (lap * 4 + j % 4) * 2 + role

/-- The segment that staged bytes hold. -/
def stagedSegment (wire : Nat) (bs : Bytes) : Segment :=
  let tr := bs.drop (bs.length - 32)
  let n := leAt tr 4 4
  { elems := n, data := bs.take (wireBytes wire * n), scales := (bs.take (bs.length - 32)).drop (wireBytes wire * n),
    firstNan := leAt tr 8 4, nanRank := leAt tr 12 2 % 4096, raises := leAt tr 16 4 }

/-- R307: whether the rank sends in a lap. -/
def sendsIn (r : WinchRun) (lap : Nat) : Bool :=
  if lap = 0 then decide (r.rank + 1 < r.size) else r.size != 1 && (decide (r.rank + 2 < r.size) || r.rank + 1 == r.size)

/-- R307: whether the rank consumes arriving segments in a lap. -/
def takesIn (r : WinchRun) (lap : Nat) : Bool :=
  if lap = 0 then r.rank != 0 else decide (r.rank + 1 < r.size)

/-- R311: the slot of segment `j` of a lap at a successor is free. -/
def slotFreeFor (freed : Table Nat) (lap j : Nat) : Bool := decide (j < freed.getD lap 0 + 4)

/-- R310: the trailer of a staged segment. -/
def Staged.trailer (x : Staged) : Bytes := x.bytes.drop (x.bytes.length - 32)

/-- The checked copy of segment `j` of a lap from the sender of a role. -/
def copyOf (w : Winch) (ctx lap j role : Nat) : Option Staged :=
  (Table.find (16 * ctx + slotNo lap j role) w.staged).filter (fun x => x.checked && leAt x.trailer 0 4 == j)

/-- R313: the copy of segment `j` of a lap that is consumed: the first complete one, the primary's when both were complete in
one cycle. -/
def stagedCopy (w : Winch) (ctx lap j : Nat) : Option (Nat × Staged) :=
  match copyOf w ctx lap j 0, copyOf w ctx lap j 1 with
  | some p, some b => if memCycle b.since < memCycle p.since then some (1, b) else some (0, p)
  | some p, none => some (0, p)
  | none, some b => some (1, b)
  | none, none => none

/-! ### Reduction: one segment of a context (R303, R307, R313) -/

/-- The segment of the lap that the context would combine next: the lap and the segment. Lap 1 goes before lap 2 (log
38). A hop waits for a free slot at its primary successor (R309). -/
def nextJob (w : Winch) (r : WinchRun) : Option (Nat × Nat) :=
  let n := segCount r.d
  let ready := fun (lap j : Nat) =>
    decide (j < n) && (!sendsIn r lap || slotFreeFor r.freedP lap j) && (!takesIn r lap || (stagedCopy w r.ctx lap j).isSome)
  if r.accOnly then none
  else if ready 0 r.lap1 && (r.rank + 1 != r.size || !sendsIn r 1 || slotFreeFor r.freedP 1 r.lap1) then some (0, r.lap1)
  else if takesIn r 1 && ready 1 r.lap2 then some (1, r.lap2)
  else none

/-- R306, R307: the results of a final segment are written, with its scales, and its NaNs counted. -/
def writeResult (s : State) (t : Nat) (r : WinchRun) (j : Nat) (g : Segment) : State :=
  let e0 := j * segElems r.d.wire
  let vals := (segValues r.d.wire g).map (fun v => if notFinite v.1 then winchNan else v.1)
  let s1 := winchWrite s t r.idx r.part (r.d.result + 4 * e0) (packBits 32 vals)
  let s2 := if r.d.wire = 2 then
      winchWrite s1 t r.idx r.part (r.d.scale + r.rho % 2 * scaleBank r.d + e0 / 32) (nextScales r.d.decay g)
    else s1
  let nans := (vals.filter notFinite).length
  let overs := ((segValues r.d.wire g).filter (·.2)).length
  let r1 := { r with nans := r.nans + nans, overs := r.overs + overs,
                     firstNan := if nans = 0 then r.firstNan else
                       match r.firstNan with
                       | some f => some f
                       | none => some (e0 + ((vals.zipIdx.find? (fun v => notFinite v.1)).map (·.2)).getD 0, g.nanRank) }
  let s3 := s2.setRun t r1
  if nans = 0 then s3
  else
    let i := r.d.pgroup / 32
    s3.wr Reg.NAN_GROUPS_GROUPS (Nat.lor (s.rd Reg.NAN_GROUPS_GROUPS t i) (2 ^ (r.d.pgroup % 32))) t i

/-- R311: a segment waits to be sent to the successors. -/
def queueSegment (s : State) (t : Nat) (ctx lap j : Nat) (g : Segment) : State :=
  match Table.find ctx (s.winchOf t).runs with
  | some r =>
    let backup := s.rd Reg.WG_CFG_W1_NEXT_B_VALID t ctx == 1
    s.setRun t { r with outP := r.outP ++ [(lap, j, g)], outB := if backup then r.outB ++ [(lap, j, g)] else r.outB }
  | none => s

/-- R311: SLOT_FREE to the source of a segment. -/
def sendFree (s : State) (t ctx lap j : Nat) (x : Staged) : State :=
  tell s 2 (16 * s.self + t) x.src (.slotFree t ctx lap j)

/-- R313: a second copy of a consumed segment: compared by the trailers' CRCs, discarded and counted; its slot is freed. -/
def secondCopy (s : State) (t : Nat) (r : WinchRun) (key lap j crc : Nat) (x : Staged) (w : Bool := false) : State :=
  let v := s.winchOf t
  let s1 := sendFree ((s.setWinch t { v with staged := v.staged.erase key }).bump Reg.DUP_DISCARDS_COUNT t) t r.ctx lap j x
  if leAt x.trailer 28 4 = crc then s1
  else winchFault (raise s1 Ev.winch_BACKUP_DIVERGE t) t 5 r.idx w

/-- R311, R313: the staged copy of a role is consumed: its slot is freed at its source, and a copy of the other role that is
there already is discarded. -/
def consumeCopy (s : State) (t : Nat) (r : WinchRun) (lap j role : Nat) (x : Staged) : State :=
  let w := s.winchOf t
  let crc := leAt x.trailer 28 4
  let s1 := s.setWinch t { w with staged := w.staged.erase (16 * r.ctx + slotNo lap j role) }
  let s2 := sendFree (s1.setRun t { r with crcs := r.crcs.put (2 ^ 22 * lap + j) crc }) t r.ctx lap j x
  let s3 := if role = 1 then raise (s2.bump Reg.BACKUP_TAKEN_COUNT t) Ev.winch_BACKUP_TAKEN t else s2
  match copyOf w r.ctx lap j (1 - role) with
  | some y => secondCopy s3 t r (16 * r.ctx + slotNo lap j (1 - role)) lap j crc y
  | none => s3

/-- The counts of a combined segment, and the trace record (15 R424). -/
def countCombined (s : State) (t : Nat) (r : WinchRun) (lap j : Nat) : State :=
  let s1 := (((s.bump Reg.SEGS_COMBINED_COUNT t).wr Reg.WN_STAT_CTX r.ctx t).wr Reg.WN_STAT_SEG j t).wr
    Reg.WN_STAT_PHASE (2 + lap) t
  traceAdd s1 t 4 0x40 (128 + t) r.desc j lap

/-- The run of a context, for a state in which it runs. -/
def runOf (s : State) (t ctx : Nat) (d : WinchRun) : WinchRun := (s.winchOf t).runs.getD ctx d

/-- R303 to R307: a lap-1 segment is combined from the hopped elements. -/
def finishHop (s : State) (t : Nat) (r0 : WinchRun) (j : Nat) (hs : List Hopped) (scales : List Nat) (clamped : Nat)
    (firstNan nanRank raises : Nat) : State :=
  let (g, raised, clips) := hopSegment r0.d.wire r0.rank hs scales firstNan nanRank raises
  let r := { r0 with lap1 := j + 1, raised := r0.raised + raised, clips := r0.clips + clips,
                     overs := r0.overs + (hs.filter Hopped.overran).length, clamped := r0.clamped + clamped }
  let s1 := countCombined (s.setRun t r) t r 0 j
  if r.rank + 1 = r.size then
    let s2 := writeResult s1 t r j g
    if sendsIn r 1 then queueSegment s2 t r.ctx 1 j g else s2
  else queueSegment s1 t r.ctx 0 j g

/-- R303: ring rank 0 encodes its contribution to segment `j`. -/
def firstHop (s : State) (t : Nat) (r : WinchRun) (j : Nat) : State :=
  let n := elemsOf r.d j
  let e0 := j * segElems r.d.wire
  match contributions s t r e0 n with
  | (none, s1) => s1
  | (some cs, s1) =>
    match (if r.d.wire = 2 then
        winchRead s1 t r.idx r.part (r.d.scale + (r.rho + 1) % 2 * scaleBank r.d + e0 / 32) (ceilDiv n 32)
      else (some [], s1)) with
    | (none, s2) => s2
    | (some sb, s2) =>
      let (sc, clamped) := tableScales sb
      finishHop s2 t r j (cs.map hopFirst) sc clamped 0xFFFFFFFF 0 0

/-- R217, R310: the segment a staging slot holds, read through the spool; the slot is consumed, and `f` follows. -/
def takeStaged (s : State) (t : Nat) (r : WinchRun) (lap j role : Nat) (x : Staged) (f : State → Segment → State) : State :=
  match winchRead s t r.idx r.part x.addr x.bytes.length with
  | (none, s1) => s1
  | (some bs, s1) => f (consumeCopy s1 t r lap j role x) (stagedSegment r.d.wire bs)

/-- R303: a later ring rank combines segment `j` with its contribution. -/
def laterHop (s : State) (t : Nat) (r0 : WinchRun) (j role : Nat) (x : Staged) : State :=
  takeStaged s t r0 0 j role x (fun s0 g =>
    let r := runOf s0 t r0.ctx r0
    match contributions s0 t r (j * segElems r.d.wire) (elemsOf r.d j) with
    | (none, s1) => s1
    | (some cs, s1) =>
      let hs := ((segValues r.d.wire g).zip cs).map (fun e => hopNext e.1.1 e.1.2 e.2)
      finishHop s1 t r j hs (segScales g) 0 g.firstNan g.nanRank g.raises)

/-- R307: a lap-2 segment is written and passed on unchanged. -/
def secondLap (s : State) (t : Nat) (r0 : WinchRun) (j role : Nat) (x : Staged) : State :=
  takeStaged s t r0 1 j role x (fun s0 g =>
    let r := { runOf s0 t r0.ctx r0 with lap2 := j + 1 }
    let s1 := writeResult (countCombined (s0.setRun t r) t r 1 j) t r j g
    if sendsIn r 1 then queueSegment s1 t r.ctx 1 j g else s1)

/-- R319: the winch program is not stopped. -/
def winchRuns (s : State) (t : Nat) : Bool := s.rd Reg.WN_STAT_PHASE t != 5

/-- R295: a winch can work on the running step. -/
def winchWorks (s : State) (t : Nat) : Bool := s.inStep && s.islandsRun && winchRuns s t

/-- R309: the context wants a segment of which no copy has arrived. -/
def wantsSegment (w : Winch) (r : WinchRun) : Bool :=
  let wants := fun (lap j : Nat) =>
    takesIn r lap && decide (j < segCount r.d) && (!sendsIn r lap || slotFreeFor r.freedP lap j)
      && (stagedCopy w r.ctx lap j).isNone
  !r.accOnly && (wants 0 r.lap1 || wants 1 r.lap2)

/-- R309: the combine is ready, and no segment that a context wants has arrived. -/
def winchWaits (s : State) (t : Nat) : Bool :=
  let w := s.winchOf t
  winchWorks s t && w.runs.all (fun e => (nextJob w e.2).isNone) && w.runs.any (fun e => wantsSegment w e.2)

/-- R309: the combine of train `t` begins or ceases to wait. -/
def settleWait (s : State) (t : Nat) : State :=
  if winchWaits s t then
    let w := s.winchOf t
    if w.waitSince.isSome then s else s.setWinch t { w with waitSince := some s.tick }
  else endWait s t

/-- R303, R306, R307: the HBM ranges that the combine of a segment touches. -/
def segmentRanges (s : State) (w : Winch) (r : WinchRun) (lap j : Nat) : List (Nat × Nat) :=
  let e0 := j * segElems r.d.wire
  let n := elemsOf r.d j
  (if lap = 0 then inputRanges s r.d e0 n else [])
    ++ (match stagedCopy w r.ctx lap j with | some (_, x) => [(x.addr, x.bytes.length)] | none => [])
    ++ (if lap = 0 ∧ r.rank = 0 ∧ r.d.wire = 2 then
        [(r.d.scale + (r.rho + 1) % 2 * scaleBank r.d + e0 / 32, ceilDiv n 32)] else [])
    ++ (if lap = 1 ∨ r.rank + 1 = r.size then (r.d.result + 4 * e0, 4 * n) ::
        (if r.d.wire = 2 then [(r.d.scale + r.rho % 2 * scaleBank r.d + e0 / 32, ceilDiv n 32)] else []) else [])

/-- R213, R225: an access of partition `p` to one of the ranges must wait. -/
def anyWaits (s : State) (p : Nat) (rs : List (Nat × Nat)) : Bool := rs.any (fun r => mustWait s p r.1 r.2)

/-- The next segment of a context whose accesses may proceed. -/
def freeJob (s : State) (t : Nat) (r : WinchRun) : Option (Nat × Nat) :=
  (nextJob (s.winchOf t) r).filter (fun j => !anyWaits s r.part (segmentRanges s (s.winchOf t) r j.1 j.2))

/-- R295: the first context after the one last served that has a segment ready. -/
def nextContext (s : State) (t : Nat) : Option (WinchRun × Nat × Nat) :=
  let w := s.winchOf t
  (List.range 8).findSome? (fun i =>
    match Table.find ((w.last + 1 + i) % 8) w.runs with
    | some r => (freeJob s t r).map (fun j => (r, j))
    | none => none)

/-- R295, R303: one segment of the next context is combined. -/
def combineNext (s : State) (t : Nat) (r : WinchRun) (lap j : Nat) : State :=
  let s0 := s.setWinch t { s.winchOf t with last := r.ctx }
  let s1 := if lap = 0 && r.rank == 0 then firstHop s0 t r j
    else match stagedCopy (s0.winchOf t) r.ctx lap j with
      | some (role, x) => if lap = 0 then laterHop s0 t r j role x else secondLap s0 t r j role x
      | none => s0
  settleWait s1 t

def execSegmentCombine (t : Train) (s : State) : Result :=
  match nextContext s t with
  | some (r, lap, j) => whenOk (winchWorks s t) s (combineNext s t r lap j)
  | none => .next s

/-! ### Sending (R310, R311) -/

/-- The first queued segment whose slot at the successor is free. -/
def sendable (q : List (Nat × Nat × Segment)) (freed : Table Nat) : Option (Nat × Nat × Segment) :=
  q.find? (fun x => slotFreeFor freed x.1 x.2.1)

def dropJob (q : List (Nat × Nat × Segment)) (lap j : Nat) : List (Nat × Nat × Segment) :=
  q.filter (fun x => !(x.1 == lap && x.2.1 == j))

/-- The records of a context with segments to send: to a backup, completed ones go first (R308). -/
def senders (w : Winch) (ctx : Nat) (backup : Bool) : List WinchRun :=
  (if backup then w.backs.filter (fun r => r.ctx == ctx) else []) ++ (Table.find ctx w.runs).toList

/-- The next segment to the primary or backup successor. -/
def nextSend (s : State) (t ctx : Nat) (backup : Bool) : Option (WinchRun × Nat × Nat × Segment) :=
  (senders (s.winchOf t) ctx backup).findSome? (fun r =>
    (sendable (if backup then r.outB else r.outP) (if backup then r.freedB else r.freedP)).map (fun x => (r, x)))

/-- A record, running or completed, in place of the one of its index. -/
def Winch.putRun (w : Winch) (r : WinchRun) : Winch :=
  if w.backs.any (fun b => b.idx == r.idx) then
    { w with backs := (w.backs.map (fun b => if b.idx = r.idx then r else b)).filter (fun b => b.outB != []) }
  else { w with runs := w.runs.put r.ctx r }

/-- R310: segment `j` of a lap leaves as one transfer on virtual channel 2. -/
def sendSegment (s : State) (t : Nat) (r : WinchRun) (lap j : Nat) (g : Segment) (backup : Bool) : State :=
  let c := r.ctx
  let w := s.winchOf t
  let dev := if backup then s.rd Reg.WG_CFG_W1_NEXT_B t c else s.rd Reg.WG_CFG_W1_NEXT_P t c
  let bs := g.data ++ g.scales ++ trailerBytes s t r lap j g
  let d := descriptorBytes (slotNo lap j (s.rd Reg.WG_CFG_W0_ROLE t c) + 16 * c) bs.length none s.stepNum
    (s.rd Reg.STEP_STAT_REPLAY_RUN)
  let r1 := if backup then { r with outB := dropJob r.outB lap j } else { r with outP := dropJob r.outP lap j }
  let w1 := { w.putRun r1 with unfreed := w.unfreed ++ [{ ctx := c, backup := backup, lap := lap, seg := j, idx := r.idx }] }
  startSend (s.setWinch t w1) 2 (16 * s.self + t) (16 * dev + t) (.segment t c lap j backup) none (d ++ bs)

def execSegmentSend (t : Train) (ctx : Fin 8) (backup : Bool) (s : State) : Result :=
  match nextSend s t ctx backup with
  | some (r, lap, j, g) => whenOk (winchWorks s t) s (sendSegment s t r lap j g backup)
  | none => .next s

/-- R298: whether a device is the context's primary (`false`) or backup successor. -/
def successorRole (s : State) (t ctx src : Nat) : Option Bool :=
  if src = s.rd Reg.WG_CFG_W1_NEXT_P t ctx then some false
  else if s.rd Reg.WG_CFG_W1_NEXT_B_VALID t ctx = 1 ∧ src = s.rd Reg.WG_CFG_W1_NEXT_B t ctx then some true else none

/-- R311: a slot credit of a lap up to segment `seg`. -/
def WinchRun.credit (r : WinchRun) (backup : Bool) (lap seg : Nat) : WinchRun :=
  if backup then { r with freedB := r.freedB.put lap (max (r.freedB.getD lap 0) (seg + 1)) }
  else { r with freedP := r.freedP.put lap (max (r.freedP.getD lap 0) (seg + 1)) }

/-- R311: the successor `src` has freed the slot of segment `seg`: a credit of the record that sent it. -/
def freeSlot (s : State) (src t ctx lap seg : Nat) : State :=
  let w := s.winchOf t
  match (successorRole s t ctx src).bind (fun b =>
      w.unfreed.find? (fun e => e.ctx == ctx && e.backup == b && e.lap == lap && e.seg == seg)) with
  | none => s
  | some e =>
    let w1 := { w with unfreed := w.unfreed.erase e }
    match (senders w ctx e.backup).find? (fun r => r.idx == e.idx) with
    | some r => settleWait (s.setWinch t (w1.putRun (r.credit e.backup lap seg))) t
    | none => s.setWinch t w1

def execSlotFree (src : Dev) (t : Train) (ctx : Fin 8) (lap : Fin 2) (seg : Nat) (s : State) : Result :=
  .next (freeSlot s src t ctx lap seg)

/-! ### Arrivals (R312, R313) -/

/-- R312: the source device is the predecessor's primary or backup. -/
def sourceOk (s : State) (t ctx role src : Nat) : Bool :=
  if role = 0 then src / 16 == s.rd Reg.WG_CFG_W2_PREV_P t ctx
  else s.rd Reg.WG_CFG_W2_PREV_B_VALID t ctx == 1 && src / 16 == s.rd Reg.WG_CFG_W2_PREV_B t ctx

/-- R312: slot, source and trailer are those expected of a record under way. -/
def segmentOk (s : State) (t : Nat) (r : WinchRun) (slot : Nat) (x : Staged) : Bool :=
  let tr := x.trailer
  let lap := slot / 8
  let role := slot % 2
  let j := leAt tr 0 4
  let f := leAt tr 20 1
  sourceOk s t r.ctx role x.src && decide (32 ≤ x.bytes.length) && takesIn r lap && f == lap + 2 * r.ctx + 16 * role
    && j == r.arrived.getD (2 * lap + role) 0 && slotNo lap j role == slot && leAt tr 24 4 == r.rho % 2 ^ 32
    && leAt tr 4 4 == elemsOf r.d j
    && x.bytes.length == wireBytes r.d.wire * elemsOf r.d j + (if r.d.wire = 2 then ceilDiv (elemsOf r.d j) 32 else 0) + 32

/-- R312: a segment that fails the checks of record `idx`. -/
def protoDrop (s : State) (t idx key : Nat) (w : Bool := false) : State :=
  let v := s.winchOf t
  winchFault ((s.setWinch t { v with staged := v.staged.erase key }).bump Reg.PROTO_DROPS_COUNT t) t 4 idx w

/-- R294: the fields of a reduction record. -/
structure WinchFields where
  part : Nat
  ctx : Nat
  desc : Nat
deriving DecidableEq, Repr

def winchFields (w : Nat) : WinchFields :=
  { part := getBits w 83 3, ctx := getBits w 80 3, desc := getBits w 64 16 }

/-- A record of the winch program that has not started names context `ctx`. -/
def laterRecord (s : State) (t ctx : Nat) : Bool :=
  (List.range (progCount s t 1)).any (fun i =>
    decide ((s.seqOf t 1).next ≤ i) && opClass (progRecord s t 1 i) == 4 && (winchFields (progRecord s t 1 i)).ctx == ctx)

/-- R312: a segment that record `idx` does not expect: it stays staged for a later record of the context, or fails. -/
def notExpected (s : State) (t ctx idx key : Nat) (w : Bool := false) : State :=
  if laterRecord s t ctx then s else protoDrop s t idx key w

/-- R312, R313: a staged segment meets the record that runs in its context. -/
def checkStaged (s : State) (t : Nat) (r : WinchRun) (slot : Nat) (x : Staged) (w : Bool := false) : State :=
  let key := 16 * r.ctx + slot
  let lap := slot / 8
  let role := slot % 2
  let j := leAt x.trailer 0 4
  if r.accOnly ∨ segCount r.d ≤ r.arrived.getD (2 * lap + role) 0 then notExpected s t r.ctx r.idx key w
  else if !segmentOk s t r slot x then protoDrop s t r.idx key w
  else
    let r1 := { r with arrived := r.arrived.put (2 * lap + role) (j + 1) }
    let s1 := s.setRun t r1
    match Table.find (2 ^ 22 * lap + j) r.crcs with
    | some crc => secondCopy s1 t r1 key lap j crc x w
    | none =>
      let v := s1.winchOf t
      settleWait (s1.setWinch t { v with staged := v.staged.put key { x with checked := true } }) t

/-- R312, R313: a staged segment meets a context in which no record runs: a second copy for the last completed one, or a segment
of a record to come. -/
def checkPast (s : State) (t ctx slot : Nat) (x : Staged) (w : Bool := false) : State :=
  let lap := slot / 8
  let j := leAt x.trailer 0 4
  match Table.find ctx (s.winchOf t).past with
  | some r =>
    match Table.find (2 ^ 22 * lap + j) r.crcs with
    | some crc =>
      if segmentOk s t r slot x then
        let r1 := { r with arrived := r.arrived.put (2 * lap + slot % 2) (j + 1) }
        secondCopy (s.setWinch t { s.winchOf t with past := (s.winchOf t).past.put ctx r1 }) t r1 (16 * ctx + slot) lap j crc x w
      else notExpected s t ctx r.idx (16 * ctx + slot) w
    | none => notExpected s t ctx r.idx (16 * ctx + slot) w
  | none => notExpected s t ctx ((s.seqOf t 1).next - 1) (16 * ctx + slot) w

/-- R311: a winch segment has been written to its staging slot. A segment of a record that has not started yet stays
staged until it does. -/
def segmentArrives (s : State) (t : Nat) (v : Recv) (w : Bool := false) : State :=
  let ctx := getBits v.daddr 4 3
  let slot := getBits v.daddr 0 4
  let x : Staged := { src := v.src, addr := v.addr, bytes := memBytes s v.addr v.bytes, since := s.tick }
  let y := s.winchOf t
  let s1 := s.setWinch t { y with staged := y.staged.put (16 * ctx + slot) x }
  match Table.find ctx y.runs with
  | some r => checkStaged s1 t r slot x w
  | none => checkPast s1 t ctx slot x w

/-! ### Records (R294, R295, R319) -/

/-- R296: the address of the descriptor of the record at the head. -/
def descAddr (s : State) (t : Nat) : Nat :=
  s.rd Reg.WN_DESC_BASE_BASE t * 256 + 32 * (winchFields (nextRecord s t 1)).desc

/-- R296, R300: the HBM ranges that the record at the head touches as it starts. -/
def startRanges (s : State) (t : Nat) : List (Nat × Nat) :=
  let d := parseDesc (memBytes s (descAddr s t) 32)
  if s.rd Reg.WG_CFG_W0_VALID t (winchFields (nextRecord s t 1)).ctx = 0 then []
  else (descAddr s t, 32) :: (if d.count = 0 ∨ descBad d ∨ windowPos s d + 1 = d.accSteps then []
    else (accumTarget s d, 4 * d.count) :: inputRanges s d 0 d.count)

/-- R295: the reduction record at the head of train `t`'s winch program is due, its context is free, and its accesses may
proceed (R213, R225). -/
def winchDue (s : State) (t : Nat) : Bool :=
  let w := nextRecord s t 1
  recordDue s t 1 && winchRuns s t && opClass w == 4 && (Table.find (winchFields w).ctx (s.winchOf t).runs).isNone
    && !anyWaits s (winchFields w).part (startRanges s t)

/-- The record as it enters its context. -/
def newRun (s : State) (t : Nat) (d : WinchDesc) : WinchRun :=
  let w := nextRecord s t 1
  let f := winchFields w
  let r := recordRun s t 1
  { idx := r.idx, ctx := f.ctx, desc := f.desc, d := d, sig := r.sig, kite := recordKite 1 w, part := f.part,
    start := s.tick, accOnly := windowPos s d + 1 != d.accSteps, rho := reductionNo s d,
    size := s.rd Reg.WG_CFG_W0_SIZE t f.ctx, rank := s.rd Reg.WG_CFG_W0_RANK_POS t f.ctx }

/-- R301, R319: a record that draws registers its stream id. -/
def registerStream (s : State) (t : Nat) (d : WinchDesc) : State :=
  if d.accSteps = 1 then s else s.setWinch t { s.winchOf t with streams := (s.winchOf t).streams ++ [d.stream] }

/-- R300: the record enters its context; an accumulating one makes its pass, another enters the ring. -/
def enterContext (s : State) (t : Nat) (r : WinchRun) : State :=
  let s1 := ((registerStream s t r.d).setRun t r).wr Reg.WN_STAT_BUSY 1 t
  if r.accOnly then accumulatePass (s1.wr Reg.WN_STAT_PHASE 1 t) t r.idx r.part r.d
  else
    let s2 := s1.wr Reg.WN_STAT_PHASE 2 t
    let mine := (s2.winchOf t).staged.filter (fun e => e.1 / 16 = r.ctx)
    settleWait (mine.foldl (fun s e => checkStaged s t (runOf s t r.ctx r) (e.1 % 16) e.2) s2) t

/-- R319: a record whose descriptor `d` was read starts after the checks that remain. -/
def startDesc (s : State) (t idx : Nat) (d : WinchDesc) (s0 : State) (w : Bool) : State :=
  if hbmTop < descAddr s0 t + 32 ∨ descBad d then winchFault s t 1 idx w
  else if d.accSteps ≠ 1 ∧ (s.winchOf t).streams.contains d.stream then winchFault s t 3 idx w
  else if d.count = 0 then
    traceRecordDone (signalRecord s (recordKite 1 (nextRecord s0 t 1)) (signalOf (nextRecord s0 t 1))) t idx 4 s.tick
  else enterContext s t (newRun s0 t d)

/-- R319: the record at the head starts after its checks in order. `ue` is an uncorrectable read of its descriptor. -/
def acceptWinch (s : State) (t : Nat) (ue w : Bool) : State :=
  let f := winchFields (nextRecord s t 1)
  let idx := (s.seqOf t 1).next
  let a := descAddr s t
  if s.rd Reg.WG_CFG_W0_VALID t f.ctx = 0 then winchFault (issueRecord s t 1) t 2 idx w
  else
    let (bs, bad, s1) := memRead (chargeRange s f.part a 32) a 32 0
    let lost := if ue then [a / 64 * 64] else bad
    let s2 := issueRecord s1 t 1
    if lost ≠ [] then winchLoses (lost.foldl uncorrectableRead s2) t idx lost w
    else startDesc s2 t idx (parseDesc bs) s w

/-- R206, R319: the record at the head is fetched and starts; `w` says that a fault it meets falls in the cycle of the latched
one. -/
def startWinch (s : State) (t : Nat) (ue w : Bool) : State := fetchNext s .fetch t 1 (fun s => acceptWinch s t ue w)

def execWinchRecord (t : Train) (ue together : Bool) (s : State) : Result :=
  whenOk (winchDue s t) s (startWinch s t ue together)

/-- R308: what a record sends to its primary successor. -/
def sendsDue (r : WinchRun) : Nat :=
  (if sendsIn r 0 then segCount r.d else 0) + (if sendsIn r 1 then segCount r.d else 0)

/-- R300, R308: a record can complete. -/
def winchFinished (r : WinchRun) : Bool :=
  r.accOnly || (decide (segCount r.d ≤ if takesIn r 1 then r.lap2 else r.lap1) && r.outP == [] && r.doneP == sendsDue r)

/-- R316, R317: a completed record's counts wait for the seal. -/
def addTotals (w : WinchTotals) (r : WinchRun) : WinchTotals :=
  { raised := w.raised + r.raised, clips := w.clips + r.clips, overs := w.overs + r.overs,
    clamped := w.clamped + r.clamped, nans := w.nans + r.nans,
    first := match r.firstNan, w.first with
      | some (e, k), none => some (r.idx, r.desc, e, k)
      | some (e, k), some f => if r.idx < f.1 then some (r.idx, r.desc, e, k) else some f
      | none, f => f }

/-- R308: the record of a context completes. -/
def completeWinch (s : State) (t : Nat) (r : WinchRun) : State :=
  let w := s.winchOf t
  let left := w.runs.erase r.ctx
  let s1 := s.setWinch t { w with runs := left, past := w.past.put r.ctx r, totals := addTotals w.totals r,
                                  backs := if r.outB = [] then w.backs else w.backs ++ [r] }
  let phase := if left ≠ [] then s.rd Reg.WN_STAT_PHASE t else if progCount s t 1 ≤ (s.seqOf t 1).next then 4 else 0
  let s2 := (s1.wr Reg.WN_STAT_PHASE phase t).wr Reg.WN_STAT_BUSY (ofBool (left != [])) t
  settleWait (traceRecordDone (signalRecord s2 r.kite r.sig) t r.idx 4 r.start) t

def execWinchRecordDone (t : Train) (ctx : Fin 8) (s : State) : Result :=
  match Table.find ctx (s.winchOf t).runs with
  | some r => whenOk (winchWorks s t && winchFinished r) s (completeWinch s t r)
  | none => .next s

/-- R295, R319: every record of the winch program has completed; one that faulted has not. -/
def winchIdle (s : State) (t : Nat) : Bool :=
  winchRuns s t && decide (progCount s t 1 ≤ (s.seqOf t 1).next) && (s.winchOf t).runs == []

/-- R319: WN_CMD.FAULT_CLR. -/
def clearWinchFault (s : State) (t : Nat) : State := (s.wr Reg.WN_FAULT_RECORD 0 t).wr Reg.WN_FAULT_CODE 0 t

/-- R319: a fault latched in the cycle of a FAULT_CLR (`together`) stays, and the clear is lost. -/
def execWnFaultClr (t : Train) (together : Bool) (s : State) : Result :=
  .next (if together then s else clearWinchFault s t)

/-- R316: WN_CMD.NAN_CLR. -/
def clearNan (s : State) (t : Nat) : State :=
  ((((s.wr Reg.WN_NAN_INFO_VALID 0 t).wr Reg.WN_NAN_INFO_RANK 0 t).wr Reg.WN_NAN_INFO_DESC 0 t).wr
    Reg.WN_NAN_ELEM_ELEM 0 t).wr Reg.WN_NAN_STEP_STEP 0 t

/-- R316: a NaN latched in the cycle of a NAN_CLR (`together`) stays, and the clear is lost. -/
def execNanClr (t : Train) (together : Bool) (s : State) : Result := .next (if together then s else clearNan s t)

/-! ### Steps (R315 to R317) -/

/-- R316: a count of the step lands, with its event when it is not 0. -/
def landCount (s : State) (t : Nat) (f : Fld) (e : Evt) (n : Nat) : State :=
  if n = 0 then s else raise (s.bump f t 0 n) e t

/-- R316, R317: at the seal the counts of the step land, and the first NaN latches. -/
def landTotals (s : State) (t : Nat) : State :=
  let w := s.winchOf t
  let c := w.totals
  let s1 := landCount s t Reg.SCALE_RAISED_COUNT Ev.winch_SCALE_RAISED c.raised
  let s2 := landCount s1 t Reg.WN_CLIPS_COUNT Ev.winch_WN_CLIP c.clips
  let s3 := landCount ((s2.bump Reg.WN_OF_COUNT t 0 c.overs).bump Reg.SCALE_CLAMPED_COUNT t 0 c.clamped) t
    Reg.NAN_ELEMS_COUNT Ev.winch_WN_NAN c.nans
  let s4 := s3.setWinch t { s3.winchOf t with totals := {} }
  match c.first with
  | some (_, desc, e, k) =>
    if s.rd Reg.WN_NAN_INFO_VALID t = 1 then s4
    else ((((s4.wr Reg.WN_NAN_INFO_VALID 1 t).wr Reg.WN_NAN_INFO_RANK k t).wr Reg.WN_NAN_INFO_DESC desc t).wr
      Reg.WN_NAN_ELEM_ELEM e t).wr Reg.WN_NAN_STEP_STEP (s.rd Reg.STEP_NUM_LO) t
  | none => s4

/-- R315: NAN_SEALED of every winch is the union of their NAN_GROUPS. -/
def sealNanGroups (s : State) : State :=
  (List.range 8).foldl (fun s i =>
    let v := (List.range 8).foldl (fun v t => Nat.lor v (s.rd Reg.NAN_GROUPS_GROUPS t i)) 0
    (List.range 8).foldl (fun s t => s.wr Reg.NAN_SEALED_GROUPS v t i) s) s

/-- R308: at the seal what is still to go to a backup is abandoned. -/
def abandonBackups (s : State) (t : Nat) : State := s.setWinch t { s.winchOf t with backs := [] }

/-- R308: the transfer of a segment to a backup. -/
def Send.toBackup (x : Send) : Bool :=
  match x.owner with
  | .segment _ _ _ _ b => b
  | _ => false

/-- R308, R315 to R317: every winch at the seal. -/
def sealWinches (s : State) : State :=
  let s1 := (List.range 8).foldl (fun s t => abandonBackups (landTotals s t) t) (sealNanGroups s)
  { s1 with fab := { s1.fab with sends := s1.fab.sends.filter (fun x => !x.toBackup) } }

/-- R315, R317: NAN_GROUPS clear. -/
def clearNanGroups (s : State) (t : Nat) : State := (List.range 8).foldl (fun s i => s.wr Reg.NAN_GROUPS_GROUPS 0 t i) s

/-- R315, R317: a winch at a step tick, replay tick or abort: nothing of an earlier attempt is left. -/
def restartWinch (s : State) (t : Nat) : State :=
  let s1 := (clearNanGroups (endWait s t) t).setWinch t { last := (s.winchOf t).last }
  ((s1.wr Reg.WN_STAT_BUSY 0 t).wr Reg.WN_STAT_PHASE 0 t).setSeq t 1 {}

end Sys2Proof.Machine
end

