-- ==== Sys2Proof/Machine/Burner.lean ====
section
/-! DEFINITION. The burner (10): the group file, what it latches at the seal, the update rules, the working copy, records
with their faults, and its commands; SYNC of every sequencer (07 R254, R255). -/

namespace Sys2Proof.Machine

def State.burnerOf (s : State) (t : Nat) : Burner := s.burner.getD t {}

def State.setBurner (s : State) (t : Nat) (b : Burner) : State := { s with burner := s.burner.put t b }

/-! ### The group file (R321 to R323) -/

/-- Where configuration word `w` of group `g` of train `t`'s file is held. -/
def groupKey (t g w : Nat) : Nat := windowKey (1 + t) (16 * g + w)

/-- The live configuration words of a group. -/
def groupWords (s : State) (t g : Nat) : List Nat := (List.range 16).map (fun w => s.liveWord (groupKey t g w))

/-- An FP32 word that is finite and passes `p`. -/
def fpIn (v : Nat) (p : Val → Bool) : Bool := (fp32 v).isFinite && p (fp32 v)

def notNeg (v : Val) : Bool := decide (0 ≤ v.cmp .zero)

def positive (v : Val) : Bool := decide (0 < v.cmp .zero)

def belowOne (v : Val) : Bool := decide (v.cmp (nat64 1) < 0)

def atMost (n : Nat) (v : Val) : Bool := decide (v.cmp (nat64 n) ≤ 0)

/-- R322: word 0 is judged by the EN it writes. -/
def word0Ok (v : Nat) : Bool :=
  v % 4 == 0 && grpRule v != 3 &&
    (!bit v 31 || (decide (1 ≤ grpAccSteps v) && decide (grpAccSteps v ≤ 256) && decide (1 ≤ getBits v 4 8)))

/-- R321, R322: a value a group word accepts. -/
def groupWordOk (w v : Nat) : Bool :=
  match w with
  | 0 => word0Ok v
  | 1 => fpIn v notNeg
  | 2 => fpIn v (fun _ => true)
  | 3 => fpIn v (fun x => notNeg x && belowOne x)
  | 4 => fpIn v (fun x => notNeg x && belowOne x)
  | 5 => fpIn v positive
  | 6 => fpIn v notNeg
  | 7 => fpIn v notNeg
  | 8 => fpIn v notNeg
  | 9 => fpIn v positive
  | 13 => fpIn v (fun x => decide (0 ≤ x.cmp (nat64 1)) && atMost 16 x)
  | 14 => fpIn v (fun x => positive x && atMost 16 x)
  | 15 => fpIn v (fun x => notNeg x && atMost 1 x)
  | 17 => decide (v < 65536)
  | 20 => getBits v 6 25 == 0 && levelOk (v % 64)
  | 22 => v == 0
  | 23 => v == 0
  | _ => true

/-- R323: a live record with EN 1 fails at a commit. -/
def groupFails (ws : List Nat) : Bool :=
  bit (ws.getD 0 0) 31 && ([5, 9, 13, 14].any (fun i => (fpWord ws i).isZero))

/-- R323: the burner of train `t` checks its groups at a commit. -/
def checkGroups (s : State) (t : Nat) : State :=
  let bad := (List.range 256).filter (fun g => groupFails (groupWords s t g))
  let s1 := (List.range 8).foldl (fun s i =>
    s.wr Reg.BN_GINVALID_GROUPS ((bad.filter (fun g => g / 32 = i)).foldl (fun v g => v + 2 ^ (g % 32)) 0) t i) s
  if bad = [] then s1 else raise s1 Ev.burner_GROUP_INVALID t

/-! ### The window BN_GWIN (R321, R322) -/

/-- The selection moves on: WORD from 23 to 0 advances GROUP. -/
def gwinAdvance (s : State) (t : Nat) : State :=
  if s.rd Reg.BN_GSEL_AUTO_INC t = 1 then
    let w := s.rd Reg.BN_GSEL_WORD t
    if w = 23 then (s.wr Reg.BN_GSEL_WORD 0 t).wr Reg.BN_GSEL_GROUP ((s.rd Reg.BN_GSEL_GROUP t + 1) % 256) t
    else s.wr Reg.BN_GSEL_WORD (w + 1) t
  else s

/-- A read of BN_GWIN. -/
def gwinRead (s : State) (t : Nat) : Nat × State :=
  let g := s.rd Reg.BN_GSEL_GROUP t
  let w := s.rd Reg.BN_GSEL_WORD t
  let v := if 16 ≤ w then stateWord (s.burnerOf t) g w
    else if s.rd Reg.BN_GSEL_BANK t = 1 then s.shadowWord (groupKey t g w) else s.liveWord (groupKey t g w)
  (v, gwinAdvance s t)

/-- R241: a shadowed word is written: at once, or held when it arrives in the last 64 ticks before a commit. -/
def shadowStore (s : State) (key v : Nat) : State :=
  if s.nearCommit then { s with held := s.held ++ [.field key v] }
  else { s with shadow := s.shadow.put key v }

/-- R322: a write of BN_GWIN is accepted. -/
def gwinWritable (s : State) (t v : Nat) : Bool :=
  let w := s.rd Reg.BN_GSEL_WORD t
  groupWordOk w v && (decide (w < 16) || decide (22 ≤ w) || s.rd Reg.STEP_STAT_STATE == 0)

/-- R321: a write of BN_GWIN. -/
def gwinWrite (s : State) (t v : Nat) : State :=
  let g := s.rd Reg.BN_GSEL_GROUP t
  let w := s.rd Reg.BN_GSEL_WORD t
  if !gwinWritable s t v then refuse s .burner t
  else if w < 16 then gwinAdvance (shadowStore s (groupKey t g w) v) t
  else gwinAdvance (s.setBurner t (setStateWord (s.burnerOf t) g w v)) t

def execBnGwin (t : Train) (acc : Access) (s : State) : Result :=
  match acc with
  | .read => .next ((gwinRead s t).2.emit (.word (gwinRead s t).1))
  | .write v => .next (gwinWrite s t v.toNat)

/-! ### At the seal (R324, R325) -/

/-- R324: the precision entry of a tag as the shadow bank holds it: its level code, or none with LAD_LEN 0. -/
def shadowLevel (s : State) (tag : Nat) : Option Nat :=
  let e := s.rdSh Reg.TAG_MAP_LAYER 0 tag
  if s.rdSh Reg.PT_ENTRY_LAD_LEN 0 e = 0 then none
  else some (getBits (s.rdSh Reg.PT_ENTRY_LADDER 0 e) (6 * s.rdSh Reg.PT_ENTRY_LEVEL 0 e) 6)

/-- R339: a group's working copy was never written, or stands in another format or under another tag scale. -/
def copyStale (b : Burner) (g level scale : Nat) : Bool :=
  !bit (stateWord b g 20) 31 || stateWord b g 20 % 64 != level || stateWord b g 21 != scale

/-- R324, R325: what the burner latches of an enabled group; whether its working copy is stale is judged here, for all its
records of the step alike (log 98). -/
def latchGroup (s : State) (t g : Nat) (ws : List Nat) : GroupLatch :=
  let w0 := ws.getD 0 0
  let lvl := shadowLevel s (grpWtag w0)
  let invalid := bit (s.rd Reg.BN_GINVALID_GROUPS t (g / 32)) (g % 32)
  let nan := bit (s.rd Reg.NAN_SEALED_GROUPS t (g / 32)) (g % 32)
  let runs := !invalid && lvl.isSome
  let due := (s.stepNum - s.plan.firstStep) % grpAccSteps w0 + 1 == grpAccSteps w0
  { words := ws, level := lvl.getD 0, scale := s.rdSh Reg.TAG_SCALE_T 0 (grpWtag w0), noFormat := lvl.isNone,
    invalid := invalid, skipped := runs && nan, updates := runs && !nan && due,
    stale := copyStale (s.burnerOf t) g (lvl.getD 0) (s.rdSh Reg.TAG_SCALE_T 0 (grpWtag w0)) }

/-- R325: the state words of an updating group advance; T_SAT is raised by the update that fills T. -/
def advanceGroup (s : State) (t g : Nat) (ws : List Nat) : State :=
  let b := s.burnerOf t
  let (n, cyc, pos, len) := advance ws (stateWord b g 16) (stateWord b g 17) (stateWord b g 18) (stateWord b g 19)
  let b1 := setStateWord (setStateWord (setStateWord (setStateWord b g 16 n) g 17 cyc) g 18 pos) g 19 len
  let s1 := s.setBurner t b1
  if n = 2 ^ 32 - 1 ∧ stateWord b g 16 ≠ n then raise s1 Ev.burner_T_SAT t else s1

/-- R325: skipped groups are counted. -/
def countSkips (s : State) (t n : Nat) : State :=
  if n = 0 then s else raise (s.bump Reg.NAN_SKIPS_COUNT t 0 n) Ev.burner_NAN_SKIP t

/-- R324, R325: the burner of train `t` at the seal. -/
def sealBurner (s : State) (t : Nat) : State :=
  let gs := (List.range 256).filter (fun g => bit (s.liveWord (groupKey t g 0)) 31)
  let ls := gs.map (fun g => (g, latchGroup s t g (groupWords s t g)))
  let ups := (ls.filter (fun e => e.2.updates))
  let s1 := ups.foldl (fun s e => advanceGroup s t e.1 e.2.words) s
  let b := s1.burnerOf t
  let b1 := { b with step := s.stepNum, lrBase := s.rd Reg.LR_BASE_LR_BASE t, latched := ls,
                     rates := ups.map Prod.fst, run := none, streams := [], signals := [], active := true,
                     freeSince := s.tick }
  let s2 := (countSkips (s1.setBurner t b1) t (ls.filter (fun e => e.2.skipped)).length).setSeq t 2 {}
  s2.wr Reg.BN_STAT_PHASE (if ups = [] then 1 else 2) t

/-! ### The reel (R326) -/

/-- R294's fields of an update record (R335). -/
structure BurnFields where
  part : Nat
  group : Nat
  desc : Nat
deriving DecidableEq, Repr

def burnFields (w : Nat) : BurnFields := { part := getBits w 83 3, group := getBits w 75 8, desc := getBits w 59 16 }

/-- R326: whether the record at the head waited for the group's constants, and for how many cycles. -/
def reelWaits (s : State) (t g : Nat) : Nat :=
  let b := s.burnerOf t
  if (s.seqOf t 2).next < progCount s t 2 ∧ b.run = none ∧ opClass (nextRecord s t 2) = 4
      ∧ (burnFields (nextRecord s t 2)).group = g then memCycle (s.tick - b.freeSince) else 0

/-- R326, R328: the constants of the next updating group. -/
def computeRate (s : State) (t : Nat) : State :=
  let b := s.burnerOf t
  match b.rates with
  | [] => s
  | g :: rest =>
    match Table.find g b.latched with
    | none => s.setBurner t { b with rates := rest }
    | some l =>
      let cs := reelConsts b.lrBase l.words (stateWord b g 16) (stateWord b g 17) (stateWord b g 18) (stateWord b g 19)
      let n := reelWaits s t g
      let s1 := s.setBurner t { b with rates := rest, latched := b.latched.put g { l with consts := some cs },
                                       shown := b.shown.put g cs }
      let s2 := s1.wr Reg.RL_STEP_STEP (b.step % 2 ^ 32) t
      if n = 0 then s2 else raise (s2.bump Reg.REEL_WAITS_COUNT t 0 n) Ev.reel_REEL_WAIT t

def canRate (s : State) (t : Nat) : Bool := (s.burnerOf t).rates != [] && s.islandsRun

def execReelCompute (t : Train) (s : State) : Result := whenOk (canRate s t) s (computeRate s t)

/-! ### Element arithmetic (R329 to R334) -/

/-- A value rounded once to FP32, RNE. -/
def r32 (v : Val) : Val := fp32 (toFp32 v).1

def mul32 (a b : Val) : Val := r32 (a.mul b)

def add32 (a b : Val) : Val := r32 (a.add b)

def sub32 (a b : Val) : Val := r32 (a.sub b)

def div32 (a b : Val) : Val := r32 (divVal a b)

def fma32 (a b c : Val) : Val := r32 ((a.mul b).add c)

/-- The constants an updating record works with. -/
structure Rates where
  lr : Val
  a : Val
  b : Val
  dec : Val
  c1 : Val
  c2 : Val
deriving DecidableEq, Repr

def ratesOf (cs : List Nat) : Rates :=
  { lr := fpWord cs 0, a := fpWord cs 1, b := fpWord cs 2, dec := fpWord cs 3, c1 := fpWord cs 4, c2 := fpWord cs 5 }

/-- R329: the prepared gradient, and whether it was limited. -/
def prepGrad (ws : List Nat) (gsum : Nat) : Val × Bool :=
  let g := mul32 (fp32 gsum) (fpWord ws 2)
  let clip := fpWord ws 7
  if !clip.isZero && decide (0 < g.abs.cmp clip) then (if g.neg then clip.negate else clip, true) else (g, false)

/-- R330: one step from moment, statistic and prepared values. -/
def stepMaster (ws : List Nat) (k : Rates) (p m1 v1 : Val) : Val :=
  let den := add32 (r32 (sqrtVal (mul32 v1 k.b))) (fpWord ws 5)
  sub32 (fma32 k.dec.negate p p) (mul32 k.a (div32 m1 den))

/-- R330: the first moment. -/
def moment1 (ws : List Nat) (k : Rates) (m g : Val) : Val := fma32 (fpWord ws 3) m (mul32 k.c1 g)

/-- R330: the second moment, or an entry of G (R332). -/
def moment2 (ws : List Nat) (k : Rates) (v g h : Val) : Val := fma32 (fpWord ws 4) v (mul32 (mul32 k.c2 g) h)

/-- R330: MOMENT2 of one element: master, m and v. -/
def updMoment2 (ws : List Nat) (k : Rates) (p m v g : Val) : List Val :=
  let m1 := moment1 ws k m g
  let v1 := moment2 ws k v g g
  [stepMaster ws k p m1 v1, m1, v1]

/-- R331: sgn(g). -/
def signVal (g : Val) : Val := if g.isZero then .zero else .fin g.neg 1 0

/-- R331: SIGN of one element. -/
def updSign (k : Rates) (p g : Val) : List Val := [sub32 (fma32 k.dec.negate p p) (mul32 k.lr (signVal g))]

/-! ### BLOCK8 (R332, R333) -/

/-- The index of G[i][j], i ≤ j, in the upper triangle. -/
def triU (i j : Nat) : Nat := i * 8 - i * (i - 1) / 2 + (j - i)

/-- The index of L[i][j], i > j, below the diagonal. -/
def triL (i j : Nat) : Nat := i * (i - 1) / 2 + j

def vAt (l : List Val) (i : Nat) : Val := l.getD i .zero

/-- A factor: L below the diagonal and the pivots. -/
structure Factor where
  l : List Val
  p : List Val
deriving DecidableEq, Repr

/-- R332: x minus (L[i][k] × L[j][k]) × P[k] for k below `j`. -/
def lessProducts (f : Factor) (i j : Nat) (x : Val) : Val :=
  (List.range j).foldl (fun d k => sub32 d (mul32 (mul32 (vAt f.l (triL i k)) (vAt f.l (triL j k))) (vAt f.p k))) x

/-- R332: column `j` of an attempt, none when it fails. -/
def factorColumn (h : Nat → Nat → Val) (pivotMin : Val) (f : Factor) (j : Nat) : Option Factor :=
  let d := lessProducts f j j (h j j)
  if !d.isFinite || decide (d.cmp pivotMin < 0) then none
  else
    let f1 := { f with p := f.p.set j d }
    (List.range (7 - j)).foldl (fun f? n =>
      match f? with
      | none => none
      | some f =>
        let i := j + 1 + n
        let x := div32 (lessProducts f i j (h j i)) d
        if x.isFinite then some { f with l := f.l.set (triL i j) x } else none) (some f1)

/-- R332: one attempt with damping `lam`. -/
def factorAttempt (g1 : List Val) (b pivotMin lam : Val) : Option Factor :=
  let h := fun i j =>
    let x := mul32 (vAt g1 (triU i j)) b
    if i = j then add32 x lam else x
  (List.range 8).foldl (fun f? j => match f? with | none => none | some f => factorColumn h pivotMin f j)
    (some { l := List.replicate 28 .zero, p := List.replicate 8 .zero })

/-- R332: the attempts in turn, with the number of quadruplings of the one that succeeds. -/
def refactor (g1 : List Val) (b pivotMin : Val) : Nat → Nat → Val → Option (Factor × Nat)
  | 0, _, _ => none
  | n + 1, i, lam =>
    match factorAttempt g1 b pivotMin lam with
    | some f => some (f, i)
    | none => refactor g1 b pivotMin n (i + 1) (mul32 (nat64 4) lam)

/-- R332: the solve. -/
def solveBlock (f : Factor) (m1 : List Val) : List Val :=
  let y := (List.range 8).foldl (fun y i => y ++ [(List.range i).foldl (fun a k =>
    sub32 a (mul32 (vAt f.l (triL i k)) (vAt y k))) (vAt m1 i)]) ([] : List Val)
  let z := (List.range 8).map (fun i => div32 (vAt y i) (vAt f.p i))
  (List.range 8).foldl (fun x n =>
    let i := 7 - n
    x.set i ((List.range (7 - i)).foldl (fun a k => sub32 a (mul32 (vAt f.l (triL (i + 1 + k) i)) (vAt x (i + 1 + k))))
      (vAt z i))) (List.replicate 8 Val.zero)

/-- The counts of a pass (R329, R332 to R334, R338). -/
structure BurnCounts where
  updates : Nat := 0
  clips : Nat := 0
  fallback : Nat := 0
  refactors : Nat := 0
  raises : Nat := 0
  nonfinite : Nat := 0
deriving DecidableEq, Repr

def BurnCounts.plus (a b : BurnCounts) : BurnCounts :=
  { updates := a.updates + b.updates, clips := a.clips + b.clips, fallback := a.fallback + b.fallback,
    refactors := a.refactors + b.refactors, raises := a.raises + b.raises, nonfinite := a.nonfinite + b.nonfinite }

/-- A block's state: masters, moments, G, factor. -/
structure BlockState where
  p : List Val
  m : List Val
  g : List Val
  f : Factor
deriving DecidableEq, Repr

/-- The all-zero pivots that mark a factor invalid. -/
def noFactor (f : Factor) : Factor := { f with p := List.replicate 8 .zero }

/-- R332, R333: the update of a block; `n` is T. -/
def updBlock (ws : List Nat) (k : Rates) (n : Nat) (x : BlockState) (gs : List Val) : BlockState × BurnCounts :=
  let m1 := (List.range 8).map (fun i => moment1 ws k (vAt x.m i) (vAt gs i))
  let g1 := (List.range 8).flatMap (fun i => (List.range (8 - i)).map (fun d =>
    moment2 ws k (vAt x.g (triU i (i + d))) (vAt gs i) (vAt gs (i + d))))
  let again := (n - 1) % getBits (ws.getD 0 0) 4 8 == 0 || (vAt x.f.p 0).isZero
  let tried := if again then refactor g1 k.b (fpWord ws 9) 4 0 (fpWord ws 8) else some (x.f, 0)
  let fall := fun (f : Factor) =>
    ({ p := (List.range 8).map (fun i => stepMaster ws k (vAt x.p i) (vAt m1 i) (vAt g1 (triU i i))), m := m1, g := g1,
       f := noFactor f } : BlockState)
  match tried with
  | none => (fall x.f, { fallback := 1 })
  | some (f, q) =>
    let c : BurnCounts := if again then { refactors := 1, raises := q } else {}
    let sol := solveBlock f m1
    if sol.all Val.isFinite then
      ({ p := (List.range 8).map (fun i => sub32 (fma32 k.dec.negate (vAt x.p i) (vAt x.p i)) (mul32 k.a (vAt sol i))),
         m := m1, g := g1, f := f }, c)
    else (fall f, { c with fallback := 1 })

/-! ### One pass (R337, R338) -/

/-- R337: elements and bytes of a state record. -/
def recElems (rule : Nat) : Nat := if rule = 2 then 8 else 1

def recBytes (rule : Nat) : Nat := if rule = 0 then 12 else if rule = 1 then 4 else 352

def codesOf (bs : Bytes) (n : Nat) : List Val := (unpackBits 32 n bs).map fp32

def bytesOf (vs : List Val) : Bytes := packBits 32 (vs.map (fun v => (toFp32 v).1))

/-- R337: a block from its bytes, and its bytes. -/
def blockOf (bs : Bytes) : BlockState :=
  let v := codesOf bs 88
  { p := v.take 8, m := (v.drop 8).take 8, g := (v.drop 16).take 36, f := { l := (v.drop 52).take 28, p := v.drop 80 } }

def BlockState.vals (x : BlockState) : List Val := x.p ++ x.m ++ x.g ++ x.f.l ++ x.f.p

/-- R329 to R334: one state record updated from its gradient codes: its new bytes and the counts. -/
def updRecord (ws : List Nat) (k : Rates) (n : Nat) (old : Bytes) (gsums : List Nat) : Bytes × BurnCounts :=
  let rule := grpRule (ws.getD 0 0)
  let gs := gsums.map (prepGrad ws)
  let clips := (gs.filter (·.2)).length
  let g := gs.map Prod.fst
  if rule = 2 then
    let (x, c) := updBlock ws k n (blockOf old) g
    if x.vals.all Val.isFinite then (bytesOf x.vals, { c with updates := 8, clips := clips })
    else (old, { c with nonfinite := 8, clips := clips })
  else
    let v := codesOf old (recBytes rule / 4)
    let new := if rule = 0 then updMoment2 ws k (vAt v 0) (vAt v 1) (vAt v 2) (vAt g 0) else updSign k (vAt v 0) (vAt g 0)
    if new.all Val.isFinite then (bytesOf new, { updates := 1, clips := clips })
    else (old, { nonfinite := 1, clips := clips })

/-- R338, R340: burner reads and writes, charged to the record's partition, HINT STREAM. An uncorrectable read and a failed
merge are met where they happen; the addresses are answered (R217, R471). -/
def burnRead (s : State) (part a n : Nat) : Bytes × List Nat × State :=
  let (bs, bad, s1) := memRead (chargeRange s part a n) a n 1
  (bs, bad, bad.foldl uncorrectableRead s1)

def burnWrite (s : State) (part a : Nat) (bs : Bytes) : List Nat × State :=
  let (bad, s1) := memWrite (chargeRange s part a bs.length) a bs 1
  (bad, bad.foldl failedMerge s1)

/-- How far a pass has got: the first element not written, the masters of the open unit of 32 elements not yet converted,
transfers it lost, and its counts. -/
structure BurnPass where
  pos : Nat
  open_ : List Nat
  lost : List Nat := []
  counts : BurnCounts := {}
  wcClips : Nat := 0
deriving DecidableEq, Repr

/-- The masters of a state record's bytes (R337). -/
def mastersOf (rule : Nat) (bs : Bytes) : List Nat := unpackBits 32 (recElems rule) (bs.take (4 * recElems rule))

/-- R330 to R334, R338: the next state record is read and updated from its gradient; a failure leaves it unwritten. -/
def updateRecord (s : State) (t : Nat) (r : BurnRun) (l : GroupLatch) (old : Bytes) (x : BurnPass) : BurnPass × State :=
  let rule := grpRule (l.words.getD 0 0)
  let i := x.pos / recElems rule
  let (gb, bad, s1) := burnRead s r.part (r.d.grad + 4 * x.pos) (4 * recElems rule)
  if bad ≠ [] then ({ x with lost := bad }, s1)
  else
    let (new, c) := updRecord l.words (ratesOf (l.consts.getD [])) (stateWord (s.burnerOf t) r.group 16) old
      (unpackBits 32 (recElems rule) gb)
    let (bad, s2) := burnWrite s1 r.part (r.d.state + recBytes rule * i) new
    if bad ≠ [] then ({ x with lost := bad }, s2)
    else ({ x with pos := x.pos + recElems rule, open_ := x.open_ ++ mastersOf rule new, counts := x.counts.plus c }, s2)

/-- R338, R339: the next state record of a pass: updated, or only read where the pass rewrites the working copy (log 98). -/
def passRecord (s : State) (t : Nat) (r : BurnRun) (l : GroupLatch) (x : BurnPass) : BurnPass × State :=
  let rule := grpRule (l.words.getD 0 0)
  let (old, bad, s1) := burnRead s r.part (r.d.state + recBytes rule * (x.pos / recElems rule)) (recBytes rule)
  if bad ≠ [] then ({ x with lost := bad }, s1)
  else if r.updating then updateRecord s1 t r l old x
  else ({ x with pos := x.pos + recElems rule, open_ := x.open_ ++ mastersOf rule old }, s1)

/-- R337: the address of element `e`'s master. -/
def masterAddr (d : BurnDesc) (rule e : Nat) : Nat :=
  if rule = 2 then d.state + 352 * (e / 8) + 4 * (e % 8) else d.state + recBytes rule * e

/-- R338: the burner's draw for element `e`. -/
def burnDraw (s : State) (t : Nat) (d : BurnDesc) (e : Nat) : Nat :=
  draw16 s.plan.seed (unitWord s.plan.rank 2 t) d.stream ((s.burnerOf t).step % 2 ^ 32) e

/-- R69, R338: element codes of the working copy at `a`; bits of the last byte beyond them keep their contents (log 98). -/
def copyBytes (s : State) (a bits : Nat) (cs : List Nat) : Bytes :=
  let len := packedBytes bits cs.length
  let used := bits * cs.length
  leBytes len (packNat bits cs + leNat (memBytes s a len) / 2 ^ used * 2 ^ used)

/-- R338: the open unit is converted and written to the working copy, with its block scales. -/
def writeCopy (s : State) (t : Nat) (r : BurnRun) (l : GroupLatch) (x : BurnPass) : BurnPass × State :=
  let fmt := l.level % 16
  let blk := l.level / 16
  let lo := x.pos - x.open_.length
  let vs := x.open_.zipIdx.map (fun v => (fp32 v.1, burnDraw s t r.d (lo + v.2)))
  let (cs, scs) := storeAll fmt blk ((rndOf r.d.rnd).getD .rne) false (.divBy l.scale) vs
  let a := r.d.wcopy + lo * fmtBits fmt / 8
  let (bad1, s1) := burnWrite s r.part a (copyBytes s a (fmtBits fmt) (cs.map Conv.code))
  let (bad2, s2) := if blk = 0 then ([], s1)
    else burnWrite s1 r.part (r.d.wscale + lo / blockSize blk) (packBits 8 scs)
  if bad1 ++ bad2 ≠ [] then ({ x with lost := bad1 ++ bad2 }, s2)
  else ({ x with open_ := [], wcClips := x.wcClips + (cs.map (fun c => c.flags.clips)).foldl (· + ·) 0 }, s2)

/-- R338: the open unit of a pass is whole: 32 elements, or the record's last ones. -/
def copyWhole (r : BurnRun) (x : BurnPass) : Bool := x.open_.length == 32 || (x.pos == r.d.count && x.open_ != [])

/-- R338: a whole unit is converted and written, else the next state record is taken. -/
def passStep (s : State) (t : Nat) (r : BurnRun) (l : GroupLatch) (x : BurnPass) : BurnPass × State :=
  if copyWhole r x then writeCopy s t r l x else passRecord s t r l x

/-- R338, R343: the pass goes on up to element `stop` or a lost transfer; a unit is converted once it is whole. -/
def passLoop : Nat → State → Nat → BurnRun → GroupLatch → Nat → BurnPass → BurnPass × State
  | 0, s, _, _, _, _, x => (x, s)
  | fuel + 1, s, t, r, l, stop, x =>
    if x.lost ≠ [] ∨ (stop ≤ x.pos ∧ copyWhole r x = false) then (x, s)
    else passLoop fuel (passStep s t r l x).2 t r l stop (passStep s t r l x).1

/-- The counters of a pass. -/
def countPass (s : State) (t : Nat) (c : BurnCounts) (wcClips : Nat) : State :=
  let s1 := (((s.bump Reg.UPDATES_COUNT t 0 c.updates).bump Reg.REFACTORS_COUNT t 0 c.refactors).bump
    Reg.DAMP_RAISES_COUNT t 0 c.raises).bump Reg.BN_CLIPS_COUNT t 0 c.clips
  let s2 := s1.bump Reg.WC_CLIPS_COUNT t 0 wcClips
  let s3 := if c.fallback = 0 then s2 else raise (s2.bump Reg.BLOCK_FALLBACK_COUNT t 0 c.fallback) Ev.burner_BLOCK_FALLBACK t
  if c.nonfinite = 0 then s3 else raise (s3.bump Reg.UPD_NONFINITE_COUNT t 0 c.nonfinite) Ev.burner_UPD_NONFINITE t

/-- R343, R411: transfers the burner lost are kept, and their granules asked of the partner's burner. -/
def burnerAsks (s : State) (t record : Nat) (bad : List Nat) : State :=
  let s1 := { s with recov := { s.recov with burnUes := s.recov.burnUes ++ bad.map (fun a => (t, a)) } }
  bad.foldl (fun s a => askRestore s (a / 2048 * 2048) (some t) record) s1

/-- R343: the record stops at its first element not written, for the transfers `bad`. -/
def burnerLoses (s : State) (t : Nat) (r : BurnRun) (bad : List Nat) : State :=
  burnerFault ((burnerAsks s t r.idx bad).setBurner t { s.burnerOf t with run := some r }) t 4 r.idx r.pos

/-- R338, R339: the pass of a record from its first unwritten element up to `stop`: the record as it then stands, and the
transfers it lost. -/
def passTo (s : State) (t : Nat) (r : BurnRun) (l : GroupLatch) (stop : Nat) : BurnRun × List Nat × State :=
  let (x, s1) := passLoop (2 * (stop - r.pos) + 2) s t r l stop { pos := r.pos, open_ := r.open_ }
  ({ r with pos := x.pos, open_ := x.open_ }, x.lost, (countPass s1 t x.counts x.wcClips).wr Reg.BN_PROGRESS_ELEM x.pos t)

/-- R338, R343: the rest of a record; `ue` is an element whose data cannot be read. -/
def runPass (s : State) (t : Nat) (r : BurnRun) (l : GroupLatch) (ue : Option Nat) : State :=
  let rule := grpRule (l.words.getD 0 0)
  let (r1, lost, s3) := passTo s t r l (match ue with
    | some e => min r.d.count (e / recElems rule * recElems rule)
    | none => r.d.count)
  if lost ≠ [] then burnerLoses s3 t r1 lost
  else if r1.pos < r.d.count then
    let a := masterAddr r.d rule r1.pos / 64 * 64
    burnerLoses (uncorrectableRead s3 a) t r1 [a]
  else s3.setBurner t { s3.burnerOf t with run := some { r1 with whole := true } }

/-- R411: a record runs up to its partner's progress and is held there, to go on later. -/
def holdPass (s : State) (t : Nat) (r : BurnRun) (l : GroupLatch) (progress : Nat) : State :=
  let q := recElems (grpRule (l.words.getD 0 0))
  let (r1, lost, s3) := passTo s t r l (min r.d.count (progress / q * q))
  if lost ≠ [] then burnerLoses s3 t r1 lost
  else (s3.setBurner t { s3.burnerOf t with run := some r1 }).wr Reg.BN_STAT_PHASE 5 t

/-! ### Records (R335, R336, R339, R341, R343) -/

def parseBurnDesc (b : Bytes) : BurnDesc :=
  { state := leAt b 0 5, grad := leAt b 5 5, wcopy := leAt b 10 5, wscale := leAt b 15 5, count := leAt b 20 4,
    stream := leAt b 24 2, rnd := leAt b 26 1 % 8, zeroBits := leAt b 26 1 < 8 && leAt b 27 5 == 0 }

/-- The address and bytes of a record's state records and gradient from element `e` on. -/
def burnSources (d : BurnDesc) (rule e : Nat) : List (Nat × Nat) :=
  [(d.state + recBytes rule * (e / recElems rule), recBytes rule * ((d.count - e) / recElems rule)),
   (d.grad + 4 * e, 4 * (d.count - e))]

/-- The address and bytes of a working copy of level `level`, and of its block scales. -/
def burnCopies (d : BurnDesc) (level : Nat) : List (Nat × Nat) :=
  (d.wcopy, packedBytes (fmtBits (level % 16)) d.count)
    :: (if level / 16 = 0 then [] else [(d.wscale, ceilDiv d.count (blockSize (level / 16)))])

/-- R297: a range that reaches 736 GiB. -/
def rangesBeyond (rs : List (Nat × Nat)) : Bool := rs.any (fun r => decide (hbmTop < r.1 + r.2))

/-- R336: a range of the record reaches 736 GiB; the working copy in the level `level`. -/
def burnBeyond (d : BurnDesc) (rule level : Nat) : Bool := rangesBeyond (burnSources d rule 0 ++ burnCopies d level)

/-- R336: the run-time DESC_RANGE. -/
def burnDescBad (d : BurnDesc) (rule level : Nat) : Bool :=
  (rndOf d.rnd).isNone || !d.zeroBits || d.state % 256 != 0 || d.grad % 256 != 0 || d.wcopy % 256 != 0
    || (level / 16 != 0 && d.wscale % 256 != 0) || (rule == 2 && d.count % 8 != 0) || burnBeyond d rule level

/-- The address of the descriptor of record `f`. -/
def burnDescAddr (s : State) (t : Nat) (f : BurnFields) : Nat := s.rd Reg.BN_DESC_BASE_BASE t * 256 + 32 * f.desc

/-- What the pass of a record from element `e` on reads and writes. -/
def passRanges (d : BurnDesc) (rule level e : Nat) : List (Nat × Nat) :=
  if e < d.count then burnSources d rule e ++ burnCopies d level else burnCopies d level

/-- R213, R225: what the record at the head reads and writes when it starts: its descriptor, and its pass when it has one. -/
def burnStartRanges (s : State) (t : Nat) (f : BurnFields) : List (Nat × Nat) :=
  let d := parseBurnDesc (memBytes s (burnDescAddr s t f) 32)
  (burnDescAddr s t f, 32) :: (match Table.find f.group (s.burnerOf t).latched with
    | some l => if d.count ≠ 0 ∧ (l.updates ∨ l.stale) then passRanges d (grpRule (l.words.getD 0 0)) l.level 0 else []
    | none => [])

/-- R213, R225: the accesses of the record under way, or of the one at the head, must wait. -/
def burnWaits (s : State) (t : Nat) : Bool :=
  match (s.burnerOf t).run with
  | some r => anyWaits s r.part (match Table.find r.group (s.burnerOf t).latched with
      | some l => passRanges r.d (grpRule (l.words.getD 0 0)) l.level r.pos
      | none => [])
  | none =>
    let f := burnFields (nextRecord s t 2)
    anyWaits s f.part (burnStartRanges s t f)

/-- R343: the program of train `t` is held at its next record, or its record under way is stopped. -/
def burnHeld (s : State) (t : Nat) : Bool := s.rd Reg.BN_STAT_PHASE t == 5

/-- R411: data the burner of train `t` lost has not been restored. -/
def burnMisses (s : State) (t : Nat) : Bool := s.recov.burnUes.any (fun e => e.1 == t)

/-- R341: the next update record can start, or the stopped one goes on: its data restored (R411). -/
def burnerDue (s : State) (t : Nat) : Bool :=
  let b := s.burnerOf t
  b.active && s.islandsRun && !burnWaits s t &&
    match b.run with
    | some r => !r.whole && burnHeld s t && !burnMisses s t
    | none =>
      decide ((s.seqOf t 2).next < progCount s t 2) && opClass (nextRecord s t 2) == 4 && !burnHeld s t
        && (match Table.find (burnFields (nextRecord s t 2)).group b.latched with
            | some l => !l.updates || l.consts.isSome
            | none => true)

/-- R342: a signal of a completed record: held until T(S + 1), or delivered at once, and kept for replays. -/
def burnSignal (s : State) (t kite : Nat) (sig : Option Nat) : State :=
  match sig with
  | none => s
  | some g =>
    let b := s.burnerOf t
    let s1 := s.setBurner t { b with signals := b.signals ++ [(kite, g)] }
    if s.step.isSealed then s1 else signalLogical s1 kite g

/-- R341: every record of the sealed step has completed. -/
def burnerIdle (s : State) (t : Nat) : Bool :=
  let b := s.burnerOf t
  !b.active || (b.run.isNone && decide (progCount s t 2 ≤ (s.seqOf t 2).next))

/-- R236: after its last seal the plan returns to IDLE once the post-seal work is complete: the burners' records, and the
governor's MERGE and EXCHANGE (R174). -/
def closePlan (s : State) : State :=
  if s.step.closing && (List.range 8).all (burnerIdle s) && s.rd Reg.GOV_STAT_STATS_PHASE == 0 then
    { s.wr Reg.STEP_STAT_STATE 0 with step := { s.step with closing := false, armed := none } }
  else s

/-- R424: the record at an end. -/
def traceBurn (s : State) (t idx group elems : Nat) : State := traceAdd s t 5 0x50 (128 + t) idx group elems

/-- The burner after a record: idle, done when none is left. -/
def afterRecord (s : State) (t : Nat) : State :=
  let s1 := s.setBurner t { s.burnerOf t with run := none, freeSince := s.tick }
  closePlan ((s1.wr Reg.BN_STAT_BUSY 0 t).wr Reg.BN_STAT_PHASE (if progCount s t 2 ≤ (s.seqOf t 2).next then 4 else 0) t)

/-- A record that completes at its start with no memory traffic. -/
def burnAtOnce (s : State) (t : Nat) (f : BurnFields) : State :=
  let w := nextRecord s t 2
  let r := recordRun s t 2
  traceBurn (burnSignal (afterRecord (issueRecord s t 2) t) t (recordKite 2 w) r.sig) t r.idx f.group 0

/-- How a record's pass runs once it has begun: whole, or up to the partner's progress (R411). -/
inductive PassMode where
  | whole (ue : Option Nat)
  | upTo (progress : Nat)
deriving DecidableEq, Repr

def passAs (s : State) (t : Nat) (r : BurnRun) (l : GroupLatch) (m : PassMode) : State :=
  match m with
  | .whole ue => runPass s t r l ue
  | .upTo p => holdPass s t r l p

/-- R336: a record that draws registers its SR_STREAM for the step. -/
def takeStream (s : State) (t : Nat) (d : BurnDesc) : State :=
  let b := s.burnerOf t
  if d.rnd = 4 then s.setBurner t { b with streams := b.streams ++ [d.stream] } else s

/-- R338, R339: a record that passed its checks begins its pass. -/
def beginPass (s : State) (t : Nat) (f : BurnFields) (d : BurnDesc) (l : GroupLatch) (m : PassMode) : State :=
  let w := nextRecord s t 2
  let b := s.burnerOf t
  let r : BurnRun := { idx := (s.seqOf t 2).next, group := f.group, d := d, part := f.part, kite := recordKite 2 w,
                       sig := signalOf w, start := s.tick, updating := l.updates }
  let s1 := issueRecord (s.setBurner t { b with run := some r }) t 2
  let s2 := if l.updates then s1 else s1.bump Reg.WC_REWRITES_COUNT t
  passAs ((((s2.wr Reg.BN_STAT_BUSY 1 t).wr Reg.BN_STAT_PHASE 3 t).wr Reg.BN_STAT_RECORD r.idx t).wr
    Reg.BN_PROGRESS_ELEM 0 t) t r l m

/-- R343: a record held at its start: its program does not move past it. -/
def holdRecord (s : State) (t code : Nat) : State :=
  let i := (s.seqOf t 2).next
  burnerFault (s.wr Reg.BN_STAT_RECORD i t) t code i 0

/-- R206: the read that fetches the burner's record at the head (log 95). -/
def burnHead (s : State) (t : Nat) : Bytes × List Nat × State :=
  memRead s (planRecordAddr s (s.plan.progs.getD (progKey t 2) (0, 0)).1 (s.seqOf t 2).next) 16 0

/-- R343: the burner fetches the record at the head, and `f` follows. The plan region is written again by the host (R409), not
restored by the partner. -/
def burnFetch (s : State) (t : Nat) (f : State → State) : State :=
  let r := burnHead s t
  if r.2.1 = [] then f r.2.2
  else holdRecord (r.2.1.foldl (fun s a => noteUe (uncorrectableRead s a) a) r.2.2) t 4

/-- R339: a record that has passed its checks: it makes a pass, or completes at its start. -/
def runRecord (s : State) (t : Nat) (f : BurnFields) (d : BurnDesc) (l : GroupLatch) (m : PassMode) : State :=
  if d.count ≠ 0 ∧ (l.updates ∨ l.stale) then beginPass s t f d l m else burnAtOnce s t f

/-- R343: the descriptor of the record at the head is read and judged; the record then runs. -/
def judgeRecord (s : State) (t : Nat) (f : BurnFields) (l : GroupLatch) (m : PassMode) : State :=
  let a := burnDescAddr s t f
  let (bs, bad, s1) := burnRead s f.part a 32
  let d := parseBurnDesc bs
  if hbmTop < a + 32 then holdRecord s t 1
  else if bad ≠ [] then holdRecord (burnerAsks s1 t (s.seqOf t 2).next bad) t 4
  else if burnDescBad d (grpRule (l.words.getD 0 0)) l.level then holdRecord s1 t 1
  else if d.rnd = 4 ∧ (s.burnerOf t).streams.contains d.stream then holdRecord s1 t 3
  else runRecord (takeStream s1 t d) t f d l m

/-- R343: the record at the head starts after its checks in order. -/
def startBurn (s : State) (t : Nat) (m : PassMode) : State :=
  burnFetch s t (fun s =>
    let f := burnFields (nextRecord s t 2)
    match Table.find f.group (s.burnerOf t).latched with
    | none => holdRecord s t 2
    | some l => if l.invalid ∨ l.noFormat then holdRecord s t 2 else judgeRecord s t f l m)

/-- R343: a record held by MEM_UE, or for the partner (R411), goes on at BN_PROGRESS. -/
def continueBurn (s : State) (t : Nat) (r : BurnRun) (m : PassMode) : State :=
  match Table.find r.group (s.burnerOf t).latched with
  | some l => passAs (s.wr Reg.BN_STAT_PHASE 3 t) t r l m
  | none => s

def burnStep (s : State) (t : Nat) (ue : Option Nat) : State :=
  match (s.burnerOf t).run with
  | some r => continueBurn s t r (.whole ue)
  | none => startBurn s t (.whole ue)

def execBurnerRecord (t : Train) (ue : Option Nat) (s : State) : Result := whenOk (burnerDue s t) s (burnStep s t ue)

/-- R339, R342: the record completes. -/
def completeBurn (s : State) (t : Nat) (r : BurnRun) : State :=
  let b := s.burnerOf t
  let b1 := match Table.find r.group b.latched with
    | some l => setStateWord (setStateWord b r.group 20 (2 ^ 31 + l.level)) r.group 21 l.scale
    | none => b
  traceBurn (burnSignal (afterRecord (s.setBurner t b1) t) t r.kite r.sig) t r.idx r.group r.d.count

def execBurnerRecordDone (t : Train) (s : State) : Result :=
  match (s.burnerOf t).run with
  | some r => whenOk (r.whole && s.islandsRun) s (completeBurn s t r)
  | none => .next s

/-- R343: BN_CMD.FAULT_CLR. -/
def clearBurnFault (s : State) (t : Nat) : State := (s.wr Reg.BN_FAULT_RECORD 0 t).wr Reg.BN_FAULT_CODE 0 t

/-- R343: a fault latched in the cycle of a FAULT_CLR (`together`) stays, and the clear is lost. -/
def execBnFaultClr (t : Train) (together : Bool) (s : State) : Result :=
  .next (if together then s else clearBurnFault s t)

/-- R342: the signals of completed records are delivered, at T(S + 1) and at every replay tick of step S + 1. -/
def deliverSignals (s : State) (t : Nat) : State :=
  (s.burnerOf t).signals.foldl (fun s e => signalLogical s e.1 e.2) s

/-- R343, R411: the fault is cleared; a record held at its start may start again. -/
def burnGoesOn (s : State) (t : Nat) : State :=
  let s1 := clearBurnFault s t
  if burnHeld s t && (s.burnerOf t).run.isNone then s1.wr Reg.BN_STAT_PHASE 0 t else s1

/-- R343: at a replay tick the gondola clears the fault of a record held at its start, which starts again. -/
def releaseHeld (s : State) (t : Nat) : State :=
  if burnHeld s t && (s.burnerOf t).run.isNone && !burnMisses s t then burnGoesOn s t else s

/-! ### SYNC (07 R254, R255) -/

/-- R335, R341: a SYNC of the burner program is due. -/
def burnSyncDue (s : State) (t : Nat) : Bool :=
  let b := s.burnerOf t
  b.active && s.islandsRun && b.run.isNone && decide ((s.seqOf t 2).next < progCount s t 2)
    && opClass (nextRecord s t 2) == 0 && !burnHeld s t

/-- R342: a SYNC of the burner program completes in the cycle it starts. -/
def burnSync (s : State) (t : Nat) : State :=
  burnFetch s t (fun s =>
    let w := nextRecord s t 2
    burnSignal (afterRecord (issueRecord s t 2) t) t (recordKite 2 w) (signalOf w))

def canSyncUnit (s : State) (u : SeqUnit) : Bool :=
  match u with
  | .kite k => canSync s k
  | .memory t => syncDue s t 0
  | .winch t => syncDue s t 1 && winchRuns s t
  | .burner t => burnSyncDue s t

def syncUnit (s : State) (u : SeqUnit) : State :=
  match u with
  | .kite k => fetchHead s (s.slotOf k) (fun s => issueAtOnce s (s.slotOf k))
  | .memory t => fetchNext s .fetch t 0 (fun s => recordAtOnce s t 0)
  | .winch t => fetchNext s (.winch t) t 1 (fun s => recordAtOnce s t 1)
  | .burner t => burnSync s t

def execSync (who : SeqUnit) (s : State) : Result := whenOk (canSyncUnit s who) s (syncUnit s who)

end Sys2Proof.Machine
end

