-- ==== Sys2Proof/Machine/Governor.lean ====
section
/-! DEFINITION. The governor (04 R152 to R174): merging and exchanging summaries, rules, the underflow watch, resolution, the
digest, divergence, replicas, and the state image window. -/

namespace Sys2Proof.Machine

def State.setGov (s : State) (g : Gov) : State := { s with gov := g }

/-! ### Summaries (R152) -/

/-- R152: two tag records summed: counts and bins of 48 bits saturate. -/
def addTag (a b : TagRec) : TagRec :=
  { counts := (List.range 6).map (fun i => satAdd 48 (a.counts.getD i 0) (b.counts.getD i 0)), emax := max a.emax b.emax,
    emin := min a.emin b.emin, bins := (List.range 32).map (fun i => satAdd 48 (a.bins.getD i 0) (b.bins.getD i 0)) }

/-- R152: two summaries combined. -/
def addTags (a b : Table TagRec) : Table TagRec :=
  b.foldl (fun t e => Table.put t e.1 (match Table.find e.1 t with | some x => addTag x e.2 | none => e.2)) a

/-- R152: the summary of the device's 128 logical kites. -/
def mergeKites (s : State) : Table TagRec :=
  (List.range 128).foldl (fun t k => addTags t (s.kite (s.slotOf k)).snap) []

/-- R152: this device's precision domain. -/
def State.domainOf (s : State) : List Nat := if s.plan.domain = [] then [s.self] else s.plan.domain

/-- R152: this device's place in the domain's device order. -/
def domainIndex (s : State) : Nat := (s.domainOf.findIdx? (· == s.self)).getD 0

/-- The devices of the children in the domain tree. -/
def childDevs (s : State) : List Nat :=
  (treeChildren (domainIndex s) s.domainOf.length).map (fun i => s.domainOf.getD i 0)

/-- R152: the combined summary goes down the tree. -/
def sendDown (s : State) (x : Summary) : State := (childDevs s).foldl (fun s d => s.send 0 d (.summary true x)) s

/-- R153: the domain summary is known: EXCHANGE ends. -/
def endExchange (s : State) (x : Summary) : State :=
  closePlan (((sendDown s x).setGov { s.gov with domain := some x }).wr Reg.GOV_STAT_STATS_PHASE 0)

/-- The first summary of each child, for the step sealed last, that no EXCHANGE has used. -/
def childSums (s : State) : List (Nat × Summary) :=
  (childDevs s).filterMap (fun d => s.gov.children.find? (fun c => c.1 == d && c.2.step == s.gov.sealedStep))

/-- R152: with its own summary and its children's, a device passes theirs on: up the tree, or from the root down. What is
used is gone: a repeated EXCHANGE takes the children's repeated summaries (R168). -/
def tryCombine (s : State) : State :=
  match s.gov.own with
  | none => s
  | some own =>
    let cs := childSums s
    if s.rd Reg.GOV_STAT_STATS_PHASE ≠ 2 ∨ cs.length ≠ (childDevs s).length then s
    else
      let x : Summary := { step := s.gov.sealedStep, tags := cs.foldl (fun t c => addTags t c.2.tags) own }
      let s := s.setGov { s.gov with children := cs.foldl (fun l c => l.erase c) s.gov.children }
      if domainIndex s = 0 then endExchange s x
      else s.send 0 (s.domainOf.getD ((domainIndex s - 1) / 2) 0) (.summary false x)

/-- R152, R153: MERGE ends; a domain of one device skips EXCHANGE. -/
def mergeDone (s : State) : State :=
  let own := mergeKites s
  let s1 := (s.setGov { s.gov with own := some own }).wr Reg.GOV_STAT_STATS_PHASE 2
  if s.domainOf.length ≤ 1 then endExchange s1 { step := s.gov.sealedStep, tags := own } else tryCombine s1

def execGovMergeDone (s : State) : Result :=
  whenOk (s.rd Reg.GOV_STAT_STATS_PHASE == 1 && s.islandsRun) s (mergeDone s)

/-- R152: a summary arrives from a child, or the combined one from the parent. -/
def takeSummary (s : State) (src : Nat) (down : Bool) (x : Summary) : State :=
  if down then
    if x.step = s.gov.sealedStep ∧ s.rd Reg.GOV_STAT_STATS_PHASE = 2 then endExchange s x else s
  else
    tryCombine (s.setGov { s.gov with children := s.gov.children ++ [(src, x)] })

def execGovSummary (src : Dev) (down : Bool) (sum : Summary) (s : State) : Result :=
  whenOk s.islandsRun s (takeSummary s src down sum)

/-- R153, 236: at the seal of step `n` MERGE starts; after a final seal the summary is held. -/
def sealGovernor (s : State) (n tseal : Nat) (final : Bool) : State :=
  (s.setGov { s.gov with sealedStep := n, sealTick := tseal, own := none, domain := none, held := final,
                         children := s.gov.children.filter (fun c => c.2.step == n) }).wr Reg.GOV_STAT_STATS_PHASE 1

/-! ### Metrics (R156) -/

/-- R156: F, the largest element exponent of a format. -/
def fmtTop (fmt : Nat) : Option Int :=
  match fmt with
  | 0 => some 127 | 1 => some 127 | 2 => some 15 | 3 => some 8 | 4 => some 15 | 5 => some 4 | 6 => some 2 | 7 => some 2
  | 8 => some 6 | 9 => some 2 | 0xB => some 7 | _ => none

/-- R156: the value of a metric; none when it is undefined. -/
def metric (m bin : Nat) (lvl : Option Nat) (r : TagRec) : Option Int :=
  let count := r.counts.getD 0 0
  let sh := fun i => some ((share (r.counts.getD i 0) count : Nat) : Int)
  let any := decide (r.emin ≤ r.emax)
  let all := r.bins.foldl (· + ·) 0
  let part := fun (l : List Nat) =>
    if all = 0 then none else some ((min 65535 (65536 * l.foldl (· + ·) 0 / all) : Nat) : Int)
  match m with
  | 0 => sh 4
  | 1 => sh 2
  | 2 => sh 3
  | 3 => sh 1
  | 4 => some ((min 65535 (r.counts.getD 5 0) : Nat) : Int)
  | 5 => if any then some r.emax else none
  | 6 => if any then some r.emin else none
  | 7 => if any then (lvl.bind (fun l => fmtTop (l % 16))).map (fun f => f - r.emax) else none
  | 8 => part (r.bins.drop bin)
  | 9 => part (r.bins.take (bin + 1))
  | _ => none

/-- R155: CMP, and THRESH unsigned or signed. -/
def holdsFor (m cmp thresh : Nat) (v : Int) : Bool :=
  let t : Int := if 5 ≤ m ∧ m ≤ 7 then toSigned 16 thresh else thresh
  if cmp = 0 then decide (t < v) else if cmp = 1 then decide (t ≤ v) else if cmp = 2 then decide (v < t) else decide (v ≤ t)

/-! ### The walk (R157) -/

/-- A fired action: rule, tag, ACTION and AMOUNT. -/
structure Fired where
  rule : Nat
  tag : Nat
  action : Nat
  amount : Nat
deriving DecidableEq, Repr

/-- R157: a rule fires for a tag. -/
def fireRule (s : State) (r t action : Nat) : State :=
  let s1 := (s.bump Reg.GOV_RULE_W3_FIRES 0 r).bump Reg.GOV_FIRES_COUNT
  raise (((s1.wr Reg.GOV_LAST_FIRE_RULE r).wr Reg.GOV_LAST_FIRE_ACTION action).wr Reg.GOV_LAST_FIRE_TAG t) Ev.governor_GOV_FIRE

/-- R155: words 0 to 2 of a rule as a bank holds them, their reserved bits 0. ACT stands for ROLE_MASK to AMOUNT, TAGS for
TAG_HI to STREAK. -/
def ruleWord0 (rd : Fld → Nat → Nat) (r : Nat) : Nat := rd Reg.GOV_RULE_W0_EN r * 2 ^ 31 + rd Reg.GOV_RULE_W0_ACT r * 2 ^ 11

def ruleWord1 (rd : Fld → Nat → Nat) (r : Nat) : Nat := rd Reg.GOV_RULE_W1_TAGS r * 2 ^ 8 + rd Reg.GOV_RULE_W1_BIN r

def ruleWord2 (rd : Fld → Nat → Nat) (r : Nat) : Nat := rd Reg.GOV_RULE_W2_THRESH r

/-- R157: one pair of rule and tag. An 8-bit streak that stands above STREAK stays at 255 (DESIGN CHOICE, log 89). -/
def walkTag (w0 w1 w2 r : Nat) (x : Summary) (st : State × List Fired) (t : Nat) : State × List Fired :=
  let s := st.1
  let rec_ := Table.getD x.tags t tagBlank
  let roleOk := bit (getBits w0 24 4) (s.rdSh Reg.TAG_MAP_ROLE 0 t)
  if !roleOk ∨ rec_.counts.getD 0 0 = 0 then st
  else
    let m := getBits w0 20 4
    let hit := match metric m (getBits w1 0 5) (shadowLevel s t) rec_ with
      | some v => holdsFor m (getBits w0 18 2) (getBits w2 0 16) v
      | none => false
    let key := 256 * r + t
    let n := if hit then min 255 (s.gov.streaks.getD key 0 + 1) else 0
    let put := fun (s : State) (v : Nat) => s.setGov { s.gov with streaks := s.gov.streaks.put key v }
    if n = getBits w1 8 8 then
      (fireRule (put s 0) r t (getBits w0 15 3),
        st.2 ++ [{ rule := r, tag := t, action := getBits w0 15 3, amount := getBits w0 11 4 }])
    else (put s n, st.2)

/-- R155: the tags a rule covers, TAG_LO to TAG_HI of its word 1. -/
def ruleTags (w1 : Nat) : List Nat := (List.range (getBits w1 24 8 + 1 - getBits w1 16 8)).map (getBits w1 16 8 + ·)

/-- R157, R160: one rule; a disabled or inert one is skipped. -/
def walkRule (x : Summary) (st : State × List Fired) (r : Nat) : State × List Fired :=
  let s := st.1
  let w0 := ruleWord0 (s.rd · 0 ·) r
  let w1 := ruleWord1 (s.rd · 0 ·) r
  let w2 := ruleWord2 (s.rd · 0 ·) r
  if !bit w0 31 ∨ getBits w1 8 8 = 0 then st else (ruleTags w1).foldl (walkTag w0 w1 w2 r x) st

/-- R157: the rules from 0 to 63. -/
def walkRules (s : State) (x : Summary) : State × List Fired := (List.range 64).foldl (walkRule x) (s, [])

/-! ### The underflow watch (R171) -/

/-- R171: the watch alarms for a tag. -/
def watchAlarm (s : State) (x : Summary) (t : Nat) : State :=
  raise (((s.bump Reg.UFW_ALARMS_ALARMS).wr Reg.UFW_LAST_STEP (x.step % 2 ^ 24)).wr Reg.UFW_LAST_TAG t)
    Ev.governor_UFLOW_STREAK

/-- R171: the watch for one tag; answers the tags that alarm. -/
def watchTag (x : Summary) (st : State × List Nat) (t : Nat) : State × List Nat :=
  let s := st.1
  let r := Table.getD x.tags t tagBlank
  let count := r.counts.getD 0 0
  if s.rdSh Reg.TAG_MAP_ROLE 0 t ≠ 2 ∨ count = 0 then st
  else
    let n := if s.rd Reg.UFW_CTL_UFW_THRESH < share (r.counts.getD 2 0) count then s.gov.watch.getD t 0 + 1 else 0
    let put := fun (s : State) (v : Nat) => s.setGov { s.gov with watch := s.gov.watch.put t v }
    if n ≠ 0 ∧ s.rd Reg.UFW_CTL_UFW_STREAK ≤ n then (watchAlarm (put s 0) x t, st.2 ++ [t])
    else (put s n, st.2)

/-- R171: the watch over the 256 tags. While UFW_EN is 0 the watch streaks hold (DESIGN CHOICE, log 89). -/
def watchTags (s : State) (x : Summary) : State × List Nat :=
  if s.rd Reg.UFW_CTL_UFW_EN = 0 then (s, []) else (List.range 256).foldl (watchTag x) (s, [])

/-! ### Resolution (R158, R159) -/

def govChanged (s : State) : State := raise (s.bump Reg.GOV_CHANGES_COUNT) Ev.governor_GOV_CHANGE

def govBound (s : State) : State := raise (s.bump Reg.GOV_BOUND_COUNT) Ev.governor_GOV_BOUND

/-- R158, R159: an entry moves one level up or down its ladder. An unused entry (LAD_LEN 0) counts as at its bound (DESIGN
CHOICE, log 89). -/
def moveEntry (s : State) (e : Nat) (widen : Bool) : State :=
  let lvl := s.rdSh Reg.PT_ENTRY_LEVEL 0 e
  if s.rdSh Reg.PT_ENTRY_LOCK 0 e = 1 then s.bump Reg.GOV_BLOCKED_COUNT
  else if (if widen then decide (s.rdSh Reg.PT_ENTRY_LAD_LEN 0 e ≤ lvl + 1) else lvl == 0) then govBound s
  else govChanged (s.wrSh Reg.PT_ENTRY_LEVEL (if widen then lvl + 1 else lvl - 1) 0 e)

/-- R159: the ends of the governed range of scales. -/
def scaleLow : Val := .fin false 1 (-126)

def scaleHigh : Val := .fin false 1 127

/-- R158, R159: a tag's scale moves by powers of two, clamped; a clamp is counted without an event. AMOUNT 0 has nothing that
could not take effect, so it counts nothing, be the entry locked or not (DESIGN CHOICE, log 89). -/
def moveScale (s : State) (f : Fired) : State :=
  if f.amount = 0 then s
  else if s.rdSh Reg.PT_ENTRY_LOCK 0 (s.rdSh Reg.TAG_MAP_LAYER 0 f.tag) = 1 then s.bump Reg.GOV_BLOCKED_COUNT
  else
    let old := s.rdSh Reg.TAG_SCALE_T 0 f.tag
    let v := (fp32 old).scale2 (if f.action = 3 then (f.amount : Int) else -(f.amount : Int))
    let above := decide (0 < v.abs.cmp scaleHigh)
    let under := decide (v.abs.cmp scaleLow < 0)
    let mag := if above then scaleHigh else if under then scaleLow else v.abs
    let new := (toFp32 (if v.neg then mag.negate else mag)).1
    let s1 := if above ∨ under then s.bump Reg.GOV_BOUND_COUNT else s
    if new = old then s1 else govChanged (s1.wrSh Reg.TAG_SCALE_T new 0 f.tag)

/-- R158: the first scale action of each tag, in rule order. -/
def firstScales (fs : List Fired) : List Fired :=
  (fs.filter (fun f => f.action == 3 || f.action == 4)).foldl (fun l f => if l.any (fun g => g.tag == f.tag) then l else l ++ [f]) []

/-- R158: formats, then scales. `alarms` are the watch's tags when UFW_WIDEN is 1. -/
def resolve (s : State) (fs : List Fired) (alarms : List Nat) : State :=
  let entry := fun t => s.rdSh Reg.TAG_MAP_LAYER 0 t
  let wid := (fs.filter (fun f => f.action == 1)).map (fun f => entry f.tag) ++ alarms.map entry
  let nar := (fs.filter (fun f => f.action == 2)).map (fun f => entry f.tag)
  let s1 := (List.range 256).foldl (fun s e =>
    if wid.contains e then moveEntry s e true else if nar.contains e then moveEntry s e false else s) s
  (firstScales fs).foldl moveScale s1

/-! ### EVAL and READY (R153, R165 to R169) -/

/-- The precision words among shadow fields: the keys of the precision page. -/
def precisionKey (k : Nat) : Bool := decide (8 * 0x6000 ≤ k) && decide (k < 8 * 0x7000)

/-- R157, R160, R168: the evaluation of a domain summary. -/
def evaluate (s : State) (x : Summary) : State :=
  let s0 := s.setGov { s.gov with before := some (s.gov.streaks, s.gov.watch, s.shadow.filter (fun e => precisionKey e.1)),
                                  evaluated := some x, domain := none }
  let on := s.rd Reg.GOV_CTL_GOV_EN == 1
  let (s1, fs) := if on then walkRules s0 x else (s0, [])
  let (s2, al) := watchTags s1 x
  let s3 := if on then resolve s2 fs (if s.rd Reg.UFW_CTL_UFW_WIDEN = 1 then al else []) else s2
  (s3.setGov { s3.gov with evalStep := some x.step }).wr Reg.GOV_STAT_TABLE_PHASE 1

/-- R153, R174: EVAL can start: a summary of the step before waits, not held, and the table is OPEN. -/
def canEvaluate (s : State) : Bool :=
  s.islandsRun && s.rd Reg.GOV_STAT_TABLE_PHASE == 0 && s.rd Reg.GOV_STAT_STATS_PHASE == 0 && s.planRuns && !s.gov.held
    && !s.step.isSealed &&
    match s.gov.domain with
    | some x => x.step + 1 == s.stepNum
    | none => false

def evalHeld (s : State) : State :=
  match s.gov.domain with
  | some x => evaluate s x
  | none => s

def execGovEval (s : State) : Result := whenOk (canEvaluate s) s (evalHeld s)

/-- R165: PT_ENTRY `e` of the shadow bank. -/
def shadowEntry (s : State) (e : Nat) : Nat :=
  s.rdSh Reg.PT_ENTRY_LOCK 0 e * 2 ^ 31 + s.rdSh Reg.PT_ENTRY_LEVEL 0 e * 2 ^ 29 + s.rdSh Reg.PT_ENTRY_LAD_LEN 0 e * 2 ^ 26
    + s.rdSh Reg.PT_ENTRY_LADDER 0 e

/-- R165: the words of the shadow bank in address order. -/
def shadowBank (s : State) : List Nat :=
  (List.range 256).map (shadowEntry s)
    ++ (List.range 256).map (fun t => s.rdSh Reg.TAG_MAP_ROLE 0 t * 256 + s.rdSh Reg.TAG_MAP_LAYER 0 t)
    ++ (List.range 256).map (fun t => s.rdSh Reg.TAG_SCALE_T 0 t)
    ++ (List.range 64).flatMap (fun r =>
      [ruleWord0 (s.rdSh · 0 ·) r, ruleWord1 (s.rdSh · 0 ·) r, ruleWord2 (s.rdSh · 0 ·) r])

/-- UFW_CTL as a word. -/
def ufwWord (s : State) : Nat :=
  s.rd Reg.UFW_CTL_UFW_EN * 2 ^ 31 + s.rd Reg.UFW_CTL_UFW_WIDEN * 2 ^ 30 + s.rd Reg.UFW_CTL_UFW_STREAK * 2 ^ 16
    + s.rd Reg.UFW_CTL_UFW_THRESH

/-- R165: the digest of the evaluated step; words and the step little-endian (DEDUCED, log 39). -/
def digest (s : State) (step : Nat) : Nat :=
  crc32 ((shadowBank s ++ [ufwWord s]).flatMap (leBytes 4) ++ leBytes 8 step)

/-- R154: the time a seal waited for the governor. -/
def endLate (s : State) : State :=
  match s.gov.lateSince with
  | some t => (s.setGov { s.gov with lateSince := none }).bump Reg.GOV_LATE_COUNT 0 0 (s.tick - t)
  | none => s

/-- R165, R166: the governor enters READY. -/
def enterReady (s : State) (n : Nat) : State :=
  let s1 := (endLate s).wr Reg.GOV_DIGEST_DIGEST (digest s n)
  (((s1.wr Reg.GOV_EVAL_STEP_STEP (n % 2 ^ 32)).wr Reg.GOV_LAT_TICKS (s.tick - s.gov.sealTick)).wr
    Reg.GOV_STAT_TABLE_PHASE 2).wr Reg.PT_PEND_PENDING 1

/-- R166: every replica has acknowledged the decisions. -/
def canReady (s : State) : Bool :=
  s.islandsRun && s.rd Reg.GOV_STAT_TABLE_PHASE == 1 && s.gov.missing == [] && s.gov.evalStep.isSome

def execGovReady (s : State) : Result := whenOk (canReady s) s (enterReady s (s.gov.evalStep.getD 0))

/-- R154, R174: the governor holds no seal of the running step back. -/
def governorDone (s : State) : Bool :=
  if s.stepNum = s.plan.firstStep then
    s.rd Reg.GOV_STAT_TABLE_PHASE != 1
      && (match s.gov.domain with | some x => x.step + 1 != s.stepNum | none => true)
  else s.rd Reg.GOV_STAT_TABLE_PHASE == 2 && s.gov.evalStep == some (s.stepNum - 1)

/-- R153, R165: at a commit the decisions become live and COPY begins; a plan that starts with a held summary leaves the
table OPEN for its EVAL (R174). The commit of the first step tick finds STEP_STAT ARMED. -/
def commitGovernor (s : State) : State :=
  let first := s.rd Reg.STEP_STAT_STATE == 1
  let starts := first && (match s.gov.domain with | some x => x.step + 1 == s.plan.firstStep | none => false)
  let streaks := s.gov.streaks.filter (fun e => !s.gov.touched.contains (e.1 / 256))
  let g := { s.gov with held := s.gov.held && !first, streaks := streaks, touched := [], evalStep := none, before := none }
  ((s.setGov g).wr Reg.GOV_STAT_TABLE_PHASE (if starts then 0 else 3)).wr Reg.PT_PEND_PENDING 0

def execPtCopyDone (s : State) : Result :=
  whenOk (s.rd Reg.GOV_STAT_TABLE_PHASE == 3 && s.islandsRun) s (s.wr Reg.GOV_STAT_TABLE_PHASE 0)

/-- R168: the digests diverged: the governor repeats EXCHANGE and EVAL from its stored snapshot, from the state before the
first evaluation. -/
def repeatEval (s : State) : State :=
  let s1 := rung (raise (s.wr Reg.GOV_STAT_DIVERGED 1) Ev.governor_GOV_DIVERGE) 2
  match s1.gov.before with
  | none => s1
  | some (st, w, sh) =>
    let s2 := { s1 with shadow := Table.putAll (s1.shadow.filter (fun e => !precisionKey e.1)) sh }
    let s3 := (s2.setGov { s2.gov with streaks := st, watch := w, evalStep := none, before := none }).wr
      Reg.GOV_STAT_TABLE_PHASE 0 |>.wr Reg.PT_PEND_PENDING 0
    match s3.gov.own, s3.gov.evaluated with
    | some own, _ =>
      if s3.domainOf.length ≤ 1 then s3.setGov { s3.gov with domain := some { step := s3.gov.sealedStep, tags := own } }
      else tryCombine (s3.wr Reg.GOV_STAT_STATS_PHASE 2)
    | none, x => s3.setGov { s3.gov with domain := x }

/-! ### Replicas (R166, R167) -/

/-- R240: the key belongs to the pages of slot `n`. -/
def slotKey (n key : Nat) : Bool :=
  let lo := 8 * (⟨.kiteCtl, n⟩ : Page).base
  decide (lo ≤ key) && decide (key < lo + 8 * 0x4000)

/-- R240: what stands in the shadow of slot `n`'s pages becomes live. -/
def latchSlotWords (s : State) (n : Nat) : State :=
  { s with regs := s.regs.putAll (s.shadow.filter (fun e => slotKey n e.1)),
           shadow := s.shadow.filter (fun e => !slotKey n e.1) }

/-- R167: the live bank is loaded into both banks of a replica; a kite slot then latches its words and files as well (log
40). -/
def reloadReplica (s : State) (r : Replica) : State :=
  let s1 := s.setGov { s.gov with missing := s.gov.missing.filter (· != r) }
  match r with
  | .kite n => let s1 := latchSlotWords s1 n; s1.setKite n ((s1.kite n).commit (s.rd Reg.PT_EPOCH_EPOCH) s.step.lastCommit)
  | .winch _ => s1
  | .burner _ => s1

def execReplicaReload (rep : Replica) (s : State) : Result :=
  whenOk (s.gov.missing.contains rep && s.islandsRun) s (reloadReplica s rep)

/-! ### UFW_CTL (R172, R173) -/

/-- R172: values UFW_CTL accepts. -/
def ufwOk (v : Nat) : Bool :=
  decide (1 ≤ getBits v 0 16) && decide (getBits v 0 16 ≤ 16384) && decide (1 ≤ getBits v 16 10) && decide (getBits v 16 10 ≤ 512)

/-- R173: the watch is disabled: sticky, and raised the first time. -/
def watchOff (s : State) : State :=
  if s.rd Reg.GOV_STAT_UFLOW_WATCH_OFF = 1 then s else raise (s.wr Reg.GOV_STAT_UFLOW_WATCH_OFF 1) Ev.governor_UFW_OFF

/-- R172, R173: a write of UFW_CTL. -/
def writeUfw (s : State) (v : Nat) : State :=
  if ufwOk v then
    let s1 := (((s.wr Reg.UFW_CTL_UFW_EN (getBits v 31 1)).wr Reg.UFW_CTL_UFW_WIDEN (getBits v 30 1)).wr
      Reg.UFW_CTL_UFW_STREAK (getBits v 16 10)).wr Reg.UFW_CTL_UFW_THRESH (getBits v 0 16)
    if bit v 31 then s1 else watchOff s1
  else refuse s .governor

def execUfwCtl (v : Word) (s : State) : Result := .next (writeUfw s v.toNat)

/-! ### The state image (R174) -/

/-- R174: the step of the summary held; all ones for none. -/
def heldStep (s : State) : Nat := match s.gov.domain with | some x => x.step % 2 ^ 64 | none => 2 ^ 64 - 1

/-- R174: word `i` of a tag's 80-word summary. -/
def imageTagWord (r : TagRec) (i : Nat) : Nat :=
  if i < 12 then (if i % 2 = 0 then r.counts.getD (i / 2) 0 % 2 ^ 32 else r.counts.getD (i / 2) 0 / 2 ^ 32)
  else if i = 12 then ofSigned 16 r.emax + 65536 * ofSigned 16 r.emin
  else if 14 ≤ i ∧ i < 78 then
    (if i % 2 = 0 then r.bins.getD ((i - 14) / 2) 0 % 2 ^ 32 else r.bins.getD ((i - 14) / 2) 0 / 2 ^ 32)
  else 0

/-- The half of a 48-bit value replaced. -/
def putHalf (v : Nat) (hi : Bool) (w : Nat) : Nat := if hi then v % 2 ^ 32 + w % 65536 * 2 ^ 32 else v / 2 ^ 32 * 2 ^ 32 + w

/-- R174: a tag's summary with word `i` written. -/
def putTagWord (r : TagRec) (i w : Nat) : TagRec :=
  if i < 12 then { r with counts := r.counts.set (i / 2) (putHalf (r.counts.getD (i / 2) 0) (i % 2 == 1) w) }
  else if i = 12 then { r with emax := toSigned 16 w, emin := toSigned 16 (w / 65536) }
  else if 14 ≤ i ∧ i < 78 then
    { r with bins := r.bins.set ((i - 14) / 2) (putHalf (r.bins.getD ((i - 14) / 2) 0) (i % 2 == 1) w) }
  else r

/-- R174: word `w` of the governor state image. -/
def imageWord (s : State) (w : Nat) : Nat :=
  if w = 0 then heldStep s % 2 ^ 32
  else if w = 1 then heldStep s / 2 ^ 32
  else if w < 4098 then leNat ((List.range 4).map (fun i => BitVec.ofNat 8 (s.gov.streaks.getD (4 * (w - 2) + i) 0)))
  else if w < 4226 then
    let t := 2 * (w - 4098)
    s.gov.watch.getD t 0 + 65536 * s.gov.watch.getD (t + 1) 0
  else
    let t := (w - 4226) / 80
    imageTagWord (match s.gov.domain with | some x => Table.getD x.tags t tagBlank | none => tagBlank) ((w - 4226) % 80)

/-- A table entry that is dropped when it is 0. -/
def putNonzero (t : Table Nat) (k v : Nat) : Table Nat := if v = 0 then t.erase k else t.put k v

/-- R174: word `w` of the image written. -/
def putImageWord (g : Gov) (w v : Nat) : Gov :=
  let x := g.domain.getD { step := 2 ^ 64 - 1, tags := [] }
  if w = 0 then { g with domain := some { x with step := x.step / 2 ^ 32 * 2 ^ 32 + v } }
  else if w = 1 then { g with domain := some { x with step := x.step % 2 ^ 32 + v * 2 ^ 32 } }
  else if w < 4098 then
    { g with streaks := (List.range 4).foldl (fun t i => putNonzero t (4 * (w - 2) + i) (getBits v (8 * i) 8)) g.streaks }
  else if w < 4226 then
    { g with watch := (List.range 2).foldl (fun t i => putNonzero t (2 * (w - 4098) + i) (getBits v (16 * i) 16)) g.watch }
  else
    let t := (w - 4226) / 80
    { g with domain := some { x with tags := Table.put x.tags t (putTagWord (Table.getD x.tags t tagBlank) ((w - 4226) % 80) v) } }

/-- The selection GOV_SV_IDX moves on. -/
def svAdvance (s : State) : State :=
  if s.rd Reg.GOV_SV_IDX_AUTO_INC = 1 then
    s.wr Reg.GOV_SV_IDX_WORD (if s.rd Reg.GOV_SV_IDX_WORD = 24705 then 0 else s.rd Reg.GOV_SV_IDX_WORD + 1)
  else s

/-- R174: a read of GOV_SV_DATA: 0 while a plan runs. -/
def svRead (s : State) : Nat × State :=
  (if s.planRuns then 0 else imageWord s (s.rd Reg.GOV_SV_IDX_WORD), svAdvance s)

/-- R174: a write of GOV_SV_DATA. -/
def svWrite (s : State) (v : Nat) : State :=
  if s.planRuns then refuse s .governor
  else svAdvance (s.setGov { putImageWord s.gov (s.rd Reg.GOV_SV_IDX_WORD) v with held := true })

def execGovSvData (acc : Access) (s : State) : Result :=
  match acc with
  | .read => .next ((svRead s).2.emit (.word (svRead s).1))
  | .write v => .next (svWrite s v.toNat)

/-- R157, R174, R256: the governor at a plan load: cleared, or the image of the plan's GOV_STATE section. -/
def loadGovernor (s : State) (image : Option Bytes) : State :=
  let g : Gov := { sealedStep := s.gov.sealedStep, sealTick := s.gov.sealTick, missing := s.gov.missing }
  match image with
  | none => s.setGov g
  | some bs =>
    let g1 := (wordsLE 24706 bs).zipIdx.foldl (fun g w => putImageWord g w.2 w.1) g
    s.setGov { g1 with held := false, domain := if leNat (bs.take 8) = 2 ^ 64 - 1 then none else g1.domain }

end Sys2Proof.Machine
end

