-- ==== Sys2Proof/Machine/Scoring.lean ====
section
/-! DEFINITION. In-line scoring (11 R345 to R361): model slots and their validation, weight loads, requests, batches, the
egress calendar and verdicts, and faults of partition kites. -/

namespace Sys2Proof.Machine

/-! ### The partition (R345, R346) -/

/-- R346: the bytes of a weight region, 6 MiB. -/
def weightTop : Nat := 6291456

/-! ### Descriptors (R351) -/

/-- The key of word `w` of slot `m`'s descriptor. -/
def scKey (m w : Nat) : Nat := windowKey 9 (64 * m + w)

/-- The 52 words of a slot's live and shadow descriptor. -/
def scLive (s : State) (m : Nat) : List Nat := (List.range 52).map (fun w => s.liveWord (scKey m w))

def scShadow (s : State) (m : Nat) : List Nat := (List.range 52).map (fun w => s.shadowWord (scKey m w))

/-- R353: a slot's shadow holds writes no commit has latched. -/
def scDirty (s : State) (m : Nat) : Bool := (List.range 52).any (fun w => (Table.find (scKey m w) s.shadow).isSome)

/-- R351: a layer record. -/
structure Layer where
  k : Nat
  n : Nat
  fmt : Nat
  blk : Nat
  mode : Nat
  prog : Nat
  gshift : Nat
  cbBase : Nat
  wBits : Nat
  wAddr : Nat
  m : Nat
deriving DecidableEq, Repr

def layerOf (ws : List Nat) (j : Nat) : Layer :=
  let a := ws.getD (4 + 4 * j) 0
  let b := ws.getD (5 + 4 * j) 0
  let c := ws.getD (6 + 4 * j) 0
  { k := getBits a 16 13, n := getBits a 0 13, fmt := getBits b 28 4, blk := getBits b 26 2, mode := getBits b 24 2,
    prog := getBits b 16 7, gshift := getBits b 12 4, cbBase := getBits b 0 11, wBits := getBits c 16 2,
    wAddr := getBits c 0 16 * 128, m := ws.getD (7 + 4 * j) 0 }

def scValid (ws : List Nat) : Bool := bit (ws.getD 0 0) 31

def scLayers (ws : List Nat) : Nat := getBits (ws.getD 0 0) 24 4

def scInFmt (ws : List Nat) : Nat := getBits (ws.getD 0 0) 20 4

def scVersion (ws : List Nat) : Nat := getBits (ws.getD 0 0) 0 16

def scNout (ws : List Nat) : Nat := getBits (ws.getD 1 0) 16 5

def scKset (ws : List Nat) : Nat := getBits (ws.getD 1 0) 0 16

def scCost (ws : List Nat) : Nat := ws.getD 2 0 % 65536

/-- R108: in table mode a record's FMT is the format of codebook and stationary operand, the weights being codes of 4 bits
(DEDUCED, log 41). -/
def weightFmt (l : Layer) : Nat := if l.mode = 1 then 0xA else l.fmt

/-- R351: the bridle is AUTO, in thin shape. -/
def layerBridle (l : Layer) : Option Nat := bridleOf (weightFmt l) true 0

/-- R352: effective columns of a pass. -/
def layerEc (l : Layer) : Nat := 512 / (layerBridle l).getD 1

/-- R352: P_j. -/
def layerPasses (l : Layer) : Nat := ceilDiv l.k (layerEc l)

/-- R352: n_j on `k` kites. -/
def layerShare (l : Layer) (k : Nat) : Nat := ceilDiv l.n k

/-- R352: the output columns of kite number `i` of `k`. -/
def kiteColumns (l : Layer) (k i : Nat) : Nat := min (layerShare l k) (l.n - i * layerShare l k)

/-- R353: C of a descriptor. -/
def scCycles (ws : List Nat) : Nat :=
  let k := popCount 16 (scKset ws)
  32 + ((List.range (scLayers ws)).map (fun j =>
    let l := layerOf ws j
    let q := if l.mode = 2 then layerShare l k * (sliceChunks ((layerBridle l).getD 1) l.wBits).2 else layerShare l k
    layerPasses l * (max q (if l.mode = 1 then 48 else 32) + 1) + 48)).sum

/-! ### Passes and layers (R352, R354) -/

/-- A pass's op: `kp` of the layer's K from 512 / b × p, `n` columns. Codebook groups count over the whole K (DEDUCED, log
41). -/
def passOp (l : Layer) (p n : Nat) : ArrayFields :=
  let kp := min (layerEc l) (l.k - p * layerEc l)
  { part := 0, profile := 0, mLoad := 1, kActive := kp, n := n, xAddr := 0, wSrc := 1, wAddr := 0, tag := 0,
    accAddr := 0, accMode := if p = 0 then 0 else 1, srStream := 0, layer := 0, cbFmt := l.fmt, cbGshift := l.gshift,
    cbBase := l.cbBase + p * layerEc l / 2 ^ l.gshift, wBits := l.wBits }

/-- A pass as a thin-shape tile over the kite's files. -/
def passTile (k : KiteState) (l : Layer) (p n : Nat) : Tile :=
  let o := passOp l p n
  { run := { idx := 0, cls := 1, sig := none, start := 0, slip := 0 }, op := o, mode := l.mode, thin := true,
    bridle := (layerBridle l).getD 1, fmt := weightFmt l, blk := if l.mode = 0 then l.blk else 0, mask := 1,
    books := if l.mode = 1 then fillBooks k o else [] }

/-- The columns of a pass from byte `a` of the weight region, their bytes, and the first escape failure. -/
structure Pass where
  tile : Tile
  cols : List Column
  bytes : Nat
  esc : Option (Nat × Nat × Nat)
deriving DecidableEq, Repr

def passAt (k : KiteState) (l : Layer) (p n a : Nat) : Pass :=
  let t := passTile k l p n
  if l.mode = 1 then
    let cs := tableColumns n t (spBytes k a (n * tableColumnMax t)) 0
    { tile := t, cols := (cs.filter (fun c => c.fail.isNone)).map (fun c => .vals c.ws),
      bytes := (cs.getLast?.map TableCol.fin).getD 0, esc := (cs.find? (fun c => c.fail.isSome)).bind TableCol.fail }
  else { tile := t, cols := plainColumns t (spBytes k a (n * columnBytes t)) n, bytes := n * columnBytes t, esc := none }

/-- R352: the passes of a layer on one kite lie one behind the other from W_ADDR. -/
def passesFrom (k : KiteState) (l : Layer) (n : Nat) : Nat → Nat → Nat → List Pass
  | 0, _, _ => []
  | fuel + 1, p, a => let x := passAt k l p n a; x :: passesFrom k l n fuel (p + 1) (a + x.bytes)

def layerPassList (k : KiteState) (l : Layer) (n : Nat) : List Pass := passesFrom k l n (layerPasses l) 0 l.wAddr

/-- One row of a layer as it stands between layers: element codes and block scales. -/
structure RowData where
  codes : List Nat
  scales : List Nat := []
deriving DecidableEq, Repr

/-- The row's part that pass `p` takes, in the tile. -/
def passRow (l : Layer) (x : Pass) (p : Nat) (r : RowData) : Tile :=
  let bs := if l.blk = 0 then 0 else p * layerEc l / blockSize l.blk
  { x.tile with rows := [(r.codes.drop (p * layerEc l)).take x.tile.op.kActive], scales := [r.scales.drop bs] }

/-- R354: the accumulated sums of one row over a kite's passes. -/
def kiteSums (l : Layer) (ps : List Pass) (n : Nat) (r : RowData) : List Nat :=
  ps.zipIdx.foldl (fun acc x =>
    let t := passRow l x.1 x.2 r
    (List.range n).map (fun c =>
      (accumulated (if x.2 = 0 then 0 else 1) (acc.getD c 0)
        (columnSum t (x.1.cols.getD c (.vals [])) 0) 0).1)) (List.replicate n 0)

/-- R354: the epilogue of a row sum. -/
def epilogue (k : KiteState) (l : Layer) (c : Nat) : Val :=
  fp32 ((runProgram false false (programWords k l.prog) 0 (fp32 c) none).t.getD 0 0)

/-- R354: one row through one kite's columns. -/
def kiteRow (l : Layer) (kn : Nat) (k : KiteState) (i : Nat) (r : RowData) : List Val :=
  let n := kiteColumns l kn i
  (kiteSums l (layerPassList k l n) n r).map (epilogue k l)

/-- R354: one row through a layer, stored in the next layer's format. -/
def layerRow (l : Layer) (ks : List KiteState) (fmt blk : Nat) (r : RowData) : RowData :=
  let vs := (ks.zipIdx.map (fun e => kiteRow l ks.length e.1 e.2 r)).flatten
  let st := storeAll fmt blk .rne false (.times (fp32 l.m)) ((vs.take l.n).map (fun v => (v, 0)))
  { codes := st.1.map Conv.code, scales := st.2 }

/-- R354: one row through every layer. -/
def modelRow (ws : List Nat) (ks : List KiteState) (r : RowData) : RowData :=
  (List.range (scLayers ws)).foldl (fun r j =>
    let nx := layerOf ws (j + 1)
    if j + 1 < scLayers ws then layerRow (layerOf ws j) ks nx.fmt (if nx.mode = 0 then nx.blk else 0) r
    else layerRow (layerOf ws j) ks 2 0 r) r

/-- R122: the first kite and escape failure of a model's weights, by layer, pass and kite. -/
def modelEscape (ws : List Nat) (ks : List KiteState) : Option Nat :=
  (List.range (scLayers ws)).findSome? (fun j =>
    let l := layerOf ws j
    (List.range ks.length).find? (fun i =>
      (layerPassList (ks.getD i {}) l (kiteColumns l ks.length i)).any (fun x => x.esc.isSome)))

/-! ### Validation (R353) -/

/-- The first check a layer fails (2 FORMAT, 3 SHAPE, 5 WEIGHT_RANGE, 6 CODEBOOK, 7 MULT), 0 for none. -/
def layerCheck (ws : List Nat) (ks : List KiteState) (j : Nat) : Nat :=
  let l := layerOf ws j
  let b := ws.getD (5 + 4 * j) 0
  let o := passOp l 0 1
  let last := j + 1 == scLayers ws
  let formatOk := getBits b 23 1 == 0 && getBits b 11 1 == 0 && (layerBridle l).isSome
    && (if l.mode = 1 then cbFmtLegal l.fmt && l.blk == 0 else modeLegal l.mode l.fmt l.blk o)
    && (j != 0 || (scInFmt ws == l.fmt && l.blk == 0))
  let shapeOk := getBits (ws.getD (4 + 4 * j) 0) 29 3 == 0 && getBits (ws.getD (4 + 4 * j) 0) 13 3 == 0
    && decide (1 ≤ l.k) && decide (l.k ≤ 4096) && decide (1 ≤ l.n) && decide (l.n ≤ 4096)
    && (if last then scNout ws == l.n else (layerOf ws (j + 1)).k == l.n)
  let weightEnd := fun i => l.wAddr + ((layerPassList (ks.getD i {}) l (kiteColumns l ks.length i)).map Pass.bytes).sum
  let weightsOk := ws.getD (6 + 4 * j) 0 / 2 ^ 18 == 0 && (List.range ks.length).all (fun i => decide (weightEnd i ≤ weightTop))
  let bookOk := (l.mode != 1 || (decide (4 ≤ l.gshift) && decide (l.gshift ≤ 9)
      && decide (l.cbBase + ceilDiv l.k (2 ^ l.gshift) ≤ 2048)))
    && ks.all (fun k => let p := programWords k l.prog; !programIllegal p false && !p.any drawsWord)
  if !formatOk then 2 else if !shapeOk then 3 else if !weightsOk then 5 else if !bookOk then 6
  else if getBits l.m 23 8 = 255 then 7 else 0

/-- R353: the first check a descriptor fails and its layer; (0, 0) when it passes. Header checks come first, then the
layers in order, then the cost (DEDUCED, log 42). A descriptor with VALID 0 has nothing to check. -/
def scCheck (ws : List Nat) (kmask : Nat) (ks : List KiteState) : Nat × Nat :=
  let h0 := ws.getD 0 0
  if !scValid ws then (0, 0)
  else if scLayers ws = 0 ∨ 12 < scLayers ws ∨ getBits h0 28 3 ≠ 0 ∨ getBits h0 16 4 ≠ 0 ∨ ws.getD 3 0 ≠ 0
      ∨ ws.getD 1 0 / 2 ^ 21 ≠ 0 ∨ scNout ws = 0 ∨ 16 < scNout ws then (1, 0)
  else if scKset ws = 0 ∨ Nat.land (scKset ws) kmask ≠ scKset ws then (4, 0)
  else
    match (List.range (scLayers ws)).find? (fun j => layerCheck ws ks j != 0) with
    | some j => (layerCheck ws ks j, j)
    | none =>
      if ws.getD 2 0 / 65536 ≠ 0 ∨ scCost ws = 0 ∨ 840 < scCost ws ∨ scCost ws < scCycles ws then (8, 0) else (0, 0)

/-- The kites a set names in a train, their files' shadow banks in place of the live ones: what a commit makes live. -/
def shadowKites (s : State) (train kset : Nat) : List KiteState :=
  (bitsOf 16 kset).map (fun i =>
    let k := s.kite (s.slotOf (16 * train + i))
    { k with cb := { k.cb with live := k.cb.shadow }, vp := { k.vp with live := k.vp.shadow } })

/-- R353: SC_DCMD.VALIDATE. -/
def startValidate (s : State) (m : Nat) : State :=
  if s.rd Reg.SC_STAT_V_BUSY = 1 then refuse s .scoring
  else { s.wr Reg.SC_STAT_V_BUSY 1 with sc := { s.sc with validating := some m } }

def execValidate (slot : ScSlot) (s : State) : Result := .next (startValidate s slot)

/-- R353: the validation's outcome is written. -/
def endValidate (s : State) (m : Nat) : State :=
  let ws := scShadow s m
  let r := scCheck ws (s.rdSh Reg.SC_PART_KMASK) (shadowKites s (s.rdSh Reg.SC_PART_TRAIN) (scKset ws))
  let s1 := { s.wr Reg.SC_STAT_V_BUSY 0 with sc := { s.sc with validating := none } }
  let s2 := (((s1.wr Reg.SC_VRES_OK (ofBool (r.1 == 0))).wr Reg.SC_VRES_SLOT m).wr Reg.SC_VRES_CODE r.1).wr
    Reg.SC_VRES_LAYER r.2
  raise (if r.1 = 0 then s2.wr Reg.SC_SLOT_SHADOW_OK 1 0 m else s2) Ev.scoring_VALIDATED

def execValidated (s : State) : Result :=
  match s.sc.validating with
  | some m => .next (endValidate s m)
  | none => .next s

/-! ### The descriptor window (R351) -/

/-- The selection of SC_DWIN moves on: 51 wraps to 0. -/
def dwinAdvance (s : State) : State :=
  if s.rd Reg.SC_DSEL_AUTO_INC = 1 then s.wr Reg.SC_DSEL_WORD ((s.rd Reg.SC_DSEL_WORD + 1) % 52) else s

def dwinRead (s : State) : Nat × State :=
  let key := scKey (s.rd Reg.SC_DSEL_SLOT) (s.rd Reg.SC_DSEL_WORD)
  (if s.rd Reg.SC_DSEL_BANK = 1 then s.shadowWord key else s.liveWord key, dwinAdvance s)

/-- The scoring slot whose descriptor a key belongs to. -/
def scSlotOfKey (key : Nat) : Option Nat :=
  if scKey 0 0 ≤ key ∧ key < scKey 16 0 then some ((key - scKey 0 0) / (8 * 256)) else none

/-- R353: a write that reaches a slot's shadow clears SHADOW_OK. -/
def clearShadowOk (s : State) (key : Nat) : State :=
  match scSlotOfKey key with
  | some m => s.wr Reg.SC_SLOT_SHADOW_OK 0 0 m
  | none => s

/-- R9, R10: an FMT and a BLK that a scoring operand may hold; one that may not leaves what `old` held. -/
def keptFormat (old new : Nat) : Nat :=
  let f := if getBits new 28 4 < 0xC then getBits new 28 4 else getBits old 28 4
  let b := if blkLegal f (getBits new 26 2) then getBits new 26 2 else getBits old 26 2
  if blkLegal f b then f * 4 + b else getBits old 26 6

/-- R10: what a write of `v` stores in word `w` of a descriptor that holds `old`: a rejected FMT or BLK leaves its field. -/
def dwinStored (w old v : Nat) : Nat :=
  if w = 0 ∧ 0xC ≤ getBits v 20 4 then v / 2 ^ 24 * 2 ^ 24 + getBits old 20 4 * 2 ^ 20 + v % 2 ^ 20
  else if 4 ≤ w ∧ w % 4 = 1 then keptFormat old v * 2 ^ 26 + v % 2 ^ 26
  else v

/-- R10, R351: a write of SC_DWIN. -/
def dwinWrite (s : State) (v : Nat) : State :=
  let key := scKey (s.rd Reg.SC_DSEL_SLOT) (s.rd Reg.SC_DSEL_WORD)
  let x := dwinStored (s.rd Reg.SC_DSEL_WORD) (s.nextWord key) v
  let s1 := shadowStore s key x
  let s2 := dwinAdvance (if s1.held.length = s.held.length then clearShadowOk s1 key else s1)
  if x = v then s2 else refuse s2 .scoring

def execScDwin (acc : Access) (s : State) : Result :=
  match acc with
  | .read => .next ((dwinRead s).2.emit (.word (dwinRead s).1))
  | .write v => .next (dwinWrite s v.toNat)

/-! ### Weight loads (R352) -/

/-- R352, R353: what refuses a weight load: one runs, a validation runs, the target is no partition kite (DEDUCED, log 43),
or it would leave the weight region. -/
def loadRefused (s : State) : Bool :=
  s.rd Reg.SC_STAT_WL_BUSY == 1 || s.rd Reg.SC_STAT_V_BUSY == 1
    || !bit (s.rd Reg.SC_PART_KMASK) (s.rd Reg.SC_WL_SRC_HI_KITE)
    || decide (weightTop < s.rd Reg.SC_WL_DST_DST + s.rd Reg.SC_WL_LEN_LEN)

/-- R352: the load that the registers describe. -/
def loadSet (s : State) : WeightLoad :=
  { kite := s.rd Reg.SC_WL_SRC_HI_KITE, dst := s.rd Reg.SC_WL_DST_DST, len := s.rd Reg.SC_WL_LEN_LEN,
    src := s.rd Reg.SC_WL_SRC_LO_SRC + 2 ^ 32 * s.rd Reg.SC_WL_SRC_HI_SRC_HI }

/-- R352: SC_WL_CMD.GO. -/
def startLoad (s : State) : State :=
  if loadRefused s then refuse s .scoring
  else if s.rd Reg.SC_WL_LEN_LEN = 0 then s
  else { s with sc := { s.sc with load := some (loadSet s) } }.wr Reg.SC_STAT_WL_BUSY 1

def execWeightLoad (s : State) : Result := .next (startLoad s)

/-- R352: no batch runs on partition kite `i`. -/
def kiteFree (s : State) (i : Nat) : Bool :=
  !s.sc.batches.any (fun b => b.running && b.train == s.rd Reg.SC_PART_TRAIN && bit (scKset b.words) i)

/-- R213, R225, R352: the load can take its cycles: no batch runs on its kite, and its reads need not wait. -/
def canLoadWeights (s : State) : Bool :=
  s.islandsRun && s.rd Reg.SC_STAT_WL_BUSY == 1 && (match s.sc.load with
    | some w => kiteFree s w.kite && !mustWait s (s.rd Reg.SC_CTL_WL_PART) w.src w.len
    | none => true)

/-- What is left of byte ranges when [lo, hi) is taken from them. -/
def rangesLess (lo hi : Nat) (rs : List (Nat × Nat)) : List (Nat × Nat) :=
  rs.flatMap (fun r => [(r.1, min r.2 lo), (max r.1 hi, r.2)].filter (fun x => decide (x.1 < x.2)))

/-- R347, R352: the weights land in the weight region of partition kite `i`. -/
def landWeights (s : State) (i dst : Nat) (bs : Bytes) : State :=
  let s1 := s.spWrite (s.slotOf (16 * s.rd Reg.SC_PART_TRAIN + i)) dst bs
  { s1 with sc := { s1.sc with
    lost := s1.sc.lost.put i (rangesLess dst (dst + bs.length) (s1.sc.lost.getD i [])) } }

/-- R217, R352: the bytes are read through the spool, charged to WL_PART, and written to the weight region; of a load that
meets an uncorrectable transfer the bytes before it land (log 99). No step consumes them. -/
def loadWeights (s : State) (w : WeightLoad) : State :=
  let (bs, bad, s1) := memRead (chargeRange s (s.rd Reg.SC_CTL_WL_PART) w.src w.len) w.src w.len 0
  landWeights (bad.foldl uncorrectableRead s1) w.kite w.dst (match bad with | a :: _ => bs.take (a - w.src) | [] => bs)

/-- R352: the load completes. -/
def endLoad (s : State) : State :=
  let s1 := match s.sc.load with
    | some w => loadWeights s w
    | none => s
  raise ({ s1 with sc := { s1.sc with load := none } }.wr Reg.SC_STAT_WL_BUSY 0) Ev.scoring_WL_DONE

def execWlDone (s : State) : Result := whenOk (canLoadWeights s) s (endLoad s)

/-! ### The egress calendar (R350, R356, R358) -/

/-- R356: the ticks a verdict takes. -/
def verdictLen (src : HostAddr) : Nat := if src.udp.isSome then 4 else 2

/-- R356: the first tick from `t` with `len` free ticks before the next reserved slot. -/
def calFree (len : Nat) : List Verdict → Nat → Nat
  | [], t => t
  | x :: r, t => if x.v + x.len ≤ t then calFree len r t else if t + len ≤ x.v then t else calFree len r (x.v + x.len)

/-- The calendar with a verdict in slot order. -/
def calInsert (x : Verdict) : List Verdict → List Verdict
  | [] => [x]
  | y :: r => if x.v < y.v then x :: y :: r else y :: calInsert x r

/-- R358, SC_STAT CAL_USED: calendar slots reserved ahead of the present tick. -/
def calUsed (s : State) : Nat :=
  (s.sc.calendar.map (fun x => ((List.range (x.len / 2)).filter (fun i => decide (s.tick ≤ x.v + 2 * i))).length)).sum

/-- SC_STAT CAL_USED holds at most 2,047: the calendar has no room for a verdict beyond that (DEDUCED, log 44). -/
def calFull (s : State) (src : HostAddr) : Bool := decide (2047 < calUsed s + verdictLen src / 2)

/-- R358: priority pause frames start above 1,024 slots and stop below 512. PFC_TX counts the frame that starts them (log
16). -/
def pauseCheck (s : State) : State :=
  if 1024 < calUsed s ∧ s.rd Reg.SC_STAT_PFC_ACTIVE = 0 then
    ((raise (s.wr Reg.SC_STAT_PFC_ACTIVE 1) Ev.scoring_PFC).bump Reg.PFC_TX_COUNT).emit (.pause (s.rd Reg.SC_CTL_PFC_PRIO) true)
  else if calUsed s < 512 ∧ s.rd Reg.SC_STAT_PFC_ACTIVE = 1 then
    (s.wr Reg.SC_STAT_PFC_ACTIVE 0).emit (.pause (s.rd Reg.SC_CTL_PFC_PRIO) false)
  else s

/-- CAL_USED follows the calendar. -/
def setCalendar (s : State) (c : List Verdict) : State :=
  let s1 := { s with sc := { s.sc with calendar := c } }
  pauseCheck (s1.wr Reg.SC_STAT_CAL_USED (calUsed s1))

/-- R350: a verdict's payload. -/
def verdictBytes (status slot version flow ctag rxTick : Nat) (scores : List Nat) : Bytes :=
  leBytes 1 0x21 ++ leBytes 1 (16 * status + slot) ++ leBytes 1 scores.length ++ leBytes 1 0 ++ leBytes 8 flow
    ++ leBytes 4 ctag ++ leBytes 2 version ++ leBytes 2 0 ++ leBytes 8 rxTick ++ (scores.map (leBytes 2)).flatten

/-- The counter of a status (11 SC_OK to SC_HALTED). -/
def statusCount (s : State) (status : Nat) : State :=
  if status = 0 then s.bump Reg.SC_OK_COUNT
  else if status = 1 then raise (s.bump Reg.SC_BUSY_COUNT) Ev.scoring_BUSY
  else if status = 5 then s.bump Reg.SC_FAULTS_COUNT
  else if status = 6 then s.bump Reg.SC_HALTED_COUNT
  else s.bump Reg.SC_BADS_COUNT

/-- R358: a request that is not admitted gets its verdict at the first free calendar slot from now. -/
def answerRequest (s : State) (src : HostAddr) (rxTick status slot version flow ctag : Nat) : State :=
  let len := verdictLen src
  let x : Verdict := { v := calFree len s.sc.calendar s.tick, len := len, src := src, rxTick := rxTick,
                       body := some (verdictBytes status slot version flow ctag rxTick []) }
  setCalendar (statusCount s status) (calInsert x s.sc.calendar)

/-- R356: the verdicts of a batch get their payloads. -/
def fillVerdict (s : State) (q : ScReq) (status slot version : Nat) (scores : List Nat) : State :=
  let body := verdictBytes status slot version q.flow q.ctag q.rxTick scores
  let s1 := statusCount s status
  { s1 with sc := { s1.sc with calendar := s1.sc.calendar.map (fun x =>
      if x.v = q.v ∧ x.body.isNone then { x with body := some body } else x) } }

/-- R350, R359: the earliest verdict that is ready leaves at its slot. -/
def canVerdict (s : State) : Bool := s.sc.calendar.any (fun x => x.body.isSome)

/-- SC_LAT, SLOW: a verdict's first bit leaves 200 ticks after its slot (R357). -/
def countLatency (s : State) (lat : Nat) : State :=
  let s1 := s.bump Reg.SC_LAT_COUNT 0 (min 15 (lat / 125))
  if 1000 ≤ lat then raise s1 Ev.scoring_SLOW else s1

def sendVerdict (s : State) : State :=
  match s.sc.calendar.find? (fun x => x.body.isSome) with
  | some x =>
    let s1 := s.passTo x.v
    let s2 := setCalendar s1 (s1.sc.calendar.erase x)
    releaseFrames (sendFrame (countLatency s2 (s2.tick + 200 - x.rxTick)) 0 x.src (x.body.getD []))
  | none => s

def execVerdictSend (s : State) : Result := whenOk (canVerdict s) s (sendVerdict s)

/-! ### Requests (R348, R349, R356) -/

/-- R355, R356: the batch of slot `m` that takes requests parsed at tick `t`: opened since the last commit, and not yet at its
start. -/
def pendingBatch (s : State) (m t : Nat) : Option Batch :=
  s.sc.batches.find? (fun b => b.slot == m && !b.running && decide (s.step.lastCommit ≤ b.opened) && decide (t < b.start))

/-- R356: rows of a batch. -/
def batchRows (ws : List Nat) : Nat := 32 / (layerBridle (layerOf ws 0)).getD 1

/-- Two batches use a kite in common. -/
def batchesMeet (train kset : Nat) (b : Batch) : Bool := b.train == train && Nat.land kset (scKset b.words) != 0

/-- R356: the earliest tick after `t` at which every kite of a model is free. -/
def batchStart (s : State) (train kset t : Nat) : Nat :=
  (s.sc.batches.filter (batchesMeet train kset)).foldl (fun a b => max a b.fin) (t + 1)

/-- R356: the ticks a batch of cost `c` takes at the present kite clock. -/
def batchTicks (s : State) (c : Nat) : Nat := ceilDiv (c * 1000) (s.rd Reg.CLK_KITE_FREQ_MHZ)

/-- R355: a batch opened now on the live model of slot `m`. -/
def openBatch (s : State) (m : Nat) : Batch :=
  let ws := scLive s m
  let train := s.rd Reg.SC_PART_TRAIN
  let start := batchStart s train (scKset ws) s.tick
  { slot := m, train := train, words := ws, opened := s.tick, start := start,
    fin := start + batchTicks s (s.rd Reg.SC_SLOT_COST_C 0 m),
    banks := (bitsOf 16 (scKset ws)).map (fun i =>
      let k := s.kite (s.slotOf (16 * train + i))
      (i, k.cb.live, k.vp.live)) }

/-- R349 rule 7: the feature codes, +0 up to the model's K. -/
def featureCodes (ws : List Nat) (ffmt nfeat : Nat) (bs : Bytes) : List Nat :=
  let cs := unpackBits (fmtBits ffmt) nfeat bs
  cs ++ List.replicate ((layerOf ws 0).k - nfeat) 0

/-- R356: the request takes slot `v` of the calendar and its row in the batch. -/
def joinBatch (s : State) (b : Batch) (isNew : Bool) (q : ScReq) : State :=
  let x : Verdict := { v := q.v, len := verdictLen q.src, src := q.src, rxTick := q.rxTick, body := none }
  let bs := if isNew then s.sc.batches ++ [{ b with reqs := [q] }]
    else s.sc.batches.map (fun y => if y = b then { y with reqs := y.reqs ++ [q] } else y)
  setCalendar { s with sc := { s.sc with batches := bs } } (calInsert x s.sc.calendar)

/-- R347, R349 rule 3: the slot answers FAULT: it is STALE, or a kite of its model waits for a reload or cannot run. -/
def slotFaulty (s : State) (m : Nat) : Bool :=
  s.rd Reg.SC_SLOT_STALE 0 m == 1 ||
    (bitsOf 16 (scKset (scLive s m))).any (fun i =>
      let n := s.slotOf (16 * s.rd Reg.SC_PART_TRAIN + i)
      (s.kite n).missed || s.rd Reg.KITE_STATE_STATE n == 6 || s.rd Reg.KITE_STATE_STATE n == 8)

/-- R348: the formats of features. -/
def featureFmt (f : Nat) : Bool := [1, 3, 4, 8].contains f

/-- R349 rules 2 to 5: the status of a request that is not admitted for its own sake, if any. -/
def requestStatus (s : State) (m nfeat ffmt len : Nat) : Option Nat :=
  let need := 16 + packedBytes (fmtBits ffmt) nfeat
  if 1024 < nfeat ∨ len < need then some 3
  else if s.rd Reg.SC_CTL_EN = 0 ∨ s.rd Reg.SC_SLOT_LIVE 0 m = 0 then some 2
  else if slotFaulty s m then some 5
  else if (layerOf (scLive s m) 0).k < nfeat then some 3
  else if ffmt ≠ scInFmt (scLive s m) ∨ !featureFmt ffmt then some 4
  else none

/-- R350: VERSION of a non-OK verdict. -/
def statusVersion (s : State) (status m : Nat) : Nat := if status = 1 ∨ status = 5 then s.rd Reg.SC_SLOT_VERSION 0 m else 0

/-- R356: admission to the slot's pending batch or to a new one. -/
def admission (s : State) (src : HostAddr) (rxTick m flow ctag : Nat) (codes : List Nat) : State :=
  let busy := answerRequest s src rxTick 1 m (statusVersion s 1 m) flow ctag
  let place := fun (b : Batch) (isNew : Bool) =>
    let v := calFree (verdictLen src) s.sc.calendar b.fin
    if v - s.tick ≤ 560 then
      joinBatch s b isNew { src := src, rxTick := rxTick, flow := flow, ctag := ctag, codes := codes, v := v }
    else busy
  match pendingBatch s m s.tick with
  | some b => if b.reqs.length < batchRows b.words then place b false else busy
  | none => place (openBatch s m) true

/-- R349 to R361: a request that is one, parsed at the present tick. -/
def parsedRequest (s : State) (src : HostAddr) (bs : Bytes) (rxTick : Nat) : State :=
  let m := leAt bs 1 1 % 16
  let ffmt := leAt bs 1 1 / 16
  let nfeat := leAt bs 2 2
  let flow := leAt bs 4 8
  let ctag := leAt bs 12 4
  let s1 := s.bump Reg.SC_REQS_COUNT
  if !s1.islandsRun then answerRequest s1 src rxTick 6 m 0 flow ctag
  else
    match requestStatus s1 m nfeat ffmt bs.length with
    | some st => answerRequest s1 src rxTick st m (statusVersion s1 st m) flow ctag
    | none => admission s1 src rxTick m flow ctag (featureCodes (scLive s1 m) ffmt nfeat (bs.drop 16))

/-- R349, R358: a scoring frame, whose parse ends 220 ticks after its last bit at the earliest (R357). -/
def scoringFrame (s : State) (src : HostAddr) (bs : Bytes) (rxTick : Nat) : State :=
  let s1 := s.passTo (rxTick + 220)
  if bs.length < 16 ∨ leAt bs 0 1 ≠ 0x11 then s1.bump Reg.SC_RUNTS_COUNT
  else if calFull s1 src then s1.bump Reg.SC_LOST_COUNT
  else parsedRequest s1 src bs rxTick

/-- R348: UDP_EN admits datagrams to UDP_PORT. -/
def scUdp (s : State) (port : Nat) : Bool := s.rd Reg.SC_CTL_UDP_EN == 1 && s.rd Reg.SC_CTL_UDP_PORT == port

def execScoringRequest (src : HostAddr) (payload : Bytes) (rxTick : Tick) (s : State) : Result :=
  .next (acceptFrame s src (scUdp s) (fun s => scoringFrame s src payload rxTick))

/-! ### Batches and faults (R346, R347, R354, R356) -/

/-- The slots of a batch's kites. -/
def batchSlots (s : State) (b : Batch) : List Nat := (bitsOf 16 (scKset b.words)).map (fun i => s.slotOf (16 * b.train + i))

/-- The batch of slot `m` that starts next. -/
def nextBatch (s : State) (m : Nat) : Option Batch := s.sc.batches.find? (fun b => b.slot == m && !b.running)

/-- R356: every kite of a batch is free of running batches and of those opened before it. -/
def batchFree (s : State) (b : Batch) : Bool :=
  let before := s.sc.batches.takeWhile (fun x => x != b)
  !(before ++ s.sc.batches.filter (·.running)).any (batchesMeet b.train (scKset b.words))

def replaceBatch (s : State) (b c : Batch) : State :=
  { s with sc := { s.sc with batches := s.sc.batches.map (fun x => if x = b then c else x) } }

def canStartBatch (s : State) (m : Nat) : Bool :=
  s.islandsRun && (match nextBatch s m with | some b => batchFree s b | none => false)

/-- R346, R356: the batch starts and closes to new rows; its kites read RUN. -/
def startBatch (s : State) (m : Nat) : State :=
  match nextBatch s m with
  | some b =>
    let s1 := replaceBatch (s.passTo b.start) b { b with running := true }
    (batchSlots s b).foldl (fun s n => s.wr Reg.KITE_STATE_STATE 2 n) s1
  | none => s

def execBatchStart (slot : ScSlot) (s : State) : Result := whenOk (canStartBatch s slot) s (startBatch s slot)

/-- R355: RETIRING and the kites' retiring banks follow the batches opened before the last commit. -/
def showRetiring (s : State) : State :=
  let old := s.sc.batches.filter (fun b => decide (b.opened < s.step.lastCommit))
  let slots := (old.map (batchSlots s)).flatten
  let s1 := (List.range 16).foldl (fun s m =>
    let r := ofBool (old.any (fun b => b.slot == m))
    if s.rd Reg.SC_SLOT_RETIRING 0 m = r then s else s.wr Reg.SC_SLOT_RETIRING r 0 m) s
  (List.range 16).foldl (fun s i =>
    let n := s.slotOf (16 * s.rd Reg.SC_PART_TRAIN + i)
    let r := ofBool (slots.contains n)
    if s.rd Reg.CB_FILE_STAT_CB_RETIRING n = r then s
    else (s.wr Reg.CB_FILE_STAT_CB_RETIRING r n).wr Reg.VP_FILE_STAT_VP_RETIRING r n) s1

/-- The batch is over: its kites that still run read IDLE. -/
def closeBatch (s : State) (b : Batch) : State :=
  let s1 := { s with sc := { s.sc with batches := s.sc.batches.erase b } }
  showRetiring ((batchSlots s b).foldl (fun s n =>
    if s.rd Reg.KITE_STATE_STATE n = 2 then s.wr Reg.KITE_STATE_STATE 1 n else s) s1)

/-- R347: weights in bytes [lo, hi) of partition kite `i` are lost, and the slots whose live model uses the kite become
STALE. -/
def makeStale (s : State) (i lo hi : Nat) : State :=
  let s1 := { s with sc := { s.sc with lost := s.sc.lost.put i (s.sc.lost.getD i [] ++ [(lo, hi)]) } }
  (List.range 16).foldl (fun s m =>
    if s.rd Reg.SC_SLOT_LIVE 0 m = 1 ∧ bit (scKset (scLive s m)) i ∧ s.rd Reg.SC_SLOT_STALE 0 m = 0 then
      raise (s.wr Reg.SC_SLOT_STALE 1 0 m) Ev.scoring_STALE
    else s) s1

/-- R347: a fault of partition kite `i` with its batch's slot: latched, and cleared by FAULT_CLR. -/
def latchPartFault (s : State) (train i m code : Nat) : State :=
  let n := s.slotOf (16 * train + i)
  let s1 := (kiteFaultLatch s n { code := code, op := 0 }).wr Reg.SC_FAULT_KITE i
  let s2 := raise ((s1.wr Reg.SC_FAULT_SLOT m).wr Reg.SC_FAULT_CODE code) Ev.scoring_SC_FAULT
  (endStop (faultClear s2 n) n).wr Reg.KITE_STATE_STATE (if s.rd Reg.KITE_STATE_STATE n ≤ 3 then 1 else s.rd Reg.KITE_STATE_STATE n) n

/-- R347: every request of the batch receives FAULT. -/
def faultBatch (s : State) (b : Batch) : State :=
  closeBatch (b.reqs.foldl (fun s q => fillVerdict s q 5 b.slot (scVersion b.words) []) s) b

/-- R44: the scratchpad address of a bank's row. -/
def spRowAddr (row : Nat) : Nat := (row % 2048 * 32 + row / 2048) * 128

/-- R48: the spare row that takes over a lost one holds no data of it: 128 free bytes (log 45). -/
def loseRow (s : State) (n row : Nat) : State :=
  { s.spWrite n (spRowAddr row) ((List.range 128).map (fun i => BitVec.ofNat 8 (Config.free (s.fresh + i)))) with
    fresh := s.fresh + 128 }

/-- R47, R48, R347: an uncorrectable row of a partition kite is remapped and its weights are lost; a bank without spares
fails the kite. -/
def partUe (s : State) (train i row m : Nat) : State :=
  let n := s.slotOf (16 * train + i)
  let s1 := raise (s.countUe .kiteCtl n) Ev.kiteCtl_SP_UE n
  let (ok, s2) := remapRow (latchPartFault s1 train i m 6) n row
  makeStale (if ok then loseRow s2 n row else declareFailed s2 n) i (spRowAddr row) (spRowAddr row + 128)

/-- The kites of a batch with the banks it is bound to (R355). -/
def batchKites (s : State) (b : Batch) : List KiteState :=
  (bitsOf 16 (scKset b.words)).map (fun i =>
    let k := s.kite (s.slotOf (16 * b.train + i))
    let x := b.banks.getD i ([], [])
    { k with cb := { k.cb with live := x.1 }, vp := { k.vp with live := x.2 } })

/-- R354: the layers have run; every verdict of the batch is ready. -/
def scoreBatch (s : State) (b : Batch) : State :=
  let ks := batchKites s b
  match modelEscape b.words ks with
  | some i =>
    let kite := (bitsOf 16 (scKset b.words)).getD i 0
    let n := s.slotOf (16 * b.train + kite)
    faultBatch (latchPartFault (raise s Ev.kiteArr_ESC_OVERRUN n) b.train kite b.slot 7) b
  | none =>
    closeBatch (b.reqs.foldl (fun s q =>
      fillVerdict s q 0 b.slot (scVersion b.words) (modelRow b.words ks { codes := q.codes }).codes) s) b

/-- The batch of slot `m` that runs. -/
def runningBatch (s : State) (m : Nat) : Option Batch := s.sc.batches.find? (fun b => b.slot == m && b.running)

def canEndBatch (s : State) (m : Nat) : Bool := s.islandsRun && (runningBatch s m).isSome

/-- R47, R354, R356: the batch ends, with the rows it met that were corrected or lost. -/
def endBatch (s : State) (m : Nat) (env : PartEnv) : State :=
  match runningBatch s m with
  | some b =>
    let s1 := s.passTo b.fin
    let s2 := env.ceRows.foldl (fun s r => spCorrected s (s.slotOf (16 * b.train + r.1)) (spRow r.2.1 r.2.2)) s1
    match env.ue with
    | some r => faultBatch (partUe s2 b.train r.1 (spRow r.2.1 r.2.2) m) b
    | none => scoreBatch s2 b
  | none => s

def execBatchEnd (slot : ScSlot) (env : PartEnv) (s : State) : Result := whenOk (canEndBatch s slot) s (endBatch s slot env)

/-! ### Commits (R347, R353, R355) -/

/-- R353: the scoring slots whose dirty shadow is not validated; a commit leaves it where it is. -/
def skippedSlots (s : State) : List Nat :=
  (List.range 16).filter (fun m => scDirty s m && s.rd Reg.SC_SLOT_SHADOW_OK 0 m == 0)

/-- R353: the slots whose validated shadow becomes live. -/
def swappedSlots (s : State) : List Nat :=
  (List.range 16).filter (fun m => scDirty s m && s.rd Reg.SC_SLOT_SHADOW_OK 0 m == 1)

/-- R347: lost weights that the live model of slot `m` uses have not been loaded again. -/
def weightsMissing (s : State) (m : Nat) : Bool :=
  let ws := scLive s m
  let kites := bitsOf 16 (scKset ws)
  scValid ws && kites.zipIdx.any (fun e =>
    let k := s.kite (s.slotOf (16 * s.rd Reg.SC_PART_TRAIN + e.1))
    (List.range (scLayers ws)).any (fun j =>
      let l := layerOf ws j
      let n := ((layerPassList k l (kiteColumns l kites.length e.2)).map Pass.bytes).sum
      (s.sc.lost.getD e.1 []).any (fun r => decide (r.1 < l.wAddr + n) && decide (l.wAddr < r.2))))

/-- R347, R353: SC_SLOT after its descriptor became live. A STALE slot stays so while weights of its model are missing. -/
def showModel (s : State) (m : Nat) : State :=
  let ws := scLive s m
  let stale := s.rd Reg.SC_SLOT_STALE 0 m == 1 && weightsMissing s m
  (((s.wr Reg.SC_SLOT_LIVE (ofBool (scValid ws)) 0 m).wr Reg.SC_SLOT_STALE (ofBool stale) 0 m).wr Reg.SC_SLOT_COST_C
    (if scValid ws then scCycles ws else 0) 0 m).wr Reg.SC_SLOT_VERSION (if scValid ws then scVersion ws else 0) 0 m

/-- R347: a partition kite that missed a commit: MODE_SKEW, its batch ends with FAULT. -/
def partitionSkew (s : State) (k : Nat) : State :=
  let b := s.sc.batches.find? (fun b => b.running && b.train == k / 16 && bit (scKset b.words) (k % 16))
  let s1 := raise (latchPartFault s (k / 16) (k % 16) ((b.map Batch.slot).getD 0) 5) Ev.plan_MODE_SKEW
  match b with
  | some x => faultBatch s1 x
  | none => s1

end Sys2Proof.Machine
end

