-- ==== Sys2Proof/Machine/Recovery.lean ====
section
/-! DEFINITION. Recovery (14 R400 to R413): lost scratchpad rows, kite replacement, restores from and for the partner
(12 R378), and the commands KITE_HANG, REPLACE, PLAN_UE_DONE and RESTORE_READ. -/

namespace Sys2Proof.Machine

/-! ### Scratchpad rows lost (01 R48) -/

/-- R245: the pieces of a logical kite's RESIDENT ranges that the SP_DATA sections hold: offset in the image,
scratchpad address, bytes. -/
def residentPieces (s : State) (k : Nat) : List (Nat × Nat × Nat) :=
  (s.plan.spData.getD k []).flatMap (fun d =>
    (s.plan.resident.getD k []).filterMap (fun r =>
      let lo := max d.2.2 r.1
      let hi := min (d.2.2 + d.2.1) (r.1 + r.2)
      if lo < hi then some (d.1 + (lo - d.2.2), lo, hi - lo) else none))

/-- R401 step 3: a piece of the plan image is read through the spool and written to slot `n`; what of it is lost waits for the
host (R409). -/
def rewritePiece (s : State) (n : Nat) (p : Nat × Nat × Nat) : State :=
  let (bs, bad, s1) := memRead s (s.rd Reg.PLAN_BASE_BASE * 2 ^ 26 + p.1) p.2.2 0
  if bad = [] then s1.spWrite n p.2.1 bs
  else
    let s2 := bad.foldl (fun s a => noteUe (uncorrectableRead s a) a) s1
    { s2 with recov := { s2.recov with pieces := s2.recov.pieces ++ [(n, p)] } }

/-- R401 step 3: the RESIDENT ranges of logical kite `k` are rewritten in slot `n` from the plan image. -/
def rewriteResident (s : State) (k n : Nat) : State := (residentPieces s k).foldl (fun s p => rewritePiece s n p) s

/-- R48, R237: before a replay the rows with uncorrectable errors are remapped; what the plan keeps in them is rewritten
(DEDUCED, log 45). -/
def remapLost (s : State) (k : Nat) : State :=
  let n := s.slotOf k
  let rows := (s.kite n).ueRows
  if rows = [] then s
  else
    let s1 := rows.foldl (fun s r => let (ok, s2) := remapRow s n r; if ok then loseRow s2 n r else s2) s
    rewriteResident (s1.setKite n { s1.kite n with ueRows := [] }) k n

/-! ### Kite replacement (R400 to R403) -/

/-- R403: the ballast slot of train `t`, when it is STANDBY and not already taking a kite. -/
def ballastSlot (s : State) (t : Nat) : Option Nat :=
  let n := 17 * t + s.rd Reg.TRN_BALLAST_SLOT t
  if s.rd Reg.TRN_BALLAST_USED t = 0 ∧ s.rd Reg.KITE_STATE_STATE n = 7
      ∧ !(s.recov.swaps ++ s.recov.planned).any (fun e => e.2 == n) then some n
  else none

/-- The fields of a kite's pages that commands and plans set. -/
def kiteConfigFields : List Fld :=
  ([PageKind.kiteCtl, .kiteArr, .kiteVec, .kiteEnv].flatMap pageFields).filter (fun f => f.kind == .rw || f.kind == .rwc)

/-- A field's live and shadow value copied from slot `old` to slot `n`. -/
def copyField (s : State) (f : Fld) (old n i : Nat) : State :=
  let s1 := s.wr f (s.rd f old i) n i
  match Table.find (f.key old i) s.shadow with
  | some v => { s1 with shadow := s1.shadow.put (f.key n i) v }
  | none => { s1 with shadow := s1.shadow.erase (f.key n i) }

/-- R401 step 2, R398: the configuration of a kite in a new slot is that of the old one (log 46). -/
def copyConfig (s : State) (old n : Nat) : State :=
  kiteConfigFields.foldl (fun s f => (List.range f.count).foldl (fun s i => copyField s f old n i) s) s

/-- R140: both banks hold the last committed contents. -/
def FileBanks.settled (b : FileBanks) : FileBanks := { b with shadow := b.live, copyDue := false }

/-- R140, R401 steps 2 and 3: the ballast slot receives files, snapshot bank, configuration and RESIDENT ranges. -/
def adoptSlot (s : State) (k old n : Nat) : State :=
  let o := s.kite old
  let s1 := copyConfig s old n
  rewriteResident (s1.setKite n { s1.kite n with cb := o.cb.settled, sc := o.sc.settled, vp := o.vp.settled, snap := o.snap }) k n

/-- R58, R401 step 4, R402: the map swaps: slot `n` serves logical kite `k` under the live epoch, which at a commit is the new
one; the old slot is FAILED. -/
def swapKite (s : State) (k n : Nat) : State :=
  let t := k / 16
  let e := s.rd Reg.PT_EPOCH_EPOCH
  let x := s.kite n
  let fresh := { x with cb := { x.cb with epoch := e }, sc := { x.sc with epoch := e }, vp := { x.vp with epoch := e },
                        epoch := e, latchTick := s.step.lastCommit, missed := false, stopFrom := none, fault := none }
  let s1 := (s.setKite n fresh).wr Reg.TRN_KMAP_SLOT (n % 17) t (k % 16)
  let s2 := { s1 with shadow := s1.shadow.erase (Reg.TRN_KMAP_SLOT.key t (k % 16)) }
  let s3 := (s2.wr Reg.KITE_STATE_STATE 1 n).wr Reg.TRN_BALLAST_USED 1 t
  let s4 := svcAppend (raise s3 Ev.trainCtl_KITE_REPLACED t) 1 .kiteCtl n (n % 17)
  if partitionKite s4 k then makeStale s4 (k % 16) 0 weightTop else s4

/-- R403: no ballast kite is left: the rank is handed over. -/
def ballastGone (s : State) (t : Nat) : State :=
  let s1 := handOver (raise s Ev.trainCtl_BALLAST_EXHAUSTED t)
  if s.partner.isNone then { s1 with recov := { s1.recov with stuck := true } } else s1

/-- R401: the kite of `k` failed while a plan runs: the ballast slot is made ready inside the abort. -/
def repairKite (s : State) (k : Nat) : State :=
  match ballastSlot s (k / 16) with
  | some n =>
    let s1 := adoptSlot (rung s 2) k (s.slotOf k) n
    let s2 := { s1 with shadow := s1.shadow.put (Reg.TRN_KMAP_SLOT.key (k / 16) (k % 16)) (n % 17) }
    { s2 with recov := { s2.recov with swaps := s2.recov.swaps ++ [(k, n)] } }
  | none => ballastGone s (k / 16)

/-- The logical kites of the plan whose slot is FAILED and that no swap waits for. -/
def failedKites (s : State) : List Nat :=
  (List.range 128).filter (fun k => s.rd Reg.KITE_STATE_STATE (s.slotOf k) == 8 && !partitionKite s k
    && !s.recov.swaps.any (fun e => e.1 == k))

/-- R402: while no plan runs, and for a partition kite at any time (R401), the kite is replaced at once. -/
def replaceNow (s : State) (k n : Nat) : State :=
  let old := s.slotOf k
  swapKite (adoptSlot (declareFailed s old) k old n) k n

/-- R402: a write of REPLACE. -/
def replaceKite (s : State) (t i : Nat) : State :=
  match ballastSlot s t with
  | none => refuse s .trainCtl t
  | some n =>
    let k := 16 * t + i
    if s.planRuns && !partitionKite s k then { s with recov := { s.recov with planned := s.recov.planned ++ [(k, n)] } }
    else replaceNow s k n

def execReplace (t : Train) (logical : Fin 16) (s : State) : Result := .next (replaceKite s t logical)

/-- R402: at the commit the slot's banks are those of the old one, which has latched. -/
def commitPlanned (s : State) : State :=
  let s1 := s.recov.planned.foldl (fun s e => replaceNow s e.1 e.2) s
  { s1 with recov := { s1.recov with planned := [] } }

/-- R401 step 4: the repair swaps of a replay tick. -/
def repairSwaps (s : State) : State :=
  let s1 := s.recov.swaps.foldl (fun s e => swapKite s e.1 e.2) s
  { s1 with recov := { s1.recov with swaps := [] } }

/-- R400: PLAN_PC of logical kite `k` has not changed for KITE_HANG ticks while its slot runs. -/
def canHang (s : State) (k : Nat) : Bool :=
  let n := s.slotOf k
  s.islandsRun && !partitionKite s k && s.inStep && s.rd Reg.KITE_STATE_STATE n == 2

def hangKite (s : State) (k : Nat) : State :=
  let n := s.slotOf k
  stopStep (declareFailed (s.passTo ((s.kite n).pcTick + s.rd Reg.KITE_HANG_TICKS (k / 16))) n)

def execKiteHang (k : Kite) (s : State) : Result := whenOk (canHang s k) s (hangKite s k)

/-! ### Restores (R409, R410) -/

/-- R409: a write of PLAN_UE_DONE. What was lost of RESIDENT ranges is read again. -/
def clearPlanUe (s : State) : State :=
  s.recov.pieces.foldl (fun s e => rewritePiece s e.1 e.2)
    ({ s with recov := { s.recov with pieces := [] } }.wr Reg.RECOV_STAT_PLAN_UE 0)

def execPlanUeDone (s : State) : Result := .next (clearPlanUe s)

/-- The granule addresses of a range. -/
def rangeGranules (r : Nat × Nat) : List Nat :=
  if r.2 = 0 then [] else (List.range ((r.1 + r.2 - 1) / 2048 + 1 - r.1 / 2048)).map (fun i => (r.1 / 2048 + i) * 2048)

/-- R410: the PERSISTENT granules of a lost logical channel (stack, channel). -/
def lostGranules (s : State) (c : Nat × Nat) : List Nat :=
  (s.plan.persistent.flatMap rangeGranules).filter (fun a => (decodeAddr a).stack == c.1 && (decodeAddr a).lpc == c.2)

/-- R409, R410: at an abort, what lies in PERSISTENT ranges is asked of the partner. -/
def askRestores (s : State) : State :=
  let gs := ((s.recov.ues.filter s.inPersistent).map (fun a => a / 2048 * 2048))
    ++ s.recov.dead.flatMap (lostGranules s)
  let s1 := gs.foldl (fun s a => askRestore s a none 0) s
  { s1 with recov := { s1.recov with ues := [], dead := [] } }

/-- R410, R411: a restore transfer has been written: what it covers is restored; a burner's record can go on. -/
def restoreLanded (s : State) (a bytes : Nat) : State :=
  match s.recov.restores.find? (fun r => r.addr == a) with
  | none => s
  | some r =>
    let s1 := { s with recov := { s.recov with
      restores := s.recov.restores.erase r,
      burnUes := s.recov.burnUes.filter (fun e => !(decide (a ≤ e.2) && decide (e.2 < a + bytes))) } }
    let s2 := s1.bump Reg.RESTORED_COUNT 0 0 (bytes / 2048)
    match r.burner with
    | some t => if burnMisses s2 t then s2 else burnGoesOn s2 t
    | none => s2

/-- R378, R411: a restore was refused or its read failed at the partner: the ladder goes to rung 4. -/
def restoreFails (s : State) (r : Restore) : State :=
  let s1 := rungRecorded { s with recov := { s.recov with restores := s.recov.restores.erase r, stuck := true } } 4 .plan 0
  s1

/-! ### RESTORE_READ from the partner (12 R378, R411) -/

/-- The answer kept for a TXN of a peer (R377). -/
def keptReply (s : State) (src txn : Nat) : Option Reply :=
  ((s.fab.replies.getD src []).find? (fun e => e.1 == txn)).map Prod.snd

/-- R377: the last 16 answers of each source are kept. -/
def keepReply (s : State) (src txn : Nat) (r : Reply) : State :=
  { s with fab := { s.fab with replies := s.fab.replies.put src (((txn, r) :: s.fab.replies.getD src []).take 16) } }

/-- An answer goes to a peer on virtual channel `vc`. -/
def sendReply (s : State) (vc src txn : Nat) (r : Reply) : State :=
  match r with
  | .nack st => s.send vc src (.nack txn st)
  | .body st b => s.send vc src (.peerReply txn st b)
  | .transfer d b => startSend s vc (16 * s.self + 8) d .restore none b

def answerPeer (s : State) (vc src txn : Nat) (r : Reply) : State := sendReply (keepReply s src txn r) vc src txn r

/-- R378: the fields of a RESTORE_READ body. -/
structure RestoreBody where
  txn : Nat
  burner : Bool
  addr : Nat
  len : Nat
  record : Nat
deriving DecidableEq, Repr

def restoreBody (b : Bytes) : RestoreBody :=
  { txn := leAt b 0 2, burner := bit (leAt b 2 2) 0, addr := leAt b 4 5, len := leAt b 12 4, record := leAt b 16 2 }

def restoreRangeOk (r : RestoreBody) : Bool :=
  r.addr % 2048 == 0 && decide (2048 ≤ r.len) && decide (r.len ≤ 65536) && r.len % 2048 == 0
    && decide (r.addr + r.len ≤ hbmTop)

/-- R225, R411: the range cannot be read yet, or the burner here has not reached the record's element `progress` and cannot go
on. -/
def restoreWaits (s : State) (r : RestoreBody) (progress : Nat) : Bool :=
  let t := trainOf r.addr
  let next := (s.seqOf t 2).next
  s.mem.window.isSome || (r.burner && s.partner.isSome && match (s.burnerOf t).run with
    | some x => decide (x.idx < r.record)
        || (x.idx == r.record && !x.whole && decide (x.pos < progress) && !burnerDue s t)
    | none => decide (next < r.record) || (next == r.record && !burnerDue s t))

/-- R411: the burner of train `t` runs its record `record` up to element `progress`, where it is held. -/
def runTo (s : State) (t record progress : Nat) : State :=
  match (s.burnerOf t).run with
  | some x => if x.idx = record ∧ x.pos < progress then continueBurn s t x (.upTo progress) else s
  | none => if (s.seqOf t 2).next = record then startBurn s t (.upTo progress) else s

/-- R411: the burner stands at `progress` of the record, where it may have run first and is held; none when it is past it, or
has lost data of its own. -/
def burnerHolds (s : State) (r : RestoreBody) (progress : Nat) : Option State :=
  let t := trainOf r.addr
  let s1 := runTo s t r.record progress
  match (s1.burnerOf t).run with
  | some x => if x.idx = r.record ∧ !x.whole ∧ x.pos ≤ progress ∧ !burnMisses s1 t then some s1 else none
  | none => none

/-- R378: the range is read and returned as one transfer, or NACK. -/
def serveRange (s : State) (src : Nat) (r : RestoreBody) : State :=
  let (bs, bad, s1) := memRead s r.addr r.len 0
  match bad with
  | _ :: _ => answerPeer (bad.foldl uncorrectableRead s1) 7 src r.txn (.nack 6)
  | [] =>
    answerPeer s1 7 src r.txn (.transfer (16 * src + 8)
      (descriptorBytes r.addr r.len none s1.stepNum (s1.rd Reg.STEP_STAT_REPLAY_RUN) ++ bs))

/-- R378: a RESTORE_READ is served; `progress` is the requester's BN_PROGRESS (R411; log 47). -/
def serveRestore (s : State) (src : Nat) (r : RestoreBody) (progress : Nat) : State :=
  if s.partner ≠ some src then s.send 7 src (.nack r.txn 8)
  else match keptReply s src r.txn with
  | some x => sendReply s 7 src r.txn x
  | none =>
    if !restoreRangeOk r then answerPeer s 7 src r.txn (.nack 4)
    else if r.burner then
      match burnerHolds s r progress with
      | some s1 => serveRange s1 src r
      | none => answerPeer s 7 src r.txn (.nack 4)
    else serveRange s src r

def execRestoreRead (src : Dev) (body : Bytes) (progress : Nat) (s : State) : Result :=
  whenOk (!restoreWaits s (restoreBody body) progress && (s.islandsRun || !(restoreBody body).burner)) s
    (serveRestore s src (restoreBody body) progress)

end Sys2Proof.Machine
end

