-- ==== Sys2Proof/Machine/Commit.lean ====
section
/-! DEFINITION. Commits (07 R233, R240 to R242, 04 R167): what every unit latches at a step tick or device-local commit. -/

namespace Sys2Proof.Machine

/-! ### What follows from latched words -/

/-- R240, R353: shadow words a commit leaves alone: descriptors not validated, and words of slots that miss it. -/
def keptWord (skip ns : List Nat) (key : Nat) : Bool :=
  (match scSlotOfKey key with
  | some m => skip.contains m
  | none => false) || ns.any (fun n => slotKey n key)

/-- A field has a shadow word that differs from its live one. -/
def fieldMoves (s : State) (f : Fld) (inst i : Nat) : Bool := s.rdSh f inst i != s.rd f inst i

/-- R204, R240: a stack's pseudo-channel map changes with the commit. -/
def mapMoves (s : State) (k : Nat) : Bool := (List.range 31).any (fun l => fieldMoves s Reg.PC_MAP_PHYS k l)

/-- R203, R204: after a map change the channels show what they serve. -/
def showChannels (s : State) (k : Nat) : State :=
  (List.range 32).foldl (fun s p =>
    match (List.range 31).find? (fun l => s.ppc k l == p) with
    | some l =>
      let s1 := s.wr Reg.PC_REC_ST_LOGICAL l k p
      if s.rd Reg.PC_REC_ST_STATE k p = 1 then s1.wr Reg.PC_REC_ST_STATE 0 k p else s1
    | none => if s.rd Reg.PC_REC_ST_STATE k p = 0 then s.wr Reg.PC_REC_ST_STATE 1 k p else s) s

/-- R204: the contents follow a new pseudo-channel map. -/
def moveChannels (s : State) (k : Nat) : State :=
  if mapMoves s k then rekeyStack s k (s.ppc k) (fun l => s.rdSh Reg.PC_MAP_PHYS k l) else s

/-- R213: buckets are brought up to the commit under the old parameters. -/
def settleBuckets (s : State) : State :=
  (List.range 64).foldl (fun s i => s.setBucket (i / 8) (i % 8) (bucketNow s (i / 8) (i % 8))) s

/-- R400, 14 TRN_BALLAST: slots the map names serve, the others stand by. -/
def settleMap (s : State) (t : Nat) : State :=
  let s1 := (List.range 17).foldl (fun s i =>
    let n := 17 * t + i
    let st := s.rd Reg.KITE_STATE_STATE n
    if (s.logicalOf n).isSome then (if st = 7 then s.wr Reg.KITE_STATE_STATE 1 n else s)
    else if st = 1 then s.wr Reg.KITE_STATE_STATE 7 n else s) s
  match (List.range 17).find? (fun i => s1.rd Reg.KITE_STATE_STATE (17 * t + i) == 7) with
  | some i => (s1.wr Reg.TRN_BALLAST_SLOT i t).wr Reg.TRN_BALLAST_USED 0 t
  | none => s1.wr Reg.TRN_BALLAST_USED 1 t

/-- Whether the commit changes the kite map of a train. -/
def kmapMoves (s : State) (t : Nat) : Bool := (List.range 16).any (fun i => fieldMoves s Reg.TRN_KMAP_SLOT t i)

/-! ### Latching -/

/-- R167: a serving slot that cannot latch: the commit was missed, or it is halted, in repair or failed. -/
def missesLatch (s : State) (late : Bool) (n : Nat) : Bool :=
  (s.logicalOf n).isSome && (late || [5, 6, 8].contains (s.rd Reg.KITE_STATE_STATE n))

/-- R240: slot `n` latches its banks, unless it is off or a failed slot that serves no kite. -/
def latchSlot (s : State) (n epoch t : Nat) : State :=
  let st := s.rd Reg.KITE_STATE_STATE n
  if st = 0 ∨ st = 8 then s else s.setKite n ((s.kite n).commit epoch t)

/-- R167: a slot that missed its latch waits for the governor's reload. -/
def missSlot (s : State) (n : Nat) : State :=
  let s1 := s.setKite n { s.kite n with missed := true }
  match (List.finRange 136)[n]? with
  | some f => s1.setGov { s1.gov with missing := s1.gov.missing ++ [.kite f] }
  | none => s1

/-- The rule whose words 0 to 2 a register key belongs to (04 R160). -/
def ruleOfKey (key : Nat) : Option Nat :=
  let o := key / 8
  if 0x5400 ≤ o ∧ o < 0x5800 ∧ o % 16 ≠ 12 then some ((o - 0x5400) / 16) else none

/-- R157: a host write of a rule's word clears its counters at the commit the write joins. -/
def touchRule (s : State) (key : Nat) : State :=
  match ruleOfKey key with
  | some r => { s with gov := { s.gov with touched := if s.gov.touched.contains r then s.gov.touched else s.gov.touched ++ [r] } }
  | none => s

/-- R241: a write held back lands in the shadow bank. -/
def landHeld (s : State) (w : ShWrite) : State :=
  match w with
  | .field key v => touchRule (clearShadowOk { s with shadow := s.shadow.put key v } key) key
  | .file n f w v =>
    if ((s.kite n).file f).copyDue || copyBusy s n f then { s with held := s.held ++ [.file n f w v] } else windowStore s n f w v

/-- R167: the slots that missed the commit raise MODE_SKEW: those of the plan stop the step, partition kites end their
batch (R347). -/
def skewSlots (s : State) (ns : List Nat) : State :=
  let plan := ns.filter (fun n => !partitionSlot s n)
  let s1 := (ns.filter (partitionSlot s)).foldl (fun s n => partitionSkew s ((s.logicalOf n).getD 0)) s
  if plan = [] then s1 else modeSkew (plan.foldl (fun s n => kiteFaultLatch s n { code := 5, op := 0 }) s1)

/-- R240: the words: descriptors not validated and words of the slots `ns`, which miss the commit, stay in the shadow, all
others become live. -/
def latchWords (s : State) (ns : List Nat) : State :=
  let skip := skippedSlots s
  let s1 := s.bump Reg.SWAP_SKIPS_COUNT 0 0 skip.length
  { s1 with regs := s1.regs.putAll (s1.shadow.filter (fun e => !keptWord skip ns e.1)),
            shadow := s1.shadow.filter (fun e => keptWord skip ns e.1) }

/-- R233, R240: epoch `e` is live and every unit latches at tick `t`; `ns` are the slots that miss it. -/
def latchUnits (s : State) (e t : Nat) (ns : List Nat) : State :=
  let s1 := s.wr Reg.PT_EPOCH_EPOCH e
  let s2 := { s1 with step := { s1.step with lastCommit := t } }
  let s3 := ((List.range 136).filter (fun n => !ns.contains n)).foldl (fun s n => latchSlot s n e t) s2
  ns.foldl missSlot s3

/-- R277: detours in force stay until a commit after their primary line came up. -/
def settleDetours (s : State) : State :=
  { s with fab := { s.fab with inForce := s.fab.inForce.filter (fun p => !s.lineUp p.1) } }

/-- R424: the record of a latched commit; its B names the plan page (DEDUCED, log 48). -/
def traceCommit (s : State) (t : Nat) : State :=
  traceAll s 2 0x20 (s.rd Reg.PT_EPOCH_EPOCH) (blockCode .plan) t

/-- R240: everything a commit at tick `t` does; the slots that missed it are `commitMisses` of the state before. -/
def commitMisses (s : State) (late : Bool) : List Nat := (List.range 136).filter (missesLatch s late)

def commitBanks (s : State) (late : Bool) (t : Nat) : State :=
  let ns := commitMisses s late
  let swaps := swappedSlots s
  let moved := (List.range 16).filter (mapMoves s)
  let kmaps := (List.range 8).filter (kmapMoves s)
  let s1 := (List.range 16).foldl moveChannels (settleBuckets s)
  let s2 := latchUnits (latchWords s1 ns) ((s.rd Reg.PT_EPOCH_EPOCH + 1) % 2 ^ 32) t ns
  let s3 := kmaps.foldl settleMap (moved.foldl showChannels s2)
  let s4 := commitGovernor ((List.range 8).foldl checkGroups (swaps.foldl showModel s3))
  let s5 := showRetiring (commitPlanned (settleDetours s4))
  let s6 := s5.held.foldl landHeld { s5 with held := [] }
  traceCommit s6 t

/-- R241: the device-local commit. -/
def localCommit (s : State) (t : Nat) : State :=
  let s1 := s.passTo t
  skewSlots (commitBanks s1 false t) (commitMisses s1 false)

def execCommitTick (s : State) : Result :=
  match s.step.commitAt with
  | t :: rest => whenOk s.islandsRun s (localCommit { s with step := { s.step with commitAt := rest } } t)
  | [] => .next s

end Sys2Proof.Machine
end

