-- ==== Sys2Proof/Machine/RegRules.lean ====
section
/-! DEFINITION. What a register word holds, the values its fields and words accept (00 R10 and the registers' own
rules), and how an accepted write is stored (00 R14, 07 R241). -/

namespace Sys2Proof.Machine

/-! ### Words and fields -/

/-- Whether field `f` lies in the word at offset `ofs`. -/
def Fld.holds (f : Fld) (ofs : Nat) : Bool :=
  decide (f.ofs ≤ ofs) && (ofs - f.ofs) % f.stride == 0 && decide ((ofs - f.ofs) / f.stride < f.count)

/-- The fields of the word at offset `ofs` of a page type, and which register of the array it is. -/
def wordFields (k : PageKind) (ofs : Nat) : List (Fld × Nat) :=
  (pageFields k).filterMap (fun f => if f.holds ofs then some (f, (ofs - f.ofs) / f.stride) else none)

/-- A word put together from its fields' values, write-only fields reading 0. -/
def joinWord (fs : List (Fld × Nat)) (val : Fld → Nat → Nat) : Nat :=
  (fs.map (fun e => if e.1.kind = .wo then 0 else val e.1 e.2 * 2 ^ e.1.lo)).sum

/-- A word as it stands live, and as its shadow bank holds it. -/
def State.liveReg (s : State) (p : Page) (ofs : Nat) : Nat :=
  joinWord (wordFields p.kind ofs) (fun f i => s.rd f p.inst i)

def State.shadowReg (s : State) (p : Page) (ofs : Nat) : Nat :=
  joinWord (wordFields p.kind ofs) (fun f i => if f.kind = .rwc then s.rdSh f p.inst i else s.rd f p.inst i)

/-- R241: the shadow value of a field once the writes held for the next commit have landed; writes are judged by it. -/
def State.rdNext (s : State) (f : Fld) (inst : Nat := 0) (i : Nat := 0) : Nat :=
  s.heldOver (f.key inst i) (s.rdSh f inst i)

def State.nextReg (s : State) (p : Page) (ofs : Nat) : Nat :=
  joinWord (wordFields p.kind ofs) (fun f i => if f.kind = .rwc then s.rdNext f p.inst i else s.rd f p.inst i)

/-! ### Ranges of single fields -/

/-- Fields that accept only a range. -/
def fieldRanges : List (Fld × Nat × Nat) :=
  [(Reg.SP_RETIRE_SP_RETIRE_CE, 1, 255), (Reg.CBF_CTL_FILE, 0, 1), (Reg.ARR_PROFILE_MODE, 0, 2),
   (Reg.ARR_PROFILE_BRIDLE, 0, 5), (Reg.ENV_SEL_WORD, 0, 47), (Reg.GOV_SV_IDX_WORD, 0, 24705),
   (Reg.MW_PHASE_WIN_PHASE, 0, 1023999), (Reg.SPOOL_CTL_KEEP_MAX, 0, 8), (Reg.REG_CFG_BURST, 1, 32767),
   (Reg.REG_CFG_RATE, 0, 31744), (Reg.STK_THERM_HYST, 1, 15), (Reg.PLAN_BASE_BASE, 0, 11775),
   (Reg.REPLAY_MAX_MAX, 1, 15), (Reg.TB_MEAS_SEL_SEL, 0, 17)] ++
  [(Reg.FAB_CTL_DISC_TIMEOUT, 1, 1023), (Reg.LINE_CFG_MEDIA, 0, 2), (Reg.LINE_CFG_RETRY_MAX, 1, 255),
   (Reg.LANE_THRESH_LANE_CE_THRESH, 1, 65535), (Reg.BN_GSEL_WORD, 0, 23), (Reg.SC_DSEL_WORD, 0, 51),
   (Reg.PORT_CFG_MEDIA, 0, 2), (Reg.CE_CTL_EVT_RETX, 10, 1000), (Reg.KITE_HANG_TICKS, 1000, 2 ^ 32 - 1),
   (Reg.TRN_KMAP_SLOT, 0, 16), (Reg.TR_BASE_BASE, 0, 184000), (Reg.HD_MARK_TO_US, 1, 1000),
   (Reg.HD_DUMP_SLOT, 0, 19), (Reg.MR_SEL_MR, 0, 7), (Reg.MR_SEL_WORD, 0, 7), (Reg.THERM_DIE_THROTTLE, 70, 100)]

/-- 07 WS_TABLE: the 512 KiB table ends below 736 GiB. -/
def wsTableOk (base : Nat) : Bool := decide (base * 4096 + 2 ^ 19 ≤ hbmTop)

/-- Fields whose rule depends on the state: 14 RANK_PAIR, 15 TR_CTL and TR_BASE while a ring is enabled (log 51). -/
def fieldFixed (s : State) (f : Fld) (inst i v : Nat) : Bool :=
  (f == Reg.RANK_PAIR_PARTNER && v == s.self) || (f == Reg.WS_TABLE_BASE && !wsTableOk v)
    || (([Reg.TR_CTL_CLASSES, Reg.TR_CTL_STOP_FULL, Reg.TR_CTL_PART, Reg.TR_BASE_BASE].contains f)
        && s.rd Reg.TR_CTL_TRAINS != 0 && v != s.rd f inst i)

/-- R10: the field keeps its value, the rest of the write completes (log 50). -/
def fieldBad (s : State) (f : Fld) (inst i v : Nat) : Bool :=
  (match fieldRanges.find? (fun r => r.1 == f) with
    | some (_, lo, hi) => decide (v < lo) || decide (hi < v)
    | none => false) || fieldFixed s f inst i v

/-! ### Rules of whole words -/

/-- R161: a precision-table entry. -/
def entryOk (w : Nat) : Bool :=
  let len := getBits w 26 3
  decide (len ≤ 4) && (len == 0 || decide (getBits w 29 2 < len)) && (List.range len).all (fun i => levelOk (getBits w (6 * i) 6))

/-- 04 TAG_SCALE: neither NaN nor infinite nor zero. -/
def scaleOk (w : Nat) : Bool := (fp32 w).isFinite && !(fp32 w).isZero

/-- R160: a rule's word 0 names no reserved METRIC or ACTION. -/
def ruleOk (w : Nat) : Bool := decide (getBits w 20 4 ≤ 9) && decide (getBits w 15 3 ≤ 4)

/-- R169: host writes of the precision tables and rules need TABLE_PHASE OPEN. -/
def tablesOpen (s : State) : Bool := s.rd Reg.GOV_STAT_TABLE_PHASE == 0

/-- R62: the accumulator area with one of its two words replaced. -/
def accAreaOk (s : State) (inst ofs w : Nat) : Bool :=
  let base := if ofs = 0x64 then getBits w 12 11 else s.rdNext Reg.ACC_BASE_ACC_BASE inst
  let size := if ofs = 0x64 then s.rdNext Reg.ACC_SIZE_ACC_SIZE inst else getBits w 0 12
  decide (base + size ≤ 2048)

/-- 01 OPS_BASE. -/
def opsBaseOk (w : Nat) : Bool := w % 16 == 0 && decide (w < 2 ^ 26)

/-- R204: PC_MAP entry `i` names no channel another entry names, no failed one, and no migration runs. -/
def pcMapOk (s : State) (k i v : Nat) : Bool :=
  (List.range 31).all (fun j => j == i || s.rdNext Reg.PC_MAP_PHYS k j != v)
    && s.rd Reg.PC_REC_ST_STATE k v != 5 && (s.stack k).mig.isNone

/-- 14 TRN_KMAP: IDLE, not a failed slot, not a slot another entry names. -/
def kmapOk (s : State) (t i v : Nat) : Bool :=
  !s.planRuns && s.rd Reg.KITE_STATE_STATE (17 * t + v) != 8
    && (List.range 16).all (fun j => j == i || s.rdNext Reg.TRN_KMAP_SLOT t j != v)

/-- 06 R230. -/
def memWordOk (ofs w : Nat) : Bool :=
  match ofs with
  | 0x44 => decide (64 ≤ getBits w 16 16) && decide (getBits w 0 11 ≤ 1024)
  | 0x50 => getBits w 16 16 != 0 && getBits w 0 8 != 0
  | 0x54 => getBits w 24 4 != 0 && decide (1 ≤ getBits w 20 4) && decide (getBits w 20 4 ≤ 8) && getBits w 0 16 != 0
  | _ => true

/-- 12 R364: the two UDP ports are not both enabled and equal. -/
def portsClash (ceEn cePort scEn scPort : Nat) : Bool := ceEn == 1 && scEn == 1 && cePort == scPort

/-- 11 SC_CTL. -/
def scCtlOk (s : State) (w : Nat) : Bool :=
  !(bit w 30 && getBits w 0 16 == 0)
    && !portsClash (s.rd Reg.CE_CTL_CE_UDP_EN) (s.rd Reg.CE_CTL_CE_UDP_PORT) (getBits w 30 1) (getBits w 0 16)

/-- 12 CE_CTL. -/
def ceCtlOk (s : State) (w : Nat) : Bool :=
  !(bit w 31 && getBits w 0 16 == 0)
    && !portsClash (getBits w 31 1) (getBits w 0 16) (s.rd Reg.SC_CTL_UDP_EN) (s.rd Reg.SC_CTL_UDP_PORT)

/-- 17 PWR_CAPS. -/
def capsOk (w : Nat) : Bool :=
  decide (1200 ≤ getBits w 16 16) && decide (getBits w 16 16 ≤ 2400) && decide (getBits w 16 16 ≤ getBits w 0 16)
    && decide (getBits w 0 16 ≤ 2600)

/-- 09 R320: word 0 of a context, and its staging area of 16 × 68 KiB. -/
def winchWordOk (ofs w : Nat) : Bool :=
  match ofs % 16 with
  | 0 => !(bit w 31) || (getBits w 12 13 != 0 && decide (getBits w 12 13 ≤ 4096) && decide (getBits w 0 12 < getBits w 12 13))
  | 12 => decide (getBits w 0 28 * 4096 + 16 * 68 * 1024 ≤ hbmTop)
  | _ => true

/-- 10 LR_BASE: finite and not below zero. -/
def rateOk (w : Nat) : Bool := fpIn w notNeg

/-- 15 HD_CTL and HD_DEBUG. -/
def haulWordOk (s : State) (ofs w : Nat) : Bool :=
  match ofs with
  | 0x40 => decide (256 ≤ getBits w 16 16) && decide (16 ≤ getBits w 0 8)
  | 0x48 => decide (getBits w 0 12 ≤ 2943) && s.rd Reg.HD_STAT_STATE == 0
  | _ => true

/-- The rules of whole words: `w` is the merged word. -/
def wordOk (s : State) (p : Page) (ofs w : Nat) : Bool :=
  match p.kind with
  | .kiteCtl =>
    if ofs = 0x54 then opsBaseOk w else if ofs = 0x64 ∨ ofs = 0x68 then accAreaOk s p.inst ofs w else true
  | .governor =>
    if ofs = 0x54 then ufwOk w
    else if 0x400 ≤ ofs ∧ ofs < 0x800 ∧ ofs % 16 ≠ 12 then tablesOpen s && (ofs % 16 != 0 || ruleOk w) else true
  | .precision =>
    if 0x400 ≤ ofs ∧ ofs < 0x800 then tablesOpen s && entryOk w
    else if 0x800 ≤ ofs ∧ ofs < 0xC00 then tablesOpen s
    else if 0xC00 ≤ ofs then tablesOpen s && scaleOk w else true
  | .memory => memWordOk ofs w
  | .stackCtl => if 0x100 ≤ ofs ∧ ofs < 0x17C then pcMapOk s p.inst ((ofs - 0x100) / 4) (getBits w 0 5) else true
  | .plan => if ofs = 0x40 then !s.planRuns else true
  | .fabric => if ofs = 0x40 then !s.planRuns else true
  | .winch => if 0x200 ≤ ofs ∧ ofs < 0x280 then winchWordOk ofs w else true
  | .reel => if ofs = 0x40 then rateOk w else true
  | .scoring => if ofs = 0x40 then scCtlOk s w else if ofs = 0x44 then s.rd Reg.SC_CTL_EN == 0 else true
  | .cmdEngine => if ofs = 0x40 then ceCtlOk s w else true
  | .thermal => if ofs = 0x48 then capsOk w else true
  | .haulDown => haulWordOk s ofs w
  | .trainCtl => if 0x40 ≤ ofs ∧ ofs < 0x80 then kmapOk s p.inst ((ofs - 0x40) / 4) (getBits w 0 5) else true
  | _ => true

/-! ### Storing a write -/

/-- A write of one word: the fields a write reaches, those that keep their value (R10), and whether the word is refused
whole. -/
structure Judged where
  stored : List (Fld × Nat × Nat)
  partly : Bool
  whole : Bool
deriving DecidableEq, Repr

/-- The writable fields of a word with the values a write of `v` offers them. -/
def offered (p : Page) (ofs v : Nat) : List (Fld × Nat × Nat) :=
  (wordFields p.kind ofs).filterMap (fun e =>
    if e.1.kind = .rw ∨ e.1.kind = .rwc then some (e.1, e.2, getBits v e.1.lo e.1.len) else none)

/-- R10 and the registers' own rules: what becomes of a write of `v`. -/
def judgeWord (s : State) (p : Page) (ofs v : Nat) : Judged :=
  let all := offered p ofs v
  let kept := all.filter (fun e => !fieldBad s e.1 p.inst e.2.1 e.2.2)
  let merged := kept.foldl (fun w e => setBits w e.1.lo e.1.len e.2.2) (s.nextReg p ofs)
  { stored := kept, partly := kept.length != all.length, whole := !wordOk s p ofs merged }

/-- 06 R230: the fields whose new values take effect in the next maintenance window. -/
def windowFields : List Fld :=
  [Reg.MW_WORK_RETRAIN_PERIOD, Reg.MW_WORK_SCRUB_PER_WIN, Reg.MEM_THRESH_RETRAIN_CE, Reg.MEM_THRESH_ROW_CE_THRESH,
   Reg.MIG_CTL_MIG_EN, Reg.MIG_CTL_MIG_INTERVALS, Reg.MIG_CTL_MIG_SHARE, Reg.MIG_CTL_MIG_CE_THRESH]

/-- 06 R230: a field about to be written keeps the value in force until the next window. -/
def keepTuned (s : State) (f : Fld) : State :=
  if windowFields.contains f && (Table.find (f.key 0 0) s.mem.tuned).isNone then
    { s with mem := { s.mem with tuned := s.mem.tuned.put (f.key 0 0) (s.rd f) } }
  else s

/-- R14: one field written: at once, or into the shadow bank. -/
def storeField (s : State) (p : Page) (e : Fld × Nat × Nat) : State :=
  if e.1.kind = .rwc then shadowStore s (e.1.key p.inst e.2.1) e.2.2
  else gateOpens ((keepTuned s e.1).wr e.1 e.2.2 p.inst e.2.1) e.1 e.2.2 p.inst

/-- A write of a word without any effect beyond its own fields; true when it is refused in part or whole. -/
def plainWrite (s : State) (p : Page) (ofs v : Nat) : Bool × State :=
  let j := judgeWord s p ofs v
  if j.whole then (true, refuse s p.kind p.inst)
  else
    let s1 := j.stored.foldl (fun s e => storeField s p e) s
    if j.partly then (true, refuse s1 p.kind p.inst) else (false, s1)

end Sys2Proof.Machine
end

