-- ==== Sys2Proof/Machine/Steps.lean ====
section
/-! DEFINITION. Steps and the seal (07 R233 to R239, 14 R413): step ticks, readiness, the seal root, aborts and replays. -/

namespace Sys2Proof.Machine

/-! ### Starting an attempt (R234, R237) -/

/-- The logical kites that run the plan. -/
def planKites (s : State) : List Nat := (List.range 128).filter (fun k => !partitionKite s k)

/-- R234, R237: a kite's stream starts again: gates, registrations and running ops are gone, STEP_FLAGS clear. -/
def restartKite (s : State) (k : Nat) : State :=
  let n := s.slotOf k
  let x := s.kite n
  let s1 := s.setKite n { x with gates := [], streams := [], nextRec := 0, nextOp := 0, tileLive := none, tileNext := none,
                                 arr := [], vec := none, port := none, loader := none, cbfSince := none, acc := [] }
  showStream ((s1.wr Reg.ARR_FLAGS_STEP_FLAGS 0 n).wr Reg.VEC_FLAGS_STEP_FLAGS 0 n) n

/-- R234, R315, R342: the train programs start again, and the signals of the burner's completed records are delivered. -/
def restartTrain (s : State) (t : Nat) : State := deliverSignals ((restartWinch s t).setSeq t 0 {}) t

/-- R281: a line's schedule starts again. -/
def restartLine (s : State) (l : Nat) : State :=
  s.setLine l { s.line l with next := 0, undone := [], lastTxn := none }

/-- A transfer of the step, not a restore. -/
def stepSend (x : Send) : Bool := match x.owner with | .restore => false | _ => true

/-- R283, R285: transfers of an earlier attempt land no more. -/
def dropTransfers (s : State) : State :=
  { s with fab := { s.fab with sends := s.fab.sends.filter (fun x => !stepSend x),
                               written := s.fab.written.filter (fun r => decide (8 ≤ r.ep)),
                               recvs := s.fab.recvs.map (fun r => if r.ep ≤ 7 then { r with dropped := true } else r) } }

/-- R247: the gates of a kite that runs no stream of the plan clear as well. -/
def clearGates (s : State) (k : Nat) : State :=
  let n := s.slotOf k
  s.setKite n { s.kite n with gates := [] }

/-- R233, R237, R247: the step, or a further attempt of it, starts at tick `t`. -/
def beginAttempt (s : State) (t : Nat) : State :=
  let s0 := ((List.range 128).filter (partitionKite s)).foldl clearGates (dropTransfers s)
  let s1 := (planKites s0).foldl restartKite s0
  let s2 := (List.range 32).foldl restartLine ((List.range 8).foldl restartTrain s1)
  let s3 := { s2 with step := { s2.step with shift := 0 } }
  ((s3.wr64 Reg.STEP_TICK_LO Reg.STEP_TICK_HI t).wr Reg.STEP_STAT_STATE 2)

/-! ### Step ticks (R233) -/

/-- R233: the new step's number, epoch and tick. -/
def nextStep (s : State) (t n : Nat) : State :=
  let s1 := (s.wr64 Reg.STEP_NUM_LO Reg.STEP_NUM_HI n).wr Reg.STEP_EPOCH_EPOCH (s.rd Reg.PT_EPOCH_EPOCH)
  let s2 := s1.wr Reg.STEP_STAT_REPLAY_RUN 0
  { s2 with step := { s2.step with armed := none, stepT := t, isSealed := false, readySent := false, replaySent := false,
                                   rootReady := [], rootReplay := [], rootDone := false, late := false } }

/-- R424: a step tick or replay tick, R14: B tells which. -/
def traceStep (s : State) (replay t : Nat) : State := traceAll s 1 0x10 (s.rd Reg.STEP_EPOCH_EPOCH) replay t

/-- R343: what stopped after the seal of the step before stops this one. -/
def stopHeld (s : State) : State :=
  if s.step.stopNext then stopStep { s with step := { s.step with stopNext := false } } else s

/-- R233: the step tick `t` of step `n`. -/
def stepTick (s : State) (t n : Nat) : State :=
  let late := s.step.late
  let s1 := s.passTo t
  let s2 := beginAttempt (startGates (nextStep (commitBanks s1 late t) t n)) t
  stopHeld (skewSlots (traceStep s2 0 t) (commitMisses s1 late))

def execStepTick (s : State) : Result :=
  match s.step.armed with
  | some (t, n) => whenOk s.islandsRun s (stepTick s t n)
  | none => .next s

/-! ### Readiness (R234) -/

/-- R234: a kite has completed its last op. -/
def kiteDone (s : State) (k : Nat) : Bool := s.rd Reg.KITE_STATE_STATE (s.slotOf k) == 1

/-- R234: the pre-seal parts of a train's programs, and its burner's records of the step before (R341). -/
def trainDone (s : State) (t : Nat) : Bool :=
  decide (progCount s t 0 ≤ (s.seqOf t 0).next) && (s.seqOf t 0).run.isNone && winchIdle s t && burnerIdle s t

/-- R234: everything but the governor is done. -/
def unitsDone (s : State) : Bool :=
  (planKites s).all (kiteDone s) && (List.range 8).all (trainDone s) && (List.range 32).all (lineFinished s)

/-- R234: READY(S) leaves with the digest. Where the governor has evaluated nothing since the plan started (R174), GOV_DIGEST
as it stands goes with it (DESIGN CHOICE, log 89). -/
def sendReady (s : State) : State :=
  let d := s.rd Reg.GOV_DIGEST_DIGEST
  let s1 := s.wr Reg.STEP_STAT_STATE 3
  let s2 := { s1 with step := { s1.step with readySent := true } }
  traceAll (s2.sendUp (.ready s.self s.stepNum (s.rd Reg.STEP_STAT_REPLAY_RUN) (BitVec.ofNat 32 d))) 1 0x11 0 0 d

/-- R154: the seal waits for the governor: GOV_LATE. -/
def governorLate (s : State) : State :=
  if s.gov.lateSince.isSome then s
  else raise (s.setGov { s.gov with lateSince := some s.tick }) Ev.governor_GOV_LATE

def canBeReady (s : State) : Bool :=
  s.islandsRun && s.rd Reg.STEP_STAT_STATE == 2 && !s.step.isSealed && unitsDone s

def execDeviceReady (s : State) : Result :=
  whenOk (canBeReady s) s (if governorDone s then sendReady s else governorLate s)

/-! ### The seal root (R235 to R239, R413) -/

/-- R235: a message of the root to every device of the seal group: to itself, and down the tree. -/
def broadcast (s : State) (m : Msg) : State := (s.send 1 s.self m).sendTree m

/-- R235, R413: every device of the group is in `l`, a device that handed over through its partner. -/
def groupIn (s : State) (l : List Nat) : Bool :=
  s.plan.devices.all (fun d =>
    match s.step.handed.find? (fun e => e.1 == d) with
    | none => l.contains d
    | some (_, p) => l.contains p && !s.step.handed.any (fun e => e.1 == p))

/-- This device is the seal root of a running plan. -/
def isRoot (s : State) : Bool := s.planRuns && s.self == s.sealRoot && s.plan.devices != []

/-- R168: the digests of some domain differ. -/
def digestsDiffer (s : State) : Bool :=
  s.plan.domains.any (fun dom =>
    match s.step.rootReady.filter (fun e => dom.contains e.1) with
    | [] => false
    | e :: r => r.any (fun x => x.2 != e.2))

def setRootDone (s : State) : State := { s with step := { s.step with rootDone := true } }

/-- R237, R239: the root abandons the step: ABORT, or at the limit REPLAY_LIMIT and the haul-down. -/
def rootAbort (s : State) (diverged : Bool) : State :=
  let s1 := setRootDone s
  if s.rd Reg.REPLAY_MAX_MAX ≤ s.rd Reg.STEP_STAT_REPLAY_RUN then
    haulTrigger (rungRecorded (raise s1 Ev.plan_REPLAY_LIMIT) 4 .plan 0) 6 0 true false
  else broadcast s1 (.abort s.stepNum diverged)

/-- R168: a divergence abandons the step, so that each device raises GOV_DIVERGE; the second in succession also hauls the
fabric down. -/
def rootDiverges (s : State) : State :=
  let n := s.step.diverged + 1
  let s1 := { s with step := { s.step with diverged := n } }
  if 2 ≤ n then haulTrigger (broadcast (setRootDone s1) (.abort s.stepNum true)) 8 0 true false else rootAbort s1 true

/-- R236: this seal ends the plan: END_REQ, or STEP_COUNT steps are sealed. -/
def lastStep (s : State) (n : Nat) : Bool :=
  s.plan.stepCount != 0 && decide (s.plan.stepCount ≤ n + 1 - s.plan.firstStep)

/-- R235, R236: the seal. -/
def rootSeal (s : State) : State :=
  let s1 := setRootDone { s with step := { s.step with diverged := 0 } }
  let final := s.step.endReq || lastStep s s.stepNum
  broadcast (if final then { s1 with step := { s1.step with endReq := false } } else s1)
    (.sealed s.stepNum s.tick final)

/-- R235: the last READY is in. -/
def rootDecide (s : State) : State :=
  if !groupIn s (s.step.rootReady.map Prod.fst) then s
  else if digestsDiffer s then rootDiverges s else rootSeal s

/-- R235: the root takes READY for the running attempt. -/
def canTakeReady (s : State) (src step attempt : Nat) : Bool :=
  isRoot s && s.islandsRun && s.inStep && !s.step.rootDone && step == s.stepNum
    && attempt == s.rd Reg.STEP_STAT_REPLAY_RUN && s.plan.devices.contains src

def takeReady (s : State) (src digest : Nat) : State :=
  let l := s.step.rootReady.filter (fun e => e.1 != src) ++ [(src, digest)]
  rootDecide { s with step := { s.step with rootReady := l } }

def execReady (src : Dev) (step : Nat) (attempt : Nat) (digest : Word) (s : State) : Result :=
  whenOk (canTakeReady s src step attempt) (passUp s (.ready src step attempt digest)) (takeReady s src digest.toNat)

def execEndReq (src : Dev) (s : State) : Result :=
  whenOk (isRoot s && s.islandsRun) (passUp s (.endReq src)) { s with step := { s.step with endReq := true } }

/-- R237: STOP(S) reaches the root while S is neither sealed nor abandoned. -/
def canStop (s : State) (step : Nat) : Bool :=
  isRoot s && s.islandsRun && s.inStep && !s.step.rootDone && step == s.stepNum

def execStop (src : Dev) (step : Nat) (s : State) : Result :=
  whenOk (canStop s step) (passUp s (.stop src step)) (rootAbort s false)

/-- R237: the last REPLAY_READY is in: REPLAY at now + STEP_LEAD. -/
def rootReplayCheck (s : State) : State :=
  if s.step.replaySent || !groupIn s s.step.rootReplay then s
  else broadcast { s with step := { s.step with replaySent := true } } (.replay s.stepNum (s.tick + s.plan.stepLead))

def rootTakeReplay (s : State) (src : Nat) : State :=
  let l := s.step.rootReplay.filter (· != src) ++ [src]
  rootReplayCheck { s with step := { s.step with rootReplay := l } }

/-- R237, R409: the restores of this device are done. -/
def restoresDone (s : State) : Bool :=
  s.rd Reg.STEP_STAT_STATE == 4 && !s.step.restored && !s.recov.stuck && s.recov.restores == []
    && s.rd Reg.RECOV_STAT_PLAN_UE == 0

/-- R237: this device's own REPLAY_READY; the root counts its own. -/
def ownReplayReady (s : State) : State :=
  let s1 := { s with step := { s.step with restored := true } }
  if s.self = s.sealRoot then rootTakeReplay s1 s.self else s1.sendUp (.replayReady s.self s.stepNum)

def canReplayReady (s : State) (src step : Nat) : Bool :=
  s.islandsRun && step == s.stepNum && s.planRuns &&
    (if src = s.self then restoresDone s else isRoot s && s.plan.devices.contains src && !s.step.replaySent)

def execReplayReady (src : Dev) (step : Nat) (s : State) : Result :=
  whenOk (canReplayReady s src step) (if src.val = s.self then s else passUp s (.replayReady src step))
    (if src.val = s.self then ownReplayReady s else rootTakeReplay s src)

/-! ### The seal at a device (R235, R236) -/

/-- R149, R315 to R317, R174, R324: the units at the seal. -/
def sealUnits (s : State) (n tseal : Nat) (closing : Bool) : State :=
  let s0 := { s with step := { s.step with ungatedLast := s.step.ungated } }
  let s1 := sealWinches ((planKites s0).foldl (fun s k => sealEnvelope s (s.slotOf k)) s0)
  (List.range 8).foldl sealBurner (sealGovernor s1 n tseal closing)

/-- R236: the next step tick is armed, or missed already. -/
def armNext (s : State) (n tseal : Nat) : State :=
  let t := max (tseal + s.plan.stepLead) (s.step.stepT + s.plan.stepMin)
  { s with step := { s.step with armed := some (t, n + 1), late := decide (t < s.tick) } }

/-- R235: step `n` is sealed at `tseal`. -/
def sealStep (s : State) (n tseal : Nat) (final : Bool) : State :=
  let closing := final || lastStep s n
  let s1 := raise ((s.wr64 Reg.SEAL_TICK_LO Reg.SEAL_TICK_HI tseal).bump Reg.SEALS_COUNT) Ev.plan_STEP_SEALED
  let s2 := traceAll (s1.wr Reg.GOV_STAT_DIVERGED 0) 1 0x12 0 0 tseal
  let s3 := sealUnits { s2 with step := { s2.step with isSealed := true, closing := closing } } n tseal closing
  if closing then closePlan s3 else armNext s3 n tseal

def canSeal (s : State) (step : Nat) : Bool :=
  s.islandsRun && s.inStep && !s.step.isSealed && step == s.stepNum

def execSealReceived (step : Nat) (tseal : Tick) (final : Bool) (s : State) : Result :=
  let s1 := passDown s (.sealed step tseal final)
  whenOk (canSeal s step) s1 (sealStep s1 step tseal final)

/-! ### Aborts and replays (R237) -/

/-- R237: a kite's pre-seal work ceases; a stopped or failed kite keeps its state. -/
def abortKite (s : State) (k : Nat) : State :=
  let n := s.slotOf k
  let x := s.kite n
  let s1 := s.setKite n { x with tileLive := none, tileNext := none, arr := [], vec := none, port := none, loader := none,
                                 cbfSince := none }
  remapLost (showStream s1 n) k

/-- R285: the line sequencers issue nothing further, and queued flits of the device's own transfers do not leave. -/
def abortLine (s : State) (l : Nat) : State :=
  let x := s.line l
  let own := fun (f : Flit) => f.src / 16 == s.self && f.ftype == 1 && decide (2 ≤ f.vc) && decide (f.vc ≤ 6)
  s.setLine l { x with outq := x.outq.map (fun e => (e.1, e.2.filter (fun f => !own f))) }

/-- R237: ABORT of the running step: pre-seal work ceases and restores begin (R400 to R410); a divergence repeats the
evaluation (R168). -/
def abortStep (s : State) (diverged : Bool) : State :=
  let s1 := traceAll (raise s Ev.plan_STEP_ABORT) 1 0x12 0 1 0
  let s2 := (planKites s1).foldl abortKite (s1.wr Reg.STEP_STAT_STATE 4)
  let s3 := (List.range 8).foldl (fun s t => (restartWinch s t).setSeq t 0 {}) s2
  let s4 := (List.range 32).foldl abortLine s3
  let s5 := askRestores ((failedKites s4).foldl repairKite s4)
  let s6 := { s5 with step := { s5.step with restored := false, replayAt := none } }
  if diverged then repeatEval s6 else s6

def canAbort (s : State) (step : Nat) : Bool :=
  s.islandsRun && s.inStep && !s.step.isSealed && step == s.stepNum

def execAbortReceived (step : Nat) (diverged : Bool) (s : State) : Result :=
  let s1 := passDown s (.abort step diverged)
  whenOk (canAbort s step) s1 (abortStep s1 diverged)

def execReplay (step : Nat) (tr : Tick) (s : State) : Result :=
  let s1 := passDown s (.replay step tr)
  whenOk (s.islandsRun && s.rd Reg.STEP_STAT_STATE == 4 && step == s.stepNum) s1
    { s1 with step := { s1.step with replayAt := some tr } }

/-- R237: KITE_FAULT of a kite is recorded in the event log. -/
def recordFault (s : State) (k : Nat) : State :=
  let n := s.slotOf k
  let c := s.rd Reg.KITE_FAULT_CODE n
  if c = 0 then s
  else { s with recov := { s.recov with
    faults := s.recov.faults ++ [{ tick := s.tick, kite := k, code := c, op := s.rd Reg.KITE_FAULT_OP_INDEX n }] } }

/-- R60, R237: KITE_FAULT of a kite is recorded, and cleared with FAULT_CLR before the replay; a stopped kite is idle again. -/
def clearKite (s0 : State) (k : Nat) : State :=
  let s := recordFault s0 k
  let n := s.slotOf k
  let s1 := endStop (faultClear (discardEnvelope s n) n) n
  if s.rd Reg.KITE_STATE_STATE n = 4 then s1.wr Reg.KITE_STATE_STATE 1 n else s1

/-- R237: the replay tick `tr`. -/
def replayTick (s : State) (tr : Nat) : State :=
  let s1 := s.passTo tr
  let s2 := repairSwaps ((planKites s1).foldl clearKite s1)
  let s3 := (List.range 8).foldl releaseHeld s2
  let s4 := (s3.bump Reg.REPLAYS_COUNT).wr Reg.STEP_STAT_REPLAY_RUN (s3.rd Reg.STEP_STAT_REPLAY_RUN + 1)
  let s5 := { s4 with step := { s4.step with replayAt := none, readySent := false, replaySent := false, rootReady := [],
                                             rootReplay := [], rootDone := false } }
  traceStep (beginAttempt s5 tr) 1 tr

def execReplayTick (s : State) : Result :=
  match s.step.replayAt with
  | some t => whenOk (s.islandsRun && s.rd Reg.STEP_STAT_STATE == 4) s (replayTick s t)
  | none => .next s

/-! ### The step limit and hand-over (R239, R413) -/

/-- R239: the root's running step is not sealed STEP_LIMIT ticks after its step or replay tick. -/
def canTimeOut (s : State) : Bool :=
  isRoot s && s.islandsRun && s.plan.stepLimit != 0 && !s.step.isSealed
    && (s.inStep || s.rd Reg.STEP_STAT_STATE == 4) && s.rd Reg.HD_STAT_STATE == 0

def timeOut (s : State) : State :=
  let t := s.rd64 Reg.STEP_TICK_LO Reg.STEP_TICK_HI + s.step.shift + s.plan.stepLimit
  haulTrigger (rungRecorded (raise (s.passTo t) Ev.plan_STEP_TIMEOUT) 4 .plan 0) 7 0 true false

def execStepTimeout (s : State) : Result := whenOk (canTimeOut s) s (timeOut s)

/-- R413: at the root the partner stands in from now on, and the group replays the step. -/
def rootHandover (s : State) (src partner : Nat) : State :=
  let s1 := { s with step := { s.step with handed := s.step.handed.filter (fun e => e.1 != src) ++ [(src, partner)] } }
  if s1.inStep && !s1.step.rootDone then rootAbort s1 false else rootReplayCheck s1

/-- R413: at the partner COVERING sets, and it runs on unprotected. -/
def cover (s : State) (src : Nat) : State :=
  svcAppend (raise ((s.wr Reg.RECOV_STAT_COVERING 1).bump Reg.HANDOVERS_COUNT) Ev.plan_HANDOVER) 16 .plan 0 src

/-- R413: HANDOVER of `src`, whose RANK_PAIR names `partner` (log 49). -/
def takeHandover (s : State) (src step partner : Nat) : State :=
  let s1 := if isRoot s && step == s.stepNum then rootHandover s src partner else s
  if s.partner = some src ∧ partner = s.self then cover s1 src else s1

def execHandover (src : Dev) (step : Nat) (partner : Dev) (s : State) : Result :=
  whenOk s.islandsRun s (takeHandover s src step partner)

end Sys2Proof.Machine
end

