-- ==== Sys2Proof/Machine/FabricCtl.lean ====
section
/-! DEFINITION. The rest of the fabric: transfers answered (08 R280, R284), lines that come up and go down (R286, R287,
R292), lanes (R293), and the time base (R288 to R290, 07 R231). -/

namespace Sys2Proof.Machine

/-! ### Transfers written, DONE and NACK (R280, R284) -/

/-- The finished arrival from a source at an endpoint on a channel that waits first. -/
def writtenRecv (s : State) (src ep vc : Nat) : Option Recv :=
  s.fab.written.find? (fun r => r.src / 16 == src && r.ep == ep && r.vc == vc)

/-- R284, R311, R378, R414: the last byte is written: the gate is signalled, DONE returned; a winch segment or a restore
goes to its unit; `w` says that a fault it meets falls in the cycle of the winch's latched one (09 R319). -/
def transferWritten (s : State) (r : Recv) (w : Bool := false) : State :=
  let s1 := { s with fab := { s.fab with written := s.fab.written.erase r } }
  let s2 := tell s1 r.vc (16 * s.self + r.ep) r.src (.done r.txn r.bytes)
  if r.sink then s2
  else
    let s3 := match r.sig with
      | some (k, g) => if r.ep ≤ 7 ∧ k < 128 then signalLogical s2 k g else s2
      | none => s2
    if r.ep = 8 then restoreLanded s3 r.addr r.bytes else if r.vc = 2 then segmentArrives s3 r.ep r w else s3

/-- R285, 15 R431: what the trains' endpoints still take: nothing while halted or after an abort. -/
def canWritten (s : State) (r : Recv) : Bool := r.ep == 8 || (s.islandsRun && (r.sink || s.inStep))

def execTransferWritten (src : Dev) (ep : Fin 16) (vc : Fin 8) (together : Bool) (s : State) : Result :=
  match writtenRecv s src ep vc with
  | some r => whenOk (canWritten s r) s (transferWritten s r together)
  | none => .next s

/-- The transfer a DONE or NACK of a device answers. -/
def sendOf (s : State) (src vc txn : Nat) : Option Send :=
  s.fab.sends.find? (fun x => x.txn == txn && x.vc == vc && x.dst / 16 == src)

/-- R424: the trace record of a DONE, in the ring of the train endpoint concerned. -/
def traceDone (s : State) (x : Send) (n : Nat) : State :=
  if x.src % 16 ≤ 7 then traceAdd s (x.src % 16) 6 0x60 (128 + x.src % 16) x.txn x.src n else s

/-- R284, R308, R310: a transfer has been written at its destination. -/
def sendDone (s : State) (x : Send) (n : Nat) : State :=
  let s1 := traceDone { s with fab := { s.fab with sends := s.fab.sends.erase x } } x n
  match x.owner with
  | .lineRecord l i => s1.setLine l { s1.line l with undone := (s1.line l).undone.erase i }
  | .segment t c _ _ false =>
    match Table.find c (s1.winchOf t).runs with
    | some r => s1.setWinch t { s1.winchOf t with runs := (s1.winchOf t).runs.put c { r with doneP := r.doneP + 1 } }
    | none => s1
  | _ => s1

def execDone (src : Dev) (vc : Fin 8) (txn : BitVec 16) (nbytes : Nat) (s : State) : Result :=
  match sendOf s src vc txn.toNat with
  | some x => .next (sendDone s x nbytes)
  | none => .next s

/-- R280: a transfer was dropped: VC 0 and 7 resend it once, VC 2 to 6 stop the running step. -/
def sendNacked (s : State) (x : Send) : State :=
  let rest := s.fab.sends.erase x
  if 2 ≤ x.vc ∧ x.vc ≤ 6 then replayFault { s with fab := { s.fab with sends := rest } }
  else if x.resent then { s with fab := { s.fab with sends := rest } }
  else
    let y := { x with resent := true }
    putFlits { s with fab := { s.fab with sends := rest ++ [y] } } y

/-- R378: the RESTORE_READ a NACK answers. -/
def restoreOf (s : State) (src vc txn : Nat) : Option Restore :=
  if vc = 7 ∧ s.partner = some src then s.recov.restores.find? (fun r => r.txn == txn) else none

def execNack (src : Dev) (vc : Fin 8) (txn : BitVec 16) (s : State) : Result :=
  match restoreOf s src vc txn.toNat, sendOf s src vc txn.toNat with
  | some r, _ => .next (restoreFails s r)
  | none, some x => .next (sendNacked s x)
  | none, none => .next s

/-! ### IDENT and the time base's parent (R286 to R288) -/

/-- The device number of the time base source this device goes by (R288, R290). -/
def tbMaster (s : State) : Nat :=
  if s.fab.tookOver then s.rd Reg.FAB_TB_TB_BACKUP else s.rd Reg.FAB_TB_TB_MASTER

/-- R288: this device keeps the fabric time base. -/
def isMaster (s : State) : Bool := s.assigned && tbMaster s == s.self

def locked (s : State) : Bool := s.rd Reg.TB_SYNC_LOCKED == 1

/-- R288: the distance this device advertises. -/
def ownDistance (s : State) : Nat :=
  if isMaster s then 0
  else if !locked s then 31
  else match s.fab.parent with
    | some l => min 31 (s.rd Reg.NBR_PEER_DIST 0 l + 1)
    | none => 31

/-- R286: an IDENT flit: serial, FAB_DEVNUM, line and distance. -/
def identBody (s : State) (l : Nat) : Bytes :=
  leBytes 8 Config.serial.toNat ++ leBytes 2 (s.self + 2 ^ 15 * s.rd Reg.FAB_DEVNUM_ASSIGNED) ++ leBytes 1 l
    ++ leBytes 1 (ownDistance s) ++ leBytes 2 (s.rd Reg.TB_SYNC_MASTER)

def sendIdent (s : State) (l : Nat) : State := if s.lineUp l then queueLink s l 2 (identBody s l) else s

/-- R286 step 2, R287: IDENT on the lines that are UP. -/
def identAll (s : State) : State := s.linesUp.foldl sendIdent s

/-- R288: the UP neighbour of least advertised distance, of the lowest line among equals. -/
def bestParent (s : State) : Option Nat :=
  (List.range 32).findSome? (fun d => (List.range 32).find? (fun l =>
    s.lineUp l && s.rd Reg.NBR_VALID 0 l == 1 && s.rd Reg.NBR_PEER_DIST 0 l == d))

/-- LINE_STAT.TB_PARENT shows the parent line. -/
def showParent (s : State) : State :=
  (List.range 32).foldl (fun s l => s.wr Reg.LINE_STAT_TB_PARENT (ofBool (s.fab.parent == some l)) l) s

/-- R288: a parent is chosen; the master has none. -/
def chooseParent (s : State) : State :=
  let p := if isMaster s then none else bestParent s
  let s1 := showParent { s with fab := { s.fab with parent := p } }
  match p with
  | some l => s1.wr Reg.TB_SYNC_MASTER (s1.line l).peerMaster
  | none => if isMaster s then s1.wr Reg.TB_SYNC_MASTER s.self else s1

/-- LOCKED rises. -/
def lockTime (s : State) : State := if locked s then s else raise (s.wr Reg.TB_SYNC_LOCKED 1) Ev.timeBase_TB_LOCK

/-- R231, R290: LOCKED falls, and a running step aborts. -/
def unlockTime (s : State) : State :=
  if locked s then replayFault (raise (s.wr Reg.TB_SYNC_LOCKED 0) Ev.timeBase_TB_UNLOCK) else s

/-- R288: the device that keeps the time base is locked to it. -/
def settleMaster (s : State) : State := let s1 := chooseParent s; if isMaster s1 then lockTime s1 else s1

/-- R287: what an IDENT changes of its line's record. -/
def nbrChanged (s : State) (l : Nat) (info : IdentInfo) : Bool :=
  s.rd Reg.NBR_VALID 0 l != 1 || s.rd Reg.NBR_PEER_ASSIGNED 0 l != ofBool info.assigned
    || s.rd Reg.NBR_PEER_DEV 0 l != info.dev.val || s.rd Reg.NBR_PEER_LINE 0 l != info.line.val
    || s.rd Reg.NBR_PEER_DIST 0 l != info.dist.val

/-- R287: the peer itself has changed. -/
def peerChanged (s : State) (l : Nat) (info : IdentInfo) : Bool :=
  s.rd Reg.NBR_VALID 0 l == 1 && (s.rd Reg.NBR_PEER_ASSIGNED 0 l != ofBool info.assigned
    || s.rd Reg.NBR_PEER_DEV 0 l != info.dev.val || s.rd Reg.NBR_PEER_LINE 0 l != info.line.val
    || (s.line l).peerSerial != info.serial.toNat)

/-- R286, R287: NBR_l is filled. -/
def takeIdent (s : State) (l : Nat) (info : IdentInfo) : State :=
  let s1 := (((((s.wr Reg.NBR_VALID 1 0 l).wr Reg.NBR_PEER_ASSIGNED (ofBool info.assigned) 0 l).wr Reg.NBR_PEER_DEV
    info.dev.val 0 l).wr Reg.NBR_PEER_LINE info.line.val 0 l).wr Reg.NBR_PEER_DIST info.dist.val 0 l)
  let s2 := s1.setLine l { s1.line l with peerMaster := info.master.val, peerSerial := info.serial.toNat }
  let s3 := chooseParent (if peerChanged s l info then sendIdent s2 l else s2)
  if nbrChanged s l info then raise s3 Ev.fabric_NBR_CHANGE else s3

def execIdent (l : LineNo) (info : IdentInfo) (s : State) : Result := whenOk (s.lineUp l) s (takeIdent s l info)

/-! ### Lines down (R292) -/

/-- FAB_STAT.LINES_UP. -/
def countLines (s : State) : State := s.wr Reg.FAB_STAT_LINES_UP s.linesUp.length

/-- R292: the flits of VC 0 and 1 not acknowledged, and MSG flits of VC 7, go over the detours; VC 7 transfers of this
device are sent again whole; unacknowledged flits of VC 2 to 6 stop the step; queued flits are routed anew. -/
def rerouteLine (s : State) (x : LineState) : State :=
  let again := x.replay.filter (fun f => f.vc ≤ 1 || (f.vc == 7 && f.ftype == 2))
  let lostTxns := (x.replay.filter (fun f => f.vc == 7 && f.ftype == 1 && f.src / 16 == s.self)).map (·.txn)
  let queued := (x.outq.flatMap (·.2)).filter (fun f => !(f.vc == 7 && f.ftype == 1 && lostTxns.contains f.txn))
  let s1 := (again ++ queued).foldl forward s
  let s2 := (s1.fab.sends.filter (fun y => y.vc == 7 && lostTxns.contains y.txn)).foldl putFlits s1
  if x.replay.any (fun f => 2 ≤ f.vc && f.vc ≤ 6) then replayFault s2 else s2

/-- R277: line `l` has come up or gone down: every pair of a DOWN primary and an UP detour is in force. -/
def noteDetours (s : State) (l : Nat) : State :=
  let others := (List.range 32).filter (fun d => d != l && s.lineUp d != s.lineUp l)
  let new := others.map (fun d => if s.lineUp l then (d, l) else (l, d))
  { s with fab := { s.fab with inForce := s.fab.inForce.filter (fun p => !new.contains p) ++ new } }

/-- R287: NBR_l is no longer valid. -/
def dropNeighbour (s : State) (l : Nat) : State :=
  if s.rd Reg.NBR_VALID 0 l = 0 then s else raise (s.wr Reg.NBR_VALID 0 0 l) Ev.fabric_NBR_CHANGE

/-- R292: line `l` leaves UP for state `dst`; `notice` sends DOWN_NOTICE first. -/
def takeLineDown (s : State) (l dst : Nat) (notice : Bool) : State :=
  let s1 := if notice then sendBytes s l (plainFlit 3 [5]) else s
  let x := s1.line l
  let fresh : LineState := { rxq := x.rxq, laneMap := x.laneMap, next := x.next, undone := x.undone, lastTxn := x.lastTxn,
                             timedOut := x.timedOut, peerSerial := x.peerSerial }
  let s2 := ((s1.setLine l fresh).wr Reg.LINE_STAT_STATE dst l).bump Reg.LINE_DOWNS_COUNT l
  let s3 := raise (countLines (dropNeighbour s2 l)) Ev.lineCtl_LINE_DOWN l
  let s5 := rerouteLine (noteDetours s3 l) x
  let s6 := if s5.fab.parent = some l then chooseParent s5 else s5
  if (Table.find l s6.hd.captures).isSome then closeCapture s6 l else s6

def lineGoesDown (s : State) (l : Nat) (notice : Bool) : State := if s.lineUp l then takeLineDown s l 0 notice else s

def execLineDown (l : LineNo) (s : State) : Result := .next (lineGoesDown s l true)

def execDownNotice (l : LineNo) (s : State) : Result := .next (lineGoesDown s l false)

def execAlignmentLoss (l : LineNo) (s : State) : Result := .next (lineGoesDown s l true)

/-- R267, R268: the expected flit has not come: RETRY_REQ again, or the line goes DOWN at RETRY_MAX. -/
def retryAgain (s : State) (l : Nat) : State := if retriesSpent s l then lineGoesDown s l true else askRetry s l

def execRetryTimeout (l : LineNo) (s : State) : Result :=
  whenOk (s.lineUp l && (s.line l).discarding) s (retryAgain s l)

/-! ### Lines up and discovery (R286, R287) -/

/-- The lines with EN 1. -/
def enabledLines (s : State) : List Nat := (List.range 32).filter (fun l => s.rd Reg.LINE_CFG_EN l == 1)

/-- R286: discovery ends when every enabled line is UP or has timed out. -/
def finishDiscovery (s : State) : State :=
  let d := s.rd Reg.FAB_STAT_DISC_STATE
  if (d = 1 ∨ d = 2) ∧ (enabledLines s).all (fun l => s.lineUp l || (s.line l).timedOut) = true then
    raise (s.wr Reg.FAB_STAT_DISC_STATE 3) Ev.fabric_DISC_DONE
  else s

/-- R262, R292: a line with EN 1 that is DOWN begins to train. -/
def trainLine (s : State) (l : Nat) : State :=
  if s.rd Reg.LINE_CFG_EN l = 1 ∧ s.rd Reg.LINE_STAT_STATE l = 0 then s.wr Reg.LINE_STAT_STATE 1 l else s

/-- R263, R286: discovery over the lines that are DOWN; those with EN 0 take no part. -/
def discover (s : State) : State :=
  let s1 := (List.range 32).foldl (fun s l =>
    if s.rd Reg.LINE_CFG_EN l = 0 then s.wr Reg.LINE_STAT_STATE 3 l
    else trainLine (s.setLine l { s.line l with timedOut := false }) l) s
  finishDiscovery (s1.wr Reg.FAB_STAT_DISC_STATE 1)

/-- R444 stage 6: discovery starts once the stacks are trained. -/
def execDiscovery (s : State) : Result := whenOk (s.rd Reg.DEV_STAT_STATE == 5) s (discover s)

def execDiscover (s : State) : Result := .next (discover s)

/-- R286: a line fails to lock in time and stays DOWN. -/
def discTimesOut (s : State) (l : Nat) : State :=
  finishDiscovery ((s.setLine l { s.line l with timedOut := true }).wr Reg.LINE_STAT_STATE 0 l)

def execDiscTimeout (l : LineNo) (s : State) : Result :=
  whenOk (s.rd Reg.LINE_STAT_STATE l == 1) s (discTimesOut s l)

/-- R286: line `l` comes UP and exchanges IDENT; during discovery the exchange has begun (log 56). -/
def lineComesUp (s : State) (l : Nat) : State :=
  let s1 := raise (countLines (s.wr Reg.LINE_STAT_STATE 2 l)) Ev.lineCtl_LINE_UP l
  let s2 := sendIdent (noteDetours s1 l) l
  finishDiscovery (if s2.rd Reg.FAB_STAT_DISC_STATE = 1 then s2.wr Reg.FAB_STAT_DISC_STATE 2 else s2)

def execLineUp (l : LineNo) (s : State) : Result :=
  whenOk (s.rd Reg.LINE_STAT_STATE l == 1) s (lineComesUp s l)

/-- R292: the line retrains every 10 ms while EN is 1. -/
def execLineRetrain (l : LineNo) (s : State) : Result := .next (trainLine s l)

/-- R275, R287: a write of FAB_DEVNUM, answered whether it was refused. -/
def writeDevnum (s : State) (v : Nat) : Bool × State :=
  let r := plainWrite s ⟨.fabric, 0⟩ 0x40 v
  if r.1 then r else (false, identAll (settleMaster r.2))

def execFabDevnum (v : Word) (s : State) : Result := .next (writeDevnum s v.toNat).2

/-- R262, R263, R286, R292: what a write of LINE_CFG does to the line. -/
def lineReconfigured (old s : State) (l : Nat) : State :=
  let on := s.rd Reg.LINE_CFG_EN l == 1
  if !on then finishDiscovery (if s.lineUp l then takeLineDown s l 3 true else s.wr Reg.LINE_STAT_STATE 3 l)
  else
    let s1 := if s.rd Reg.LINE_STAT_STATE l = 3 then s.wr Reg.LINE_STAT_STATE 0 l else s
    if old.rd Reg.LINE_CFG_MEDIA l != s1.rd Reg.LINE_CFG_MEDIA l then trainLine (lineGoesDown s1 l true) l else s1

/-- A write of LINE_CFG. -/
def writeLineCfg (s : State) (l v : Nat) : Bool × State :=
  let r := plainWrite s ⟨.lineCtl, l⟩ 0x40 v
  (r.1, lineReconfigured s r.2 l)

def execLineCfg (l : LineNo) (v : Word) (s : State) : Result := .next (writeLineCfg s l v.toNat).2

/-! ### The routing window (R276, R279) -/

def routeAdvance (s : State) : State :=
  if s.rd Reg.ROUTE_CTL_AUTO_INC = 1 then s.wr Reg.ROUTE_INDEX_INDEX ((s.rd Reg.ROUTE_INDEX_INDEX + 1) % 4096) else s

def routeRead (s : State) : Nat × State :=
  let k := routeKey (s.rd Reg.ROUTE_INDEX_INDEX)
  (if s.rd Reg.ROUTE_CTL_BANK = 1 then s.shadowWord k else s.liveWord k, routeAdvance s)

/-- R276: the entry names no line with EN 0 (log 57). -/
def routeOk (s : State) (v : Nat) : Bool :=
  !(bit v 31 && s.rd Reg.LINE_CFG_EN (getBits v 0 5) == 0) && !(bit v 30 && s.rd Reg.LINE_CFG_EN (getBits v 5 5) == 0)

/-- The bits of an entry that are kept: bits 29 to 10 are reserved. -/
def routeBits (v : Nat) : Nat := getBits v 30 2 * 2 ^ 30 + getBits v 0 10

def routeWrite (s : State) (v : Nat) : State :=
  if routeOk s v then routeAdvance (shadowStore s (routeKey (s.rd Reg.ROUTE_INDEX_INDEX)) (routeBits v))
  else refuse s .fabric

def execRouteData (acc : Access) (s : State) : Result :=
  match acc with
  | .read => .next ((routeRead s).2.emit (.word (routeRead s).1))
  | .write v => .next (routeWrite s v.toNat)

/-! ### Lanes (R293) -/

def ballastLane (s : State) (l : Nat) : Option Nat :=
  if s.rd Reg.LANE_BALLAST_BALLAST_USED l = 1 then none else some (s.rd Reg.LANE_BALLAST_PHYS l)

/-- R293: the ends agree on the next window for a lane by a LANE_SWAP flit. -/
def agreeSwap (s : State) (l lane : Nat) : State :=
  let k := nextWindow s (s.tick + 1)
  queueLink (s.setLine l { s.line l with laneSwap := some (k, lane) }) l 3 (leBytes 8 k ++ leBytes 1 lane)

/-- The first logical lane whose physical lane exceeds LANE_CE_THRESH in the interval. -/
def worstLane (s : State) (l : Nat) : Option Nat :=
  (List.range 8).find? (fun i =>
    decide (s.rd Reg.LANE_THRESH_LANE_CE_THRESH l < s.rd Reg.LANE_REC_ST_INTERVAL_ERR l ((s.line l).laneMap.getD i 0)))

def laneIntervalEnds (s : State) (l : Nat) : State :=
  let s1 := match worstLane s l with
    | some i => if (ballastLane s l).isSome && (s.line l).laneSwap.isNone then agreeSwap s l i else s
    | none => s
  (List.range 9).foldl (fun s p => s.wr Reg.LANE_REC_ST_INTERVAL_ERR 0 l p) s1

def execLaneIntervalEnd (l : LineNo) (s : State) : Result := whenOk (s.lineUp l) s (laneIntervalEnds s l)

def execLaneSwap (l : LineNo) (window : Nat) (lane : Fin 8) (s : State) : Result :=
  whenOk (s.lineUp l && (ballastLane s l).isSome) s (s.setLine l { s.line l with laneSwap := some (window, lane.val) })

/-- R293: the logical lane moves onto the ballast lane; its physical lane is out of service. -/
def moveLane (s : State) (l lane b : Nat) : State :=
  let x := s.line l
  let old := x.laneMap.getD lane 0
  let s1 := s.setLine l { x with laneMap := x.laneMap.set lane b, laneSwap := none }
  let s2 := ((s1.wr Reg.LANE_REC_ST_STATE 2 l old).wr Reg.LANE_REC_ST_STATE 0 l b).wr Reg.LANE_BALLAST_BALLAST_USED 1 l
  svcAppend (raise (raise (absorbed s2) Ev.lineLane_LANE_FAILED l) Ev.lineLane_LANE_SWAPPED l) 4 .lineLane l old

/-- R293: at W + 100 of the agreed window. -/
def execLaneWindowSwap (l : LineNo) (s : State) : Result :=
  match (s.line l).laneSwap, ballastLane s l with
  | some (k, lane), some b =>
    whenOk (s.lineUp l) s (moveLane (s.passTo (windowTick s k + 100)) l lane b)
  | _, _ => .next s

/-- R293: the window number of a LANE_SWAP flit that is not to wait for a window (DESIGN CHOICE, log 96). -/
def swapAtOnce : Nat := 2 ^ 64 - 1

/-- R292, R293: a lane loses lock: the ends agree by a LANE_SWAP flit and it is replaced at once, or the line goes DOWN. -/
def loseLane (s : State) (l lane : Nat) : State :=
  match ballastLane s l with
  | some b => queueLink (moveLane s l lane b) l 3 (leBytes 8 swapAtOnce ++ leBytes 1 lane)
  | none =>
    lineGoesDown (raise (s.wr Reg.LANE_REC_ST_STATE 2 l ((s.line l).laneMap.getD lane 0)) Ev.lineLane_LANE_FAILED l) l true

def execLaneLockLoss (l : LineNo) (lane : Fin 8) (s : State) : Result := whenOk (s.lineUp l) s (loseLane s l lane)

/-- LANE_CMD.LANE_SWAP_CMD, answered whether it was refused. -/
def laneCommand (s : State) (l lane : Nat) : Bool × State :=
  if s.lineUp l && (ballastLane s l).isSome then (false, agreeSwap s l lane) else (true, refuse s .lineLane l)

def execLaneSwapCmd (l : LineNo) (lane : Fin 8) (s : State) : Result := .next (laneCommand s l lane).2

/-! ### Time base (R231, R289, R290) -/

/-- R289: the child sends its tick in 1/16 ticks, with its distance. -/
def sendSync (s : State) (l : Nat) : State := queueLink s l 1 (leBytes 8 (16 * s.tick) ++ leBytes 1 (ownDistance s))

def execTimeSyncSend (s : State) : Result :=
  match s.fab.parent with
  | some l => whenOk (s.lineUp l) s (sendSync s l)
  | none => .next s

/-- R289: twice the measured offset, in 1/16 ticks. -/
def offset2 (s : State) (l t1 t2 t3 t4 : Nat) : Int :=
  ((t2 : Int) - t1) - ((t4 : Int) - t3) + 2 * toSigned 8 (s.rd Reg.LINE_CFG_DELAY_ASYM l)

/-- R231: timers whose CMP the load passes pend at the load tick. -/
def loadTimers (s : State) (old : Nat) : State :=
  (List.range 16).foldl (fun s i =>
    if s.rd Reg.EC_TMR_EN_EN 0 i = 1 ∧ old < timerCmp s i ∧ timerCmp s i ≤ s.tick then fireTimer s i else s) s

/-- R231, R289: the one load of the counter, at the first lock. -/
def loadCounter (s : State) (off : Int) : State :=
  let old := s.tick
  let t := ((s.tick : Int) + off).toNat % 2 ^ 64
  loadTimers ({ s with tick := t }.wr Reg.TB_SYNC_LOADED 1) old

/-- The offset in whole ticks, held in eight bits. -/
def offsetByte (off : Int) : Nat := ofSigned 8 (max (-128) (min 127 off))

/-- R288 to R290: a reply measures the offset: a device within 16 hops loads its counter once and locks within 1 tick; beyond
1 tick any device unlocks. -/
def syncReply (s : State) (l t1 t2 t3 t4 : Nat) : State :=
  let o2 := offset2 s l t1 t2 t3 t4
  let s1 := (s.wr Reg.LINE_RTT_RTT ((((t4 : Int) - t1) - ((t3 : Int) - t2)) / 16).toNat l).wr Reg.TB_SYNC_OFFSET
    (offsetByte (o2 / 32))
  let near := decide (s.rd Reg.NBR_PEER_DIST 0 l + 1 ≤ 16)
  if s1.rd Reg.TB_SYNC_LOADED = 0 then (if near then lockTime (loadCounter s1 (o2 / 32)) else s1)
  else if -32 ≤ o2 ∧ o2 ≤ 32 then (if near then lockTime s1 else s1)
  else chooseParent (unlockTime s1)

/-- R287, R288: line `l`'s peer stands at a distance from the master; the parent is chosen by it. -/
def takeDistance (s : State) (l dist : Nat) : State :=
  if s.rd Reg.NBR_PEER_DIST 0 l = dist % 32 then s
  else chooseParent (raise (s.wr Reg.NBR_PEER_DIST dist 0 l) Ev.fabric_NBR_CHANGE)

/-- R289: the parent's reply. -/
def answerSync (s : State) (l t1 t2 : Nat) : State :=
  queueLink s l 1 (leBytes 8 t1 ++ leBytes 8 t2 ++ leBytes 8 (max t2 (16 * s.tick)) ++ leBytes 1 (ownDistance s))

def takeSync (s : State) (l : Nat) (m : SyncMsg) : State :=
  match m with
  | .request t1 t2 d => answerSync (takeDistance s l d) l t1 t2
  | .reply t1 t2 t3 t4 d =>
    let s1 := takeDistance s l d
    if s1.fab.parent = some l then syncReply s1 l t1 t2 t3 t4 else s1

def execTimeSync (l : LineNo) (m : SyncMsg) (s : State) : Result := whenOk (s.lineUp l) s (takeSync s l m)

/-- R288: no neighbour leads to the master. -/
def masterLost (s : State) : Bool :=
  match s.fab.parent with
  | some l => s.rd Reg.NBR_PEER_DIST 0 l == 31
  | none => true

/-- R290: the parent is lost: another is chosen without it; where none leads to the master TB_BACKUP takes its role. -/
def syncLost (s : State) : State :=
  let s1 := unlockTime s
  let s2 := match s1.fab.parent with
    | some l => takeDistance s1 l 31
    | none => chooseParent s1
  if masterLost s2 && s2.assigned && s2.rd Reg.FAB_TB_TB_BACKUP == s2.self && !s2.fab.tookOver then
    raise (settleMaster { s2 with fab := { s2.fab with tookOver := true } }) Ev.fabric_TB_MASTER_LOST
  else s2

/-- R288: FAB_TB names the master anew: a backup that had taken its role gives it up. -/
def writeFabTb (s : State) (v : Nat) : Bool × State :=
  let r := plainWrite s ⟨.fabric, 0⟩ 0x50 v
  if r.1 then r else (false, settleMaster { r.2 with fab := { r.2.fab with tookOver := false } })

def execSyncTimeout (s : State) : Result := whenOk (!isMaster s) s (syncLost s)

/-- R271, R274: endpoint 10 answers with the device's tick and TB_SYNC, to the gondola that asked, on virtual channel 1. -/
def tbAnswer (s : State) (src : Nat) : State :=
  tell s 1 (16 * s.self + 10) (16 * src + 8) (.tbReply s.tick (s.liveReg ⟨.timeBase, 0⟩ 0x48))

def execTbQuery (src : Dev) (s : State) : Result := .next (tbAnswer s src)

/-! ### Measured pairs (R232) -/

/-- R232: a unit's own value as its pair holds it: seconds and nanoseconds of the port's time stamp unit, the 48-bit count of a
PHY monitor, the real-time clock's 64 bits. -/
def ownValue (sel v : Nat) : Nat :=
  if sel = 0 then v / 10 ^ 9 % 2 ^ 32 * 2 ^ 32 + v % 10 ^ 9 else if sel ≤ 16 then v % 2 ^ 48 else v % 2 ^ 64

/-- R232: all 18 pairs are taken: each unit's count is the environment's (log 20). -/
def measurePairs (s : State) : State :=
  (List.range 18).foldl (fun s i =>
    let (v, s1) := s.draw
    { s1 with tb := { s1.tb with pairs := s1.tb.pairs.put i (s1.tick, ownValue i v) } }) s

/-- R232: MEASURE starts a measurement. -/
def startMeasure (s : State) : State := { s with tb := { s.tb with running := true } }

def execMeasure (s : State) : Result := .next (startMeasure s)

/-- R232: the measurement completes. -/
def endMeasure (s : State) : State :=
  let s1 := measurePairs s
  let s2 := { s1 with tb := { s1.tb with running := false } }
  raise (s2.wr64 Reg.TB_MEAS_AT_LO Reg.TB_MEAS_AT_HI s2.tick) Ev.timeBase_MEAS_DONE

def execMeasDone (s : State) : Result := whenOk s.tb.running s (endMeasure s)

end Sys2Proof.Machine
end

