-- ==== Sys2Proof/Machine/Crypto.lean ====
section
/-! DEFINITION. SHA-256, HMAC-SHA-256 and ECDSA over P-256, as firmware checks, measurement and attestation use them
(16 R447 to R454, 12 R383). -/

namespace Sys2Proof.Machine

/-! ### SHA-256 -/

/-- The round constants. -/
def shaK : List (BitVec 32) :=
  [0x428a2f98, 0x71374491, 0xb5c0fbcf, 0xe9b5dba5, 0x3956c25b, 0x59f111f1, 0x923f82a4, 0xab1c5ed5,
   0xd807aa98, 0x12835b01, 0x243185be, 0x550c7dc3, 0x72be5d74, 0x80deb1fe, 0x9bdc06a7, 0xc19bf174,
   0xe49b69c1, 0xefbe4786, 0x0fc19dc6, 0x240ca1cc, 0x2de92c6f, 0x4a7484aa, 0x5cb0a9dc, 0x76f988da,
   0x983e5152, 0xa831c66d, 0xb00327c8, 0xbf597fc7, 0xc6e00bf3, 0xd5a79147, 0x06ca6351, 0x14292967] ++
  [0x27b70a85, 0x2e1b2138, 0x4d2c6dfc, 0x53380d13, 0x650a7354, 0x766a0abb, 0x81c2c92e, 0x92722c85,
   0xa2bfe8a1, 0xa81a664b, 0xc24b8b70, 0xc76c51a3, 0xd192e819, 0xd6990624, 0xf40e3585, 0x106aa070,
   0x19a4c116, 0x1e376c08, 0x2748774c, 0x34b0bcb5, 0x391c0cb3, 0x4ed8aa4a, 0x5b9cca4f, 0x682e6ff3,
   0x748f82ee, 0x78a5636f, 0x84c87814, 0x8cc70208, 0x90befffa, 0xa4506ceb, 0xbef9a3f7, 0xc67178f2]

/-- The eight working words. -/
structure ShaState where
  a : BitVec 32
  b : BitVec 32
  c : BitVec 32
  d : BitVec 32
  e : BitVec 32
  f : BitVec 32
  g : BitVec 32
  h : BitVec 32
deriving DecidableEq, Repr

def shaStart : ShaState :=
  { a := 0x6a09e667, b := 0xbb67ae85, c := 0x3c6ef372, d := 0xa54ff53a, e := 0x510e527f, f := 0x9b05688c, g := 0x1f83d9ab,
    h := 0x5be0cd19 }

/-- One round with constant plus schedule word. -/
def shaRound (x : ShaState) (kw : BitVec 32) : ShaState :=
  let s1 := x.e.rotateRight 6 ^^^ x.e.rotateRight 11 ^^^ x.e.rotateRight 25
  let ch := (x.e &&& x.f) ^^^ (~~~x.e &&& x.g)
  let t1 := x.h + s1 + ch + kw
  let s0 := x.a.rotateRight 2 ^^^ x.a.rotateRight 13 ^^^ x.a.rotateRight 22
  let maj := (x.a &&& x.b) ^^^ (x.a &&& x.c) ^^^ (x.b &&& x.c)
  { a := t1 + (s0 + maj), b := x.a, c := x.b, d := x.c, e := x.d + t1, f := x.e, g := x.f, h := x.g }

/-- The message schedule: `w` holds the last 16 words, oldest first. -/
def shaRounds : List (BitVec 32) → List (BitVec 32) → ShaState → ShaState
  | [], _, x => x
  | k :: ks, w, x =>
    let w0 := w.headD 0
    let w1 := w.getD 1 0
    let w14 := w.getD 14 0
    let s0 := w1.rotateRight 7 ^^^ w1.rotateRight 18 ^^^ (w1 >>> 3)
    let s1 := w14.rotateRight 17 ^^^ w14.rotateRight 19 ^^^ (w14 >>> 10)
    shaRounds ks (w.drop 1 ++ [s1 + w.getD 9 0 + s0 + w0]) (shaRound x (k + w0))

def shaAdd (x y : ShaState) : ShaState :=
  { a := x.a + y.a, b := x.b + y.b, c := x.c + y.c, d := x.d + y.d, e := x.e + y.e, f := x.f + y.f, g := x.g + y.g,
    h := x.h + y.h }

/-- Big-endian words of a block. -/
def shaWords : Nat → Bytes → List (BitVec 32)
  | 0, _ => []
  | n + 1, bs => BitVec.ofNat 32 (beNat (bs.take 4)) :: shaWords n (bs.drop 4)

def shaBlocks : Nat → Bytes → ShaState → ShaState
  | 0, _, x => x
  | n + 1, bs, x => shaBlocks n (bs.drop 64) (shaAdd x (shaRounds shaK (shaWords 16 bs) x))

/-- The padded message. -/
def shaPad (bs : Bytes) : Bytes := bs ++ 0x80 :: zeros ((119 - bs.length % 64) % 64) ++ beBytes 8 (8 * bs.length)

/-- SHA-256 as 32 bytes. -/
def sha256 (bs : Bytes) : Bytes :=
  let p := shaPad bs
  let x := shaBlocks (p.length / 64) p shaStart
  [x.a, x.b, x.c, x.d, x.e, x.f, x.g, x.h].flatMap (fun v => beBytes 4 v.toNat)

/-- SHA-256 as a number, most significant byte first. -/
def shaNat (bs : Bytes) : Nat := beNat (sha256 bs)

/-- HMAC-SHA-256 with a key of at most 64 bytes. -/
def hmac (key msg : Bytes) : Bytes :=
  let k := fit 64 key
  sha256 (k.map (fun b => b ^^^ 0x5C) ++ sha256 (k.map (fun b => b ^^^ 0x36) ++ msg))

/-! ### P-256 -/

def p256p : Nat := 0xFFFFFFFF00000001000000000000000000000000FFFFFFFFFFFFFFFFFFFFFFFF

/-- The order of the group. -/
def p256n : Nat := 0xFFFFFFFF00000000FFFFFFFFFFFFFFFFBCE6FAADA7179E84F3B9CAC2FC632551

def p256b : Nat := 0x5AC635D8AA3A93E7B3EBBD55769886BC651D06B0CC53B0F63BCE3C3E27D2604B

/-- The base point. -/
def p256g : Nat × Nat :=
  (0x6B17D1F2E12C4247F8BCE6E563A440F277037D812DEB33A0F4A13945D898C296,
   0x4FE342E2FE1A7F9B8EE7EB4A7C0F9E162BCE33576B315ECECBB6406837BF51F5)

/-- `b` to the power of the low `n` bits of `e`, modulo `m`. -/
def powMod (m : Nat) : Nat → Nat → Nat → Nat → Nat
  | 0, _, _, acc => acc
  | n + 1, b, e, acc => powMod m n (b * b % m) (e / 2) (if e % 2 = 1 then acc * b % m else acc)

/-- The inverse modulo a prime of 256 bits. -/
def invMod (m a : Nat) : Nat := powMod m 256 (a % m) (m - 2) 1

/-- The sum of two points of the curve; none is the point at infinity. -/
def ecAdd (x y : Option (Nat × Nat)) : Option (Nat × Nat) :=
  match x, y with
  | none, q => q
  | p, none => p
  | some (x1, y1), some (x2, y2) =>
    if x1 = x2 ∧ (y1 + y2) % p256p = 0 then none
    else
      let num := if x1 = x2 then 3 * x1 * x1 + (p256p - 3) else y2 + (p256p - y1)
      let den := if x1 = x2 then 2 * y1 else x2 + (p256p - x1)
      let l := num % p256p * invMod p256p den % p256p
      let x3 := (l * l + 2 * p256p - x1 - x2) % p256p
      some (x3, (l * (x1 + p256p - x3) + (p256p - y1)) % p256p)

/-- A multiple of a point by the low `n` bits of `k`. -/
def ecMul : Nat → Nat → Option (Nat × Nat) → Option (Nat × Nat) → Option (Nat × Nat)
  | 0, _, _, acc => acc
  | n + 1, k, q, acc => ecMul n (k / 2) (ecAdd q q) (if k % 2 = 1 then ecAdd acc q else acc)

/-- A point lies on the curve. -/
def onCurve (q : Nat × Nat) : Bool :=
  decide (q.1 < p256p) && decide (q.2 < p256p)
    && (q.2 * q.2) % p256p == (q.1 * q.1 * q.1 + (p256p - 3) * q.1 + p256b) % p256p

/-- ECDSA verification of digest `e`. -/
def ecdsaOk (q : Nat × Nat) (e r s : Nat) : Bool :=
  onCurve q && decide (1 ≤ r) && decide (r < p256n) && decide (1 ≤ s) && decide (s < p256n) &&
    let w := invMod p256n s
    match ecAdd (ecMul 256 (e * w % p256n) (some p256g) none) (ecMul 256 (r * w % p256n) (some q) none) with
    | some (x, _) => x % p256n == r
    | none => false

/-- ECDSA signature of digest `e` with key `d` and nonce `k`. -/
def ecdsaSign (d e k : Nat) : Nat × Nat :=
  let r := (match ecMul 256 k (some p256g) none with | some (x, _) => x | none => 0) % p256n
  (r, invMod p256n k * (e + r * d) % p256n)

/-- A signature r‖s of 32-byte big-endian integers over `msg` by the key X‖Y. -/
def signedBy (key sig msg : Bytes) : Bool :=
  ecdsaOk (beNat (key.take 32), beNat ((key.drop 32).take 32)) (shaNat msg) (beNat (sig.take 32)) (beNat ((sig.drop 32).take 32))

/-! ### The device identity key (16 R452) -/

/-- R452: k_i; the counter is one byte (log 60). -/
def idCandidate (i : Nat) : Nat :=
  beNat (hmac (beBytes 32 Config.uniqueSecret.toNat) ([0x50, 0x5A, 0x31, 0x2D, 0x49, 0x44] ++ beBytes 1 i))

/-- R452: the first k_i below n − 1 gives the key. -/
def idKeyFrom : Nat → Nat → Nat
  | 0, _ => 1
  | fuel + 1, i => if idCandidate i < p256n - 1 then idCandidate i + 1 else idKeyFrom fuel (i + 1)

def idKey : Nat := idKeyFrom 256 0

end Sys2Proof.Machine
end

