-- ==== Sys2Proof/Machine/Firmware.lean ====
section
/-! DEFINITION. Measurement (16 R450, R451), module flash (R446 to R448, R456), firmware images (R447 to R449) and their
replacement while the device runs (R455). -/

namespace Sys2Proof.Machine

/-! ### Measurement -/

/-- Measurement register `i`. -/
def State.mr (s : State) (i : Nat) : Nat := s.trust.mrs.getD i 0

/-- R451: the entries the log keeps. -/
def logCapacity : Nat := 2048

/-- R451: an entry is kept, or LOG_OVERFLOW sets. -/
def appendLog (s : State) (e : LogEntry) : State :=
  if s.trust.log.length < logCapacity then { s with trust := { s.trust with log := s.trust.log ++ [e] } }
  else if s.rd Reg.SEC_STAT_LOG_OVERFLOW = 1 then s
  else raise (s.wr Reg.SEC_STAT_LOG_OVERFLOW 1) Ev.security_LOG_OVERFLOW

/-- R450: register `i` is extended by digest `h`, with a log entry of TYPE `kind` in the same cycle. -/
def extendMr (s : State) (i kind seg h : Nat) : State :=
  let n := s.rd Reg.LOG_COUNT_COUNT
  let e : LogEntry := { mr := i, kind := kind, seg := seg, num := n, tick := s.tick, digest := h }
  let v := shaNat (beBytes 32 (s.mr i) ++ beBytes 32 h)
  (appendLog { s with trust := { s.trust with mrs := s.trust.mrs.put i v } } e).wr Reg.LOG_COUNT_COUNT (n + 1)

/-- R451: a log entry as it is read. -/
def logBytes (e : LogEntry) : Bytes :=
  leBytes 1 e.mr ++ leBytes 1 e.kind ++ leBytes 2 e.seg ++ leBytes 4 e.num ++ leBytes 8 e.tick ++ beBytes 32 e.digest

/-- R450: MR_EXT_0 to MR_EXT_7, word 0 first. -/
def extDigest (s : State) : Nat := (List.range 8).foldl (fun v i => v * 2 ^ 32 + s.rd Reg.MR_EXT_DIGEST 0 i) 0

/-- SEC_CMD.EXTEND. -/
def extendHost (s : State) : State := extendMr s 7 8 0 (extDigest s)

def execExtend (s : State) : Result := .next (extendHost s)

/-- MR_WIN: WORD 0 is bits [255:224]. -/
def mrWord (s : State) : Nat := s.mr (s.rd Reg.MR_SEL_MR) / 2 ^ (32 * (7 - s.rd Reg.MR_SEL_WORD)) % 2 ^ 32

/-- LOG_WIN: the selected word of a kept entry. -/
def logWord (s : State) : Nat :=
  match s.trust.log[s.rd Reg.LOG_SEL_ENTRY]? with
  | some e => if s.rd Reg.LOG_SEL_WORD < 12 then leAt (logBytes e) (4 * s.rd Reg.LOG_SEL_WORD) 4 else 0
  | none => 0

/-- Each read of LOG_WIN advances WORD, and from 11 ENTRY. -/
def logAdvance (s : State) : State :=
  if s.rd Reg.LOG_SEL_WORD < 11 then s.wr Reg.LOG_SEL_WORD (s.rd Reg.LOG_SEL_WORD + 1)
  else (s.wr Reg.LOG_SEL_WORD 0).wr Reg.LOG_SEL_ENTRY (s.rd Reg.LOG_SEL_ENTRY + 1)

def execLogWin (s : State) : Result := .next ((logAdvance s).emit (.word (logWord s)))

/-! ### Fuses (R442, R449, 12 R383) -/

/-- The words of the security page that come from fuses. -/
def showFuses (s : State) : State :=
  let s1 := s.wr Reg.SEC_SVN_SVN_MIN s.trust.svnMin
  match s.trust.userKey with
  | some h => (List.range 8).foldl (fun s i => s.wr Reg.USER_KEY_HASH_HASH (h / 2 ^ (32 * (7 - i)) % 2 ^ 32) 0 i)
      (s1.wr Reg.SEC_STAT_USER_KEY_SET 1)
  | none => s1

/-- The key of a burn (SEC_CMD.KEY, DEV_RST.KEY). -/
def burnKey : Nat := 0xD1E5

/-- SEC_CMD.SVN_BURN, answered whether it was refused. -/
def burnSvn (s : State) (key : Nat) : Bool × State :=
  if key ≠ burnKey ∨ s.rd Reg.SEC_SVN_SVN_RUN < s.trust.svnMin then (true, refuse s .security)
  else (false, showFuses { s with trust := { s.trust with svnMin := s.rd Reg.SEC_SVN_SVN_RUN } })

def execSvnBurn (key : BitVec 16) (s : State) : Result := .next (burnSvn s key.toNat).2

/-- USER_KEY_HASH as staged. -/
def stagedKey (s : State) : Nat := (List.range 8).foldl (fun v i => v * 2 ^ 32 + s.rd Reg.USER_KEY_HASH_HASH 0 i) 0

/-- SEC_CMD.UKH_BURN, answered whether it was refused. -/
def burnUserKey (s : State) (key : Nat) : Bool × State :=
  if key ≠ burnKey ∨ s.trust.userKey.isSome = true then (true, refuse s .security)
  else (false, showFuses { s with trust := { s.trust with userKey := some (stagedKey s) } })

def execUkhBurn (key : BitVec 16) (s : State) : Result := .next (burnUserKey s key.toNat).2

/-! ### Module flash (R446, R456) -/

def fwBase : Nat := 0x0800000

def userBase : Nat := 0x6800000

def svcBase : Nat := 0x6900000

/-- A byte of flash outside the service record. -/
def flashByte (s : State) (a : Nat) : Byte :=
  match Table.find a s.trust.flash with
  | some b => b
  | none => if s.trust.erased.contains (a / 65536) then Config.erasedByte else Config.flashByte a

/-- R456: an entry of the service record. -/
def svcBytes (e : SvcEntry) : Bytes :=
  let b := leBytes 8 e.tick ++ leBytes 1 e.kind ++ leBytes 3 (e.block * 256 + e.inst) ++ leBytes 4 e.detail ++ leBytes 4 e.hours
    ++ zeros 8
  b ++ leBytes 4 (crc32 b)

/-- R456: a byte of the service record: entries follow the two header copies, whose layout is not given (log 66). -/
def svcByte (s : State) (o : Nat) : Byte :=
  match if 64 ≤ o then s.recov.svc[(o - 64) / 32]? else none with
  | some e => (svcBytes e).getD (o % 32) 0
  | none => flashByte s (svcBase + o)

def flashRead (s : State) (a : Nat) : Nat → Bytes
  | 0 => []
  | n + 1 => (if svcBase ≤ a then svcByte s (a - svcBase) else flashByte s a) :: flashRead s (a + 1) n

/-- R452: the identity certificate. -/
def identityCert (s : State) : Bytes := flashRead s 0x1004 (leNat (flashRead s 0x1000 4))

/-- R452: the bytes of the factory record that stay as they were made: the two certificates. -/
def certAddr (s : State) (a : Nat) : Bool :=
  (decide (0x1000 ≤ a) && decide (a < 0x1004 + leNat (flashRead s 0x1000 4)))
    || (decide (0x2000 ≤ a) && decide (a < 0x2004 + leNat (flashRead s 0x2000 4)))

/-- R446: flash addresses the host may write. -/
def hostRegion (a : Nat) : Bool := decide (fwBase ≤ a) && decide (a < svcBase)

def flashBusy (s : State) : Bool := s.rd Reg.FL_STAT_BUSY == 1

/-- R455: the firmware region is closed between STAGE and DONE or STOPPED. -/
def fwClosed (s : State) (a : Nat) : Bool :=
  decide (a < userBase) && (s.rd Reg.FW_STAT_PHASE == 1 || s.rd Reg.FW_STAT_PHASE == 2)

/-- R446, R455: an erase or write at `a` is accepted. -/
def flashWritable (s : State) (a : Nat) : Bool := hostRegion a && !flashBusy s && !fwClosed s a

/-- FL_ADDR, a multiple of 4 (log 59). -/
def flAddr (s : State) : Nat := s.rd Reg.FL_ADDR_ADDR / 4 * 4

def flAdvance (s : State) : State := s.wr Reg.FL_ADDR_ADDR (flAddr s + 4)

/-- A read of FL_DATA. In-service repairs change the rest of the factory record in a layout that is not given: it reads
free (log 66). -/
def flRead (s : State) : Nat × State :=
  let a := flAddr s
  if a < fwBase ∧ certAddr s a = false then
    let (v, s1) := s.draw
    (v % 2 ^ 32, flAdvance s1)
  else (leNat (flashRead s a 4), flAdvance s)

/-- A flash operation starts. -/
def startFlash (s : State) (op : FlashOp) : State :=
  ({ s with trust := { s.trust with op := some op } }).wr Reg.FL_STAT_BUSY 1

/-- A write of FL_DATA, answered whether it was refused. -/
def flWrite (s : State) (v : Nat) : Bool × State :=
  if flashWritable s (flAddr s) then (false, flAdvance (startFlash s (.program (flAddr s) v))) else (true, refuse s .flash)

def execFlData (acc : Access) (s : State) : Result :=
  match acc with
  | .read => .next ((flRead s).2.emit (.word (flRead s).1))
  | .write v => .next (flWrite s v.toNat).2

/-- FL_CMD.ERASE, answered whether it was refused. -/
def flErase (s : State) : Bool × State :=
  if flashWritable s (flAddr s) then (false, startFlash s (.erase (flAddr s / 65536))) else (true, refuse s .flash)

def execErase (s : State) : Result := .next (flErase s).2

/-- FL_CMD.COMMIT, answered whether it was refused. -/
def flCommit (s : State) (seg : Nat) : Bool × State :=
  if flashWritable s fwBase then (false, startFlash s (.commit seg)) else (true, refuse s .flash)

def execFlCommit (seg : Fin 16) (s : State) : Result := .next (flCommit s seg).2

/-! ### Firmware images (R447 to R449) -/

/-- One entry of a manifest. -/
structure SegEntry where
  role : Nat
  ofs : Nat
  len : Nat
  digest : Nat
  clean : Bool
deriving DecidableEq, Repr

def manifestBytes : Nat := 912

/-- R447: the manifest in flash. -/
def manifest (s : State) : Bytes := flashRead s fwBase manifestBytes

def segEntry (m : Bytes) (i : Nat) : SegEntry :=
  let o := 16 + 48 * i
  { role := leAt m o 1, ofs := leAt m (o + 4) 4, len := leAt m (o + 8) 4, digest := beNat ((m.drop (o + 16)).take 32),
    clean := leAt m (o + 1) 3 == 0 && leAt m (o + 12) 4 == 0 }

def segCountOf (m : Bytes) : Nat := leAt m 10 2

def segEntries (m : Bytes) : List SegEntry := (List.range (segCountOf m)).map (segEntry m)

def imageVer (m : Bytes) : Nat := leAt m 12 4

/-- R447: a segment's place in the firmware region. -/
def segPlaced (e : SegEntry) : Bool :=
  decide (e.role ≤ 3) && e.clean && decide (0x10000 ≤ e.ofs) && decide (e.ofs + e.len ≤ userBase - fwBase)

/-- R447: MAGIC, VERSION and layout. -/
def layoutOk (m : Bytes) : Bool :=
  leAt m 0 4 == 0x4E414D5A && leAt m 4 2 == 1 && decide (1 ≤ segCountOf m) && decide (segCountOf m ≤ 16)
    && (segEntries m).all segPlaced && decide (((segEntries m).map (·.len)).sum ≤ 12 * 2 ^ 20)
    && leNat ((m.drop (16 + 48 * segCountOf m)).take (48 * (16 - segCountOf m))) == 0

/-- R448: segment `i`'s commit record (log 61). -/
def commitRecord (ver i : Nat) (e : SegEntry) : Bytes :=
  leBytes 4 0x54434D43 ++ leBytes 4 i ++ leBytes 4 ver ++ leBytes 4 e.len ++ beBytes 32 e.digest ++ zeros 16

def recordAddr (i : Nat) : Nat := fwBase + 0x1000 + 64 * i

/-- R448: every entry has its record. -/
def imageComplete (s : State) (m : Bytes) : Bool :=
  (segEntries m).zipIdx.all (fun e => flashRead s (recordAddr e.2) 64 == commitRecord (imageVer m) e.2 e.1)

/-- R449: the vendor key hashes to VENDOR_KEY_HASH. -/
def vendorKeyOk (m : Bytes) : Bool := shaNat ((m.drop 784).take 64) == Config.vendorKeyHash.toNat

/-- R449: the manifest's signature. -/
def manifestSigned (m : Bytes) : Bool := signedBy ((m.drop 784).take 64) ((m.drop 848).take 64) (m.take 848)

/-- R445, R449: what is wrong with the image in flash, as BOOT_ERR says it; 0 for nothing. -/
def imageError (s : State) (m : Bytes) : Nat :=
  if !layoutOk m then 1
  else if !vendorKeyOk m then 2
  else if !manifestSigned m then 3
  else if leAt m 8 2 < s.trust.svnMin then 4
  else if !imageComplete s m then 5
  else 0

/-- A segment's bytes in flash. -/
def segBytes (s : State) (e : SegEntry) : Bytes := flashRead s (fwBase + e.ofs) e.len

/-- The image in flash as code memory holds it. -/
def loadImage (m : Bytes) : Image :=
  { iface := leAt m 6 2, svn := leAt m 8 2, ver := imageVer m,
    segs := (segEntries m).zipIdx.map (fun e => { idx := e.2, role := e.1.role, len := e.1.len, digest := e.1.digest }) }

def Image.bytes (x : Image) : Nat := (x.segs.map (·.len)).sum

/-- R450: the digest of the manifest. -/
def manifestDigest (m : Bytes) : Nat := shaNat m

/-- R445: every segment's digest is the manifest's. -/
def segmentsOk (s : State) (m : Bytes) : Bool := (segEntries m).all (fun e => shaNat (segBytes s e) == e.digest)

/-- R450: the segments of role `r` extend its register, common ones MR1. -/
def extendRole (s : State) (x : Image) (r kind : Nat) : State :=
  (x.segs.filter (fun e => e.role == r)).foldl (fun s e => extendMr s (if r = 3 then 1 else 2 + r) kind e.idx e.digest) s

/-! ### What a flash operation does (R446 to R448) -/

def putFlash (s : State) (a : Nat) (bs : Bytes) : State :=
  { s with trust := { s.trust with flash := bs.zipIdx.foldl (fun t e => t.put (a + e.2) e.1) s.trust.flash } }

def eraseSector (s : State) (k : Nat) : State :=
  { s with trust := { s.trust with flash := s.trust.flash.drop (fun a => a / 65536 == k),
                                   erased := if s.trust.erased.contains k then s.trust.erased else s.trust.erased ++ [k] } }

/-- R448: a new manifest erases the commit table. -/
def programWord (s : State) (a v : Nat) : State :=
  let s1 := putFlash s a (leBytes 4 v)
  if fwBase ≤ a ∧ a < fwBase + manifestBytes then putFlash s1 (recordAddr 0) (List.replicate 1024 Config.erasedByte) else s1

/-- R448: COMMIT reads the segment back; answers RESULT. A segment the manifest does not name is REFUSED. -/
def commitSegment (s : State) (i : Nat) : Nat × State :=
  let m := manifest s
  if segCountOf m ≤ i ∨ 16 ≤ i ∨ segPlaced (segEntry m i) = false then (2, s)
  else if shaNat (segBytes s (segEntry m i)) ≠ (segEntry m i).digest then (1, s)
  else (0, putFlash s (recordAddr i) (commitRecord (imageVer m) i (segEntry m i)))

def runFlash (s : State) (op : FlashOp) : Nat × State :=
  match op with
  | .erase k => (0, eraseSector s k)
  | .program a v => (0, programWord s a v)
  | .commit i => commitSegment s i

/-- `n` bytes of flash that a failed operation leaves open. -/
def spoilFlash (s : State) (a n : Nat) : State := let (v, s1) := s.draw; putFlash s1 a (leBytes n v)

/-- FL_STAT.RESULT 3: an operation fails. The bytes it would have written are open (log 8); a sector not erased is not known
to be (log 59). -/
def failFlash (s : State) (op : FlashOp) : State :=
  match op with
  | .erase k => { s with trust := { s.trust with flash := s.trust.flash.drop (fun a => a / 65536 == k),
                                                 erased := s.trust.erased.filter (· != k) } }
  | .program a _ => spoilFlash s a 4
  | .commit i => spoilFlash s (recordAddr i) 64

/-- FL_DONE: the operation ends with its RESULT; `failed` tells that the flash could not do it. -/
def flashDone (s : State) (op : FlashOp) (failed : Bool) : State :=
  let r := if failed then (3, failFlash s op) else runFlash s op
  let s1 := ((r.2.wr Reg.FL_STAT_BUSY 0).wr Reg.FL_STAT_RESULT r.1)
  raise { s1 with trust := { s1.trust with op := none } } Ev.flash_FL_DONE

def execFlDone (failed : Bool) (s : State) : Result :=
  match s.trust.op with
  | some op => .next (flashDone s op failed)
  | none => .next s

/-! ### Live replacement (R455) -/

/-- PHASE changes. -/
def setPhase (s : State) (p : Nat) : State :=
  if s.rd Reg.FW_STAT_PHASE = p then s else raise (s.wr Reg.FW_STAT_PHASE p) Ev.flash_FW_PHASE

/-- R455: RESULT of the checks of STAGE: 0 when the image can be staged (log 62). -/
def stageResult (s : State) (m : Bytes) : Nat :=
  match imageError s m with
  | 0 =>
    if leAt m 6 2 ≠ s.trust.running.iface then 5
    else if Config.codeMemory < s.trust.running.bytes + (loadImage m).bytes then 6
    else if !segmentsOk s m then 1 else 0
  | 2 => 4
  | 3 => 4
  | 5 => 7
  | _ => 2

/-- FW_CMD.STAGE, answered whether it was refused: not while the flash is busy or a swap runs. -/
def stageImage (s : State) : Bool × State :=
  let m := manifest s
  let r := stageResult s m
  if flashBusy s ∨ s.rd Reg.FW_STAT_PHASE = 2 then (true, refuse s .flash)
  else if r ≠ 0 then (false, s.wr Reg.FL_STAT_RESULT r)
  else
    let s1 := extendMr (s.wr Reg.FL_STAT_RESULT 0) 1 3 0 (manifestDigest m)
    let s2 := { s1 with trust := { s1.trust with staged := some (loadImage m), swapRole := 0 } }
    (false, setPhase (s2.wr Reg.FW_STAT_STAGED_VER (imageVer m % 65536)) 1)

def execStage (s : State) : Result := .next (stageImage s).2

/-- R404: the core that stands by. -/
def standbyCore (s : State) : Option Nat :=
  (List.range 4).find? (fun c => s.rd Reg.CORE_STAT_ROLE c == 3 && s.rd Reg.CORE_STAT_STATE c != 4)

def coreOfRole (s : State) (r : Nat) : Option Nat := (List.range 4).find? (fun c => s.rd Reg.CORE_STAT_ROLE c == r)

/-- R455: the standby core begins to take the next role. -/
def beginHandOver (s : State) : State :=
  match standbyCore s with
  | some c => s.wr Reg.CORE_STAT_STATE 3 c
  | none => s

/-- FW_CMD.SWAP, answered whether it was refused: STAGED or STOPPED, with a standby core. -/
def swapImage (s : State) : Bool × State :=
  let p := s.rd Reg.FW_STAT_PHASE
  if (p = 1 ∨ p = 4) ∧ (standbyCore s).isSome = true ∧ s.trust.staged.isSome = true then
    (false, beginHandOver (setPhase s 2))
  else (true, refuse s .flash)

def execSwap (s : State) : Result := .next (swapImage s).2

/-- R455: core `c` runs version `v` in role `r`. -/
def coreRuns (s : State) (c r v : Nat) : State :=
  ((s.wr Reg.CORE_STAT_ROLE r c).wr Reg.CORE_STAT_STATE 1 c).wr Reg.CORE_STAT_VERSION (v % 65536) c

/-- R396, R455: the event sources of `old` go to `new`. -/
def moveCore (s : State) (old new : Nat) : State :=
  writeCoreEn s (Nat.lor (setBits (s.rd Reg.EC_CORE_CORE_EN) old 1 0) (2 ^ new))

/-- R455: the last hand-over is done: the freed core stands by on the new common segments, and the old version goes. -/
def endSwap (s : State) (x : Image) (freed : Nat) : State :=
  let s1 := coreRuns (extendRole s x 3 5) freed 3 x.ver
  let s2 := { s1 with trust := { s1.trust with running := x, staged := none, swapRole := 0 } }
  setPhase ((s2.wr Reg.FW_STAT_MIXED 0).wr Reg.SEC_SVN_SVN_RUN x.svn) 3

/-- R455: the role's new segments start on the standby core, and the role changes hands. -/
def handOverRole (s : State) (x : Image) (sb old : Nat) : State :=
  let r := s.trust.swapRole
  let s1 := moveCore (extendRole s x r 5) old sb
  let s2 := raise (coreRuns s1 sb r x.ver) Ev.core_HANDOVER_DONE sb
  if r = 2 then endSwap s2 x old
  else
    let s3 := (s2.wr Reg.CORE_STAT_ROLE 3 old).wr Reg.FW_STAT_MIXED 1
    let s4 := { s3 with trust := { s3.trust with swapRole := r + 1 } }
    if s4.islandsRun then beginHandOver s4 else s4

/-- R455: a hand-over in progress completes at any time, the next one begins only while no haul-down stands. -/
def canHandOver (s : State) (sb : Nat) : Bool :=
  s.rd Reg.FW_STAT_PHASE == 2 && (s.rd Reg.CORE_STAT_STATE sb == 3 || s.islandsRun)

def execHandoverDone (s : State) : Result :=
  match standbyCore s, coreOfRole s s.trust.swapRole, s.trust.staged with
  | some sb, some old, some x => whenOk (canHandOver s sb) s (handOverRole s x sb old)
  | _, _, _ => .next s

end Sys2Proof.Machine
end

