-- ==== Sys2Proof/Machine/Repairs.lean ====
section
/-! DEFINITION. Repairs in the factory record (16 R456), and what a device reset and a loss of power leave (16 R442, 17 R461). -/

namespace Sys2Proof.Machine

/-! ### Repairs (R456) -/

/-- The register fields that tell repairs, with the number of pages that hold them. -/
def repairFields : List (Fld × Nat) :=
  [(Reg.PC_MAP_PHYS, 16), (Reg.PC_REC_ST_STATE, 16), (Reg.MIG_STAT_BALLAST_USED, 16), (Reg.TRN_KMAP_SLOT, 8),
   (Reg.TRN_BALLAST_SLOT, 8), (Reg.TRN_BALLAST_USED, 8), (Reg.TRN_KSTAT_FAILED, 8), (Reg.KITE_STATE_STATE, 136),
   (Reg.SP_SPARE_SPARE_USED, 136), (Reg.SPOOL_SPARE_SPARE_USED, 8), (Reg.SPOOL_SPARE_WAY_DISABLED, 8),
   (Reg.LANE_REC_ST_STATE, 32), (Reg.LANE_BALLAST_BALLAST_USED, 32), (Reg.LANE_BALLAST_PHYS, 32)]

/-- The keys of a field on `n` pages. -/
def fieldKeys (f : Fld) (n : Nat) : List Nat :=
  (List.range n).flatMap (fun inst => (List.range f.count).map (fun i => f.key inst i))

/-- The words of a table at some keys. -/
def pickKeys (t : Table Nat) (ks : List Nat) : Table Nat := t.filter (fun e => ks.contains e.1)

/-- R456: the repairs as they stand. -/
def repairsNow (s : State) : Repairs :=
  { regs := pickKeys s.regs (repairFields.flatMap (fun e => fieldKeys e.1 e.2)),
    remap := s.mem.stackTab.map (fun e => (e.1, e.2.remap)),
    xlat := s.mem.stackTab.map (fun e => (e.1, e.2.xlat.putAll e.2.xlatShadow)),
    badSpares := s.mem.stackTab.map (fun e => (e.1, e.2.badSpares)),
    deadReserve := s.mem.stackTab.map (fun e => (e.1, e.2.deadReserve)),
    sram := s.mem.sramUsed, spares := s.kites.map (fun e => (e.1, e.2.spares)),
    lanes := s.fab.lines.map (fun e => (e.1, e.2.laneMap)) }

/-- R456: the factory record's repairs: each was appended as it happened. -/
def factoryNow (s : State) : Repairs := if s.trust.restored then repairsNow s else s.trust.factory

/-- R456: a slot is FAILED as recorded, a spare when no logical kite maps to it, otherwise IDLE. -/
def settleSlot (s : State) (n : Nat) : State :=
  if s.rd Reg.KITE_STATE_STATE n = 8 then s.setHdr .kiteCtl n { s.hdr .kiteCtl n with failed := true }
  else s.wr Reg.KITE_STATE_STATE (if (s.logicalOf n).isSome then 1 else 7) n

/-- R456: a channel is FAILED as recorded, ACTIVE when the map names it, otherwise BALLAST. -/
def settleChannel (s : State) (k p : Nat) : State :=
  match (List.range 31).find? (fun l => s.ppc k l == p) with
  | some l =>
    let s1 := s.wr Reg.PC_REC_ST_LOGICAL l k p
    if s.rd Reg.PC_REC_ST_STATE k p = 5 then s1 else s1.wr Reg.PC_REC_ST_STATE 0 k p
  | none => if s.rd Reg.PC_REC_ST_STATE k p = 5 then s else s.wr Reg.PC_REC_ST_STATE 1 k p

/-- R49, R456: a slot's rows in use, with SPARE_LOW where a bank has 4 or fewer left. -/
def restoreSpares (s : State) (n : Nat) (used : Table Nat) : State :=
  let s1 := s.setKite n { s.kite n with spares := used }
  if used.any (fun e => decide (bankSpares ≤ e.2 + 4)) then raise s1 Ev.kiteCtl_SPARE_LOW n else s1

/-- R405, R456: the spare rows that SRAM macros use. -/
def restoreSram (s : State) (used : Table Nat) : State := { s with mem := { s.mem with sramUsed := used } }

/-- R456: the tables of stacks, kites, SRAM macros and lines. -/
def restoreTables (s : State) (r : Repairs) : State :=
  let s1 := r.remap.foldl (fun s e => s.setStack e.1 { s.stack e.1 with remap := e.2 }) s
  let s2 := r.xlat.foldl (fun s e => s.setStack e.1 { s.stack e.1 with xlat := e.2 }) s1
  let s3 := r.badSpares.foldl (fun s e => s.setStack e.1 { s.stack e.1 with badSpares := e.2 }) s2
  let s4 := r.deadReserve.foldl (fun s e => s.setStack e.1 { s.stack e.1 with deadReserve := e.2 }) s3
  let s5 := r.spares.foldl (fun s e => restoreSpares s e.1 e.2) (restoreSram s4 r.sram)
  r.lanes.foldl (fun s e => s.setLine e.1 { s.line e.1 with laneMap := e.2 }) s5

/-- R456: the registers of the factory record. -/
def restoreRegs (s : State) : State := { s with regs := s.regs.putAll s.trust.factory.regs }

/-- R456: what the restored tables make of the kites and channels. -/
def settleAll (s : State) : State :=
  (List.range 16).foldl (fun s k => showRepairs ((List.range 32).foldl (fun s p => settleChannel s k p) s) k)
    ((List.range 136).foldl settleSlot s)

def setRestored (s : State) : State := { s with trust := { s.trust with restored := true } }

/-- R456: stage 4 restores all repairs. -/
def restoreRepairs (s : State) : State := setRestored (settleAll (restoreTables (restoreRegs s) s.trust.factory))

/-! ### What a reset leaves (R442, R461) -/

/-- R442: fuses and flash. -/
def keptTrust (s : State) : Trust :=
  { flash := s.trust.flash, erased := s.trust.erased, svnMin := s.trust.svnMin, userKey := s.trust.userKey,
    factory := factoryNow s, svcHeads := s.trust.svcHeads }

/-- R442, R461: nothing but fuses and flash, with the commands that wait and what has been sent. -/
def bareState (s : State) : State :=
  { pending := s.pending, out := s.out, fresh := s.fresh, trust := keptTrust s, recov := { svc := s.recov.svc } }

/-- R461: the rails are gone. -/
def offState (s : State) : State := { bareState s with pwr := { enabled := false, rails := false } }

end Sys2Proof.Machine
end

