-- ==== Sys2Proof/Machine/Cores.lean ====
section
/-! DEFINITION. Management cores that fail (14 R404), regulator phases (14 R406, 17 R465), the power and thermal loops
(17 R460 to R466), the reference clock, boundary scan, and the service hours (14 R417, 16 R456). -/

namespace Sys2Proof.Machine

/-! ### Core failures (R404) -/

/-- R404: a surviving core. -/
def survivingCore (s : State) (c : Nat) : Option Nat :=
  (List.range 4).find? (fun d => d != c && s.rd Reg.CORE_STAT_STATE d != 4)

/-- R404: core `c` is out: cleared from CORE_EN, FAILED. -/
def retireCore (s : State) (c : Nat) : State :=
  let s1 := writeCoreEn s (setBits (s.rd Reg.EC_CORE_CORE_EN) c 1 0)
  let s2 := (s1.wr Reg.CORE_STAT_ROLE 15 c).wr Reg.CORE_STAT_STATE 4 c
  raise (s2.setHdr .core c { s2.hdr .core c with failed := true }) Ev.core_CORE_FAILED c

/-- R404: the roles core `c` holds. -/
def rolesOf (s : State) (c : Nat) : List Nat :=
  (if s.rd Reg.CORE_STAT_ROLE c ≤ 2 then [s.rd Reg.CORE_STAT_ROLE c] else [])
    ++ (s.recov.role.toList.filter (fun e => e.1 == c)).map Prod.snd
    ++ (s.recov.joined.filter (fun e => e.1 == c)).map Prod.snd

/-- R404: the standby core `sb` starts to take the first of the roles. -/
def beginTakeover (s : State) (sb r ver : Nat) : State :=
  let s1 := (s.wr Reg.CORE_STAT_STATE 2 sb).wr Reg.CORE_STAT_VERSION ver sb
  { s1 with recov := { s1.recov with role := some (sb, r) } }

/-- R404: without a standby the roles join the lowest-numbered surviving core's, once; then the rank is handed over. -/
def joinRoles (s : State) (c : Nat) (rs : List Nat) : State :=
  match survivingCore s c with
  | some d =>
    if s.recov.joined = [] then { s with recov := { s.recov with joined := rs.map (fun r => (d, r)) } }
    else handOver { s with recov := { s.recov with joined := s.recov.joined.filter (fun e => e.1 != c) ++ rs.map (fun r => (d, r)) } }
  | none => handOver s

/-- R455: a swap that no standby is left for stops. -/
def stopSwap (s : State) : State :=
  if s.rd Reg.FW_STAT_PHASE = 2 ∧ (s.recov.role.isSome = true ∨ standbyCore s = none) then setPhase s 4 else s

/-- R404: core `c` fails. -/
def coreFails (s : State) (c : Nat) : State :=
  let rs := rolesOf s c
  let ver := s.rd Reg.CORE_STAT_VERSION c
  let s1 := retireCore s c
  let s2 := { s1 with recov := { s1.recov with role := s1.recov.role.filter (fun e => e.1 != c) } }
  let s3 := match rs, standbyCore s2 with
    | [], _ => s2
    | r :: _, some sb => if s2.recov.role.isSome then joinRoles s2 c rs else beginTakeover s2 sb r ver
    | rs, none => joinRoles s2 c rs
  stopSwap s3

def execCoreFailure (c : Core) (s : State) : Result := whenOk (s.rd Reg.CORE_STAT_STATE c != 4) s (coreFails s c)

/-- R404, R417: the standby has taken the role. -/
def takeRole (s : State) (sb r : Nat) : State :=
  let s1 := (s.wr Reg.CORE_STAT_ROLE r sb).wr Reg.CORE_STAT_STATE 1 sb
  let s2 := writeCoreEn s1 (Nat.lor (s1.rd Reg.EC_CORE_CORE_EN) (2 ^ sb))
  svcAppend (raise { s2 with recov := { s2.recov with role := none } } Ev.core_HANDOVER_DONE sb) 7 .core 0 sb

def execRoleTakeover (s : State) : Result :=
  match s.recov.role with
  | some (sb, r) => .next (takeRole s sb r)
  | none => .next s

/-! ### Regulator phases (R406, R465) -/

/-- R465: the cap in force with `k` phases shed. -/
def effCap (s : State) (k : Nat) : Nat :=
  if k < 3 then s.rd Reg.PWR_CAPS_PWR_CAP else min (s.rd Reg.PWR_CAPS_PWR_CAP) (2400 - (k - 2) * 109)

/-- PHASES.EFF_CAP follows PWR_CAP and the phases shed. -/
def showCap (s : State) : State := s.wr Reg.PHASES_EFF_CAP (effCap s (s.rd Reg.PHASES_SHED))

/-- R406, R417: a phase is shed. -/
def shedPhase (s : State) : State :=
  let k := s.rd Reg.PHASES_SHED + 1
  let s1 := showCap (s.wr Reg.PHASES_SHED k)
  let s2 := if 2 ≤ k then s1.wr Reg.THERM_STAT_PEAK_LAPSED 1 else s1
  svcAppend (raise s2 Ev.thermal_PHASE_SHED) 8 .thermal 0 k

def execPhaseShed (s : State) : Result := whenOk (decide (s.rd Reg.PHASES_SHED < s.rd Reg.PHASES_TOTAL)) s (shedPhase s)

/-! ### The kite clock (R463, R464, R466) -/

/-- 01 KITE_CLK: THROTTLED changes on every kite when the clock leaves 1,500 MHz or comes back to it. -/
def throttleEdges (s : State) (old new : Nat) : State :=
  if decide (old < 1500) = decide (new < 1500) then s
  else (List.range 136).foldl (fun s n => raise s Ev.kiteCtl_THROTTLE n) s

/-- R464: the clock in force is the lower of the two demands. -/
def settleClock (s : State) : State :=
  let f := min s.pwr.powerClk s.pwr.thermClk
  let cause := ofBool (decide (s.pwr.powerClk < 1500)) + 2 * ofBool (decide (s.pwr.thermClk < 1500))
  let s1 := throttleEdges ((s.wr Reg.CLK_KITE_FREQ_MHZ f).wr Reg.CLK_KITE_CAUSE cause) (s.rd Reg.CLK_KITE_FREQ_MHZ) f
  if s.rd Reg.CLK_KITE_FREQ_MHZ = f then s1 else raise s1 Ev.clocks_CLK_CHANGE

/-- A demand bit rises or falls, with its event on the rise. -/
def setDemand (s : State) (f : Fld) (e : Evt) (on : Bool) : State :=
  if on && s.rd f == 0 then raise (s.wr f 1) e else s.wr f (ofBool on)

def stepDown (f : Nat) : Nat := max 750 (f - 25)

def stepUp (f : Nat) : Nat := min 1500 (f + 25)

/-- R463, R465: the peak cap in force. -/
def peakCap (s : State) : Nat :=
  if s.rd Reg.THERM_STAT_PEAK_LAPSED = 1 then s.rd Reg.PHASES_EFF_CAP else s.rd Reg.PWR_CAPS_PEAK_CAP

/-- R463: the readings with a new one: the last 1,000 make the 100 ms average. -/
def addReading (l : List Nat) (w : Nat) : List Nat := (w :: l).take 1000

def meanOf (l : List Nat) : Nat := l.sum / l.length

/-- R463: some condition asks for a lower clock; `above` counts evaluations with the 100 µs average above the cap. -/
def overCap (s : State) (avg w above : Nat) : Bool :=
  decide (s.rd Reg.PHASES_EFF_CAP < avg) || decide (peakCap s < w) || decide (100 ≤ above)

/-- R463: the clock that power allows, and the evaluations with room in a row. -/
def powerStep (s : State) (avg w above : Nat) : Nat × Nat :=
  if overCap s avg w above then (stepDown s.pwr.powerClk, 0)
  else if avg + 50 ≤ s.rd Reg.PHASES_EFF_CAP then
    if s.pwr.room + 1 = 10 then (stepUp s.pwr.powerClk, 0) else (s.pwr.powerClk, s.pwr.room + 1)
  else (s.pwr.powerClk, 0)

/-- PWR_IN shows a reading; VIN_LOW when the input falls below 50.0 V. -/
def showInput (s : State) (vin iin : Nat) : State :=
  let s1 := (s.wr Reg.PWR_IN_VIN vin).wr Reg.PWR_IN_IIN iin
  if vin < 5000 ∧ (5000 ≤ s.rd Reg.PWR_IN_VIN ∨ s.pwr.readings = []) then raise s1 Ev.thermal_VIN_LOW else s1

/-- R463, R464: one evaluation of the power loop. -/
def powerEval (s : State) (vin iin w : Nat) : State :=
  let rs := addReading s.pwr.readings w
  let avg := meanOf rs
  let s1 := showCap (showInput s vin iin)
  let above := if s1.rd Reg.PHASES_EFF_CAP < w then s.pwr.above + 1 else 0
  let p := powerStep s1 avg w above
  let s2 := (s1.wr Reg.PWR_AVG_AVG_100MS (min 65535 avg)).wr Reg.PWR_AVG_AVG_100US (min 65535 w)
  let s3 := { s2 with pwr := { s2.pwr with readings := rs, above := above, room := p.2, powerClk := p.1 } }
  settleClock (setDemand s3 Reg.THERM_STAT_PWR_LIMIT Ev.thermal_PWR_LIMIT (p.1 < 1500))

/-- R461 step 4: an input above 60 V removes every rail. -/
def execPowerEval (vin : Nat) (iin : Nat) (watts : Nat) (s : State) : Result :=
  whenOk s.pwr.rails s (if 6000 < vin then offState s else powerEval s vin iin watts)

/-- R458: the levels of the output pins PWR_GOOD and MOD_HOT_N. -/
def pinPwrGood (s : State) : Bool := s.pwr.rails

def pinModHotN (s : State) : Bool := s.rd Reg.THERM_STAT_THERM_LIMIT == 0 && s.rd Reg.THERM_STAT_COOL_HOT == 0

/-- R466: the clock that the die's temperature allows, and the readings below the lower mark in a row. -/
def thermStep (s : State) (die : Int) : Nat × Nat :=
  let lim : Int := s.rd Reg.THERM_DIE_THROTTLE
  if lim + 10 ≤ die then (750, 0)
  else if lim ≤ die then (stepDown s.pwr.thermClk, 0)
  else if die < lim - 5 then
    if s.pwr.cool + 1 = 10 then (stepUp s.pwr.thermClk, 0) else (s.pwr.thermClk, s.pwr.cool + 1)
  else (s.pwr.thermClk, 0)

/-- R466: a reading of the sensors; at 120 °C the rails are removed until PWR_EN rises anew. -/
def thermalEval (s : State) (die coolIn coolOut : BitVec 8) : State :=
  if 120 ≤ die.toInt then offState s
  else
    let p := thermStep s die.toInt
    let s1 := ((s.wr Reg.THERM_DIE_MAX die.toNat).wr Reg.THERM_COOL_IN coolIn.toNat).wr Reg.THERM_COOL_OUT coolOut.toNat
    let s2 := { s1 with pwr := { s1.pwr with thermClk := p.1, cool := p.2 } }
    let s3 := setDemand s2 Reg.THERM_STAT_THERM_LIMIT Ev.thermal_THERM_LIMIT (p.1 < 1500)
    settleClock (setDemand s3 Reg.THERM_STAT_COOL_HOT Ev.thermal_COOL_HOT (40 < coolIn.toInt))

def execThermalEval (die coolIn coolOut : BitVec 8) (s : State) : Result :=
  whenOk s.pwr.rails s (thermalEval s die coolIn coolOut)

/-! ### Reference clock (R460) -/

/-- R460: REFCLK is lost for 10 µs. -/
def refLost (s : State) : State :=
  if s.rd Reg.CLK_REF_REF_OK = 0 then s
  else unlockTime (raise (s.wr Reg.CLK_REF_REF_OK 0) Ev.clocks_REF_LOST)

def execRefLost (s : State) : Result := .next (refLost s)

def execRefReturn (s : State) : Result := .next (s.wr Reg.CLK_REF_REF_OK 1)

/-! ### Boundary scan (R462) -/

/-- R462: EXTEST is accepted only while PWR_EN is low; every other instruction of the TAP acts on no state of the device. -/
def tapAccepts (s : State) (i : TapInstr) : TapInstr :=
  match i with
  | .extest => if s.pwr.enabled then .bypass else .extest
  | .other => .bypass
  | x => x

def tapCode (i : TapInstr) : Nat :=
  match i with
  | .bypass => 0
  | .idcode => 1
  | .sample => 2
  | .extest => 3
  | .other => 0

def execBoundaryScan (ir : TapInstr) (s : State) : Result := .next (s.emit (.word (tapCode (tapAccepts s ir))))

/-! ### Service hours (R417, R456) -/

/-- R417: any stack stood in band 2 or above. -/
def wearHot (s : State) : Bool := s.recov.hot || (List.range 16).any (fun k => decide (2 ≤ s.rd Reg.STK_TEMP_BAND k))

/-- R456: the hourly header copy; the older of the two is replaced. -/
def writeSvcHead (s : State) : State :=
  let h := (s.rd Reg.SVC_HOURS_COUNT, s.rd Reg.WEAR_HOT_COUNT, s.recov.svc.length)
  { s with trust := { s.trust with svcHeads := (h :: s.trust.svcHeads).take 2 }, recov := { s.recov with hot := false } }

def serviceHour (s : State) : State :=
  let s1 := s.wr Reg.SVC_HOURS_COUNT (min (2 ^ 32 - 1) (s.rd Reg.SVC_HOURS_COUNT + 1))
  writeSvcHead (if wearHot s then s1.wr Reg.WEAR_HOT_COUNT (min (2 ^ 32 - 1) (s.rd Reg.WEAR_HOT_COUNT + 1)) else s1)

def execServiceHour (s : State) : Result := .next (serviceHour s)

end Sys2Proof.Machine
end

