-- ==== Sys2Proof/Machine/Boot.lean ====
section
/-! DEFINITION. The user defaults image (12 R383), resets (16 R442, R443), power (17 R461) and the start-up sequence
(16 R444, R445). -/

namespace Sys2Proof.Machine

/-! ### The user defaults image (R383) -/

/-- One record of the image. -/
structure UserRecord where
  addr : Nat
  value : Nat
  mask : Nat
deriving DecidableEq, Repr

def userHeader (s : State) : Bytes := flashRead s userBase 32

def userCount (h : Bytes) : Nat := leAt h 6 2

def userSigned (h : Bytes) : Bool := bit (leAt h 8 4) 0

/-- The bytes up to the end of the records, and the whole image. -/
def userBody (s : State) : Bytes := flashRead s userBase (32 + 12 * min 1024 (userCount (userHeader s)))

def userImage (s : State) : Bytes :=
  flashRead s userBase (32 + 12 * min 1024 (userCount (userHeader s)) + if userSigned (userHeader s) then 128 else 0)

/-- R383 step 1: MAGIC, VERSION, format and CRC. -/
def userFormatOk (s : State) : Bool :=
  let h := userHeader s
  let b := userImage s
  leAt h 0 4 == 0x4946445A && leAt h 4 2 == 1 && decide (userCount h ≤ 1024) && decide (leAt h 8 4 ≤ 1)
    && leNat (h.drop 16) == 0 && crc32 (b.take 12 ++ zeros 4 ++ b.drop 16) == leAt h 12 4

/-- R383 steps 1 and 2: DFI_STAT.STATE: 1 applied, 2 to 4 discarded. -/
def userState (s : State) : Nat :=
  if !userFormatOk s then 2
  else match s.trust.userKey with
    | none => 1
    | some k =>
      let tail := (userImage s).drop (userBody s).length
      if !userSigned (userHeader s) then 4
      else if shaNat (tail.take 64) ≠ k ∨ signedBy (tail.take 64) (tail.drop 64) (userBody s) = false then 3 else 1

def userRecord (s : State) (i : Nat) : UserRecord :=
  let b := flashRead s (userBase + 32 + 12 * i) 12
  { addr := leAt b 0 4, value := leAt b 4 4, mask := leAt b 8 4 }

/-- The bits of a word that a record may write: fields marked †, EVT_MASK among them. -/
def overridable (k : PageKind) (ofs : Nat) : Nat :=
  if ofs = 0x14 then 2 ^ 32 - 1
  else ((wordFields k ofs).map (fun e => if e.1.dagger then (2 ^ e.1.len - 1) * 2 ^ e.1.lo else 0)).sum

/-- The word as it stands, EVT_MASK among the header's. -/
def userOld (s : State) (p : Page) (ofs : Nat) : Nat :=
  if ofs = 0x14 then (s.hdr p.kind p.inst).mask.toNat else s.liveReg p ofs

/-- A record's word: (old and not MASK) or (VALUE and MASK). -/
def mergeWord (old value mask : Nat) : Nat :=
  Nat.lor (Nat.land old (2 ^ 32 - 1 - mask % 2 ^ 32)) (Nat.land value mask)

/-- R383 step 5: why a record is refused: 0 not, 1 unaligned or unmapped, 2 not overridable, 3 value refused. -/
def userRefusal (s : State) (r : UserRecord) : Nat :=
  match pageOf s.slotOf r.addr with
  | none => 1
  | some p =>
    let ofs := r.addr % 4096
    if r.addr % 4 ≠ 0 then 1
    else if Nat.lor r.mask (overridable p.kind ofs) ≠ overridable p.kind ofs then 2
    else
      let j := judgeWord s p ofs (mergeWord (userOld s p ofs) r.value r.mask)
      if j.whole || j.partly then 3 else 0

/-- A field given one value in live and shadow banks alike. -/
def bothBanks (s : State) (p : Page) (e : Fld × Nat × Nat) : State :=
  let s1 := s.wr e.1 e.2.2 p.inst e.2.1
  gateOpens { s1 with shadow := s1.shadow.erase (e.1.key p.inst e.2.1) } e.1 e.2.2 p.inst

/-- R383 step 4, 04 R173: a record applies; one that writes UFW_EN as 0 turns the watch off. -/
def applyUser (s : State) (r : UserRecord) : State :=
  match pageOf s.slotOf r.addr with
  | none => s
  | some p =>
    let ofs := r.addr % 4096
    let w := mergeWord (userOld s p ofs) r.value r.mask
    if ofs = 0x14 then s.setHdr p.kind p.inst { s.hdr p.kind p.inst with mask := BitVec.ofNat 32 w }
    else
      let s1 := (judgeWord s p ofs w).stored.foldl (fun s e => bothBanks s p e) s
      if p.kind = .governor ∧ ofs = 0x54 ∧ bit r.mask 31 ∧ !bit w 31 then watchOff s1 else s1

/-- DFI_OK and the counts of DFI_STAT follow one record. -/
def noteUser (s : State) (i why : Nat) : State :=
  if why = 0 then
    (s.wr Reg.DFI_OK_APPLIED (s.rd Reg.DFI_OK_APPLIED 0 (i / 32) + 2 ^ (i % 32)) 0 (i / 32)).wr Reg.DFI_STAT_APPLIED
      (s.rd Reg.DFI_STAT_APPLIED + 1)
  else
    let s1 := s.wr Reg.DFI_STAT_REFUSED (s.rd Reg.DFI_STAT_REFUSED + 1)
    if s.rd Reg.DFI_FIRST_REF_REASON = 0 then (s1.wr Reg.DFI_FIRST_REF_REASON why).wr Reg.DFI_FIRST_REF_RECORD i else s1

def userStep (s : State) (i : Nat) : State :=
  let r := userRecord s i
  let why := userRefusal s r
  let s1 := if why = 0 then applyUser s r else s
  let s2 := if why = 0 then { s1 with trust := { s1.trust with applied := s1.trust.applied ++ [(r.addr, r.value, r.mask)] } }
    else s1
  noteUser s2 i why

/-- R383, R450: the image at start-up, and MR5. -/
def applyImage (s : State) : State :=
  let st := userState s
  let s1 := s.wr Reg.DFI_STAT_STATE st
  if st = 1 then extendMr ((List.range (userCount (userHeader s))).foldl userStep s1) 5 6 0 (shaNat (userImage s))
  else extendMr s1 5 6 0 0

/-! ### Resets and power (R442, R443, R461) -/

/-- STEP_STAT.STATE as it reads: HALTED while a haul-down stops a plan (15 R431). -/
def shownStep (s : State) : Nat :=
  if 2 ≤ s.rd Reg.HD_STAT_STATE ∧ s.planRuns = true then 5 else s.rd Reg.STEP_STAT_STATE

/-- R443: 1 ms. -/
def resetDelay : Nat := 1000000

/-- DEV_RST.RESET, answered whether it was refused; `side` tells that it came over the sideband. -/
def resetCommand (s : State) (key : Nat) (side : Bool) : Bool × State :=
  if key ≠ burnKey ∨ (shownStep s ≠ 0 ∧ shownStep s ≠ 5) then (true, refuse s .devCtl)
  else if s.trust.resetAt.isSome then (false, s)
  else (false, { s with trust := { s.trust with resetAt := some (s.tick + resetDelay, if side then 2 else 1) } })

def execReset (key : BitVec 16) (sideband : Bool) (s : State) : Result := .next (resetCommand s key.toNat sideband).2

/-- R442: a device reset at tick `t` keeps the tick counter, with LOADED, fuses and flash. -/
def deviceReset (s : State) (t cause : Nat) : State :=
  let b := bareState s
  let n := max s.tick t
  let s1 := showFuses { b with tick := n, trust := { b.trust with since := n } }
  (s1.wr Reg.DEV_STAT_CAUSE cause).wr Reg.TB_SYNC_LOADED (s.rd Reg.TB_SYNC_LOADED)

def execDeviceReset (s : State) : Result :=
  match s.trust.resetAt with
  | some (t, c) => .next (deviceReset s t c)
  | none => .next s

/-- R461 step 2: PWR_EN rises. -/
def execPowerEnable (s : State) : Result := whenOk (!s.pwr.enabled) s { s with pwr := { s.pwr with enabled := true } }

/-- R442, R461 step 3: the power-on reset: the tick counter starts at 0. -/
def powerOn (s : State) : State := showFuses (bareState s)

def execPowerGood (s : State) : Result := whenOk (s.pwr.enabled && !s.pwr.rails) s (powerOn s)

/-- R461 step 4; power returns when PWR_EN rises anew (log 67). -/
def execPowerOff (s : State) : Result := .next (offState s)

/-! ### Start-up (R444, R445) -/

def bootStage (s : State) : Nat := s.rd Reg.DEV_STAT_STATE

/-- R445: recovery mode. -/
def enterRecovery (s : State) (err : Nat) : State :=
  let s1 := ((s.wr Reg.DEV_STAT_STATE 7).wr Reg.SEC_STAT_RECOVERY 1).wr Reg.SEC_STAT_BOOT_ERR err
  extendMr s1 0 9 0 (Config.recoveryDigest err).toNat

/-- R444 stage 1, R450, R460: fuses, MR0, and the reference clock that is present (log 65). -/
def romStage (s : State) : State :=
  let s1 := extendMr ((showFuses s).wr Reg.CLK_REF_REF_OK 1) 0 1 0 Config.romDigest.toNat
  let s2 := extendMr (s1.wr Reg.CLK_REF_PLL_LOCK 1) 0 2 0 (Config.fuseDigest s.trust.svnMin s.trust.userKey).toNat
  s2.wr Reg.DEV_STAT_STATE 1

def execRomStage (s : State) : Result := whenOk (s.pwr.rails && bootStage s == 0) s (romStage s)

/-- R444 stage 2, R449. -/
def verifyStage (s : State) : State :=
  let e := imageError s (manifest s)
  if e = 0 then
    (extendMr (s.wr Reg.SEC_SVN_SVN_RUN (leAt (manifest s) 8 2)) 1 3 0 (manifestDigest (manifest s))).wr Reg.DEV_STAT_STATE 2
  else enterRecovery s e

def execVerifyStage (s : State) : Result := whenOk (bootStage s == 1) s (verifyStage s)

/-- R444 stage 3: the roles start on cores 0 to 2, core 3 stands by. -/
def startCores (s : State) (v : Nat) : State := (List.range 4).foldl (fun s c => coreRuns s c c v) s

/-- R444 stage 3, R445: the segments are loaded; `parity` tells of a parity error in code memory. -/
def loadStage (s : State) (parity : Bool) : State :=
  if parity then enterRecovery s 7
  else if segmentsOk s (manifest s) then
    let x := loadImage (manifest s)
    let s1 := [0, 1, 2, 3].foldl (fun s r => extendRole s x r 4) s
    (startCores { s1 with trust := { s1.trust with running := x } } x.ver).wr Reg.DEV_STAT_STATE 3
  else enterRecovery s 6

def execLoadStage (parity : Bool) (s : State) : Result := whenOk (bootStage s == 2) s (loadStage s parity)

/-- R456: the newest header copy's hours. -/
def restoreHours (s : State) : State :=
  match s.trust.svcHeads with
  | h :: _ => (s.wr Reg.SVC_HOURS_COUNT h.1).wr Reg.WEAR_HOT_COUNT h.2.1
  | [] => s

/-- R444 stage 4; a device whose number the image gives may be the time base master (08 R288). -/
def configStage (s : State) : State :=
  settleMaster (restoreHours ((restoreRepairs (applyImage s)).wr Reg.DEV_STAT_STATE 4))

def execConfigStage (s : State) : Result := whenOk (bootStage s == 3) s (configStage s)

/-- R444 stage 5, 06 R222: each stack reports HPPR_STEPS, or 0. -/
def hbmStage (s : State) (hppr : List Nat) : State :=
  ((List.range 16).foldl (fun s k => s.wr Reg.HPPR_STEPS_COUNT (min 1023 (hppr.getD k 0)) k) s).wr Reg.DEV_STAT_STATE 5

def execHbmStage (hppr : List Nat) (s : State) : Result := whenOk (bootStage s == 4) s (hbmStage s hppr)

/-- R444 stage 7, 07 R232: READY; all pairs of the time bases have been measured at start-up. -/
def becomeReady (s : State) : State :=
  let s1 := (s.wr Reg.DEV_STAT_STATE 6).wr Reg.DEV_STAT_BOOT_MS (min 65535 ((s.tick - s.trust.since) / 1000000))
  raise (endMeasure s1) Ev.devCtl_DEV_READY

def execDevReady (s : State) : Result :=
  whenOk (bootStage s == 5 && s.rd Reg.FAB_STAT_DISC_STATE == 3) s (becomeReady s)

/-- R453: a health-test sample; 1,024 passes in a row clear RNG_FAIL. -/
def entropySample (s : State) (pass : Bool) : State :=
  if pass then
    let n := s.trust.passes + 1
    if n < 1024 then { s with trust := { s.trust with passes := n } }
    else ({ s with trust := { s.trust with passes := 0 } }).wr Reg.SEC_STAT_RNG_FAIL 0
  else
    let s1 := { s with trust := { s.trust with passes := 0 } }
    if s.rd Reg.SEC_STAT_RNG_FAIL = 1 then s1 else raise (s1.wr Reg.SEC_STAT_RNG_FAIL 1) Ev.security_RNG_FAIL

def execEntropySample (pass : Bool) (s : State) : Result := .next (entropySample s pass)

end Sys2Proof.Machine
end

