-- ==== Sys2Proof/Machine/HaulDown.lean ====
section
/-! DEFINITION. Haul-down (15 R427 to R441) and the trace rings (R423 to R426): cuts, captures, the dump, release, abandon,
and bursts of trace records. -/

namespace Sys2Proof.Machine

/-! ### HAUL (R427, R430) -/

/-- HD_CMD.HAUL. -/
def haulCommand (s : State) (fabric all : Bool) : State := haulTrigger s 0 0 fabric (fabric && all)

def execHaul (fabric : Bool) (all : Bool) (s : State) : Result := .next (haulCommand s fabric all)

/-- R430: the HAUL concerns this device. -/
def forThisRoot (s : State) (root : Nat) : Bool := root == s.sealRoot || root == 0xFFF

/-- R429: the cut tick. -/
def cutTick (s : State) : Nat := s.rd64 Reg.HD_CUT_LO Reg.HD_CUT_HI

/-- R429, R430: a HAUL accepted after its cut tick: LATE and LATE_CUTS, when its cut, 4 ticks on, takes effect. -/
def lateCut (before s : State) : State :=
  if before.rd Reg.HD_STAT_STATE = 0 ∨ (before.rd Reg.HD_STAT_STATE = 1 ∧ before.tick + 4 < cutTick before) then
    raise ((s.wr Reg.HD_STAT_LATE 1).bump Reg.LATE_CUTS_COUNT) Ev.haulDown_LATE_CUT
  else s

/-- R427, R430: a HAUL is accepted with CAUSE 2. -/
def acceptHaul (s : State) (t origin root : Nat) : State :=
  if s.tick ≤ t then haulAt s t 2 0 origin root true else lateCut s (haulAt s (s.tick + 4) 2 0 origin root true)

/-- R430: a HAUL is forwarded once, on every UP line but the one it came on, and acted on when it is for this root. -/
def takeHaul (s : State) (l t origin root cause : Nat) : State :=
  if s.hd.seen.contains (origin, t) then s
  else
    let s1 := (rememberHaul s origin t).flood (s.linesUp.filter (· != l)) (.haul t origin root cause)
    if forThisRoot s root then acceptHaul s1 t origin root else s1.bump Reg.HAUL_OTHER_COUNT

def execHaulMsg (l : LineNo) (t : Tick) (origin root : Dev) (cause : Fin 16) (s : State) : Result :=
  .next (takeHaul s l t origin root cause)

/-! ### The cut (R431 to R435) -/

/-- R434: after its last sequenced flit a sender sends CUT_MARKER with T and LAST_SEQ. -/
def sendMarker (s : State) (t l : Nat) : State :=
  queueLink s l 4 (leBytes 8 t ++ leBytes 2 (((s.line l).txSeq + 4095) % 4096))

/-- R434: the UP lines whose captures the cut opens. -/
def openCaptures (s : State) : State :=
  { s with hd := { s.hd with captures := s.linesUp.map (fun l => (l, none)) } }

/-- R431, R435: the cut tick `t`: every island stops. -/
def cutNow (s : State) (t : Nat) : State :=
  let s1 := ((s.passTo t).wr Reg.HD_STAT_STATE 2).bump Reg.HAULS_COUNT
  let s2 := traceAll (raise s1 Ev.haulDown_HAUL_CUT) 7 0x70 0 (s.rd Reg.HD_CAUSE_CAUSE) t
  scanIfClosed (openCaptures (s2.linesUp.foldl (fun s l => sendMarker s t l) s2))

def execHaulCut (s : State) : Result := whenOk (s.rd Reg.HD_STAT_STATE == 1) s (cutNow s (cutTick s))

/-- R434: a line's marker: its capture closes once every SEQ up to LAST_SEQ has been accepted. -/
def takeMarker (s : State) (l last : Nat) : State :=
  if (Table.find l s.hd.captures).isSome then
    closeIfReached { s with hd := { s.hd with captures := s.hd.captures.put l (some last) } } l
  else s

def execCutMarker (l : LineNo) (_t : Tick) (last : Fin 4096) (s : State) : Result := .next (takeMarker s l last)

/-- R435: a capture closes as it stands. -/
def timeOutCapture (s : State) (l : Nat) : State :=
  let s1 := s.wr Reg.HD_LINES_OPEN_LINES (Nat.lor (s.rd Reg.HD_LINES_OPEN_LINES) (2 ^ l))
  raise ((s1.wr Reg.HD_STAT_INCOMPLETE 1).bump Reg.MARK_TIMEOUTS_COUNT) Ev.haulDown_MARK_TIMEOUT

/-- R435: HD_MARK_TO µs after T. -/
def closeAll (s : State) : State :=
  let s1 := s.passTo (cutTick s + 1000 * s.rd Reg.HD_MARK_TO_US)
  let s2 := (s1.hd.captures.map Prod.fst).foldl timeOutCapture s1
  scanIfClosed { s2 with hd := { s2.hd with captures := [] } }

def execMarkTimeout (s : State) : Result :=
  whenOk (s.rd Reg.HD_STAT_STATE == 2 && s.hd.captures != []) s (closeAll s)

/-! ### The dump (R438) -/

/-- R437: the debug region. -/
def debugBase (s : State) : Nat := s.rd Reg.HD_DEBUG_BASE * 2 ^ 28

/-- R438: the scratchpad of a logical kite is copied byte for byte into a dump slot. -/
def copyDump (s : State) (k j : Nat) : State :=
  storeFor s .host (debugBase s + 96 * 2 ^ 20 + j * 2 ^ 23) (spBytes (s.kite (s.slotOf k)) 0 spTop) 0

/-- R438: GO is accepted. -/
def canDump (s : State) (v : Nat) : Bool :=
  s.rd Reg.HD_STAT_STATE == 4 && s.rd Reg.HD_STAT_DUMP_BUSY == 0 && decide (getBits v 16 5 ≤ 19)

/-- A write of HD_DUMP, answered whether it was refused. -/
def writeDump (s : State) (v : Nat) : Bool × State :=
  if bit v 0 then
    if canDump s v then
      let s1 := (plainWrite s ⟨.haulDown, 0⟩ 0x74 v).2
      (false, copyDump (s1.wr Reg.HD_STAT_DUMP_BUSY 1) (getBits v 8 7) (getBits v 16 5))
    else (true, refuse s .haulDown)
  else plainWrite s ⟨.haulDown, 0⟩ 0x74 v

def execHdDump (v : Word) (s : State) : Result := .next (writeDump s v.toNat).2

def execDumpDone (s : State) : Result :=
  whenOk (s.rd Reg.HD_STAT_DUMP_BUSY == 1) s (s.wr Reg.HD_STAT_DUMP_BUSY 0)

/-! ### Release (R439, R440) -/

/-- R439: the release tick comes too early. -/
def tooEarly (s : State) (r : Nat) (fabric : Bool) : Bool :=
  decide (r < s.tick + s.rd Reg.HD_CTL_LEAD_CHIP) || (fabric && decide (r < s.tick + s.rd Reg.HD_CTL_LEAD_FAB))

/-- R439: the last 16 RELEASEs seen. -/
def rememberRelease (s : State) (root r : Nat) : State :=
  { s with hd := { s.hd with released := (((root, r) :: s.hd.released).take 16) } }

/-- R439: the device resumes at `r`. -/
def setResume (s : State) (r : Nat) : State := { s.wr Reg.HD_STAT_STATE 5 with hd := { s.hd with resume := r } }

/-- HD_CMD.RELEASE, answered whether it was refused; the RELEASE carries the cut's ROOT (log 54). -/
def releaseCommand (s : State) (fabric : Bool) : Bool × State :=
  let r := s.rd64 Reg.HD_REL_LO Reg.HD_REL_HI
  if s.rd Reg.HD_STAT_STATE ≠ 4 ∨ s.rd Reg.HD_STAT_DUMP_BUSY = 1 ∨ tooEarly s r fabric then (true, refuse s .haulDown)
  else
    let s1 := setResume s r
    (false, if fabric then (rememberRelease s1 s.hd.root r).flood s1.linesUp (.releaseAt r s.hd.root) else s1)

def execRelease (fabric : Bool) (s : State) : Result := .next (releaseCommand s fabric).2

/-- R439: a RELEASE for this root; one after R resumes the device at once and counts. -/
def acceptRelease (s : State) (r : Nat) : State :=
  if s.rd Reg.HD_STAT_STATE ≠ 4 then s
  else if s.tick ≤ r then setResume s r
  else raise ((setResume s (s.tick + 4)).bump Reg.LATE_RELEASES_COUNT) Ev.haulDown_LATE_CUT

/-- R439: a RELEASE is forwarded as a HAUL is. -/
def takeRelease (s : State) (l r root : Nat) : State :=
  if s.hd.released.contains (root, r) then s
  else
    let s1 := (rememberRelease s root r).flood (s.linesUp.filter (· != l)) (.releaseAt r root)
    if forThisRoot s root then acceptRelease s1 r else s1

def execReleaseMsg (l : LineNo) (r : Tick) (root : Dev) (s : State) : Result := .next (takeRelease s l r root)

/-- R419, R440: an op under way has run `d` ticks less than its island's clock shows. -/
def OpRun.later (d : Nat) (r : OpRun) : OpRun := { r with start := r.start + d }

def OpCounters.later (d : Nat) (c : OpCounters) : OpCounters := { c with curStart := c.curStart.map (· + d) }

/-- R137, R419: the ticks a kite counts from leave out the halt. -/
def KiteState.later (d : Nat) (k : KiteState) : KiteState :=
  { k with arr := k.arr.map (·.later d), vec := k.vec.map (·.later d), port := k.port.map (·.later d),
           loader := k.loader.map (·.later d), opcArr := k.opcArr.later d, opcVec := k.opcVec.later d,
           cbfSince := k.cbfSince.map (· + d) }

/-- R309: the wait of a combine leaves out the halt. -/
def Winch.later (d : Nat) (w : Winch) : Winch := { w with waitSince := w.waitSince.map (· + d) }

/-- R440: what stands in the plan's and the partition's future moves later by the halt length; waits and runs under way leave
the halt out. -/
def shiftTicks (s : State) (d : Nat) : State :=
  let batches := s.sc.batches.map (fun b => { b with start := b.start + d, fin := b.fin + d })
  let x := s.step
  { s with step := { x with armed := x.armed.map (fun e => (e.1 + d, e.2)), replayAt := x.replayAt.map (· + d),
                            commitAt := x.commitAt.map (· + d), shift := x.shift + d },
           kites := s.kites.map (fun e => (e.1, e.2.later d)), winch := s.winch.map (fun e => (e.1, e.2.later d)),
           seqs := s.seqs.map (fun e => (e.1, { e.2 with run := e.2.run.map (·.later d) })),
           sc := { s.sc with batches := batches,
                             calendar := s.sc.calendar.map (fun v => if v.body.isNone then { v with v := v.v + d } else v) } }

/-- R435: the lines whose captures timed out are taken DOWN. -/
def dropOpenLines (s : State) : State :=
  (bitsOf 32 (s.rd Reg.HD_LINES_OPEN_LINES)).foldl (fun s l => lineGoesDown s l true) s

/-- R428: the STOP that a trip took the place of. -/
def heldStop (s : State) : State :=
  if s.hd.stopAtRelease then stopStep { s with hd := { s.hd with stopAtRelease := false } } else s

/-- R439, R440: the islands resume at tick `r`. -/
def resumeAt (s : State) (r : Nat) : State :=
  let s1 := shiftTicks (s.passTo r) (r - cutTick s)
  let s2 := (s1.wr Reg.HD_STAT_STATE 0).wr64 Reg.HD_RESUMED_LO Reg.HD_RESUMED_HI r
  let s3 := traceAll (raise s2 Ev.haulDown_RELEASED) 7 0x70 1 (s.rd Reg.HD_CAUSE_CAUSE) r
  heldStop (dropOpenLines s3)

def execReleaseTick (s : State) : Result := whenOk (s.rd Reg.HD_STAT_STATE == 5) s (resumeAt s s.hd.resume)

/-! ### ABANDON (R441) -/

/-- R441: slot `n` is idle and its faults are cleared. -/
def idleSlot (s : State) (n : Nat) : State :=
  let st := s.rd Reg.KITE_STATE_STATE n
  let s1 := s.setKite n { s.kite n with gates := [], streams := [], tileLive := none, tileNext := none, arr := [],
                                        vec := none, port := none, loader := none, cbfSince := none }
  let s2 := endStop (faultClear (discardEnvelope s1 n) n) n
  if 2 ≤ st ∧ st ≤ 4 then s2.wr Reg.KITE_STATE_STATE 1 n else s2

/-- R441: train `t`'s sequencers, winch and burner are idle and their faults are cleared. -/
def idleTrain (s : State) (t : Nat) : State :=
  let s1 := clearNan (clearWinchFault ((restartWinch s t).setSeq t 0 {}) t) t
  let s2 := (clearBurnFault s1 t).setBurner t { s1.burnerOf t with run := none, signals := [], active := false, rates := [] }
  ((s2.wr Reg.BN_STAT_BUSY 0 t).wr Reg.BN_STAT_PHASE 0 t).setSeq t 2 {}

/-- R441: the governor's phases end; its decisions of this step are dropped. -/
def idleGovernor (s : State) : State :=
  let s1 := ((s.wr Reg.GOV_STAT_STATS_PHASE 0).wr Reg.GOV_STAT_TABLE_PHASE 0).wr Reg.PT_PEND_PENDING 0
  s1.setGov { s1.gov with own := none, children := [], domain := none, before := none, evaluated := none, missing := [],
                          evalStep := none, lateSince := none }

/-- R441: no step runs and no plan is loaded. -/
def idlePlan (s : State) : State :=
  let s1 := (s.wr Reg.STEP_STAT_STATE 0).wr Reg.PLAN_STAT_STATE 0
  { s1 with plan := {}, step := { lastCommit := s1.step.lastCommit, commitAt := s1.step.commitAt } }

/-- R441: the batches under way end without scores, a weight load and a validation end, and the partition's fault register
clears. -/
def idlePartition (s : State) : State :=
  let s0 := s.sc.batches.foldl faultBatch s
  let s1 := { s0 with sc := { s0.sc with load := none, validating := none } }.wr Reg.SC_STAT_WL_BUSY 0 |>.wr Reg.SC_STAT_V_BUSY 0
  ((s1.wr Reg.SC_FAULT_KITE 0).wr Reg.SC_FAULT_SLOT 0).wr Reg.SC_FAULT_CODE 0

/-- R441: recoveries under way are over. -/
def idleRecovery (s : State) : State :=
  let s1 := repairSwaps s
  { s1 with recov := { s1.recov with ues := [], burnUes := [], dead := [], restores := [], pieces := [], stuck := false } }

/-- R441: ABANDON discards the cut. -/
def abandonCut (s : State) : State :=
  let s1 := (List.range 8).foldl idleTrain ((List.range 136).foldl idleSlot s)
  let s2 := idlePlan (idleGovernor (idlePartition (idleRecovery (dropTransfers s1))))
  let s3 := { s2 with hd := { s2.hd with captures := [], stopAtRelease := false } }
  dropOpenLines ((List.range 32).foldl restartLine (s3.wr Reg.HD_STAT_STATE 0))

/-- HD_CMD.ABANDON, answered whether it was refused. -/
def abandonCommand (s : State) : Bool × State :=
  if s.rd Reg.HD_STAT_STATE = 4 then (false, abandonCut s) else (true, refuse s .haulDown)

def execAbandon (s : State) : Result := .next (abandonCommand s).2

/-! ### Trace rings (R423 to R426) -/

/-- R424: a trace record as it is stored. -/
def traceBytes (r : TraceRec) : Bytes :=
  leBytes 8 r.tick ++ leBytes 1 r.kind ++ leBytes 1 r.unit ++ leBytes 1 r.attempt ++ [0] ++ leBytes 4 r.step ++ leBytes 4 r.a
    ++ leBytes 4 r.b ++ leBytes 8 r.c

/-- R423: where train `t`'s ring starts. -/
def ringBase (s : State) (t : Nat) : Nat := s.rd Reg.TR_BASE_BASE * 2 ^ 22 + t * 2 ^ 22

/-- R425: the head after a burst that ends at `ofs`. -/
def moveHead (s : State) (t ofs : Nat) : State :=
  if ofs < 2 ^ 22 then s.wr Reg.TR_HEAD_OFFSET ofs 0 t
  else
    let s1 := s.wr Reg.TR_HEAD_OFFSET 0 0 t
    if s.rd Reg.TR_CTL_STOP_FULL = 1 then raise { s1 with traceFull := s1.traceFull ++ [t] } Ev.trace_TR_FULL
    else s1.wr Reg.TR_HEAD_WRAPPED 1 0 t

/-- R425: 64 records leave train `t`'s buffer as one burst with HINT STREAM, charged to TR_CTL.PART. -/
def traceBurst (s : State) (t : Nat) : State :=
  let ofs := s.rd Reg.TR_HEAD_OFFSET 0 t
  let a := ringBase s t + ofs
  let bs := (s.trace.getD t []).flatMap traceBytes
  let s1 := storeFor (chargeRange s (s.rd Reg.TR_CTL_PART) a bs.length) .host a bs 1
  moveHead { s1 with trace := s1.trace.put t [] } t (ofs + bs.length)

/-- R213, R225, R425: a full buffer of an enabled ring that neither a window nor its partition holds. -/
def canBurst (s : State) (t : Nat) : Bool :=
  s.islandsRun && (s.trace.getD t []).length == 64 && bit (s.rd Reg.TR_CTL_TRAINS) t
    && !mustWait s (s.rd Reg.TR_CTL_PART) (ringBase s t + s.rd Reg.TR_HEAD_OFFSET 0 t) 2048

def execTraceBurst (t : Train) (s : State) : Result := whenOk (canBurst s t) s (traceBurst s t)

/-- R426: an enabled head starts again. -/
def clearHead (s : State) (t : Nat) : State :=
  { (s.wr Reg.TR_HEAD_OFFSET 0 0 t).wr Reg.TR_HEAD_WRAPPED 0 0 t with traceFull := s.traceFull.filter (· != t) }

/-- R426: a write of TR_CTL, answered whether it was refused. -/
def writeTrCtl (s : State) (v : Nat) : Bool × State :=
  let r := plainWrite s ⟨.trace, 0⟩ 0x40 v
  let now := r.2.rd Reg.TR_CTL_TRAINS
  (r.1, if s.rd Reg.TR_CTL_TRAINS = 0 ∧ now ≠ 0 then (bitsOf 8 now).foldl clearHead r.2 else r.2)

def execTrCtl (v : Word) (s : State) : Result := .next (writeTrCtl s v.toNat).2

end Sys2Proof.Machine
end

