-- ==== Sys2Proof/Machine/PlanCmd.lean ====
section
/-! DEFINITION. LOAD, START, STOP and COMMIT (07 R236, R241, R256, 12 R367, R368), as STEP_CMD and the control protocol give
them: each answers a STATUS. -/

namespace Sys2Proof.Machine

/-- R368: the STATUS codes. -/
def stOk : Nat := 0

def stBusy : Nat := 1

def stUnmapped : Nat := 2

def stRefused : Nat := 3

def stRange : Nat := 4

def stBadOp : Nat := 5

def stMemUe : Nat := 6

def stStale : Nat := 7

def stDenied : Nat := 8

/-- R256: LOAD. -/
def loadCommand (s : State) : Nat × State :=
  if s.planRuns then (stBusy, s) else (stOk, s.wr Reg.PLAN_STAT_STATE 1)

/-- R256: the first step tick is armed. -/
def armPlan (s : State) (t : Nat) : State :=
  let s1 := (s.wr Reg.STEP_STAT_STATE 1).wr Reg.STEP_STAT_REPLAY_RUN 0
  { s1 with step := { lastCommit := s.step.lastCommit, commitAt := s.step.commitAt, armed := some (t, s.plan.firstStep) } }

/-- R231, R256: START: LOADED, locked (log 58), and not stale. -/
def startCommand (s : State) (t : Nat) : Nat × State :=
  if s.rd Reg.PLAN_STAT_STATE ≠ 2 ∨ s.planRuns = true then (stBusy, s)
  else if s.rd Reg.TB_SYNC_LOCKED = 0 then (stRefused, s)
  else if t < s.tick + s.plan.stepLead then (stStale, s)
  else (stOk, armPlan s t)

/-- R236: STOP: END_REQ to the seal root. -/
def stopCommand (s : State) : Nat × State :=
  (stOk, if s.planRuns then s.sendUp (.endReq s.self) else s)

/-- R241: COMMIT: a device-local commit 64 ticks from now. -/
def commitCommand (s : State) : Nat × State :=
  if s.planRuns then (stBusy, s)
  else (stOk, { s with step := { s.step with commitAt := s.step.commitAt ++ [s.tick + 64] } })

/-- R241: whether a shadowed write made now is held for the commit after the next. -/
def commitNear (s : State) : Bool :=
  ((s.step.armed.map Prod.fst).toList ++ s.step.commitAt).any (fun t => decide (t < s.tick + 64) && decide (s.tick ≤ t))

/-- R241: the epoch that a shadowed write made now joins. -/
def joinedEpoch (s : State) : Nat := (s.rd Reg.PT_EPOCH_EPOCH + (if commitNear s then 2 else 1)) % 2 ^ 32

/-- The epoch that the device-local commit just armed establishes. -/
def commitEpoch (s : State) : Nat := (s.rd Reg.PT_EPOCH_EPOCH + s.step.commitAt.length) % 2 ^ 32

/-- STEP_CMD: a refusal raises WR_ILLEGAL. -/
def stepCommand (s : State) (r : Nat × State) : Bool × State :=
  if r.1 = stOk then (false, r.2) else (true, refuse s .plan)

end Sys2Proof.Machine
end

