-- ==== Sys2Proof/Machine/RegRead.lean ====
section
/-! DEFINITION. What registers read (12 R375, R379, R380): the common page header, values shown from the units' state,
windows, and the latched high words of 64-bit registers. -/

namespace Sys2Proof.Machine

/-! ### The header (R379) -/

/-- HAS_SHADOW: the page holds RWC fields. -/
def hasShadow (k : PageKind) : Bool := (pageFields k).any (fun f => f.kind == .rwc)

/-- The first key of a page's registers, and that of the page after it. -/
def pageKeys (p : Page) : Nat × Nat := (8 * p.base, 8 * (p.base + 0x1000))

/-- The table behind a window of the page: its number and how many there are of its keys. -/
def pageTable (p : Page) : Option Nat :=
  match p.kind with
  | .fabric => some 0
  | .burner => some (1 + p.inst)
  | .scoring => some 9
  | _ => none

/-- R240: a file's shadow bank holds writes that no commit has latched. -/
def fileDirty (s : State) (n : Nat) (f : FileKind) : Bool :=
  let b := (s.kite n).file f
  !b.copyDue && !copyBusy s n f && b.shadow != b.live

/-- R240: DIRTY. -/
def dirty (s : State) (p : Page) : Bool :=
  let (lo, hi) := pageKeys p
  s.shadow.any (fun e => decide (lo ≤ e.1) && decide (e.1 < hi))
    || (match pageTable p with
        | some t => s.shadow.any (fun e => decide (windowKey t 0 ≤ e.1) && decide (e.1 < windowKey (t + 1) 0))
        | none => false)
    || (match p.kind with
        | .kiteArr => fileDirty s p.inst .codebook || fileDirty s p.inst .scale
        | .kiteVec => fileDirty s p.inst .program
        | _ => false)

/-- R240: COMMIT_TICK: 0 on a page that latches nothing. -/
def commitTick (s : State) (p : Page) : Nat :=
  match p.kind with
  | .kiteCtl | .kiteArr | .kiteVec | .kiteEnv => (s.kite p.inst).latchTick
  | k => if hasShadow k then s.step.lastCommit else 0

/-- 14 R399: BALLAST_MAP from the spares in use, those there are, and whether the low mark is crossed. -/
def ballastWord (kind used total : Nat) (low : Bool) : Nat :=
  ofBool (total ≤ used) * 2 ^ 31 + ofBool low * 2 ^ 30 + kind * 2 ^ 24 + min 65535 (65536 * used / total)

/-- R399: the spares of the page. -/
def ballastMap (s : State) (p : Page) : Nat :=
  match p.kind with
  | .trainCtl => ballastWord 1 (s.rd Reg.TRN_BALLAST_USED p.inst) 1 false
  | .stackCtl => ballastWord 2 (s.rd Reg.MIG_STAT_BALLAST_USED p.inst) 1 false
  | .stackErr =>
    let x := s.stack p.inst
    ballastWord 3 (sparesAssigned x) (sparesPerBank * 48 * 32)
      (x.remap.any (fun e => decide (sparesPerBank ≤ (sparesUsed x (rowBank e.1)).length + 4)))
  | .lineLane => ballastWord 4 (s.rd Reg.LANE_BALLAST_BALLAST_USED p.inst) 1 false
  | .kiteCtl =>
    ballastWord 5 (s.rd Reg.SP_SPARE_SPARE_USED p.inst) (s.rd Reg.SP_SPARE_SPARE_TOTAL p.inst)
      ((s.kite p.inst).spares.any (fun e => decide (bankSpares ≤ e.2 + 4)))
  | .spool =>
    let used := popCount 16 (s.rd Reg.SPOOL_SPARE_SPARE_USED p.inst)
    ballastWord 6 used 16 (12 ≤ used)
  | .core => if p.inst = 0 then ballastWord 7 (ofBool (standbyCore s).isNone) 1 false else 0
  | .thermal => ballastWord 8 (s.rd Reg.PHASES_SHED) 2 (1 ≤ s.rd Reg.PHASES_SHED)
  | _ => 0

/-- The key under which FREEZE holds UTIL. -/
def utilKey (p : Page) : Nat := 8 * (p.base + 0x28)

/-- R379: UTIL as it reads. -/
def shownUtil (s : State) (p : Page) : Nat := s.frozen.getD (utilKey p) (s.hdr p.kind p.inst).util

/-- R379, R380: a word of the common header. -/
def headerWord (s : State) (p : Page) (ofs : Nat) : Nat :=
  let h := s.hdr p.kind p.inst
  match ofs with
  | 0x00 => blockCode p.kind * 2 ^ 16 + p.inst % 256 * 2 ^ 8 + 1
  | 0x04 => ofBool (hasShadow p.kind) * 2 ^ 9 + ofBool (hasBallast p) * 2 ^ 8 + eventCount p.kind
  | 0x08 => ofBool h.freeze * 4 + 1
  | 0x0C => ofBool h.failed * 8 + ofBool h.freeze * 2 + ofBool ((busyPages s).contains p)
  | 0x10 => h.raw.toNat
  | 0x14 => h.mask.toNat
  | 0x18 => h.pend.toNat
  | 0x1C => h.count
  | 0x20 => h.ce
  | 0x24 => h.ue
  | 0x28 => shownUtil s p % 2 ^ 32
  | 0x2C => shownUtil s p / 2 ^ 32
  | 0x30 => ballastMap s p
  | 0x34 => ofBool (dirty s p)
  | 0x38 => commitTick s p % 2 ^ 32
  | 0x3C => commitTick s p / 2 ^ 32 % 2 ^ 32
  | _ => 0

/-! ### Fields and words shown from the units' state -/

/-- R379 FREEZE: a field as it reads. -/
def shownField (s : State) (f : Fld) (inst i : Nat) : Nat :=
  if f.kind = .sc then s.frozen.getD (f.key inst i) (s.rd f inst i) else s.rd f inst i

/-- A word of the page's own registers. -/
def plainWord (s : State) (p : Page) (ofs : Nat) : Nat :=
  joinWord (wordFields p.kind ofs) (fun f i => shownField s f p.inst i)

/-- 01 KITE_ID. -/
def kiteId (s : State) (n : Nat) : Nat :=
  let l := s.logicalOf n
  ofBool (s.rd Reg.TRN_BALLAST_USED (n / 17) == 0 && s.rd Reg.TRN_BALLAST_SLOT (n / 17) == n % 17) * 2 ^ 31
    + ofBool l.isSome * 2 ^ 30 + n % 17 * 2 ^ 16 + n / 17 * 2 ^ 8 + l.getD 0

/-- 01 KITE_CLK. -/
def kiteClk (s : State) : Nat :=
  ofBool (s.rd Reg.CLK_KITE_FREQ_MHZ < 1500) * 2 ^ 16 + s.rd Reg.CLK_KITE_FREQ_MHZ

/-- R43, 01 PWR_GATED: nothing is gated in a step during which ZERO_GATE_EN was 0 throughout; which cells toggle in which
cycle is not modelled: the share of another completed step is free (log 18). -/
def gatedShare (s : State) (n : Nat) : Nat :=
  if s.gov.sealTick = 0 ∨ n ∈ s.step.ungatedLast then 0 else Config.gatedShare n s.gov.sealTick % 65536

/-- 15 R419, R420: the op counter set that OPC_SEL selects. -/
def selectedCounters (s : State) : OpCounters :=
  let k := s.kite (s.slotOf (s.rd Reg.OPC_SEL_LOGICAL))
  if s.rd Reg.OPC_SEL_UNIT = 1 then k.opcVec else k.opcArr

/-- R419: CYCLES of the selected set: up to the present kite cycle, or the cut's (R431), while its op runs. -/
def currentCycles (s : State) (c : OpCounters) : Nat :=
  match c.curStart with
  | some t => kiteCycles s ((if s.islandsRun then s.tick else cutTick s) - t)
  | none => c.curCycles

def counterWord (s : State) (ofs : Nat) : Nat :=
  let c := selectedCounters s
  (match ofs with
    | 0x8C => currentCycles s c
    | 0x90 => c.curHolds
    | 0x94 => c.curSlip
    | 0x98 => c.snapCycles
    | 0x9C => c.snapHolds
    | 0xA0 => c.snapSlip
    | 0xA4 => c.snapOp
    | _ => c.curOp) % 2 ^ 32

/-- 07 R232: the selected pair; 0 where no measurement has completed. -/
def selectedPair (s : State) : Nat × Nat := s.tb.pairs.getD (s.rd Reg.TB_MEAS_SEL_SEL) (0, 0)

/-- 08 R277: some live entry routes around line `l`: its PRIMARY is `l`, which is not up or whose detour is in force, and the
detour is usable. -/
def detourUsed (s : State) (l : Nat) : Bool :=
  (List.range 4096).any (fun d =>
    let e := s.liveWord (routeKey d)
    bit e 31 && primaryOf e == l && detourUsable s e && (!s.lineUp l || s.fab.inForce.contains (l, detourOf e)))

/-- 08 LANE_MAP. -/
def laneMapWord (s : State) (l : Nat) : Nat :=
  ((List.range 8).map (fun i => (s.line l).laneMap.getD i 0 * 16 ^ i)).sum

/-- 13 EC_CLAIM of core `c`. -/
def claimWord (s : State) (c : Nat) : Nat :=
  match claimShown s c with
  | some n => 2 ^ 31 + n
  | none => 0

/-- 10 the reel's constants of the group RL_SEL selects. -/
def reelWord (s : State) (t i : Nat) : Nat := (((s.burner.getD t {}).shown.getD (s.rd Reg.RL_SEL_GROUP t) []).getD i 0) % 2 ^ 32

/-- 06 REG_TOKENS. -/
def tokensWord (s : State) (t p : Nat) : Nat := ofSigned 26 (bucketNow s t p).units

/-- The words of a page that show the state of its unit rather than a register's own fields. -/
def viewWord (s : State) (p : Page) (ofs : Nat) : Option Nat :=
  match p.kind with
  | .kiteCtl =>
    match ofs with
    | 0x40 => some (kiteId s p.inst)
    | 0x44 => some (shownKite s p.inst)
    | 0x48 => some (s.kite p.inst).epoch
    | 0x4C => some (kiteClk s)
    | 0x7C => some (gatedShare s p.inst)
    | _ => none
  | .plan => if ofs = 0x5C then some (s.rd Reg.STEP_STAT_REPLAY_RUN * 2 ^ 8 + shownStep s) else none
  | .precision => if 0x400 ≤ ofs ∧ s.rd Reg.PT_VIEW_BANK = 1 then some (s.shadowReg p ofs) else none
  | .spool => if ofs = 0x4C then some (pinnedLines s p.inst) else none
  | .regulator => if 0x60 ≤ ofs ∧ ofs < 0x80 then some (tokensWord s p.inst ((ofs - 0x60) / 4)) else none
  | .stackCtl => if ofs = 0x17C then some (if ballastFree s p.inst then ballastChannel s p.inst else 31) else none
  | .reel => if 0x4C ≤ ofs ∧ ofs < 0x64 then some (reelWord s p.inst ((ofs - 0x4C) / 4)) else none
  | .lineCtl => if ofs = 0x44 then some (plainWord s p ofs + ofBool (detourUsed s p.inst) * 2 ^ 27) else none
  | .lineLane => if ofs = 0x40 then some (laneMapWord s p.inst) else none
  | .scoring => if ofs = 0x48 then some (plainWord (s.wr Reg.SC_STAT_CAL_USED (calUsed s)) p ofs)
      else none
  | .cmdEngine => if ofs = 0x64 then some s.host.unacked.length else none
  | .trace => if 0x8C ≤ ofs ∧ ofs ≤ 0xA8 then some (counterWord s ofs) else none
  | .timeBase =>
    match ofs with
    | 0x40 => some (s.tick % 2 ^ 32)
    | 0x44 => some (s.hiLatch.getD (p.base + 0x44) 0)
    | 0x54 => some ((selectedPair s).1 % 2 ^ 32)
    | 0x58 => some ((selectedPair s).1 / 2 ^ 32 % 2 ^ 32)
    | 0x5C => some ((selectedPair s).2 % 2 ^ 32)
    | 0x60 => some ((selectedPair s).2 / 2 ^ 32 % 2 ^ 32)
    | _ => none
  | .eventCtl =>
    if 0x50 ≤ ofs ∧ ofs < 0x60 then some (claimWord s ((ofs - 0x50) / 4))
    else if 0x100 ≤ ofs ∧ ofs < 0x180 then some (bitmapWord s.ec.pend ((ofs - 0x100) / 4))
    else if 0x180 ≤ ofs ∧ ofs < 0x200 then some (bitmapWord s.ec.mask ((ofs - 0x180) / 4))
    else if 0x200 ≤ ofs ∧ ofs < 0x280 then some (rawWord s ((ofs - 0x200) / 4))
    else if 0x280 ≤ ofs ∧ ofs < 0x300 then some (bitmapWord s.ec.active ((ofs - 0x280) / 4))
    else none
  | _ => none

/-! ### Windows -/

/-- A read of a window register, with what it advances. -/
def windowRead (s : State) (p : Page) (ofs : Nat) : Option (Nat × State) :=
  match p.kind with
  | .kiteArr => if ofs = 0xB8 then some (cbfRead s p.inst) else none
  | .kiteVec => if ofs = 0x74 then some (vpRead s p.inst) else none
  | .kiteEnv => if ofs = 0x4C then some (envRead s p.inst) else none
  | .governor => if ofs = 0x7C then some (svRead s) else none
  | .burner => if ofs = 0x84 then some (gwinRead s p.inst) else none
  | .fabric => if ofs = 0x5C then some (routeRead s) else none
  | .scoring => if ofs = 0x54 then some (dwinRead s) else none
  | .eventCtl => if ofs = 0x44 then some (cfgRead s) else none
  | .flash => if ofs = 0x44 then some (flRead s) else none
  | .security =>
    if ofs = 0x4C then some (mrWord s, s) else if ofs = 0x58 then some (logWord s, logAdvance s) else none
  | _ => none

/-- A word as a read returns it, without what the read changes. -/
def peekWord (s : State) (p : Page) (ofs : Nat) : Nat :=
  if ofs < 0x40 then headerWord s p ofs
  else match windowRead s p ofs with
    | some r => r.1
    | none => (viewWord s p ofs).getD (plainWord s p ofs)

/-! ### 64-bit registers (R375) -/

/-- The low words of 64-bit registers. -/
def isLowWord (k : PageKind) (ofs : Nat) : Bool :=
  ofs == 0x28 || ofs == 0x38 ||
  (match k with
   | .identity => ofs == 0x44 || ofs == 0x4C
   | .thermal => ofs == 0x58
   | .plan => [0x50, 0x60, 0x68, 0x84].contains ofs
   | .timeBase => [0x40, 0x54, 0x5C, 0x64].contains ofs
   | .haulDown => [0x50, 0x60, 0x68].contains ofs
   | .spool => [0x50, 0x58].contains ofs
   | .kiteArr => [0x78, 0x80, 0xA0].contains ofs
   | .kiteVec => ofs == 0x4C
   | .lineCtl => [0x4C, 0x54].contains ofs
   | .eventCtl => decide (0x300 ≤ ofs) && decide (ofs < 0x400) && ofs % 16 == 0
   | _ => false)

/-- R231, R375: the read of a low word latches the high word. -/
def latchHigh (s : State) (p : Page) (ofs : Nat) : State :=
  let hi := if p.kind = .timeBase ∧ ofs = 0x40 then s.tick / 2 ^ 32 % 2 ^ 32 else peekWord s p (ofs + 4)
  { s with hiLatch := s.hiLatch.put (p.base + ofs + 4) hi }

/-- R375: a read of a high word returns what its low word's read latched, once; TB_NOW_HI keeps it (R231; log 23). -/
def readHigh (s : State) (p : Page) (ofs : Nat) : Nat × State :=
  if p.kind = .timeBase ∧ ofs = 0x44 then (peekWord s p ofs, s)
  else match Table.find (p.base + ofs) s.hiLatch with
    | some v => (v, { s with hiLatch := s.hiLatch.erase (p.base + ofs) })
    | none => (peekWord s p ofs, s)

/-- R375: a read of an aligned word of a page. -/
def readWord (s : State) (p : Page) (ofs : Nat) : Nat × State :=
  match windowRead s p ofs with
  | some r => r
  | none =>
    if isLowWord p.kind ofs then (peekWord s p ofs, latchHigh s p ofs)
    else if 4 ≤ ofs ∧ isLowWord p.kind (ofs - 4) = true then readHigh s p ofs
    else (peekWord s p ofs, s)

/-- R375: a read at an address: none where no page is reached. -/
def readReg (s : State) (addr : Nat) : Option (Nat × State) :=
  match reachPage s addr with
  | some p => some (readWord s p (addr % 0x1000))
  | none => none

/-- R231: a read of TB_NOW_LO. -/
def execTbNowLo (s : State) : Result :=
  let r := readWord s ⟨.timeBase, 0⟩ 0x40
  .next (r.2.emit (.word r.1))

/-- Whether an address is that of a low word of a page. -/
def lowAddr (s : State) (addr : Nat) : Bool :=
  match reachPage s addr with
  | some p => addr % 4 == 0 && isLowWord p.kind (addr % 0x1000)
  | none => false

/-- R375: a read of a low word. -/
def execLowWordRead (addr : Word) (s : State) : Result :=
  match readReg s addr.toNat with
  | some r => whenOk (lowAddr s addr.toNat) s (r.2.emit (.word r.1))
  | none => .next s

end Sys2Proof.Machine
end

