-- ==== Sys2Proof/Machine/Attest.lean ====
section
/-! DEFINITION. The attestation report (16 R453, R454). -/

namespace Sys2Proof.Machine

/-- R454: the newest kept log entries that a report carries, oldest of them first. -/
def reportLog (s : State) : List LogEntry := s.trust.log.drop (s.trust.log.length - 74)

/-- R454: the registers of the configuration digest. -/
def configWords (s : State) : List Nat :=
  peekWord s ⟨.dfi, 0⟩ 0x40 :: (List.range 32).map (fun i => peekWord s ⟨.dfi, 0⟩ (0x100 + 4 * i))
    ++ [peekWord s ⟨.plan, 0⟩ 0x4C, peekWord s ⟨.plan, 0⟩ 0x58, peekWord s ⟨.governor, 0⟩ 0x44,
        peekWord s ⟨.governor, 0⟩ 0x50, peekWord s ⟨.governor, 0⟩ 0x54, peekWord s ⟨.fabric, 0⟩ 0x40,
        peekWord s ⟨.fabric, 0⟩ 0x48, peekWord s ⟨.cmdEngine, 0⟩ 0x40, peekWord s ⟨.haulDown, 0⟩ 0x44,
        peekWord s ⟨.plan, 0⟩ 0x90, peekWord s ⟨.security, 0⟩ 0x40]

def configDigest (s : State) : Bytes := sha256 ((configWords s).flatMap (leBytes 4))

/-- R454: bytes 92 to 95. -/
def reportFlags (s : State) : Nat :=
  s.rd Reg.GOV_STAT_UFLOW_WATCH_OFF + 2 * s.rd Reg.SEC_STAT_LOG_OVERFLOW + 4 * s.rd Reg.SEC_STAT_RECOVERY
    + 8 * s.rd Reg.RECOV_STAT_HANDED + 16 * s.rd Reg.FW_STAT_MIXED

/-- R454: the report without its signature. -/
def reportBody (s : State) (nonce : Bytes) : Bytes :=
  let log := reportLog s
  leBytes 4 0x41545A50 ++ leBytes 2 1 ++ leBytes 2 (440 + 48 * log.length + 64) ++ leBytes 2 nonce.length
    ++ leBytes 2 log.length ++ leBytes 4 ((log.head?.map (·.num)).getD 0) ++ nonce ++ zeros (64 - nonce.length)
    ++ leBytes 4 (s.rd Reg.ID_SERIAL_LO) ++ leBytes 4 (s.rd Reg.ID_SERIAL_HI) ++ leBytes 4 (peekWord s ⟨.identity, 0⟩ 0x40)
    ++ leBytes 4 (reportFlags s) ++ leBytes 8 s.tick ++ leBytes 8 s.stepNum ++ leBytes 2 (s.rd Reg.SEC_SVN_SVN_RUN)
    ++ leBytes 2 (s.rd Reg.SEC_SVN_SVN_MIN) ++ leBytes 4 (s.rd Reg.LOG_COUNT_COUNT) ++ configDigest s
    ++ sha256 (identityCert s) ++ (List.range 8).flatMap (fun i => beBytes 32 (s.mr i)) ++ log.flatMap logBytes

/-- R453: the signing nonce is random (log 21). -/
def signingNonce (s : State) : Nat := Config.free s.fresh % (p256n - 1) + 1

/-- R454: the signed report; ATT_COUNT counts it. -/
def signReport (s : State) (nonce : Bytes) : Bytes × State :=
  let b := reportBody s nonce
  let sig := ecdsaSign idKey (shaNat b) (signingNonce s)
  (b ++ beBytes 32 sig.1 ++ beBytes 32 sig.2, { s with fresh := s.fresh + 1 }.bump Reg.ATT_COUNT_COUNT)

/-- R367, R453, R454: ATTEST: its status, the report and the state. -/
def attestCommand (s : State) (nonce : Bytes) : Nat × Bytes × State :=
  if nonce.length < 16 ∨ 64 < nonce.length then (stRange, [], s)
  else if s.rd Reg.SEC_STAT_RNG_FAIL = 1 then (stBusy, [], s)
  else (stOk, signReport s nonce)

end Sys2Proof.Machine
end

