-- ==== Sys2Proof/Machine/RegWrite.lean ====
section
/-! DEFINITION. What register writes do (00 R10, 12 R375, R379, R380): the page header's controls, command registers,
windows, and plain fields. Each write answers whether any of it was refused. -/

namespace Sys2Proof.Machine

/-! ### FREEZE and SOFT_RESET (R379, R380) -/

/-- Every SC field of a page, with its index. -/
def countFields (k : PageKind) : List (Fld × Nat) :=
  ((pageFields k).filter (fun f => f.kind == .sc)).flatMap (fun f => (List.range f.count).map (fun i => (f, i)))

/-- R379: the values FREEZE holds. -/
def holdCounts (s : State) (p : Page) : State :=
  let kept := (countFields p.kind).foldl (fun t e => t.put (e.1.key p.inst e.2) (s.rd e.1 p.inst e.2)) s.frozen
  { s with frozen := kept.put (utilKey p) (s.hdr p.kind p.inst).util }

/-- R379: the held fields show their full count again. -/
def releaseCounts (s : State) (p : Page) : State :=
  let (lo, hi) := pageKeys p
  { s with frozen := s.frozen.drop (fun k => decide (lo ≤ k) && decide (k < hi)) }

/-- R379: a write of FREEZE. -/
def setFreeze (s : State) (p : Page) (on : Bool) : State :=
  let h := s.hdr p.kind p.inst
  if on = h.freeze then s
  else
    let s1 := s.setHdr p.kind p.inst { h with freeze := on }
    if on then holdCounts s1 p else releaseCounts s1 p

/-- Every RW and RWC field of a page, with its index. -/
def hostFields (k : PageKind) : List (Fld × Nat) :=
  ((pageFields k).filter (fun f => f.kind == .rw || f.kind == .rwc)).flatMap (fun f => (List.range f.count).map (fun i => (f, i)))

/-- R380: a field at its factory default, in both banks. -/
def resetField (s : State) (p : Page) (e : Fld × Nat) : State := bothBanks s p (e.1, e.2, e.1.reset p.inst e.2)

/-- R380: a count of the page cleared. -/
def clearCount (s : State) (p : Page) (e : Fld × Nat) : State := s.wr e.1 0 p.inst e.2

/-- R383: the record is one of the page's. -/
def recordOf (s : State) (p : Page) (r : UserRecord) : Bool := pageOf s.slotOf r.addr == some p

/-- R380: the page's applied records of the user defaults image, again. -/
def reapply (s : State) (p : Page) : State :=
  s.trust.applied.foldl (fun s e =>
    let r : UserRecord := { addr := e.1, value := e.2.1, mask := e.2.2 }
    if recordOf s p r then applyUser s r else s) s

/-- The host port retrains: LINK and FEC_LOCK fall (12 PORT_CFG, PORT_STAT). -/
def portFalls (s : State) : State :=
  let s1 := (s.wr Reg.PORT_STAT_LINK 0).wr Reg.PORT_STAT_FEC_LOCK 0
  if s.rd Reg.PORT_STAT_LINK = 1 then raise (s1.wr Reg.SC_STAT_PREEMPT 0) Ev.mac_LINK_DOWN else s1

/-- A write of PORT_CFG: a change of MEDIA retrains the port. -/
def mediaChanged (old s : State) : State :=
  if old.rd Reg.PORT_CFG_MEDIA = s.rd Reg.PORT_CFG_MEDIA then s else portFalls s

/-- What changed fields of a page bring with them beyond the registers, when all of them change at once. -/
def followFields (old s : State) (p : Page) : State :=
  match p.kind with
  | .lineCtl => lineReconfigured old s p.inst
  | .fabric => identAll (settleMaster s)
  | .mac => mediaChanged old s
  | .trainCtl => settleMap s p.inst
  | .stackCtl => showChannels s p.inst
  | .eventCtl => (List.range 32).foldl (fun s i => writeEcPend s i 0)
      { writeCoreEn s (s.rd Reg.EC_CORE_CORE_EN) with ec := { s.ec with mask := BitVec.allOnes 1024 } }
  | _ => s

/-- 06 R204: the contents follow a pseudo-channel map that returns to the factory's. -/
def returnChannels (s : State) (p : Page) : State :=
  if p.kind = .stackCtl then
    moveChannels ((List.range 31).foldl (fun s l => s.wrSh Reg.PC_MAP_PHYS (Reg.PC_MAP_PHYS.reset p.inst l) p.inst l) s) p.inst
  else s

/-- R380: SOFT_RESET of a page. -/
def softReset (s : State) (p : Page) : State :=
  let s1 := (hostFields p.kind).foldl (fun s e => resetField s p e) (returnChannels (releaseCounts s p) p)
  let h := s1.hdr p.kind p.inst
  let s2 := s1.setHdr p.kind p.inst { h with mask := BitVec.allOnes 32, pend := 0, freeze := false }
  let s3 := (countFields p.kind).foldl (fun s e => clearCount s p e) (reapply s2 p)
  samplePage (followFields s s3 p) p.kind p.inst

/-- R380: a write of SOFT_RESET. -/
def commandReset (s : State) (p : Page) : Bool × State :=
  if (busyPages s).contains p then (true, refuse s p.kind p.inst) else (false, softReset s p)

/-- R379, R380: a write of the header's control word. -/
def writeControl (s : State) (p : Page) (v : Nat) : Bool × State :=
  let s1 := setFreeze s p (bit v 2)
  if bit v 1 then commandReset s1 p else (false, s1)

def execSoftReset (page : Word) (s : State) : Result :=
  match reachPage s page.toNat with
  | some p => .next (commandReset s p).2
  | none => .next s

def execFreeze (page : Word) (on : Bool) (s : State) : Result :=
  match reachPage s page.toNat with
  | some p => .next (setFreeze s p on)
  | none => .next s

/-- R379: a write of a header word. -/
def writeHeader (s : State) (p : Page) (ofs v : Nat) : Bool × State :=
  match ofs with
  | 0x08 => writeControl s p v
  | 0x14 => (false, writeMask s p v)
  | 0x18 => (false, writePend s p v 0)
  | _ => (false, s)

/-! ### Command registers -/

/-- A command taken when its bit is written 1; refusals add up. -/
def alsoWhen (on : Bool) (f : State → Bool × State) (r : Bool × State) : Bool × State :=
  if on then let q := f r.2; (r.1 || q.1, q.2) else r

/-- What a written field brings with it, after the plain write. -/
def andThen (f : State → State) (r : Bool × State) : Bool × State := (r.1, f r.2)

/-- A command that nothing refuses. -/
def ok (f : State → State) (s : State) : Bool × State := (false, f s)

/-- An operation that is refused unless `can` holds, and raises WR_ILLEGAL itself. -/
def allowed (can : State → Bool) (f : State → State) (s : State) : Bool × State := (!can s, f s)

/-- STEP_CMD: LOAD, START, STOP, COMMIT in this order when several are written. -/
def writeStepCmd (s : State) (v : Nat) : Bool × State :=
  let start := fun s => stepCommand s (startCommand s (s.rd64 Reg.START_TICK_LO Reg.START_TICK_HI))
  alsoWhen (bit v 3) (fun s => stepCommand s (commitCommand s))
    (alsoWhen (bit v 1) (fun s => stepCommand s (stopCommand s))
      (alsoWhen (bit v 0) start (alsoWhen (bit v 2) (fun s => stepCommand s (loadCommand s)) (false, s))))

/-- HD_CMD: HAUL, RELEASE, ABANDON in this order when several are written. -/
def writeHdCmd (s : State) (v : Nat) : Bool × State :=
  alsoWhen (bit v 3) abandonCommand
    (alsoWhen (bit v 2) (fun s => releaseCommand s (bit v 0))
      (alsoWhen (bit v 1) (ok (fun s => haulCommand s (bit v 0) (bit v 4))) (false, s)))

/-- STK_CMD. -/
def writeStkCmd (s : State) (k v : Nat) : Bool × State :=
  let l := getBits v 8 5
  let move := fun s => if canMigrate s k l then (false, startMigration s k l) else (true, refuse s .stackCtl k)
  alsoWhen (bit v 0) move (alsoWhen (bit v 2) (ok (clearUe · k)) (false, s))

/-- SEC_CMD: EXTEND, UKH_BURN, SVN_BURN. -/
def writeSecCmd (s : State) (v : Nat) : Bool × State :=
  alsoWhen (bit v 2) (burnSvn · (getBits v 16 16))
    (alsoWhen (bit v 1) (burnUserKey · (getBits v 16 16)) (alsoWhen (bit v 0) (ok extendHost) (false, s)))

/-- FL_CMD: ERASE, COMMIT. -/
def writeFlCmd (s : State) (v : Nat) : Bool × State :=
  alsoWhen (bit v 1) (flCommit · (getBits v 4 4)) (alsoWhen (bit v 0) flErase (false, s))

/-- FW_CMD: STAGE, SWAP. -/
def writeFwCmd (s : State) (v : Nat) : Bool × State :=
  alsoWhen (bit v 1) swapImage (alsoWhen (bit v 0) stageImage (false, s))

/-- WN_CMD. -/
def writeWnCmd (s : State) (t v : Nat) : Bool × State :=
  alsoWhen (bit v 1) (ok (clearNan · t)) (alsoWhen (bit v 0) (ok (clearWinchFault · t)) (false, s))

/-- A write of a plain word of the governor: rule words clear their rule's counters (04 R157). -/
def writeGovernor (s : State) (p : Page) (ofs v : Nat) : Bool × State :=
  let r := plainWrite s p ofs v
  (r.1, if r.2.held.length = s.held.length ∧ !r.1 then touchRule r.2 (8 * (p.base + ofs)) else r.2)

/-- The command registers, and the registers whose write does more than store its fields. None for all others. -/
def commandWrite (s : State) (p : Page) (ofs v : Nat) (side : Bool) : Option (Bool × State) :=
  match p.kind with
  | .devCtl => if ofs = 0x44 then some (alsoWhen (bit v 0) (resetCommand · (getBits v 16 16) side) (false, s)) else none
  | .governor =>
    if ofs = 0x54 then some (!ufwOk v, writeUfw s v)
    else if 0x400 ≤ ofs ∧ ofs < 0x800 then some (writeGovernor s p ofs v) else none
  | .plan =>
    if ofs = 0x80 then some (writeStepCmd s v)
    else if ofs = 0x98 then some (alsoWhen (bit v 0) (ok clearPlanUe) (false, s)) else none
  | .fabric =>
    if ofs = 0x40 then some (writeDevnum s v)
    else if ofs = 0x4C then some (alsoWhen (bit v 0) (ok discover) (false, s))
    else if ofs = 0x50 then some (writeFabTb s v) else none
  | .eventCtl =>
    if ofs = 0x48 then some (false, writeCoreEn s v)
    else if 0x60 ≤ ofs ∧ ofs < 0x70 then some (false, endOfInterrupt s ((ofs - 0x60) / 4) (getBits v 0 10))
    else if 0x100 ≤ ofs ∧ ofs < 0x180 then some (false, writeEcPend s ((ofs - 0x100) / 4) v)
    else if 0x180 ≤ ofs ∧ ofs < 0x200 then some (false, writeEcMask s ((ofs - 0x180) / 4) v) else none
  | .security =>
    if 0x60 ≤ ofs ∧ ofs < 0x80 then some (false, s.wr Reg.MR_EXT_DIGEST v 0 ((ofs - 0x60) / 4))
    else if ofs = 0x80 then some (writeSecCmd s v)
    else if 0x100 ≤ ofs ∧ ofs < 0x120 ∧ s.rd Reg.SEC_STAT_USER_KEY_SET = 1 then some (false, s) else none
  | .flash => if ofs = 0x48 then some (writeFlCmd s v) else if ofs = 0x50 then some (writeFwCmd s v) else none
  | .mac => if ofs = 0x40 then some (andThen (mediaChanged s) (plainWrite s p ofs v)) else none
  | .scoring =>
    if ofs = 0x58 then
      some (alsoWhen (bit v 4) (allowed (fun s => s.rd Reg.SC_STAT_V_BUSY == 0) (startValidate · (getBits v 0 4))) (false, s))
    else if ofs = 0x70 then some (alsoWhen (bit v 0) (allowed (fun s => !loadRefused s) startLoad) (false, s)) else none
  | .timeBase => if ofs = 0x4C then some (alsoWhen (bit v 0) (ok startMeasure) (false, s)) else none
  | .haulDown => if ofs = 0x4C then some (writeHdCmd s v) else if ofs = 0x74 then some (writeDump s v) else none
  | .trace => if ofs = 0x40 then some (writeTrCtl s v) else none
  | .trainCtl =>
    if ofs = 0x84 then
      some (alsoWhen (bit v 8) (allowed (fun s => (ballastSlot s p.inst).isSome) (replaceKite · p.inst (getBits v 0 4))) (false, s))
    else none
  | .spool =>
    if ofs = 0x44 then some (alsoWhen (bit v 0) (ok (unpinLines · (fun set _ => set / 16384 == p.inst))) (false, s)) else none
  | .winch => if ofs = 0x4C then some (writeWnCmd s p.inst v) else none
  | .burner => if ofs = 0x4C then some (alsoWhen (bit v 0) (ok (clearBurnFault · p.inst)) (false, s)) else none
  | .kiteCtl => if ofs = 0x80 then some (alsoWhen (bit v 0) (ok (faultClear · p.inst)) (false, s)) else none
  | .stackCtl => if ofs = 0x50 then some (writeStkCmd s p.inst v) else none
  | .lineCtl => if ofs = 0x40 then some (writeLineCfg s p.inst v) else none
  | .lineLane => if ofs = 0x4C then some (alsoWhen (bit v 0) (laneCommand · p.inst (getBits v 4 3)) (false, s)) else none
  | _ => none

/-- A write of a window register. -/
def windowWrite (s : State) (p : Page) (ofs v : Nat) : Option (Bool × State) :=
  match p.kind with
  | .kiteArr => if ofs = 0xB8 then some (!cbfWritable s p.inst, cbfWrite s p.inst v) else none
  | .kiteVec => if ofs = 0x74 then some (!vpWritable s p.inst v, vpWrite s p.inst v) else none
  | .governor => if ofs = 0x7C then some (s.planRuns, svWrite s v) else none
  | .burner => if ofs = 0x84 then some (!gwinWritable s p.inst v, gwinWrite s p.inst v) else none
  | .fabric => if ofs = 0x5C then some (!routeOk s v, routeWrite s v) else none
  | .scoring => if ofs = 0x54 then some (false, dwinWrite s v) else none
  | .eventCtl => if ofs = 0x44 then some (!cfgOk (s.rd Reg.EC_SEL_SRC) v, cfgWrite s v) else none
  | .flash => if ofs = 0x44 then some (flWrite s v) else none
  | _ => none

/-- R10, R375: a write of an aligned word of a page; `side` tells that it came over the sideband. -/
def writeWord (s : State) (p : Page) (ofs v : Nat) (side : Bool) : Bool × State :=
  if ofs < 0x40 then writeHeader s p ofs v
  else match windowWrite s p ofs v with
    | some r => r
    | none => (commandWrite s p ofs v side).getD (plainWrite s p ofs v)

/-- R375: a write at an address: none where no page is reached. -/
def writeReg (s : State) (addr v : Nat) (side : Bool) : Option (Bool × State) :=
  match reachPage s addr with
  | some p => some (writeWord s p (addr % 0x1000) v side)
  | none => none

def execRegisterWrite (addr v : Word) (s : State) : Result :=
  match writeReg s addr.toNat v.toNat false with
  | some r => whenOk (addr.toNat % 4 == 0) s r.2
  | none => .next s

end Sys2Proof.Machine
end

