-- ==== Sys2Proof/Machine/HostPort.lean ====
section
/-! DEFINITION. The control protocol: operations, command streams, EVENT frames (12 R366 to R374). -/

namespace Sys2Proof.Machine

/-! ### Operations (R367 to R369) -/

/-- What an operation answers: STATUS, the body of its RESPONSE, and the state. -/
structure Answer where
  status : Nat
  body : Bytes
  s : State
deriving DecidableEq, Repr

def fails (s : State) (st : Nat) : Answer := { status := st, body := [], s := s }

/-- R367: how the words of a register command went: the first failing word with its status, the words read before it. -/
structure RegRun where
  s : State
  fail : Option (Nat × Nat) := none
  got : List Nat := []
deriving DecidableEq, Repr

/-- R367: the address of word `i`. -/
def wordAddr (addr i : Nat) (fixed : Bool) : Nat := if fixed then addr else (addr + 4 * i) % 2 ^ 32

/-- R375: a word at an address that is not aligned is in no register (DEDUCED, log 84). -/
def regAt (addr : Nat) {α : Type} (r : Option α) : Option α := if addr % 4 = 0 then r else none

/-- R367: word `i` of a REG_READ. -/
def readOne (addr : Nat) (fixed : Bool) (r : RegRun) (i : Nat) : RegRun :=
  let a := wordAddr addr i fixed
  match regAt a (readReg r.s a) with
  | some x => { r with s := x.2, got := if r.fail.isSome then r.got else r.got ++ [x.1] }
  | none => { r with fail := r.fail.or (some (i, stUnmapped)) }

/-- R367, R368: word `i` of a REG_WRITE; the words after a failing one are still written. -/
def writeOne (addr : Nat) (fixed : Bool) (r : RegRun) (w : Nat × Nat) : RegRun :=
  let a := wordAddr addr w.2 fixed
  match regAt a (writeReg r.s a w.1 false) with
  | some x => { r with s := x.2, fail := r.fail.or (if x.1 then some (w.2, stRefused) else none) }
  | none => { r with fail := r.fail.or (some (w.2, stUnmapped)) }

/-- R367: STATUS, INDEX and EPOCH of a register command over `n` words. -/
def regAnswer (r : RegRun) (n epoch : Nat) : Answer :=
  { status := (r.fail.map (·.2)).getD stOk, s := r.s,
    body := leBytes 4 ((r.fail.map (·.1)).getD n) ++ leBytes 4 epoch ++ r.got.flatMap (leBytes 4) }

/-- R367: REG_READ. -/
def regRead (s : State) (addr count : Nat) (fixed : Bool) (top : Nat) : Answer :=
  if count = 0 ∨ top < count then fails s stRange
  else regAnswer ((List.range count).foldl (readOne addr fixed) { s := s }) count (s.rd Reg.PT_EPOCH_EPOCH)

/-- R367, R241: REG_WRITE. EPOCH is the epoch that a shadowed write joins. -/
def regWrite (s : State) (addr : Nat) (fixed : Bool) (ws : List Nat) (top : Nat) : Answer :=
  if ws = [] ∨ top < ws.length then fails s stRange
  else regAnswer (ws.zipIdx.foldl (writeOne addr fixed) { s := s }) ws.length (joinedEpoch s)

/-- R367, R368: a host memory range in its bounds. -/
def hostRangeOk (addr len : Nat) : Bool :=
  addr % 4 == 0 && len % 4 == 0 && decide (4 ≤ len) && decide (len ≤ 8192) && decide (addr + len ≤ hbmTop)

/-- R369: a host access is charged to HOST_PART. -/
def hostCharge (s : State) (addr len : Nat) : State := chargeRange s (s.rd Reg.HOST_PART_PART) addr len

/-- R367, R368: MEM_READ. A lost transfer returns no data, and stops no step. -/
def hostRead (s : State) (addr len : Nat) : Answer :=
  if hostRangeOk addr len then
    match readFor (hostCharge s addr len) .host addr len 0 with
    | (some bs, s1) => { status := stOk, body := bs, s := s1 }
    | (none, s1) => fails s1 stMemUe
  else fails s stRange

/-- R368, R369, R471: host bytes written through the spool; a failed merge leaves its sector as it was. -/
def hostStore (s : State) (addr : Nat) (bs : Bytes) : Answer :=
  let (ok, s1) := writeFor (hostCharge s addr bs.length) .host addr bs 0
  fails s1 (if ok then stOk else stMemUe)

/-- R367: MEM_WRITE. -/
def hostWrite (s : State) (addr : Nat) (bs : Bytes) : Answer :=
  if hostRangeOk addr bs.length then hostStore s addr bs else fails s stRange

/-- R367, R368: PLAN_WRITE. -/
def planWrite (s : State) (ofs : Nat) (bs : Bytes) : Answer :=
  if s.planRuns then fails s stBusy
  else if ofs % 4 ≠ 0 ∨ 2 ^ 26 < ofs + bs.length then fails s stRange
  else
    let r := hostStore s (planByte s ofs) bs
    { r with s := r.s.wr Reg.PLAN_STAT_STATE 0 }

def ofStatus (r : Nat × State) : Answer := fails r.2 r.1

/-- R241, R367: COMMIT answers the epoch it makes live. -/
def commitAnswer (s : State) : Answer :=
  let r := commitCommand s
  if r.1 = stOk then { status := stOk, body := leBytes 4 (commitEpoch r.2), s := r.2 } else fails r.2 r.1

def attestAnswer (s : State) (nonce : Bytes) : Answer :=
  let r := attestCommand s nonce
  { status := r.1, body := r.2.1, s := r.2.2 }

/-- R367, R368: the length of a body agrees with its fields. -/
def bodyFits (opc : Nat) (b : Bytes) : Bool :=
  match opc with
  | 0x00 | 0x01 | 0x21 | 0x23 | 0x24 => b.length == 0
  | 0x02 => b.length == 8
  | 0x03 => decide (8 ≤ b.length) && b.length == 8 + 4 * leAt b 4 2
  | 0x10 => b.length == 12
  | 0x11 => decide (12 ≤ b.length) && b.length == 12 + leAt b 8 4
  | 0x20 => decide (8 ≤ b.length) && b.length == 8 + leAt b 4 4
  | 0x22 => b.length == 8
  | 0x30 => decide (2 ≤ b.length) && b.length == 2 + leAt b 0 2
  | _ => false

/-- 16 R444: operations that wait for READY. -/
def waitsReady (s : State) (opc : Nat) : Bool := decide (0x10 ≤ opc) && opc != 0x30 && s.rd Reg.DEV_STAT_STATE != 6

/-- R213, R225: the HBM access of an operation waits: a window is open, or HOST_PART is held. -/
def hostWaits (s : State) (opc : Nat) (b : Bytes) : Bool :=
  let p := s.rd Reg.HOST_PART_PART
  bodyFits opc b && !waitsReady s opc && (match opc with
    | 0x10 => hostRangeOk (leAt b 0 8) (leAt b 8 4) && mustWait s p (leAt b 0 8) (leAt b 8 4)
    | 0x11 => hostRangeOk (leAt b 0 8) (leAt b 8 4) && mustWait s p (leAt b 0 8) (leAt b 8 4)
    | 0x20 => !s.planRuns && decide (leAt b 0 4 + leAt b 4 4 ≤ 2 ^ 26) && mustWait s p (planByte s (leAt b 0 4)) (leAt b 4 4)
    | _ => false)

/-- R367, R368: an operation executes. -/
def runOperation (s : State) (opc : Nat) (b : Bytes) : Answer :=
  if !bodyFits opc b then fails s stBadOp
  else if waitsReady s opc then fails s stBusy
  else match opc with
    | 0x02 => regRead s (leAt b 0 4) (leAt b 4 2) (bit (leAt b 6 2) 0) 256
    | 0x03 => regWrite s (leAt b 0 4) (bit (leAt b 6 2) 0) (wordsLE (leAt b 4 2) (b.drop 8)) 256
    | 0x10 => hostRead s (leAt b 0 8) (leAt b 8 4)
    | 0x11 => hostWrite s (leAt b 0 8) (b.drop 12)
    | 0x20 => planWrite s (leAt b 0 4) (b.drop 8)
    | 0x21 => ofStatus (loadCommand s)
    | 0x22 => ofStatus (startCommand s (leAt b 0 8))
    | 0x23 => ofStatus (stopCommand s)
    | 0x24 => commitAnswer s
    | 0x30 => attestAnswer s (b.drop 2)
    | _ => fails s stOk

/-! ### Command streams (R366, R370, R371, R374) -/

/-- R366: a COMMAND frame as its header gives it. -/
structure CtrlCmd where
  stream : Nat
  seq : Nat
  ack : Nat
  opc : Nat
  body : Bytes
deriving DecidableEq, Repr

/-- R366: the bytes of a COMMAND frame. -/
def CtrlCmd.bytes (c : CtrlCmd) : Bytes := ctrlHeader 3 c.stream c.body.length c.seq c.ack c.opc 0 ++ c.body

/-- R366: a received frame, none where it is dropped into CE_BAD. A COMMAND's STATUS is a field marked 0 (DEDUCED, log 84). -/
def parseCtrl (b : Bytes) : Option CtrlCmd :=
  let len := leAt b 2 2
  if b.length < 16 ∨ leAt b 0 1 ≠ 0x31 ∨ leAt b 1 1 % 64 ≠ 0 ∨ leAt b 13 3 ≠ 0 ∨ b.length < 16 + len then none
  else some { stream := leAt b 1 1 / 64, seq := leAt b 4 4, ack := leAt b 8 4, opc := leAt b 12 1,
              body := (b.drop 16).take len }

def State.stream (s : State) (i : Nat) : CmdStream := s.host.streams.getD i {}

def State.setStream (s : State) (i : Nat) (x : CmdStream) : State :=
  { s with host := { s.host with streams := s.host.streams.put i x } }

/-- R370: the expected number X of a stream. -/
def State.expected (s : State) (i : Nat) : Nat := s.rd Reg.CE_EXP_X 0 i

/-- R372: an ACK field acknowledges the EVENT frames up to its number, modulo 2^32. -/
def ackEvents (s : State) (ack : Nat) : State :=
  { s with host := { s.host with unacked := s.host.unacked.drop (fun n => decide ((ack + 2 ^ 32 - n) % 2 ^ 32 < 2 ^ 31)) } }

/-- R370: the responses of the last 32 numbers stay. -/
def keepResponse (s : State) (c : CtrlCmd) (f : HeldFrame) : State :=
  let x := s.stream c.stream
  let old := x.answered.drop (fun q => decide (32 < (s.expected c.stream + 2 ^ 32 - q) % 2 ^ 32))
  s.setStream c.stream { x with answered := old.put c.seq f }

/-- R366, R371, R374: the RESPONSE to a command goes to its source and is stored. -/
def respond (s : State) (src : HostAddr) (c : CtrlCmd) (st : Nat) (body : Bytes) : State :=
  let b := ctrlHeader 4 c.stream body.length c.seq (s.expected c.stream) c.opc st ++ body
  sendFrame (keepResponse s c { src := src, bytes := b }) 1 src b

/-- R370: X becomes the number after the command's. -/
def advanceStream (s : State) (c : CtrlCmd) : State := s.wr Reg.CE_EXP_X ((c.seq + 1) % 2 ^ 32) 0 c.stream

/-- R370, R371: the command with SEQ = X executes and is answered. -/
def executeNow (s : State) (src : HostAddr) (c : CtrlCmd) : State :=
  let r := runOperation s c.opc c.body
  respond (advanceStream r.s c) src c r.status r.body

/-- R370, R373: OPEN. -/
def openCommand (s : State) (src : HostAddr) (c : CtrlCmd) : State :=
  let s1 := (advanceStream s c).setStream c.stream {}
  let s2 := if c.stream = 0 then { s1 with host := { s1.host with dest := some src } } else s1
  respond s2 src c stOk []

/-- R370: a frame ahead of its turn, or whose access waits, is held; a second copy is dropped. -/
def holdCommand (s : State) (src : HostAddr) (c : CtrlCmd) : State :=
  let x := s.stream c.stream
  if (Table.find c.seq x.waiting).isSome then s
  else s.setStream c.stream { x with waiting := x.waiting.put c.seq { src := src, bytes := c.bytes } }

/-- R370: the stored response of a repeated command is sent again; a response that an OPEN cleared is not there to send. -/
def repeatResponse (s : State) (c : CtrlCmd) : State :=
  let s1 := s.bump Reg.CE_DUPS_COUNT
  match Table.find c.seq (s1.stream c.stream).answered with
  | some f => sendFrame s1 1 f.src f.bytes
  | none => s1

/-- R370: how far a command's SEQ is ahead of X, modulo 2^32. -/
def State.ahead (s : State) (c : CtrlCmd) : Nat := (c.seq + 2 ^ 32 - s.expected c.stream) % 2 ^ 32

/-- R225, R370: a frame whose turn has come is held: its access waits, or a copy of it is held already. -/
def holdsTurn (s : State) (c : CtrlCmd) : Bool :=
  (Table.find c.seq (s.stream c.stream).waiting).isSome || hostWaits s c.opc c.body

/-- R370: a COMMAND by its SEQ. -/
def takeCommand (s0 : State) (src : HostAddr) (c : CtrlCmd) : State :=
  let s := ackEvents s0 c.ack
  let d := s.ahead c
  if c.opc = 1 ∧ c.body = [] then openCommand s src c
  else if d = 0 then (if holdsTurn s c then holdCommand s src c else executeNow s src c)
  else if d ≤ 31 then holdCommand s src c
  else if 2 ^ 32 - 32 ≤ d then repeatResponse s c
  else s.bump Reg.CE_WINDOW_COUNT

/-- R366: a control frame. -/
def controlFrame (s : State) (src : HostAddr) (b : Bytes) : State :=
  match parseCtrl b with
  | some c => takeCommand s src c
  | none => raise (s.bump Reg.CE_BAD_COUNT) Ev.cmdEngine_CE_BAD

/-- 16 R444: the control protocol answers from stage 4 on. -/
def ctrlServed (s : State) : Bool := decide (3 ≤ s.rd Reg.DEV_STAT_STATE)

/-- R364: CE_UDP_EN admits control datagrams to CE_UDP_PORT. -/
def ctrlUdp (s : State) (port : Nat) : Bool :=
  s.rd Reg.CE_CTL_CE_UDP_EN == 1 && s.rd Reg.CE_CTL_CE_UDP_PORT == port

def execControlFrameRx (src : HostAddr) (bytes : Bytes) (s : State) : Result :=
  whenOk (ctrlServed s) s (acceptFrame s src (ctrlUdp s) (fun s => controlFrame s src bytes))

/-- A command frame that a row of its own gives: header, operation and body. -/
def commandFrame (h : CmdHdr) (opc : Nat) (body : Bytes) (s : State) : Result :=
  whenOk (ctrlServed s) s (acceptFrame s h.src (ctrlUdp s) (fun s =>
    takeCommand s h.src { stream := h.stream, seq := h.seq.toNat, ack := h.ack.toNat, opc := opc, body := body }))

/-- R370: the held frame whose turn has come. -/
def nextHeld (s : State) (i : Nat) : Option HeldFrame := Table.find (s.expected i) (s.stream i).waiting

def runHeld (s : State) (i : Nat) : State :=
  match nextHeld s i with
  | some f =>
    let x := s.stream i
    let s1 := s.setStream i { x with waiting := x.waiting.erase (s.expected i) }
    match parseCtrl f.bytes with
    | some c => executeNow s1 f.src c
    | none => s1
  | none => s

/-- R225, R370: a held frame has its turn and its access may proceed. -/
def heldReady (s : State) (i : Nat) : Bool :=
  match (nextHeld s i).bind (fun f => parseCtrl f.bytes) with
  | some c => !hostWaits s c.opc c.body
  | none => (nextHeld s i).isSome

def execHeldCommandExecute (stream : Fin 4) (s : State) : Result :=
  whenOk (ctrlServed s && heldReady s stream) s (runHeld s stream)

/-! ### The rows of R367 -/

def execNop (h : CmdHdr) (s : State) : Result := commandFrame h 0x00 [] s

def execOpenStream (h : CmdHdr) (s : State) : Result := commandFrame h 0x01 [] s

/-- R367: ADDR, COUNT and FLAGS. -/
def regHead (addr count : Nat) (fixed : Bool) : Bytes := leBytes 4 addr ++ leBytes 2 count ++ leBytes 2 (ofBool fixed)

def execRegRead (h : CmdHdr) (addr : Word) (count : Nat) (fixed : Bool) (s : State) : Result :=
  commandFrame h 0x02 (regHead addr.toNat count fixed) s

def execRegWrite (h : CmdHdr) (addr : Word) (count : Nat) (fixed : Bool) (words : List Word) (s : State) : Result :=
  commandFrame h 0x03 (regHead addr.toNat count fixed ++ words.flatMap (fun w => leBytes 4 w.toNat)) s

def execMemRead (h : CmdHdr) (addr len : Nat) (s : State) : Result :=
  commandFrame h 0x10 (leBytes 8 addr ++ leBytes 4 len) s

def execMemWrite (h : CmdHdr) (addr len : Nat) (data : Bytes) (s : State) : Result :=
  commandFrame h 0x11 (leBytes 8 addr ++ leBytes 4 len ++ data) s

def execPlanWrite (h : CmdHdr) (ofs len : Nat) (data : Bytes) (s : State) : Result :=
  commandFrame h 0x20 (leBytes 4 ofs ++ leBytes 4 len ++ data) s

/-- R367: the STEP_CMD bit of an operation, as a register write. -/
def stepCmdWrite (s : State) (v : Nat) : State := (writeStepCmd s v).2

def execPlanLoad (via : CmdVia) (s : State) : Result :=
  match via with
  | .frame h => commandFrame h 0x21 [] s
  | .register => .next (stepCmdWrite s 4)

/-- START takes START_TICK, which is the row's tick where STEP_CMD gives it. -/
def execStepStart (via : CmdVia) (tick : Tick) (s : State) : Result :=
  match via with
  | .frame h => commandFrame h 0x22 (leBytes 8 tick) s
  | .register => whenOk (s.rd64 Reg.START_TICK_LO Reg.START_TICK_HI == tick) s (stepCmdWrite s 1)

def execStepStop (via : CmdVia) (s : State) : Result :=
  match via with
  | .frame h => commandFrame h 0x23 [] s
  | .register => .next (stepCmdWrite s 2)

def execCommit (via : CmdVia) (s : State) : Result :=
  match via with
  | .frame h => commandFrame h 0x24 [] s
  | .register => .next (stepCmdWrite s 8)

/-! ### Fabric peers (R377) -/

/-- R377: an answer of the gondola to a peer's command on virtual channel 0: kept, then sent. -/
def peerAnswer (src txn : Nat) (r : Answer) : State := answerPeer r.s 0 src txn (.body r.status r.body)

/-- R377: a report goes as a transfer; its DADDR, 0, names no memory (log 71). -/
def peerAttest (s : State) (src txn : Nat) (nonce : Bytes) : State :=
  let r := attestCommand s nonce
  if r.1 = stOk then
    answerPeer r.2.2 0 src txn (.transfer (16 * src + 8)
      (descriptorBytes 0 r.2.1.length none r.2.2.stepNum (r.2.2.rd Reg.STEP_STAT_REPLAY_RUN) ++ r.2.1))
  else answerPeer r.2.2 0 src txn (.body r.1 [])

/-- R377: a repeated TXN is answered from the kept answers, without executing again. -/
def onceForPeer (s : State) (src txn : Nat) (f : State → State) : State :=
  match keptReply s src txn with
  | some x => sendReply s 0 src txn x
  | none => f s

/-- R377: a peer's register command. -/
def peerRegister (s : State) (src txn : Nat) (op : PeerOp) : State :=
  match op with
  | .read addr count fixed =>
    peerAnswer src txn (if s.rd Reg.FAB_CTL_PEER_RD_EN = 0 then fails s stDenied else regRead s addr.toNat count fixed 48)
  | .write addr count fixed words =>
    peerAnswer src txn (if s.rd Reg.FAB_CTL_PEER_WR_EN = 0 then fails s stDenied
      else if words.length ≠ count then fails s stBadOp
      else regWrite s addr.toNat fixed (words.map BitVec.toNat) 48)

def execPeerRegisterCommand (src : Dev) (txn : BitVec 16) (op : PeerOp) (s : State) : Result :=
  .next (onceForPeer s src txn.toNat (fun s => peerRegister s src txn.toNat op))

/-- R367, R377, 16 R454: ATTEST of the host or of a peer. -/
def execAttest (who : AttestBy) (nonceLen : Nat) (nonce : Bytes) (s : State) : Result :=
  match who with
  | .host h => commandFrame h 0x30 (leBytes 2 nonceLen ++ nonce) s
  | .peer dev txn =>
    .next (onceForPeer s dev txn.toNat (fun s =>
      if nonce.length = nonceLen then peerAttest s dev txn.toNat nonce
      else answerPeer s 0 dev txn.toNat (.body stBadOp [])))

/-! ### EVENT frames (R372, R373, 13 R397) -/

/-- 13 R397: a record as it is sent. -/
def eventBytes (r : EventRec) : Bytes :=
  leBytes 2 r.source ++ leBytes 2 (ofBool r.level + 2 * ofBool r.swSet) ++ leBytes 4 r.pend.toNat ++ leBytes 8 r.tick
    ++ leBytes 4 r.count ++ zeros 4

/-- R372, R373: stream 0 is open, records wait, and fewer than 64 frames are outstanding. -/
def canEvent (s : State) : Bool := s.host.dest.isSome && s.host.events != [] && decide (s.host.unacked.length < 64)

/-- R372: up to 64 records leave as the next EVENT frame, which is kept until it is acknowledged. -/
def sendEvents (s : State) (d : HostAddr) : State :=
  let n := s.rd Reg.EVT_NEXT_SEQ
  let body := (s.host.events.take 64).flatMap eventBytes
  let b := ctrlHeader 5 0 body.length n 0 0 0 ++ body
  let h := { s.host with events := s.host.events.drop 64, unacked := s.host.unacked.put n b }
  sendFrame ({ s with host := h }.wr Reg.EVT_NEXT_SEQ ((n + 1) % 2 ^ 32)) 1 d b

def execEventFrameSend (s : State) : Result :=
  match s.host.dest with
  | some d => whenOk (canEvent s) s (sendEvents s d)
  | none => .next s

/-- R372: an unacknowledged EVENT frame is sent again. -/
def execEventFrameRetx (num : Word) (s : State) : Result :=
  match s.host.dest, Table.find num.toNat s.host.unacked with
  | some d, some b => .next (sendFrame s 1 d b)
  | _, _ => .next s

end Sys2Proof.Machine
end

