-- ==== Sys2Proof/Machine/PlanImage.lean ====
section
/-! DEFINITION. The plan image: its header and section table with their checks (07 R244, R245, R258, R259), and what a load
writes before its records are judged (R256). -/

namespace Sys2Proof.Machine

/-! ### Reasons (R259) -/

def rjHeader : Nat := 0x01
def rjSection : Nat := 0x02
def rjLength : Nat := 0x03
def rjRange : Nat := 0x04
def rjReserved : Nat := 0x05
def rjNonzero : Nat := 0x06
def rjPairing : Nat := 0x07
def rjAcc : Nat := 0x08
def rjSp : Nat := 0x09
def rjHbm : Nat := 0x0A
def rjOverlap : Nat := 0x0B
def rjStream : Nat := 0x0C
def rjEscape : Nat := 0x0D
def rjProgram : Nat := 0x0E
def rjScale : Nat := 0x0F
def rjRegulator : Nat := 0x10
def rjOrder : Nat := 0x11
def rjGate : Nat := 0x12
def rjMsel : Nat := 0x13
def rjReplay : Nat := 0x14
def rjGroup : Nat := 0x15

/-- A failure: the byte offset it is found at, and its reason. -/
abbrev Failure := Nat × Nat

/-- The first of a list of tests, each with the failure it gives, that is true. -/
def firstFailure : List (Bool × Failure) → Option Failure
  | [] => none
  | (b, f) :: r => if b then some f else firstFailure r

/-- The first reason of a list of tests that is true. -/
def firstReason : List (Bool × Nat) → Option Nat
  | [] => none
  | (b, r) :: t => if b then some r else firstReason t

/-! ### The header (R244) -/

/-- R243: where the plan region begins. -/
def planStart (s : State) : Nat := planByte s 0

/-- R243: 64 MiB. -/
def planRoom : Nat := 2 ^ 26

def planHeader (s : State) : Bytes := memBytes s (planStart s) 256

def imageSize (h : Bytes) : Nat := leAt h 0x08 4

def sectionCount (h : Bytes) : Nat := leAt h 0x0C 4

/-- The image: as many bytes of the plan region as its header says. -/
def planImage (s : State) : Bytes := memBytes s (planStart s) (min planRoom (imageSize (planHeader s)))

/-- The first byte of the header's last part that is not 0. -/
def reservedByte (h : Bytes) : Option Nat := ((List.range 192).map (· + 0x40)).find? (fun i => leAt h i 1 != 0)

/-- R244: CRC-32 of the image with its CRC field read as 0. -/
def imageCrc (img : Bytes) : Nat := crc32 (img.take 0x10 ++ zeros 4 ++ img.drop 0x14)

/-- R244, R257, R258: the first failure of the header. -/
def headerFailure (h img : Bytes) : Option Failure :=
  firstFailure
    [(leAt h 0 4 != 0x5A504650, (0x00, rjHeader)), (leAt h 4 2 != 1, (0x04, rjHeader)), (leAt h 6 2 != 256, (0x06, rjHeader)),
     (imageSize h < 256 || planRoom < imageSize h, (0x08, rjHeader)),
     (decide (imageSize h < 256 + 16 * sectionCount h), (0x0C, rjLength)),
     (leAt h 0x10 4 != imageCrc img, (0x10, rjHeader)), (decide (12 < leAt h 0x14 4), (0x14, rjHeader)),
     (decide (4096 ≤ leAt h 0x2C 2), (0x2C, rjHeader)),
     (leAt h 0x2E 2 == 0 || decide (4096 < leAt h 0x2E 2), (0x2E, rjHeader)),
     (decide (1023999 < leAt h 0x30 4), (0x30, rjHeader)),
     (decide (leAt h 0x34 4 < 256) || decide (1000000 < leAt h 0x34 4), (0x34, rjHeader)),
     ((reservedByte h).isSome, ((reservedByte h).getD 0, rjHeader))]

/-! ### The section table (R245) -/

/-- A section: its TYPE, UNIT, OFFSET, BYTES and ARG, and the offset of its table entry. -/
structure Sect where
  kind : Nat
  unit : Nat
  ofs : Nat
  bytes : Nat
  arg : Nat
  entry : Nat
deriving DecidableEq, Repr

def sectAt (img : Bytes) (i : Nat) : Sect :=
  let e := 256 + 16 * i
  { kind := leAt img e 2, unit := leAt img (e + 2) 2, ofs := leAt img (e + 4) 4, bytes := leAt img (e + 8) 4,
    arg := leAt img (e + 12) 4, entry := e }

def sections (img : Bytes) : List Sect := (List.range (sectionCount img)).map (sectAt img)

def Sect.data (x : Sect) (img : Bytes) : Bytes := (img.drop x.ofs).take x.bytes

/-- R245: the units of a section type. -/
def unitOk (x : Sect) : Bool :=
  match x.kind with
  | 0 | 7 | 10 => decide (x.unit < 128)
  | 1 => decide (x.unit < 32) && decide (x.unit % 4 < 3)
  | 2 => decide (x.unit < 32)
  | 4 => decide (x.unit < 512) && decide (x.unit % 4 < 3)
  | 9 => true
  | _ => x.unit == 0

/-- R245: the file a FILE section names. -/
def fileOf (x : Sect) : FileKind := if x.unit % 4 = 0 then .codebook else if x.unit % 4 = 1 then .scale else .program

/-- R245, R257: BYTES fits what the section holds. -/
def sizeOk (x : Sect) : Bool :=
  match x.kind with
  | 0 | 1 | 2 | 11 => x.bytes % 16 == 0
  | 3 => x.bytes == 3840
  | 4 =>
    let r := 4 * recordWords (fileOf x)
    x.bytes % r == 0 && decide (x.arg + x.bytes / r ≤ fileRecords (fileOf x))
  | 5 => x.bytes % 12 == 0
  | 6 => decide (8 ≤ x.bytes)
  | 9 => x.bytes % 2 == 0
  | 10 => x.bytes % 8 == 0
  | 12 => x.bytes == 98824
  | _ => true

/-- Two ranges of bytes meet. -/
def rangesMeet (a b : Nat × Nat) : Bool :=
  a.2 != 0 && b.2 != 0 && decide (a.1 < b.1 + b.2) && decide (b.1 < a.1 + a.2)

/-- R245, R259: the failure of a table entry after the entries before it. -/
def entryFailure (h : Bytes) (before : List Sect) (x : Sect) : Option Failure :=
  let meets := before.any (fun y => rangesMeet (x.ofs, x.bytes) (y.ofs, y.bytes))
  let twice := x.kind != 4 && x.kind != 6 && x.kind != 7 && before.any (fun y => y.kind == x.kind && y.unit == x.unit)
  firstFailure
    [(decide (12 < x.kind) || !unitOk x || x.ofs % 16 != 0 || decide (x.ofs < 256 + 16 * sectionCount h)
        || decide (imageSize h < x.ofs + x.bytes) || meets || twice, (x.entry, rjSection)),
     (x.kind == 8 && x.bytes != 2 * leAt h 0x2E 2, (x.entry, rjGroup)), (!sizeOk x, (x.entry, rjLength))]

/-- R258: the first failure of the section table, entry by entry. -/
def tableFailure (h : Bytes) : List Sect → List Sect → Option Failure
  | _, [] => none
  | before, x :: r =>
    match entryFailure h before x with
    | some f => some f
    | none => tableFailure h (before ++ [x]) r

/-- The sections of one type. -/
def ofKind (xs : List Sect) (k : Nat) : List Sect := xs.filter (fun x => x.kind == k)

/-! ### What a load writes (R245, R256) -/

/-- R245: the word a REGS record finds: the shadow bank's for a shadowed word or table, otherwise the word itself. -/
def foundWord (s : State) (p : Page) (ofs : Nat) : Nat :=
  match p.kind, ofs with
  | .burner, 0x84 =>
    let g := s.rd Reg.BN_GSEL_GROUP p.inst
    let w := s.rd Reg.BN_GSEL_WORD p.inst
    if w < 16 then s.shadowWord (groupKey p.inst g w) else stateWord (s.burnerOf p.inst) g w
  | .fabric, 0x5C => s.shadowWord (routeKey (s.rd Reg.ROUTE_INDEX_INDEX))
  | .scoring, 0x54 => s.shadowWord (scKey (s.rd Reg.SC_DSEL_SLOT) (s.rd Reg.SC_DSEL_WORD))
  | .kiteArr, 0xB8 => windowWord s p.inst (selectedFile s p.inst) 1 (s.rd Reg.CBF_INDEX_WORD p.inst)
  | .kiteVec, 0x74 => windowWord s p.inst .program 1 (s.rd Reg.VP_INDEX_WORD p.inst)
  | _, _ =>
    match windowRead s p ofs with
    | some r => r.1
    | none => if ofs < 0x40 then headerWord s p ofs else s.nextReg p ofs

/-- R245: a REGS record is a register write of the merged word (log 15). True when it is refused. -/
def regsRecord (s : State) (addr value mask : Nat) : Bool × State :=
  match pageOf s.slotOf addr with
  | none => (true, s)
  | some p =>
    let ofs := addr % 4096
    if addr % 4 ≠ 0 then (true, s) else writeWord s p ofs (mergeWord (foundWord s p ofs) value mask) false

/-- The offsets of the records of a section of `n`-byte records, and the records. -/
def records (n : Nat) (img : Bytes) (x : Sect) : List (Nat × Bytes) :=
  (List.range (x.bytes / n)).map (fun i => (x.ofs + n * i, (img.drop (x.ofs + n * i)).take n))

/-- What judging the REGS records leaves: the state, the failures, and where a group of a burner was enabled (offset,
train, group). -/
structure RegsLoad where
  s : State
  failures : List Failure := []
  enables : List (Nat × Nat × Nat) := []

def regsStep (r : RegsLoad) (x : Nat × Bytes) : RegsLoad :=
  let addr := leAt x.2 0 4
  let q := regsRecord r.s addr (leAt x.2 4 4) (leAt x.2 8 4)
  if q.1 then { r with failures := r.failures ++ [(x.1, rjRange)] }
  else
    let on := match pageOf r.s.slotOf addr with
      | some ⟨.burner, t⟩ => if addr % 4096 = 0x84 ∧ r.s.rd Reg.BN_GSEL_WORD t = 0 then
          [(x.1, t, r.s.rd Reg.BN_GSEL_GROUP t)] else []
      | _ => []
    { r with s := q.2, enables := r.enables ++ on }

/-- The REGS sections applied in record order. -/
def loadRegs (s : State) (img : Bytes) (xs : List Sect) : RegsLoad :=
  ((ofKind xs 5).flatMap (records 12 img)).foldl regsStep { s := s }

/-- R245: the address of word `i` of a PRECISION section. -/
def precisionAddr (i : Nat) : Page × Nat :=
  if i < 768 then (⟨.precision, 0⟩, 0x400 + 4 * i)
  else (⟨.governor, 0⟩, 0x400 + 16 * ((i - 768) / 3) + 4 * ((i - 768) % 3))

/-- A shadow word written whole. -/
def putShadow (s : State) (p : Page) (ofs w : Nat) : State :=
  (wordFields p.kind ofs).foldl (fun s e => s.wrSh e.1 (getBits w e.1.lo e.1.len) p.inst e.2) s

def loadPrecision (s : State) (img : Bytes) (xs : List Sect) : State :=
  ((ofKind xs 3).flatMap (records 4 img)).zipIdx.foldl (fun s e =>
    putShadow s (precisionAddr e.2).1 (precisionAddr e.2).2 (leNat e.1.2)) s

def loadFiles (s : State) (img : Bytes) (xs : List Sect) : State :=
  (ofKind xs 4).foldl (fun s x => loadRecords s (s.slotOf (x.unit / 4)) (fileOf x) x.arg (x.data img)) s

/-- The DATA sections that stay below 736 GiB, and the SP_DATA sections within a scratchpad; a partition kite's scratchpad takes
weight loads alone (11 R346, log 99). -/
def loadData (s : State) (img : Bytes) (xs : List Sect) : State :=
  let s1 := (ofKind xs 6).foldl (fun s x =>
    if hbmTop < leAt (x.data img) 0 8 + (x.bytes - 8) then s
    else storeFor s .host (leAt (x.data img) 0 8) ((x.data img).drop 8) 0) s
  (ofKind xs 7).foldl (fun s x =>
    if spTop < x.arg + x.bytes ∨ partitionKite s x.unit then s else s.spWrite (s.slotOf x.unit) x.arg (x.data img)) s1

/-- R256: everything the load writes up to DATA and SP_DATA, with the failures of its REGS records. -/
def loadBanks (s : State) (img : Bytes) (xs : List Sect) : RegsLoad :=
  let open1 := { s with step := { s.step with armed := none, commitAt := [] } }
  let r := loadRegs open1 img xs
  let t := loadData (loadFiles (loadPrecision r.s img xs) img xs) img xs
  { r with s := { t with step := { t.step with armed := s.step.armed, commitAt := s.step.commitAt } } }

/-- A kite whose files have latched. -/
def latchedFiles (k : KiteState) : KiteState :=
  let cb := { k.cb with live := k.cb.shadow }
  let sc := { k.sc with live := k.sc.shadow }
  let vp := { k.vp with live := k.vp.shadow }
  { k with cb := cb, sc := sc, vp := vp }

/-- The state as the plan's first step tick will leave the banks: what the checker judges records against. -/
def asCommitted (s : State) : State :=
  { s with regs := s.regs.putAll s.shadow, kites := s.kites.map (fun e => (e.1, latchedFiles e.2)) }

end Sys2Proof.Machine
end

