-- ==== Sys2Proof/Machine/PlanKite.lean ====
section
/-! DEFINITION. The plan checker on the op records of a kite stream (07 R246 to R254, R257 to R259; 01 R54; 03 R123, R135,
R137, R141; 04 R162; 05 R176, R177, R186). -/

namespace Sys2Proof.Machine

/-- What records are judged against (R258): the state before the load, the banks as the plan's first step tick will
leave them, and the image. -/
structure Judge where
  s : State
  c : State
  img : Bytes
  xs : List Sect
deriving DecidableEq, Repr

/-- What a record charges to a regulator partition (06 R212): the partition, an HBM address and bytes. -/
abbrev Charge := Nat × Nat × Nat

/-- A judged op: its reason to reject, the stream ids it draws under, the scratchpad ranges it writes, and what it charges. -/
structure OpView where
  reason : Option Nat := none
  ids : List Nat := []
  writes : List (Nat × Nat) := []
  charges : List Charge := []
deriving DecidableEq, Repr

/-! ### What the image holds -/

/-- R161: the levels of a precision entry: FMT and BLK. -/
def ladder (c : State) (l : Nat) : List (Nat × Nat) :=
  (List.range (min 4 (c.rd Reg.PT_ENTRY_LAD_LEN 0 l))).map (fun i =>
    (getBits (c.rd Reg.PT_ENTRY_LADDER 0 l) (6 * i) 4, getBits (c.rd Reg.PT_ENTRY_LADDER 0 l) (6 * i + 4) 2))

/-- The end of the bytes that ranges hold from `a` on without a gap. -/
def coverEnd : Nat → List (Nat × Nat) → Nat → Nat
  | 0, _, a => a
  | n + 1, rs, a =>
    match rs.find? (fun r => decide (r.1 ≤ a) && decide (a < r.1 + r.2)) with
    | some r => coverEnd n rs (r.1 + r.2)
    | none => a

/-- The HBM ranges the DATA sections write. -/
def dataRanges (j : Judge) : List (Nat × Nat) := (ofKind j.xs 6).map (fun x => (leAt (x.data j.img) 0 8, x.bytes - 8))

/-- The scratchpad ranges the SP_DATA sections of logical kite `k` write. -/
def spDataRanges (j : Judge) (k : Nat) : List (Nat × Nat) :=
  ((ofKind j.xs 7).filter (fun x => x.unit == k)).map (fun x => (x.arg, x.bytes))

/-- Bytes of HBM from `a` on that the DATA sections write. -/
def dataLoaded (j : Judge) (a : Nat) : Nat := coverEnd (dataRanges j).length (dataRanges j) a - a

/-- R245: (address, length) pairs of a section, in `n`-byte numbers, with their offsets. -/
def pairsOf (n : Nat) (img : Bytes) (x : Sect) : List (Nat × Nat × Nat) :=
  (records (2 * n) img x).map (fun r => (r.1, leAt r.2 0 n, leAt r.2 n n))

/-- R238: the PERSISTENT ranges. -/
def persistentRanges (j : Judge) : List (Nat × Nat) := ((ofKind j.xs 11).flatMap (pairsOf 8 j.img)).map (·.2)

/-- R238: the RESIDENT ranges of logical kite `k`. -/
def residentRanges (j : Judge) (k : Nat) : List (Nat × Nat) :=
  (((ofKind j.xs 10).filter (fun x => x.unit == k)).flatMap (pairsOf 4 j.img)).map (·.2)

/-- R214: some granule of the range is served by a train whose regulator holds the partition entirely (log 15). -/
def regulatedShut (c : State) (p a len : Nat) : Bool :=
  len != 0 && (List.range ((a + len - 1) / 2048 - a / 2048 + 1)).any (fun i =>
    let t := trainOf ((a / 2048 + i) * 2048)
    c.rd Reg.REG_CFG_EN t p == 1 && c.rd Reg.REG_CFG_RATE t p == 0)

/-- R214: one of the charges can never be served. -/
def anyShut (c : State) (xs : List Charge) : Bool := xs.any (fun x => regulatedShut c x.1 x.2.1 x.2.2)

/-! ### Array ops (R54, R141, R162, R250, R470) -/

/-- A tile of an op as one ladder level would resolve it. -/
def judgedTile (o : ArrayFields) (mode : Nat) (thin : Bool) (b : Nat) (l : Nat × Nat) : Tile :=
  { run := { idx := 0, cls := 1, sig := none, start := 0, slip := 0 }, op := o, mode := mode, thin := thin, bridle := b,
    fmt := l.1, blk := l.2 }

/-- R35, R119: bytes of the weight stream; of a table-mode stream the least it can have. -/
def judgedBytes (t : Tile) : Nat :=
  t.op.n * (if t.mode = 1 then ceilDiv t.op.kActive 2 + ceilDiv t.op.kActive 128 else columnBytes t)

/-- R123: a table-mode column that the bytes hold whole fails R121. -/
def escScan : Nat → Nat → Bytes → Nat → Bool
  | 0, _, _, _ => false
  | n + 1, k, bs, o =>
    let (codes, bl, e) := tableColumn k bs o
    if bs.length < e then false else (escFailure codes bl).isSome || escScan n k bs e

/-- R470: the weight stream table entry of an op as HBM will hold it. -/
def judgedEntry (j : Judge) (o : ArrayFields) : Bytes := memBytes j.c (wsEntryAddr j.c o.wAddr) 8

/-- What an earlier op of a kite's stream left in a scratchpad range: a MOVE the bytes of HBM from `source` on, a vector op its
own results. -/
structure SpWrite where
  addr : Nat
  bytes : Nat
  source : Option Nat
deriving DecidableEq, Repr

def inRange (a : Nat) (r : Nat × Nat) : Bool := decide (r.1 ≤ a) && decide (a < r.1 + r.2)

/-- R123: the byte of the load image that stands at scratchpad address `a` after the writes `ws`, newest first: one of
SP_DATA, or one of DATA that a MOVE of the kite's own stream brought there (log 91). -/
def spLoadedByte (j : Judge) (k : Nat) (ws : List SpWrite) (a : Nat) : Option Byte :=
  match ws.find? (fun w => inRange a (w.addr, w.bytes)) with
  | some w => w.source.bind (fun h =>
      if (dataRanges j).any (inRange (h + (a - w.addr))) then (memBytes j.c (h + (a - w.addr)) 1).head? else none)
  | none => if (spDataRanges j k).any (inRange a) then (spBytes (j.c.kite (j.s.slotOf k)) a 1).head? else none

/-- R123: the bytes of the load image from scratchpad address `a` on. -/
def spLoaded : Nat → Judge → Nat → List SpWrite → Nat → Bytes
  | 0, _, _, _, _ => []
  | n + 1, j, k, ws, a =>
    match spLoadedByte j k ws a with
    | some b => b :: spLoaded n j k ws (a + 1)
    | none => []

/-- R123: the loaded bytes of an op's weight stream, after the scratchpad writes `ws` of the stream's earlier ops. -/
def loadedStream (j : Judge) (k : Nat) (ws : List SpWrite) (o : ArrayFields) : Bytes :=
  if o.wSrc = 1 then spLoaded (spTop - o.wAddr) j k ws o.wAddr
  else
    let a := leAt (judgedEntry j o) 0 5
    memBytes j.c a (dataLoaded j a)

/-- R54, R162: what one ladder level rejects before the op's ranges are known. -/
def levelReason (o : ArrayFields) (mode : Nat) (thin : Bool) (code : Nat) (l : Nat × Nat) : Option Nat :=
  if !modeLegal mode l.1 l.2 o || (thin && o.wSrc == 0) then some rjPairing
  else match bridleOf l.1 thin code with
    | none => some rjPairing
    | some b => if effRows thin b < o.mLoad ∨ effCols thin b < o.kActive then some rjRange else none

/-- R470: a field of the op's table entry that must be 0 is not. -/
def entryBits (j : Judge) (o : ArrayFields) : Bool :=
  o.wSrc == 0 && (leAt (judgedEntry j o) 5 1 / 4 != 0 || leAt (judgedEntry j o) 6 2 != 0)

/-- R30, R36, R53, R470: the ranges of the op at one ladder level. R470 names no reason for an entry whose ADDR is no multiple
of 128: the model accepts it and streams from ADDR as it stands (DESIGN CHOICE, log 91). -/
def tileReason (j : Judge) (n : Nat) (o : ArrayFields) (t : Tile) : Option Nat :=
  let e := judgedEntry j o
  firstReason
    [(decide (j.c.rd Reg.ACC_SIZE_ACC_SIZE n * 4096 < o.accAddr + o.n * effRows t.thin t.bridle * 4), rjAcc),
     (decide (o.mLoad ≠ 0) && decide (spTop < operandEnd o (stationaryFmt t.mode t.fmt o) t.blk), rjSp),
     (o.wSrc == 1 && decide (spTop < o.wAddr + judgedBytes t), rjSp),
     (entryBits j o, rjRange),
     (o.wSrc == 0 && decide (hbmTop < leAt e 0 5 + judgedBytes t), rjHbm)]

/-- R54, R141: fields that must be 0, reserved codes and ranges whatever the level. -/
def arrayFieldReason (w x : Nat) (o : ArrayFields) (mode : Nat) : Option Nat :=
  firstReason
    [(getBits w 0 5 != 0 || getBits x 0 65 != 0 || (o.accMode != 2 && o.srStream != 0)
        || (mode != 1 && (o.cbFmt != 0 || o.cbGshift != 0 || o.cbBase != 0))
        || (mode != 2 && o.wBits != 0), rjNonzero),
     (o.accMode == 3 || (mode == 1 && decide (0xC ≤ o.cbFmt)), rjReserved),
     (mode == 1 && (!cbFmtLegal o.cbFmt || decide (o.cbGshift < 4) || decide (9 < o.cbGshift)
        || decide (2048 < o.cbBase + ceilDiv o.kActive (2 ^ o.cbGshift))), rjRange)]

/-- R212: the least an op's weight stream charges over its ladder. -/
def weightCharges (j : Judge) (o : ArrayFields) (ts : List Tile) : List Charge :=
  if o.wSrc = 1 then [] else ((ts.map judgedBytes).min?).toList.map (fun b => (o.part, leAt (judgedEntry j o) 0 5, b))

/-- The tiles of an op over its ladder. -/
def judgedTiles (o : ArrayFields) (mode : Nat) (thin : Bool) (code : Nat) (ls : List (Nat × Nat)) : List Tile :=
  ls.filterMap (fun l => (bridleOf l.1 thin code).map (fun b => judgedTile o mode thin b l))

/-- R250: an array op of logical kite `k`, after the scratchpad writes `sp` of the stream's earlier ops. -/
def arrayView (j : Judge) (k : Nat) (sp : List SpWrite) (w x : Nat) : OpView :=
  let n := j.s.slotOf k
  let o := arrayFields w x
  let mode := j.c.rd Reg.ARR_PROFILE_MODE n o.profile
  let thin := j.c.rd Reg.ARR_PROFILE_SHAPE n o.profile == 1
  let code := j.c.rd Reg.ARR_PROFILE_BRIDLE n o.profile
  let ls := ladder j.c o.layer
  let ts := judgedTiles o mode thin code ls
  let fixed := (arrayFieldReason w x o mode).or
    (if ls = [] then some rjPairing else ls.findSome? (levelReason o mode thin code))
  if fixed.isSome then { reason := fixed }
  else if o.n = 0 then { reason := if entryBits j o then some rjRange else none }
  else
    { reason := (ts.findSome? (tileReason j n o)).or (firstReason
        [(mode == 1 && escScan o.n o.kActive (loadedStream j k sp o) 0, rjEscape),
         (anyShut j.c (weightCharges j o ts), rjRegulator)]),
      charges := weightCharges j o ts,
      ids := if o.accMode = 2 then [o.srStream] else [],
      writes := ts.map (fun t => (j.c.rd Reg.ACC_BASE_ACC_BASE n * 4096 + o.accAddr, o.n * effRows t.thin t.bridle * 4)) }

/-! ### Vector ops (R176, R177, R251 to R253) -/

/-- R176, R251, R253: the bits of record 1 below bit 83 that an op kind leaves 0: lowest bit and length. -/
def unusedFirst (vop : Nat) : List (Nat × Nat) :=
  match vop with
  | 0 => [(0, 5)]
  | 1 => [(76, 7), (8, 1), (0, 6)]
  | 2 => [(0, 2)]
  | 3 => [(0, 3)]
  | 4 => [(76, 7), (52, 24), (8, 1), (2, 6), (0, 1)]
  | _ => [(76, 7), (33, 19), (0, 14)]

/-- R176, R251, R253: the bits of record 2 that an op kind leaves 0. -/
def unusedSecond (vop : Nat) : List (Nat × Nat) :=
  match vop with
  | 0 => [(0, 3)]
  | 1 => [(0, 26)]
  | 2 => [(22, 4), (0, 3)]
  | 3 => [(22, 4), (0, 3)]
  | 4 => [(121, 4)]
  | _ => [(74, 54), (0, 58)]

/-- R162, R176: fields left 0 by what the op's other fields say. -/
def unusedByUse (o : VecFields) (draws : Bool) : List (Nat × Nat) :=
  (if o.vop != 4 && o.aFollow then [(122, 6)] else []) ++ (if o.follow then [(114, 6)] else [])
    ++ (if o.follow || (o.vop != 4 && o.aFollow) then [] else [(106, 8)])
    ++ (if o.rnd = 4 then [] else [(74, 16)]) ++ (if draws || o.vop == 4 then [] else [(58, 16)])

/-- Some of the bit ranges of `w`, A_FOLLOW apart, is not 0. -/
def anyBits (w : Nat) (rs : List (Nat × Nat)) : Bool := rs.any (fun r => getBits w r.1 r.2 != 0)

/-- R9, R176: a literal format. -/
def formatReason (fmt blk : Nat) : Option Nat :=
  if 0xD ≤ fmt ∨ blk = 3 then some rjReserved
  else if fmt = 0xA then some rjRange
  else if blkLegal fmt blk then none else some rjReserved

/-- R9, R135, R162, R176: the levels a stream may take and the reason to refuse them. -/
def streamLevels (c : State) (follow : Bool) (layer fmt blk : Nat) (rescale : Bool) : Option Nat × List (Nat × Nat) :=
  if follow then
    let ls := ladder c layer
    (if ls = [] || ls.any (fun l => l.1 == 0xA || (rescale && l.1 == 0xC)) then some rjPairing else none, ls)
  else (if rescale && fmt == 0xC then some rjRange else formatReason fmt blk, [(fmt, blk)])

/-- A range with the width of its elements in bits. -/
structure Span where
  addr : Nat
  bytes : Nat
  width : Nat
deriving DecidableEq, Repr

/-- R177: what an op reads with A at one level. -/
def readSpans (o : VecFields) (l : Nat × Nat) : List Span :=
  if o.vop = 5 then []
  else if o.vop = 4 then
    ⟨o.aAddr, 4 * o.count, 32⟩ :: (if o.scaleSrc then [⟨o.scAddr, 8 * (if o.chAxis then o.rows else o.ncol), 64⟩] else [])
  else
    [⟨o.aAddr, packedBytes (fmtBits l.1) o.n, fmtBits l.1⟩, ⟨o.aSaddr, blocksOf l.2 o.n, 8⟩]
      ++ (if o.vop = 0 ∧ o.second then [⟨o.bAddr, packedBytes (fmtBits o.bFmt) o.n, fmtBits o.bFmt⟩] else [])
      ++ (if (o.vop = 2 ∨ o.vop = 3) ∧ o.second then [⟨o.bAddr, ceilDiv o.n 8, 1⟩] else [])

/-- R177: what an op writes with its destination at one level; a REDUCE at its greatest length. -/
def writeSpans (o : VecFields) (l : Nat × Nat) : List Span :=
  if o.vop = 5 then [⟨o.dstAddr, 2 * o.n, 16⟩]
  else [⟨o.dstAddr, packedBytes (fmtBits l.1) o.count, fmtBits l.1⟩, ⟨o.dstSaddr, blocksOf l.2 o.count, 8⟩]

def Span.leaves (x : Span) : Bool := x.bytes != 0 && decide (spTop < x.addr + x.bytes)

/-- R177: a destination range meets a source range other than exactly. -/
def Span.clashes (d r : Span) : Bool :=
  rangesMeet (d.addr, d.bytes) (r.addr, r.bytes) && !(d.addr == r.addr && d.width == r.width)

/-- R162, R177: the levels that A and the destination can have together: A_FOLLOW and FOLLOW take one level of one entry. -/
def levelPairs (o : VecFields) (as ds : List (Nat × Nat)) : List ((Nat × Nat) × (Nat × Nat)) :=
  if o.aFollow && o.follow then as.zip ds else as.flatMap (fun a => ds.map (fun d => (a, d)))

/-- R135, R177: bounds and overlaps over the levels that go together. -/
def spanReason (o : VecFields) (as ds : List (Nat × Nat)) : Option Nat :=
  let ps := levelPairs o as ds
  firstReason
    [(ps.any (fun p => (readSpans o p.1).any Span.leaves || (writeSpans o p.2).any Span.leaves), rjSp),
     (ps.any (fun p => (writeSpans o p.2).any (fun d => (readSpans o p.1).any d.clashes)), rjOverlap)]

/-- R135: a RESCALE's own ranges. -/
def rescaleReason (o : VecFields) : Option Nat :=
  if o.vop ≠ 4 then none
  else firstReason
    [(decide (128 < o.rows), rjRange),
     (!o.scaleSrc && o.count != 0 && decide (4096 < o.chBase + (if o.chAxis then o.rows else o.ncol)), rjRange)]

/-- R251: a vector op of logical kite `k`. -/
def vectorView (j : Judge) (k w x : Nat) : OpView :=
  let n := j.s.slotOf k
  let o := vecFields w x
  let ws := opWords j.c n o
  let draws := o.vop == 5 || ws.any drawsWord
  let plain := o.vop != 4 && o.vop != 5
  let a := if plain then streamLevels j.c o.aFollow o.layer o.aFmt o.aBlk false else (none, [(0, 0)])
  let d := if o.vop = 5 then (none, [(0, 0)]) else streamLevels j.c o.follow o.layer o.dstFmt o.dstBlk (o.vop == 4)
  let blocked := (a.2 ++ d.2).any (fun l => l.2 != 0)
  let fixed := (firstReason
    [(decide (6 ≤ o.vop), rjReserved),
     (anyBits w (unusedFirst o.vop)
        || anyBits x (unusedSecond o.vop ++ (if o.vop = 5 then [] else unusedByUse o draws)), rjNonzero),
     (o.vop != 5 && decide (4 < o.rnd), rjReserved),
     ((o.vop == 2 || o.vop == 3) && o.redOp == 3, rjRange),
     (programIllegal ws (o.vop == 3), rjProgram),
     (plain && !o.msel && !(fp32 o.m).isFinite, rjScale)]).or
    ((a.1.or d.1).or ((if o.vop = 0 then formatReason o.bFmt 0 else none).or
      ((rescaleReason o).or (firstReason
        [(plain && !o.msel && blocked, rjMsel), (o.vop != 5 && o.rnd == 4 && draws && o.srStream == o.rngStream, rjStream)]))))
  if fixed.isSome then { reason := fixed }
  else if o.count = 0 then {}
  else
    { reason := spanReason o a.2 d.2, ids := opStreams ws o,
      writes := (d.2.flatMap (writeSpans o)).map (fun r => (r.addr, r.bytes)) }

/-! ### CBF_LOAD, MOVE and SYNC (R136, R137, R254) -/

def cbfReason (w : Nat) : Option Nat :=
  let f := cbfFields w
  let top := fileRecords f.file
  firstReason
    [(getBits w 0 44 != 0, rjNonzero), (decide (top ≤ f.index) || decide (top < f.count), rjRange),
     (decide (top < f.index + f.count), rjLength), (decide (spTop < f.src + 4 * recordWords f.file * f.count), rjSp)]

def moveView (j : Judge) (w : Nat) : OpView :=
  let m := moveFields w
  if getBits w 0 15 ≠ 0 then { reason := some rjNonzero }
  else if m.len = 0 then {}
  else
    { reason := firstReason
        [(decide (hbmTop < m.hbmAddr + m.len), rjHbm), (decide (spTop < m.spAddr + m.len), rjSp),
         (m.toHbm && (persistentRanges j).any (rangesMeet (m.hbmAddr, m.len)), rjReplay),
         (regulatedShut j.c m.part m.hbmAddr m.len, rjRegulator)],
      charges := [(m.part, m.hbmAddr, m.len)],
      writes := if m.toHbm then [] else [(m.spAddr, m.len)] }

/-- R246: one op by its CLASS; CLASS 5 belongs to memory programs. -/
def opView (j : Judge) (k : Nat) (sp : List SpWrite) (w x : Nat) : OpView :=
  match opClass w with
  | 0 => { reason := if getBits w 0 86 = 0 then none else some rjNonzero }
  | 1 => arrayView j k sp w x
  | 2 => vectorView j k w x
  | 3 => { reason := cbfReason w }
  | 4 => moveView j w
  | _ => { reason := some rjReserved }

/-! ### A stream (R105, R238, R246, R258) -/

/-- Gates waited on and signalled: (offset, kite, gate, count) and (kite, gate). -/
structure GateUse where
  waits : List (Nat × Nat × Nat × Nat) := []
  signals : List (Nat × Nat) := []
deriving DecidableEq, Repr

def GateUse.plus (a b : GateUse) : GateUse := { waits := a.waits ++ b.waits, signals := a.signals ++ b.signals }

/-- R246, R247: the gates of a record; a line record signals at another device. -/
def gatesOf (ofs kite w : Nat) (signals : Bool) : GateUse :=
  { waits := if getBits w 92 7 = 0 then [] else [(ofs, kite, getBits w 99 5, getBits w 92 7)],
    signals := match signalOf w with | some g => if signals then [(kite, g)] else [] | none => [] }

/-- What walking a stream has gathered. -/
structure Walk where
  failures : List Failure := []
  ids : List Nat := []
  release : Nat := 0
  gates : GateUse := {}
  sp : List SpWrite := []
  charges : List (Nat × Charge) := []
deriving DecidableEq, Repr

/-- R123: what an accepted op leaves in the scratchpad; an array op's accumulator writes lie outside it. -/
def spWrites (w : Nat) (v : OpView) : List SpWrite :=
  match opClass w with
  | 2 => v.writes.map (fun r => ⟨r.1, r.2, none⟩)
  | 4 => v.writes.map (fun r => ⟨r.1, r.2, some (moveFields w).hbmAddr⟩)
  | _ => []

/-- R105, R238, R259: an op's reason, and what its place in the stream adds. -/
def placedReason (j : Judge) (k : Nat) (a : Walk) (w : Nat) (v : OpView) : Option Nat :=
  v.reason.or (firstReason
    [(v.writes.any (fun r => (residentRanges j k).any (rangesMeet r)), rjReplay),
     (decide (getBits w 104 20 < a.release), rjOrder), (streamDup a.ids v.ids, rjStream)])

/-- One op at offset `ofs` of the image joins the walk. -/
def walkOp (j : Judge) (k : Nat) (a : Walk) (ofs w x : Nat) : Walk :=
  let v := opView j k a.sp w x
  { failures := match placedReason j k a w v with | some r => a.failures ++ [(ofs, r)] | none => a.failures,
    ids := a.ids ++ v.ids, release := getBits w 104 20, gates := a.gates.plus (gatesOf ofs k w true),
    sp := spWrites w v ++ a.sp, charges := a.charges ++ v.charges.map (ofs, ·) }

/-- The record at offset `ofs` of the image. -/
def imageRecord (img : Bytes) (ofs : Nat) : Nat := leAt img ofs 16

/-- R246, R258: the ops of a stream of `n` records from offset `ofs`; the last may be cut short. -/
def walkOps : Nat → Judge → Nat → Nat → Nat → Walk → Walk
  | 0, _, _, _, _, a => a
  | fuel + 1, j, k, ofs, n, a =>
    if n = 0 then a
    else
      let w := imageRecord j.img ofs
      let r := opRecords w
      if n < r then { a with failures := a.failures ++ [(ofs, rjLength)] }
      else walkOps fuel j k (ofs + 16 * r) (n - r) (walkOp j k a ofs w (imageRecord j.img (ofs + 16)))

/-- R246, R345: a KITE_OPS section. -/
def kiteSection (j : Judge) (x : Sect) : Walk :=
  let a := walkOps (x.bytes / 16) j x.unit x.ofs (x.bytes / 16) {}
  if partitionKite j.c x.unit then { a with failures := (x.entry, rjSection) :: a.failures } else a

end Sys2Proof.Machine
end

