-- ==== Sys2Proof/Machine/PlanCheck.lean ====
section
/-! DEFINITION. The plan checker on train programs, line schedules and whole sections, its verdict, and the load (07 R235,
R238, R245, R255 to R259; 08 R281; 09 R294, R297; 10 R322, R335, R336; 04 R160, R163, R174): PLAN_CHECK_DONE. -/

namespace Sys2Proof.Machine

/-! ### Train programs -/

/-- What walking a train's programs has gathered: the walk, and the winch descriptors that DATA writes. -/
structure TrainWalk where
  walk : Walk := {}
  descs : List WinchDesc := []
deriving DecidableEq, Repr

/-- R255: the body bits of a SYNC record of program `p` other than KITE. -/
def syncBody (p w : Nat) : Bool := getBits w 0 (kiteAt p) != 0 || getBits w (kiteAt p + 7) (79 - kiteAt p) != 0

/-- R212: what a memory record reads and writes of HBM. -/
def memCharges (m : MemFields) : List Charge :=
  match m.mop with
  | 0 => [(m.part, m.addr, m.len), (m.part, m.dst, m.len)]
  | 1 => [(m.part, m.addr, m.len)]
  | _ => []

/-- R255: a memory record. -/
def memReason (j : Judge) (w : Nat) : Option Nat :=
  let m := memFields w
  if opClass w = 0 then (if syncBody 0 w then some rjNonzero else none)
  else if opClass w ≠ 5 ∨ 4 ≤ m.mop then some rjReserved
  else if (m.mop ≠ 0 ∧ m.dst ≠ 0) ∨ (2 ≤ m.mop ∧ m.hint ≠ 0) then some rjNonzero
  else if m.len = 0 then none
  else
    let copy := m.mop == 0
    firstReason
      [(decide (hbmTop < m.addr + m.len) || (copy && decide (hbmTop < m.dst + m.len)), rjHbm),
       (copy && (persistentRanges j).any (rangesMeet (m.dst, m.len)), rjReplay),
       (anyShut j.c (memCharges m), rjRegulator)]

/-- R296: the descriptor of a reduction record, when the DATA sections write it. -/
def judgedDesc (j : Judge) (t w : Nat) : Option WinchDesc :=
  let a := j.c.rd Reg.WN_DESC_BASE_BASE t * 256 + 32 * getBits w 64 16
  if opClass w = 4 ∧ 32 ≤ dataLoaded j a then some (parseDesc (memBytes j.c a 32)) else none

/-- R212: the gradient a record reads and the result it writes, at the least. -/
def descCharges (part : Nat) (d : WinchDesc) : List Charge :=
  [(part, d.grad, gradBytes d.gradFmt * d.count), (part, d.result, 4 * d.count)]

/-- R297: a descriptor a record names. -/
def descReason (j : Judge) (part : Nat) (ids : List Nat) (d : WinchDesc) : Option Nat :=
  firstReason
    [(d.wire == 3 || d.gradFmt == 3, rjReserved), (descRange d, rjRange), (descBeyond d, rjHbm),
     (decide (2 ≤ d.accSteps) && ids.contains d.stream, rjStream),
     (anyShut j.c (descCharges part d), rjRegulator)]

/-- R294: a record of a winch program. -/
def winchReason (j : Judge) (t : Nat) (ids : List Nat) (w : Nat) : Option Nat :=
  if opClass w = 0 then (if syncBody 1 w then some rjNonzero else none)
  else if opClass w ≠ 4 then some rjReserved
  else if getBits w 0 57 ≠ 0 then some rjNonzero
  else (judgedDesc j t w).bind (descReason j (getBits w 83 3) ids)

/-- R336: the descriptor of an update record, when the DATA sections write it. -/
def judgedBurnDesc (j : Judge) (t w : Nat) : Option BurnDesc :=
  let a := j.c.rd Reg.BN_DESC_BASE_BASE t * 256 + 32 * getBits w 59 16
  if opClass w = 4 ∧ 32 ≤ dataLoaded j a then some (parseBurnDesc (memBytes j.c a 32)) else none

/-- R336: a descriptor an update record names, over the ladder of its group's working copy. -/
def burnDescReason (j : Judge) (part w0 : Nat) (ids : List Nat) (d : BurnDesc) : Option Nat :=
  let ls := (ladder j.c (j.c.rd Reg.TAG_MAP_LAYER 0 (grpWtag w0))).map (fun l => l.1 + 16 * l.2)
  let rule := grpRule w0
  firstReason
    [((rndOf d.rnd).isNone, rjReserved),
     (!d.zeroBits || d.state % 256 != 0 || d.grad % 256 != 0 || d.wcopy % 256 != 0
        || (ls.any (fun l => l / 16 != 0) && d.wscale % 256 != 0) || (rule == 2 && d.count % 8 != 0), rjRange),
     (rangesBeyond (burnSources d rule 0) || ls.any (burnBeyond d rule), rjHbm), (d.rnd == 4 && ids.contains d.stream, rjStream),
     (regulatedShut j.c part d.state (recBytes rule * (d.count / recElems rule))
        || regulatedShut j.c part d.grad (4 * d.count), rjRegulator)]

/-- R322, R335: a record of a burner program. -/
def burnerReason (j : Judge) (t : Nat) (descs : List WinchDesc) (ids : List Nat) (w : Nat) : Option Nat :=
  let g := getBits w 75 8
  let w0 := (groupWords j.c t g).getD 0 0
  if getBits w 92 32 ≠ 0 then some rjNonzero
  else if opClass w = 0 then (if syncBody 2 w then some rjNonzero else none)
  else if opClass w ≠ 4 then some rjReserved
  else if getBits w 0 52 ≠ 0 then some rjNonzero
  else if descs.any (fun d => d.pgroup == g && d.accSteps != grpAccSteps w0) then some rjRange
  else (judgedBurnDesc j t w).bind (burnDescReason j (getBits w 83 3) w0 ids)

/-- The stream id a record draws under each time it runs, as far as the image's DATA says (R297, R336). -/
def recordIds (j : Judge) (t p w : Nat) : List Nat :=
  match p with
  | 1 => match judgedDesc j t w with | some d => if 2 ≤ d.accSteps then [d.stream] else [] | none => []
  | 2 => match judgedBurnDesc j t w with | some d => if d.rnd = 4 then [d.stream] else [] | none => []
  | _ => []

/-- R214, R234: what a record of program `p` charges before the step can seal, as far as the image says; the burner works
after the seal. -/
def recordCharges (j : Judge) (t p w : Nat) : List Charge :=
  match p with
  | 0 => if opClass w = 5 then memCharges (memFields w) else []
  | 1 => match judgedDesc j t w with | some d => descCharges (getBits w 83 3) d | none => []
  | _ => []

/-- One record of program `p` of train `t`. -/
def walkRecord (j : Judge) (t p : Nat) (descs : List WinchDesc) (a : Walk) (ofs : Nat) : Walk :=
  let w := imageRecord j.img ofs
  let r := (match p with
    | 0 => memReason j w
    | 1 => winchReason j t a.ids w
    | _ => burnerReason j t descs a.ids w).or (if getBits w 104 20 < a.release then some rjOrder else none)
  { failures := match r with | some r => a.failures ++ [(ofs, r)] | none => a.failures,
    ids := a.ids ++ recordIds j t p w, release := getBits w 104 20,
    gates := a.gates.plus (gatesOf ofs (recordKite p w) w true),
    charges := a.charges ++ (recordCharges j t p w).map (ofs, ·) }

def recordOffsets (x : Sect) : List Nat := (List.range (x.bytes / 16)).map (fun i => x.ofs + 16 * i)

/-- R322: the winch descriptors of train `t` that its plan names and the DATA sections write. -/
def trainDescs (j : Judge) (t : Nat) : List WinchDesc :=
  ((ofKind j.xs 1).filter (fun x => x.unit == 4 * t + 1)).flatMap (fun x =>
    (recordOffsets x).filterMap (fun o => judgedDesc j t (imageRecord j.img o)))

/-- R245: a TRAIN_PROG section; a burner's groups are held against the winch descriptors of every train (R322). -/
def trainSection (j : Judge) (x : Sect) : Walk :=
  (recordOffsets x).foldl (walkRecord j (x.unit / 4) (x.unit % 4) ((List.range 8).flatMap (trainDescs j))) {}

/-! ### Line schedules (R281) -/

def lineReason (j : Judge) (l w : Nat) : Option Nat :=
  let m := lineFields w
  firstReason
    [(opClass w != 4, rjReserved), (decide (m.vc < 2) || m.dest == j.s.self, rjRange),
     (decide (hbmTop < m.src + m.len) || decide (hbmTop < m.dst + m.len), rjHbm),
     (regulatedShut j.c (j.c.rd Reg.LINE_CFG_PART l) m.src m.len, rjRegulator)]

def walkLine (j : Judge) (l : Nat) (a : Walk) (ofs : Nat) : Walk :=
  let w := imageRecord j.img ofs
  let r := (lineReason j l w).or (if getBits w 104 20 < a.release then some rjOrder else none)
  let m := lineFields w
  { a with failures := match r with | some r => a.failures ++ [(ofs, r)] | none => a.failures,
           release := getBits w 104 20, gates := a.gates.plus (gatesOf ofs m.kite w false),
           charges := a.charges ++ [(ofs, (j.c.rd Reg.LINE_CFG_PART l, m.src, m.len))] }

def lineSection (j : Judge) (x : Sect) : Walk := (recordOffsets x).foldl (walkLine j x.unit) {}

/-! ### Other sections -/

/-- R9, R161: a PT_ENTRY word. -/
def entryReason (w : Nat) : Option Nat :=
  let n := getBits w 26 3
  let ls := (List.range n).map (fun i => (getBits w (6 * i) 4, getBits w (6 * i + 4) 2))
  if 4 < n ∨ (n ≠ 0 ∧ n ≤ getBits w 29 2) then some rjRange
  else if ls.any (fun l => decide (0xC ≤ l.1) || !blkLegal l.1 l.2) then some rjReserved
  else none

/-- R160: the three words of a rule: the reason at word 0 or at word 1. -/
def ruleFailure (ofs w0 w1 : Nat) : Option Failure :=
  if 10 ≤ getBits w0 20 4 ∨ 5 ≤ getBits w0 15 3 then some (ofs, rjRange)
  else if bit w0 31 ∧ getBits w1 8 8 = 0 then some (ofs + 4, rjRange)
  else none

/-- R245: a PRECISION section's words. -/
def precisionFailures (img : Bytes) (x : Sect) : List Failure :=
  let w := fun (i : Nat) => leAt img (x.ofs + 4 * i) 4
  ((List.range 256).filterMap (fun i => (entryReason (w i)).map (fun r => (x.ofs + 4 * i, r))))
    ++ ((List.range 256).filterMap (fun i =>
      if (fp32 (w (512 + i))).isFinite && !(fp32 (w (512 + i))).isZero then none else some (x.ofs + 4 * (512 + i), rjRange)))
    ++ ((List.range 64).filterMap (fun r => ruleFailure (x.ofs + 4 * (768 + 3 * r)) (w (768 + 3 * r)) (w (769 + 3 * r))))

/-- R245: the device numbers of a section with their offsets. -/
def devicesOf (img : Bytes) (x : Sect) : List (Nat × Nat) := (records 2 img x).map (fun r => (r.1, leNat r.2))

/-- The offsets at which a number comes again, or one that `bad` rejects. -/
def listedTwice (bad : Nat → Bool) : List Nat → List (Nat × Nat) → List Nat
  | _, [] => []
  | seen, (o, d) :: r => (if seen.contains d || bad d then [o] else []) ++ listedTwice bad (d :: seen) r

/-- The seal group of the image (R235). -/
def groupOf (j : Judge) : List Nat := ((ofKind j.xs 8).flatMap (devicesOf j.img)).map (·.2)

/-- R259: the DEVICES section. -/
def devicesFailures (j : Judge) (x : Sect) : List Failure :=
  let ds := (devicesOf j.img x).map (·.2)
  (listedTwice (fun _ => false) [] (devicesOf j.img x)).map (·, rjGroup)
    ++ (if ds.contains (leAt j.img 0x2C 2) && ds.contains j.s.self then [] else [(x.entry, rjGroup)])

/-- R152, R259: the DOMAIN sections, in table order. -/
def domainFailures (j : Judge) : List Failure :=
  (listedTwice (fun d => !(groupOf j).contains d) [] ((ofKind j.xs 9).flatMap (devicesOf j.img))).map (·, rjGroup)

/-- The failures of the pairs of a section that reach past `top`. -/
def boundFailures (n top reason : Nat) (img : Bytes) (x : Sect) : List Failure :=
  ((pairsOf n img x).filter (fun p => decide (top < p.2.1 + p.2.2))).map (fun p => (p.1, reason))

/-- R174, R245: the STEP of a GOV_STATE section. -/
def govFailures (img : Bytes) (x : Sect) : List Failure :=
  let st := leAt img x.ofs 8
  if st = 2 ^ 64 - 1 ∨ st = (leAt img 0x20 8 + 2 ^ 64 - 1) % 2 ^ 64 then [] else [(x.ofs, rjRange)]

/-- What one section's content is judged by; REGS and DOMAIN sections are judged together. -/
def sectionWalk (j : Judge) (x : Sect) : Walk :=
  match x.kind with
  | 0 => kiteSection j x
  | 1 => trainSection j x
  | 2 => lineSection j x
  | 3 => { failures := precisionFailures j.img x }
  | 6 => { failures := if hbmTop < leAt (x.data j.img) 0 8 + (x.bytes - 8) then [(x.ofs, rjHbm)] else [] }
  | 7 => { failures := if spTop < x.arg + x.bytes then [(x.entry, rjLength)] else [] }
  | 8 => { failures := devicesFailures j x }
  | 10 => { failures := boundFailures 4 spTop rjLength j.img x }
  | 11 => { failures := boundFailures 8 hbmTop rjHbm j.img x }
  | 12 => { failures := govFailures j.img x }
  | _ => {}

/-! ### Whole-plan checks -/

/-- R163: a power of two between 2^−126 and 2^127. -/
def tagPow2 (t : Nat) : Bool := t % 2 ^ 23 == 0 && decide (1 ≤ t / 2 ^ 23) && decide (t / 2 ^ 23 ≤ 254)

/-- R155, R163: rule `r` is enabled, scales, and selects tag `t`. -/
def ruleScales (c : State) (r t : Nat) : Bool :=
  let w0 := ruleWord0 (c.rd · 0 ·) r
  let w1 := ruleWord1 (c.rd · 0 ·) r
  bit w0 31 && (getBits w0 15 3 == 3 || getBits w0 15 3 == 4) && bit (getBits w0 24 4) (c.rd Reg.TAG_MAP_ROLE 0 t)
    && decide (getBits w1 16 8 ≤ t) && decide (t ≤ getBits w1 24 8)

/-- The offset a failure of tag `t`'s scale is reported at: its word of the PRECISION section, else the last REGS record
that writes it, else 0 (log 15). -/
def scaleOffset (j : Judge) (t : Nat) : Nat :=
  match ofKind j.xs 3 with
  | x :: _ => x.ofs + 4 * (512 + t)
  | [] => ((((ofKind j.xs 5).flatMap (records 12 j.img)).filter (fun r =>
      leAt r.2 0 4 == Page.base ⟨.precision, 0⟩ + 0xC00 + 4 * t)).getLast?.map (·.1)).getD 0

/-- R163: the tags a scaling rule selects hold powers of two. -/
def scaleFailures (j : Judge) : List Failure :=
  ((List.range 256).filter (fun t => !tagPow2 (j.c.rd Reg.TAG_SCALE_T 0 t) && (List.range 64).any (fun r => ruleScales j.c r t))).map
    (fun t => (scaleOffset j t, rjScale))

/-- R324: a group the plan enables whose working copy has no format. -/
def groupFailures (j : Judge) (enables : List (Nat × Nat × Nat)) : List Failure :=
  (enables.filter (fun e =>
    let w0 := (groupWords j.c e.2.1 e.2.2).getD 0 0
    bit w0 31 && (ladder j.c (j.c.rd Reg.TAG_MAP_LAYER 0 (grpWtag w0))) == [])).map (fun e => (e.1, rjPairing))

/-- R259, R281: the signals the step sends to a gate of a kite: the image's own, and in a group those of the other devices'
line schedules, which no image shows (log 15). -/
def signalsTo (j : Judge) (g : GateUse) (kite gate : Nat) : Nat :=
  (g.signals.filter (· == (kite, gate))).length
    + (if groupOf j = [j.s.self] then 0 else Config.remoteSignals (leAt j.img 0x10 4) kite gate)

/-- R259: a WAIT_COUNT above the step's signals to its gate. -/
def gateFailures (j : Judge) (g : GateUse) : List Failure :=
  (g.waits.filter (fun w => decide (signalsTo j g w.2.1 w.2.2.1 < w.2.2.2))).map (fun w => (w.1, rjGate))

/-- R213: the sectors that the regulator of train `t` lets partition `p` take by the step limit. -/
def regulatorReach (j : Judge) (t p : Nat) : Nat :=
  j.c.rd Reg.REG_CFG_BURST t p + j.c.rd Reg.REG_CFG_RATE t p * memCycle (leAt j.img 0x3C 4) / 1024

/-- The offset of the first charge by which a train's partition has taken more than `reach` sectors. -/
def overdrawn (t p reach : Nat) : Nat → List (Nat × Charge) → Option Nat
  | _, [] => none
  | n, (o, q, a, len) :: r =>
    let m := n + (if q = p then ((sectorsOf a len).filter (fun x => trainOf x == t)).length else 0)
    if reach < m then some o else overdrawn t p reach m r

/-- R214: a regulated partition whose streams cannot complete within the step limit (log 15). -/
def regulatorFailures (j : Judge) (xs : List (Nat × Charge)) : List Failure :=
  if leAt j.img 0x3C 4 = 0 then []
  else (List.range 64).filterMap (fun i =>
    if j.c.rd Reg.REG_CFG_EN (i / 8) (i % 8) = 0 then none
    else (overdrawn (i / 8) (i % 8) (regulatorReach j (i / 8) (i % 8)) 0 xs).map (·, rjRegulator))

/-- Every failure past the header and the table. -/
def contentFailures (j : Judge) (r : RegsLoad) : List Failure :=
  let ws := j.xs.map (sectionWalk j)
  let g := (ws.map (·.gates)).foldl GateUse.plus {}
  ws.flatMap (·.failures) ++ r.failures ++ domainFailures j ++ scaleFailures j ++ groupFailures j r.enables
    ++ gateFailures j g ++ regulatorFailures j (ws.flatMap (·.charges))

/-- R258: the failure at the lowest offset; of two there, the first found. -/
def lowest : List Failure → Option Failure
  | [] => none
  | f :: r => match lowest r with | some g => if g.1 < f.1 then some g else some f | none => some f

/-- R258: the checker's verdict on the image in the plan region. -/
def planFailure (s : State) : Option Failure :=
  let h := planHeader s
  let img := planImage s
  let xs := sections img
  match headerFailure h img, tableFailure h [] xs with
  | some f, _ => some f
  | none, some f => some f
  | none, none =>
    if ofKind xs 8 = [] then some (0x2E, rjGroup)
    else
      let r := loadBanks s img xs
      lowest (contentFailures { s := s, c := asCommitted r.s, img := img, xs := xs } r)

/-! ### The load (R245, R256) -/

/-- R245: OPS_BASE and OPS_COUNT of every logical kite. -/
def loadOps (s : State) (xs : List Sect) : State :=
  (List.range 128).foldl (fun s k =>
    let n := s.slotOf k
    match (ofKind xs 0).find? (fun x => x.unit == k) with
    | some x => (s.wrSh Reg.OPS_BASE_BASE x.ofs n).wrSh Reg.OPS_COUNT_COUNT (x.bytes / 16) n
    | none => s.wrSh Reg.OPS_COUNT_COUNT 0 n) s

/-- Sections by unit: their offsets and bytes. -/
def byUnit (xs : List Sect) : Table (Nat × Nat) := xs.foldl (fun (t : Table (Nat × Nat)) x => t.put x.unit (x.ofs, x.bytes)) []

/-- R244, R245: the plan as the device keeps it. -/
def planOf (s : State) (img : Bytes) (xs : List Sect) : Plan :=
  let doms := (ofKind xs 9).map (fun x => (devicesOf img x).map (·.2))
  { seed := leAt img 0x18 8, rank := leAt img 0x2C 2, relShift := leAt img 0x14 4, firstStep := leAt img 0x20 8,
    stepCount := leAt img 0x28 4, winPhase := leAt img 0x30 4, stepLead := leAt img 0x34 4, stepMin := leAt img 0x38 4,
    stepLimit := leAt img 0x3C 4, progs := byUnit (ofKind xs 1), scheds := byUnit (ofKind xs 2),
    devices := ((ofKind xs 8).flatMap (devicesOf img)).map (·.2),
    domain := (doms.find? (·.contains s.self)).getD [], domains := doms,
    resident := (ofKind xs 10).foldl (fun (t : Table (List (Nat × Nat))) x => t.put x.unit ((pairsOf 4 img x).map (·.2))) [],
    spData := (ofKind xs 7).foldl (fun (t : Table (List (Nat × Nat × Nat))) x =>
      t.put x.unit (t.getD x.unit [] ++ [(x.ofs, x.bytes, x.arg)])) [],
    persistent := ((ofKind xs 11).flatMap (pairsOf 8 img)).map (·.2) }

/-- R174, R256: the governor at a load. -/
def loadGovState (s : State) (img : Bytes) (xs : List Sect) : State :=
  loadGovernor s (((ofKind xs 12).head?).map (fun x => x.data img))

/-- R256 item 4, 16 R450: the load of an accepted image; it is measured into MR 6. -/
def loadPlan (s : State) : State :=
  let img := planImage s
  let xs := sections img
  let s1 := loadOps (loadBanks s img xs).s xs
  let s2 := loadGovState (unpinLines (s1.wrSh Reg.MW_PHASE_WIN_PHASE (leAt img 0x30 4)) (fun _ _ => true)) img xs
  let s3 := ({ s2 with plan := planOf s img xs }.wr Reg.PLAN_STAT_STATE 2).wr Reg.PLAN_STAT_REASON 0
  raise (extendMr (s3.wr Reg.PLAN_CRC_CRC (leAt img 0x10 4)) 6 7 0 (shaNat img)) Ev.plan_PLAN_LOADED

/-- R258: a rejected image leaves STATE, REASON and the offset, and nothing else. -/
def rejectPlan (s : State) (f : Failure) : State :=
  raise (((s.wr Reg.PLAN_STAT_STATE 3).wr Reg.PLAN_STAT_REASON f.2).wr Reg.PLAN_REJ_OFS_OFFSET f.1) Ev.plan_PLAN_REJECT

/-- R256 to R258: the check of an image that the gondola has read ends. -/
def judgePlan (s : State) : State :=
  match planFailure s with
  | some f => rejectPlan s f
  | none => loadPlan s

/-- R206, R217, R258: the gondola reads the image through the spools; one that it cannot read whole fails its CRC (log 95). -/
def finishCheck (s : State) : State :=
  match readFor s .host (planStart s) (max 256 (min planRoom (imageSize (planHeader s)))) 0 with
  | (some _, s1) => judgePlan s1
  | (none, s1) => rejectPlan s1 (0x10, rjHeader)

/-- R225: the image's last access waits for an open window to end. -/
def execPlanCheckDone (s : State) : Result :=
  whenOk (s.rd Reg.PLAN_STAT_STATE == 1 && s.mem.window.isNone) s (finishCheck s)

end Sys2Proof.Machine
end

