-- ==== Sys2Proof/Machine/Port.lean ====
section
/-! DEFINITION. The port itself: dropped frames, pause frames, IEEE 1588 messages, the link (12 R362 to R365). -/

namespace Sys2Proof.Machine

/-! ### Receive filter (R363, R364) -/

/-- R363, R364: what the filter does with a frame that is for no use of the port. -/
def filterFrame (s : State) (f : RxFrame) : State :=
  match f with
  | .badFcs => s.bump Reg.RX_FCS_ERR_COUNT
  | .vlan vid => if vlanPasses s vid then s else s.bump Reg.RX_FILTERED_COUNT
  | .wrongDest => s.bump Reg.RX_FILTERED_COUNT
  | .twoTags => s.bump Reg.RX_FILTERED_COUNT
  | .badUdpSum => s.bump Reg.RX_FILTERED_COUNT
  | .unknownType => s.bump Reg.RX_FILTERED_COUNT

def execHostFrameDropped (f : RxFrame) (s : State) : Result := .next (filterFrame s f)

/-- R362: received pause frames are counted and ignored. -/
def execPauseRx (s : State) : Result := .next (s.bump Reg.PAUSE_RX_COUNT)

/-! ### IEEE 1588 (R365) -/

def State.setPtp (s : State) (p : Ptp) : State := { s with host := { s.host with ptp := p } }

/-- R365: the two-step offset of the slave clock, from the stamps of a Sync and a Delay_Req exchange. -/
def ptpOffset (p : Ptp) (origin tx rx : Nat) : Int := (((p.syncRx : Int) - origin) - ((rx : Int) - tx)) / 2

/-- R365: a message reaches the slave clock. Event messages are stamped; how the unit is then disciplined is not given
(log 20). -/
def ptpTake (s : State) (m : PtpMsg) : State :=
  let p := s.host.ptp
  match m with
  | .sync seq rx => s.setPtp { p with syncSeq := seq, syncRx := rx, origin := none, stamps := p.stamps + 1 }
  | .followUp seq origin => if seq = p.syncSeq then s.setPtp { p with origin := some origin } else s
  | .delayReqSent seq tx => s.setPtp { p with reqSeq := seq, reqTx := some tx, stamps := p.stamps + 1 }
  | .delayResp seq rx =>
    match p.origin, p.reqTx with
    | some o, some tx => if seq = p.reqSeq then s.setPtp { p with reqTx := none, offset := ptpOffset p o tx rx } else s
    | _, _ => s
  | .announce => s
  | .other => s

/-- A Delay_Req is sent by the device; every other message is received. -/
def execPtpMessage (m : PtpMsg) (s : State) : Result :=
  .next (match m with
    | .delayReqSent _ _ => (ptpTake s m).bump Reg.TX_FRAMES_COUNT
    | _ => (ptpTake s m).bump Reg.RX_FRAMES_COUNT)

/-! ### The link (R362, 11 R359, 16 R444) -/

/-- 16 R444: the port trains from stage 3 on. -/
def canLink (s : State) : Bool := decide (2 ≤ s.rd Reg.DEV_STAT_STATE) && s.rd Reg.PORT_STAT_LINK == 0

/-- The port has trained; `preempt` is the outcome of the verification of frame preemption. -/
def portRises (s : State) (preempt : Bool) : State :=
  raise (((s.wr Reg.PORT_STAT_LINK 1).wr Reg.PORT_STAT_FEC_LOCK 1).wr Reg.SC_STAT_PREEMPT (ofBool preempt)) Ev.mac_LINK_UP

def execHostLinkUp (preempt : Bool) (s : State) : Result := whenOk (canLink s) s (portRises s preempt)

def execHostLinkDown (s : State) : Result := whenOk (s.rd Reg.PORT_STAT_LINK == 1) s (portFalls s)

end Sys2Proof.Machine
end

