-- ==== Sys2Proof/Machine/ScanOut.lean ====
section
/-! DEFINITION. Scan-out of a haul-down (15 R436, R437). -/

namespace Sys2Proof.Machine

/-! ### Blobs (R437) -/

/-- A unit's blob: offset in the debug region, size, pages in address order, and the IDs of its captured sections. -/
structure Blob where
  ofs : Nat
  size : Nat
  pages : List Page
  sections : List Nat
deriving DecidableEq, Repr

def kiteBlob (n : Nat) : Blob :=
  { ofs := 2 ^ 20 + n * 384 * 1024, size := 384 * 1024, pages := [⟨.kiteCtl, n⟩, ⟨.kiteArr, n⟩, ⟨.kiteVec, n⟩, ⟨.kiteEnv, n⟩],
    sections := (List.range 11).map (· + 1) }

def trainBlob (t : Nat) : Blob :=
  { ofs := 52 * 2 ^ 20 + t * 512 * 1024, size := 512 * 1024,
    pages := [⟨.trainCtl, t⟩, ⟨.spool, t⟩, ⟨.regulator, t⟩, ⟨.winch, t⟩, ⟨.burner, t⟩, ⟨.reel, t⟩]
      ++ [2 * t, 2 * t + 1].flatMap (fun k => [⟨.stackCtl, k⟩, ⟨.stackErr, k⟩, ⟨.stackChan, k⟩]),
    sections := (List.range 6).map (· + 20) }

def lineBlob (l : Nat) : Blob :=
  { ofs := 56 * 2 ^ 20 + l * 512 * 1024, size := 512 * 1024, pages := [⟨.lineCtl, l⟩, ⟨.lineLane, l⟩], sections := [30, 31, 32] }

/-- The device pages from 0x0000_0000 to 0x0003_2000. -/
def deviceBlob : Blob :=
  { ofs := 72 * 2 ^ 20, size := 24 * 2 ^ 20, pages := (List.range 0x33).filterMap devicePage, sections := [40, 41, 42, 43] }

def blobs : List Blob :=
  (List.range 136).map kiteBlob ++ (List.range 8).map trainBlob ++ (List.range 32).map lineBlob ++ [deviceBlob]

/-! ### Contents (R437) -/

/-- A page image: 4 KiB as reads would return them. -/
def pageImage (s : State) (p : Page) : Bytes := (List.range 1024).flatMap (fun i => leBytes 4 (peekWord s p (4 * i)))

/-- The most bytes a captured section of a blob may take. -/
def sectionRoom (b : Blob) : Nat := (b.size - 64 - 4096 * b.pages.length - 8 * b.sections.length) / b.sections.length

/-- A captured section: its length and bytes are laid down nowhere (log 19). -/
def captured (s : State) (b : Blob) (id : Nat) : Bytes × State :=
  let (n, s1) := s.draw
  let (v, s2) := s1.draw
  let len := n % (sectionRoom b + 1)
  (leBytes 4 id ++ leBytes 4 len ++ leBytes len v, s2)

/-- The captured sections of a blob, in order. -/
def capturedAll (s : State) (b : Blob) : Bytes × State :=
  b.sections.foldl (fun r id => let (bs, s1) := captured r.2 b id; (r.1 ++ bs, s1)) ([], s)

/-- The blob header and what follows it. -/
def blobBytes (s : State) (b : Blob) (sections : Bytes) : Bytes :=
  let body := b.pages.flatMap (pageImage s) ++ sections
  let p := b.pages.headD ⟨.identity, 0⟩
  leBytes 4 0x424C4244 ++ leBytes 2 (blockCode p.kind) ++ leBytes 2 p.inst ++ leBytes 4 body.length ++ leBytes 4 (crc32 body)
    ++ zeros 48 ++ body

/-- The region header: the fields in the order R437 gives them, CRC-32 of bytes 0 to 63 after them (log 19). -/
def regionHeader (s : State) : Bytes :=
  let body := fit 64 (leBytes 4 0x48445A50 ++ leBytes 4 1 ++ leBytes 8 (cutTick s) ++ leBytes 4 (peekWord s ⟨.haulDown, 0⟩ 0x5C)
    ++ leBytes 4 (peekWord s ⟨.haulDown, 0⟩ 0x58) ++ leBytes 8 s.stepNum ++ leBytes 4 s.epoch
    ++ leBytes 4 (s.rd Reg.STEP_STAT_REPLAY_RUN) ++ leBytes 4 blobs.length)
  fit 4096 (body ++ leBytes 4 (crc32 body))

/-- One blob written; the images are of the state before scan-out, which it does not disturb. -/
def writeBlob (before s : State) (b : Blob) : State :=
  let (sections, s1) := capturedAll s b
  storeFor s1 .host (debugBase before + b.ofs) (blobBytes before b sections) 0

/-- R436: the captured state is in the debug region, and the device is HALTED. -/
def scanOut (s : State) : State :=
  let s1 := blobs.foldl (writeBlob s) (storeFor s .host (debugBase s) (regionHeader s) 0)
  raise (s1.wr Reg.HD_STAT_STATE 4) Ev.haulDown_SCAN_DONE

def execScanDone (s : State) : Result := whenOk (s.rd Reg.HD_STAT_STATE == 3) s (scanOut s)

end Sys2Proof.Machine
end

