-- ==== Sys2Proof/Machine/Sideband.lean ====
section
/-! DEFINITION. The sideband: the health block, register access, addresses (12 R381, R382). It is served while the rails stand (17 R461). -/

namespace Sys2Proof.Machine

def State.setSide (s : State) (x : Sideband) : State := { s with sb := x }

/-! ### The health block (R382) -/

/-- R382: byte 1; the fault it names is recovery mode (DEDUCED, log 72). -/
def healthState (s : State) : Nat :=
  if s.rd Reg.DEV_STAT_STATE = 7 then 4
  else if s.rd Reg.DEV_STAT_STATE < 6 then 0
  else if s.rd Reg.HD_STAT_STATE ≠ 0 then 3
  else if s.planRuns then 2 else 1

/-- R382: byte 2. -/
def healthBits (s : State) : Nat :=
  s.rd Reg.GOV_STAT_UFLOW_WATCH_OFF + 2 * ofBool (decide (s.rd Reg.CLK_KITE_FREQ_MHZ < 1500))
    + 4 * ofBool ((List.range 16).any (fun k => decide (3 ≤ s.rd Reg.STK_TEMP_BAND k))) + 8 * s.rd Reg.TB_SYNC_LOCKED

/-- R382: the hottest stack, a signed byte. -/
def hottestStack (s : State) : Nat :=
  ofSigned 8 ((List.range 16).foldl (fun m k => max m (toSigned 8 (s.rd Reg.STK_TEMP_TEMP k))) (-128))

/-- A saturating sum over every page's header. -/
def sumPages (s : State) (f : Hdr → Nat) : Nat := min (2 ^ 32 - 1) (s.hdrs.foldl (fun n e => n + f e.2) 0)

/-- R382: the health block made now; bytes 10 and 11 are filled in as it is read. -/
def healthBlock (s : State) : Bytes :=
  leBytes 1 1 ++ leBytes 1 (healthState s) ++ leBytes 1 (healthBits s) ++ zeros 1 ++ leBytes 2 (s.rd Reg.PWR_AVG_AVG_100MS)
    ++ leBytes 1 (s.rd Reg.THERM_COOL_IN) ++ leBytes 1 (s.rd Reg.THERM_DIE_MAX) ++ leBytes 1 (hottestStack s) ++ zeros 3
    ++ leBytes 4 (sumPages s Hdr.ue) ++ leBytes 4 (sumPages s Hdr.ce) ++ leBytes 8 s.tick ++ zeros 4

def refreshHealth (s : State) : State := s.setSide { s.sb with health := healthBlock s, healthTick := s.tick }

def execHealthRefresh (s : State) : Result := .next (refreshHealth s)

/-- R382: the copy complete at the start of the transaction, with its age in µs. A read before the first refresh finds a
copy made then. -/
def healthRead (s : State) : Bytes :=
  let x := if s.sb.health = [] then (refreshHealth s).sb else s.sb
  x.health.take 10 ++ leBytes 2 (min 65535 ((s.tick - x.healthTick) / 1000)) ++ x.health.drop 12

def execHealth (s : State) : Result := whenOk s.pwr.rails s (s.emit (.readData (healthRead s)))

/-! ### Registers (R382) -/

/-- REG_ADDR starts a read. -/
def execRegAddr (addr : Word) (s : State) : Result :=
  whenOk s.pwr.rails s (s.setSide { s.sb with asked := some addr.toNat, status := 0 })

/-- The read of the last REG_ADDR is done. -/
def finishSideRead (s : State) (a : Nat) : State :=
  match regAt a (readReg s a) with
  | some r => r.2.setSide { r.2.sb with asked := none, status := 1, value := r.1 }
  | none => s.setSide { s.sb with asked := none, status := 2, value := 0 }

def execSidebandReadDone (s : State) : Result :=
  match s.sb.asked with
  | some a => .next (finishSideRead s a)
  | none => .next s

/-- REG_GET: status 3 reports a refused REG_PUT once. -/
def execRegGet (s : State) : Result :=
  whenOk s.pwr.rails s ((s.setSide { s.sb with refused := false }).emit
    (.readData (leBytes 1 (if s.sb.refused then 3 else s.sb.status) ++ leBytes 4 s.sb.value)))

/-- REG_PUT: refused when SB_WR_EN is 0 or the register refuses it; an address outside every page takes no write either. -/
def sidePut (s : State) (a v : Nat) : State :=
  if s.rd Reg.CE_CTL_SB_WR_EN = 0 then s.setSide { s.sb with refused := true }
  else match regAt a (writeReg s a v true) with
    | some r => if r.1 then r.2.setSide { r.2.sb with refused := true } else r.2
    | none => s.setSide { s.sb with refused := true }

def execRegPut (addr v : Word) (s : State) : Result := whenOk s.pwr.rails s (sidePut s addr.toNat v.toNat)

/-! ### Addresses (R381) -/

/-- R381: the address the sideband answers to. -/
def sideAddress (s : State) : Nat := s.sb.dynAddr.getD (0x5A + Config.addrSel.toNat)

/-- R381: ENTDAA or SETDASA gives the dynamic address. -/
def execDynamicAddressing (addr : BitVec 7) (s : State) : Result :=
  whenOk s.pwr.rails s (s.setSide { s.sb with dynAddr := some addr.toNat })

end Sys2Proof.Machine
end

