-- ==== Sys2Proof/Machine/Dispatch.lean ====
section
/-! DEFINITION. The dispatch: one arm per command, each one direct call of the command's own meaning. -/

namespace Sys2Proof.Machine

/-- What a command does to everything but the queue. -/
def exec (i : Instr) (s : State) : Host.Outcome State Fault Refusal :=
  match i with
  | .nop h => Sys2Proof.Machine.execNop h s
  | .openStream h => Sys2Proof.Machine.execOpenStream h s
  | .regRead h addr count fixed => Sys2Proof.Machine.execRegRead h addr count fixed s
  | .regWrite h addr count fixed words => Sys2Proof.Machine.execRegWrite h addr count fixed words s
  | .memRead h addr len => Sys2Proof.Machine.execMemRead h addr len s
  | .memWrite h addr len data => Sys2Proof.Machine.execMemWrite h addr len data s
  | .planWrite h ofs len data => Sys2Proof.Machine.execPlanWrite h ofs len data s
  | .planLoad via => Sys2Proof.Machine.execPlanLoad via s
  | .stepStart via tick => Sys2Proof.Machine.execStepStart via tick s
  | .stepStop via => Sys2Proof.Machine.execStepStop via s
  | .commit via => Sys2Proof.Machine.execCommit via s
  | .attest who nonceLen nonce => Sys2Proof.Machine.execAttest who nonceLen nonce s
  | .controlFrameRx src bytes => Sys2Proof.Machine.execControlFrameRx src bytes s
  | .heldCommandExecute stream => Sys2Proof.Machine.execHeldCommandExecute stream s
  | .eventFrameSend => Sys2Proof.Machine.execEventFrameSend s
  | .eventFrameRetx num => Sys2Proof.Machine.execEventFrameRetx num s
  | .hostFrameDropped f => Sys2Proof.Machine.execHostFrameDropped f s
  | .pauseRx => Sys2Proof.Machine.execPauseRx s
  | .ptpMessage m => Sys2Proof.Machine.execPtpMessage m s
  | .scoringRequest src payload rxTick => Sys2Proof.Machine.execScoringRequest src payload rxTick s
  | .batchStart slot => Sys2Proof.Machine.execBatchStart slot s
  | .batchEnd slot env => Sys2Proof.Machine.execBatchEnd slot env s
  | .verdictSend => Sys2Proof.Machine.execVerdictSend s
  | .validate slot => Sys2Proof.Machine.execValidate slot s
  | .validated => Sys2Proof.Machine.execValidated s
  | .weightLoad => Sys2Proof.Machine.execWeightLoad s
  | .wlDone => Sys2Proof.Machine.execWlDone s
  | .scDwin acc => Sys2Proof.Machine.execScDwin acc s
  | .planCheckDone => Sys2Proof.Machine.execPlanCheckDone s
  | .stepTick => Sys2Proof.Machine.execStepTick s
  | .deviceReady => Sys2Proof.Machine.execDeviceReady s
  | .ready src step attempt digest => Sys2Proof.Machine.execReady src step attempt digest s
  | .sealReceived step tseal final => Sys2Proof.Machine.execSealReceived step tseal final s
  | .endReq src => Sys2Proof.Machine.execEndReq src s
  | .stop src step => Sys2Proof.Machine.execStop src step s
  | .abortReceived step diverged => Sys2Proof.Machine.execAbortReceived step diverged s
  | .replayReady src step => Sys2Proof.Machine.execReplayReady src step s
  | .replay step tr => Sys2Proof.Machine.execReplay step tr s
  | .replayTick => Sys2Proof.Machine.execReplayTick s
  | .stepTimeout => Sys2Proof.Machine.execStepTimeout s
  | .handover src step partner => Sys2Proof.Machine.execHandover src step partner s
  | .sync who => Sys2Proof.Machine.execSync who s
  | .arrayOp k part => Sys2Proof.Machine.execArrayOp k part s
  | .stationaryLoad k env => Sys2Proof.Machine.execStationaryLoad k env s
  | .tileSwap k => Sys2Proof.Machine.execTileSwap k s
  | .opInvalid k together => Sys2Proof.Machine.execOpInvalid k together s
  | .opComplete who => Sys2Proof.Machine.execOpComplete who s
  | .map k env => Sys2Proof.Machine.execMap k env s
  | .conv k env => Sys2Proof.Machine.execConv k env s
  | .scan k env => Sys2Proof.Machine.execScan k env s
  | .reduce k env => Sys2Proof.Machine.execReduce k env s
  | .rescale k env => Sys2Proof.Machine.execRescale k env s
  | .rng k env => Sys2Proof.Machine.execRng k env s
  | .cbfLoad k env => Sys2Proof.Machine.execCbfLoad k env s
  | .move k env => Sys2Proof.Machine.execMove k env s
  | .fileCopy slot file => Sys2Proof.Machine.execFileCopy slot file s
  | .faultClr slot together => Sys2Proof.Machine.execFaultClr slot together s
  | .cbfData slot acc => Sys2Proof.Machine.execCbfData slot acc s
  | .vpData slot acc => Sys2Proof.Machine.execVpData slot acc s
  | .envWin slot => Sys2Proof.Machine.execEnvWin slot s
  | .govSummary src down sum => Sys2Proof.Machine.execGovSummary src down sum s
  | .govEval => Sys2Proof.Machine.execGovEval s
  | .govReady => Sys2Proof.Machine.execGovReady s
  | .replicaReload rep => Sys2Proof.Machine.execReplicaReload rep s
  | .govSvData acc => Sys2Proof.Machine.execGovSvData acc s
  | .ufwCtl v => Sys2Proof.Machine.execUfwCtl v s
  | .spoolAccess req => Sys2Proof.Machine.execSpoolAccess req s
  | .regAdmit t p => Sys2Proof.Machine.execRegAdmit t p s
  | .hbmRead addr parity res who => Sys2Proof.Machine.execHbmRead addr parity res who s
  | .retrainDone st pc ok => Sys2Proof.Machine.execRetrainDone st pc ok s
  | .pcDead st pc => Sys2Proof.Machine.execPcDead st pc s
  | .stackTempRead st temp => Sys2Proof.Machine.execStackTempRead st temp s
  | .maintWindowStart => Sys2Proof.Machine.execMaintWindowStart s
  | .windowWork st w => Sys2Proof.Machine.execWindowWork st w s
  | .tableSwap => Sys2Proof.Machine.execTableSwap s
  | .windowEnd => Sys2Proof.Machine.execWindowEnd s
  | .migIntervalEnd st => Sys2Proof.Machine.execMigIntervalEnd st s
  | .migCopyDone st => Sys2Proof.Machine.execMigCopyDone st s
  | .migrate st logical => Sys2Proof.Machine.execMigrate st logical s
  | .ueClr st together => Sys2Proof.Machine.execUeClr st together s
  | .unpinAll t => Sys2Proof.Machine.execUnpinAll t s
  | .copy t => Sys2Proof.Machine.execCopy t s
  | .prefetch t => Sys2Proof.Machine.execPrefetch t s
  | .unpin t => Sys2Proof.Machine.execUnpin t s
  | .writeback t => Sys2Proof.Machine.execWriteback t s
  | .lineScheduleRecord l => Sys2Proof.Machine.execLineScheduleRecord l s
  | .flitSend l => Sys2Proof.Machine.execFlitSend l s
  | .flitRx l bytes fecBad fecUe fecCe symErrs => Sys2Proof.Machine.execFlitRx l bytes fecBad fecUe fecCe symErrs s
  | .retryReq l seq => Sys2Proof.Machine.execRetryReq l seq s
  | .retryTimeout l => Sys2Proof.Machine.execRetryTimeout l s
  | .idleAck l => Sys2Proof.Machine.execIdleAck l s
  | .dataFlit l vc cls => Sys2Proof.Machine.execDataFlit l vc cls s
  | .transferWritten src ep vc together => Sys2Proof.Machine.execTransferWritten src ep vc together s
  | .done src vc txn nbytes => Sys2Proof.Machine.execDone src vc txn nbytes s
  | .nack src vc txn => Sys2Proof.Machine.execNack src vc txn s
  | .peerRegisterCommand src txn op => Sys2Proof.Machine.execPeerRegisterCommand src txn op s
  | .restoreRead src body progress => Sys2Proof.Machine.execRestoreRead src body progress s
  | .tbQuery src => Sys2Proof.Machine.execTbQuery src s
  | .ident l info => Sys2Proof.Machine.execIdent l info s
  | .discovery => Sys2Proof.Machine.execDiscovery s
  | .discTimeout l => Sys2Proof.Machine.execDiscTimeout l s
  | .discover => Sys2Proof.Machine.execDiscover s
  | .fabDevnum v => Sys2Proof.Machine.execFabDevnum v s
  | .lineUp l => Sys2Proof.Machine.execLineUp l s
  | .lineDown l => Sys2Proof.Machine.execLineDown l s
  | .downNotice l => Sys2Proof.Machine.execDownNotice l s
  | .alignmentLoss l => Sys2Proof.Machine.execAlignmentLoss l s
  | .lineRetrain l => Sys2Proof.Machine.execLineRetrain l s
  | .lineCfg l v => Sys2Proof.Machine.execLineCfg l v s
  | .laneIntervalEnd l => Sys2Proof.Machine.execLaneIntervalEnd l s
  | .laneSwap l window lane => Sys2Proof.Machine.execLaneSwap l window lane s
  | .laneWindowSwap l => Sys2Proof.Machine.execLaneWindowSwap l s
  | .laneLockLoss l lane => Sys2Proof.Machine.execLaneLockLoss l lane s
  | .laneSwapCmd l lane => Sys2Proof.Machine.execLaneSwapCmd l lane s
  | .timeSyncSend => Sys2Proof.Machine.execTimeSyncSend s
  | .timeSync l m => Sys2Proof.Machine.execTimeSync l m s
  | .syncTimeout => Sys2Proof.Machine.execSyncTimeout s
  | .routeData acc => Sys2Proof.Machine.execRouteData acc s
  | .winchRecord t ue together => Sys2Proof.Machine.execWinchRecord t ue together s
  | .segmentCombine t => Sys2Proof.Machine.execSegmentCombine t s
  | .segmentSend t ctx backup => Sys2Proof.Machine.execSegmentSend t ctx backup s
  | .slotFree src t ctx lap seg => Sys2Proof.Machine.execSlotFree src t ctx lap seg s
  | .winchRecordDone t ctx => Sys2Proof.Machine.execWinchRecordDone t ctx s
  | .wnFaultClr t together => Sys2Proof.Machine.execWnFaultClr t together s
  | .nanClr t together => Sys2Proof.Machine.execNanClr t together s
  | .burnerRecord t ue => Sys2Proof.Machine.execBurnerRecord t ue s
  | .reelCompute t => Sys2Proof.Machine.execReelCompute t s
  | .burnerRecordDone t => Sys2Proof.Machine.execBurnerRecordDone t s
  | .bnFaultClr t together => Sys2Proof.Machine.execBnFaultClr t together s
  | .bnGwin t acc => Sys2Proof.Machine.execBnGwin t acc s
  | .ecDeliver => Sys2Proof.Machine.execEcDeliver s
  | .ecEoi c src => Sys2Proof.Machine.execEcEoi c src s
  | .ecCore v => Sys2Proof.Machine.execEcCore v s
  | .ecTimer timer => Sys2Proof.Machine.execEcTimer timer s
  | .pinInput pin level cycles => Sys2Proof.Machine.execPinInput pin level cycles s
  | .evtPend page v raised => Sys2Proof.Machine.execEvtPend page v raised s
  | .ecPend n v => Sys2Proof.Machine.execEcPend n v s
  | .ecCfg acc => Sys2Proof.Machine.execEcCfg acc s
  | .kiteHang k => Sys2Proof.Machine.execKiteHang k s
  | .replace t logical => Sys2Proof.Machine.execReplace t logical s
  | .coreFailure c => Sys2Proof.Machine.execCoreFailure c s
  | .roleTakeover => Sys2Proof.Machine.execRoleTakeover s
  | .phaseShed => Sys2Proof.Machine.execPhaseShed s
  | .planUeDone => Sys2Proof.Machine.execPlanUeDone s
  | .haul fabric all => Sys2Proof.Machine.execHaul fabric all s
  | .haulMsg l t origin root cause => Sys2Proof.Machine.execHaulMsg l t origin root cause s
  | .haulCut => Sys2Proof.Machine.execHaulCut s
  | .cutMarker l t last => Sys2Proof.Machine.execCutMarker l t last s
  | .markTimeout => Sys2Proof.Machine.execMarkTimeout s
  | .scanDone => Sys2Proof.Machine.execScanDone s
  | .hdDump v => Sys2Proof.Machine.execHdDump v s
  | .dumpDone => Sys2Proof.Machine.execDumpDone s
  | .release fabric => Sys2Proof.Machine.execRelease fabric s
  | .releaseMsg l r root => Sys2Proof.Machine.execReleaseMsg l r root s
  | .releaseTick => Sys2Proof.Machine.execReleaseTick s
  | .abandon => Sys2Proof.Machine.execAbandon s
  | .traceBurst t => Sys2Proof.Machine.execTraceBurst t s
  | .trCtl v => Sys2Proof.Machine.execTrCtl v s
  | .measure => Sys2Proof.Machine.execMeasure s
  | .measDone => Sys2Proof.Machine.execMeasDone s
  | .tbNowLo => Sys2Proof.Machine.execTbNowLo s
  | .lowWordRead addr => Sys2Proof.Machine.execLowWordRead addr s
  | .health => Sys2Proof.Machine.execHealth s
  | .regAddr addr => Sys2Proof.Machine.execRegAddr addr s
  | .regGet => Sys2Proof.Machine.execRegGet s
  | .regPut addr v => Sys2Proof.Machine.execRegPut addr v s
  | .healthRefresh => Sys2Proof.Machine.execHealthRefresh s
  | .softReset page => Sys2Proof.Machine.execSoftReset page s
  | .freeze page on => Sys2Proof.Machine.execFreeze page on s
  | .registerWrite addr v => Sys2Proof.Machine.execRegisterWrite addr v s
  | .powerEnable => Sys2Proof.Machine.execPowerEnable s
  | .powerGood => Sys2Proof.Machine.execPowerGood s
  | .powerOff => Sys2Proof.Machine.execPowerOff s
  | .refLost => Sys2Proof.Machine.execRefLost s
  | .powerEval vin iin watts => Sys2Proof.Machine.execPowerEval vin iin watts s
  | .thermalEval die coolIn coolOut => Sys2Proof.Machine.execThermalEval die coolIn coolOut s
  | .reset key sideband => Sys2Proof.Machine.execReset key sideband s
  | .deviceReset => Sys2Proof.Machine.execDeviceReset s
  | .romStage => Sys2Proof.Machine.execRomStage s
  | .verifyStage => Sys2Proof.Machine.execVerifyStage s
  | .loadStage parity => Sys2Proof.Machine.execLoadStage parity s
  | .configStage => Sys2Proof.Machine.execConfigStage s
  | .hbmStage hppr => Sys2Proof.Machine.execHbmStage hppr s
  | .devReady => Sys2Proof.Machine.execDevReady s
  | .flData acc => Sys2Proof.Machine.execFlData acc s
  | .erase => Sys2Proof.Machine.execErase s
  | .flCommit seg => Sys2Proof.Machine.execFlCommit seg s
  | .flDone failed => Sys2Proof.Machine.execFlDone failed s
  | .stage => Sys2Proof.Machine.execStage s
  | .swap => Sys2Proof.Machine.execSwap s
  | .handoverDone => Sys2Proof.Machine.execHandoverDone s
  | .extend => Sys2Proof.Machine.execExtend s
  | .svnBurn key => Sys2Proof.Machine.execSvnBurn key s
  | .ukhBurn key => Sys2Proof.Machine.execUkhBurn key s
  | .logWin => Sys2Proof.Machine.execLogWin s
  | .serviceHour => Sys2Proof.Machine.execServiceHour s
  | .commitTick => Sys2Proof.Machine.execCommitTick s
  | .fileCopyDone slot file => Sys2Proof.Machine.execFileCopyDone slot file s
  | .ptCopyDone => Sys2Proof.Machine.execPtCopyDone s
  | .govMergeDone => Sys2Proof.Machine.execGovMergeDone s
  | .hostLinkUp preempt => Sys2Proof.Machine.execHostLinkUp preempt s
  | .hostLinkDown => Sys2Proof.Machine.execHostLinkDown s
  | .refReturn => Sys2Proof.Machine.execRefReturn s
  | .entropySample pass => Sys2Proof.Machine.execEntropySample pass s
  | .boundaryScan ir => Sys2Proof.Machine.execBoundaryScan ir s
  | .dynamicAddressing addr => Sys2Proof.Machine.execDynamicAddressing addr s
  | .sidebandReadDone => Sys2Proof.Machine.execSidebandReadDone s
  | .phyMarginLow st pc => Sys2Proof.Machine.execPhyMarginLow st pc s

end Sys2Proof.Machine
end

