-- ==== Sys2Proof/Safety.lean ====
section
/-! DEFINITION. What claims about runs are said in: the parts of State, what a command may change, and the canonical
form of memory. -/

namespace Sys2Proof.Machine

/-- The parts of State. -/
inductive Part where
  | pending | tick | regs | shadow | held | hiLatch | frozen | hdrs | ec | host | hbm | mem | kites | step | seqs |
  gov | fab | winch | burner | sc | recov | sb | tb | trust | pwr | hd | plan | trace | traceFull | out | fresh
deriving DecidableEq, Repr

/-- Two states agree in a part. -/
def Part.same (p : Part) (s t : State) : Prop :=
  match p with
  | .pending => t.pending = s.pending
  | .tick => t.tick = s.tick
  | .regs => t.regs = s.regs
  | .shadow => t.shadow = s.shadow
  | .held => t.held = s.held
  | .hiLatch => t.hiLatch = s.hiLatch
  | .frozen => t.frozen = s.frozen
  | .hdrs => t.hdrs = s.hdrs
  | .ec => t.ec = s.ec
  | .host => t.host = s.host
  | .hbm => t.hbm = s.hbm
  | .mem => t.mem = s.mem
  | .kites => t.kites = s.kites
  | .step => t.step = s.step
  | .seqs => t.seqs = s.seqs
  | .gov => t.gov = s.gov
  | .fab => t.fab = s.fab
  | .winch => t.winch = s.winch
  | .burner => t.burner = s.burner
  | .sc => t.sc = s.sc
  | .recov => t.recov = s.recov
  | .sb => t.sb = s.sb
  | .tb => t.tb = s.tb
  | .trust => t.trust = s.trust
  | .pwr => t.pwr = s.pwr
  | .hd => t.hd = s.hd
  | .plan => t.plan = s.plan
  | .trace => t.trace = s.trace
  | .traceFull => t.traceFull = s.traceFull
  | .out => t.out = s.out
  | .fresh => t.fresh = s.fresh

/-- A footprint: the parts of State, and the register fields, that something may change. The part `regs` stands for every
register. -/
structure Foot where
  parts : List Part
  fields : List Fld
deriving DecidableEq, Repr

def Foot.and (f : Foot) (ps : List Part) (fs : List Fld) : Foot := ⟨f.parts ++ ps, f.fields ++ fs⟩

def Foot.both (f g : Foot) : Foot := f.and g.parts g.fields

/-- `t` is `s` outside a footprint: every part it does not list is the same, and, unless it lists the registers as a
whole, every entry of the registers (the windows' tables among them) outside its fields, on every page, is the same. -/
structure Keeps (f : Foot) (s t : State) : Prop where
  parts : ∀ p, p ∉ f.parts → p ≠ .regs → p.same s t
  regs : .regs ∉ f.parts → ∀ k, (∀ x ∈ f.fields, ∀ n i, x.valid n i = true → k ≠ x.key n i) →
    Table.find k t.regs = Table.find k s.regs

/-- The lines of a spool set (06 R206): no tag twice, every line in the set its address gives, the data a
sector holds 64 bytes long. -/
structure LinesOk (set : Nat) (ls : List SpoolLine) : Prop where
  tags : (ls.map SpoolLine.tag).Nodup
  home : ∀ x ∈ ls, spoolSet (x.tag * 128) = set
  whole : ∀ x ∈ ls, ∀ h d, x.dirty h = some d ∨ x.kept h = some d → d.length = 64

/-- The spools as R206 lays them out. -/
structure SpoolOk (t : Table (List SpoolLine)) : Prop where
  rising : Table.rising none t = true
  lines : ∀ e ∈ t, LinesOk e.1 e.2

/-- No spool sector keeps bytes that HBM has lost (06 R206, R221): then no byte changes when a line leaves. -/
def nothingKept (s : State) : Bool := s.mem.spool.all (fun e => e.2.all (fun x => x.k0.isNone && x.k1.isNone))

/-- The canonical form of what the machine stores by address: HBM holds each written byte once, addresses rising, and no
byte that reads as an unwritten one does; the live and the shadow registers hold each entry once, keys rising; the
spools hold each line once, where its address puts it. -/
structure Canon (s : State) : Prop where
  hbm : Table.wf hbmBlank s.hbm = true
  regs : Table.rising none s.regs = true
  shadow : Table.rising none s.shadow = true
  spool : SpoolOk s.mem.spool

/-- The `len` bytes from address `a` can be read through the spools: none of their transfers is uncorrectable, and no
sector holds bytes that HBM has lost. -/
structure Readable (s : State) (a len : Nat) : Prop where
  canon : Canon s
  kept : nothingKept s = true
  clean : ∀ b, a ≤ b → b < a + len → faulty s b = false

/-- The records of the op at the head of slot `n` can be fetched (07 R243). -/
def HeadReadable (s : State) (n : Nat) : Prop :=
  Readable s (planRecordAddr s (s.rd Reg.OPS_BASE_BASE n) (s.kite n).nextRec) (16 * opRecords (headRecord s n))

/-- The next record of program `p` of train `t` can be fetched (07 R243). -/
def NextReadable (s : State) (t p : Nat) : Prop :=
  Readable s (planRecordAddr s (s.plan.progs.getD (progKey t p) (0, 0)).1 (s.seqOf t p).next) 16

/-- No fuse of `s` is lost in `t` (16 R442, R449): SVN_MIN does not fall, and a user key hash once burnt stays. -/
structure FusesKept (s t : State) : Prop where
  svn : s.trust.svnMin ≤ t.trust.svnMin
  key : ∀ h, s.trust.userKey = some h → t.trust.userKey = some h

/-! ### Command frames and events -/

/-- The control protocol takes a frame from this source: the device serves it (16 R444), and the filter and the datagram
switch let it pass (12 R363, R364). -/
def admitsCmd (s : State) (h : CmdHdr) : Bool := ctrlServed s && accepts s h.src (ctrlUdp s)

/-- An admitted command whose SEQ is the one its stream expects, no copy of it being held (R370). -/
def inTurn (s : State) (h : CmdHdr) : Bool :=
  admitsCmd s h && h.seq.toNat == s.expected h.stream && (Table.find h.seq.toNat (s.stream h.stream).waiting).isNone

/-- The state in which an admitted command executes: its frame is counted and its ACK field taken (R363, R372). -/
def heard (s : State) (h : CmdHdr) : State := ackEvents (s.bump Reg.RX_FRAMES_COUNT) h.ack.toNat

/-- The RESPONSE to a command (R366): its bytes. -/
def responseBytes (h : CmdHdr) (opc st : Nat) (body : Bytes) : Bytes :=
  ctrlHeader 4 h.stream body.length h.seq.toNat ((h.seq.toNat + 1) % 2 ^ 32) opc st ++ body

/-- A command was executed and answered (R366, R370, R371, R374): the last frame sent is its RESPONSE, to where the
command came from, unless a verdict is due, for which it waits (11 R359); the response is kept under its SEQ, and the
stream expects the next number. -/
structure Answered (t : State) (h : CmdHdr) (opc st : Nat) (body : Bytes) : Prop where
  sent : verdictDue t = false → t.out.getLast? = some (.frame 1 (frameTo 1 h.src (responseBytes h opc st body)))
  stored : Table.find h.seq.toNat (t.stream h.stream).answered = some { src := h.src, bytes := responseBytes h opc st body }
  next : t.expected h.stream = (h.seq.toNat + 1) % 2 ^ 32

/-- A flit waits in an output queue of line `l`, with its class there (08 R269, R278). -/
def Queued (t : State) (l : Nat) (f : Flit) : Prop :=
  ∃ c, { f with cls := c } ∈ (t.line l).outq.getD (pairKey f.vc c) []

/-- From `s` to `t` the device has sent message `m` to device `d` (08 R265, R276): it waits as a MSG flit at the line that
leads there, where one does; a message to the device itself is its own next command (log 10). -/
structure Sends (s t : State) (vc d : Nat) (m : Msg) : Prop where
  own : d = s.self → .msg vc d m ∈ t.out
  out : d ≠ s.self → ∀ l, routeLine s d = some l → Queued t l (msgFlit vc (16 * s.self + 8) (16 * d + 8) m)

/-- Event `e` of a page is pending in its header (13 R384). -/
def Pends (t : State) (e : Evt) (n : Nat := 0) : Prop := (t.hdr e.page n).pend.getLsbD e.bit = true

/-! ### Footprints -/

/-- What the passing of ticks changes. -/
def tickFoot : Foot :=
  ⟨[.tick, .hdrs], [Reg.THROTTLE_TICKS_LO, Reg.THROTTLE_TICKS_HI]⟩

/-- What a haul-down moves on in time (15 R440). -/
def shiftFoot : Foot :=
  ⟨[.kites, .step, .seqs, .winch, .sc], []⟩

/-- What a command frame changes besides its operation: streams, counts and the response. -/
def commandFoot : Foot :=
  ⟨[.host, .out], [Reg.RX_FRAMES_COUNT, Reg.RX_FILTERED_COUNT, Reg.TX_FRAMES_COUNT, Reg.CE_EXP_X, Reg.CE_DUPS_COUNT,
    Reg.CE_WINDOW_COUNT]⟩

/-- What an access through a spool changes (06 R206 to R211). -/
def spoolFoot : Foot :=
  ⟨[.hbm, .mem], [Reg.SP_HITS_LO, Reg.SP_HITS_HI, Reg.SP_MISSES_LO, Reg.SP_MISSES_HI, Reg.SP_WRITEBACKS_COUNT,
    Reg.LAST_ON_KEEP_COUNT, Reg.KEEP_DENIED_COUNT]⟩

/-- What a haul-down trigger may change (15 R425, R426). -/
def haulFoot : Foot :=
  ⟨[.fab, .hd], [Reg.HD_STAT_STATE, Reg.HD_STAT_LATE, Reg.HD_STAT_INCOMPLETE, Reg.HD_STAT_FABRIC, Reg.HD_STAT_ORIGIN,
    Reg.HD_CAUSE_CAUSE, Reg.HD_CAUSE_SOURCE, Reg.HD_CUT_LO, Reg.HD_CUT_HI, Reg.HD_LINES_OPEN_LINES,
    Reg.HAULS_IGNORED_COUNT]⟩

/-- What reading a page, word by word, may change. -/
def imageFoot : Foot :=
  ⟨[.fresh], [Reg.GOV_SV_IDX_WORD, Reg.ROUTE_INDEX_INDEX, Reg.EC_SEL_SRC, Reg.LOG_SEL_ENTRY, Reg.LOG_SEL_WORD,
    Reg.FL_ADDR_ADDR, Reg.SC_STAT_CAL_USED, Reg.SC_DSEL_WORD, Reg.BN_GSEL_GROUP, Reg.BN_GSEL_WORD, Reg.CBF_INDEX_WORD,
    Reg.VP_INDEX_WORD, Reg.ENV_SEL_TAG, Reg.ENV_SEL_WORD]⟩

/-- The fault registers of a kite. -/
def kiteFaultFoot : Foot :=
  ⟨[], [Reg.KITE_FAULT_OP_INDEX, Reg.KITE_FAULT_CODE, Reg.ESC_FAULT_CAUSE, Reg.ESC_FAULT_BLOCK, Reg.ESC_FAULT_COUNT,
    Reg.ESC_FAULT_COLUMN, Reg.NAN_TRAP_STEP_STEP, Reg.NAN_TRAP_OP_OP_INDEX, Reg.NAN_TRAP_ELEM_TAG,
    Reg.NAN_TRAP_ELEM_ELEM, Reg.NAN_TRAP_INFO_VALID, Reg.NAN_TRAP_INFO_KIND, Reg.NAN_TRAP_INFO_SOURCE,
    Reg.NAN_TRAP_INFO_UOP, Reg.NAN_TRAP_INFO_CARRY, Reg.NAN_TRAP_INFO_LOGICAL]⟩

/-- What raising an event may change: headers, the event controller and what a trigger brings (13, R384). -/
def eventFoot : Foot :=
  haulFoot.and [.hdrs, .ec, .host, .trace] [Reg.EVT_FWD_LOST_COUNT, Reg.TR_DROPS_DROPS]

/-- What a flit that finds no line may change (08 R277). -/
def fabricFoot : Foot :=
  eventFoot.and [.step, .out] [Reg.RECOV_STAT_LAST_RUNG, Reg.REC_COUNT_COUNT, Reg.NO_ROUTE_COUNT]

/-- What a ballast slot takes over. -/
def adoptFoot : Foot :=
  ⟨[.shadow], [Reg.OPS_BASE_BASE, Reg.OPS_COUNT_COUNT, Reg.ACC_BASE_ACC_BASE, Reg.ACC_SIZE_ACC_SIZE,
    Reg.SP_RETIRE_SP_RETIRE_CE, Reg.GATE_CTL_ZERO_GATE_EN, Reg.ARR_PROFILE_MODE, Reg.ARR_PROFILE_SHAPE,
    Reg.ARR_PROFILE_BRIDLE, Reg.ROW_MASK_ROWS, Reg.CBF_CTL_AUTO_INC, Reg.CBF_CTL_BANK, Reg.CBF_CTL_FILE,
    Reg.CBF_INDEX_WORD, Reg.CBF_DATA_DATA, Reg.VP_CTL_AUTO_INC, Reg.VP_CTL_BANK, Reg.VP_INDEX_WORD, Reg.VP_DATA_DATA,
    Reg.ENV_SEL_AUTO_INC, Reg.ENV_SEL_TAG, Reg.ENV_SEL_WORD, Reg.TAG_CFG_HIST_BASE, Reg.TAG_CFG_HIST_SHIFT]⟩

/-- What data that HBM lost may change. -/
def loseFoot : Foot :=
  fabricFoot.and [.hbm, .mem, .recov] [Reg.RECOV_STAT_PLAN_UE, Reg.SVC_STAT_SVC_FULL, Reg.SVC_STAT_SVC_LOST,
    Reg.UE_ADDR_LO_ADDR, Reg.UE_ADDR_HI_VALID, Reg.UE_ADDR_HI_ADDR, Reg.UE_INFO_PPC, Reg.UE_INFO_SID, Reg.UE_INFO_BG,
    Reg.UE_INFO_BANK, Reg.UE_INFO_ROW, Reg.UE_INFO_XFER, Reg.ROW_REMAPS_COUNT, Reg.PAGES_RETIRED_COUNT,
    Reg.SPARES_USED_COUNT, Reg.SPARE_PERM_COUNT, Reg.RESERVE_FREE_COUNT, Reg.PC_REC_UE_UE]

/-- What a store to HBM through the spool may change, merges that fail among it (06 R206, R471). -/
def storeFoot : Foot :=
  (fabricFoot.both spoolFoot).and [.winch, .recov] [Reg.RECOV_STAT_PLAN_UE, Reg.SVC_STAT_SVC_FULL,
    Reg.SVC_STAT_SVC_LOST, Reg.WN_STAT_PHASE, Reg.WN_FAULT_RECORD, Reg.WN_FAULT_CODE, Reg.WAIT_TICKS_COUNT,
    Reg.BN_STAT_PHASE, Reg.BN_FAULT_RECORD, Reg.BN_FAULT_CODE, Reg.BN_PROGRESS_ELEM, Reg.UE_ADDR_LO_ADDR,
    Reg.UE_ADDR_HI_VALID, Reg.UE_ADDR_HI_ADDR, Reg.UE_INFO_PPC, Reg.UE_INFO_SID, Reg.UE_INFO_BG, Reg.UE_INFO_BANK,
    Reg.UE_INFO_ROW, Reg.UE_INFO_XFER, Reg.PC_REC_UE_UE]

/-- What each command may change. -/
def footprint : Instr → Foot
  | .nop .. | .openStream .. => commandFoot
  | .regRead .. => (imageFoot.both commandFoot).and [.hiLatch] []
  | .regWrite .. | .controlFrameRx .. | .heldCommandExecute .. | .peerRegisterCommand .. =>
    shiftFoot.and [.regs, .shadow, .held, .hiLatch, .frozen, .hdrs, .ec, .host, .hbm, .mem, .gov, .fab, .burner,
      .recov, .tb, .trust, .hd, .plan, .trace, .traceFull, .out, .fresh] []
  | .memRead .. =>
    ((storeFoot.both commandFoot).both loseFoot).and [] [Reg.LAST_DIRTY_DROPS_COUNT, Reg.REG_STALLS_STALLS]
  | .memWrite .. => (storeFoot.both commandFoot).and [] [Reg.REG_STALLS_STALLS]
  | .planWrite .. => (storeFoot.both commandFoot).and [] [Reg.PLAN_STAT_STATE, Reg.REG_STALLS_STALLS]
  | .planLoad .. | .stepStart .. | .stepStop .. | .commit .. =>
    (eventFoot.both commandFoot).and [.step] [Reg.PLAN_STAT_STATE, Reg.STEP_STAT_REPLAY_RUN, Reg.STEP_STAT_STATE,
      Reg.NO_ROUTE_COUNT]
  | .attest .. =>
    ((storeFoot.both imageFoot).both commandFoot).and [] [Reg.BAD_EP_COUNT, Reg.ORDER_DROPS_COUNT,
      Reg.STALE_DROPS_COUNT, Reg.PERSIST_HITS_COUNT, Reg.RANGE_DROPS_COUNT, Reg.ATT_COUNT_COUNT, Reg.BULK_LOST_COUNT,
      Reg.REG_STALLS_STALLS]
  | .eventFrameSend => ⟨[.host, .out], [Reg.TX_FRAMES_COUNT, Reg.EVT_NEXT_SEQ]⟩
  | .eventFrameRetx .. => ⟨[.host, .out], [Reg.TX_FRAMES_COUNT]⟩
  | .hostFrameDropped .. => ⟨[], [Reg.RX_FCS_ERR_COUNT, Reg.RX_FILTERED_COUNT]⟩
  | .pauseRx => ⟨[], [Reg.PAUSE_RX_COUNT]⟩
  | .ptpMessage .. => ⟨[.host], [Reg.RX_FRAMES_COUNT, Reg.TX_FRAMES_COUNT]⟩
  | .scoringRequest .. =>
    (eventFoot.both tickFoot).and [.sc, .out] [Reg.RX_FRAMES_COUNT, Reg.RX_FILTERED_COUNT, Reg.PFC_TX_COUNT,
      Reg.SC_STAT_PFC_ACTIVE, Reg.SC_STAT_CAL_USED, Reg.SC_REQS_COUNT, Reg.SC_OK_COUNT, Reg.SC_BUSY_COUNT,
      Reg.SC_BADS_COUNT, Reg.SC_FAULTS_COUNT, Reg.SC_RUNTS_COUNT, Reg.SC_LOST_COUNT, Reg.SC_HALTED_COUNT]
  | .batchStart .. => tickFoot.and [.sc] [Reg.KITE_STATE_STATE]
  | .batchEnd .. =>
    ((eventFoot.both kiteFaultFoot).both tickFoot).and [.kites, .sc, .fresh] [Reg.RECOV_STAT_LAST_RUNG,
      Reg.REC_COUNT_COUNT, Reg.SC_OK_COUNT, Reg.SC_BUSY_COUNT, Reg.SC_BADS_COUNT, Reg.SC_FAULTS_COUNT,
      Reg.SC_HALTED_COUNT, Reg.SC_FAULT_KITE, Reg.SC_FAULT_SLOT, Reg.SC_FAULT_CODE, Reg.SC_SLOT_RETIRING,
      Reg.SC_SLOT_STALE, Reg.TRN_KSTAT_FAILED, Reg.KITE_STATE_STATE, Reg.SP_SPARE_SPARE_USED,
      Reg.CB_FILE_STAT_CB_RETIRING, Reg.VP_FILE_STAT_VP_RETIRING]
  | .verdictSend =>
    (eventFoot.both tickFoot).and [.sc, .out] [Reg.TX_FRAMES_COUNT, Reg.PFC_TX_COUNT, Reg.SC_STAT_PFC_ACTIVE,
      Reg.SC_STAT_CAL_USED, Reg.SC_LAT_COUNT]
  | .validate .. => eventFoot.and [.sc] [Reg.SC_STAT_V_BUSY]
  | .validated =>
    eventFoot.and [.sc] [Reg.SC_STAT_V_BUSY, Reg.SC_VRES_OK, Reg.SC_VRES_SLOT, Reg.SC_VRES_CODE, Reg.SC_VRES_LAYER,
      Reg.SC_SLOT_SHADOW_OK]
  | .weightLoad => eventFoot.and [.sc] [Reg.SC_STAT_WL_BUSY]
  | .wlDone =>
    (loseFoot.both spoolFoot).and [.kites, .sc] [Reg.SC_STAT_WL_BUSY, Reg.LAST_DIRTY_DROPS_COUNT,
      Reg.REG_STALLS_STALLS]
  | .scDwin .. => eventFoot.and [.shadow, .held, .out] [Reg.SC_DSEL_WORD, Reg.SC_SLOT_SHADOW_OK]
  | .planCheckDone =>
    shiftFoot.and [.regs, .shadow, .held, .frozen, .hdrs, .ec, .host, .hbm, .mem, .gov, .fab, .burner, .recov, .tb,
      .trust, .hd, .plan, .trace, .traceFull, .out, .fresh] []
  | .stepTick =>
    shiftFoot.and [.tick, .regs, .shadow, .held, .hdrs, .ec, .host, .hbm, .mem, .gov, .fab, .recov, .hd, .trace, .out]
      []
  | .deviceReady => eventFoot.and [.step, .gov, .out] [Reg.STEP_STAT_STATE, Reg.NO_ROUTE_COUNT]
  | .ready .. | .stop .. => fabricFoot.and [.recov] [Reg.SVC_STAT_SVC_FULL, Reg.SVC_STAT_SVC_LOST]
  | .sealReceived .. =>
    eventFoot.and [.kites, .step, .seqs, .gov, .winch, .burner, .out] [Reg.GOV_STAT_DIVERGED,
      Reg.GOV_STAT_STATS_PHASE, Reg.STEP_STAT_STATE, Reg.SEAL_TICK_LO, Reg.SEAL_TICK_HI, Reg.SEALS_COUNT,
      Reg.NO_ROUTE_COUNT, Reg.SCALE_RAISED_COUNT, Reg.WN_CLIPS_COUNT, Reg.WN_OF_COUNT, Reg.NAN_ELEMS_COUNT,
      Reg.WN_NAN_INFO_VALID, Reg.WN_NAN_INFO_RANK, Reg.WN_NAN_INFO_DESC, Reg.WN_NAN_ELEM_ELEM, Reg.WN_NAN_STEP_STEP,
      Reg.SCALE_CLAMPED_COUNT, Reg.NAN_SEALED_GROUPS, Reg.BN_STAT_PHASE, Reg.NAN_SKIPS_COUNT, Reg.ENV_STAT_SNAP_VALID,
      Reg.ENV_SNAP_STEP_STEP, Reg.ENV_SAT_COUNT_SATS]
  | .endReq .. | .replayReady .. | .replay .. => eventFoot.and [.step, .out] [Reg.NO_ROUTE_COUNT]
  | .abortReceived .. =>
    ((loseFoot.both adoptFoot).both spoolFoot).and [.kites, .seqs, .gov, .winch, .fresh] [Reg.GOV_STAT_DIVERGED,
      Reg.GOV_STAT_TABLE_PHASE, Reg.GOV_STAT_STATS_PHASE, Reg.PT_PEND_PENDING, Reg.STEP_STAT_STATE,
      Reg.RECOV_STAT_HANDED, Reg.HANDOVERS_COUNT, Reg.LAST_DIRTY_DROPS_COUNT, Reg.WN_STAT_BUSY, Reg.WN_STAT_PHASE,
      Reg.WAIT_TICKS_COUNT, Reg.NAN_GROUPS_GROUPS, Reg.KITE_STATE_STATE, Reg.PLAN_PC_PC, Reg.SP_SPARE_SPARE_USED]
  | .replayTick =>
    (((eventFoot.both kiteFaultFoot).both shiftFoot).both tickFoot).and [.shadow, .recov] [Reg.STEP_STAT_REPLAY_RUN,
      Reg.STEP_STAT_STATE, Reg.STEP_TICK_LO, Reg.STEP_TICK_HI, Reg.REPLAYS_COUNT, Reg.SVC_STAT_SVC_FULL,
      Reg.SVC_STAT_SVC_LOST, Reg.SC_SLOT_STALE, Reg.TRN_KMAP_SLOT, Reg.TRN_BALLAST_USED, Reg.WN_STAT_BUSY,
      Reg.WN_STAT_PHASE, Reg.WAIT_TICKS_COUNT, Reg.NAN_GROUPS_GROUPS, Reg.BN_STAT_PHASE, Reg.BN_FAULT_RECORD,
      Reg.BN_FAULT_CODE, Reg.KITE_STATE_STATE, Reg.PLAN_PC_PC, Reg.ARR_FLAGS_STEP_FLAGS, Reg.VEC_FLAGS_STEP_FLAGS,
      Reg.ENV_DISCARD_DISCARDS]
  | .stepTimeout =>
    (eventFoot.both tickFoot).and [.recov] [Reg.RECOV_STAT_LAST_RUNG, Reg.REC_COUNT_COUNT, Reg.SVC_STAT_SVC_FULL,
      Reg.SVC_STAT_SVC_LOST]
  | .handover .. =>
    fabricFoot.and [.recov] [Reg.RECOV_STAT_COVERING, Reg.HANDOVERS_COUNT, Reg.SVC_STAT_SVC_FULL,
      Reg.SVC_STAT_SVC_LOST]
  | .sync .. =>
    (storeFoot.both loseFoot).and [.kites, .seqs, .burner] [Reg.STEP_STAT_STATE, Reg.STEP_SLIPS_COUNT,
      Reg.LAST_DIRTY_DROPS_COUNT, Reg.BN_STAT_BUSY, Reg.BN_STAT_RECORD, Reg.KITE_STATE_STATE, Reg.PLAN_PC_PC,
      Reg.SLIP_COUNT_SLIPS]
  | .arrayOp .. =>
    ((storeFoot.both kiteFaultFoot).both loseFoot).and [.kites] [Reg.STEP_SLIPS_COUNT, Reg.TRN_KSTAT_FAILED,
      Reg.LAST_DIRTY_DROPS_COUNT, Reg.REG_STALLS_STALLS, Reg.KITE_STATE_STATE, Reg.PLAN_PC_PC, Reg.SLIP_COUNT_SLIPS,
      Reg.BANK_STALL_STALLS, Reg.ARR_FLAGS_STEP_FLAGS, Reg.ARR_FLAGS_UF, Reg.ARR_FLAGS_OF, Reg.ARR_FLAGS_INVALID,
      Reg.ARR_FLAGS_NAN_IN, Reg.STREAM_COLS_LO, Reg.STREAM_COLS_HI, Reg.WEIGHT_BUBBLES_BUBBLES, Reg.ESC_SUBST_SUBSTS,
      Reg.SLICE_SKIP_LO, Reg.SLICE_SKIP_HI]
  | .stationaryLoad .. =>
    (fabricFoot.both kiteFaultFoot).and [.kites] [Reg.TRN_KSTAT_FAILED, Reg.KITE_STATE_STATE, Reg.BANK_STALL_STALLS,
      Reg.ARR_STATUS_LOAD_ROW, Reg.ARR_STATUS_SHADOW_STATE, Reg.STAT_LOADS_LO, Reg.STAT_LOADS_HI, Reg.TBL_FILLS_FILLS]
  | .tileSwap .. =>
    ⟨[.kites], [Reg.ARR_STATUS_LIVE_PROFILE, Reg.ARR_STATUS_LIVE_BRIDLE, Reg.ARR_STATUS_LIVE_SHAPE,
      Reg.ARR_STATUS_LIVE_VALID, Reg.ARR_STATUS_SHADOW_STATE]⟩
  | .opInvalid .. =>
    ((storeFoot.both kiteFaultFoot).both loseFoot).and [.kites] [Reg.LAST_DIRTY_DROPS_COUNT, Reg.KITE_STATE_STATE]
  | .opComplete .. =>
    eventFoot.and [.kites, .seqs] [Reg.KITE_STATE_STATE, Reg.PLAN_PC_PC, Reg.ARR_STATUS_LIVE_VALID,
      Reg.ARR_FLAGS_STEP_FLAGS, Reg.ARR_FLAGS_UF, Reg.ARR_FLAGS_OF, Reg.ARR_FLAGS_INVALID, Reg.ARR_FLAGS_NAN_IN,
      Reg.VEC_STATUS_BUSY, Reg.VEC_FLAGS_STEP_FLAGS, Reg.VEC_FLAGS_DZ, Reg.VEC_FLAGS_UF, Reg.VEC_FLAGS_OF,
      Reg.VEC_FLAGS_INVALID, Reg.VEC_FLAGS_NAN_IN]
  | .map .. | .conv .. | .scan .. | .reduce .. | .rescale .. | .rng .. =>
    ((storeFoot.both kiteFaultFoot).both loseFoot).and [.kites] [Reg.STEP_SLIPS_COUNT, Reg.TRN_KSTAT_FAILED,
      Reg.LAST_DIRTY_DROPS_COUNT, Reg.KITE_STATE_STATE, Reg.PLAN_PC_PC, Reg.SLIP_COUNT_SLIPS, Reg.BANK_STALL_STALLS,
      Reg.VEC_STATUS_BUSY, Reg.VEC_STATUS_VOP, Reg.VEC_STATUS_ELEM, Reg.VEC_FLAGS_STEP_FLAGS, Reg.VEC_FLAGS_DZ,
      Reg.VEC_FLAGS_UF, Reg.VEC_FLAGS_OF, Reg.VEC_FLAGS_INVALID, Reg.VEC_FLAGS_NAN_IN, Reg.VEC_CLIPS_CLIPS,
      Reg.VEC_ELEMS_LO, Reg.VEC_ELEMS_HI, Reg.NAN_TRAPS_TRAPS]
  | .cbfLoad .. =>
    ((storeFoot.both kiteFaultFoot).both loseFoot).and [.kites] [Reg.STEP_SLIPS_COUNT, Reg.TRN_KSTAT_FAILED,
      Reg.LAST_DIRTY_DROPS_COUNT, Reg.KITE_STATE_STATE, Reg.PLAN_PC_PC, Reg.SLIP_COUNT_SLIPS, Reg.BANK_STALL_STALLS,
      Reg.CBF_WAITS_WAITS]
  | .move .. =>
    ((storeFoot.both kiteFaultFoot).both loseFoot).and [.kites] [Reg.STEP_SLIPS_COUNT, Reg.TRN_KSTAT_FAILED,
      Reg.LAST_DIRTY_DROPS_COUNT, Reg.REG_STALLS_STALLS, Reg.KITE_STATE_STATE, Reg.PLAN_PC_PC, Reg.SLIP_COUNT_SLIPS,
      Reg.BANK_STALL_STALLS]
  | .fileCopy .. =>
    ⟨[.kites], [Reg.CB_FILE_STAT_CB_COPY_BUSY, Reg.CB_FILE_STAT_RSC_COPY_BUSY, Reg.VP_FILE_STAT_VP_COPY_BUSY]⟩
  | .faultClr .. => kiteFaultFoot
  | .cbfData .. => eventFoot.and [.held, .kites, .out] [Reg.CBF_INDEX_WORD]
  | .vpData .. => eventFoot.and [.held, .kites, .out] [Reg.VP_INDEX_WORD]
  | .envWin .. => ⟨[.out], [Reg.ENV_SEL_TAG, Reg.ENV_SEL_WORD]⟩
  | .govSummary .. | .govMergeDone =>
    eventFoot.and [.step, .gov, .out] [Reg.GOV_STAT_STATS_PHASE, Reg.STEP_STAT_STATE, Reg.NO_ROUTE_COUNT]
  | .govEval =>
    eventFoot.and [.shadow, .gov] [Reg.GOV_STAT_TABLE_PHASE, Reg.UFW_ALARMS_ALARMS, Reg.UFW_LAST_STEP,
      Reg.UFW_LAST_TAG, Reg.GOV_FIRES_COUNT, Reg.GOV_CHANGES_COUNT, Reg.GOV_BOUND_COUNT, Reg.GOV_BLOCKED_COUNT,
      Reg.GOV_LAST_FIRE_RULE, Reg.GOV_LAST_FIRE_ACTION, Reg.GOV_LAST_FIRE_TAG, Reg.GOV_RULE_W3_FIRES]
  | .govReady =>
    ⟨[.gov], [Reg.GOV_STAT_TABLE_PHASE, Reg.GOV_EVAL_STEP_STEP, Reg.GOV_LAT_TICKS, Reg.GOV_DIGEST_DIGEST,
      Reg.GOV_LATE_COUNT, Reg.PT_PEND_PENDING]⟩
  | .replicaReload .. => ⟨[.regs, .shadow, .kites, .gov], []⟩
  | .govSvData .. => eventFoot.and [.gov, .out] [Reg.GOV_SV_IDX_WORD]
  | .ufwCtl .. =>
    eventFoot.and [] [Reg.GOV_STAT_UFLOW_WATCH_OFF, Reg.UFW_CTL_UFW_EN, Reg.UFW_CTL_UFW_WIDEN, Reg.UFW_CTL_UFW_STREAK,
      Reg.UFW_CTL_UFW_THRESH]
  | .spoolAccess .. =>
    (storeFoot.both loseFoot).and [] [Reg.LAST_DIRTY_DROPS_COUNT, Reg.SP_REFETCH_COUNT, Reg.UNSCHED_RETRAINS_COUNT,
      Reg.PC_REC_ST_STATE, Reg.PC_REC_RT_RETRAINS]
  | .regAdmit .. =>
    (storeFoot.both loseFoot).and [] [Reg.LAST_DIRTY_DROPS_COUNT, Reg.SP_REFETCH_COUNT, Reg.REG_STALLS_STALLS,
      Reg.UNSCHED_RETRAINS_COUNT, Reg.PC_REC_ST_STATE, Reg.PC_REC_RT_RETRAINS]
  | .hbmRead .. =>
    loseFoot.and [.winch] [Reg.WN_STAT_PHASE, Reg.WN_FAULT_RECORD, Reg.WN_FAULT_CODE, Reg.WAIT_TICKS_COUNT,
      Reg.BN_STAT_PHASE, Reg.BN_FAULT_RECORD, Reg.BN_FAULT_CODE, Reg.BN_PROGRESS_ELEM, Reg.SYM_CE_COUNT,
      Reg.RETRY_OK_COUNT, Reg.TRACKER_EVICT_COUNT, Reg.UNSCHED_RETRAINS_COUNT, Reg.PC_REC_CE_CE, Reg.PC_REC_ST_STATE,
      Reg.PC_REC_ST_INTERVAL_CE, Reg.PC_REC_RT_RETRAINS]
  | .retrainDone .. =>
    fabricFoot.and [.hbm, .mem, .recov] [Reg.STEP_STAT_STATE, Reg.RECOV_STAT_HANDED, Reg.HANDOVERS_COUNT,
      Reg.SVC_STAT_SVC_FULL, Reg.SVC_STAT_SVC_LOST, Reg.MIG_STAT_ACTIVE, Reg.MIG_STAT_BALLAST_USED, Reg.PC_MAP_PHYS,
      Reg.PC_REC_ST_STATE, Reg.PC_REC_ST_LOGICAL, Reg.PC_REC_RT_RETRAINS]
  | .pcDead .. =>
    fabricFoot.and [.hbm, .mem, .recov] [Reg.STEP_STAT_STATE, Reg.RECOV_STAT_HANDED, Reg.HANDOVERS_COUNT,
      Reg.SVC_STAT_SVC_FULL, Reg.SVC_STAT_SVC_LOST, Reg.MIG_STAT_ACTIVE, Reg.MIG_STAT_BALLAST_USED, Reg.PC_MAP_PHYS,
      Reg.PC_REC_ST_STATE, Reg.PC_REC_ST_LOGICAL]
  | .stackTempRead .. => eventFoot.and [.mem, .recov] [Reg.STK_TEMP_BAND, Reg.STK_TEMP_TEMP_MAX, Reg.STK_TEMP_TEMP]
  | .maintWindowStart => tickFoot.and [.mem] [Reg.MW_COUNT_WINDOWS]
  | .windowWork .. =>
    loseFoot.and [.kites] [Reg.WIN_DEFERRED_DEFERRED, Reg.STEP_STAT_STATE, Reg.RECOV_STAT_HANDED, Reg.HANDOVERS_COUNT,
      Reg.TRN_KSTAT_FAILED, Reg.SPOOL_SPARE_WAY_DISABLED, Reg.SPOOL_SPARE_SPARE_USED, Reg.SP_WRITEBACKS_COUNT,
      Reg.KITE_STATE_STATE, Reg.ODE_CE_COUNT, Reg.SYM_CE_COUNT, Reg.RETRY_OK_COUNT, Reg.TRACKER_EVICT_COUNT,
      Reg.UNSCHED_RETRAINS_COUNT, Reg.SCRUB_PASSES_COUNT, Reg.PC_REC_CE_CE, Reg.PC_REC_ST_STATE,
      Reg.PC_REC_ST_INTERVAL_CE, Reg.PC_REC_RT_RETRAINS]
  | .tableSwap =>
    (loseFoot.both tickFoot).and [.kites] [Reg.SP_SPARE_SPARE_USED, Reg.MIG_STAT_ACTIVE, Reg.MIG_STAT_BALLAST_USED,
      Reg.PC_MAP_PHYS, Reg.HPPR_DONE_COUNT, Reg.PC_REC_ST_STATE, Reg.PC_REC_ST_LOGICAL]
  | .windowEnd =>
    ((storeFoot.both loseFoot).both tickFoot).and [] [Reg.LAST_DIRTY_DROPS_COUNT, Reg.SP_REFETCH_COUNT,
      Reg.UNSCHED_RETRAINS_COUNT, Reg.PC_REC_ST_STATE, Reg.PC_REC_RT_RETRAINS]
  | .migIntervalEnd .. =>
    eventFoot.and [.mem] [Reg.REC_COUNT_COUNT, Reg.MIG_STAT_ACTIVE, Reg.MIG_STAT_SRC, Reg.MIG_STAT_COPIED,
      Reg.PC_REC_ST_STATE, Reg.PC_REC_ST_LOGICAL, Reg.PC_REC_ST_INTERVAL_CE]
  | .migCopyDone .. => ⟨[.mem], [Reg.MIG_STAT_COPIED]⟩
  | .migrate .. =>
    eventFoot.and [.mem] [Reg.REC_COUNT_COUNT, Reg.MIG_STAT_ACTIVE, Reg.MIG_STAT_SRC, Reg.MIG_STAT_COPIED,
      Reg.PC_REC_ST_STATE, Reg.PC_REC_ST_LOGICAL]
  | .ueClr .. =>
    ⟨[], [Reg.UE_ADDR_LO_ADDR, Reg.UE_ADDR_HI_VALID, Reg.UE_ADDR_HI_ADDR, Reg.UE_INFO_PPC, Reg.UE_INFO_SID,
      Reg.UE_INFO_BG, Reg.UE_INFO_BANK, Reg.UE_INFO_ROW, Reg.UE_INFO_XFER]⟩
  | .unpinAll .. => ⟨[.mem], []⟩
  | .copy .. | .prefetch .. =>
    (storeFoot.both loseFoot).and [.kites, .seqs] [Reg.LAST_DIRTY_DROPS_COUNT, Reg.REG_STALLS_STALLS]
  | .unpin .. | .writeback .. => (storeFoot.both loseFoot).and [.kites, .seqs] [Reg.LAST_DIRTY_DROPS_COUNT]
  | .lineScheduleRecord .. =>
    (storeFoot.both loseFoot).and [] [Reg.BAD_EP_COUNT, Reg.ORDER_DROPS_COUNT, Reg.STALE_DROPS_COUNT,
      Reg.PERSIST_HITS_COUNT, Reg.RANGE_DROPS_COUNT, Reg.TX_FRAMES_COUNT, Reg.BULK_LOST_COUNT,
      Reg.LAST_DIRTY_DROPS_COUNT, Reg.REG_STALLS_STALLS]
  | .flitSend .. =>
    ⟨[.fab, .out], [Reg.TX_FLITS_LO, Reg.TX_FLITS_HI, Reg.RETRY_FLITS_COUNT, Reg.CREDIT_STALLS_COUNT,
      Reg.REPLAY_FULL_COUNT, Reg.TX_BYTES_VC7_COUNT]⟩
  | .flitRx .. =>
    eventFoot.and [] [Reg.REC_COUNT_COUNT, Reg.RX_FLITS_LO, Reg.RX_FLITS_HI, Reg.CRC_ERRS_COUNT,
      Reg.LINE_FEC_CE_COUNT, Reg.LINE_FEC_UE_COUNT, Reg.LANE_REC_ERR_SYM_ERR, Reg.LANE_REC_ST_INTERVAL_ERR]
  | .retryReq .. => eventFoot.and [] [Reg.REC_COUNT_COUNT, Reg.RETRIES_COUNT]
  | .retryTimeout .. | .lineDown .. | .downNotice .. | .alignmentLoss .. =>
    storeFoot.and [] [Reg.FAB_STAT_LINES_UP, Reg.BAD_EP_COUNT, Reg.ORDER_DROPS_COUNT, Reg.STALE_DROPS_COUNT,
      Reg.PERSIST_HITS_COUNT, Reg.RANGE_DROPS_COUNT, Reg.NBR_VALID, Reg.TX_FRAMES_COUNT, Reg.BULK_LOST_COUNT,
      Reg.TB_SYNC_MASTER, Reg.REG_STALLS_STALLS, Reg.LINE_STAT_STATE, Reg.LINE_STAT_TB_PARENT, Reg.LINE_DOWNS_COUNT]
  | .idleAck .. => ⟨[.fab, .out], []⟩
  | .dataFlit .. | .nack .. | .segmentSend .. =>
    storeFoot.and [] [Reg.BAD_EP_COUNT, Reg.ORDER_DROPS_COUNT, Reg.STALE_DROPS_COUNT, Reg.PERSIST_HITS_COUNT,
      Reg.RANGE_DROPS_COUNT, Reg.TX_FRAMES_COUNT, Reg.BULK_LOST_COUNT, Reg.REG_STALLS_STALLS]
  | .transferWritten .. =>
    fabricFoot.and [.kites, .winch, .recov] [Reg.RESTORED_COUNT, Reg.WN_STAT_PHASE, Reg.WN_FAULT_RECORD,
      Reg.WN_FAULT_CODE, Reg.WAIT_TICKS_COUNT, Reg.DUP_DISCARDS_COUNT, Reg.PROTO_DROPS_COUNT, Reg.BN_STAT_PHASE,
      Reg.BN_FAULT_RECORD, Reg.BN_FAULT_CODE]
  | .done .. => eventFoot.and [.winch] []
  | .restoreRead .. =>
    (storeFoot.both loseFoot).and [.kites, .seqs, .burner] [Reg.STEP_STAT_STATE, Reg.BAD_EP_COUNT,
      Reg.ORDER_DROPS_COUNT, Reg.STALE_DROPS_COUNT, Reg.PERSIST_HITS_COUNT, Reg.RANGE_DROPS_COUNT,
      Reg.TX_FRAMES_COUNT, Reg.BULK_LOST_COUNT, Reg.LAST_DIRTY_DROPS_COUNT, Reg.REG_STALLS_STALLS, Reg.BN_STAT_BUSY,
      Reg.BN_STAT_RECORD, Reg.UPDATES_COUNT, Reg.BLOCK_FALLBACK_COUNT, Reg.REFACTORS_COUNT, Reg.DAMP_RAISES_COUNT,
      Reg.BN_CLIPS_COUNT, Reg.WC_CLIPS_COUNT, Reg.UPD_NONFINITE_COUNT, Reg.WC_REWRITES_COUNT]
  | .tbQuery .. => fabricFoot
  | .ident .. =>
    eventFoot.and [] [Reg.NBR_VALID, Reg.NBR_PEER_ASSIGNED, Reg.NBR_PEER_DEV, Reg.NBR_PEER_LINE, Reg.NBR_PEER_DIST,
      Reg.TB_SYNC_MASTER, Reg.LINE_STAT_TB_PARENT]
  | .discovery | .discTimeout .. | .discover => eventFoot.and [] [Reg.FAB_STAT_DISC_STATE, Reg.LINE_STAT_STATE]
  | .fabDevnum .. => ⟨[.regs, .shadow, .held, .hdrs, .ec, .host, .mem, .step, .fab, .hd, .trace], []⟩
  | .lineUp .. => eventFoot.and [] [Reg.FAB_STAT_DISC_STATE, Reg.FAB_STAT_LINES_UP, Reg.LINE_STAT_STATE]
  | .lineRetrain .. => ⟨[], [Reg.LINE_STAT_STATE]⟩
  | .lineCfg .. | .hdDump .. =>
    ⟨[.regs, .shadow, .held, .hdrs, .ec, .host, .hbm, .mem, .step, .fab, .winch, .recov, .hd, .trace, .out], []⟩
  | .laneIntervalEnd .. => ⟨[.fab], [Reg.LANE_REC_ST_INTERVAL_ERR]⟩
  | .laneSwap .. | .timeSyncSend => ⟨[.fab], []⟩
  | .laneWindowSwap .. =>
    (eventFoot.both tickFoot).and [.recov] [Reg.REC_COUNT_COUNT, Reg.SVC_STAT_SVC_FULL, Reg.SVC_STAT_SVC_LOST,
      Reg.LANE_BALLAST_BALLAST_USED, Reg.LANE_REC_ST_STATE]
  | .laneLockLoss .. =>
    storeFoot.and [] [Reg.FAB_STAT_LINES_UP, Reg.BAD_EP_COUNT, Reg.ORDER_DROPS_COUNT, Reg.STALE_DROPS_COUNT,
      Reg.PERSIST_HITS_COUNT, Reg.RANGE_DROPS_COUNT, Reg.NBR_VALID, Reg.TX_FRAMES_COUNT, Reg.BULK_LOST_COUNT,
      Reg.TB_SYNC_MASTER, Reg.REG_STALLS_STALLS, Reg.LINE_STAT_STATE, Reg.LINE_STAT_TB_PARENT, Reg.LINE_DOWNS_COUNT,
      Reg.LANE_BALLAST_BALLAST_USED, Reg.LANE_REC_ST_STATE]
  | .laneSwapCmd .. | .evtPend .. | .release .. => eventFoot
  | .timeSync .. =>
    (fabricFoot.both tickFoot).and [] [Reg.NBR_PEER_DIST, Reg.EC_TMR_CMP_LO_CMP, Reg.EC_TMR_CMP_HI_CMP,
      Reg.EC_TMR_EN_EN, Reg.TB_SYNC_LOCKED, Reg.TB_SYNC_LOADED, Reg.TB_SYNC_MASTER, Reg.TB_SYNC_OFFSET,
      Reg.LINE_STAT_TB_PARENT, Reg.LINE_RTT_RTT]
  | .syncTimeout =>
    fabricFoot.and [] [Reg.NBR_PEER_DIST, Reg.TB_SYNC_LOCKED, Reg.TB_SYNC_MASTER, Reg.LINE_STAT_TB_PARENT]
  | .routeData .. => eventFoot.and [.shadow, .held, .out] [Reg.ROUTE_INDEX_INDEX]
  | .winchRecord .. =>
    (storeFoot.both loseFoot).and [.kites, .seqs] [Reg.LAST_DIRTY_DROPS_COUNT, Reg.REG_STALLS_STALLS,
      Reg.WN_STAT_BUSY, Reg.DUP_DISCARDS_COUNT, Reg.PROTO_DROPS_COUNT]
  | .segmentCombine .. =>
    (loseFoot.both spoolFoot).and [.winch] [Reg.LAST_DIRTY_DROPS_COUNT, Reg.REG_STALLS_STALLS, Reg.WN_STAT_PHASE,
      Reg.WN_STAT_CTX, Reg.WN_STAT_SEG, Reg.WN_FAULT_RECORD, Reg.WN_FAULT_CODE, Reg.SEGS_COMBINED_COUNT,
      Reg.WAIT_TICKS_COUNT, Reg.BACKUP_TAKEN_COUNT, Reg.DUP_DISCARDS_COUNT, Reg.NAN_GROUPS_GROUPS]
  | .slotFree .. => ⟨[.winch], [Reg.WAIT_TICKS_COUNT]⟩
  | .winchRecordDone .. => eventFoot.and [.kites, .winch] [Reg.WN_STAT_BUSY, Reg.WN_STAT_PHASE, Reg.WAIT_TICKS_COUNT]
  | .wnFaultClr .. => ⟨[], [Reg.WN_FAULT_RECORD, Reg.WN_FAULT_CODE]⟩
  | .nanClr .. =>
    ⟨[], [Reg.WN_NAN_INFO_VALID, Reg.WN_NAN_INFO_RANK, Reg.WN_NAN_INFO_DESC, Reg.WN_NAN_ELEM_ELEM,
      Reg.WN_NAN_STEP_STEP]⟩
  | .burnerRecord .. =>
    (loseFoot.both spoolFoot).and [.kites, .seqs, .burner] [Reg.STEP_STAT_STATE, Reg.LAST_DIRTY_DROPS_COUNT,
      Reg.REG_STALLS_STALLS, Reg.BN_STAT_BUSY, Reg.BN_STAT_PHASE, Reg.BN_STAT_RECORD, Reg.BN_FAULT_RECORD,
      Reg.BN_FAULT_CODE, Reg.BN_PROGRESS_ELEM, Reg.UPDATES_COUNT, Reg.BLOCK_FALLBACK_COUNT, Reg.REFACTORS_COUNT,
      Reg.DAMP_RAISES_COUNT, Reg.BN_CLIPS_COUNT, Reg.WC_CLIPS_COUNT, Reg.UPD_NONFINITE_COUNT, Reg.WC_REWRITES_COUNT]
  | .reelCompute .. => eventFoot.and [.burner] [Reg.REEL_WAITS_COUNT, Reg.RL_STEP_STEP]
  | .burnerRecordDone .. =>
    eventFoot.and [.kites, .step, .burner] [Reg.STEP_STAT_STATE, Reg.BN_STAT_BUSY, Reg.BN_STAT_PHASE]
  | .bnFaultClr .. => ⟨[], [Reg.BN_FAULT_RECORD, Reg.BN_FAULT_CODE]⟩
  | .bnGwin .. => eventFoot.and [.shadow, .held, .burner, .out] [Reg.BN_GSEL_GROUP, Reg.BN_GSEL_WORD]
  | .ecDeliver => ⟨[.ec], []⟩
  | .ecEoi .. => eventFoot.and [] [Reg.STRAY_EOI_COUNT]
  | .ecCore .. => haulFoot.and [.hdrs, .ec, .host] [Reg.EC_CORE_CORE_EN, Reg.EVT_FWD_LOST_COUNT]
  | .ecTimer .. =>
    (haulFoot.both tickFoot).and [.ec, .host] [Reg.EC_TMR_CMP_LO_CMP, Reg.EC_TMR_CMP_HI_CMP, Reg.EC_TMR_EN_EN,
      Reg.EVT_FWD_LOST_COUNT]
  | .pinInput .. => eventFoot.and [] [Reg.GLITCH_REJ_COUNT, Reg.PIN_EDGES_COUNT]
  | .ecPend .. => haulFoot.and [.hdrs, .ec, .host] [Reg.EVT_FWD_LOST_COUNT]
  | .ecCfg .. => eventFoot.and [.out] [Reg.EC_SEL_SRC, Reg.PIN_EDGES_COUNT]
  | .kiteHang .. =>
    (eventFoot.both tickFoot).and [.kites, .step, .out] [Reg.NO_ROUTE_COUNT, Reg.TRN_KSTAT_FAILED,
      Reg.KITE_STATE_STATE]
  | .replace .. =>
    ((loseFoot.both adoptFoot).both spoolFoot).and [.kites, .sc] [Reg.SC_SLOT_STALE, Reg.TRN_KMAP_SLOT,
      Reg.TRN_BALLAST_USED, Reg.TRN_KSTAT_FAILED, Reg.LAST_DIRTY_DROPS_COUNT, Reg.KITE_STATE_STATE]
  | .coreFailure .. =>
    eventFoot.and [.recov, .out] [Reg.STEP_STAT_STATE, Reg.RECOV_STAT_HANDED, Reg.RECOV_STAT_LAST_RUNG,
      Reg.REC_COUNT_COUNT, Reg.HANDOVERS_COUNT, Reg.NO_ROUTE_COUNT, Reg.EC_CORE_CORE_EN, Reg.CORE_STAT_ROLE,
      Reg.CORE_STAT_STATE, Reg.CORE_STAT_VERSION, Reg.FW_STAT_PHASE, Reg.SVC_STAT_SVC_FULL, Reg.SVC_STAT_SVC_LOST]
  | .roleTakeover =>
    eventFoot.and [.recov] [Reg.EC_CORE_CORE_EN, Reg.CORE_STAT_ROLE, Reg.CORE_STAT_STATE, Reg.SVC_STAT_SVC_FULL,
      Reg.SVC_STAT_SVC_LOST]
  | .phaseShed =>
    eventFoot.and [.recov] [Reg.THERM_STAT_PEAK_LAPSED, Reg.PHASES_SHED, Reg.PHASES_EFF_CAP, Reg.SVC_STAT_SVC_FULL,
      Reg.SVC_STAT_SVC_LOST]
  | .planUeDone => (loseFoot.both spoolFoot).and [.kites] [Reg.LAST_DIRTY_DROPS_COUNT]
  | .haul .. => haulFoot
  | .haulMsg .. => eventFoot.and [] [Reg.HAUL_OTHER_COUNT, Reg.LATE_CUTS_COUNT]
  | .haulCut => (eventFoot.both tickFoot).and [] [Reg.HAULS_COUNT]
  | .cutMarker .. => ⟨[.hd], [Reg.HD_STAT_STATE]⟩
  | .markTimeout => (eventFoot.both tickFoot).and [] [Reg.MARK_TIMEOUTS_COUNT]
  | .scanDone => storeFoot.both imageFoot
  | .dumpDone => ⟨[], [Reg.HD_STAT_DUMP_BUSY]⟩
  | .releaseMsg .. => eventFoot.and [] [Reg.LATE_RELEASES_COUNT]
  | .releaseTick =>
    ((storeFoot.both tickFoot).both shiftFoot).and [] [Reg.FAB_STAT_LINES_UP, Reg.BAD_EP_COUNT, Reg.ORDER_DROPS_COUNT,
      Reg.STALE_DROPS_COUNT, Reg.PERSIST_HITS_COUNT, Reg.RANGE_DROPS_COUNT, Reg.NBR_VALID, Reg.TX_FRAMES_COUNT,
      Reg.BULK_LOST_COUNT, Reg.TB_SYNC_MASTER, Reg.HD_RESUMED_LO, Reg.HD_RESUMED_HI, Reg.REG_STALLS_STALLS,
      Reg.LINE_STAT_STATE, Reg.LINE_STAT_TB_PARENT, Reg.LINE_DOWNS_COUNT]
  | .abandon =>
    ((storeFoot.both kiteFaultFoot).both shiftFoot).and [.shadow, .gov, .burner, .plan] [Reg.GOV_STAT_TABLE_PHASE,
      Reg.GOV_STAT_STATS_PHASE, Reg.PT_PEND_PENDING, Reg.PLAN_STAT_STATE, Reg.STEP_STAT_STATE, Reg.FAB_STAT_LINES_UP,
      Reg.BAD_EP_COUNT, Reg.ORDER_DROPS_COUNT, Reg.STALE_DROPS_COUNT, Reg.PERSIST_HITS_COUNT, Reg.RANGE_DROPS_COUNT,
      Reg.NBR_VALID, Reg.TX_FRAMES_COUNT, Reg.SC_STAT_WL_BUSY, Reg.SC_STAT_V_BUSY, Reg.SC_OK_COUNT, Reg.SC_BUSY_COUNT,
      Reg.SC_BADS_COUNT, Reg.SC_FAULTS_COUNT, Reg.SC_HALTED_COUNT, Reg.SC_FAULT_KITE, Reg.SC_FAULT_SLOT,
      Reg.SC_FAULT_CODE, Reg.SC_SLOT_RETIRING, Reg.SC_SLOT_STALE, Reg.BULK_LOST_COUNT, Reg.TB_SYNC_MASTER,
      Reg.TRN_KMAP_SLOT, Reg.TRN_BALLAST_USED, Reg.REG_STALLS_STALLS, Reg.WN_STAT_BUSY, Reg.WN_NAN_INFO_VALID,
      Reg.WN_NAN_INFO_RANK, Reg.WN_NAN_INFO_DESC, Reg.WN_NAN_ELEM_ELEM, Reg.WN_NAN_STEP_STEP, Reg.NAN_GROUPS_GROUPS,
      Reg.BN_STAT_BUSY, Reg.KITE_STATE_STATE, Reg.CB_FILE_STAT_CB_RETIRING, Reg.VP_FILE_STAT_VP_RETIRING,
      Reg.ENV_DISCARD_DISCARDS, Reg.LINE_STAT_STATE, Reg.LINE_STAT_TB_PARENT, Reg.LINE_DOWNS_COUNT]
  | .traceBurst .. => storeFoot.and [.traceFull] [Reg.TR_HEAD_WRAPPED, Reg.TR_HEAD_OFFSET, Reg.REG_STALLS_STALLS]
  | .trCtl .. => ⟨[.regs, .shadow, .held, .hdrs, .ec, .host, .mem, .step, .fab, .hd, .trace, .traceFull], []⟩
  | .measure => ⟨[.tb], []⟩
  | .measDone => eventFoot.and [.tb, .fresh] [Reg.TB_MEAS_AT_LO, Reg.TB_MEAS_AT_HI]
  | .tbNowLo | .lowWordRead .. => imageFoot.and [.hiLatch, .out] []
  | .health | .regGet => ⟨[.sb, .out], []⟩
  | .regAddr .. | .healthRefresh | .dynamicAddressing .. => ⟨[.sb], []⟩
  | .regPut .. =>
    shiftFoot.and [.regs, .shadow, .held, .frozen, .hdrs, .ec, .host, .hbm, .mem, .gov, .fab, .burner, .recov, .sb,
      .tb, .trust, .hd, .plan, .trace, .traceFull, .out] []
  | .softReset .. =>
    ⟨[.regs, .shadow, .frozen, .hdrs, .ec, .host, .hbm, .mem, .step, .fab, .winch, .recov, .hd, .trace, .out], []⟩
  | .freeze .. => ⟨[.frozen, .hdrs], []⟩
  | .registerWrite .. =>
    shiftFoot.and [.regs, .shadow, .held, .frozen, .hdrs, .ec, .host, .hbm, .mem, .gov, .fab, .burner, .recov, .tb,
      .trust, .hd, .plan, .trace, .traceFull, .out] []
  | .powerEnable => ⟨[.pwr], []⟩
  | .powerGood | .powerOff | .powerEval .. | .thermalEval .. | .deviceReset =>
    shiftFoot.and [.tick, .regs, .shadow, .held, .hiLatch, .frozen, .hdrs, .ec, .host, .hbm, .mem, .gov, .fab,
      .burner, .recov, .sb, .tb, .trust, .pwr, .hd, .plan, .trace, .traceFull] []
  | .refLost => fabricFoot.and [] [Reg.CLK_REF_REF_OK, Reg.TB_SYNC_LOCKED]
  | .reset .. => eventFoot.and [.trust] []
  | .romStage =>
    eventFoot.and [.trust] [Reg.DEV_STAT_STATE, Reg.CLK_REF_REF_OK, Reg.CLK_REF_PLL_LOCK, Reg.SEC_STAT_LOG_OVERFLOW,
      Reg.SEC_STAT_USER_KEY_SET, Reg.SEC_SVN_SVN_MIN, Reg.LOG_COUNT_COUNT, Reg.USER_KEY_HASH_HASH]
  | .verifyStage =>
    eventFoot.and [.trust] [Reg.DEV_STAT_STATE, Reg.SEC_STAT_RECOVERY, Reg.SEC_STAT_LOG_OVERFLOW,
      Reg.SEC_STAT_BOOT_ERR, Reg.SEC_SVN_SVN_RUN, Reg.LOG_COUNT_COUNT]
  | .loadStage .. =>
    eventFoot.and [.trust] [Reg.DEV_STAT_STATE, Reg.CORE_STAT_ROLE, Reg.CORE_STAT_STATE, Reg.CORE_STAT_VERSION,
      Reg.SEC_STAT_RECOVERY, Reg.SEC_STAT_LOG_OVERFLOW, Reg.SEC_STAT_BOOT_ERR, Reg.LOG_COUNT_COUNT]
  | .configStage => ⟨[.regs, .shadow, .hdrs, .ec, .host, .mem, .kites, .step, .fab, .trust, .hd, .trace], []⟩
  | .hbmStage .. => ⟨[], [Reg.DEV_STAT_STATE, Reg.HPPR_STEPS_COUNT]⟩
  | .devReady =>
    eventFoot.and [.tb, .fresh] [Reg.DEV_STAT_STATE, Reg.DEV_STAT_BOOT_MS, Reg.TB_MEAS_AT_LO, Reg.TB_MEAS_AT_HI]
  | .flData .. => eventFoot.and [.trust, .out, .fresh] [Reg.FL_ADDR_ADDR, Reg.FL_STAT_BUSY]
  | .erase | .flCommit .. => eventFoot.and [.trust] [Reg.FL_STAT_BUSY]
  | .flDone .. => eventFoot.and [.trust, .fresh] [Reg.FL_STAT_BUSY, Reg.FL_STAT_RESULT]
  | .stage =>
    eventFoot.and [.trust] [Reg.SEC_STAT_LOG_OVERFLOW, Reg.LOG_COUNT_COUNT, Reg.FL_STAT_RESULT, Reg.FW_STAT_PHASE,
      Reg.FW_STAT_STAGED_VER]
  | .swap => eventFoot.and [] [Reg.CORE_STAT_STATE, Reg.FW_STAT_PHASE]
  | .handoverDone =>
    eventFoot.and [.trust] [Reg.EC_CORE_CORE_EN, Reg.CORE_STAT_ROLE, Reg.CORE_STAT_STATE, Reg.CORE_STAT_VERSION,
      Reg.SEC_STAT_LOG_OVERFLOW, Reg.SEC_SVN_SVN_RUN, Reg.LOG_COUNT_COUNT, Reg.FW_STAT_PHASE, Reg.FW_STAT_MIXED]
  | .extend => eventFoot.and [.trust] [Reg.SEC_STAT_LOG_OVERFLOW, Reg.LOG_COUNT_COUNT]
  | .svnBurn .. | .ukhBurn .. =>
    eventFoot.and [.trust] [Reg.SEC_STAT_USER_KEY_SET, Reg.SEC_SVN_SVN_MIN, Reg.USER_KEY_HASH_HASH]
  | .logWin => ⟨[.out], [Reg.LOG_SEL_ENTRY, Reg.LOG_SEL_WORD]⟩
  | .serviceHour => ⟨[.recov, .trust], [Reg.SVC_HOURS_COUNT, Reg.WEAR_HOT_COUNT]⟩
  | .commitTick =>
    ⟨[.tick, .regs, .shadow, .held, .hdrs, .ec, .host, .hbm, .mem, .kites, .step, .gov, .fab, .sc, .recov, .hd,
      .trace, .out], []⟩
  | .fileCopyDone .. =>
    ⟨[.held, .kites], [Reg.CB_FILE_STAT_CB_COPY_BUSY, Reg.CB_FILE_STAT_RSC_COPY_BUSY, Reg.VP_FILE_STAT_VP_COPY_BUSY]⟩
  | .ptCopyDone => ⟨[], [Reg.GOV_STAT_TABLE_PHASE]⟩
  | .hostLinkUp .. | .hostLinkDown =>
    eventFoot.and [] [Reg.PORT_STAT_LINK, Reg.PORT_STAT_FEC_LOCK, Reg.SC_STAT_PREEMPT]
  | .refReturn => ⟨[], [Reg.CLK_REF_REF_OK]⟩
  | .entropySample .. => eventFoot.and [.trust] [Reg.SEC_STAT_RNG_FAIL]
  | .boundaryScan .. => ⟨[.out], []⟩
  | .sidebandReadDone => imageFoot.and [.hiLatch, .sb] []
  | .phyMarginLow .. =>
    eventFoot.and [] [Reg.REC_COUNT_COUNT, Reg.UNSCHED_RETRAINS_COUNT, Reg.PC_REC_ST_STATE, Reg.PC_REC_RT_RETRAINS]

end Sys2Proof.Machine
end

