-- ==== Sys2Proof/Certificates/Slice0/Obligations.lean ====
section
/-! DEFINITION. The statements for the provers. A completion statement has one clause for each command, or form of a
command, it names; what a command leaves unchanged is said once for all of them by EveryCommandKeepsToItsFootprint. -/

open Sys2Proof Sys2Proof.Machine

/-- A step of a state whose queue starts with a command answers what exec answers for that command with the rest of
the queue in place. With an empty queue, with the rails up and before the last tick of 64 bits, a step answers a next
state one tick later, in which the queue is still empty and HBM, the spools and the outbox are as before (the empty
queue is the model's own choice, log 5). -/
def Obligations.StepTakesTheFrontCommand : Prop :=
  (∀ (c : Instr) (s : State) (rest : List Instr), step { s with pending := c :: rest } = exec c { s with pending := rest }) ∧
  (∀ s : State, s.pending = [] → s.pwr.rails = true → s.tick + 1 < 2 ^ 64 →
    ∃ t, step s = .next t ∧ t.tick = s.tick + 1 ∧ t.pending = [] ∧ t.hbm = s.hbm ∧ t.mem = s.mem ∧ t.out = s.out)

/-- For every command and every state, exec answers a next state in which every part of the machine and every register
outside the command's footprint (Safety.lean) is as before; and where the footprint holds neither HBM nor the spools,
every byte of memory reads as before. -/
def Obligations.EveryCommandKeepsToItsFootprint : Prop :=
  ∀ (c : Instr) (s : State), ∃ t, exec c s = .next t ∧ Keeps (footprint c) s t ∧
    (Part.hbm ∉ (footprint c).parts → Part.mem ∉ (footprint c).parts → ∀ a, memByte t a = memByte s a)

/-- R206, R383: From every state whose HBM, live and shadow registers and spools are in canonical form, a step that
answers a next state answers one whose are too, whatever command is in front. -/
def Obligations.EveryStepKeepsTheCanonicalForm : Prop :=
  ∀ s t : State, Canon s → step s = .next t → Canon t

/-- 16 R442, R449: In every step that answers a next state, SVN_MIN does not fall and a user key hash that has been
burnt stays as it is. -/
def Obligations.NoStepLosesAFuse : Prop :=
  ∀ s t : State, step s = .next t → FusesKept s t

/-- R379: The state right after power-on has canonical stores, an empty queue, tick 0 and empty HBM; the listed
register fields hold the reset values of their tables, in both banks where the statement says so; PC_MAP is the
identity, which rests on the clean factory record of log 3; and every page header has all events masked, none pending
and counters running. -/
def Obligations.ResetLeavesTheTablesValues : Prop :=
  Canon State.reset ∧ State.reset.pending = [] ∧ State.reset.tick = 0 ∧ State.reset.hbm = [] ∧
  (∀ e ∈ [(Reg.DEV_STAT_STATE, 0), (Reg.STEP_STAT_STATE, 0), (Reg.PLAN_STAT_STATE, 0), (Reg.PT_EPOCH_EPOCH, 0),
      (Reg.TB_SYNC_LOADED, 0), (Reg.TB_SYNC_LOCKED, 0), (Reg.REPLAY_MAX_MAX, 3), (Reg.CLK_KITE_FREQ_MHZ, 1500),
      (Reg.PWR_CAPS_PWR_CAP, 2400), (Reg.PWR_CAPS_PEAK_CAP, 2600), (Reg.GOV_CTL_GOV_EN, 1), (Reg.UFW_CTL_UFW_STREAK, 64),
      (Reg.UFW_CTL_UFW_THRESH, 4096), (Reg.MW_WORK_RETRAIN_PERIOD, 1024), (Reg.MEM_THRESH_ROW_CE_THRESH, 4),
      (Reg.MIG_CTL_MIG_CE_THRESH, 1000), (Reg.EC_CORE_CORE_EN, 1), (Reg.SC_CTL_WL_PART, 7), (Reg.CE_CTL_EVT_RETX, 100),
      (Reg.HD_CTL_LEAD_FAB, 2000), (Reg.HD_CTL_LEAD_CHIP, 64), (Reg.TR_CTL_CLASSES, 0xFF)],
    State.reset.rd e.1 = e.2 ∧ State.reset.rdSh e.1 = e.2) ∧
  (∀ (n : Slot), State.reset.rd Reg.SP_SPARE_SPARE_TOTAL n = 1312 ∧ State.reset.rd Reg.ARR_LAT_BRIDLE_ADD n = 0x54 ∧
    State.reset.rd Reg.KITE_FAULT_CODE n = 0 ∧ State.reset.rd Reg.ACC_SIZE_ACC_SIZE n = 0) ∧
  (∀ (k : StackNo) (p : Nat), p < 31 → State.reset.ppc k p = p ∧ State.reset.rdSh Reg.PC_MAP_PHYS k p = p) ∧
  (∀ (l : LineNo), State.reset.rd Reg.LINE_CFG_EN l = 1 ∧ State.reset.rd Reg.LINE_CFG_RETRY_MAX l = 8) ∧
  (∀ (k : PageKind) (n : Nat), (State.reset.hdr k n).mask = 0xFFFFFFFF ∧ (State.reset.hdr k n).pend = 0 ∧
    (State.reset.hdr k n).freeze = false)

/-- R62: A register write of ACC_BASE or ACC_SIZE of a kite control page that would make their sum exceed 2,048 (or
ACC_SIZE alone), the other field taken as it stands after the writes held for a commit (07 R241), leaves both fields
unchanged in the live and the shadow bank and raises WR_ILLEGAL, bit 0, of that page. -/
def Obligations.AccumulatorAreaStaysInside : Prop :=
  ∀ (s : State) (addr v : Word) (p : Page), reachPage s addr.toNat = some p → p.kind = .kiteCtl →
    p.inst < pageCount .kiteCtl →
    (addr.toNat % 0x1000 = 0x64 ∧ 2048 < getBits v.toNat 12 11 + s.rdNext Reg.ACC_SIZE_ACC_SIZE p.inst) ∨
      (addr.toNat % 0x1000 = 0x68 ∧ (2048 < s.rdNext Reg.ACC_BASE_ACC_BASE p.inst + getBits v.toNat 0 12 ∨
        2048 < getBits v.toNat 0 12)) →
    ∃ t, exec (.registerWrite addr v) s = .next t ∧ Pends t ⟨.kiteCtl, 0⟩ p.inst ∧
      t.rd Reg.ACC_BASE_ACC_BASE p.inst = s.rd Reg.ACC_BASE_ACC_BASE p.inst ∧
      t.rdSh Reg.ACC_BASE_ACC_BASE p.inst = s.rdSh Reg.ACC_BASE_ACC_BASE p.inst ∧
      t.rd Reg.ACC_SIZE_ACC_SIZE p.inst = s.rd Reg.ACC_SIZE_ACC_SIZE p.inst ∧
      t.rdSh Reg.ACC_SIZE_ACC_SIZE p.inst = s.rdSh Reg.ACC_SIZE_ACC_SIZE p.inst

/-- R138: After power-on, after a device reset and after power returns, both banks of every kite's codebook file read
0, and both banks of its scale file hold scale 0x3F800000 and bias 0 in every entry; the configuration stage, which
applies the user image, changes neither file. -/
def Obligations.KiteFilesAtReset : Prop :=
  (∀ (r : State), (r = State.reset ∨
      (∃ s : State, s.trust.resetAt.isSome = true ∧ exec .deviceReset s = .next r) ∨
      (∃ s : State, s.pwr.enabled = true ∧ s.pwr.rails = false ∧ exec .powerGood s = .next r)) →
    ∀ (n bank w : Nat), windowWord r n .codebook bank w = 0 ∧ windowWord r n .scale bank (2 * w) = 0x3F800000 ∧
      windowWord r n .scale bank (2 * w + 1) = 0) ∧
  (∀ s : State, ∃ t, exec .configStage s = .next t ∧ ∀ (n bank w : Nat),
    windowWord t n .codebook bank w = windowWord s n .codebook bank w ∧
    windowWord t n .scale bank w = windowWord s n .scale bank w)

/-- R202: For every address below 736 GiB: the stack is the exclusive-or of the nibbles of its granule number, the
granule within the stack divides into logical pseudo-channel and q, q lies below 777,976 (777,975 from pseudo-channel
23 on), page translation and the live PC_MAP give the physical pseudo-channel, and bank and row follow from q and the
offset; within an aligned block of 16 granules every stack comes exactly once; and every location in those bounds
decodes from exactly the address that encodeAddr gives. -/
def Obligations.AddressesDecode : Prop :=
  (∀ (s : State) (a : Nat), a < hbmTop →
    let g : BitVec 29 := BitVec.ofNat 29 (a / 2048)
    let l := decodeAddr a
    l.stack = (g.extractLsb' 0 4 ^^^ g.extractLsb' 4 4 ^^^ g.extractLsb' 8 4 ^^^ g.extractLsb' 12 4 ^^^
      g.extractLsb' 16 4 ^^^ g.extractLsb' 20 4 ^^^ g.extractLsb' 24 4 ^^^ (g.extractLsb' 28 1).setWidth 4).toNat ∧
    31 * l.q + l.lpc = (g >>> 4).toNat ∧ l.lpc < 31 ∧ l.q < (if l.lpc < 23 then 777976 else 777975) ∧
    2048 * g.toNat + l.o = a ∧ l.o < 2048 ∧ encodeAddr l = a ∧
    ∃ sid bg bank row : Nat,
      let q := translate (s.stack l.stack) l.lpc l.q
      s.rowId a = (s.rd Reg.PC_MAP_PHYS l.stack l.lpc * 48 + sid * 16 + bg * 4 + bank) * 32768 + row ∧
      sid = q % 24 / 8 ∧ bg = q % 24 % 8 / 4 + (if l.o < 1024 then 0 else 2) ∧ bank = q % 24 % 4 ∧ row = q / 24) ∧
  (∀ (b k : Nat), k < 16 → ∃ g, g / 16 = b ∧ stackOf g = k ∧ ∀ h, h / 16 = b → stackOf h = k → h = g) ∧
  (∀ l : Loc, l.stack < 16 → l.lpc < 31 → l.q < (if l.lpc < 23 then 777976 else 777975) → l.o < 2048 →
    encodeAddr l < hbmTop ∧ decodeAddr (encodeAddr l) = l)

/-- R178: A MAP, CONV, SCAN, REDUCE, RESCALE or RNG at the head of its kite with no elements, whose records can be
fetched, answers a next state in which every byte of memory, the scratchpad, the envelope records and the registered
streams are as before, the unit is free, the next op is at the head, no other kite has changed, and the gate it
signals has counted. -/
def Obligations.EmptyVectorOpsDoNothing : Prop :=
  ∀ (s : State) (k : Kite) (env : OpEnv) (x : Nat × Instr), x ∈ [(0, Instr.map k env), (1, Instr.conv k env),
      (2, Instr.scan k env), (3, Instr.reduce k env), (4, Instr.rescale k env), (5, Instr.rng k env)] →
    canVector s k x.1 env.together = true → (headVector s (s.slotOf k)).count = 0 → HeadReadable s (s.slotOf k) →
    let n := s.slotOf k
    ∃ t, exec x.2 s = .next t ∧ (∀ a, memByte t a = memByte s a) ∧ (t.kite n).sp = (s.kite n).sp ∧
      (t.kite n).acc = (s.kite n).acc ∧ (t.kite n).streams = (s.kite n).streams ∧ (t.kite n).vec = none ∧
      (t.kite n).nextOp = (s.kite n).nextOp + 1 ∧ (∀ m, m ≠ n → t.kite m = s.kite m) ∧
      ∀ g, signalOf (headRecord s n) = some g →
        (t.kite n).gates.getD g 0 = min 65535 ((s.kite n).gates.getD g 0 + 1)

/-- R367, R370, R371, R374, 07 R235, 11 R359: A NOP, OPEN, LOAD, START, STOP or COMMIT that is in its turn, with its
guard met, answers a next state in which its response with STATUS OK and the body given here is stored and the stream
has advanced; the response is sent, or waits while a verdict is due (11 R359); each clause says what else it leaves:
the stream and destination of OPEN, PLAN_STAT, the armed step tick, END_REQ up the seal tree, the device-local commit
64 ticks on. LOAD, START, STOP and COMMIT given by the register have the same effect without a response. -/
def Obligations.ControlCommandsComplete : Prop :=
  (∀ (s : State) (h : CmdHdr), inTurn s h = true →
    ∃ t, exec (.nop h) s = .next t ∧ Answered t h 0x00 0 [] ∧
      (verdictDue s = false → t.out = s.out ++ [.frame 1 (frameTo 1 h.src (responseBytes h 0x00 0 []))]) ∧
      (verdictDue s = true → t.out = s.out ∧
        t.host.egress = s.host.egress ++ [(1, frameTo 1 h.src (responseBytes h 0x00 0 []))])) ∧
  (∀ (s : State) (h : CmdHdr), admitsCmd s h = true →
    ∃ t, exec (.openStream h) s = .next t ∧ Answered t h 0x01 0 [] ∧ (t.stream h.stream).waiting = [] ∧
      (t.stream h.stream).answered.length = 1 ∧ (h.stream = 0 → t.host.dest = some h.src)) ∧
  (∀ (s : State) (h : CmdHdr), inTurn s h = true → s.rd Reg.DEV_STAT_STATE = 6 → s.rd Reg.STEP_STAT_STATE = 0 →
    ∃ t, exec (.planLoad (.frame h)) s = .next t ∧ Answered t h 0x21 0 [] ∧ t.rd Reg.PLAN_STAT_STATE = 1) ∧
  (∀ s : State, s.rd Reg.STEP_STAT_STATE = 0 →
    exec (.planLoad .register) s = .next (s.wr Reg.PLAN_STAT_STATE 1)) ∧
  (∀ (s : State) (h : CmdHdr) (tick : Tick), inTurn s h = true → s.rd Reg.DEV_STAT_STATE = 6 →
    s.rd Reg.PLAN_STAT_STATE = 2 → s.rd Reg.STEP_STAT_STATE = 0 → s.rd Reg.TB_SYNC_LOCKED = 1 → tick < 2 ^ 64 →
    s.tick + s.plan.stepLead ≤ tick →
    ∃ t, exec (.stepStart (.frame h) tick) s = .next t ∧ Answered t h 0x22 0 [] ∧
      t.step.armed = some (tick, s.plan.firstStep) ∧ t.rd Reg.STEP_STAT_STATE = 1) ∧
  (∀ (s : State) (tick : Tick), s.rd64 Reg.START_TICK_LO Reg.START_TICK_HI = tick → s.rd Reg.PLAN_STAT_STATE = 2 →
    s.rd Reg.STEP_STAT_STATE = 0 → s.rd Reg.TB_SYNC_LOCKED = 1 → s.tick + s.plan.stepLead ≤ tick →
    ∃ t, exec (.stepStart .register tick) s = .next t ∧ t.step.armed = some (tick, s.plan.firstStep) ∧
      t.rd Reg.STEP_STAT_STATE = 1) ∧
  (∀ (s : State) (h : CmdHdr), inTurn s h = true → s.rd Reg.DEV_STAT_STATE = 6 → s.rd Reg.STEP_STAT_STATE ≠ 0 →
    ∃ t, exec (.stepStop (.frame h)) s = .next t ∧ Answered t h 0x23 0 [] ∧
      t.fab = (s.sendUp (.endReq s.self)).fab) ∧
  (∀ s : State, s.rd Reg.STEP_STAT_STATE ≠ 0 → exec (.stepStop .register) s = .next (s.sendUp (.endReq s.self))) ∧
  (∀ (s : State) (h : CmdHdr), inTurn s h = true → s.rd Reg.DEV_STAT_STATE = 6 → s.rd Reg.STEP_STAT_STATE = 0 →
    ∃ t, exec (.commit (.frame h)) s = .next t ∧ t.step.commitAt = s.step.commitAt ++ [s.tick + 64] ∧
      Answered t h 0x24 0
        (leBytes 4 ((s.rd Reg.PT_EPOCH_EPOCH + s.step.commitAt.length + 1) % 2 ^ 32))) ∧
  (∀ s : State, s.rd Reg.STEP_STAT_STATE = 0 →
    exec (.commit .register) s =
      .next { s with step := { s.step with commitAt := s.step.commitAt ++ [s.tick + 64] } })

/-- R206, R207, R367 to R369: In turn, with the device READY and a legal range that no window or regulator holds back
and that can be read whole: MEM_READ answers the bytes as they stand and changes no byte; MEM_WRITE and PLAN_WRITE
store their bytes at their range and every byte outside it reads as before; PLAN_WRITE leaves PLAN_STAT.STATE EMPTY.
-/
def Obligations.HostMemoryCommandsComplete : Prop :=
  (∀ (s : State) (h : CmdHdr) (addr len : Nat), Readable s addr len → inTurn s h = true →
    s.rd Reg.DEV_STAT_STATE = 6 → hostRangeOk addr len = true → mustWait s (s.rd Reg.HOST_PART_PART) addr len = false →
    ∃ t, exec (.memRead h addr len) s = .next t ∧ Answered t h 0x10 0 (memBytes s addr len) ∧
      ∀ b, memByte t b = memByte s b) ∧
  (∀ (s : State) (h : CmdHdr) (addr : Nat) (data : Bytes), Readable s addr data.length → inTurn s h = true →
    s.rd Reg.DEV_STAT_STATE = 6 → hostRangeOk addr data.length = true →
    mustWait s (s.rd Reg.HOST_PART_PART) addr data.length = false →
    ∃ t, exec (.memWrite h addr data.length data) s = .next t ∧ Answered t h 0x11 0 [] ∧
      ∀ b, memByte t b = if addr ≤ b ∧ b < addr + data.length then data.getD (b - addr) 0 else memByte s b) ∧
  (∀ (s : State) (h : CmdHdr) (ofs : Nat) (data : Bytes), Readable s (planByte s ofs) data.length → inTurn s h = true →
    s.rd Reg.DEV_STAT_STATE = 6 → s.rd Reg.STEP_STAT_STATE = 0 → ofs % 4 = 0 → ofs + data.length ≤ 2 ^ 26 →
    mustWait s (s.rd Reg.HOST_PART_PART) (planByte s ofs) data.length = false →
    ∃ t, exec (.planWrite h ofs data.length data) s = .next t ∧ Answered t h 0x20 0 [] ∧
      t.rd Reg.PLAN_STAT_STATE = 0 ∧
      ∀ b, memByte t b = if planByte s ofs ≤ b ∧ b < planByte s ofs + data.length then
        data.getD (b - planByte s ofs) 0 else memByte s b)

/-- R206, R208: From a canonical state in which no sector stands in for bytes HBM has lost, a write through the spool
under any hint leaves every byte outside its range as it reads; where no transfer of the range is uncorrectable, no
merge fails and every byte inside reads as the data written. -/
def Obligations.SpoolWriteStoresItsRangeOnly : Prop :=
  ∀ (s : State) (addr : Nat) (data : Bytes) (hint b : Nat), Canon s → nothingKept s = true →
    (¬ (addr ≤ b ∧ b < addr + data.length) → memByte (memWrite s addr data hint).2 b = memByte s b) ∧
    ((∀ c, addr ≤ c → c < addr + data.length → faulty s c = false) →
      (memWrite s addr data hint).1 = [] ∧
      (addr ≤ b → b < addr + data.length → memByte (memWrite s addr data hint).2 b = data.getD (b - addr) 0))

/-- R206 to R208, R210: From a canonical state in which no sector stands in for bytes HBM has lost, a read through the
spool that is not under LAST leaves every byte of memory as it reads; where no transfer of the range is uncorrectable
it returns the bytes as they stand, and so does one under LAST, which leaves every byte outside the lines it touches
as it reads. -/
def Obligations.SpoolReadChangesNoByte : Prop :=
  (∀ (s : State) (addr len hint b : Nat), Canon s → nothingKept s = true → hint ≠ 3 →
    memByte (memRead s addr len hint).2.2 b = memByte s b ∧
    ((∀ c, addr ≤ c → c < addr + len → faulty s c = false) →
      (memRead s addr len hint).1 = memBytes s addr len ∧ (memRead s addr len hint).2.1 = [])) ∧
  (∀ (s : State) (addr len : Nat), Readable s addr len →
    (memRead s addr len 3).1 = memBytes s addr len ∧ (memRead s addr len 3).2.1 = [] ∧
      ∀ b, b / 128 < addr / 128 ∨ (addr + len) / 128 < b / 128 →
        memByte (memRead s addr len 3).2.2 b = memByte s b)

/-- R367, R375, R241: In turn, a REG_READ or REG_WRITE of 1 to 256 words answers STATUS OK with all words, or UNMAPPED
or (for a write) REFUSED with a smaller INDEX, with the epoch the rule gives; a COUNT outside 1 to 256 of a read
answers RANGE; one mapped word read answers the register's value, and one word written leaves every register field but
two counters of the host port as the register access leaves it. -/
def Obligations.RegisterCommandsComplete : Prop :=
  (∀ (s : State) (h : CmdHdr) (addr : Word) (count : Nat) (fixed : Bool), inTurn s h = true → 1 ≤ count →
    count ≤ 256 →
    ∃ (t : State) (st idx : Nat) (ws : List Nat), exec (.regRead h addr count fixed) s = .next t ∧
      Answered t h 0x02 st (leBytes 4 idx ++ leBytes 4 (s.rd Reg.PT_EPOCH_EPOCH) ++ ws.flatMap (leBytes 4)) ∧
      ws.length = idx ∧ (st = 0 ∧ idx = count ∨ st = 2 ∧ idx < count)) ∧
  (∀ (s : State) (h : CmdHdr) (addr : Word) (fixed : Bool) (r : Nat × State), inTurn s h = true →
    addr.toNat % 4 = 0 → readReg (heard s h) addr.toNat = some r →
    ∃ t, exec (.regRead h addr 1 fixed) s = .next t ∧
      Answered t h 0x02 0 (leBytes 4 1 ++ leBytes 4 (s.rd Reg.PT_EPOCH_EPOCH) ++ leBytes 4 r.1)) ∧
  (∀ (s : State) (h : CmdHdr) (addr : Word) (count : Nat) (fixed : Bool), inTurn s h = true →
    count = 0 ∨ 256 < count → count < 2 ^ 16 →
    ∃ t, exec (.regRead h addr count fixed) s = .next t ∧ Answered t h 0x02 4 []) ∧
  (∀ (s : State) (h : CmdHdr) (addr : Word) (fixed : Bool) (ws : List Word), inTurn s h = true → ws ≠ [] →
    ws.length ≤ 256 →
    ∃ t st idx, exec (.regWrite h addr ws.length fixed ws) s = .next t ∧
      Answered t h 0x03 st (leBytes 4 idx ++ leBytes 4 (joinedEpoch s)) ∧
      (st = 0 ∧ idx = ws.length ∨ (st = 2 ∨ st = 3) ∧ idx < ws.length)) ∧
  (∀ (s : State) (h : CmdHdr) (addr v : Word) (fixed : Bool) (r : Bool × State), inTurn s h = true →
    addr.toNat % 4 = 0 → writeReg (heard s h) addr.toNat v.toNat false = some r →
    ∃ t, exec (.regWrite h addr 1 fixed [v]) s = .next t ∧
      Answered t h 0x03 (if r.1 then 3 else 0)
        (leBytes 4 (if r.1 then 0 else 1) ++ leBytes 4 (joinedEpoch s)) ∧
      ∀ (f : Fld) (n i : Nat), f.valid n i = true → (∀ g ∈ [Reg.CE_EXP_X, Reg.TX_FRAMES_COUNT], ∀ m j,
        g.valid m j = true → f.key n i ≠ g.key m j) → t.rd f n i = r.2.rd f n i)

/-- R453, R454, R377: With a nonce of 16 to 64 bytes and a working random source, an ATTEST of the host in its turn is
answered STATUS OK with the report body and a signature of 64 bytes, and a peer's new TXN has a kept reply; ATT_COUNT
counts each. -/
def Obligations.AttestCompletes : Prop :=
  (∀ (s : State) (h : CmdHdr) (nonce : Bytes), inTurn s h = true → 16 ≤ nonce.length → nonce.length ≤ 64 →
    s.rd Reg.SEC_STAT_RNG_FAIL = 0 →
    ∃ t sig, exec (.attest (.host h) nonce.length nonce) s = .next t ∧
      Answered t h 0x30 0 (reportBody (heard s h) nonce ++ sig) ∧ sig.length = 64 ∧
      t.rd Reg.ATT_COUNT_COUNT = satAdd 32 (s.rd Reg.ATT_COUNT_COUNT) 1) ∧
  (∀ (s : State) (dev : Dev) (txn : BitVec 16) (nonce : Bytes), keptReply s dev txn.toNat = none →
    16 ≤ nonce.length → nonce.length ≤ 64 → s.rd Reg.SEC_STAT_RNG_FAIL = 0 →
    ∃ t, exec (.attest (.peer dev txn) nonce.length nonce) s = .next t ∧
      (keptReply t dev txn.toNat).isSome = true ∧ t.rd Reg.ATT_COUNT_COUNT = satAdd 32 (s.rd Reg.ATT_COUNT_COUNT) 1)

/-- R367, R368: From a canonical state, whatever becomes of a MEM_WRITE or PLAN_WRITE frame, a byte outside the range
it addresses reads as before. -/
def Obligations.HostWritesStayInTheirRange : Prop :=
  (∀ (s t : State) (h : CmdHdr) (addr len : Nat) (data : Bytes) (b : Nat), Canon s → nothingKept s = true →
    addr < 2 ^ 64 → len = data.length → len < 2 ^ 32 → exec (.memWrite h addr len data) s = .next t →
    ¬ (addr ≤ b ∧ b < addr + data.length) → memByte t b = memByte s b) ∧
  (∀ (s t : State) (h : CmdHdr) (ofs len : Nat) (data : Bytes) (b : Nat), Canon s → nothingKept s = true →
    ofs < 2 ^ 32 → len = data.length → len < 2 ^ 32 → exec (.planWrite h ofs len data) s = .next t →
    ¬ (planByte s ofs ≤ b ∧ b < planByte s ofs + data.length) → memByte t b = memByte s b)

/-- R366, R370, R371: A CONTROL_FRAME_RX that the port serves and that passes its filters completes: with a bad header
it counts in CE_BAD and raises its event; in its turn it executes, the stream advances, and its response is stored and
sent (unless a verdict is due); 1 to 31 ahead of its turn, or in its turn with an access that must wait, it is held;
with a stored response, within the last 32, the response is sent again and CE_DUPS counts; outside the window
CE_WINDOW counts and nothing is sent. -/
def Obligations.ControlFramesBySequence : Prop :=
  (∀ (s : State) (src : HostAddr) (bytes : Bytes), ctrlServed s = true → accepts s src (ctrlUdp s) = true →
    parseCtrl bytes = none →
    ∃ t, exec (.controlFrameRx src bytes) s = .next t ∧
      t.rd Reg.CE_BAD_COUNT = satAdd 32 (s.rd Reg.CE_BAD_COUNT) 1 ∧ Pends t Ev.cmdEngine_CE_BAD) ∧
  (∀ (s : State) (src : HostAddr) (bytes : Bytes) (c : CtrlCmd), ctrlServed s = true →
    accepts s src (ctrlUdp s) = true → parseCtrl bytes = some c → ¬ (c.opc = 1 ∧ c.body = []) → s.ahead c = 0 →
    Table.find c.seq (s.stream c.stream).waiting = none → hostWaits (s.bump Reg.RX_FRAMES_COUNT) c.opc c.body = false →
    ∃ t f, exec (.controlFrameRx src bytes) s = .next t ∧ t.expected c.stream = (c.seq + 1) % 2 ^ 32 ∧
      Table.find c.seq (t.stream c.stream).answered = some f ∧ f.src = src ∧
      (verdictDue t = false → t.out.getLast? = some (.frame 1 (frameTo 1 src f.bytes)))) ∧
  (∀ (s : State) (src : HostAddr) (bytes : Bytes) (c : CtrlCmd), ctrlServed s = true →
    accepts s src (ctrlUdp s) = true → parseCtrl bytes = some c → ¬ (c.opc = 1 ∧ c.body = []) →
    Table.find c.seq (s.stream c.stream).waiting = none →
    (1 ≤ s.ahead c ∧ s.ahead c ≤ 31) ∨ (s.ahead c = 0 ∧ hostWaits (s.bump Reg.RX_FRAMES_COUNT) c.opc c.body = true) →
    ∃ t, exec (.controlFrameRx src bytes) s = .next t ∧ t.expected c.stream = s.expected c.stream ∧
      t.out = s.out ∧ Table.find c.seq (t.stream c.stream).waiting = some { src := src, bytes := c.bytes }) ∧
  (∀ (s : State) (src : HostAddr) (bytes : Bytes) (c : CtrlCmd) (f : HeldFrame), ctrlServed s = true →
    accepts s src (ctrlUdp s) = true → parseCtrl bytes = some c → ¬ (c.opc = 1 ∧ c.body = []) →
    2 ^ 32 - 32 ≤ s.ahead c → Table.find c.seq (s.stream c.stream).answered = some f → verdictDue s = false →
    ∃ t, exec (.controlFrameRx src bytes) s = .next t ∧ t.out = s.out ++ [.frame 1 (frameTo 1 f.src f.bytes)] ∧
      t.expected c.stream = s.expected c.stream ∧
      t.rd Reg.CE_DUPS_COUNT = satAdd 32 (s.rd Reg.CE_DUPS_COUNT) 1) ∧
  (∀ (s : State) (src : HostAddr) (bytes : Bytes) (c : CtrlCmd), ctrlServed s = true →
    accepts s src (ctrlUdp s) = true → parseCtrl bytes = some c → ¬ (c.opc = 1 ∧ c.body = []) →
    31 < s.ahead c → s.ahead c < 2 ^ 32 - 32 →
    ∃ t, exec (.controlFrameRx src bytes) s = .next t ∧ t.expected c.stream = s.expected c.stream ∧
      t.out = s.out ∧ t.rd Reg.CE_WINDOW_COUNT = satAdd 32 (s.rd Reg.CE_WINDOW_COUNT) 1)

/-- R362 to R365, R370, R372, R373: Each of HELD_COMMAND_EXECUTE, EVENT_FRAME_SEND, EVENT_FRAME_RETX,
HOST_FRAME_DROPPED, PAUSE_RX, PTP_MESSAGE, HOST_LINK_UP and HOST_LINK_DOWN answers, where its guard holds, a next
state with the values its clauses list. How the IEEE 1588 slave computes its offset from its stamps is the model's
reading (log 20). -/
def Obligations.HostPortCommandsComplete : Prop :=
  (∀ (s : State) (i : Fin 4) (f : HeldFrame) (c : CtrlCmd), ctrlServed s = true → nextHeld s i = some f →
    parseCtrl f.bytes = some c → c.stream = i → hostWaits s c.opc c.body = false →
    ∃ t r, exec (.heldCommandExecute i) s = .next t ∧ t.expected i = (c.seq + 1) % 2 ^ 32 ∧
      Table.find c.seq (t.stream i).answered = some r ∧ r.src = f.src ∧
      (verdictDue t = false → t.out.getLast? = some (.frame 1 (frameTo 1 f.src r.bytes)))) ∧
  (∀ (s : State) (d : HostAddr), s.host.dest = some d → s.host.events ≠ [] → s.host.unacked.length < 64 →
    verdictDue s = false →
    ∃ t b, exec .eventFrameSend s = .next t ∧ t.host.events = s.host.events.drop 64 ∧
      Table.find (s.rd Reg.EVT_NEXT_SEQ) t.host.unacked = some b ∧ t.out = s.out ++ [.frame 1 (frameTo 1 d b)] ∧
      b.drop 16 = (s.host.events.take 64).flatMap eventBytes ∧
      t.rd Reg.EVT_NEXT_SEQ = (s.rd Reg.EVT_NEXT_SEQ + 1) % 2 ^ 32) ∧
  (∀ (s : State) (d : HostAddr) (num : Word) (b : Bytes), s.host.dest = some d →
    Table.find num.toNat s.host.unacked = some b → verdictDue s = false →
    ∃ t, exec (.eventFrameRetx num) s = .next t ∧ t.out = s.out ++ [.frame 1 (frameTo 1 d b)] ∧ t.host = s.host) ∧
  (∀ s : State, exec (.hostFrameDropped .badFcs) s = .next (s.bump Reg.RX_FCS_ERR_COUNT)) ∧
  (∀ (s : State) (f : RxFrame), (match f with
      | .vlan v => vlanPasses s v = false
      | g => g ≠ .badFcs) →
    exec (.hostFrameDropped f) s = .next (s.bump Reg.RX_FILTERED_COUNT)) ∧
  (∀ s : State, exec .pauseRx s = .next (s.bump Reg.PAUSE_RX_COUNT)) ∧
  (∀ (s : State) (seq rx : Nat), ∃ t, exec (.ptpMessage (.sync seq rx)) s = .next t ∧
    t.host.ptp.syncSeq = seq ∧ t.host.ptp.syncRx = rx ∧ t.host.ptp.origin = none ∧
    t.host.ptp.stamps = s.host.ptp.stamps + 1) ∧
  (∀ (s : State) (origin : Nat), ∃ t, exec (.ptpMessage (.followUp s.host.ptp.syncSeq origin)) s = .next t ∧
    t.host.ptp.origin = some origin) ∧
  (∀ (s : State) (seq tx : Nat), ∃ t, exec (.ptpMessage (.delayReqSent seq tx)) s = .next t ∧
    t.host.ptp.reqSeq = seq ∧ t.host.ptp.reqTx = some tx ∧ t.host.ptp.stamps = s.host.ptp.stamps + 1) ∧
  (∀ (s : State) (rx o tx : Nat), s.host.ptp.origin = some o → s.host.ptp.reqTx = some tx →
    ∃ t, exec (.ptpMessage (.delayResp s.host.ptp.reqSeq rx)) s = .next t ∧ t.host.ptp.reqTx = none ∧
      t.host.ptp.offset = (((s.host.ptp.syncRx : Int) - o) - ((rx : Int) - tx)) / 2) ∧
  (∀ (s : State) (m : PtpMsg), m = .announce ∨ m = .other →
    exec (.ptpMessage m) s = .next (s.bump Reg.RX_FRAMES_COUNT)) ∧
  (∀ (s : State) (preempt : Bool), 2 ≤ s.rd Reg.DEV_STAT_STATE → s.rd Reg.PORT_STAT_LINK = 0 →
    ∃ t, exec (.hostLinkUp preempt) s = .next t ∧ t.rd Reg.PORT_STAT_LINK = 1 ∧ t.rd Reg.PORT_STAT_FEC_LOCK = 1 ∧
      t.rd Reg.SC_STAT_PREEMPT = ofBool preempt ∧ Pends t Ev.mac_LINK_UP) ∧
  (∀ s : State, s.rd Reg.PORT_STAT_LINK = 1 →
    ∃ t, exec .hostLinkDown s = .next t ∧ t.rd Reg.PORT_STAT_LINK = 0 ∧ t.rd Reg.PORT_STAT_FEC_LOCK = 0 ∧
      Pends t Ev.mac_LINK_DOWN)

/-- R256 to R258, 16 R450: While PLAN_STAT.STATE is CHECKING and no window is open: an image that is read whole and
passes every check is LOADED, with REASON 0, its CRC, seed, first step and step count latched and PLAN_LOADED raised;
one that fails, or that cannot be read (with REASON HEADER at CRC, the model's own reading, log 95), is REJECTED with
its REASON and offset, the plan and the kites as before, and PLAN_REJECT raised. -/
def Obligations.PlanCheckCompletes : Prop :=
  ∀ s u : State, ∀ bs : Option Bytes, s.rd Reg.PLAN_STAT_STATE = 1 → s.mem.window = none →
    readFor s .host (planStart s) (max 256 (min planRoom (imageSize (planHeader s)))) 0 = (bs, u) →
    (bs.isSome = true → planFailure u = none →
      ∃ t, exec .planCheckDone s = .next t ∧ t.rd Reg.PLAN_STAT_STATE = 2 ∧ t.rd Reg.PLAN_STAT_REASON = 0 ∧
        t.rd Reg.PLAN_CRC_CRC = leAt (planImage u) 0x10 4 ∧ t.plan.seed = leAt (planImage u) 0x18 8 ∧
        t.plan.firstStep = leAt (planImage u) 0x20 8 ∧ t.plan.stepCount = leAt (planImage u) 0x28 4 ∧
        Pends t Ev.plan_PLAN_LOADED) ∧
    (∀ f : Failure, (bs.isSome = true ∧ planFailure u = some f) ∨ (bs = none ∧ f = (0x10, rjHeader)) →
      ∃ t, exec .planCheckDone s = .next t ∧ t.rd Reg.PLAN_STAT_STATE = 3 ∧
        t.rd Reg.PLAN_STAT_REASON = f.2 % 2 ^ Reg.PLAN_STAT_REASON.len ∧
        t.rd Reg.PLAN_REJ_OFS_OFFSET = f.1 % 2 ^ Reg.PLAN_REJ_OFS_OFFSET.len ∧ t.plan = s.plan ∧ t.kites = s.kites ∧
        Pends t Ev.plan_PLAN_REJECT)

/-- R233, R237, R241, R14: An armed step tick leaves the step's number and tick, the epoch raised by one, STATE RUN
and REPLAY_RUN 0; an armed replay tick leaves its tick, the same step, STATE RUN and REPLAY_RUN and REPLAYS counted; a
device-local commit raises the live epoch by one. -/
def Obligations.StepTicksComplete : Prop :=
  (∀ (s : State) (tk n : Nat), s.step.armed = some (tk, n) → tk < 2 ^ 64 → n < 2 ^ 64 → s.islandsRun = true →
    ∃ t, exec .stepTick s = .next t ∧ t.stepNum = n ∧ t.rd64 Reg.STEP_TICK_LO Reg.STEP_TICK_HI = tk ∧
      t.rd Reg.PT_EPOCH_EPOCH = (s.rd Reg.PT_EPOCH_EPOCH + 1) % 2 ^ 32 ∧ t.epoch = t.rd Reg.PT_EPOCH_EPOCH ∧
      t.rd Reg.STEP_STAT_STATE = 2 ∧ t.rd Reg.STEP_STAT_REPLAY_RUN = 0) ∧
  (∀ (s : State) (tk : Nat), s.step.replayAt = some tk → tk < 2 ^ 64 → s.islandsRun = true →
    s.rd Reg.STEP_STAT_STATE = 4 →
    ∃ t, exec .replayTick s = .next t ∧ t.rd64 Reg.STEP_TICK_LO Reg.STEP_TICK_HI = tk ∧ t.stepNum = s.stepNum ∧
      t.rd Reg.STEP_STAT_STATE = 2 ∧
      t.rd Reg.STEP_STAT_REPLAY_RUN = (s.rd Reg.STEP_STAT_REPLAY_RUN + 1) % 2 ^ Reg.STEP_STAT_REPLAY_RUN.len ∧
      t.rd Reg.REPLAYS_COUNT = satAdd 32 (s.rd Reg.REPLAYS_COUNT) 1) ∧
  (∀ (s : State) (tk : Nat) (rest : List Nat), s.step.commitAt = tk :: rest → s.islandsRun = true →
    ∃ t, exec .commitTick s = .next t ∧ t.rd Reg.PT_EPOCH_EPOCH = (s.rd Reg.PT_EPOCH_EPOCH + 1) % 2 ^ 32)

/-- R234 to R237, R154: A device whose units and governor are done sends READY with its digest up the seal tree and
shows STATE READY, one whose governor alone is not done notes the tick and raises GOV_LATE; the root counts READYs,
sends SEAL down the tree when the group is complete with equal digests and ABORT when they differ; END_REQ is noted;
STOP makes the root abort, or halt when the replays are used up; REPLAY_READY is sent, counted and answered with
REPLAY when the group is complete; REPLAY arms the replay tick; a device between root and leaf passes READY, END_REQ,
STOP and REPLAY_READY up. -/
def Obligations.StepMessagesComplete : Prop :=
  (∀ s : State, s.islandsRun = true → s.rd Reg.STEP_STAT_STATE = 2 → s.step.isSealed = false → unitsDone s = true →
    (governorDone s = true → ∃ t, exec .deviceReady s = .next t ∧ t.rd Reg.STEP_STAT_STATE = 3 ∧
      t.step.readySent = true ∧ Sends s t 1 s.sealParent (.ready s.self s.stepNum (s.rd Reg.STEP_STAT_REPLAY_RUN)
        (BitVec.ofNat 32 (s.rd Reg.GOV_DIGEST_DIGEST)))) ∧
    (governorDone s = false → s.gov.lateSince = none → ∃ t, exec .deviceReady s = .next t ∧
      t.rd Reg.STEP_STAT_STATE = 2 ∧ t.gov.lateSince = some s.tick ∧ Pends t Ev.governor_GOV_LATE)) ∧
  (∀ (s : State) (src : Dev) (digest : Word), isRoot s = true → s.islandsRun = true → s.inStep = true →
    s.step.rootDone = false → s.plan.devices.contains src.val = true →
    let l := s.step.rootReady.filter (fun e => e.1 != src.val) ++ [(src.val, digest.toNat)]
    let u := { s with step := { s.step with rootReady := l } }
    (groupIn u (l.map Prod.fst) = false → exec (.ready src s.stepNum (s.rd Reg.STEP_STAT_REPLAY_RUN) digest) s =
      .next u) ∧
    (groupIn u (l.map Prod.fst) = true → digestsDiffer u = false → ∃ t,
      exec (.ready src s.stepNum (s.rd Reg.STEP_STAT_REPLAY_RUN) digest) s = .next t ∧ t.step.rootDone = true ∧
        t.step.diverged = 0 ∧ ∀ d ∈ s.self :: s.sealChildren,
          Sends s t 1 d (.sealed s.stepNum s.tick (s.step.endReq || lastStep s s.stepNum))) ∧
    (groupIn u (l.map Prod.fst) = true → digestsDiffer u = true → s.step.diverged = 0 →
      s.rd Reg.STEP_STAT_REPLAY_RUN < s.rd Reg.REPLAY_MAX_MAX → ∃ t,
      exec (.ready src s.stepNum (s.rd Reg.STEP_STAT_REPLAY_RUN) digest) s = .next t ∧ t.step.rootDone = true ∧
        t.step.diverged = 1 ∧ ∀ d ∈ s.self :: s.sealChildren, Sends s t 1 d (.abort s.stepNum true))) ∧
  (∀ (s : State) (src : Dev), isRoot s = true → s.islandsRun = true →
    ∃ t, exec (.endReq src) s = .next t ∧ t.step.endReq = true) ∧
  (∀ (s : State) (src : Dev), isRoot s = true → s.islandsRun = true → s.inStep = true → s.step.rootDone = false →
    (s.rd Reg.STEP_STAT_REPLAY_RUN < s.rd Reg.REPLAY_MAX_MAX → ∃ t, exec (.stop src s.stepNum) s = .next t ∧
      t.step.rootDone = true ∧ ∀ d ∈ s.self :: s.sealChildren, Sends s t 1 d (.abort s.stepNum false)) ∧
    (s.rd Reg.REPLAY_MAX_MAX ≤ s.rd Reg.STEP_STAT_REPLAY_RUN → s.rd Reg.HD_STAT_STATE = 0 → ∃ t,
      exec (.stop src s.stepNum) s = .next t ∧ t.step.rootDone = true ∧ t.rd Reg.HD_STAT_STATE = 1)) ∧
  (∀ (s : State) (src : Dev), s.islandsRun = true → s.planRuns = true → src.val = s.self → restoresDone s = true →
    s.self ≠ s.sealRoot →
    ∃ t, exec (.replayReady src s.stepNum) s = .next t ∧ t.step.restored = true ∧
      Sends s t 1 s.sealParent (.replayReady s.self s.stepNum)) ∧
  (∀ (s : State) (src : Dev), s.islandsRun = true → isRoot s = true → s.plan.devices.contains src.val = true →
    src.val ≠ s.self → s.step.replaySent = false →
    let l := s.step.rootReplay.filter (· != src.val) ++ [src.val]
    ∃ t, exec (.replayReady src s.stepNum) s = .next t ∧ t.step.rootReplay = l ∧ t.step.replaySent = groupIn s l ∧
      (groupIn s l = true → ∀ d ∈ s.self :: s.sealChildren,
        Sends s t 1 d (.replay s.stepNum (s.tick + s.plan.stepLead)))) ∧
  (∀ (s : State) (tr : Nat), s.islandsRun = true → s.rd Reg.STEP_STAT_STATE = 4 →
    ∃ t, exec (.replay s.stepNum tr) s = .next t ∧ t.step.replayAt = some tr) ∧
  (∀ (s : State) (src : Dev) (n a : Nat) (digest : Word), s.planRuns = true → s.self ≠ s.sealRoot →
    (∃ t, exec (.ready src n a digest) s = .next t ∧ Sends s t 1 s.sealParent (.ready src n a digest)) ∧
    (∃ t, exec (.endReq src) s = .next t ∧ Sends s t 1 s.sealParent (.endReq src)) ∧
    (∃ t, exec (.stop src n) s = .next t ∧ Sends s t 1 s.sealParent (.stop src n)) ∧
    (src.val ≠ s.self → ∃ t, exec (.replayReady src n) s = .next t ∧ Sends s t 1 s.sealParent (.replayReady src n)))

/-- R235 to R239, R413: A SEAL of the running step is latched with its tick and counted, and the next step is armed
unless it was the last; an ABORT leaves STEP_STAT ABORTED or HALTED with no replay armed; a device between root and
leaf passes SEAL, ABORT and REPLAY down the tree; the step limit trips the haul-down; HANDOVER sets COVERING at the
partner and counts, and makes the root abort the step and note the partner. -/
def Obligations.StepEndsComplete : Prop :=
  (∀ (s : State) (tseal : Nat) (final : Bool), s.islandsRun = true → s.inStep = true → s.step.isSealed = false →
    tseal < 2 ^ 64 →
    ∃ t, exec (.sealReceived s.stepNum tseal final) s = .next t ∧
      t.rd64 Reg.SEAL_TICK_LO Reg.SEAL_TICK_HI = tseal ∧
      t.rd Reg.SEALS_COUNT = satAdd 32 (s.rd Reg.SEALS_COUNT) 1 ∧
      (final = false → lastStep s s.stepNum = false →
        (t.step.armed.map Prod.snd) = some (s.stepNum + 1))) ∧
  (∀ (s : State) (diverged : Bool), s.islandsRun = true → s.inStep = true → s.step.isSealed = false →
    s.step.closing = false →
    ∃ t, exec (.abortReceived s.stepNum diverged) s = .next t ∧
      (t.rd Reg.STEP_STAT_STATE = 4 ∨ t.rd Reg.STEP_STAT_STATE = 5) ∧ t.step.replayAt = none ∧
      t.step.restored = false) ∧
  (∀ (s : State) (n : Nat) (tick : Nat) (b : Bool), s.planRuns = true → s.self ≠ s.sealRoot → s.inStep = false →
    (∃ t, exec (.sealReceived n tick b) s = .next t ∧ ∀ d ∈ s.sealChildren, Sends s t 1 d (.sealed n tick b)) ∧
    (∃ t, exec (.abortReceived n b) s = .next t ∧ ∀ d ∈ s.sealChildren, Sends s t 1 d (.abort n b)) ∧
    (∃ t, exec (.replay n tick) s = .next t ∧ ∀ d ∈ s.sealChildren, Sends s t 1 d (.replay n tick))) ∧
  (∀ s : State, isRoot s = true → s.islandsRun = true → s.plan.stepLimit ≠ 0 → s.step.isSealed = false →
    s.inStep = true ∨ s.rd Reg.STEP_STAT_STATE = 4 → s.rd Reg.HD_STAT_STATE = 0 →
    ∃ t, exec .stepTimeout s = .next t ∧ t.rd Reg.HD_STAT_STATE = 1) ∧
  (∀ (s : State) (src partner : Dev), s.islandsRun = true → isRoot s = false → s.partner = some src.val →
    partner.val = s.self →
    ∃ t, exec (.handover src s.stepNum partner) s = .next t ∧ t.rd Reg.RECOV_STAT_COVERING = 1 ∧
      t.rd Reg.HANDOVERS_COUNT = satAdd 32 (s.rd Reg.HANDOVERS_COUNT) 1) ∧
  (∀ (s : State) (src partner : Dev), s.islandsRun = true → isRoot s = true → s.partner ≠ some src.val →
    s.inStep = true → s.step.rootDone = false → s.rd Reg.STEP_STAT_REPLAY_RUN < s.rd Reg.REPLAY_MAX_MAX →
    ∃ t, exec (.handover src s.stepNum partner) s = .next t ∧ t.step.rootDone = true ∧
      t.step.handed = s.step.handed.filter (fun e => e.1 != src.val) ++ [(src.val, partner.val)] ∧
      ∀ d ∈ s.self :: s.sealChildren, Sends s t 1 d (.abort s.stepNum false))

/-- R349, R350, R355, R356, R358, R359: A request parsed 220 ticks after its last bit that R349 admits joins its
slot's pending batch, or opens one, when its verdict can leave within 560 ticks; one that it does not admit gets its
status verdict in the calendar and changes no batch; a batch starts on its kites, ends with every verdict of its
requests filled and counted, and the first filled verdict leaves and is removed. -/
def Obligations.ScoringRequestsComplete : Prop :=
  (∀ (s : State) (src : HostAddr) (bs : Bytes) (rx : Nat), accepts s src (scUdp s) = true → 16 ≤ bs.length → leAt bs 0 1 = 0x11 →
    let u := (s.bump Reg.RX_FRAMES_COUNT).passTo (rx + 220)
    let m := leAt bs 1 1 % 16
    let w := u.bump Reg.SC_REQS_COUNT
    calFull u src = false → u.islandsRun = true →
    (requestStatus w m (leAt bs 2 2) (leAt bs 1 1 / 16) bs.length = none →
      (∀ b, pendingBatch w m w.tick = some b → b.reqs.length < batchRows b.words →
        calFree (verdictLen src) w.sc.calendar b.fin - w.tick ≤ 560 →
        ∃ t q, exec (.scoringRequest src bs rx) s = .next t ∧ { b with reqs := b.reqs ++ [q] } ∈ t.sc.batches ∧
          q.flow = leAt bs 4 8 ∧ q.ctag = leAt bs 12 4 ∧ q.v = calFree (verdictLen src) w.sc.calendar b.fin) ∧
      (pendingBatch w m w.tick = none →
        calFree (verdictLen src) w.sc.calendar (openBatch w m).fin - w.tick ≤ 560 →
        ∃ t q, exec (.scoringRequest src bs rx) s = .next t ∧
          t.sc.batches = w.sc.batches ++ [{ openBatch w m with reqs := [q] }] ∧ q.flow = leAt bs 4 8 ∧
          q.ctag = leAt bs 12 4 ∧ q.v = calFree (verdictLen src) w.sc.calendar (openBatch w m).fin)) ∧
    (∀ st, requestStatus w m (leAt bs 2 2) (leAt bs 1 1 / 16) bs.length = some st →
      ∃ t x, exec (.scoringRequest src bs rx) s = .next t ∧ x ∈ t.sc.calendar ∧
        x.v = calFree (verdictLen src) w.sc.calendar w.tick ∧ t.sc.batches = s.sc.batches ∧
        x.body = some (verdictBytes st m (statusVersion w st m) (leAt bs 4 8) (leAt bs 12 4) rx []))) ∧
  (∀ (s : State) (m : ScSlot) (b : Batch), s.islandsRun = true → nextBatch s m = some b → batchFree s b = true →
    ∃ t, exec (.batchStart m) s = .next t ∧ (s.pwr.rails = true → b.start ≤ t.tick) ∧
      t.sc.batches = s.sc.batches.map (fun x => if x = b then { b with running := true } else x) ∧
      ∀ n, n < 136 → n ∈ batchSlots s b → t.rd Reg.KITE_STATE_STATE n = 2) ∧
  (∀ (s : State) (m : ScSlot) (b : Batch), s.islandsRun = true → runningBatch s m = some b →
    modelEscape b.words (batchKites (s.passTo b.fin) b) = none →
    ∃ t, exec (.batchEnd m { ceRows := [], ue := none }) s = .next t ∧ t.sc.batches = s.sc.batches.erase b ∧
      (∀ q ∈ b.reqs, ∀ x ∈ t.sc.calendar, x.v = q.v → x.body.isSome = true) ∧
      t.rd Reg.SC_OK_COUNT = b.reqs.foldl (fun c _ => satAdd 32 c 1) (s.rd Reg.SC_OK_COUNT)) ∧
  (∀ (s : State) (x : Verdict), s.sc.calendar.find? (fun y => y.body.isSome) = some x →
    ∃ t, exec .verdictSend s = .next t ∧ 
      .frame 0 (frameTo 0 x.src (x.body.getD [])) ∈ t.out.drop s.out.length ∧
      t.sc.calendar = s.sc.calendar.erase x ∧ (s.pwr.rails = true → x.v ≤ t.tick))

/-- R351 to R353: VALIDATE sets V_BUSY; VALIDATED clears it with its result in SC_VRES, SHADOW_OK where the result is
0 and its event raised; a legal weight load of LEN 0 changes nothing, any other sets WL_BUSY, and WL_DONE, in a cycle
in which no batch runs on its kite, leaves the bytes of the range in the scratchpad and clears it; SC_DWIN reads the
selected word, writes what it may hold of it (WR_ILLEGAL for the rest) and moves the index. -/
def Obligations.ScoringSetupCompletes : Prop :=
  (∀ (s : State) (m : ScSlot), s.rd Reg.SC_STAT_V_BUSY = 0 →
    ∃ t, exec (.validate m) s = .next t ∧ t.rd Reg.SC_STAT_V_BUSY = 1 ∧ t.sc.validating = some m.val) ∧
  (∀ (s : State) (m : Nat), s.sc.validating = some m → m < 16 →
    let r := scCheck (scShadow s m) (s.rdSh Reg.SC_PART_KMASK)
      (shadowKites s (s.rdSh Reg.SC_PART_TRAIN) (scKset (scShadow s m)))
    ∃ t, exec .validated s = .next t ∧ t.rd Reg.SC_STAT_V_BUSY = 0 ∧ t.sc.validating = none ∧
      t.rd Reg.SC_VRES_OK = ofBool (r.1 == 0) ∧ t.rd Reg.SC_VRES_SLOT = m ∧
      (r.1 = 0 → t.rd Reg.SC_SLOT_SHADOW_OK 0 m = 1) ∧
      (r.1 ≠ 0 → t.rd Reg.SC_SLOT_SHADOW_OK 0 m = s.rd Reg.SC_SLOT_SHADOW_OK 0 m) ∧ Pends t Ev.scoring_VALIDATED) ∧
  (∀ s : State, loadRefused s = false →
    (s.rd Reg.SC_WL_LEN_LEN = 0 → exec .weightLoad s = .next s) ∧
    (s.rd Reg.SC_WL_LEN_LEN ≠ 0 → ∃ t, exec .weightLoad s = .next t ∧ t.rd Reg.SC_STAT_WL_BUSY = 1 ∧
      t.sc.load = some (loadSet s))) ∧
  (∀ (s : State) (w : WeightLoad), canLoadWeights s = true → s.sc.load = some w → Readable s w.src w.len →
    ∃ t, exec .wlDone s = .next t ∧ t.rd Reg.SC_STAT_WL_BUSY = 0 ∧ t.sc.load = none ∧ Pends t Ev.scoring_WL_DONE ∧
      spBytes (t.kite (s.slotOf (16 * s.rd Reg.SC_PART_TRAIN + w.kite))) w.dst w.len = memBytes s w.src w.len ∧
      ∀ b, memByte t b = memByte s b) ∧
  (∀ s : State, let key := scKey (s.rd Reg.SC_DSEL_SLOT) (s.rd Reg.SC_DSEL_WORD)
    ∃ t, exec (.scDwin .read) s = .next t ∧ t.out = s.out ++
      [.word (if s.rd Reg.SC_DSEL_BANK = 1 then s.shadowWord key else s.liveWord key)] ∧
      t.rd Reg.SC_DSEL_WORD = (if s.rd Reg.SC_DSEL_AUTO_INC = 1 then (s.rd Reg.SC_DSEL_WORD + 1) % 52
        else s.rd Reg.SC_DSEL_WORD)) ∧
  (∀ (s : State) (v : Word), s.nearCommit = false →
    let key := scKey (s.rd Reg.SC_DSEL_SLOT) (s.rd Reg.SC_DSEL_WORD)
    let x := dwinStored (s.rd Reg.SC_DSEL_WORD) (s.nextWord key) v.toNat
    ∃ t, exec (.scDwin (.write v)) s = .next t ∧
      t.shadowWord key = x ∧ (x ≠ v.toNat → Pends t ⟨.scoring, 0⟩) ∧
      t.rd Reg.SC_DSEL_WORD = (if s.rd Reg.SC_DSEL_AUTO_INC = 1 then (s.rd Reg.SC_DSEL_WORD + 1) % 52
        else s.rd Reg.SC_DSEL_WORD))

/-- R29 to R31, R54, R55, R470: An array op at the head of its kite with N = 0 is passed over; otherwise, with no
fault at its start, it becomes the next tile with its operands' base, read from the weight stream table where W_SRC
asks; its load fills the tile's rows, scales and tables; the swap makes it live; and streaming a live tile without
faults marks it streamed and leaves its op to complete. -/
def Obligations.ArrayCommandsComplete : Prop :=
  (∀ (s : State) (k : Kite) (w : Bool), canStartArray s k w = true → HeadReadable s (s.slotOf k) →
    let n := s.slotOf k
    let o := headArray s n
    (o.n = 0 → ∃ t, exec (.arrayOp k (.start w)) s = .next t ∧ (t.kite n).nextOp = (s.kite n).nextOp + 1 ∧
      (t.kite n).tileNext = (s.kite n).tileNext) ∧
    (o.n ≠ 0 → arrayStartFaults s n o = [] → o.wSrc = 1 → ∃ t x, exec (.arrayOp k (.start w)) s = .next t ∧
      (t.kite n).nextOp = (s.kite n).nextOp + 1 ∧ (t.kite n).tileNext = some x ∧ x.op = o ∧ x.base = o.wAddr ∧
      x.loaded = false) ∧
    (o.n ≠ 0 → arrayStartFaults s n o = [] → o.wSrc ≠ 1 → Readable s (wsEntryAddr s o.wAddr) 8 →
      ∃ t x, exec (.arrayOp k (.start w)) s = .next t ∧ (t.kite n).nextOp = (s.kite n).nextOp + 1 ∧
        (t.kite n).tileNext = some x ∧ x.op = o ∧ x.base = leAt (memBytes s (wsEntryAddr s o.wAddr) 8) 0 5 ∧
        x.hint = leAt (memBytes s (wsEntryAddr s o.wAddr) 8) 5 1 % 4)) ∧
  (∀ (s : State) (k : Kite) (env : OpEnv) (x : Tile) (b : Nat), canLoad s (s.slotOf k) env.together = true →
    (s.kite (s.slotOf k)).tileNext = some x → resolveBridle s (s.slotOf k) x.op = some b → env.ue = none →
    let y := loadTile s (s.slotOf k) x b
    (x.op.mLoad = 0 ∨ operandEnd x.op (stationaryFmt y.mode y.fmt x.op) y.blk ≤ spTop) →
    ∃ t z, exec (.stationaryLoad k env) s = .next t ∧ (t.kite (s.slotOf k)).tileNext = some z ∧ z.loaded = true ∧
      z.rows = y.rows ∧ z.scales = y.scales ∧ z.books = y.books ∧ z.bridle = b ∧ z.epoch = s.epoch ∧
      (s.slotOf k < 136 → t.rd Reg.ARR_STATUS_SHADOW_STATE (s.slotOf k) = 3)) ∧
  (∀ (s : State) (k : Kite) (x : Tile), canSwap s (s.slotOf k) = true → (s.kite (s.slotOf k)).tileNext = some x →
    ∃ t, exec (.tileSwap k) s = .next t ∧ (t.kite (s.slotOf k)).tileLive = some x ∧
      (t.kite (s.slotOf k)).tileNext = none ∧ (s.slotOf k < 136 →
        t.rd Reg.ARR_STATUS_LIVE_VALID (s.slotOf k) = 1 ∧ t.rd Reg.ARR_STATUS_SHADOW_STATE (s.slotOf k) = 0)) ∧
  (∀ (s : State) (k : Kite) (env : OpEnv) (x : Tile), canStream s (s.slotOf k) env.together = true →
    (s.kite (s.slotOf k)).tileLive = some x →
    let len := streamLength s (s.slotOf k) x
    streamFaults s (s.slotOf k) x len = [] → env.ue = none →
    (streamColumns s (s.slotOf k) x (streamBytes s (s.slotOf k) x len) len).esc = none →
    (x.op.wSrc = 1 ∨ Readable s x.base len) →
    ∃ t y r, exec (.arrayOp k (.stream env)) s = .next t ∧ (t.kite (s.slotOf k)).tileLive = some y ∧
      y.streamed = true ∧ y.op = x.op ∧ (t.kite (s.slotOf k)).arr = (s.kite (s.slotOf k)).arr ++ [r] ∧
      r.idx = x.run.idx ∧ r.sig = x.run.sig)

/-- R175 to R197: A vector op at the head of its kite: with no elements it is passed over; with no fault at its start
and no scratchpad error, an RNG or an op with NAN_PASS runs, with BUSY and VOP shown; any other runs too, or has ended
in its NaN trap with KITE_STATE STOPPED and NAN_TRAP_INFO valid. -/
def Obligations.VectorCommandsComplete : Prop :=
  ∀ (s : State) (k : Kite) (env : OpEnv) (x : Nat × Instr), x ∈ [(0, Instr.map k env), (1, Instr.conv k env),
      (2, Instr.scan k env), (3, Instr.reduce k env), (4, Instr.rescale k env), (5, Instr.rng k env)] →
    canVector s k x.1 env.together = true → HeadReadable s (s.slotOf k) →
    let n := s.slotOf k
    let o := headVector s n
    (o.count = 0 → ∃ t, exec x.2 s = .next t ∧ (t.kite n).nextOp = (s.kite n).nextOp + 1 ∧ (t.kite n).vec = none ∧
      (n < 136 → t.rd Reg.VEC_STATUS_BUSY n = 0)) ∧
    (o.count ≠ 0 → vecStartFaults s n o = [] → env.ue = none → x.1 = 5 ∨ o.nanPass = true →
      ∃ t r, exec x.2 s = .next t ∧ (t.kite n).nextOp = (s.kite n).nextOp + 1 ∧ (t.kite n).vec = some r ∧
        r.idx = (s.kite n).nextOp ∧ r.sig = signalOf (headRecord s n) ∧
        (n < 136 → t.rd Reg.VEC_STATUS_BUSY n = 1 ∧ t.rd Reg.VEC_STATUS_VOP n = x.1)) ∧
    (o.count ≠ 0 → vecStartFaults s n o = [] → env.ue = none → n < 136 →
      ∃ t, exec x.2 s = .next t ∧ (t.kite n).nextOp = (s.kite n).nextOp + 1 ∧
        ((∃ r, (t.kite n).vec = some r ∧ r.idx = (s.kite n).nextOp) ∨
          (t.rd Reg.KITE_STATE_STATE n = 4 ∧ t.rd Reg.NAN_TRAP_INFO_VALID n = 1)))

/-- R136, R137, R248, R254, R473: A MOVE at the head, whose records and range can be read, copies its bytes to HBM,
every other byte as before, or from HBM to the scratchpad, memory as before (but for LAST); CBF_LOAD waits while a
background copy of the kite runs and otherwise writes its records into the shadow bank; OP_INVALID faults the kite
with code 10 and its OP_INDEX where no fault stands; SYNC of each sequencer advances it by one record, and a kite's
signals its gate. -/
def Obligations.KiteOpsComplete : Prop :=
  (∀ (s : State) (k : Kite) (env : OpEnv), canMove s k env.together = true → HeadReadable s (s.slotOf k) → env.ue = none →
    let n := s.slotOf k
    let m := headMove s n
    m.len ≠ 0 → moveOutside m = false → Readable s m.hbmAddr m.len →
    (m.toHbm = true → ∃ t r, exec (.move k env) s = .next t ∧ (t.kite n).port = some r ∧
      r.idx = (s.kite n).nextOp ∧ ∀ b, memByte t b =
        if m.hbmAddr ≤ b ∧ b < m.hbmAddr + m.len then
          (spBytes (s.kite n) m.spAddr m.len).getD (b - m.hbmAddr) 0 else memByte s b) ∧
    (m.toHbm = false → ∃ t r, exec (.move k env) s = .next t ∧ (t.kite n).port = some r ∧
      r.idx = (s.kite n).nextOp ∧ spBytes (t.kite n) m.spAddr m.len = memBytes s m.hbmAddr m.len ∧
      (m.hint ≠ 3 → ∀ b, memByte t b = memByte s b))) ∧
  (∀ (s : State) (k : Kite) (env : OpEnv), cbfDue s k env.together = true → env.ue = none →
    let n := s.slotOf k
    let f := headCbf s n
    let len := 4 * recordWords f.file * f.count
    (copyRuns s n = true → ∃ t, exec (.cbfLoad k env) s = .next t ∧ (t.kite n).cbfSince.isSome = true) ∧
    (copyRuns s n = false → HeadReadable s n → f.count ≠ 0 → f.index + f.count ≤ fileRecords f.file →
      f.src + len ≤ spTop →
      ∃ t r, exec (.cbfLoad k env) s = .next t ∧ (t.kite n).loader = some r ∧ r.idx = (s.kite n).nextOp ∧
        ∀ w, w < recordWords f.file * f.count →
          fileWord f.file ((t.kite n).file f.file).shadow (recordWords f.file * f.index + w) =
            leAt (spBytes (s.kite n) f.src len) (4 * w) 4)) ∧
  (∀ (s : State) (k : Kite) (w : Bool), canInvalid s k w = true → HeadReadable s (s.slotOf k) → s.slotOf k < 136 →
    ∃ t, exec (.opInvalid k w) s = .next t ∧ t.rd Reg.KITE_STATE_STATE (s.slotOf k) = 4 ∧
      (s.rd Reg.KITE_FAULT_CODE (s.slotOf k) = 0 → t.rd Reg.KITE_FAULT_CODE (s.slotOf k) = 10 ∧
        t.rd Reg.KITE_FAULT_OP_INDEX (s.slotOf k) =
          (s.kite (s.slotOf k)).nextOp % 2 ^ Reg.KITE_FAULT_OP_INDEX.len)) ∧
  (∀ (s : State) (k : Kite), canSync s k = true → HeadReadable s (s.slotOf k) →
    ∃ t, exec (.sync (.kite k)) s = .next t ∧ (t.kite (s.slotOf k)).nextOp = (s.kite (s.slotOf k)).nextOp + 1 ∧
      (t.kite (s.slotOf k)).nextRec = (s.kite (s.slotOf k)).nextRec + 1 ∧
      ∀ g, signalOf (headRecord s (s.slotOf k)) = some g →
        (t.kite (s.slotOf k)).gates.getD g 0 = min 65535 ((s.kite (s.slotOf k)).gates.getD g 0 + 1)) ∧
  (∀ (s : State) (tr : Train), syncDue s tr 0 = true → NextReadable s tr 0 →
    ∃ t, exec (.sync (.memory tr)) s = .next t ∧ (t.seqOf tr 0).next = (s.seqOf tr 0).next + 1) ∧
  (∀ (s : State) (tr : Train), syncDue s tr 1 = true → winchRuns s tr = true → NextReadable s tr 1 →
    ∃ t, exec (.sync (.winch tr)) s = .next t ∧ (t.seqOf tr 1).next = (s.seqOf tr 1).next + 1) ∧
  (∀ (s : State) (tr : Train), burnSyncDue s tr = true → NextReadable s tr 2 →
    ∃ t, exec (.sync (.burner tr)) s = .next t ∧ (t.seqOf tr 2).next = (s.seqOf tr 2).next + 1)

/-- R248: A running op of the array, vector engine, port, loader or memory program completes: it leaves its unit, and
the gate it names counts by one up to 65,535. -/
def Obligations.OpCompleteCompletes : Prop :=
  (∀ (s : State) (k : Kite) (r : OpRun) (rest : List OpRun), s.islandsRun = true → s.inStep = true →
    opRuns s (s.slotOf k) r.idx false = true → (s.kite (s.slotOf k)).arr = r :: rest →
    ∃ t, exec (.opComplete (.array k)) s = .next t ∧ (t.kite (s.slotOf k)).arr = rest ∧
      ∀ g, r.sig = some g →
        (t.kite (s.slotOf k)).gates.getD g 0 = min 65535 ((s.kite (s.slotOf k)).gates.getD g 0 + 1)) ∧
  (∀ (s : State) (k : Kite) (r : OpRun), s.islandsRun = true → s.inStep = true →
    opRuns s (s.slotOf k) r.idx false = true → (s.kite (s.slotOf k)).vec = some r →
    ∃ t, exec (.opComplete (.vector k)) s = .next t ∧ (t.kite (s.slotOf k)).vec = none ∧
      ∀ g, r.sig = some g →
        (t.kite (s.slotOf k)).gates.getD g 0 = min 65535 ((s.kite (s.slotOf k)).gates.getD g 0 + 1)) ∧
  (∀ (s : State) (k : Kite) (r : OpRun), s.islandsRun = true → s.inStep = true →
    opRuns s (s.slotOf k) r.idx false = true → (s.kite (s.slotOf k)).port = some r →
    ∃ t, exec (.opComplete (.port k)) s = .next t ∧ (t.kite (s.slotOf k)).port = none ∧
      ∀ g, r.sig = some g →
        (t.kite (s.slotOf k)).gates.getD g 0 = min 65535 ((s.kite (s.slotOf k)).gates.getD g 0 + 1)) ∧
  (∀ (s : State) (k : Kite) (r : OpRun), s.islandsRun = true → s.inStep = true →
    opRuns s (s.slotOf k) r.idx false = true → (s.kite (s.slotOf k)).loader = some r →
    ∃ t, exec (.opComplete (.loader k)) s = .next t ∧ (t.kite (s.slotOf k)).loader = none ∧
      ∀ g, r.sig = some g →
        (t.kite (s.slotOf k)).gates.getD g 0 = min 65535 ((s.kite (s.slotOf k)).gates.getD g 0 + 1)) ∧
  (∀ (s : State) (tr : Train) (r : OpRun), s.islandsRun = true → s.inStep = true →
    (s.seqOf tr 0).run = some r →
    ∃ t, exec (.opComplete (.memory tr)) s = .next t ∧ (t.seqOf tr 0).run = none ∧
      ∀ g, r.sig = some g →
        let n := s.slotOf (recordKite 0 (progRecord s tr 0 r.idx))
        (t.kite n).gates.getD g 0 = min 65535 ((s.kite n).gates.getD g 0 + 1))

/-- R60, R113, R143, R151, R196, 07 R241: A file copy that is due starts, and its end leaves the shadow bank equal to
the live one but for writes held meanwhile; FAULT_CLR clears KITE_FAULT, ESC_FAULT and the NaN trap, or, in the cycle
of a fault, leaves that fault latched; the windows read the selected word of their bank, and a legal write lands in
the shadow bank, or is held in the last 64 ticks before a commit, and moves the index. -/
def Obligations.KiteFilesComplete : Prop :=
  (∀ (s : State) (n : Slot) (f : FileKind), canCopy s n f = true →
    ∃ t, exec (.fileCopy n f) s = .next t ∧ copyBusy t n f = true ∧ ((t.kite n).file f).copyDue = false) ∧
  (∀ (s : State) (n : Slot) (f : FileKind), copyBusy s n f = true → s.islandsRun = true →
    ∃ t, exec (.fileCopyDone n f) s = .next t ∧ copyBusy t n f = false ∧
      ((t.kite n).file f).live = ((s.kite n).file f).live ∧ (s.held.filterMap (heldFile n f) = [] →
        ((t.kite n).file f).shadow = ((s.kite n).file f).live)) ∧
  (∀ (s : State) (n : Slot) (w : Bool), (w = false ∨ (s.kite n).fault = none) →
    ∃ t, exec (.faultClr n w) s = .next t ∧ t.rd Reg.KITE_FAULT_CODE n = 0 ∧
    t.rd Reg.KITE_FAULT_OP_INDEX n = 0 ∧ t.rd Reg.ESC_FAULT_CAUSE n = 0 ∧ t.rd Reg.NAN_TRAP_INFO_VALID n = 0) ∧
  (∀ (s : State) (n : Slot) (f : KiteFault), (s.kite n).fault = some f →
    ∃ t, exec (.faultClr n true) s = .next t ∧ t.rd Reg.KITE_FAULT_CODE n = f.code % 2 ^ Reg.KITE_FAULT_CODE.len ∧
    t.rd Reg.KITE_FAULT_OP_INDEX n = f.op % 2 ^ Reg.KITE_FAULT_OP_INDEX.len) ∧
  (∀ (s : State) (n : Slot), ∃ t, exec (.cbfData n .read) s = .next t ∧ t.kites = s.kites ∧ t.out = s.out ++
    [.word (windowWord s n (selectedFile s n) (s.rd Reg.CBF_CTL_BANK n) (s.rd Reg.CBF_INDEX_WORD n))]) ∧
  (∀ (s : State) (n : Slot) (v : Word), cbfWritable s n = true → ∃ t, exec (.cbfData n (.write v)) s = .next t ∧
    (s.nearCommit = false → windowWord t n (selectedFile s n) 1 (s.rd Reg.CBF_INDEX_WORD n) = v.toNat) ∧
    (s.nearCommit = true → t.kites = s.kites ∧
      t.held = s.held ++ [.file n (selectedFile s n) (s.rd Reg.CBF_INDEX_WORD n) v.toNat]) ∧
    (s.rd Reg.CBF_CTL_AUTO_INC n = 1 → t.rd Reg.CBF_INDEX_WORD n = (s.rd Reg.CBF_INDEX_WORD n + 1) % 8192)) ∧
  (∀ (s : State) (n : Slot), ∃ t, exec (.vpData n .read) s = .next t ∧ t.kites = s.kites ∧ t.out = s.out ++
    [.word (windowWord s n .program (s.rd Reg.VP_CTL_BANK n) (s.rd Reg.VP_INDEX_WORD n))]) ∧
  (∀ (s : State) (n : Slot) (v : Word), vpWritable s n v.toNat = true →
    ∃ t, exec (.vpData n (.write v)) s = .next t ∧
      (s.nearCommit = false → windowWord t n .program 1 (s.rd Reg.VP_INDEX_WORD n) = v.toNat) ∧
      (s.nearCommit = true → t.kites = s.kites ∧ t.held = s.held ++ [.file n .program (s.rd Reg.VP_INDEX_WORD n) v.toNat]) ∧
      (s.rd Reg.VP_CTL_AUTO_INC n = 1 → t.rd Reg.VP_INDEX_WORD n = (s.rd Reg.VP_INDEX_WORD n + 1) % 4096)) ∧
  (∀ (s : State) (n : Slot), ∃ t, exec (.envWin n) s = .next t ∧ t.kites = s.kites ∧ t.out = s.out ++
    [.word (envWord ((s.kite n).snap.getD (s.rd Reg.ENV_SEL_TAG n) tagBlank) (s.rd Reg.ENV_SEL_WORD n))])

/-- R152, R153, R157, R165 to R167, R171 to R174: GOV_SUMMARY (with the sum passed up or down the tree where it
completes), GOV_MERGE_DONE, GOV_EVAL, GOV_READY, REPLICA_RELOAD, GOV_SV_DATA, UFW_CTL and PT_COPY_DONE answer, where
their guard holds, a next state with the summaries, phases, digest, replica epochs, image words and watch fields their
clauses list. -/
def Obligations.GovernorCommandsComplete : Prop :=
  (∀ (s : State) (src : Dev) (x : Summary), s.islandsRun = true → x.step = s.gov.sealedStep →
    s.rd Reg.GOV_STAT_STATS_PHASE = 2 →
    ∃ t, exec (.govSummary src true x) s = .next t ∧ t.gov.domain = some x ∧ t.rd Reg.GOV_STAT_STATS_PHASE = 0) ∧
  (∀ (s : State) (src : Dev) (x : Summary), s.islandsRun = true → s.rd Reg.GOV_STAT_STATS_PHASE ≠ 2 →
    ∃ t, exec (.govSummary src false x) s = .next t ∧ t.gov.children = s.gov.children ++ [(src.val, x)]) ∧
  (∀ (s : State) (src : Dev) (x : Summary) (own : Table TagRec), s.islandsRun = true →
    s.rd Reg.GOV_STAT_STATS_PHASE = 2 → s.gov.own = some own → childDevs s = [src.val] → s.gov.children = [] →
    x.step = s.gov.sealedStep →
    let y : Summary := { step := x.step, tags := addTags own x.tags }
    ∃ t, exec (.govSummary src false x) s = .next t ∧ t.gov.children = [] ∧
      (domainIndex s = 0 → t.gov.domain = some y ∧ t.rd Reg.GOV_STAT_STATS_PHASE = 0 ∧
        Sends s t 0 src.val (.summary true y)) ∧
      (domainIndex s ≠ 0 → t.rd Reg.GOV_STAT_STATS_PHASE = 2 ∧
        Sends s t 0 (s.domainOf.getD ((domainIndex s - 1) / 2) 0) (.summary false y))) ∧
  (∀ s : State, s.rd Reg.GOV_STAT_STATS_PHASE = 1 → s.islandsRun = true →
    ∃ t, exec .govMergeDone s = .next t ∧ t.gov.own = some (mergeKites s) ∧
      (s.domainOf.length ≤ 1 → t.rd Reg.GOV_STAT_STATS_PHASE = 0 ∧
        t.gov.domain = some { step := s.gov.sealedStep, tags := mergeKites s })) ∧
  (∀ (s : State) (x : Summary), canEvaluate s = true → s.gov.domain = some x →
    ∃ t, exec .govEval s = .next t ∧ t.rd Reg.GOV_STAT_TABLE_PHASE = 1 ∧ t.gov.evalStep = some x.step) ∧
  (∀ (s : State) (n : Nat), s.islandsRun = true → s.rd Reg.GOV_STAT_TABLE_PHASE = 1 → s.gov.missing = [] →
    s.gov.evalStep = some n →
    ∃ t, exec .govReady s = .next t ∧ t.rd Reg.GOV_STAT_TABLE_PHASE = 2 ∧ t.rd Reg.PT_PEND_PENDING = 1 ∧
      t.rd Reg.GOV_EVAL_STEP_STEP = n % 2 ^ 32 ∧ t.rd Reg.GOV_DIGEST_DIGEST = digest s n % 2 ^ 32) ∧
  (∀ (s : State) (r : Replica), r ∈ s.gov.missing → s.islandsRun = true →
    ∃ t, exec (.replicaReload r) s = .next t ∧ r ∉ t.gov.missing ∧
      ∀ n : Slot, r = .kite n → (t.kite n).missed = false ∧ (t.kite n).epoch = s.rd Reg.PT_EPOCH_EPOCH) ∧
  (∀ s : State, ∃ t, exec (.govSvData .read) s = .next t ∧ t.gov = s.gov ∧ t.out = s.out ++
    [.word (if s.planRuns = true then 0 else imageWord s (s.rd Reg.GOV_SV_IDX_WORD))]) ∧
  (∀ (s : State) (v : Word), s.planRuns = false →
    ∃ t, exec (.govSvData (.write v)) s = .next t ∧ t.gov.held = true ∧
      (s.rd Reg.GOV_SV_IDX_WORD < 4226 → imageWord t (s.rd Reg.GOV_SV_IDX_WORD) = v.toNat) ∧
      (s.rd Reg.GOV_SV_IDX_AUTO_INC = 1 → s.rd Reg.GOV_SV_IDX_WORD = 24705 → t.rd Reg.GOV_SV_IDX_WORD = 0)) ∧
  (∀ (s : State) (v : Word), ufwOk v.toNat = true →
    ∃ t, exec (.ufwCtl v) s = .next t ∧ t.rd Reg.UFW_CTL_UFW_EN = getBits v.toNat 31 1 ∧
      t.rd Reg.UFW_CTL_UFW_WIDEN = getBits v.toNat 30 1 ∧ t.rd Reg.UFW_CTL_UFW_STREAK = getBits v.toNat 16 10 ∧
      t.rd Reg.UFW_CTL_UFW_THRESH = getBits v.toNat 0 16 ∧
      (getBits v.toNat 31 1 = 0 → t.rd Reg.GOV_STAT_UFLOW_WATCH_OFF = 1)) ∧
  (∀ s : State, s.rd Reg.GOV_STAT_TABLE_PHASE = 3 → s.islandsRun = true →
    ∃ t, exec .ptCopyDone s = .next t ∧ t.rd Reg.GOV_STAT_TABLE_PHASE = 0)

/-- R199, R201, R206 to R213, R216, R217: An access that is not charged, or whose partition has tokens and no queue,
is served at once: a read returns its bytes and, not under LAST, changes none, a write stores its bytes and no other;
one that finds the maintenance window open, or its partition's queue taken, waits at the end of that queue; REG_ADMIT
serves the first waiting access; HBM_READ counts corrected symbols and good retries and latches the first
uncorrectable address; UNPIN_ALL leaves no pin in its train; UE_CLR clears the stack's latch unless an error shares
its cycle. -/
def Obligations.SpoolCommandsComplete : Prop :=
  (∀ (s : State) (r : SpoolReq), Readable s r.addr (reqBytes r) → accessOk r = true → accessRuns s r = true →
    s.mem.window = none → r.sram = none → (r.part = none ∨ ∃ p, r.part = some p ∧
      s.mem.queues.getD (8 * trainOf r.addr + p.val) [] = [] ∧
      admits s (trainOf r.addr) p.val (reqSectors r) = true) →
    (r.write = none → ∃ t, exec (.spoolAccess r) s = .next t ∧
      t.out.getLast? = some (.readData (memBytes s r.addr r.len)) ∧
      (r.hint.val ≠ 3 → ∀ b, memByte t b = memByte s b)) ∧
    (∀ bs, r.write = some bs → ∃ t, exec (.spoolAccess r) s = .next t ∧ ∀ b, memByte t b =
      if r.addr ≤ b ∧ b < r.addr + bs.length then bs.getD (b - r.addr) 0 else memByte s b)) ∧
  (∀ (s : State) (r : SpoolReq) (w : Window), accessOk r = true → accessRuns s r = true → s.mem.window = some w →
    ∃ t, exec (.spoolAccess r) s = .next t ∧ t.mem.window = some { w with queue := w.queue ++ [r] }) ∧
  (∀ (s : State) (r : SpoolReq) (p : Fin 8), accessOk r = true → accessRuns s r = true → s.mem.window = none →
    r.part = some p → s.mem.queues.getD (8 * trainOf r.addr + p.val) [] ≠ [] →
    ∃ t, exec (.spoolAccess r) s = .next t ∧ t.mem.queues.getD (8 * trainOf r.addr + p.val) [] =
      s.mem.queues.getD (8 * trainOf r.addr + p.val) [] ++ [{ req := r, since := memCycle s.tick }]) ∧
  (∀ (s : State) (tr : Train) (p : Fin 8) (w : Waiting) (rest : List Waiting),
    s.mem.queues.getD (8 * tr.val + p.val) [] = w :: rest → admits s tr p (reqSectors w.req) = true →
    s.mem.window = none → accessRuns s w.req = true →
    ∃ t, exec (.regAdmit tr p) s = .next t ∧ t.mem.queues.getD (8 * tr.val + p.val) [] = newHead s rest) ∧
  (∀ (s : State) (addr : Nat) (who : Consumer), addr < hbmTop → exec (.hbmRead addr 0 .clean who) s = .next s) ∧
  (∀ (s : State) (addr n : Nat) (parity : Fin 3) (who : Consumer), addr < hbmTop →
    let k := (decodeAddr (addr / 64 * 64)).stack
    (∃ t, exec (.hbmRead addr parity (.corrected n) who) s = .next t ∧
      t.rd Reg.SYM_CE_COUNT k = satAdd 32 (s.rd Reg.SYM_CE_COUNT k) n) ∧
    ∀ c, ∃ t, exec (.hbmRead addr parity (.retryOk c) who) s = .next t ∧
      t.rd Reg.RETRY_OK_COUNT k = satAdd 32 (s.rd Reg.RETRY_OK_COUNT k) 1) ∧
  (∀ (s : State) (addr : Nat), addr < hbmTop →
    let k := (decodeAddr (addr / 64 * 64)).stack
    s.rd Reg.UE_ADDR_HI_VALID k ≠ 1 →
    ∃ t, exec (.hbmRead addr 0 .uncorrectable .host) s = .next t ∧ t.rd Reg.UE_ADDR_HI_VALID k = 1 ∧
      t.rd64 Reg.UE_ADDR_LO_ADDR Reg.UE_ADDR_HI_ADDR k = addr / 64 * 64) ∧
  (∀ (s : State) (tr : Train), ∃ t, exec (.unpinAll tr) s = .next t ∧
    ∀ e ∈ t.mem.spool, e.1 / 16384 = tr.val → ∀ l ∈ e.2, l.pin = false) ∧
  (∀ (s : State) (k : StackNo), ∃ t, exec (.ueClr k false) s = .next t ∧ t.rd Reg.UE_ADDR_HI_VALID k = 0 ∧
    t.rd Reg.UE_ADDR_LO_ADDR k = 0 ∧ t.rd Reg.UE_ADDR_HI_ADDR k = 0 ∧ t.rd Reg.UE_INFO_ROW k = 0) ∧
  (∀ (s : State) (k : StackNo), exec (.ueClr k true) s = .next s)

/-- R203, R205, R215, R218, R223, R225 to R229: RETRAIN_DONE, PC_DEAD, PHY_MARGIN_LOW, STACK_TEMP_READ,
MAINT_WINDOW_START, WINDOW_WORK, TABLE_SWAP, WINDOW_END, MIG_INTERVAL_END, MIG_COPY_DONE and MIGRATE answer, where
their guard holds, a next state with the channel states, maps, temperatures, windows, scrub positions and migrations
their clauses list. -/
def Obligations.StackCommandsComplete : Prop :=
  (∀ (s : State) (k : StackNo) (pc : PcNo), s.rd Reg.PC_REC_ST_STATE k pc = 4 →
    ∃ t, exec (.retrainDone k pc true) s = .next t ∧ t.rd Reg.PC_REC_ST_STATE k pc = servingState (s.stack k) pc ∧
      (t.stack k).failedRetrain.getD pc 0 = 0) ∧
  (∀ (s : State) (k : StackNo) (pc : PcNo), s.rd Reg.PC_REC_ST_STATE k pc = 4 →
    (s.stack k).failedRetrain.getD pc 0 = 0 →
    ∃ t, exec (.retrainDone k pc false) s = .next t ∧ t.rd Reg.PC_REC_ST_STATE k pc = 4 ∧
      (t.stack k).failedRetrain.getD pc 0 = 1 ∧
      t.rd Reg.PC_REC_RT_RETRAINS k pc = satAdd Reg.PC_REC_RT_RETRAINS.len (s.rd Reg.PC_REC_RT_RETRAINS k pc) 1) ∧
  (∀ (s : State) (k : StackNo) (pc : PcNo) (l : Nat), (List.range 31).find? (fun l => s.ppc k l == pc) = some l →
    s.rd Reg.PC_REC_ST_STATE k pc ≠ 5 →
    (ballastFree s k = true → ∃ t, exec (.pcDead k pc) s = .next t ∧ t.rd Reg.MIG_STAT_BALLAST_USED k = 1 ∧
      t.ppc k l = ballastChannel s k ∧ t.recov.dead.getLast? = some (k.val, l)) ∧
    (ballastFree s k = false → ∃ t, exec (.pcDead k pc) s = .next t ∧ t.rd Reg.PC_REC_ST_STATE k pc = 5)) ∧
  (∀ (s : State) (k : StackNo) (pc : PcNo), channelServes s k pc = true → s.rd Reg.PC_REC_ST_STATE k pc ≠ 4 →
    s.rd Reg.PC_REC_ST_STATE k pc ≠ 5 →
    ∃ t, exec (.phyMarginLow k pc) s = .next t ∧ t.rd Reg.PC_REC_ST_STATE k pc = 4 ∧
      Pends t Ev.stackErr_RETRAIN k) ∧
  (∀ (s : State) (k : StackNo) (temp : BitVec 8), ∃ t, exec (.stackTempRead k temp) s = .next t ∧
    t.rd Reg.STK_TEMP_TEMP k = temp.toNat ∧
    (s.rd Reg.STK_TEMP_BAND k < bandOf temp.toInt → t.rd Reg.STK_TEMP_BAND k = bandOf temp.toInt)) ∧
  (∀ s : State, s.mem.window = none → ∃ t, exec .maintWindowStart s = .next t ∧ t.mem.window =
    some { k := nextWindow s s.tick, start := windowTick s (nextWindow s s.tick) } ∧
    t.rd Reg.MW_COUNT_WINDOWS = satAdd Reg.MW_COUNT_WINDOWS.len (s.rd Reg.MW_COUNT_WINDOWS) 1) ∧
  (∀ (s : State) (k : StackNo) (w : WindowReport) (win : Window), s.mem.window = some win →
    ∃ t, exec (.windowWork k w) s = .next t ∧ t.rd Reg.ODE_CE_COUNT k = satAdd 32 (s.rd Reg.ODE_CE_COUNT k) w.odeCe ∧
      (2 ≤ s.rd Reg.HD_STAT_STATE → w.scrub = [] → w.sram = [] → ∀ pc : PcNo, channelActive s k pc = true →
        (t.stack k).scrubbed.getD pc 0 = (s.stack k).scrubbed.getD pc 0 + s.inForce Reg.MW_WORK_SCRUB_PER_WIN)) ∧
  (∀ (s : State) (w : Window), s.mem.window = some w → s.rd Reg.HD_STAT_STATE < 2 →
    ∃ t, exec .tableSwap s = .next t ∧ ∀ k : StackNo, (t.stack k).xlatShadow = []) ∧
  (∀ (s : State) (w : Window), s.mem.window = some w → ∃ t, exec .windowEnd s = .next t ∧ t.mem.window = none) ∧
  (∀ (s : State) (k : StackNo), ∃ t, exec (.migIntervalEnd k) s = .next t ∧
    ∀ pc : PcNo, t.rd Reg.PC_REC_ST_INTERVAL_CE k pc = 0) ∧
  (∀ (s : State) (k : StackNo) (m : Migration), (s.stack k).mig = some m →
    ∃ t, exec (.migCopyDone k) s = .next t ∧ (t.stack k).mig = some { m with copied := true } ∧
      t.rd Reg.MIG_STAT_COPIED k = 786432) ∧
  (∀ (s : State) (k : StackNo) (l : Fin 32), canMigrate s k l = true →
    ∃ t m, exec (.migrate k l) s = .next t ∧ (t.stack k).mig = some m ∧ m.logical = l.val ∧ m.src = s.ppc k l ∧
      m.dst = ballastChannel s k ∧ t.rd Reg.MIG_STAT_ACTIVE k = 1 ∧ Pends t Ev.stackCtl_MIG_START k)

/-- R209, R248, R255: A record of the memory program that is due and can be fetched: COPY over a range that can be
read and written stores its source's bytes at its destination and no other byte changes (but, under LAST, in its
source); PREFETCH changes no byte; UNPIN leaves no pin in its range; WRITEBACK runs; a record of length 0 is passed
over with memory as it was. -/
def Obligations.MemoryProgramCompletes : Prop :=
  (∀ (s : State) (tr : Train), canRunMemory s tr 0 = true → NextReadable s tr 0 →
    let m := memFields (nextRecord s tr 0)
    m.len ≠ 0 → Readable s m.addr m.len → Readable s m.dst m.len →
    ∃ t r, exec (.copy tr) s = .next t ∧ (t.seqOf tr 0).run = some r ∧ r.idx = (s.seqOf tr 0).next ∧
      ∀ b, (m.dst ≤ b → b < m.dst + m.len → memByte t b = memByte s (m.addr + (b - m.dst))) ∧
        (¬ (m.dst ≤ b ∧ b < m.dst + m.len) → (m.hint ≠ 3 ∨ ¬ (m.addr ≤ b ∧ b < m.addr + m.len)) →
          memByte t b = memByte s b)) ∧
  (∀ (s : State) (tr : Train), canRunMemory s tr 1 = true → NextReadable s tr 0 →
    let m := memFields (nextRecord s tr 0)
    m.len ≠ 0 → Readable s m.addr m.len →
    ∃ t r, exec (.prefetch tr) s = .next t ∧ (t.seqOf tr 0).run = some r ∧ r.idx = (s.seqOf tr 0).next ∧
      ∀ b, (m.hint ≠ 3 ∨ ¬ (m.addr ≤ b ∧ b < m.addr + m.len)) → memByte t b = memByte s b) ∧
  (∀ (s : State) (tr : Train), canRunMemory s tr 2 = true → NextReadable s tr 0 →
    let m := memFields (nextRecord s tr 0)
    m.len ≠ 0 → ∃ t r, exec (.unpin tr) s = .next t ∧ (t.seqOf tr 0).run = some r ∧ r.idx = (s.seqOf tr 0).next ∧
      ∀ e ∈ t.mem.spool, ∀ l ∈ e.2, lineInRange m l = true → l.pin = false) ∧
  (∀ (s : State) (tr : Train), canRunMemory s tr 3 = true → NextReadable s tr 0 →
    let m := memFields (nextRecord s tr 0)
    m.len ≠ 0 → ∃ t r, exec (.writeback tr) s = .next t ∧ (t.seqOf tr 0).run = some r ∧
      r.idx = (s.seqOf tr 0).next) ∧
  (∀ (s : State) (tr : Train) (x : Nat × Instr), x ∈ [(0, Instr.copy tr), (1, Instr.prefetch tr), (2, Instr.unpin tr),
      (3, Instr.writeback tr)] → canRunMemory s tr x.1 = true → NextReadable s tr 0 →
    (memFields (nextRecord s tr 0)).len = 0 →
    ∃ t, exec x.2 s = .next t ∧ (t.seqOf tr 0).next = (s.seqOf tr 0).next + 1 ∧ ∀ b, memByte t b = memByte s b)

/-- R255: A WRITEBACK that is due leaves no dirty sector of the spool in its range, and every byte reads as before. -/
def Obligations.WritebackCleansItsRange : Prop :=
  ∀ (s : State) (tr : Train), canRunMemory s tr 3 = true → NextReadable s tr 0 →
    let m := memFields (nextRecord s tr 0)
    m.len ≠ 0 → ∃ t, exec (.writeback tr) s = .next t ∧ (∀ b, memByte t b = memByte s b) ∧
      ∀ e ∈ t.mem.spool, ∀ l ∈ e.2, lineInRange m l = true → l.anyDirty = false

/-- R265 to R269, R272: On a line that is up: a LINK flit leaves first; then a rewound flit with a credit, which keeps
its SEQ, or the stall is counted; then, with room in the replay buffer, the flit that the priority rule chooses, with
the next SEQ, kept for replay and its credit spent; a full buffer is counted; IDLE_ACK sends a flit of type 0; each
flit time counts for a VC 7 flit that waits, and one that has waited its flit times goes before all but VC 1. -/
def Obligations.FlitSendCompletes : Prop :=
  (∀ (s : State) (l : LineNo) (b : Bytes) (r : List Bytes), s.lineUp l = true → (s.line l).link = b :: r →
    ∃ t k c, exec (.flitSend l) s = .next t ∧ (t.line l).link = r ∧ t.regs = s.regs ∧
      t.out = s.out ++ [.flit l (flitBytes (plainFlit 3 b) (ackOf (s.line l)) (s.line l).anyRx k c)]) ∧
  (∀ (s : State) (l : LineNo) (f : Flit) (r : List Flit), s.lineUp l = true → (s.line l).link = [] →
    (s.line l).rewound = f :: r →
    (0 < creditOf (s.line l) (pairKey f.vc f.cls) → ∃ t k c, exec (.flitSend l) s = .next t ∧
      (t.line l).rewound = r ∧ (t.line l).replay = (s.line l).replay ∧
      creditOf (t.line l) (pairKey f.vc f.cls) = creditOf (s.line l) (pairKey f.vc f.cls) - 1 ∧
      t.rd Reg.RETRY_FLITS_COUNT l = satAdd Reg.RETRY_FLITS_COUNT.len (s.rd Reg.RETRY_FLITS_COUNT l) 1 ∧
      t.out = s.out ++ [.flit l (flitBytes f (ackOf (s.line l)) (s.line l).anyRx k c)]) ∧
    (creditOf (s.line l) (pairKey f.vc f.cls) = 0 →
      exec (.flitSend l) s = .next ((flitTime s l).bump Reg.CREDIT_STALLS_COUNT l))) ∧
  (∀ (s : State) (l : LineNo) (f : Flit), s.lineUp l = true → (s.line l).link = [] → (s.line l).rewound = [] →
    (s.line l).replay.length < 1024 → chooseFlit ((flitTime s l).line l) s.islandsRun = some f →
    ∃ t k c, exec (.flitSend l) s = .next t ∧
      (t.line l).replay = (s.line l).replay ++ [{ f with seq := (s.line l).txSeq }] ∧
      (t.line l).txSeq = ((s.line l).txSeq + 1) % 4096 ∧
      creditOf (t.line l) (pairKey f.vc f.cls) = creditOf (s.line l) (pairKey f.vc f.cls) - 1 ∧
      t.out = s.out ++ [.flit l (flitBytes { f with seq := (s.line l).txSeq } (ackOf (s.line l)) (s.line l).anyRx k c)]) ∧
  (∀ (s : State) (l : LineNo), s.lineUp l = true → (s.line l).link = [] → (s.line l).rewound = [] →
    1024 ≤ (s.line l).replay.length →
    exec (.flitSend l) s = .next ((flitTime s l).bump Reg.REPLAY_FULL_COUNT l)) ∧
  (∀ (s : State) (l : LineNo), s.lineUp l = true →
    ∃ t k c, exec (.idleAck l) s = .next t ∧ t.regs = s.regs ∧
      t.out = s.out ++ [.flit l (flitBytes (plainFlit 0 []) (ackOf (s.line l)) (s.line l).anyRx k c)]) ∧
  (∀ (s : State) (l : LineNo) (f : Flit), (s.line l).outq.getD 14 [] ≠ [] →
    ((flitTime s l).line l).vc7Wait = (s.line l).vc7Wait + 1 ∧
    (64 ≤ (s.line l).vc7Wait → readyFlit (s.line l) 1 = none → readyFlit (s.line l) 7 = some f →
      chooseFlit ((flitTime s l).line l) true = some f))

/-- R262, R266 to R270: On a line that is up, a good flit in sequence is queued and RX_SEQ advances, one out of
sequence starts discarding, and types 0 and 3 (or any, at an unassigned device) change neither; one over an
uncorrectable codeword or with a bad CRC counts in CRC_ERRS and starts discarding with a RETRY_REQ, each uncorrectable
codeword counting in FEC_UE; RETRY_REQ rewinds the replay buffer to its SEQ; RETRY_TIMEOUT asks again, or takes the
line down when the retries are spent. -/
def Obligations.FlitArrivalCompletes : Prop :=
  (∀ (s : State) (l : LineNo) (bytes : Bytes) (ue ce : Nat) (errs : List (Nat × Nat)), s.lineUp l = true →
    flitGood bytes = true →
    let f := parseFlit bytes
    let k := pairKey f.vc f.cls
    (s.assigned = true → f.ftype = 1 ∨ f.ftype = 2 → f.seq = (s.line l).rxSeq →
      ∃ t, exec (.flitRx l bytes false ue ce errs) s = .next t ∧
        (t.line l).rxq.getD k [] = (s.line l).rxq.getD k [] ++ [f] ∧
        (t.line l).rxSeq = ((s.line l).rxSeq + 1) % 4096 ∧ (t.line l).discarding = false) ∧
    (s.assigned = true → f.ftype = 1 ∨ f.ftype = 2 → f.seq ≠ (s.line l).rxSeq →
      ∃ t, exec (.flitRx l bytes false ue ce errs) s = .next t ∧ (t.line l).rxq = (s.line l).rxq ∧
        (t.line l).rxSeq = (s.line l).rxSeq ∧ (t.line l).discarding = true) ∧
    (s.assigned = false ∨ f.ftype = 0 ∨ f.ftype = 3 →
      ∃ t, exec (.flitRx l bytes false ue ce errs) s = .next t ∧ (t.line l).rxq = (s.line l).rxq ∧
        (t.line l).rxSeq = (s.line l).rxSeq ∧ (t.line l).discarding = (s.line l).discarding)) ∧
  (∀ (s : State) (l : LineNo) (bytes : Bytes) (bad : Bool) (ue ce : Nat) (errs : List (Nat × Nat)), s.lineUp l = true →
    bad = true ∨ flitGood bytes = false →
    ∃ t, exec (.flitRx l bytes bad ue ce errs) s = .next t ∧ (t.line l).rxq = (s.line l).rxq ∧
      (t.line l).discarding = true ∧ (0 < ue → Pends t Ev.lineCtl_FEC_UE l) ∧
      t.rd Reg.CRC_ERRS_COUNT l = satAdd Reg.CRC_ERRS_COUNT.len (s.rd Reg.CRC_ERRS_COUNT l) 1 ∧
      t.rd Reg.LINE_FEC_UE_COUNT l = satAdd Reg.LINE_FEC_UE_COUNT.len (s.rd Reg.LINE_FEC_UE_COUNT l) ue ∧
      ((s.line l).discarding = false → (t.line l).link =
        (s.line l).link ++ [BitVec.ofNat 8 0 :: leBytes 2 (s.line l).rxSeq])) ∧
  (∀ (s : State) (l : LineNo) (seq : Fin 4096) (i : Nat), s.lineUp l = true →
    (s.line l).replay.findIdx? (fun f => f.seq == seq.val) = some i →
    ∃ t, exec (.retryReq l seq) s = .next t ∧ (t.line l).replay = (s.line l).replay.drop i ∧
      (t.line l).rewound = (s.line l).replay.drop i ∧ Pends t Ev.lineCtl_RETRY l ∧
      t.rd Reg.RETRIES_COUNT l = satAdd Reg.RETRIES_COUNT.len (s.rd Reg.RETRIES_COUNT l) 1) ∧
  (∀ (s : State) (l : LineNo), s.lineUp l = true → (s.line l).discarding = true →
    (retriesSpent s l = false → ∃ t, exec (.retryTimeout l) s = .next t ∧ (t.line l).askedSeq = (s.line l).rxSeq ∧
      (t.line l).link = (s.line l).link ++ [BitVec.ofNat 8 0 :: leBytes 2 (s.line l).rxSeq]) ∧
    (retriesSpent s l = true → ∃ t, exec (.retryTimeout l) s = .next t ∧ t.rd Reg.LINE_STAT_STATE l = 0 ∧
      Pends t Ev.lineCtl_LINE_DOWN l))

/-- R269, R274 to R278, R283: At a device with a number the oldest buffered flit of a pair that can be taken leaves
its queue and its credit is owed; it is queued on its route with its class, counted in NO_ROUTE without one, counted
in BAD_EP for an endpoint that is not there; a message flit for endpoints 0 to 8 and 10 is delivered; and the first
flit of a transfer that R283 turns away counts under its cause. -/
def Obligations.DataFlitCompletes : Prop :=
  ∀ (s : State) (l : LineNo) (vc : Fin 8) (cls : Fin 2) (f : Flit) (r : List Flit),
    (s.line l).rxq.getD (pairKey vc cls) [] = f :: r → s.assigned = true → s.islandsRun = true ∨ gondolaFlit s f = true →
    landWaits s f = false →
    ∃ t, exec (.dataFlit l vc cls) s = .next t ∧ (t.line l).rxq.getD (pairKey vc cls) [] = r ∧
      (t.line l).owed.getD (pairKey vc cls) 0 = (s.line l).owed.getD (pairKey vc cls) 0 + 1 ∧
      (f.dst / 16 ≠ s.self → ∀ out, routeLine s (f.dst / 16) = some out →
        let g := { f with via := some (l.val, cls.val), cls := outClass s out { f with via := some (l.val, cls.val) } }
        (t.line out).outq.getD (pairKey g.vc g.cls) [] = (s.line out).outq.getD (pairKey g.vc g.cls) [] ++ [g]) ∧
      (f.dst / 16 ≠ s.self → routeLine s (f.dst / 16) = none →
        t.rd Reg.NO_ROUTE_COUNT = satAdd Reg.NO_ROUTE_COUNT.len (s.rd Reg.NO_ROUTE_COUNT) 1 ∧
          Pends t Ev.fabric_NO_ROUTE) ∧
      (f.dst / 16 = s.self → 11 ≤ f.dst % 16 →
        t.rd Reg.BAD_EP_COUNT = satAdd Reg.BAD_EP_COUNT.len (s.rd Reg.BAD_EP_COUNT) 1) ∧
      (f.dst / 16 = s.self → f.dst % 16 < 9 ∨ f.dst % 16 = 10 → f.ftype = 2 →
        t.out = s.out ++ [.message f.src (f.dst % 16) f.vc f.payload]) ∧
      (f.dst / 16 = s.self → f.dst % 16 ≤ 7 → f.ftype ≠ 2 → f.first = true → f.ofs = 0 → s.sinkMode = false →
        openRecv s f.src (f.dst % 16) f.vc = none →
        (judge s f.vc (f.dst % 16) (f.payload.take 16) = .stale →
          t.rd Reg.STALE_DROPS_COUNT = satAdd Reg.STALE_DROPS_COUNT.len (s.rd Reg.STALE_DROPS_COUNT) 1) ∧
        (judge s f.vc (f.dst % 16) (f.payload.take 16) = .range →
          t.rd Reg.RANGE_DROPS_COUNT = satAdd Reg.RANGE_DROPS_COUNT.len (s.rd Reg.RANGE_DROPS_COUNT) 1 ∧
            Pends t Ev.fabric_PERSIST_HIT) ∧
        (judge s f.vc (f.dst % 16) (f.payload.take 16) = .persist →
          t.rd Reg.PERSIST_HITS_COUNT = satAdd Reg.PERSIST_HITS_COUNT.len (s.rd Reg.PERSIST_HITS_COUNT) 1 ∧
            Pends t Ev.fabric_PERSIST_HIT))

/-- R280 to R284: A schedule record that is due and can be fetched advances its program and, with a length, sends its
range's bytes as a transfer; a written transfer is answered DONE over its route; DONE ends its transfer and the record
that owns it; NACK resends once on the classes that may, else ends it and, on classes 2 to 6 in an unsealed step,
sends STOP up the seal tree; a NACK of a restore leaves recovery stuck. -/
def Obligations.TransferCommandsComplete : Prop :=
  (∀ (s : State) (l : LineNo), lineDue s l = true →
    Readable s (planRecordAddr s (s.plan.scheds.getD l (0, 0)).1 (s.line l).next) 16 →
    let m := lineFields (schedRecord s l)
    (m.len = 0 → ∃ t, exec (.lineScheduleRecord l) s = .next t ∧ (t.line l).next = (s.line l).next + 1 ∧
      (t.line l).lastTxn = none ∧ t.fab.sends = s.fab.sends ∧ t.out = s.out) ∧
    (m.len ≠ 0 → Readable s m.src m.len →
      ∃ t x, exec (.lineScheduleRecord l) s = .next t ∧ (t.line l).next = (s.line l).next + 1 ∧
        t.fab.sends = s.fab.sends ++ [x] ∧ x.vc = m.vc ∧ x.txn = s.fab.txn ∧
        x.dst = 16 * m.dest + trainOf m.dst ∧ leAt x.body 0 8 = m.dst ∧ leAt x.body 8 4 = m.len ∧
        x.body.drop 16 = memBytes s m.src m.len)) ∧
  (∀ (s : State) (src : Dev) (ep : Fin 16) (vc : Fin 8) (w : Bool) (r : Recv), writtenRecv s src ep vc = some r →
    canWritten s r = true →
    ∃ t, exec (.transferWritten src ep vc w) s = .next t ∧ t.fab.written = s.fab.written.erase r ∧
      (r.src / 16 = s.self → .msg r.vc (r.src / 16) (.done r.txn r.bytes) ∈ t.out) ∧
      (r.src / 16 ≠ s.self → ∀ l, routeLine s (r.src / 16) = some l →
        Queued t l (msgFlit r.vc (16 * s.self + r.ep) r.src (.done r.txn r.bytes)))) ∧
  (∀ (s : State) (src : Dev) (vc : Fin 8) (txn : BitVec 16) (n : Nat) (x : Send),
    sendOf s src vc txn.toNat = some x →
    ∃ t, exec (.done src vc txn n) s = .next t ∧ t.fab.sends = s.fab.sends.erase x ∧
      ∀ l i, x.owner = .lineRecord l i → (t.line l).undone = (s.line l).undone.erase i) ∧
  (∀ (s : State) (src : Dev) (vc : Fin 8) (txn : BitVec 16) (x : Send), restoreOf s src vc txn.toNat = none →
    sendOf s src vc txn.toNat = some x →
    ∃ t, exec (.nack src vc txn) s = .next t ∧
      t.fab.sends = (if (x.vc < 2 ∨ 6 < x.vc) ∧ x.resent = false then
        s.fab.sends.erase x ++ [{ x with resent := true }] else s.fab.sends.erase x) ∧
      (2 ≤ x.vc → x.vc ≤ 6 → s.inStep = true → s.step.isSealed = false →
        Sends s t 1 s.sealParent (.stop s.self s.stepNum))) ∧
  (∀ (s : State) (src : Dev) (vc : Fin 8) (txn : BitVec 16) (r : Restore), restoreOf s src vc txn.toNat = some r →
    ∃ t, exec (.nack src vc txn) s = .next t ∧ t.recov.stuck = true ∧ t.recov.restores = s.recov.restores.erase r)

/-- R377, R378, R274, R276: PEER_REGISTER_COMMAND completes for every peer, TXN and operation with a kept reply; with
a new TXN the operation is run, its STATUS and body kept and sent on VC 0, and with a kept TXN that reply is sent and
memory does not change; RESTORE_READ completes with a NACK for a stranger and for a bad range, and else sends the
range's bytes as one transfer; TB_QUERY completes in every state with the tick and TB_SYNC sent to its asker;
ROUTE_DATA completes in every state for a read, answers the selected entry and moves the index, and a write of a legal
entry lands in the shadow bank, or is held before a commit. -/
def Obligations.PeerCommandsComplete : Prop :=
  (∀ (s : State) (src : Dev) (txn : BitVec 16) (op : PeerOp),
    ∃ t, exec (.peerRegisterCommand src txn op) s = .next t ∧ (keptReply t src txn.toNat).isSome = true) ∧
  (∀ (s : State) (src : Dev) (txn : BitVec 16) (op : PeerOp), keptReply s src txn.toNat = none →
    let r := match op with
      | .read addr count fixed =>
        if s.rd Reg.FAB_CTL_PEER_RD_EN = 0 then fails s stDenied else regRead s addr.toNat count fixed 48
      | .write addr count fixed words =>
        if s.rd Reg.FAB_CTL_PEER_WR_EN = 0 then fails s stDenied
        else if words.length ≠ count then fails s stBadOp
        else regWrite s addr.toNat fixed (words.map BitVec.toNat) 48
    ∃ t, exec (.peerRegisterCommand src txn op) s = .next t ∧
      keptReply t src txn.toNat = some (.body r.status r.body) ∧
      Sends r.s t 0 src (.peerReply txn.toNat r.status r.body)) ∧
  (∀ (s : State) (src : Dev) (txn : BitVec 16) (op : PeerOp) (st : Nat) (b : Bytes),
    keptReply s src txn.toNat = some (.body st b) →
    ∃ t, exec (.peerRegisterCommand src txn op) s = .next t ∧ t.mem = s.mem ∧ t.fab.replies = s.fab.replies ∧
      Sends s t 0 src (.peerReply txn.toNat st b)) ∧
  (∀ (s : State) (src : Dev) (body : Bytes) (p : Nat), s.partner ≠ some src.val →
    restoreWaits s (restoreBody body) p = false → s.islandsRun = true ∨ (restoreBody body).burner = false →
    ∃ t, exec (.restoreRead src body p) s = .next t ∧ t.mem = s.mem ∧
      Sends s t 7 src (.nack (restoreBody body).txn 8)) ∧
  (∀ (s : State) (src : Dev) (body : Bytes) (p : Nat), s.partner = some src.val → s.mem.window.isSome = false →
    keptReply s src (restoreBody body).txn = none → (restoreBody body).burner = false →
    let r := restoreBody body
    (restoreRangeOk r = false → ∃ t, exec (.restoreRead src body p) s = .next t ∧ Sends s t 7 src (.nack r.txn 4)) ∧
    (restoreRangeOk r = true → Readable s r.addr r.len →
      ∃ t x, exec (.restoreRead src body p) s = .next t ∧ t.fab.sends = s.fab.sends ++ [x] ∧ x.vc = 7 ∧
        x.dst = 16 * src.val + 8 ∧ leAt x.body 0 8 = r.addr ∧ leAt x.body 8 4 = r.len ∧
        x.body.drop 16 = memBytes s r.addr r.len)) ∧
  (∀ (s : State) (src : Dev), ∃ t, exec (.tbQuery src) s = .next t ∧
    let m := Msg.tbReply s.tick (s.liveReg ⟨.timeBase, 0⟩ 0x48)
    (src.val = s.self → t = s.emit (.msg 1 src m)) ∧
    (src.val ≠ s.self → ∀ l, routeLine s src = some l → Queued t l (msgFlit 1 (16 * s.self + 10) (16 * src + 8) m))) ∧
  (∀ s : State, let k := routeKey (s.rd Reg.ROUTE_INDEX_INDEX)
    ∃ t, exec (.routeData .read) s = .next t ∧ t.out = s.out ++ [.word
      (if s.rd Reg.ROUTE_CTL_BANK = 1 then s.shadowWord k else s.liveWord k)] ∧
      t.rd Reg.ROUTE_INDEX_INDEX = (if s.rd Reg.ROUTE_CTL_AUTO_INC = 1 then (s.rd Reg.ROUTE_INDEX_INDEX + 1) % 4096
        else s.rd Reg.ROUTE_INDEX_INDEX)) ∧
  (∀ (s : State) (v : Word), routeOk s v.toNat = true →
    let k := routeKey (s.rd Reg.ROUTE_INDEX_INDEX)
    ∃ t, exec (.routeData (.write v)) s = .next t ∧
      (s.step.armed = none → s.step.commitAt = [] → t.shadowWord k = routeBits v.toNat ∧ t.held = s.held) ∧
      (∀ a, s.step.armed = some a → s.tick ≤ a.1 → a.1 < s.tick + 64 →
        t.held = s.held ++ [.field k (routeBits v.toNat)] ∧ t.shadow = s.shadow) ∧
      t.rd Reg.ROUTE_INDEX_INDEX = (if s.rd Reg.ROUTE_CTL_AUTO_INC = 1 then (s.rd Reg.ROUTE_INDEX_INDEX + 1) % 4096
        else s.rd Reg.ROUTE_INDEX_INDEX))

/-- R263, R286, R287, R292: IDENT, DISCOVERY, DISC_TIMEOUT, DISCOVER, FAB_DEVNUM, LINE_UP, LINE_DOWN, DOWN_NOTICE,
ALIGNMENT_LOSS, LINE_RETRAIN and LINE_CFG answer, where their guard holds, a next state with the line states,
neighbour entries, counts and events their clauses list; a line that goes down drops its neighbour with NBR_CHANGE,
and EN 0 written to the last line that discovery waits for ends it. -/
def Obligations.LineCommandsComplete : Prop :=
  (∀ (s : State) (l : LineNo) (info : IdentInfo), s.lineUp l = true →
    ∃ t, exec (.ident l info) s = .next t ∧ t.rd Reg.NBR_VALID 0 l = 1 ∧
      t.rd Reg.NBR_PEER_ASSIGNED 0 l = ofBool info.assigned ∧ t.rd Reg.NBR_PEER_DEV 0 l = info.dev ∧
      t.rd Reg.NBR_PEER_LINE 0 l = info.line ∧ t.rd Reg.NBR_PEER_DIST 0 l = info.dist ∧
      (nbrChanged s l info = true → Pends t Ev.fabric_NBR_CHANGE)) ∧
  (∀ s : State, s.rd Reg.DEV_STAT_STATE = 5 → exec .discovery s = exec .discover s) ∧
  (∀ s : State, ∃ t, exec .discover s = .next t ∧
    (∀ l : LineNo, t.rd Reg.LINE_STAT_STATE l =
      if s.rd Reg.LINE_CFG_EN l = 0 then 3
      else if s.rd Reg.LINE_CFG_EN l = 1 ∧ s.rd Reg.LINE_STAT_STATE l = 0 then 1 else s.rd Reg.LINE_STAT_STATE l) ∧
    (∀ l : LineNo, s.rd Reg.LINE_CFG_EN l = 1 → s.rd Reg.LINE_STAT_STATE l = 0 → t.rd Reg.FAB_STAT_DISC_STATE = 1) ∧
    ((∀ l : LineNo, s.rd Reg.LINE_CFG_EN l = 1 → s.lineUp l = true) →
      t.rd Reg.FAB_STAT_DISC_STATE = 3 ∧ Pends t Ev.fabric_DISC_DONE)) ∧
  (∀ (s : State) (l : LineNo), s.rd Reg.LINE_STAT_STATE l = 1 →
    ∃ t, exec (.discTimeout l) s = .next t ∧ t.rd Reg.LINE_STAT_STATE l = 0 ∧ (t.line l).timedOut = true) ∧
  (∀ (s : State) (v : Word),
    (s.planRuns = false → ∃ t, exec (.fabDevnum v) s = .next t ∧
      t.rd Reg.FAB_DEVNUM_DEVNUM = getBits v.toNat 0 12 ∧ t.rd Reg.FAB_DEVNUM_ASSIGNED = getBits v.toNat 31 1) ∧
    (s.planRuns = true → ∃ t, exec (.fabDevnum v) s = .next t ∧ Pends t ⟨.fabric, 0⟩ ∧
      t.rd Reg.FAB_DEVNUM_DEVNUM = s.rd Reg.FAB_DEVNUM_DEVNUM ∧
      t.rd Reg.FAB_DEVNUM_ASSIGNED = s.rd Reg.FAB_DEVNUM_ASSIGNED)) ∧
  (∀ (s : State) (l : LineNo), s.rd Reg.LINE_STAT_STATE l = 1 →
    ∃ t b, exec (.lineUp l) s = .next t ∧ t.rd Reg.LINE_STAT_STATE l = 2 ∧
      t.rd Reg.FAB_STAT_LINES_UP = t.linesUp.length ∧ Pends t Ev.lineCtl_LINE_UP l ∧
      (t.line l).link = (s.line l).link ++ [BitVec.ofNat 8 2 :: b]) ∧
  (∀ (s : State) (l : LineNo) (c : Instr), c = .lineDown l ∨ c = .alignmentLoss l ∨ c = .downNotice l →
    (s.lineUp l = true → ∃ t, exec c s = .next t ∧ t.rd Reg.LINE_STAT_STATE l = 0 ∧ t.rd Reg.NBR_VALID 0 l = 0 ∧
      (s.rd Reg.NBR_VALID 0 l ≠ 0 → Pends t Ev.fabric_NBR_CHANGE) ∧ (t.line l).timedOut = (s.line l).timedOut ∧
      t.rd Reg.FAB_STAT_LINES_UP = t.linesUp.length ∧ Pends t Ev.lineCtl_LINE_DOWN l ∧
      t.rd Reg.LINE_DOWNS_COUNT l = satAdd Reg.LINE_DOWNS_COUNT.len (s.rd Reg.LINE_DOWNS_COUNT l) 1 ∧
      (c ≠ .downNotice l → ∃ k n, .flit l (flitBytes (plainFlit 3 [5]) (ackOf (s.line l)) (s.line l).anyRx k n) ∈ t.out)) ∧
    (s.lineUp l = false → exec c s = .next s)) ∧
  (∀ (s : State) (l : LineNo), s.rd Reg.LINE_CFG_EN l = 1 → s.rd Reg.LINE_STAT_STATE l = 0 →
    ∃ t, exec (.lineRetrain l) s = .next t ∧ t.rd Reg.LINE_STAT_STATE l = 1) ∧
  (∀ (s : State) (l : LineNo) (v : Word),
    ∃ t, exec (.lineCfg l v) s = .next t ∧ t.rd Reg.LINE_CFG_EN l = getBits v.toNat 31 1 ∧
      t.rd Reg.LINE_CFG_DELAY_ASYM l = getBits v.toNat 8 8 ∧
      (getBits v.toNat 31 1 = 0 → t.rd Reg.LINE_STAT_STATE l = 3 ∧
        (s.rd Reg.FAB_STAT_DISC_STATE = 1 ∨ s.rd Reg.FAB_STAT_DISC_STATE = 2 →
          (∀ m : LineNo, m ≠ l → s.rd Reg.LINE_CFG_EN m = 1 → s.lineUp m = true ∨ (s.line m).timedOut = true) →
          t.rd Reg.FAB_STAT_DISC_STATE = 3 ∧ Pends t Ev.fabric_DISC_DONE)) ∧
      (getBits v.toNat 31 1 = 1 → s.rd Reg.LINE_STAT_STATE l = 3 → getBits v.toNat 26 2 = s.rd Reg.LINE_CFG_MEDIA l →
        t.rd Reg.LINE_STAT_STATE l = 0) ∧
      (getBits v.toNat 31 1 = 1 → s.rd Reg.LINE_STAT_STATE l = 2 → getBits v.toNat 26 2 ≠ s.rd Reg.LINE_CFG_MEDIA l →
        getBits v.toNat 26 2 ≠ 3 → t.rd Reg.LINE_STAT_STATE l = 1))

/-- R293: LANE_INTERVAL_END clears the interval counts and agrees a swap of the worst lane by a LANE_SWAP flit;
LANE_SWAP notes its window; LANE_WINDOW_SWAP maps the ballast lane in; LANE_LOCK_LOSS does so at once, with the flit
that agrees it, or takes the line down; LANE_SWAP_CMD agrees a swap with the peer or is refused. -/
def Obligations.LaneCommandsComplete : Prop :=
  (∀ (s : State) (l : LineNo), s.lineUp l = true →
    ∃ t, exec (.laneIntervalEnd l) s = .next t ∧
      (∀ p : Fin 9, t.rd Reg.LANE_REC_ST_INTERVAL_ERR l p = 0) ∧
      (∀ i, worstLane s l = some i → (ballastLane s l).isSome = true → (s.line l).laneSwap = none →
        (t.line l).laneSwap = some (nextWindow s (s.tick + 1), i) ∧ (t.line l).link = (s.line l).link ++
          [BitVec.ofNat 8 3 :: (leBytes 8 (nextWindow s (s.tick + 1)) ++ leBytes 1 i)])) ∧
  (∀ (s : State) (l : LineNo) (w : Nat) (lane : Fin 8), s.lineUp l = true → (ballastLane s l).isSome = true →
    ∃ t, exec (.laneSwap l w lane) s = .next t ∧ (t.line l).laneSwap = some (w, lane.val)) ∧
  (∀ (s : State) (l : LineNo) (k lane b : Nat), s.lineUp l = true → (s.line l).laneSwap = some (k, lane) →
    ballastLane s l = some b →
    ∃ t, exec (.laneWindowSwap l) s = .next t ∧ (t.line l).laneMap = (s.line l).laneMap.set lane b ∧
      (t.line l).laneSwap = none ∧ t.rd Reg.LANE_BALLAST_BALLAST_USED l = 1 ∧ Pends t Ev.lineLane_LANE_SWAPPED l ∧
      (b < 9 → t.rd Reg.LANE_REC_ST_STATE l b = 0) ∧
      ((s.line l).laneMap.getD lane 0 < 9 → (s.line l).laneMap.getD lane 0 ≠ b →
        t.rd Reg.LANE_REC_ST_STATE l ((s.line l).laneMap.getD lane 0) = 2)) ∧
  (∀ (s : State) (l : LineNo) (lane : Fin 8), s.lineUp l = true →
    (∀ b, ballastLane s l = some b → ∃ t, exec (.laneLockLoss l lane) s = .next t ∧
      (t.line l).laneMap = (s.line l).laneMap.set lane b ∧ t.rd Reg.LANE_BALLAST_BALLAST_USED l = 1 ∧
      (t.line l).link = (s.line l).link ++ [BitVec.ofNat 8 3 :: (leBytes 8 swapAtOnce ++ leBytes 1 lane.val)] ∧
      t.rd Reg.LINE_STAT_STATE l = 2 ∧ Pends t Ev.lineLane_LANE_FAILED l) ∧
    (ballastLane s l = none → ∃ t, exec (.laneLockLoss l lane) s = .next t ∧ t.rd Reg.LINE_STAT_STATE l = 0 ∧
      Pends t Ev.lineLane_LANE_FAILED l ∧ Pends t Ev.lineCtl_LINE_DOWN l)) ∧
  (∀ (s : State) (l : LineNo) (lane : Fin 8),
    ((s.lineUp l && (ballastLane s l).isSome) = true → ∃ t b, exec (.laneSwapCmd l lane) s = .next t ∧
      (t.line l).laneSwap = some (nextWindow s (s.tick + 1), lane.val) ∧
      (t.line l).link = (s.line l).link ++ [BitVec.ofNat 8 3 :: b]) ∧
    ((s.lineUp l && (ballastLane s l).isSome) = false → ∃ t, exec (.laneSwapCmd l lane) s = .next t ∧
      Pends t ⟨.lineLane, 0⟩ l ∧ t.fab = s.fab))

/-- R231, R232, R288 to R290: TIME_SYNC_SEND, TIME_SYNC, SYNC_TIMEOUT, MEASURE and MEAS_DONE answer, where their guard
holds, a next state with the messages, the distances and parent, the tick, lock, offset and events their clauses list;
the counts measured are free values (log 20) in their pairs' layout. -/
def Obligations.TimeBaseCommandsComplete : Prop :=
  (∀ (s : State) (l : LineNo), s.fab.parent = some l.val → s.lineUp l = true →
    ∃ t, exec .timeSyncSend s = .next t ∧ (t.line l).link = (s.line l).link ++
      [BitVec.ofNat 8 1 :: (leBytes 8 (16 * s.tick) ++ leBytes 1 (ownDistance s))]) ∧
  (∀ (s : State) (l : LineNo) (t1 t2 d : Nat), s.lineUp l = true →
    ∃ t x, exec (.timeSync l (.request t1 t2 d)) s = .next t ∧ t.rd Reg.NBR_PEER_DIST 0 l = d % 32 ∧
      (s.rd Reg.NBR_PEER_DIST 0 l ≠ d % 32 → Pends t Ev.fabric_NBR_CHANGE ∧
        (isMaster s = false → t.fab.parent = bestParent t)) ∧
      (t.line l).link = (s.line l).link ++ [BitVec.ofNat 8 1 ::
        (leBytes 8 t1 ++ leBytes 8 t2 ++ leBytes 8 (max t2 (16 * s.tick)) ++ leBytes 1 x)]) ∧
  (∀ (s : State) (l : LineNo) (t1 t2 t3 t4 d : Nat), s.lineUp l = true → s.fab.parent = some l.val →
    s.rd Reg.NBR_PEER_DIST 0 l = d % 32 →
    let o2 := offset2 s l t1 t2 t3 t4
    (s.rd Reg.TB_SYNC_LOADED = 0 → d % 32 < 16 → ∃ t, exec (.timeSync l (.reply t1 t2 t3 t4 d)) s = .next t ∧
      t.tick = ((s.tick : Int) + o2 / 32).toNat % 2 ^ 64 ∧ t.rd Reg.TB_SYNC_LOADED = 1 ∧
      t.rd Reg.TB_SYNC_LOCKED = 1) ∧
    (s.rd Reg.TB_SYNC_LOADED ≠ 0 → d % 32 < 16 → -32 ≤ o2 → o2 ≤ 32 →
      ∃ t, exec (.timeSync l (.reply t1 t2 t3 t4 d)) s = .next t ∧
      t.tick = s.tick ∧ t.rd Reg.TB_SYNC_LOCKED = 1 ∧ t.rd Reg.TB_SYNC_OFFSET = offsetByte (o2 / 32)) ∧
    (s.rd Reg.TB_SYNC_LOADED ≠ 0 → o2 < -32 ∨ 32 < o2 → s.rd Reg.TB_SYNC_LOCKED = 1 →
      ∃ t, exec (.timeSync l (.reply t1 t2 t3 t4 d)) s = .next t ∧ t.tick = s.tick ∧
        t.rd Reg.TB_SYNC_LOCKED = 0 ∧ Pends t Ev.timeBase_TB_UNLOCK)) ∧
  (∀ s : State, isMaster s = false → s.rd Reg.TB_SYNC_LOCKED = 1 → s.rd Reg.FAB_TB_TB_BACKUP ≠ s.self →
    ∃ t, exec .syncTimeout s = .next t ∧ t.rd Reg.TB_SYNC_LOCKED = 0 ∧ Pends t Ev.timeBase_TB_UNLOCK) ∧
  (∀ s : State, isMaster s = false → (∀ l : LineNo, s.lineUp l = false) → s.assigned = true →
    s.rd Reg.FAB_TB_TB_BACKUP = s.self → s.fab.tookOver = false →
    ∃ t, exec .syncTimeout s = .next t ∧ t.fab.tookOver = true ∧ t.rd Reg.TB_SYNC_LOCKED = 1 ∧
      Pends t Ev.fabric_TB_MASTER_LOST) ∧
  (∀ s : State, exec .measure s = .next { s with tb := { s.tb with running := true } }) ∧
  (∀ s : State, s.tb.running = true → s.tick < 2 ^ 64 →
    ∃ t, exec .measDone s = .next t ∧ t.tb.running = false ∧ t.rd64 Reg.TB_MEAS_AT_LO Reg.TB_MEAS_AT_HI = s.tick ∧
      Pends t Ev.timeBase_MEAS_DONE ∧
      ∀ i, i < 18 → Table.find i t.tb.pairs = some (s.tick, ownValue i (Config.free (s.fresh + i))))

/-- R294 to R301, R319: A reduction record that is due, over memory without uncorrectable transfers, with a legal
descriptor and context and no duplicate stream: with no elements it is passed over; before the last step of its window
it writes the accumulated sums to its bank and no other byte changes; at the last it enters the ring under its context
with memory as it was. -/
def Obligations.WinchRecordStarts : Prop :=
  ∀ (s : State) (tr : Train) (w : Bool), winchDue s tr = true → (∀ x n, Readable s x n) →
    let f := winchFields (nextRecord s tr 1)
    let a := s.rd Reg.WN_DESC_BASE_BASE tr * 256 + 32 * f.desc
    let d := parseDesc (memBytes s a 32)
    s.rd Reg.WG_CFG_W0_VALID tr f.ctx ≠ 0 → a + 32 ≤ hbmTop → descBad d = false →
    d.accSteps = 1 ∨ (s.winchOf tr).streams.contains d.stream = false →
    (d.count = 0 → ∃ t, exec (.winchRecord tr false w) s = .next t ∧ t.winch = s.winch ∧
      (t.seqOf tr 1).next = (s.seqOf tr 1).next + 1) ∧
    (d.count ≠ 0 → windowPos s d + 1 ≠ d.accSteps →
      let g := unpackBits (8 * gradBytes d.gradFmt) d.count (memBytes s d.grad (gradBytes d.gradFmt * d.count))
      let p := if windowPos s d = 0 then List.replicate d.count 0
        else unpackBits 32 d.count (memBytes s (d.lacc + (windowPos s d - 1) % 2 * laccBank d) (4 * d.count))
      let out := packBits 32 (accSums s tr d 0 g p)
      let at_ := d.lacc + windowPos s d % 2 * laccBank d
      ∃ t r, exec (.winchRecord tr false w) s = .next t ∧ Table.find f.ctx (t.winchOf tr).runs = some r ∧ r.d = d ∧
        r.accOnly = true ∧ t.rd Reg.WN_STAT_PHASE tr = 1 ∧ t.rd Reg.WN_STAT_BUSY tr = 1 ∧
        ∀ b, memByte t b = if at_ ≤ b ∧ b < at_ + out.length then out.getD (b - at_) 0 else memByte s b) ∧
    (d.count ≠ 0 → windowPos s d + 1 = d.accSteps →
      ∃ t r, exec (.winchRecord tr false w) s = .next t ∧ Table.find f.ctx (t.winchOf tr).runs = some r ∧ r.d = d ∧
        r.accOnly = false ∧ r.idx = (s.seqOf tr 1).next ∧ r.rank = s.rd Reg.WG_CFG_W0_RANK_POS tr f.ctx ∧
        r.size = s.rd Reg.WG_CFG_W0_SIZE tr f.ctx ∧ (∀ b, memByte t b = memByte s b) ∧
        ((s.winchOf tr).staged.filter (fun e => e.1 / 16 = f.ctx) = [] → t.rd Reg.WN_STAT_PHASE tr = 2))

/-- R295, R303 to R311, R313, R316: The next context's segment is combined and its lap advances; a segment ready to
send leaves as a transfer with its data, scales and trailer, and its slot is noted; SLOT_FREE of the primary successor
credits the record that sent the segment, and of no successor changes nothing; a finished record leaves its context,
adds its totals, keeps what is still to go to the backup and signals its gate; the fault and the NaN latch are cleared
unless a new one shares the cycle. -/
def Obligations.WinchCommandsComplete : Prop :=
  (∀ (s : State) (tr : Train) (r : WinchRun) (lap j : Nat), nextContext s tr = some (r, lap, j) →
    winchWorks s tr = true → (∀ x n, Readable s x n) →
    ∃ t r1, exec (.segmentCombine tr) s = .next t ∧ (t.winchOf tr).last = r.ctx ∧
      Table.find r.ctx (t.winchOf tr).runs = some r1 ∧ (lap = 0 → r1.lap1 = j + 1) ∧ (lap = 1 → r1.lap2 = j + 1) ∧
      t.rd Reg.SEGS_COMBINED_COUNT tr = satAdd Reg.SEGS_COMBINED_COUNT.len (s.rd Reg.SEGS_COMBINED_COUNT tr) 1) ∧
  (∀ (s : State) (tr : Train) (ctx : Fin 8) (backup : Bool) (r : WinchRun) (lap j : Nat) (g : Segment),
    nextSend s tr ctx backup = some (r, lap, j, g) → winchWorks s tr = true →
    ∃ t x, exec (.segmentSend tr ctx backup) s = .next t ∧ t.fab.sends = s.fab.sends ++ [x] ∧ x.vc = 2 ∧
      x.dst = 16 * (if backup then s.rd Reg.WG_CFG_W1_NEXT_B tr r.ctx else s.rd Reg.WG_CFG_W1_NEXT_P tr r.ctx) + tr ∧
      x.body.drop 16 = g.data ++ g.scales ++ trailerBytes s tr r lap j g ∧
      (t.winchOf tr).unfreed = (s.winchOf tr).unfreed ++
        [{ ctx := r.ctx, backup := backup, lap := lap, seg := j, idx := r.idx }]) ∧
  (∀ (s : State) (tr : Train) (src : Dev) (ctx : Fin 8) (lap : Fin 2) (seg : Nat),
    (successorRole s tr ctx src = none → exec (.slotFree src tr ctx lap seg) s = .next s) ∧
    (∀ r e, Table.find ctx.val (s.winchOf tr).runs = some r → r.ctx = ctx.val →
      src.val = s.rd Reg.WG_CFG_W1_NEXT_P tr ctx →
      (s.winchOf tr).unfreed.find? (fun e => e.ctx == ctx.val && e.backup == false && e.lap == lap.val && e.seg == seg)
        = some e → e.idx = r.idx → (s.winchOf tr).backs = [] →
      ∃ t r1, exec (.slotFree src tr ctx lap seg) s = .next t ∧ Table.find ctx.val (t.winchOf tr).runs = some r1 ∧
        r1.freedP.getD lap 0 = max (r.freedP.getD lap 0) (seg + 1) ∧
        (t.winchOf tr).unfreed = (s.winchOf tr).unfreed.erase e)) ∧
  (∀ (s : State) (tr : Train) (ctx : Fin 8) (r : WinchRun), Table.find ctx.val (s.winchOf tr).runs = some r →
    winchWorks s tr = true → winchFinished r = true →
    ∃ t, exec (.winchRecordDone tr ctx) s = .next t ∧ (t.winchOf tr).runs = (s.winchOf tr).runs.erase r.ctx ∧
      (t.winchOf tr).totals = addTotals (s.winchOf tr).totals r ∧ t.kites = (signalRecord s r.kite r.sig).kites ∧
      (r.outB ≠ [] → r ∈ (t.winchOf tr).backs) ∧
      t.rd Reg.WN_STAT_BUSY tr = ofBool ((s.winchOf tr).runs.erase r.ctx != [])) ∧
  (∀ (s : State) (tr : Train), exec (.wnFaultClr tr true) s = .next s ∧
    ∃ t, exec (.wnFaultClr tr false) s = .next t ∧ t.rd Reg.WN_FAULT_CODE tr = 0 ∧ t.rd Reg.WN_FAULT_RECORD tr = 0) ∧
  (∀ (s : State) (tr : Train), exec (.nanClr tr true) s = .next s ∧
    ∃ t, exec (.nanClr tr false) s = .next t ∧ t.rd Reg.WN_NAN_INFO_VALID tr = 0 ∧
    t.rd Reg.WN_NAN_INFO_RANK tr = 0 ∧ t.rd Reg.WN_NAN_INFO_DESC tr = 0 ∧ t.rd Reg.WN_NAN_ELEM_ELEM tr = 0 ∧
    t.rd Reg.WN_NAN_STEP_STEP tr = 0)

/-- R295: At reset, and after every step from a state where it holds, every run that a winch holds under a context
number is a run of that context. -/
def Obligations.WinchRunsKeepTheirContext : Prop :=
  (∀ (tr c : Nat) (r : WinchRun), Table.find c (State.reset.winchOf tr).runs = some r → r.ctx = c) ∧
  ∀ s t : State, (∀ (tr c : Nat) (r : WinchRun), Table.find c (s.winchOf tr).runs = some r → r.ctx = c) →
    step s = .next t → ∀ (tr c : Nat) (r : WinchRun), Table.find c (t.winchOf tr).runs = some r → r.ctx = c

/-- R319: With no fault standing, a record whose context is not valid, whose descriptor read is uncorrectable, whose
descriptor lies beyond HBM or is illegal, or whose stream is a duplicate stops the winch with code 2, 6, 1 or 3, PHASE
STOPPED and WN_FAULT raised; a later fault leaves the latched code, or, in its cycle, the lower of the two. -/
def Obligations.WinchRecordFaults : Prop :=
  (∀ (s : State) (tr : Train) (w : Bool), winchDue s tr = true → s.rd Reg.WN_FAULT_CODE tr = 0 → NextReadable s tr 1 →
    let f := winchFields (nextRecord s tr 1)
    let a := s.rd Reg.WN_DESC_BASE_BASE tr * 256 + 32 * f.desc
    let d := parseDesc (memBytes s a 32)
    let stops := fun (ue : Bool) (code : Nat) => ∃ t, exec (.winchRecord tr ue w) s = .next t ∧
      t.rd Reg.WN_FAULT_CODE tr = code ∧ t.rd Reg.WN_STAT_PHASE tr = 5 ∧
      (t.winchOf tr).runs = (s.winchOf tr).runs ∧ (t.winchOf tr).streams = (s.winchOf tr).streams ∧
      Pends t Ev.winch_WN_FAULT tr
    (s.rd Reg.WG_CFG_W0_VALID tr f.ctx = 0 → ∀ ue, stops ue 2) ∧
    (s.rd Reg.WG_CFG_W0_VALID tr f.ctx ≠ 0 → stops true 6) ∧
    (s.rd Reg.WG_CFG_W0_VALID tr f.ctx ≠ 0 → Readable s a 32 →
      (hbmTop < a + 32 ∨ descBad d = true → stops false 1) ∧
      (a + 32 ≤ hbmTop → descBad d = false → d.accSteps ≠ 1 → (s.winchOf tr).streams.contains d.stream = true →
        stops false 3))) ∧
  (∀ (s : State) (tr : Train) (code rec : Nat) (w : Bool), s.rd Reg.WN_FAULT_CODE tr ≠ 0 → code < 16 →
    (winchFault s tr code rec w).rd Reg.WN_FAULT_CODE tr =
      if w then min code (s.rd Reg.WN_FAULT_CODE tr) else s.rd Reg.WN_FAULT_CODE tr)

/-- R335 to R339, R341, R343: An update record that is due, over memory without uncorrectable transfers: a group that
has no latch holds it with code 2; with a legal descriptor, one of no elements, or of a group that neither updates nor
has a stale copy, is passed over with memory as it was; any other runs its pass to the end, with BUSY, PHASE UPDATE
and PROGRESS shown, or, where an element's data cannot be read, stops before its state record with code 4. -/
def Obligations.BurnerRecordStarts : Prop :=
  ∀ (s : State) (tr : Train), burnerDue s tr = true → (s.burnerOf tr).run = none →
    (∀ x n, Readable s x n) →
    let f := burnFields (nextRecord s tr 2)
    let b := s.burnerOf tr
    let a := s.rd Reg.BN_DESC_BASE_BASE tr * 256 + 32 * f.desc
    let d := parseBurnDesc (memBytes s a 32)
    (Table.find f.group b.latched = none → s.rd Reg.BN_FAULT_CODE tr = 0 → ∃ t,
      exec (.burnerRecord tr none) s = .next t ∧ t.rd Reg.BN_FAULT_CODE tr = 2 ∧ t.rd Reg.BN_STAT_PHASE tr = 5 ∧
        (t.burnerOf tr).run = none ∧ t.seqOf tr 2 = s.seqOf tr 2) ∧
    (∀ l, Table.find f.group b.latched = some l → l.invalid = false → l.noFormat = false → a + 32 ≤ hbmTop →
      burnDescBad d (grpRule (l.words.getD 0 0)) l.level = false → d.rnd ≠ 4 ∨ b.streams.contains d.stream = false →
      (d.count = 0 ∨ (l.updates = false ∧ l.stale = false) → ∃ t,
        exec (.burnerRecord tr none) s = .next t ∧ (t.burnerOf tr).run = none ∧
          (t.seqOf tr 2).next = (s.seqOf tr 2).next + 1 ∧ ∀ x, memByte t x = memByte s x) ∧
      (d.count ≠ 0 → l.updates = true ∨ l.stale = true → ∃ t r,
        exec (.burnerRecord tr none) s = .next t ∧ (t.burnerOf tr).run = some r ∧ r.whole = true ∧ r.d = d ∧
          r.updating = l.updates ∧ r.idx = (s.seqOf tr 2).next ∧ (t.seqOf tr 2).next = (s.seqOf tr 2).next + 1 ∧
          t.rd Reg.BN_STAT_PHASE tr = 3 ∧ t.rd Reg.BN_STAT_BUSY tr = 1 ∧ t.rd Reg.BN_PROGRESS_ELEM tr = d.count ∧
          (l.updates = false → t.rd Reg.WC_REWRITES_COUNT tr =
            satAdd Reg.WC_REWRITES_COUNT.len (s.rd Reg.WC_REWRITES_COUNT tr) 1)) ∧
      (∀ e, e < d.count → l.updates = true ∨ l.stale = true → s.rd Reg.BN_FAULT_CODE tr = 0 →
        let at_ := e / recElems (grpRule (l.words.getD 0 0)) * recElems (grpRule (l.words.getD 0 0))
        ∃ t r, exec (.burnerRecord tr (some e)) s = .next t ∧ (t.burnerOf tr).run = some r ∧ r.whole = false ∧
          r.pos = at_ ∧ t.rd Reg.BN_FAULT_CODE tr = 4 ∧ t.rd Reg.BN_STAT_PHASE tr = 5 ∧
          t.rd Reg.BN_PROGRESS_ELEM tr = at_))

/-- R329 to R334, R337, R338: An updating record whose ranges do not meet leaves every state record as updRecord gives
it from the record and the gradients as they stood, and every byte outside the state, the working copy and its scales
as before. -/
def Obligations.BurnerUpdatesEveryRecord : Prop :=
  ∀ (s : State) (tr : Train) (l : GroupLatch), burnerDue s tr = true → (s.burnerOf tr).run = none →
    (∀ x n, Readable s x n) →
    let f := burnFields (nextRecord s tr 2)
    let b := s.burnerOf tr
    let a := s.rd Reg.BN_DESC_BASE_BASE tr * 256 + 32 * f.desc
    let d := parseBurnDesc (memBytes s a 32)
    let rule := grpRule (l.words.getD 0 0)
    let bits := fmtBits (l.level % 16)
    let apart := fun (x n y m : Nat) => x + n ≤ y ∨ y + m ≤ x
    let size := recBytes rule * (d.count / recElems rule)
    let copy := packedBytes bits d.count
    let scales := if l.level / 16 = 0 then 0 else ceilDiv d.count (blockSize (l.level / 16))
    Table.find f.group b.latched = some l → l.invalid = false → l.noFormat = false → l.updates = true →
    a + 32 ≤ hbmTop → burnDescBad d rule l.level = false → d.count ≠ 0 →
    d.rnd ≠ 4 ∨ b.streams.contains d.stream = false →
    rule ≠ 3 → apart d.state size d.grad (4 * d.count) → apart d.state size d.wcopy copy → apart d.state size d.wscale scales →
    apart d.grad (4 * d.count) d.wcopy copy → apart d.grad (4 * d.count) d.wscale scales →
    ∃ t, exec (.burnerRecord tr none) s = .next t ∧
      (∀ i, i < d.count / recElems rule →
        memBytes t (d.state + recBytes rule * i) (recBytes rule) =
          (updRecord l.words (ratesOf (l.consts.getD [])) (stateWord b f.group 16)
            (memBytes s (d.state + recBytes rule * i) (recBytes rule))
            (unpackBits 32 (recElems rule) (memBytes s (d.grad + 4 * recElems rule * i) (4 * recElems rule)))).1) ∧
      (∀ x, ¬ (d.state ≤ x ∧ x < d.state + size) → ¬ (d.wcopy ≤ x ∧ x < d.wcopy + copy) →
        ¬ (d.wscale ≤ x ∧ x < d.wscale + scales) → memByte t x = memByte s x)

/-- R321, R322, R326 to R328, R339, R342, R343: The reel computes the first waiting group's constants from its latched
words; a finished record frees the burner, marks its working copy and queues its signal; FAULT_CLR clears BN_FAULT
unless a fault shares its cycle; the group window reads the selected word, a legal write lands in the shadow word or
the state word, an illegal one raises WR_ILLEGAL, and the index moves. -/
def Obligations.BurnerCommandsComplete : Prop :=
  (∀ (s : State) (tr : Train) (g : Nat) (rest : List Nat) (l : GroupLatch), s.islandsRun = true →
    (s.burnerOf tr).rates = g :: rest → Table.find g (s.burnerOf tr).latched = some l →
    let b := s.burnerOf tr
    let cs := reelConsts b.lrBase l.words (stateWord b g 16) (stateWord b g 17) (stateWord b g 18) (stateWord b g 19)
    ∃ t, exec (.reelCompute tr) s = .next t ∧ (t.burnerOf tr).rates = rest ∧
      Table.find g (t.burnerOf tr).latched = some { l with consts := some cs } ∧
      Table.find g (t.burnerOf tr).shown = some cs ∧ t.rd Reg.RL_STEP_STEP tr = b.step % 2 ^ 32) ∧
  (∀ (s : State) (tr : Train) (r : BurnRun), (s.burnerOf tr).run = some r → r.whole = true → s.islandsRun = true →
    ∃ t, exec (.burnerRecordDone tr) s = .next t ∧ (t.burnerOf tr).run = none ∧ t.rd Reg.BN_STAT_BUSY tr = 0 ∧
      t.rd Reg.BN_STAT_PHASE tr = (if progCount s tr 2 ≤ (s.seqOf tr 2).next then 4 else 0) ∧
      (∀ l, Table.find r.group (s.burnerOf tr).latched = some l →
        stateWord (t.burnerOf tr) r.group 20 = 2 ^ 31 + l.level ∧ stateWord (t.burnerOf tr) r.group 21 = l.scale) ∧
      (∀ g, r.sig = some g → (t.burnerOf tr).signals = (s.burnerOf tr).signals ++ [(r.kite, g)])) ∧
  (∀ (s : State) (tr : Train), exec (.bnFaultClr tr true) s = .next s ∧
    ∃ t, exec (.bnFaultClr tr false) s = .next t ∧ t.rd Reg.BN_FAULT_CODE tr = 0 ∧
    t.rd Reg.BN_FAULT_RECORD tr = 0) ∧
  (∀ (s : State) (tr : Train), s.rd Reg.BN_GSEL_WORD tr < 24 →
    let g := s.rd Reg.BN_GSEL_GROUP tr
    let w := s.rd Reg.BN_GSEL_WORD tr
    let moved := fun (t : State) => s.rd Reg.BN_GSEL_AUTO_INC tr = 1 →
      t.rd Reg.BN_GSEL_WORD tr = (if w = 23 then 0 else w + 1) ∧
      t.rd Reg.BN_GSEL_GROUP tr = (if w = 23 then (g + 1) % 256 else g)
    (∃ t, exec (.bnGwin tr .read) s = .next t ∧ moved t ∧ t.out = s.out ++ [.word
      (if 16 ≤ w then stateWord (s.burnerOf tr) g w
       else if s.rd Reg.BN_GSEL_BANK tr = 1 then s.shadowWord (groupKey tr g w) else s.liveWord (groupKey tr g w))]) ∧
    (∀ v : Word, gwinWritable s tr v.toNat = true →
      (w < 16 → s.step.armed = none → s.step.commitAt = [] → ∃ t, exec (.bnGwin tr (.write v)) s = .next t ∧ moved t ∧
        t.shadowWord (groupKey tr g w) = v.toNat ∧ t.burner = s.burner) ∧
      (16 ≤ w → ∃ t, exec (.bnGwin tr (.write v)) s = .next t ∧ moved t ∧
        stateWord (t.burnerOf tr) g w = v.toNat ∧ t.shadow = s.shadow)) ∧
    (∀ v : Word, gwinWritable s tr v.toNat = false → ∃ t, exec (.bnGwin tr (.write v)) s = .next t ∧
      Pends t ⟨.burner, 0⟩ tr ∧ t.burner = s.burner ∧ t.shadow = s.shadow))

/-- R390 to R396: The best pending source is claimed for its core and shown 10 ticks on, or nothing changes; EOI of
the claimed source ends it and pends it again while its level holds, any other is counted as stray; EC_CORE takes its
mask and drops the claims of disabled cores; a timer pends its source and stops or moves its compare; a pin's level is
taken after its glitch filter, with its edge counted and its source pended. -/
def Obligations.EventDeliveryCompletes : Prop :=
  (∀ (s : State) (n c : Nat), bestSource s = some n → coreFor s n = some c →
    ∃ t, exec .ecDeliver s = .next t ∧ bit1024 t.ec.pend n = false ∧ bit1024 t.ec.active n = true ∧
      Table.find c t.ec.claims = some { source := n, shownAt := s.tick + 10 } ∧ t.regs = s.regs) ∧
  (∀ s : State, bestSource s = none → exec .ecDeliver s = .next s) ∧
  (∀ (s : State) (c : Core) (n : Fin 1024),
    (claimShown s c = some n.val → ∃ t, exec (.ecEoi c n) s = .next t ∧ Table.find c.val t.ec.claims = none ∧
      bit1024 t.ec.active n = false ∧
      ((s.srcCfg n).level = true → asserted s n = true → bit1024 t.ec.pend n = true)) ∧
    (claimShown s c ≠ some n.val → ∃ t, exec (.ecEoi c n) s = .next t ∧ t.ec.claims = s.ec.claims ∧
      t.ec.active = s.ec.active ∧ Pends t Ev.eventCtl_STRAY_EOI ∧
      t.rd Reg.STRAY_EOI_COUNT = satAdd Reg.STRAY_EOI_COUNT.len (s.rd Reg.STRAY_EOI_COUNT) 1)) ∧
  (∀ (s : State) (v : Word), ∃ t, exec (.ecCore v) s = .next t ∧ t.rd Reg.EC_CORE_CORE_EN = v.toNat % 16 ∧
    ∀ c : Core, v.getLsbD c = false → Table.find c.val t.ec.claims = none) ∧
  (∀ (s : State) (i : Fin 16), canTimer s i = true → s.pwr.rails = true →
    let p := s.rd Reg.EC_TMR_PERIOD_PERIOD 0 i
    ∃ t, exec (.ecTimer i) s = .next t ∧ t.tick = timerCmp s i ∧ bit1024 t.ec.pend (752 + i) = true ∧
      (p = 0 → t.rd Reg.EC_TMR_EN_EN 0 i = 0 ∧ timerCmp t i = timerCmp s i) ∧
      (p ≠ 0 → t.rd Reg.EC_TMR_EN_EN 0 i = 1 ∧ timerCmp t i = (timerCmp s i + p) % 2 ^ 64)) ∧
  (∀ (s : State) (p : Fin 3) (level : Bool) (cycles : Nat),
    (level = (s.pin p).filtered → exec (.pinInput p level cycles) s = .next s) ∧
    (level ≠ (s.pin p).filtered → cycles < (s.srcCfg (736 + p)).glitch →
      ∃ t, exec (.pinInput p level cycles) s = .next t ∧ t.pin p = s.pin p ∧ Pends t Ev.eventCtl_GLITCH_REJ ∧
        t.rd Reg.GLITCH_REJ_COUNT = satAdd Reg.GLITCH_REJ_COUNT.len (s.rd Reg.GLITCH_REJ_COUNT) 1) ∧
    (level ≠ (s.pin p).filtered → (s.srcCfg (736 + p)).glitch ≤ cycles →
      ∃ t, exec (.pinInput p level cycles) s = .next t ∧ (t.pin p).filtered = level ∧
        t.rd Reg.PIN_EDGES_COUNT 0 p = (if level = (s.srcCfg (736 + p)).pol then
          satAdd Reg.PIN_EDGES_COUNT.len (s.rd Reg.PIN_EDGES_COUNT 0 p) 1 else s.rd Reg.PIN_EDGES_COUNT 0 p) ∧
        (level = (s.srcCfg (736 + p)).pol → bit1024 s.ec.active (736 + p) = false →
          bit1024 t.ec.pend (736 + p) = true)))

/-- R384 to R387, R389, R392: A write of a page's pending bits leaves a bit pending when it is written 1 or raised at
the same time, and clears the others on pages whose bits follow no level; EC_PEND sets driven sources and clears edge
sources; EC_CFG reads and writes the selected source's configuration, an illegal write raising WR_ILLEGAL, and moves
the selection. -/
def Obligations.EventWritesComplete : Prop :=
  (∀ (s : State) (page v raised : Word) (p : Page), reachPage s page.toNat = some p →
    ∃ t, exec (.evtPend page v raised) s = .next t ∧
      (∀ b, b < 32 → v.getLsbD b = true ∨ b < eventCount p.kind ∧ raised.getLsbD b = true →
        (t.hdr p.kind p.inst).pend.getLsbD b = true) ∧
      (p.kind ≠ .cmdEngine → p.kind ≠ .trace → ∀ b, (t.hdr p.kind p.inst).pend.getLsbD b = true →
        v.getLsbD b = true ∨ b < eventCount p.kind ∧ raised.getLsbD b = true)) ∧
  (∀ (s : State) (i : Fin 32) (v : Word), ∃ t, exec (.ecPend i v) s = .next t ∧ t.ec.active = s.ec.active ∧
    ∀ b, b < 32 →
      (v.getLsbD b = true → driven (32 * i + b) = true → bit1024 t.ec.pend (32 * i + b) = true) ∧
      (v.getLsbD b = false → (s.srcCfg (32 * i + b)).level = false → 32 * i + b ≠ 723 →
        bit1024 t.ec.pend (32 * i + b) = false)) ∧
  (∀ s : State, let n := s.rd Reg.EC_SEL_SRC
    let moved := fun (t : State) => t.rd Reg.EC_SEL_SRC =
      if s.rd Reg.EC_SEL_AUTO_INC = 1 then (n + 1) % 1024 else n
    (∃ t, exec (.ecCfg .read) s = .next t ∧ t.out = s.out ++ [.word (cfgWord s n)] ∧ moved t) ∧
    (∀ v : Word, cfgOk n v.toNat = true → ∃ t, exec (.ecCfg (.write v)) s = .next t ∧
      t.srcCfg n = cfgOf s n v.toNat ∧ moved t) ∧
    (∀ v : Word, cfgOk n v.toNat = false → ∃ t, exec (.ecCfg (.write v)) s = .next t ∧ t.ec.cfg = s.ec.cfg ∧
      Pends t ⟨.eventCtl, 0⟩))

/-- R400 to R404, R406, R409: A hung kite is FAILED and STOP goes up the seal tree; REPLACE is refused without a free
ballast kite, planned while a plan runs the kite, and else done at once; a failed core loses its role and is disabled;
the standby takes the role over; a shed phase lowers the effective cap; PLAN_UE_DONE clears PLAN_UE once what was lost
can be read. -/
def Obligations.RecoveryCommandsComplete : Prop :=
  (∀ (s : State) (k : Kite), canHang s k = true → s.slotOf k < 136 →
    ∃ t, exec (.kiteHang k) s = .next t ∧ t.rd Reg.KITE_STATE_STATE (s.slotOf k) = 8 ∧
      Pends t Ev.trainCtl_KITE_FAILED (s.slotOf k / 17) ∧
      (s.step.isSealed = false → Sends s t 1 s.sealParent (.stop s.self s.stepNum))) ∧
  (∀ (s : State) (tr : Train) (i : Fin 16), ballastSlot s tr = none →
    ∃ t, exec (.replace tr i) s = .next t ∧ Pends t ⟨.trainCtl, 0⟩ tr ∧
      t.rd Reg.TRN_KMAP_SLOT tr i = s.rd Reg.TRN_KMAP_SLOT tr i) ∧
  (∀ (s : State) (tr : Train) (i : Fin 16) (n : Nat), ballastSlot s tr = some n → s.planRuns = true →
    partitionKite s (16 * tr + i) = false →
    exec (.replace tr i) s =
      .next { s with recov := { s.recov with planned := s.recov.planned ++ [(16 * tr.val + i.val, n)] } }) ∧
  (∀ (s : State) (tr : Train) (i : Fin 16) (n : Nat), ballastSlot s tr = some n → n < 136 →
    s.planRuns = false ∨ partitionKite s (16 * tr + i) = true →
    ∃ t, exec (.replace tr i) s = .next t ∧ t.rd Reg.TRN_KMAP_SLOT tr i = n % 17 ∧
      t.rd Reg.KITE_STATE_STATE n = 1 ∧ t.rd Reg.TRN_BALLAST_USED tr = 1 ∧ Pends t Ev.trainCtl_KITE_REPLACED tr ∧
      (s.slotOf (16 * tr + i) < 136 → s.slotOf (16 * tr + i) ≠ n →
        t.rd Reg.KITE_STATE_STATE (s.slotOf (16 * tr + i)) = 8)) ∧
  (∀ (s : State) (c : Core), s.rd Reg.CORE_STAT_STATE c ≠ 4 →
    ∃ t, exec (.coreFailure c) s = .next t ∧ t.rd Reg.CORE_STAT_STATE c = 4 ∧ t.rd Reg.CORE_STAT_ROLE c = 15 ∧
      bit (t.rd Reg.EC_CORE_CORE_EN) c = false ∧ Pends t Ev.core_CORE_FAILED c) ∧
  (∀ (s : State) (sb : Core) (r : Nat), s.recov.role = some (sb.val, r) →
    ∃ t, exec .roleTakeover s = .next t ∧ t.rd Reg.CORE_STAT_ROLE sb = r % 16 ∧ t.rd Reg.CORE_STAT_STATE sb = 1 ∧
      bit (t.rd Reg.EC_CORE_CORE_EN) sb = true ∧ t.recov.role = none ∧ Pends t Ev.core_HANDOVER_DONE sb) ∧
  (∀ s : State, s.rd Reg.PHASES_SHED < s.rd Reg.PHASES_TOTAL → s.rd Reg.PHASES_SHED < 255 →
    ∃ t, exec .phaseShed s = .next t ∧ t.rd Reg.PHASES_SHED = s.rd Reg.PHASES_SHED + 1 ∧
      t.rd Reg.PHASES_EFF_CAP = effCap s (s.rd Reg.PHASES_SHED + 1) % 2 ^ 16 ∧ Pends t Ev.thermal_PHASE_SHED ∧
      (1 ≤ s.rd Reg.PHASES_SHED → t.rd Reg.THERM_STAT_PEAK_LAPSED = 1)) ∧
  (∀ s : State, s.recov.pieces = [] ∨ (∀ x n, Readable s x n) →
    ∃ t, exec .planUeDone s = .next t ∧ t.rd Reg.RECOV_STAT_PLAN_UE = 0 ∧ t.recov.pieces = [])

/-- R427, R429 to R431, R434, R435: HAUL arms the cut at its lead, queues its message on every line that is up when
asked, and is counted when a haul-down is already past arming; a haul message is dropped when seen, arms its cut and
goes on over the other lines when it is for this root, late ones at 4 ticks on, and is counted for another; the cut
stops the lines and sends markers; a marker ends its line's capture once its last flit is in; the timeout leaves the
open lines in HD_LINES_OPEN. -/
def Obligations.HaulCommandsComplete : Prop :=
  (∀ (s : State) (fabric all : Bool),
    let lead := if fabric then s.rd Reg.HD_CTL_LEAD_FAB else s.rd Reg.HD_CTL_LEAD_CHIP
    let root := if fabric && all then 0xFFF else s.sealRoot
    (s.rd Reg.HD_STAT_STATE = 0 → s.tick + lead < 2 ^ 64 → ∃ t, exec (.haul fabric all) s = .next t ∧
      t.rd Reg.HD_STAT_STATE = 1 ∧ t.rd64 Reg.HD_CUT_LO Reg.HD_CUT_HI = s.tick + lead ∧ t.hd.root = root ∧
      t.rd Reg.HD_CAUSE_CAUSE = 0 ∧ t.out = s.out ∧ (fabric = true → ∀ l ∈ s.linesUp, Queued t l
        (msgFlit 1 (16 * s.self + 8) (16 * s.rd Reg.NBR_PEER_DEV 0 l + 8) (.haul (s.tick + lead) s.self root 0)))) ∧
    (2 ≤ s.rd Reg.HD_STAT_STATE → exec (.haul fabric all) s = .next (s.bump Reg.HAULS_IGNORED_COUNT))) ∧
  (∀ (s : State) (l : LineNo) (t : Tick) (origin root : Dev) (cause : Fin 16),
    (s.hd.seen.contains (origin.val, t) = true → exec (.haulMsg l t origin root cause) s = .next s) ∧
    (s.hd.seen.contains (origin.val, t) = false →
      (forThisRoot s root = true → s.rd Reg.HD_STAT_STATE = 0 → s.tick ≤ t → t < 2 ^ 64 →
        ∃ u, exec (.haulMsg l t origin root cause) s = .next u ∧ u.rd Reg.HD_STAT_STATE = 1 ∧
          u.rd64 Reg.HD_CUT_LO Reg.HD_CUT_HI = t ∧ u.rd Reg.HD_CAUSE_CAUSE = 2 ∧
          u.rd Reg.HD_STAT_ORIGIN = origin ∧
          ∀ m ∈ s.linesUp, m ≠ l.val → Queued u m
            (msgFlit 1 (16 * s.self + 8) (16 * s.rd Reg.NBR_PEER_DEV 0 m + 8) (.haul t origin root cause))) ∧
      (forThisRoot s root = true → s.rd Reg.HD_STAT_STATE = 0 → t < s.tick → s.rd Reg.HD_TRIP_EVT_EN = 0 →
        s.tick + 4 < 2 ^ 64 →
        ∃ u, exec (.haulMsg l t origin root cause) s = .next u ∧ u.rd Reg.HD_STAT_STATE = 1 ∧
          u.rd64 Reg.HD_CUT_LO Reg.HD_CUT_HI = s.tick + 4 ∧ u.rd Reg.HD_STAT_LATE = 1 ∧
          Pends u Ev.haulDown_LATE_CUT ∧
          u.rd Reg.LATE_CUTS_COUNT = satAdd Reg.LATE_CUTS_COUNT.len (s.rd Reg.LATE_CUTS_COUNT) 1) ∧
      (forThisRoot s root = false → ∃ u, exec (.haulMsg l t origin root cause) s = .next u ∧
        u.rd Reg.HD_STAT_STATE = s.rd Reg.HD_STAT_STATE ∧
        u.rd Reg.HAUL_OTHER_COUNT = satAdd Reg.HAUL_OTHER_COUNT.len (s.rd Reg.HAUL_OTHER_COUNT) 1))) ∧
  (∀ s : State, s.rd Reg.HD_STAT_STATE = 1 →
    ∃ t, exec .haulCut s = .next t ∧ t.rd Reg.HD_STAT_STATE = (if s.linesUp = [] then 3 else 2) ∧
      t.hd.captures = s.linesUp.map (fun l => (l, none)) ∧ Pends t Ev.haulDown_HAUL_CUT ∧
      t.rd Reg.HAULS_COUNT = satAdd Reg.HAULS_COUNT.len (s.rd Reg.HAULS_COUNT) 1 ∧
      ∀ l ∈ s.linesUp, (t.line l).link = (s.line l).link ++ [BitVec.ofNat 8 4 ::
        (leBytes 8 (cutTick s) ++ leBytes 2 (((s.line l).txSeq + 4095) % 4096))]) ∧
  (∀ (s : State) (l : LineNo) (t : Tick) (last : Fin 4096), (Table.find l.val s.hd.captures).isSome = true →
    (seqReached (s.line l) last = true → ∃ u, exec (.cutMarker l t last) s = .next u ∧
      Table.find l.val u.hd.captures = none ∧
      (s.rd Reg.HD_STAT_STATE = 2 → u.hd.captures = [] → u.rd Reg.HD_STAT_STATE = 3)) ∧
    (seqReached (s.line l) last = false → ∃ u, exec (.cutMarker l t last) s = .next u ∧
      Table.find l.val u.hd.captures = some (some last.val) ∧ u.regs = s.regs)) ∧
  (∀ s : State, s.rd Reg.HD_STAT_STATE = 2 → s.hd.captures ≠ [] →
    ∃ t, exec .markTimeout s = .next t ∧ t.rd Reg.HD_STAT_STATE = 3 ∧ t.hd.captures = [] ∧
      t.rd Reg.HD_STAT_INCOMPLETE = 1 ∧ Pends t Ev.haulDown_MARK_TIMEOUT ∧
      ∀ l : LineNo, (Table.find l.val s.hd.captures).isSome = true → bit (t.rd Reg.HD_LINES_OPEN_LINES) l = true)

/-- R436 to R441: SCAN_DONE leaves STATE HALTED and the region header in the debug region; a legal dump copies the
kite's scratchpad to its slot and no other byte changes, an illegal one raises WR_ILLEGAL; a release is armed and
queued on the lines that are up, or refused; its tick resumes the islands with armed step ticks shifted by D, which is
the model's reading for device-local state (log 55); ABANDON drops the plan, a weight load, a validation and
everything that ran, or is refused. -/
def Obligations.HaltCommandsComplete : Prop :=
  (∀ s : State, s.rd Reg.HD_STAT_STATE = 3 → (∀ x n, Readable s x n) →
    ∃ t, exec .scanDone s = .next t ∧ t.rd Reg.HD_STAT_STATE = 4 ∧ Pends t Ev.haulDown_SCAN_DONE ∧
      ∀ i, i < 4096 → memByte t (debugBase s + i) = (regionHeader s).getD i 0) ∧
  (∀ (s : State) (v : Word), v.getLsbD 0 = true →
    (canDump s v.toNat = true → (∀ x n, Readable s x n) →
      let a := debugBase s + 96 * 2 ^ 20 + getBits v.toNat 16 5 * 2 ^ 23
      let bs := spBytes (s.kite (s.slotOf (getBits v.toNat 8 7))) 0 spTop
      ∃ t, exec (.hdDump v) s = .next t ∧ t.rd Reg.HD_STAT_DUMP_BUSY = 1 ∧
        ∀ b, memByte t b = if a ≤ b ∧ b < a + bs.length then bs.getD (b - a) 0 else memByte s b) ∧
    (canDump s v.toNat = false → ∃ t, exec (.hdDump v) s = .next t ∧ Pends t ⟨.haulDown, 0⟩ ∧
      t.rd Reg.HD_STAT_DUMP_BUSY = s.rd Reg.HD_STAT_DUMP_BUSY ∧ ∀ b, memByte t b = memByte s b)) ∧
  (∀ s : State, s.rd Reg.HD_STAT_DUMP_BUSY = 1 →
    ∃ t, exec .dumpDone s = .next t ∧ t.rd Reg.HD_STAT_DUMP_BUSY = 0) ∧
  (∀ (s : State) (fabric : Bool), let r := s.rd64 Reg.HD_REL_LO Reg.HD_REL_HI
    (s.rd Reg.HD_STAT_STATE = 4 → s.rd Reg.HD_STAT_DUMP_BUSY = 0 → tooEarly s r fabric = false →
      ∃ t, exec (.release fabric) s = .next t ∧ t.rd Reg.HD_STAT_STATE = 5 ∧ t.hd.resume = r ∧
        t.out = s.out ∧ (fabric = true → ∀ l ∈ s.linesUp, Queued t l
          (msgFlit 1 (16 * s.self + 8) (16 * s.rd Reg.NBR_PEER_DEV 0 l + 8) (.releaseAt r s.hd.root)))) ∧
    (s.rd Reg.HD_STAT_STATE ≠ 4 ∨ s.rd Reg.HD_STAT_DUMP_BUSY = 1 ∨ tooEarly s r fabric = true →
      ∃ t, exec (.release fabric) s = .next t ∧ Pends t ⟨.haulDown, 0⟩ ∧ t.hd.resume = s.hd.resume)) ∧
  (∀ (s : State) (l : LineNo) (r : Tick) (root : Dev),
    (s.hd.released.contains (root.val, r) = true → exec (.releaseMsg l r root) s = .next s) ∧
    (s.hd.released.contains (root.val, r) = false → forThisRoot s root = true → s.rd Reg.HD_STAT_STATE = 4 →
      ∃ t, exec (.releaseMsg l r root) s = .next t ∧ t.rd Reg.HD_STAT_STATE = 5 ∧
        t.hd.resume = (if s.tick ≤ r then r else s.tick + 4) ∧
        (∀ m ∈ s.linesUp, m ≠ l.val → Queued t m
          (msgFlit 1 (16 * s.self + 8) (16 * s.rd Reg.NBR_PEER_DEV 0 m + 8) (.releaseAt r root))) ∧
        (r < s.tick → t.rd Reg.LATE_RELEASES_COUNT =
          satAdd Reg.LATE_RELEASES_COUNT.len (s.rd Reg.LATE_RELEASES_COUNT) 1))) ∧
  (∀ s : State, s.rd Reg.HD_STAT_STATE = 5 → s.hd.resume < 2 ^ 64 →
    ∃ t, exec .releaseTick s = .next t ∧ t.rd64 Reg.HD_RESUMED_LO Reg.HD_RESUMED_HI = s.hd.resume ∧
      t.islandsRun = true ∧ (s.rd Reg.HD_TRIP_EVT_EN = 0 → t.rd Reg.HD_STAT_STATE = 0) ∧
      t.step.armed = s.step.armed.map (fun e => (e.1 + (s.hd.resume - cutTick s), e.2)) ∧
      Pends t Ev.haulDown_RELEASED) ∧
  (∀ s : State, s.rd Reg.HD_STAT_STATE = 4 →
    ∃ t, exec .abandon s = .next t ∧ t.plan = {} ∧ t.rd Reg.STEP_STAT_STATE = 0 ∧ t.rd Reg.PLAN_STAT_STATE = 0 ∧
      t.hd.captures = [] ∧ t.islandsRun = true ∧ t.sc.load = none ∧ t.rd Reg.SC_STAT_WL_BUSY = 0 ∧
      t.rd Reg.SC_STAT_V_BUSY = 0 ∧ (∀ tr : Train, (t.winchOf tr).runs = [] ∧
        (t.burnerOf tr).run = none) ∧ ∀ n : Slot, (t.kite n).arr = [] ∧ (t.kite n).vec = none) ∧
  (∀ s : State, s.rd Reg.HD_STAT_STATE ≠ 4 →
    ∃ t, exec .abandon s = .next t ∧ Pends t ⟨.haulDown, 0⟩ ∧ t.plan = s.plan)

/-- R423 to R426: A burst writes its 64 records of 32 bytes at the head of the train's ring, no other byte changes,
and the head advances or wraps; TR_CTL takes TRAINS, and a train newly traced starts at offset 0. -/
def Obligations.TraceCommandsComplete : Prop :=
  (∀ (s : State) (tr : Train), canBurst s tr = true → (∀ x n, Readable s x n) →
    s.rd Reg.TR_HEAD_OFFSET 0 tr < 2 ^ 22 →
    let a := ringBase s tr + s.rd Reg.TR_HEAD_OFFSET 0 tr
    let bs := (s.trace.getD tr []).flatMap traceBytes
    ∃ t, exec (.traceBurst tr) s = .next t ∧ t.trace.getD tr [] = [] ∧ bs.length = 2048 ∧
      t.rd Reg.TR_HEAD_OFFSET 0 tr = (if s.rd Reg.TR_HEAD_OFFSET 0 tr + 2048 < 2 ^ 22 then
        s.rd Reg.TR_HEAD_OFFSET 0 tr + 2048 else 0) ∧
      ∀ b, memByte t b = if a ≤ b ∧ b < a + 2048 then bs.getD (b - a) 0 else memByte s b) ∧
  (∀ (s : State) (v : Word), ∃ t, exec (.trCtl v) s = .next t ∧ t.rd Reg.TR_CTL_TRAINS = getBits v.toNat 24 8 ∧
    (s.rd Reg.TR_CTL_TRAINS = 0 → ∀ tr : Train, bit v.toNat (24 + tr) = true →
      t.rd Reg.TR_HEAD_OFFSET 0 tr = 0 ∧ t.rd Reg.TR_HEAD_WRAPPED 0 tr = 0 ∧ t.traceFull.contains tr.val = false))

/-- R375, R379, R380, R10, R14, R240: A read of a low word answers it and latches the high one; FREEZE holds the
page's counts as they stand or lets them go; SOFT_RESET is refused on a busy page and else leaves the page's host
fields at reset, and on most pages its counts and header too; a register write that is no command and no window leaves
each field offered at its value (in the shadow bank for RWC fields), or, where it is illegal, as before with
WR_ILLEGAL raised. -/
def Obligations.PageCommandsComplete : Prop :=
  (∀ s : State, exec .tbNowLo s = .next { s with
    hiLatch := s.hiLatch.put 0x30044 (s.tick / 2 ^ 32 % 2 ^ 32), out := s.out ++ [.word (s.tick % 2 ^ 32)] }) ∧
  (∀ (s : State) (addr : Word) (p : Page), lowAddr s addr.toNat = true → reachPage s addr.toNat = some p →
    let o := addr.toNat % 0x1000
    ∃ t, exec (.lowWordRead addr) s = .next t ∧ t.out = s.out ++ [.word (peekWord s p o)] ∧ t.regs = s.regs ∧
      Table.find (p.base + o + 4) t.hiLatch = some (if p.kind = .timeBase ∧ o = 0x40 then s.tick / 2 ^ 32 % 2 ^ 32
        else peekWord s p (o + 4))) ∧
  (∀ (s : State) (page : Word) (p : Page) (on : Bool), reachPage s page.toNat = some p →
    ∃ t, exec (.freeze page on) s = .next t ∧ (t.hdr p.kind p.inst).freeze = on ∧ t.regs = s.regs ∧
      ((s.hdr p.kind p.inst).freeze ≠ on → ∀ e ∈ countFields p.kind,
        Table.find (e.1.key p.inst e.2) t.frozen =
          if on = true then some (s.rd e.1 p.inst e.2) else none)) ∧
  (∀ (s : State) (page : Word) (p : Page), reachPage s page.toNat = some p → (busyPages s).contains p = true →
    exec (.softReset page) s = .next (refuse s p.kind p.inst)) ∧
  (∀ (s : State) (page : Word) (p : Page), reachPage s page.toNat = some p → (busyPages s).contains p = false →
    p.inst < pageCount p.kind → s.trust.applied = [] →
    ∃ t, exec (.softReset page) s = .next t ∧
      (∀ e ∈ hostFields p.kind, t.rd e.1 p.inst e.2 = e.1.reset p.inst e.2) ∧
      (p.kind ∉ [.lineCtl, .fabric, .mac, .trainCtl, .stackCtl, .eventCtl] →
        (∀ e ∈ countFields p.kind, t.rd e.1 p.inst e.2 = 0) ∧ (t.hdr p.kind p.inst).pend = 0 ∧
        (t.hdr p.kind p.inst).mask = BitVec.allOnes 32 ∧ (t.hdr p.kind p.inst).freeze = false)) ∧
  (∀ (s : State) (addr v : Word) (p : Page), addr.toNat % 4 = 0 → reachPage s addr.toNat = some p →
    p.inst < pageCount p.kind →
    let o := addr.toNat % 0x1000
    0x40 ≤ o → windowWrite s p o v.toNat = none → commandWrite s p o v.toNat false = none →
    ((judgeWord s p o v.toNat).whole = false → s.step.armed = none → s.step.commitAt = [] →
      ∃ t, exec (.registerWrite addr v) s = .next t ∧ ∀ e ∈ offered p o v.toNat,
        if fieldBad s e.1 p.inst e.2.1 e.2.2 = true then
          t.rd e.1 p.inst e.2.1 = s.rd e.1 p.inst e.2.1 ∧ Pends t ⟨p.kind, 0⟩ p.inst
        else if e.1.kind = .rwc then t.rdSh e.1 p.inst e.2.1 = e.2.2 ∧ t.rd e.1 p.inst e.2.1 = s.rd e.1 p.inst e.2.1
        else t.rd e.1 p.inst e.2.1 = e.2.2) ∧
    ((judgeWord s p o v.toNat).whole = true →
      ∃ t, exec (.registerWrite addr v) s = .next t ∧ Pends t ⟨p.kind, 0⟩ p.inst ∧
        ∀ e ∈ offered p o v.toNat, t.rd e.1 p.inst e.2.1 = s.rd e.1 p.inst e.2.1))

/-- R381, R382, R461, R462: HEALTH, HEALTH_REFRESH, REG_ADDR, SIDEBAND_READ_DONE, REG_GET, REG_PUT, DYNAMIC_ADDRESSING
and BOUNDARY_SCAN answer, while the rails stand where they need them, a next state with the bytes, status and register
effects their clauses list. The word that BOUNDARY_SCAN emits only names the instruction taken (log 71). -/
def Obligations.SidebandCommandsComplete : Prop :=
  (∀ s : State, s.pwr.rails = true → exec .health s = .next { s with out := s.out ++ [.readData (healthRead s)] }) ∧
  (∀ s : State, exec .healthRefresh s = .next { s with sb := { s.sb with health := healthBlock s, healthTick := s.tick } }) ∧
  (∀ (s : State) (addr : Word), s.pwr.rails = true → exec (.regAddr addr) s = .next
    { s with sb := { s.sb with asked := some addr.toNat, status := 0 } }) ∧
  (∀ (s : State) (a : Nat), s.sb.asked = some a →
    (∀ r, a % 4 = 0 → readReg s a = some r → ∃ t, exec .sidebandReadDone s = .next t ∧ t.sb.asked = none ∧
      t.sb.status = 1 ∧ t.sb.value = r.1) ∧
    (a % 4 ≠ 0 ∨ readReg s a = none → exec .sidebandReadDone s = .next
      { s with sb := { s.sb with asked := none, status := 2, value := 0 } })) ∧
  (∀ s : State, s.pwr.rails = true → exec .regGet s = .next { s with sb := { s.sb with refused := false }, out := s.out ++
    [.readData (leBytes 1 (if s.sb.refused then 3 else s.sb.status) ++ leBytes 4 s.sb.value)] }) ∧
  (∀ (s : State) (addr v : Word), s.pwr.rails = true →
    (s.rd Reg.CE_CTL_SB_WR_EN = 0 → exec (.regPut addr v) s = .next { s with sb := { s.sb with refused := true } }) ∧
    (∀ r, s.rd Reg.CE_CTL_SB_WR_EN ≠ 0 → addr.toNat % 4 = 0 → writeReg s addr.toNat v.toNat true = some r →
      ∃ t, exec (.regPut addr v) s = .next t ∧ t.regs = r.2.regs ∧ t.shadow = r.2.shadow ∧
        (r.1 = true → t.sb.refused = true))) ∧
  (∀ (s : State) (c : Instr), s.pwr.rails = false → c = .health ∨ c = .regGet ∨ (∃ a, c = .regAddr a) ∨
    (∃ a v, c = .regPut a v) ∨ (∃ a, c = .dynamicAddressing a) → exec c s = .next s) ∧
  (∀ (s : State) (addr : BitVec 7), s.pwr.rails = true → ∃ t, exec (.dynamicAddressing addr) s = .next t ∧ sideAddress t = addr.toNat) ∧
  (∀ (s : State) (i : TapInstr), exec (.boundaryScan i) s = .next { s with out := s.out ++ [.word (match i with
    | .idcode => 1
    | .sample => 2
    | .extest => if s.pwr.enabled then 0 else 3
    | _ => 0)] })

/-- R442, R443, R460, R461, R463 to R466: POWER_ENABLE, POWER_GOOD, POWER_OFF, DEVICE_RESET, RESET, REF_LOST,
REF_RETURN, POWER_EVAL and THERMAL_EVAL answer, where their guard holds, a next state with the fields their clauses
list: after power-good and a device reset every register field but the named ones is at its reset value; flash and
fuses stay; an input above 60 V and a die at 120 °C remove the rails. -/
def Obligations.PowerCommandsComplete : Prop :=
  (∀ s : State, s.pwr.enabled = false → exec .powerEnable s = .next { s with pwr := { s.pwr with enabled := true } }) ∧
  (∀ s : State, s.pwr.enabled = true → s.pwr.rails = false →
    ∃ t, exec .powerGood s = .next t ∧ t.tick = 0 ∧ t.pwr = {} ∧ t.hbm = [] ∧ t.trust.flash = s.trust.flash ∧
      t.trust.svnMin = s.trust.svnMin ∧ t.trust.userKey = s.trust.userKey ∧
      ∀ (f : Fld) (n i : Nat), f.valid n i = true → (∀ g ∈ [Reg.SEC_SVN_SVN_MIN, Reg.SEC_STAT_USER_KEY_SET,
        Reg.USER_KEY_HASH_HASH], ∀ m j,
        g.valid m j = true → f.key n i ≠ g.key m j) → t.rd f n i = f.reset n i) ∧
  (∀ s : State, ∃ t, exec .powerOff s = .next t ∧ t.pwr.rails = false ∧ t.pwr.enabled = false ∧ t.regs = [] ∧
    t.trust.flash = s.trust.flash ∧ t.trust.svnMin = s.trust.svnMin ∧ t.trust.userKey = s.trust.userKey) ∧
  (∀ (s : State) (t0 c : Nat), s.trust.resetAt = some (t0, c) →
    ∃ t, exec .deviceReset s = .next t ∧ t.tick = max s.tick t0 ∧ t.rd Reg.DEV_STAT_STATE = 0 ∧
      t.rd Reg.DEV_STAT_CAUSE = c % 16 ∧ t.rd Reg.TB_SYNC_LOADED = s.rd Reg.TB_SYNC_LOADED % 2 ∧
      t.trust.resetAt = none ∧ t.trust.flash = s.trust.flash ∧ t.trust.svnMin = s.trust.svnMin ∧
      t.trust.userKey = s.trust.userKey ∧
      ∀ (f : Fld) (n i : Nat), f.valid n i = true → (∀ g ∈ [Reg.SEC_SVN_SVN_MIN, Reg.SEC_STAT_USER_KEY_SET,
        Reg.USER_KEY_HASH_HASH, Reg.DEV_STAT_CAUSE, Reg.TB_SYNC_LOADED], ∀ m j,
        g.valid m j = true → f.key n i ≠ g.key m j) →
        t.rd f n i = f.reset n i) ∧
  (∀ (s : State) (key : BitVec 16) (side : Bool),
    (key = 0xD1E5 → shownStep s = 0 ∨ shownStep s = 5 → s.trust.resetAt = none → exec (.reset key side) s = .next
      { s with trust := { s.trust with resetAt := some (s.tick + 1000000, if side then 2 else 1) } }) ∧
    (key ≠ 0xD1E5 ∨ (shownStep s ≠ 0 ∧ shownStep s ≠ 5) → ∃ t, exec (.reset key side) s = .next t ∧
      t.trust = s.trust ∧ Pends t ⟨.devCtl, 0⟩)) ∧
  (∀ s : State, s.rd Reg.CLK_REF_REF_OK ≠ 0 → ∃ t, exec .refLost s = .next t ∧ t.rd Reg.CLK_REF_REF_OK = 0 ∧
    Pends t Ev.clocks_REF_LOST ∧ (s.rd Reg.TB_SYNC_LOCKED = 1 → t.rd Reg.TB_SYNC_LOCKED = 0)) ∧
  (∀ s : State, ∃ t, exec .refReturn s = .next t ∧ t.rd Reg.CLK_REF_REF_OK = 1) ∧
  (∀ (s : State) (vin iin w : Nat), s.pwr.rails = true →
    (6000 < vin → ∃ t, exec (.powerEval vin iin w) s = .next t ∧ t.pwr.rails = false ∧ t.regs = []) ∧
    (vin ≤ 6000 →
    let rs := (w :: s.pwr.readings).take 1000
    ∃ t, exec (.powerEval vin iin w) s = .next t ∧ t.pwr.readings = rs ∧
      t.rd Reg.PWR_AVG_AVG_100MS = min 65535 (rs.sum / rs.length) ∧ t.rd Reg.PWR_AVG_AVG_100US = min 65535 w ∧
      t.rd Reg.CLK_KITE_FREQ_MHZ = min t.pwr.powerClk t.pwr.thermClk % 2 ^ 16 ∧ t.pwr.thermClk = s.pwr.thermClk ∧
      (s.rd Reg.THERM_STAT_PEAK_LAPSED = 0 → s.rd Reg.PWR_CAPS_PEAK_CAP < w →
        t.pwr.powerClk = max 750 (s.pwr.powerClk - 25)))) ∧
  (∀ (s : State) (die coolIn coolOut : BitVec 8), s.pwr.rails = true →
    (120 ≤ die.toInt → ∃ t, exec (.thermalEval die coolIn coolOut) s = .next t ∧ t.pwr.rails = false) ∧
    (die.toInt < 120 → ∃ t, exec (.thermalEval die coolIn coolOut) s = .next t ∧
      t.rd Reg.THERM_DIE_MAX = die.toNat ∧ t.rd Reg.THERM_COOL_IN = coolIn.toNat ∧
      t.rd Reg.THERM_COOL_OUT = coolOut.toNat ∧ t.pwr.powerClk = s.pwr.powerClk ∧
      t.rd Reg.CLK_KITE_FREQ_MHZ = min t.pwr.powerClk t.pwr.thermClk % 2 ^ 16 ∧
      ((s.rd Reg.THERM_DIE_THROTTLE : Int) + 10 ≤ die.toInt → t.pwr.thermClk = 750) ∧
      ((s.rd Reg.THERM_DIE_THROTTLE : Int) ≤ die.toInt → die.toInt < s.rd Reg.THERM_DIE_THROTTLE + 10 →
        t.pwr.thermClk = max 750 (s.pwr.thermClk - 25))))

/-- R444, R445, R449 to R451, 12 R383, 07 R232: ROM_STAGE, VERIFY_STAGE, LOAD_STAGE, CONFIG_STAGE, HBM_STAGE and
DEV_READY, each at its own DEV_STAT.STATE, leave the next state, or RECOVERY with its error, with the measurements,
roles and events their clauses list. -/
def Obligations.BootStagesComplete : Prop :=
  (∀ s : State, s.pwr.rails = true → s.rd Reg.DEV_STAT_STATE = 0 →
    ∃ t, exec .romStage s = .next t ∧ t.rd Reg.DEV_STAT_STATE = 1 ∧ t.rd Reg.CLK_REF_REF_OK = 1 ∧
      t.mr 0 = shaNat (beBytes 32 (shaNat (beBytes 32 (s.mr 0) ++ beBytes 32 Config.romDigest.toNat)) ++
        beBytes 32 (Config.fuseDigest s.trust.svnMin s.trust.userKey).toNat)) ∧
  (∀ s : State, s.rd Reg.DEV_STAT_STATE = 1 → ∃ t, exec .verifyStage s = .next t ∧
    if imageError s (manifest s) = 0 then
      t.rd Reg.DEV_STAT_STATE = 2 ∧ t.rd Reg.SEC_SVN_SVN_RUN = leAt (manifest s) 8 2 ∧
        t.mr 1 = shaNat (beBytes 32 (s.mr 1) ++ beBytes 32 (shaNat (manifest s)))
    else
      t.rd Reg.DEV_STAT_STATE = 7 ∧ t.rd Reg.SEC_STAT_RECOVERY = 1 ∧
        t.rd Reg.SEC_STAT_BOOT_ERR = imageError s (manifest s)) ∧
  (∀ s : State, s.rd Reg.DEV_STAT_STATE = 2 →
    (segmentsOk s (manifest s) = true → ∃ t, exec (.loadStage false) s = .next t ∧ t.rd Reg.DEV_STAT_STATE = 3 ∧
      t.trust.running = loadImage (manifest s) ∧ ∀ c : Core, t.rd Reg.CORE_STAT_ROLE c = c ∧
        t.rd Reg.CORE_STAT_STATE c = 1 ∧ t.rd Reg.CORE_STAT_VERSION c = imageVer (manifest s) % 65536) ∧
    (segmentsOk s (manifest s) = false → ∃ t, exec (.loadStage false) s = .next t ∧ t.rd Reg.DEV_STAT_STATE = 7 ∧
      t.rd Reg.SEC_STAT_BOOT_ERR = 6) ∧
    (∃ t, exec (.loadStage true) s = .next t ∧ t.rd Reg.DEV_STAT_STATE = 7 ∧ t.rd Reg.SEC_STAT_RECOVERY = 1 ∧
      t.rd Reg.SEC_STAT_BOOT_ERR = 7)) ∧
  (∀ s : State, s.rd Reg.DEV_STAT_STATE = 3 → ∃ t, exec .configStage s = .next t ∧ t.rd Reg.DEV_STAT_STATE = 4 ∧
    t.trust.restored = true ∧ (s.trust.factory.regs = [] → t.rd Reg.DFI_STAT_STATE = userState s)) ∧
  (∀ (s : State) (hppr : List Nat), s.rd Reg.DEV_STAT_STATE = 4 →
    ∃ t, exec (.hbmStage hppr) s = .next t ∧ t.rd Reg.DEV_STAT_STATE = 5 ∧
      ∀ k : StackNo, t.rd Reg.HPPR_STEPS_COUNT k = min 1023 (hppr.getD k 0)) ∧
  (∀ s : State, s.rd Reg.DEV_STAT_STATE = 5 → s.rd Reg.FAB_STAT_DISC_STATE = 3 →
    ∃ t, exec .devReady s = .next t ∧ t.rd Reg.DEV_STAT_STATE = 6 ∧
      t.rd Reg.DEV_STAT_BOOT_MS = min 65535 ((s.tick - s.trust.since) / 1000000) ∧ Pends t Ev.devCtl_DEV_READY ∧
      Pends t Ev.timeBase_MEAS_DONE)

/-- R442, R446 to R448, R450, R451, R453, R455, R456: FL_DATA, ERASE, FL_COMMIT, FL_DONE, STAGE, SWAP, HANDOVER_DONE,
EXTEND, SVN_BURN, UKH_BURN, LOG_WIN, SERVICE_HOUR and ENTROPY_SAMPLE answer, where their guard holds, a next state
with the flash bytes, results, roles, measurements, fuses and counts their clauses list. -/
def Obligations.TrustCommandsComplete : Prop :=
  (∀ s : State, ∃ t v, exec (.flData .read) s = .next t ∧ t.out = s.out ++ [.word v] ∧
    t.rd Reg.FL_ADDR_ADDR = (flAddr s + 4) % 2 ^ 27 ∧ (fwBase ≤ flAddr s → v = leNat (flashRead s (flAddr s) 4))) ∧
  (∀ (s : State) (v : Word),
    (flashWritable s (flAddr s) = true → ∃ t, exec (.flData (.write v)) s = .next t ∧
      t.trust.op = some (.program (flAddr s) v.toNat) ∧ t.rd Reg.FL_STAT_BUSY = 1) ∧
    (flashWritable s (flAddr s) = false → ∃ t, exec (.flData (.write v)) s = .next t ∧ t.trust = s.trust ∧
      Pends t ⟨.flash, 0⟩)) ∧
  (∀ s : State, flashWritable s (flAddr s) = true → ∃ t, exec .erase s = .next t ∧
    t.trust.op = some (.erase (flAddr s / 65536)) ∧ t.rd Reg.FL_STAT_BUSY = 1) ∧
  (∀ (s : State) (seg : Fin 16), flashWritable s fwBase = true → ∃ t, exec (.flCommit seg) s = .next t ∧
    t.trust.op = some (.commit seg) ∧ t.rd Reg.FL_STAT_BUSY = 1) ∧
  (∀ (s : State) (op : FlashOp), s.trust.op = some op →
    (∃ t, exec (.flDone true) s = .next t ∧ t.trust.op = none ∧ t.rd Reg.FL_STAT_BUSY = 0 ∧
      t.rd Reg.FL_STAT_RESULT = 3 ∧ Pends t Ev.flash_FL_DONE) ∧
    ∃ t, exec (.flDone false) s = .next t ∧ t.trust.op = none ∧ t.rd Reg.FL_STAT_BUSY = 0 ∧
      t.rd Reg.FL_STAT_RESULT = (runFlash s op).1 ∧ Pends t Ev.flash_FL_DONE ∧
      (∀ k, op = .erase k → ∀ a, flashByte t a = if a / 65536 = k then Config.erasedByte else flashByte s a) ∧
      (∀ a v, op = .program a v → userBase ≤ a → ∀ b, flashByte t b =
        if a ≤ b ∧ b < a + 4 then (leBytes 4 v).getD (b - a) 0 else flashByte s b)) ∧
  (∀ s : State, s.rd Reg.FL_STAT_BUSY = 0 → s.rd Reg.FW_STAT_PHASE ≠ 2 →
    ∃ t, exec .stage s = .next t ∧ t.rd Reg.FL_STAT_RESULT = stageResult s (manifest s) ∧
      t.rd Reg.FW_STAT_PHASE = (if stageResult s (manifest s) = 0 then 1 else s.rd Reg.FW_STAT_PHASE) ∧
      t.trust.staged = (if stageResult s (manifest s) = 0 then some (loadImage (manifest s)) else s.trust.staged)) ∧
  (∀ (s : State) (sb : Nat), s.rd Reg.FW_STAT_PHASE = 1 ∨ s.rd Reg.FW_STAT_PHASE = 4 → standbyCore s = some sb →
    s.trust.staged.isSome = true →
    ∃ t, exec .swap s = .next t ∧ t.rd Reg.FW_STAT_PHASE = 2 ∧ t.rd Reg.CORE_STAT_STATE sb = 3) ∧
  (∀ (s : State) (sb old : Nat) (x : Image), standbyCore s = some sb → coreOfRole s s.trust.swapRole = some old →
    s.trust.staged = some x → canHandOver s sb = true → s.trust.swapRole < 3 →
    ∃ t, exec .handoverDone s = .next t ∧ t.rd Reg.CORE_STAT_ROLE sb = s.trust.swapRole ∧
      t.rd Reg.CORE_STAT_STATE sb = 1 ∧ t.rd Reg.CORE_STAT_VERSION sb = x.ver % 65536 ∧
      t.rd Reg.CORE_STAT_ROLE old = 3 ∧ Pends t Ev.core_HANDOVER_DONE sb ∧
      (s.trust.swapRole = 2 → t.rd Reg.FW_STAT_PHASE = 3 ∧ t.trust.running = x ∧ t.trust.staged = none ∧
        t.rd Reg.SEC_SVN_SVN_RUN = x.svn % 65536) ∧
      (s.trust.swapRole < 2 → t.trust.swapRole = s.trust.swapRole + 1 ∧ t.rd Reg.FW_STAT_MIXED = 1)) ∧
  (∀ s : State, ∃ t, exec .extend s = .next t ∧
    t.mr 7 = shaNat (beBytes 32 (s.mr 7) ++ beBytes 32 (extDigest s)) ∧
    t.rd Reg.LOG_COUNT_COUNT = (s.rd Reg.LOG_COUNT_COUNT + 1) % 2 ^ 32) ∧
  (∀ (s : State) (key : BitVec 16),
    (key = 0xD1E5 → s.trust.svnMin ≤ s.rd Reg.SEC_SVN_SVN_RUN → ∃ t, exec (.svnBurn key) s = .next t ∧
      t.trust.svnMin = s.rd Reg.SEC_SVN_SVN_RUN ∧ t.rd Reg.SEC_SVN_SVN_MIN = s.rd Reg.SEC_SVN_SVN_RUN % 2 ^ 16) ∧
    (key ≠ 0xD1E5 ∨ s.rd Reg.SEC_SVN_SVN_RUN < s.trust.svnMin → ∃ t, exec (.svnBurn key) s = .next t ∧
      t.trust = s.trust ∧ Pends t ⟨.security, 0⟩)) ∧
  (∀ (s : State) (key : BitVec 16),
    (key = 0xD1E5 → s.trust.userKey = none → ∃ t, exec (.ukhBurn key) s = .next t ∧
      t.trust.userKey = some (stagedKey s) ∧ t.rd Reg.SEC_STAT_USER_KEY_SET = 1) ∧
    (key ≠ 0xD1E5 ∨ s.trust.userKey ≠ none → ∃ t, exec (.ukhBurn key) s = .next t ∧
      t.trust = s.trust ∧ Pends t ⟨.security, 0⟩)) ∧
  (∀ s : State, ∃ t, exec .logWin s = .next t ∧ t.out = s.out ++ [.word (logWord s)] ∧
    (s.rd Reg.LOG_SEL_WORD < 11 → t.rd Reg.LOG_SEL_WORD = s.rd Reg.LOG_SEL_WORD + 1 ∧
      t.rd Reg.LOG_SEL_ENTRY = s.rd Reg.LOG_SEL_ENTRY) ∧
    (11 ≤ s.rd Reg.LOG_SEL_WORD → t.rd Reg.LOG_SEL_WORD = 0 ∧
      t.rd Reg.LOG_SEL_ENTRY = (s.rd Reg.LOG_SEL_ENTRY + 1) % 2 ^ 16)) ∧
  (∀ s : State, ∃ t, exec .serviceHour s = .next t ∧
    t.rd Reg.SVC_HOURS_COUNT = min (2 ^ 32 - 1) (s.rd Reg.SVC_HOURS_COUNT + 1) ∧
    t.trust.svcHeads.head? = some (t.rd Reg.SVC_HOURS_COUNT, t.rd Reg.WEAR_HOT_COUNT, s.recov.svc.length) ∧
    t.rd Reg.WEAR_HOT_COUNT = (if wearHot s = true then min (2 ^ 32 - 1) (s.rd Reg.WEAR_HOT_COUNT + 1)
      else s.rd Reg.WEAR_HOT_COUNT)) ∧
  (∀ s : State,
    (s.trust.passes + 1 < 1024 → ∃ t, exec (.entropySample true) s = .next t ∧
      t.trust.passes = s.trust.passes + 1 ∧ t.regs = s.regs) ∧
    (1024 ≤ s.trust.passes + 1 → ∃ t, exec (.entropySample true) s = .next t ∧ t.trust.passes = 0 ∧
      t.rd Reg.SEC_STAT_RNG_FAIL = 0) ∧
    (s.rd Reg.SEC_STAT_RNG_FAIL = 0 → ∃ t, exec (.entropySample false) s = .next t ∧ t.trust.passes = 0 ∧
      t.rd Reg.SEC_STAT_RNG_FAIL = 1 ∧ Pends t Ev.security_RNG_FAIL))
end

