-- ==== Sys2Proof/Laws/Bytes.lean ====
section
/-! SUPPORT. Little-endian fields: what a field reads is what was stored in it. -/

namespace Sys2Proof.Machine

@[simp] theorem leBytes_length (n v : Nat) : (leBytes n v).length = n := by
  induction n generalizing v with
  | zero => rfl
  | succ n ih => simp [leBytes, ih]

theorem leNat_leBytes (n v : Nat) : leNat (leBytes n v) = v % 256 ^ n := by
  induction n generalizing v with
  | zero => simp [leBytes, leNat, Nat.mod_one]
  | succ n ih =>
    rw [leBytes, leNat, ih, BitVec.toNat_ofNat, show (2 ^ 8 : Nat) = 256 from rfl, Nat.pow_succ,
      Nat.mul_comm (256 ^ n), Nat.mod_mul]

/-- A field at the front. -/
theorem leAt_front (n v : Nat) (r : Bytes) : leAt (leBytes n v ++ r) 0 n = v % 256 ^ n := by
  rw [leAt, List.drop_zero, List.take_left' (leBytes_length n v), leNat_leBytes]

/-- A field behind others. -/
theorem leAt_skip (a r : Bytes) (o n : Nat) (h : a.length ≤ o) : leAt (a ++ r) o n = leAt r (o - a.length) n := by
  rw [leAt, leAt, List.drop_append, List.drop_eq_nil_of_le h, List.nil_append]

end Sys2Proof.Machine
end

