-- ==== Sys2Proof/Laws/Table.lean ====
section
/-! SUPPORT. What the operations on sparse tables do: a read after a store, and the canonical form. -/

namespace Sys2Proof.Machine

variable {α : Type}

@[simp] theorem Table.find_nil (k : Nat) : Table.find k ([] : Table α) = none := rfl

theorem Table.find_put_same (t : Table α) (k : Nat) (v : α) : Table.find k (t.put k v) = some v := by
  induction t with
  | nil => simp [Table.put, Table.find]
  | cons e r ih =>
    obtain ⟨j, w⟩ := e
    unfold Table.put
    split
    · simp [Table.find]
    · split
      · simp [Table.find]
      · rename_i h
        simp [Table.find, h, ih]

theorem Table.find_put_ne {t : Table α} {k j : Nat} {v : α} (h : k ≠ j) :
    Table.find k (t.put j v) = Table.find k t := by
  induction t with
  | nil => simp [Table.put, Table.find, h]
  | cons e r ih =>
    obtain ⟨i, w⟩ := e
    unfold Table.put
    split
    · rw [Table.find, if_neg h]
    · split
      · rename_i e
        subst e
        simp [Table.find, h]
      · simp [Table.find, ih]

theorem Table.find_filter (t : Table α) (p : Nat → Bool) (k : Nat) :
    Table.find k (t.filter (fun e => p e.1)) = if p k = true then Table.find k t else none := by
  induction t with
  | nil => simp [Table.find]
  | cons e r ih =>
    obtain ⟨j, w⟩ := e
    by_cases hj : p j = true
    · by_cases hk : k = j
      · subst hk
        simp [List.filter, hj, Table.find]
      · simp [List.filter, hj, Table.find, hk, ih]
    · by_cases hk : k = j
      · subst hk
        simp [List.filter, hj, ih]
      · simp [List.filter, hj, Table.find, hk, ih]

theorem Table.find_erase (t : Table α) (j k : Nat) :
    Table.find k (t.erase j) = if k = j then none else Table.find k t := by
  unfold Table.erase
  rw [Table.find_filter t (fun i => i != j) k]
  by_cases h : k = j <;> simp [h]

theorem Table.getD_put_same (t : Table α) (k : Nat) (v d : α) : (t.put k v).getD k d = v := by
  unfold Table.getD
  rw [Table.find_put_same]
  rfl

theorem Table.getD_put_ne {t : Table α} {k j : Nat} {v d : α} (h : k ≠ j) : (t.put j v).getD k d = t.getD k d := by
  unfold Table.getD
  rw [Table.find_put_ne h]

/-- A store and the reads after it, of a memory whose unlisted cells read as `d`. -/
theorem Table.getD_store [DecidableEq α] (d : α) (t : Table α) (k j : Nat) (v : α) :
    (Table.store d t j v).getD k d = if k = j then v else t.getD k d := by
  unfold Table.store
  split
  · rename_i h
    unfold Table.getD
    rw [Table.find_erase]
    by_cases e : k = j <;> simp [e, h]
  · by_cases e : k = j
    · subst e
      simp [Table.getD_put_same]
    · simp [Table.getD_put_ne e, e]

theorem Table.getD_storeN_out [DecidableEq α] (d : α) (t : Table α) (j k : Nat) (vs : List α)
    (h : k < j ∨ j + vs.length ≤ k) : (Table.storeN d t j vs).getD k d = t.getD k d := by
  induction vs generalizing t j with
  | nil => rfl
  | cons v vs ih =>
    rw [Table.storeN, ih _ _ (by simp only [List.length_cons] at h; omega), Table.getD_store,
      if_neg (by simp only [List.length_cons] at h; omega)]

theorem Table.getD_storeN_in [DecidableEq α] (d : α) (t : Table α) (j i : Nat) (vs : List α) (h : i < vs.length) :
    (Table.storeN d t j vs).getD (j + i) d = vs[i] := by
  induction vs generalizing t j i with
  | nil => simp at h
  | cons v vs ih =>
    rw [Table.storeN]
    cases i with
    | zero =>
      rw [Table.getD_storeN_out _ _ _ _ _ (by omega), Table.getD_store]
      simp
    | succ i =>
      rw [show j + (i + 1) = j + 1 + i by omega, ih _ _ _ (by simpa using h)]
      simp

theorem Table.readN_getElem (d : α) (t : Table α) (k n i : Nat) (h : i < (Table.readN d t k n).length) :
    (Table.readN d t k n)[i] = t.getD (k + i) d := by
  induction n generalizing k i with
  | zero => simp [Table.readN] at h
  | succ n ih =>
    cases i with
    | zero => simp [Table.readN]
    | succ i =>
      simp only [Table.readN, List.getElem_cons_succ]
      rw [ih, show k + 1 + i = k + (i + 1) by omega]

@[simp] theorem Table.readN_length (d : α) (t : Table α) (k n : Nat) : (Table.readN d t k n).length = n := by
  induction n generalizing k with
  | zero => rfl
  | succ n ih => simp [Table.readN, ih]

/-! ### Keys rise -/

theorem Table.rising_cons {lo : Option Nat} {k : Nat} {v : α} {t : Table α} :
    Table.rising lo ((k, v) :: t) = true ↔ (∀ j, lo = some j → j < k) ∧ Table.rising (some k) t = true := by
  cases lo <;> simp [Table.rising]

theorem Table.rising_weaken {t : Table α} {lo : Option Nat} {k : Nat} (h : Table.rising (some k) t = true)
    (hl : ∀ j, lo = some j → j ≤ k) : Table.rising lo t = true := by
  cases t with
  | nil => rfl
  | cons e r =>
    obtain ⟨i, v⟩ := e
    rw [Table.rising_cons] at *
    exact ⟨fun j hj => Nat.lt_of_le_of_lt (hl j hj) (h.1 k rfl), h.2⟩

theorem Table.rising_put_above {t : Table α} {lo : Option Nat} {k : Nat} {v : α} (h : Table.rising lo t = true)
    (hl : ∀ j, lo = some j → j < k) : Table.rising lo (t.put k v) = true := by
  induction t generalizing lo with
  | nil => exact Table.rising_cons.2 ⟨hl, rfl⟩
  | cons e r ih =>
    obtain ⟨i, w⟩ := e
    have h' := Table.rising_cons.1 h
    unfold Table.put
    split
    · rename_i hk
      exact Table.rising_cons.2 ⟨hl, Table.rising_cons.2 ⟨fun j hj => by cases hj; exact hk, h'.2⟩⟩
    · split
      · rename_i hk
        subst hk
        exact Table.rising_cons.2 ⟨h'.1, h'.2⟩
      · exact Table.rising_cons.2 ⟨h'.1, ih h'.2 (fun j hj => by cases hj; omega)⟩

theorem Table.rising_put {t : Table α} {k : Nat} {v : α} (h : Table.rising none t = true) :
    Table.rising none (t.put k v) = true := Table.rising_put_above h (fun _ h => nomatch h)

theorem Table.rising_filter {t : Table α} {lo : Option Nat} {p : Nat × α → Bool} (h : Table.rising lo t = true) :
    Table.rising lo (t.filter p) = true := by
  induction t generalizing lo with
  | nil => exact h
  | cons e r ih =>
    obtain ⟨i, w⟩ := e
    have h' := Table.rising_cons.1 h
    rw [List.filter_cons]
    split
    · exact Table.rising_cons.2 ⟨h'.1, ih h'.2⟩
    · exact ih (Table.rising_weaken h'.2 (fun j hj => Nat.le_of_lt (h'.1 j hj)))

theorem Table.rising_erase {t : Table α} {k : Nat} (h : Table.rising none t = true) :
    Table.rising none (t.erase k) = true := Table.rising_filter h

theorem Table.rising_putAll {t u : Table α} (h : Table.rising none t = true) : Table.rising none (t.putAll u) = true := by
  unfold Table.putAll
  induction u generalizing t with
  | nil => exact h
  | cons e r ih => exact ih (Table.rising_put h)

/-! ### The canonical form of a memory -/

theorem Table.mem_put {t : Table α} {k : Nat} {v : α} {e : Nat × α} (h : e ∈ t.put k v) : e = (k, v) ∨ e ∈ t := by
  induction t with
  | nil => simpa [Table.put] using h
  | cons f r ih =>
    obtain ⟨j, w⟩ := f
    unfold Table.put at h
    split at h
    · simpa using h
    · split at h
      · rcases List.mem_cons.1 h with h | h
        · exact Or.inl h
        · exact Or.inr (List.mem_cons_of_mem _ h)
      · rcases List.mem_cons.1 h with h | h
        · exact Or.inr (by rw [h]; exact List.mem_cons_self)
        · rcases ih h with h | h
          · exact Or.inl h
          · exact Or.inr (List.mem_cons_of_mem _ h)

theorem Table.wf_store [DecidableEq α] {d : α} {t : Table α} {k : Nat} {v : α} (h : Table.wf d t = true) :
    Table.wf d (Table.store d t k v) = true := by
  unfold Table.wf at *
  rw [Bool.and_eq_true, List.all_eq_true] at *
  unfold Table.store
  split
  · exact ⟨Table.rising_erase h.1, fun e he => h.2 e (List.mem_filter.1 he).1⟩
  · rename_i hv
    refine ⟨Table.rising_put h.1, fun e he => ?_⟩
    rcases Table.mem_put he with rfl | he
    · simpa using hv
    · exact h.2 e he

theorem Table.wf_storeN [DecidableEq α] {d : α} {t : Table α} {k : Nat} {vs : List α} (h : Table.wf d t = true) :
    Table.wf d (Table.storeN d t k vs) = true := by
  induction vs generalizing t k with
  | nil => exact h
  | cons v vs ih => exact ih (Table.wf_store h)

theorem Table.wf_filter [DecidableEq α] {d : α} {t : Table α} {p : Nat × α → Bool} (h : Table.wf d t = true) :
    Table.wf d (t.filter p) = true := by
  unfold Table.wf at *
  rw [Bool.and_eq_true, List.all_eq_true] at *
  exact ⟨Table.rising_filter h.1, fun e he => h.2 e (List.mem_filter.1 he).1⟩

theorem Table.wf_foldl_store [DecidableEq α] {d : α} {t : Table α} {cs : List (Nat × α)} (h : Table.wf d t = true) :
    Table.wf d (cs.foldl (fun t c => Table.store d t c.1 c.2) t) = true := by
  induction cs generalizing t with
  | nil => exact h
  | cons c cs ih => exact ih (Table.wf_store h)

end Sys2Proof.Machine
end

