-- ==== Sys2Proof/Laws/Frame.lean ====
section
/-! SUPPORT. What a step may change, as a number: bit i of a footprint stands for part i of State (`Part.bit`), bit
32 + i for field i of `written`, the register fields that some operation writes by name; the bit of `Part.regs` stands
for any register. `Frame m s t` says that t is s outside the footprint m. One lemma per update of State, and the rules by
which frames compose; the lemmas `<name>_frame` say once what each operation of the model may change. -/

namespace Sys2Proof.Machine

/-- The bit of a part. -/
def Part.bit : Part → Nat
  | .pending => 0
  | .tick => 1
  | .regs => 2
  | .shadow => 3
  | .held => 4
  | .hiLatch => 5
  | .frozen => 6
  | .hdrs => 7
  | .ec => 8
  | .host => 9
  | .hbm => 10
  | .mem => 11
  | .kites => 12
  | .step => 13
  | .seqs => 14
  | .gov => 15
  | .fab => 16
  | .winch => 17
  | .burner => 18
  | .sc => 19
  | .recov => 20
  | .sb => 21
  | .tb => 22
  | .trust => 23
  | .pwr => 24
  | .hd => 25
  | .plan => 26
  | .trace => 27
  | .traceFull => 28
  | .out => 29
  | .fresh => 30

def written0 : List Fld :=
  [Reg.DEV_STAT_STATE, Reg.DEV_STAT_CAUSE, Reg.DEV_STAT_BOOT_MS, Reg.CLK_KITE_FREQ_MHZ, Reg.CLK_KITE_CAUSE,
   Reg.CLK_REF_REF_OK, Reg.CLK_REF_PLL_LOCK, Reg.PWR_IN_VIN, Reg.PWR_IN_IIN, Reg.PWR_AVG_AVG_100MS,
   Reg.PWR_AVG_AVG_100US, Reg.THERM_DIE_MAX, Reg.THERM_COOL_IN, Reg.THERM_COOL_OUT, Reg.THERM_STAT_PWR_LIMIT,
   Reg.THERM_STAT_THERM_LIMIT, Reg.THERM_STAT_PEAK_LAPSED, Reg.THERM_STAT_COOL_HOT, Reg.PHASES_SHED,
   Reg.PHASES_EFF_CAP, Reg.THROTTLE_TICKS_LO, Reg.THROTTLE_TICKS_HI, Reg.DFI_STAT_STATE, Reg.DFI_STAT_APPLIED,
   Reg.DFI_STAT_REFUSED, Reg.DFI_FIRST_REF_REASON, Reg.DFI_FIRST_REF_RECORD, Reg.DFI_OK_APPLIED,
   Reg.GOV_STAT_UFLOW_WATCH_OFF, Reg.GOV_STAT_DIVERGED, Reg.GOV_STAT_TABLE_PHASE, Reg.GOV_STAT_STATS_PHASE,
   Reg.GOV_EVAL_STEP_STEP, Reg.GOV_LAT_TICKS, Reg.GOV_DIGEST_DIGEST, Reg.UFW_CTL_UFW_EN, Reg.UFW_CTL_UFW_WIDEN,
   Reg.UFW_CTL_UFW_STREAK, Reg.UFW_CTL_UFW_THRESH, Reg.UFW_ALARMS_ALARMS, Reg.UFW_LAST_STEP, Reg.UFW_LAST_TAG,
   Reg.GOV_FIRES_COUNT, Reg.GOV_CHANGES_COUNT, Reg.GOV_BOUND_COUNT, Reg.GOV_BLOCKED_COUNT, Reg.GOV_LATE_COUNT,
   Reg.GOV_LAST_FIRE_RULE, Reg.GOV_LAST_FIRE_ACTION, Reg.GOV_LAST_FIRE_TAG, Reg.GOV_SV_IDX_WORD,
   Reg.GOV_RULE_W3_FIRES, Reg.PT_EPOCH_EPOCH, Reg.PT_PEND_PENDING, Reg.MW_COUNT_WINDOWS, Reg.WIN_DEFERRED_DEFERRED,
   Reg.PLAN_STAT_STATE, Reg.PLAN_STAT_REASON, Reg.PLAN_REJ_OFS_OFFSET, Reg.PLAN_CRC_CRC]

def written1 : List Fld :=
  [Reg.STEP_NUM_LO, Reg.STEP_NUM_HI, Reg.STEP_EPOCH_EPOCH, Reg.STEP_STAT_REPLAY_RUN, Reg.STEP_STAT_STATE,
   Reg.STEP_TICK_LO, Reg.STEP_TICK_HI, Reg.SEAL_TICK_LO, Reg.SEAL_TICK_HI, Reg.SEALS_COUNT, Reg.REPLAYS_COUNT,
   Reg.STEP_SLIPS_COUNT, Reg.RECOV_STAT_HANDED, Reg.RECOV_STAT_COVERING, Reg.RECOV_STAT_PLAN_UE,
   Reg.RECOV_STAT_LAST_RUNG, Reg.REC_COUNT_COUNT, Reg.RESTORED_COUNT, Reg.HANDOVERS_COUNT, Reg.SVC_HOURS_COUNT,
   Reg.WEAR_HOT_COUNT, Reg.FAB_STAT_DISC_STATE, Reg.FAB_STAT_LINES_UP, Reg.ROUTE_INDEX_INDEX, Reg.NO_ROUTE_COUNT,
   Reg.BAD_EP_COUNT, Reg.ORDER_DROPS_COUNT, Reg.STALE_DROPS_COUNT, Reg.PERSIST_HITS_COUNT, Reg.RANGE_DROPS_COUNT,
   Reg.NBR_VALID, Reg.NBR_PEER_ASSIGNED, Reg.NBR_PEER_DEV, Reg.NBR_PEER_LINE, Reg.NBR_PEER_DIST, Reg.EC_SEL_SRC,
   Reg.EC_CORE_CORE_EN, Reg.STRAY_EOI_COUNT, Reg.LATE_MASK_COUNT, Reg.GLITCH_REJ_COUNT, Reg.PIN_EDGES_COUNT,
   Reg.EC_TMR_CMP_LO_CMP, Reg.EC_TMR_CMP_HI_CMP, Reg.EC_TMR_EN_EN, Reg.CORE_STAT_ROLE, Reg.CORE_STAT_STATE,
   Reg.CORE_STAT_VERSION, Reg.SEC_STAT_RECOVERY, Reg.SEC_STAT_LOG_OVERFLOW, Reg.SEC_STAT_RNG_FAIL,
   Reg.SEC_STAT_USER_KEY_SET, Reg.SEC_STAT_BOOT_ERR, Reg.SEC_SVN_SVN_MIN, Reg.SEC_SVN_SVN_RUN, Reg.LOG_COUNT_COUNT,
   Reg.LOG_SEL_ENTRY, Reg.LOG_SEL_WORD, Reg.MR_EXT_DIGEST, Reg.ATT_COUNT_COUNT, Reg.USER_KEY_HASH_HASH]

def written2 : List Fld :=
  [Reg.FL_ADDR_ADDR, Reg.FL_STAT_BUSY, Reg.FL_STAT_RESULT, Reg.FW_STAT_PHASE, Reg.FW_STAT_MIXED,
   Reg.FW_STAT_STAGED_VER, Reg.SVC_STAT_SVC_FULL, Reg.SVC_STAT_SVC_LOST, Reg.PORT_STAT_LINK, Reg.PORT_STAT_FEC_LOCK,
   Reg.RX_FRAMES_COUNT, Reg.RX_FCS_ERR_COUNT, Reg.RX_FILTERED_COUNT, Reg.TX_FRAMES_COUNT, Reg.PAUSE_RX_COUNT,
   Reg.PFC_TX_COUNT, Reg.SC_STAT_PREEMPT, Reg.SC_STAT_PFC_ACTIVE, Reg.SC_STAT_WL_BUSY, Reg.SC_STAT_V_BUSY,
   Reg.SC_STAT_CAL_USED, Reg.SC_DSEL_WORD, Reg.SC_VRES_OK, Reg.SC_VRES_SLOT, Reg.SC_VRES_CODE, Reg.SC_VRES_LAYER,
   Reg.SC_REQS_COUNT, Reg.SC_OK_COUNT, Reg.SC_BUSY_COUNT, Reg.SC_BADS_COUNT, Reg.SC_FAULTS_COUNT, Reg.SC_RUNTS_COUNT,
   Reg.SC_LOST_COUNT, Reg.SWAP_SKIPS_COUNT, Reg.SC_HALTED_COUNT, Reg.SC_FAULT_KITE, Reg.SC_FAULT_SLOT,
   Reg.SC_FAULT_CODE, Reg.SC_SLOT_LIVE, Reg.SC_SLOT_SHADOW_OK, Reg.SC_SLOT_RETIRING, Reg.SC_SLOT_STALE,
   Reg.SC_SLOT_COST_C, Reg.SC_SLOT_VERSION, Reg.SC_LAT_COUNT, Reg.CE_EXP_X, Reg.EVT_NEXT_SEQ, Reg.CE_BAD_COUNT,
   Reg.CE_DUPS_COUNT, Reg.CE_WINDOW_COUNT, Reg.EVT_FWD_LOST_COUNT, Reg.BULK_LOST_COUNT, Reg.TB_SYNC_LOCKED,
   Reg.TB_SYNC_LOADED, Reg.TB_SYNC_MASTER, Reg.TB_SYNC_OFFSET, Reg.TB_MEAS_AT_LO, Reg.TB_MEAS_AT_HI,
   Reg.HD_STAT_STATE, Reg.HD_STAT_LATE]

def written3 : List Fld :=
  [Reg.HD_STAT_INCOMPLETE, Reg.HD_STAT_FABRIC, Reg.HD_STAT_DUMP_BUSY, Reg.HD_STAT_ORIGIN, Reg.HD_CAUSE_CAUSE,
   Reg.HD_CAUSE_SOURCE, Reg.HD_CUT_LO, Reg.HD_CUT_HI, Reg.HD_RESUMED_LO, Reg.HD_RESUMED_HI, Reg.HD_LINES_OPEN_LINES,
   Reg.HAULS_COUNT, Reg.HAULS_IGNORED_COUNT, Reg.HAUL_OTHER_COUNT, Reg.LATE_CUTS_COUNT, Reg.MARK_TIMEOUTS_COUNT,
   Reg.LATE_RELEASES_COUNT, Reg.TR_HEAD_WRAPPED, Reg.TR_HEAD_OFFSET, Reg.TR_DROPS_DROPS, Reg.TRN_KMAP_SLOT,
   Reg.TRN_BALLAST_USED, Reg.TRN_BALLAST_SLOT, Reg.TRN_KSTAT_FAILED, Reg.SPOOL_SPARE_WAY_DISABLED,
   Reg.SPOOL_SPARE_SPARE_USED, Reg.SP_HITS_LO, Reg.SP_HITS_HI, Reg.SP_MISSES_LO, Reg.SP_MISSES_HI,
   Reg.SP_WRITEBACKS_COUNT, Reg.LAST_DIRTY_DROPS_COUNT, Reg.LAST_ON_KEEP_COUNT, Reg.KEEP_DENIED_COUNT,
   Reg.SP_REFETCH_COUNT, Reg.REG_STALLS_STALLS, Reg.WN_STAT_BUSY, Reg.WN_STAT_PHASE, Reg.WN_STAT_CTX, Reg.WN_STAT_SEG,
   Reg.WN_FAULT_RECORD, Reg.WN_FAULT_CODE, Reg.SEGS_COMBINED_COUNT, Reg.SCALE_RAISED_COUNT, Reg.WN_CLIPS_COUNT,
   Reg.WN_OF_COUNT, Reg.NAN_ELEMS_COUNT, Reg.WAIT_TICKS_COUNT, Reg.BACKUP_TAKEN_COUNT, Reg.DUP_DISCARDS_COUNT,
   Reg.PROTO_DROPS_COUNT, Reg.WN_NAN_INFO_VALID, Reg.WN_NAN_INFO_RANK, Reg.WN_NAN_INFO_DESC, Reg.WN_NAN_ELEM_ELEM,
   Reg.WN_NAN_STEP_STEP, Reg.SCALE_CLAMPED_COUNT, Reg.NAN_GROUPS_GROUPS, Reg.NAN_SEALED_GROUPS, Reg.BN_STAT_BUSY]

def written4 : List Fld :=
  [Reg.BN_STAT_PHASE, Reg.BN_STAT_RECORD, Reg.BN_FAULT_RECORD, Reg.BN_FAULT_CODE, Reg.BN_PROGRESS_ELEM,
   Reg.UPDATES_COUNT, Reg.NAN_SKIPS_COUNT, Reg.BLOCK_FALLBACK_COUNT, Reg.REFACTORS_COUNT, Reg.DAMP_RAISES_COUNT,
   Reg.BN_CLIPS_COUNT, Reg.WC_CLIPS_COUNT, Reg.UPD_NONFINITE_COUNT, Reg.WC_REWRITES_COUNT, Reg.REEL_WAITS_COUNT,
   Reg.BN_GSEL_GROUP, Reg.BN_GSEL_WORD, Reg.BN_GINVALID_GROUPS, Reg.RL_STEP_STEP, Reg.KITE_STATE_STATE,
   Reg.KITE_FAULT_OP_INDEX, Reg.KITE_FAULT_CODE, Reg.OPS_BASE_BASE, Reg.OPS_COUNT_COUNT, Reg.PLAN_PC_PC,
   Reg.SLIP_COUNT_SLIPS, Reg.ACC_BASE_ACC_BASE, Reg.ACC_SIZE_ACC_SIZE, Reg.SP_SPARE_SPARE_USED,
   Reg.SP_RETIRE_SP_RETIRE_CE, Reg.BANK_STALL_STALLS, Reg.GATE_CTL_ZERO_GATE_EN, Reg.ARR_PROFILE_MODE,
   Reg.ARR_PROFILE_SHAPE, Reg.ARR_PROFILE_BRIDLE, Reg.ROW_MASK_ROWS, Reg.ARR_STATUS_LOAD_ROW,
   Reg.ARR_STATUS_LIVE_PROFILE, Reg.ARR_STATUS_LIVE_BRIDLE, Reg.ARR_STATUS_LIVE_SHAPE, Reg.ARR_STATUS_LIVE_VALID,
   Reg.ARR_STATUS_SHADOW_STATE, Reg.ARR_FLAGS_STEP_FLAGS, Reg.ARR_FLAGS_UF, Reg.ARR_FLAGS_OF, Reg.ARR_FLAGS_INVALID,
   Reg.ARR_FLAGS_NAN_IN, Reg.STAT_LOADS_LO, Reg.STAT_LOADS_HI, Reg.STREAM_COLS_LO, Reg.STREAM_COLS_HI,
   Reg.WEIGHT_BUBBLES_BUBBLES, Reg.CB_FILE_STAT_CB_COPY_BUSY, Reg.CB_FILE_STAT_RSC_COPY_BUSY,
   Reg.CB_FILE_STAT_CB_RETIRING, Reg.ESC_FAULT_CAUSE, Reg.ESC_FAULT_BLOCK, Reg.ESC_FAULT_COUNT, Reg.ESC_FAULT_COLUMN,
   Reg.ESC_SUBST_SUBSTS]

def written5 : List Fld :=
  [Reg.SLICE_SKIP_LO, Reg.SLICE_SKIP_HI, Reg.TBL_FILLS_FILLS, Reg.CBF_CTL_AUTO_INC, Reg.CBF_CTL_BANK,
   Reg.CBF_CTL_FILE, Reg.CBF_INDEX_WORD, Reg.CBF_DATA_DATA, Reg.CBF_WAITS_WAITS, Reg.VEC_STATUS_BUSY,
   Reg.VEC_STATUS_VOP, Reg.VEC_STATUS_ELEM, Reg.VEC_FLAGS_STEP_FLAGS, Reg.VEC_FLAGS_DZ, Reg.VEC_FLAGS_UF,
   Reg.VEC_FLAGS_OF, Reg.VEC_FLAGS_INVALID, Reg.VEC_FLAGS_NAN_IN, Reg.VEC_CLIPS_CLIPS, Reg.VEC_ELEMS_LO,
   Reg.VEC_ELEMS_HI, Reg.NAN_TRAP_STEP_STEP, Reg.NAN_TRAP_OP_OP_INDEX, Reg.NAN_TRAP_ELEM_TAG, Reg.NAN_TRAP_ELEM_ELEM,
   Reg.NAN_TRAP_INFO_VALID, Reg.NAN_TRAP_INFO_KIND, Reg.NAN_TRAP_INFO_SOURCE, Reg.NAN_TRAP_INFO_UOP,
   Reg.NAN_TRAP_INFO_CARRY, Reg.NAN_TRAP_INFO_LOGICAL, Reg.NAN_TRAPS_TRAPS, Reg.VP_CTL_AUTO_INC, Reg.VP_CTL_BANK,
   Reg.VP_INDEX_WORD, Reg.VP_DATA_DATA, Reg.VP_FILE_STAT_VP_COPY_BUSY, Reg.VP_FILE_STAT_VP_RETIRING,
   Reg.ENV_STAT_SNAP_VALID, Reg.ENV_SNAP_STEP_STEP, Reg.ENV_SEL_AUTO_INC, Reg.ENV_SEL_TAG, Reg.ENV_SEL_WORD,
   Reg.ENV_DISCARD_DISCARDS, Reg.ENV_SAT_COUNT_SATS, Reg.TAG_CFG_HIST_BASE, Reg.TAG_CFG_HIST_SHIFT, Reg.STK_TEMP_BAND,
   Reg.STK_TEMP_TEMP_MAX, Reg.STK_TEMP_TEMP, Reg.MIG_STAT_ACTIVE, Reg.MIG_STAT_BALLAST_USED, Reg.MIG_STAT_SRC,
   Reg.MIG_STAT_COPIED, Reg.PC_MAP_PHYS, Reg.UE_ADDR_LO_ADDR, Reg.UE_ADDR_HI_VALID, Reg.UE_ADDR_HI_ADDR,
   Reg.UE_INFO_PPC, Reg.UE_INFO_SID]

def written6 : List Fld :=
  [Reg.UE_INFO_BG, Reg.UE_INFO_BANK, Reg.UE_INFO_ROW, Reg.UE_INFO_XFER, Reg.ODE_CE_COUNT, Reg.SYM_CE_COUNT,
   Reg.RETRY_OK_COUNT, Reg.ROW_REMAPS_COUNT, Reg.HPPR_DONE_COUNT, Reg.PAGES_RETIRED_COUNT, Reg.SPARES_USED_COUNT,
   Reg.TRACKER_EVICT_COUNT, Reg.UNSCHED_RETRAINS_COUNT, Reg.SCRUB_PASSES_COUNT, Reg.SPARE_PERM_COUNT,
   Reg.RESERVE_FREE_COUNT, Reg.HPPR_STEPS_COUNT, Reg.PC_REC_CE_CE, Reg.PC_REC_UE_UE, Reg.PC_REC_ST_STATE,
   Reg.PC_REC_ST_LOGICAL, Reg.PC_REC_ST_INTERVAL_CE, Reg.PC_REC_RT_RETRAINS, Reg.LINE_STAT_STATE,
   Reg.LINE_STAT_TB_PARENT, Reg.LINE_RTT_RTT, Reg.TX_FLITS_LO, Reg.TX_FLITS_HI, Reg.RX_FLITS_LO, Reg.RX_FLITS_HI,
   Reg.CRC_ERRS_COUNT, Reg.RETRIES_COUNT, Reg.RETRY_FLITS_COUNT, Reg.LINE_FEC_CE_COUNT, Reg.LINE_FEC_UE_COUNT,
   Reg.LINE_DOWNS_COUNT, Reg.CREDIT_STALLS_COUNT, Reg.REPLAY_FULL_COUNT, Reg.TX_BYTES_VC7_COUNT,
   Reg.LANE_BALLAST_BALLAST_USED, Reg.LANE_REC_ERR_SYM_ERR, Reg.LANE_REC_ST_STATE, Reg.LANE_REC_ST_INTERVAL_ERR]

/-- The register fields that operations write by name. -/
def written : List Fld :=
  written0 ++ written1 ++ written2 ++ written3 ++ written4 ++ written5 ++ written6

/-- Every bit of `a` is one of `b`. -/
def sub (a b : Nat) : Bool := Nat.beq (Nat.land a b) a

/-- `t` is `s` outside the footprint `m`. -/
structure Frame (m : Nat) (s t : State) : Prop where
  same : ∀ p : Part, p ≠ .regs → m.testBit p.bit = false → p.same s t
  regs : m.testBit 2 = false → ∀ k : Nat,
    (∀ (j : Nat) (f : Fld), m.testBit (32 + j) = true → written[j]? = some f →
      ∀ n i : Nat, f.valid n i = true → k ≠ f.key n i) →
      Table.find k t.regs = Table.find k s.regs
  canon : Canon s → Canon t
  fuses : FusesKept s t

/-- A footprint lets a register field change. -/
def has (f : Fld) (m : Nat) : Prop := m.testBit 2 = true ∨ ∃ j, m.testBit (32 + j) = true ∧ written[j]? = some f

/-- Every next state an outcome answers is framed. -/
structure FrameR (m : Nat) (s : State) (r : Result) : Prop where
  next : ∀ t, r = .next t → Frame m s t

theorem Part.same_refl (p : Part) (s : State) : p.same s s := by cases p <;> rfl

theorem Part.same_trans {p : Part} {s t u : State} (h : p.same s t) (k : p.same t u) : p.same s u := by
  cases p <;> exact Eq.trans k h

theorem testBit_of_sub {a b i : Nat} (h : sub a b = true) (k : a.testBit i = true) : b.testBit i = true := by
  have e : a &&& b = a := Nat.eq_of_beq_eq_true h
  rw [← e, Nat.testBit_and, Bool.and_eq_true] at k
  exact k.2

theorem sub_trans {a b c : Nat} (h : sub a b = true) (k : sub b c = true) : sub a c = true := by
  have e : a &&& c = a := by
    refine Nat.eq_of_testBit_eq fun i => ?_
    have := @testBit_of_sub a b i h
    have := @testBit_of_sub b c i k
    rw [Nat.testBit_and]
    cases ha : a.testBit i <;> simp_all
  change Nat.beq (a &&& c) a = true
  rw [e]
  exact Nat.beq_refl a

theorem sub_refl (a : Nat) : sub a a = true := by simp [sub]

theorem has_of_bit {m M j : Nat} {f : Fld} (e : written[j]? = some f) (b : m.testBit (32 + j) = true) (h : sub m M = true) :
    has f M := Or.inr ⟨j, testBit_of_sub h b, e⟩

theorem has_mono {m M : Nat} {f : Fld} (e : has f m) (h : sub m M = true) : has f M := by
  rcases e with b | ⟨j, b, e⟩
  · exact Or.inl (testBit_of_sub h b)
  · exact Or.inr ⟨j, testBit_of_sub h b, e⟩

theorem has_any {m M : Nat} {f : Fld} (b : m.testBit 2 = true) (h : sub m M = true) : has f M := Or.inl (testBit_of_sub h b)

theorem FusesKept.refl (s : State) : FusesKept s s := ⟨Nat.le_refl _, fun _ h => h⟩

theorem FusesKept.trans {s t u : State} (h : FusesKept s t) (k : FusesKept t u) : FusesKept s u :=
  ⟨Nat.le_trans h.svn k.svn, fun x e => k.key x (h.key x e)⟩

theorem Frame.refl (m : Nat) (s : State) : Frame m s s := ⟨fun p _ _ => p.same_refl s, fun _ _ _ => rfl, id, FusesKept.refl s⟩

theorem Frame.trans {m : Nat} {s t u : State} (h : Frame m s t) (k : Frame m t u) : Frame m s u :=
  ⟨fun p q r => Part.same_trans (h.same p q r) (k.same p q r), fun b x y => (k.regs b x y).trans (h.regs b x y),
    fun c => k.canon (h.canon c), h.fuses.trans k.fuses⟩

theorem Frame.mono {a b : Nat} {s t : State} (h : Frame a s t) (hs : sub a b = true) : Frame b s t := by
  refine ⟨fun p q r => h.same p q ?_, fun r x y => h.regs ?_ x fun j f e => y j f (testBit_of_sub hs e), h.canon, h.fuses⟩
  · cases e : a.testBit p.bit
    · rfl
    · rw [testBit_of_sub hs e] at r
      cases r
  · cases e : a.testBit 2
    · rfl
    · rw [testBit_of_sub hs e] at r
      cases r

theorem Frame.ite {m : Nat} {s t u : State} {c : Prop} [Decidable c] (h : Frame m s t) (k : Frame m s u) :
    Frame m s (if c then t else u) := by split <;> assumption

theorem Frame.foldl {m : Nat} {α : Type} {s t : State} {f : State → α → State} {l : List α}
    (h : ∀ u a, Frame m s u → Frame m s (f u a)) (k : Frame m s t) : Frame m s (l.foldl f t) := by
  induction l generalizing t with
  | nil => exact k
  | cons a l ih => exact ih (h t a k)

theorem Frame.foldl_mem {m : Nat} {α : Type} {s t : State} {f : State → α → State} {l : List α}
    (h : ∀ u a, a ∈ l → Frame m s u → Frame m s (f u a)) (k : Frame m s t) : Frame m s (l.foldl f t) := by
  induction l generalizing t with
  | nil => exact k
  | cons a l ih => exact ih (fun u b hb => h u b (List.mem_cons_of_mem _ hb)) (h t a List.mem_cons_self k)

/-- Any fold over values that carry a state. -/
theorem Frame.foldl_on {m : Nat} {α β : Type} {s : State} {get : β → State} {f : β → α → β} {l : List α} {b : β}
    (h : ∀ u a, Frame m s (get u) → Frame m s (get (f u a))) (k : Frame m s (get b)) : Frame m s (get (l.foldl f b)) := by
  induction l generalizing b with
  | nil => exact k
  | cons a l ih => exact ih (h b a k)

theorem FrameR.of_next {m : Nat} {s t : State} (h : Frame m s t) : FrameR m s (.next t) := by
  refine ⟨fun u hu => ?_⟩
  cases hu
  exact h

theorem FrameR.whenOk {m : Nat} {s t u : State} {c : Bool} (h : Frame m s t) (k : Frame m s u) :
    FrameR m s (whenOk c t u) := FrameR.of_next (Frame.ite k h)

/-- Every value an optional result holds carries a framed state. -/
structure FrameO {α : Type} (get : α → State) (m : Nat) (s : State) (o : Option α) : Prop where
  held : ∀ z, o = some z → Frame m s (get z)

theorem FrameO.of_some {α : Type} {get : α → State} {m : Nat} {s : State} {z : α} (h : Frame m s (get z)) :
    FrameO get m s (Option.some z) := by
  refine ⟨fun y hy => ?_⟩
  cases hy
  exact h

theorem FrameO.none {α : Type} {get : α → State} {m : Nat} {s : State} : FrameO get m s Option.none :=
  ⟨fun _ h => nomatch h⟩

theorem FrameO.ite {α : Type} {get : α → State} {m : Nat} {s : State} {c : Prop} [Decidable c] {q r : Option α}
    (h : FrameO get m s q) (k : FrameO get m s r) : FrameO get m s (if c then q else r) := by split <;> assumption

theorem FrameR.ite {m : Nat} {s : State} {c : Prop} [Decidable c] {q r : Result} (h : FrameR m s q)
    (k : FrameR m s r) : FrameR m s (if c then q else r) := by split <;> assumption

theorem bit_clash {P : Prop} {m M i : Nat} (h : sub m M = true) (b : m.testBit i = true) (c : M.testBit i = false) : P := by
  rw [testBit_of_sub h b] at c
  cases c

/-- A register field written. -/
theorem State.wr_frame {M : Nat} {s0 s : State} {f v n i} (h : Frame M s0 s) (hf : has f M) :
    Frame M s0 (s.wr f v n i) := by
  refine ⟨fun p q r => ?_, fun b k y => ?_, fun c => ?_, h.fuses.trans ⟨Nat.le_refl _, fun _ e => e⟩⟩
  · have := h.same p q r
    cases p <;> first | exact this | exact absurd rfl q
  · refine Eq.trans ?_ (h.regs b k y)
    unfold State.wr
    dsimp only
    split
    · rename_i hv
      refine Table.find_put_ne ?_
      rcases hf with c | ⟨j, c, e⟩
      · rw [c] at b
        cases b
      · exact y j f c e n i hv
    · rfl
  · have := h.canon c
    refine ⟨this.hbm, ?_, this.shadow, this.spool⟩
    unfold State.wr
    dsimp only
    split
    · exact Table.rising_put this.regs
    · exact this.regs

theorem Frame.with_pending {M : Nat} {s t : State} {v0} (h : Frame M s t)
    (hm : sub 0x1 M = true) : Frame M s { t with pending := v0 } := by
  refine ⟨fun p q r => ?_, h.regs, fun c => ⟨(h.canon c).hbm, (h.canon c).regs, (h.canon c).shadow, (h.canon c).spool⟩, h.fuses.trans ⟨Nat.le_refl _, fun _ e => e⟩⟩
  cases p <;> first | exact h.same _ q r | exact bit_clash hm rfl r

theorem Frame.with_tick {M : Nat} {s t : State} {v0} (h : Frame M s t)
    (hm : sub 0x2 M = true) : Frame M s { t with tick := v0 } := by
  refine ⟨fun p q r => ?_, h.regs, fun c => ⟨(h.canon c).hbm, (h.canon c).regs, (h.canon c).shadow, (h.canon c).spool⟩, h.fuses.trans ⟨Nat.le_refl _, fun _ e => e⟩⟩
  cases p <;> first | exact h.same _ q r | exact bit_clash hm rfl r

theorem Frame.with_regs {M : Nat} {s t : State} {v0} (h : Frame M s t)
    (hm : sub 0x4 M = true)
    (hr : Table.rising none t.regs = true → Table.rising none v0 = true) : Frame M s { t with regs := v0 } := by
  refine ⟨fun p q r => ?_, fun r => bit_clash hm rfl r, fun c => ⟨(h.canon c).hbm, hr (h.canon c).regs, (h.canon c).shadow, (h.canon c).spool⟩, h.fuses.trans ⟨Nat.le_refl _, fun _ e => e⟩⟩
  cases p <;> first | exact h.same _ q r | exact bit_clash hm rfl r

theorem Frame.with_shadow {M : Nat} {s t : State} {v0} (h : Frame M s t)
    (hm : sub 0x8 M = true)
    (hs : Table.rising none t.shadow = true → Table.rising none v0 = true) : Frame M s { t with shadow := v0 } := by
  refine ⟨fun p q r => ?_, h.regs, fun c => ⟨(h.canon c).hbm, (h.canon c).regs, hs (h.canon c).shadow, (h.canon c).spool⟩, h.fuses.trans ⟨Nat.le_refl _, fun _ e => e⟩⟩
  cases p <;> first | exact h.same _ q r | exact bit_clash hm rfl r

theorem Frame.with_held {M : Nat} {s t : State} {v0} (h : Frame M s t)
    (hm : sub 0x10 M = true) : Frame M s { t with held := v0 } := by
  refine ⟨fun p q r => ?_, h.regs, fun c => ⟨(h.canon c).hbm, (h.canon c).regs, (h.canon c).shadow, (h.canon c).spool⟩, h.fuses.trans ⟨Nat.le_refl _, fun _ e => e⟩⟩
  cases p <;> first | exact h.same _ q r | exact bit_clash hm rfl r

theorem Frame.with_hiLatch {M : Nat} {s t : State} {v0} (h : Frame M s t)
    (hm : sub 0x20 M = true) : Frame M s { t with hiLatch := v0 } := by
  refine ⟨fun p q r => ?_, h.regs, fun c => ⟨(h.canon c).hbm, (h.canon c).regs, (h.canon c).shadow, (h.canon c).spool⟩, h.fuses.trans ⟨Nat.le_refl _, fun _ e => e⟩⟩
  cases p <;> first | exact h.same _ q r | exact bit_clash hm rfl r

theorem Frame.with_frozen {M : Nat} {s t : State} {v0} (h : Frame M s t)
    (hm : sub 0x40 M = true) : Frame M s { t with frozen := v0 } := by
  refine ⟨fun p q r => ?_, h.regs, fun c => ⟨(h.canon c).hbm, (h.canon c).regs, (h.canon c).shadow, (h.canon c).spool⟩, h.fuses.trans ⟨Nat.le_refl _, fun _ e => e⟩⟩
  cases p <;> first | exact h.same _ q r | exact bit_clash hm rfl r

theorem Frame.with_hdrs {M : Nat} {s t : State} {v0} (h : Frame M s t)
    (hm : sub 0x80 M = true) : Frame M s { t with hdrs := v0 } := by
  refine ⟨fun p q r => ?_, h.regs, fun c => ⟨(h.canon c).hbm, (h.canon c).regs, (h.canon c).shadow, (h.canon c).spool⟩, h.fuses.trans ⟨Nat.le_refl _, fun _ e => e⟩⟩
  cases p <;> first | exact h.same _ q r | exact bit_clash hm rfl r

theorem Frame.with_ec {M : Nat} {s t : State} {v0} (h : Frame M s t)
    (hm : sub 0x100 M = true) : Frame M s { t with ec := v0 } := by
  refine ⟨fun p q r => ?_, h.regs, fun c => ⟨(h.canon c).hbm, (h.canon c).regs, (h.canon c).shadow, (h.canon c).spool⟩, h.fuses.trans ⟨Nat.le_refl _, fun _ e => e⟩⟩
  cases p <;> first | exact h.same _ q r | exact bit_clash hm rfl r

theorem Frame.with_host {M : Nat} {s t : State} {v0} (h : Frame M s t)
    (hm : sub 0x200 M = true) : Frame M s { t with host := v0 } := by
  refine ⟨fun p q r => ?_, h.regs, fun c => ⟨(h.canon c).hbm, (h.canon c).regs, (h.canon c).shadow, (h.canon c).spool⟩, h.fuses.trans ⟨Nat.le_refl _, fun _ e => e⟩⟩
  cases p <;> first | exact h.same _ q r | exact bit_clash hm rfl r

theorem Frame.with_hbm {M : Nat} {s t : State} {v0} (h : Frame M s t)
    (hm : sub 0x400 M = true)
    (hh : Table.wf hbmBlank t.hbm = true → Table.wf hbmBlank v0 = true) : Frame M s { t with hbm := v0 } := by
  refine ⟨fun p q r => ?_, h.regs, fun c => ⟨hh (h.canon c).hbm, (h.canon c).regs, (h.canon c).shadow, (h.canon c).spool⟩, h.fuses.trans ⟨Nat.le_refl _, fun _ e => e⟩⟩
  cases p <;> first | exact h.same _ q r | exact bit_clash hm rfl r

theorem Frame.with_mem {M : Nat} {s t : State} {v0} (h : Frame M s t)
    (hm : sub 0x800 M = true)
    (hp : Canon s → SpoolOk t.mem.spool → SpoolOk v0.spool) : Frame M s { t with mem := v0 } := by
  refine ⟨fun p q r => ?_, h.regs, fun c => ⟨(h.canon c).hbm, (h.canon c).regs, (h.canon c).shadow, hp c (h.canon c).spool⟩, h.fuses.trans ⟨Nat.le_refl _, fun _ e => e⟩⟩
  cases p <;> first | exact h.same _ q r | exact bit_clash hm rfl r

theorem Frame.with_kites {M : Nat} {s t : State} {v0} (h : Frame M s t)
    (hm : sub 0x1000 M = true) : Frame M s { t with kites := v0 } := by
  refine ⟨fun p q r => ?_, h.regs, fun c => ⟨(h.canon c).hbm, (h.canon c).regs, (h.canon c).shadow, (h.canon c).spool⟩, h.fuses.trans ⟨Nat.le_refl _, fun _ e => e⟩⟩
  cases p <;> first | exact h.same _ q r | exact bit_clash hm rfl r

theorem Frame.with_step {M : Nat} {s t : State} {v0} (h : Frame M s t)
    (hm : sub 0x2000 M = true) : Frame M s { t with step := v0 } := by
  refine ⟨fun p q r => ?_, h.regs, fun c => ⟨(h.canon c).hbm, (h.canon c).regs, (h.canon c).shadow, (h.canon c).spool⟩, h.fuses.trans ⟨Nat.le_refl _, fun _ e => e⟩⟩
  cases p <;> first | exact h.same _ q r | exact bit_clash hm rfl r

theorem Frame.with_seqs {M : Nat} {s t : State} {v0} (h : Frame M s t)
    (hm : sub 0x4000 M = true) : Frame M s { t with seqs := v0 } := by
  refine ⟨fun p q r => ?_, h.regs, fun c => ⟨(h.canon c).hbm, (h.canon c).regs, (h.canon c).shadow, (h.canon c).spool⟩, h.fuses.trans ⟨Nat.le_refl _, fun _ e => e⟩⟩
  cases p <;> first | exact h.same _ q r | exact bit_clash hm rfl r

theorem Frame.with_gov {M : Nat} {s t : State} {v0} (h : Frame M s t)
    (hm : sub 0x8000 M = true) : Frame M s { t with gov := v0 } := by
  refine ⟨fun p q r => ?_, h.regs, fun c => ⟨(h.canon c).hbm, (h.canon c).regs, (h.canon c).shadow, (h.canon c).spool⟩, h.fuses.trans ⟨Nat.le_refl _, fun _ e => e⟩⟩
  cases p <;> first | exact h.same _ q r | exact bit_clash hm rfl r

theorem Frame.with_fab {M : Nat} {s t : State} {v0} (h : Frame M s t)
    (hm : sub 0x10000 M = true) : Frame M s { t with fab := v0 } := by
  refine ⟨fun p q r => ?_, h.regs, fun c => ⟨(h.canon c).hbm, (h.canon c).regs, (h.canon c).shadow, (h.canon c).spool⟩, h.fuses.trans ⟨Nat.le_refl _, fun _ e => e⟩⟩
  cases p <;> first | exact h.same _ q r | exact bit_clash hm rfl r

theorem Frame.with_winch {M : Nat} {s t : State} {v0} (h : Frame M s t)
    (hm : sub 0x20000 M = true) : Frame M s { t with winch := v0 } := by
  refine ⟨fun p q r => ?_, h.regs, fun c => ⟨(h.canon c).hbm, (h.canon c).regs, (h.canon c).shadow, (h.canon c).spool⟩, h.fuses.trans ⟨Nat.le_refl _, fun _ e => e⟩⟩
  cases p <;> first | exact h.same _ q r | exact bit_clash hm rfl r

theorem Frame.with_burner {M : Nat} {s t : State} {v0} (h : Frame M s t)
    (hm : sub 0x40000 M = true) : Frame M s { t with burner := v0 } := by
  refine ⟨fun p q r => ?_, h.regs, fun c => ⟨(h.canon c).hbm, (h.canon c).regs, (h.canon c).shadow, (h.canon c).spool⟩, h.fuses.trans ⟨Nat.le_refl _, fun _ e => e⟩⟩
  cases p <;> first | exact h.same _ q r | exact bit_clash hm rfl r

theorem Frame.with_sc {M : Nat} {s t : State} {v0} (h : Frame M s t)
    (hm : sub 0x80000 M = true) : Frame M s { t with sc := v0 } := by
  refine ⟨fun p q r => ?_, h.regs, fun c => ⟨(h.canon c).hbm, (h.canon c).regs, (h.canon c).shadow, (h.canon c).spool⟩, h.fuses.trans ⟨Nat.le_refl _, fun _ e => e⟩⟩
  cases p <;> first | exact h.same _ q r | exact bit_clash hm rfl r

theorem Frame.with_recov {M : Nat} {s t : State} {v0} (h : Frame M s t)
    (hm : sub 0x100000 M = true) : Frame M s { t with recov := v0 } := by
  refine ⟨fun p q r => ?_, h.regs, fun c => ⟨(h.canon c).hbm, (h.canon c).regs, (h.canon c).shadow, (h.canon c).spool⟩, h.fuses.trans ⟨Nat.le_refl _, fun _ e => e⟩⟩
  cases p <;> first | exact h.same _ q r | exact bit_clash hm rfl r

theorem Frame.with_sb {M : Nat} {s t : State} {v0} (h : Frame M s t)
    (hm : sub 0x200000 M = true) : Frame M s { t with sb := v0 } := by
  refine ⟨fun p q r => ?_, h.regs, fun c => ⟨(h.canon c).hbm, (h.canon c).regs, (h.canon c).shadow, (h.canon c).spool⟩, h.fuses.trans ⟨Nat.le_refl _, fun _ e => e⟩⟩
  cases p <;> first | exact h.same _ q r | exact bit_clash hm rfl r

theorem Frame.with_tb {M : Nat} {s t : State} {v0} (h : Frame M s t)
    (hm : sub 0x400000 M = true) : Frame M s { t with tb := v0 } := by
  refine ⟨fun p q r => ?_, h.regs, fun c => ⟨(h.canon c).hbm, (h.canon c).regs, (h.canon c).shadow, (h.canon c).spool⟩, h.fuses.trans ⟨Nat.le_refl _, fun _ e => e⟩⟩
  cases p <;> first | exact h.same _ q r | exact bit_clash hm rfl r

theorem Frame.with_trust {M : Nat} {s t : State} {v0} (h : Frame M s t)
    (hm : sub 0x800000 M = true)
    (ht : t.trust.svnMin ≤ v0.svnMin ∧ ∀ x, t.trust.userKey = some x → v0.userKey = some x) : Frame M s { t with trust := v0 } := by
  refine ⟨fun p q r => ?_, h.regs, fun c => ⟨(h.canon c).hbm, (h.canon c).regs, (h.canon c).shadow, (h.canon c).spool⟩, h.fuses.trans ⟨ht.1, ht.2⟩⟩
  cases p <;> first | exact h.same _ q r | exact bit_clash hm rfl r

theorem Frame.with_pwr {M : Nat} {s t : State} {v0} (h : Frame M s t)
    (hm : sub 0x1000000 M = true) : Frame M s { t with pwr := v0 } := by
  refine ⟨fun p q r => ?_, h.regs, fun c => ⟨(h.canon c).hbm, (h.canon c).regs, (h.canon c).shadow, (h.canon c).spool⟩, h.fuses.trans ⟨Nat.le_refl _, fun _ e => e⟩⟩
  cases p <;> first | exact h.same _ q r | exact bit_clash hm rfl r

theorem Frame.with_hd {M : Nat} {s t : State} {v0} (h : Frame M s t)
    (hm : sub 0x2000000 M = true) : Frame M s { t with hd := v0 } := by
  refine ⟨fun p q r => ?_, h.regs, fun c => ⟨(h.canon c).hbm, (h.canon c).regs, (h.canon c).shadow, (h.canon c).spool⟩, h.fuses.trans ⟨Nat.le_refl _, fun _ e => e⟩⟩
  cases p <;> first | exact h.same _ q r | exact bit_clash hm rfl r

theorem Frame.with_plan {M : Nat} {s t : State} {v0} (h : Frame M s t)
    (hm : sub 0x4000000 M = true) : Frame M s { t with plan := v0 } := by
  refine ⟨fun p q r => ?_, h.regs, fun c => ⟨(h.canon c).hbm, (h.canon c).regs, (h.canon c).shadow, (h.canon c).spool⟩, h.fuses.trans ⟨Nat.le_refl _, fun _ e => e⟩⟩
  cases p <;> first | exact h.same _ q r | exact bit_clash hm rfl r

theorem Frame.with_trace {M : Nat} {s t : State} {v0} (h : Frame M s t)
    (hm : sub 0x8000000 M = true) : Frame M s { t with trace := v0 } := by
  refine ⟨fun p q r => ?_, h.regs, fun c => ⟨(h.canon c).hbm, (h.canon c).regs, (h.canon c).shadow, (h.canon c).spool⟩, h.fuses.trans ⟨Nat.le_refl _, fun _ e => e⟩⟩
  cases p <;> first | exact h.same _ q r | exact bit_clash hm rfl r

theorem Frame.with_traceFull {M : Nat} {s t : State} {v0} (h : Frame M s t)
    (hm : sub 0x10000000 M = true) : Frame M s { t with traceFull := v0 } := by
  refine ⟨fun p q r => ?_, h.regs, fun c => ⟨(h.canon c).hbm, (h.canon c).regs, (h.canon c).shadow, (h.canon c).spool⟩, h.fuses.trans ⟨Nat.le_refl _, fun _ e => e⟩⟩
  cases p <;> first | exact h.same _ q r | exact bit_clash hm rfl r

theorem Frame.with_out {M : Nat} {s t : State} {v0} (h : Frame M s t)
    (hm : sub 0x20000000 M = true) : Frame M s { t with out := v0 } := by
  refine ⟨fun p q r => ?_, h.regs, fun c => ⟨(h.canon c).hbm, (h.canon c).regs, (h.canon c).shadow, (h.canon c).spool⟩, h.fuses.trans ⟨Nat.le_refl _, fun _ e => e⟩⟩
  cases p <;> first | exact h.same _ q r | exact bit_clash hm rfl r

theorem Frame.with_fresh {M : Nat} {s t : State} {v0} (h : Frame M s t)
    (hm : sub 0x40000000 M = true) : Frame M s { t with fresh := v0 } := by
  refine ⟨fun p q r => ?_, h.regs, fun c => ⟨(h.canon c).hbm, (h.canon c).regs, (h.canon c).shadow, (h.canon c).spool⟩, h.fuses.trans ⟨Nat.le_refl _, fun _ e => e⟩⟩
  cases p <;> first | exact h.same _ q r | exact bit_clash hm rfl r

theorem Frame.with_tick_trust {M : Nat} {s t : State} {v0 v1} (h : Frame M s t)
    (hm : sub 0x800002 M = true)
    (ht : t.trust.svnMin ≤ v1.svnMin ∧ ∀ x, t.trust.userKey = some x → v1.userKey = some x) : Frame M s { t with tick := v0, trust := v1 } := by
  refine ⟨fun p q r => ?_, h.regs, fun c => ⟨(h.canon c).hbm, (h.canon c).regs, (h.canon c).shadow, (h.canon c).spool⟩, h.fuses.trans ⟨ht.1, ht.2⟩⟩
  cases p <;> first | exact h.same _ q r | exact bit_clash hm rfl r

theorem Frame.with_regs_shadow {M : Nat} {s t : State} {v0 v1} (h : Frame M s t)
    (hm : sub 0xc M = true)
    (hr : Table.rising none t.regs = true → Table.rising none v0 = true)
    (hs : Table.rising none t.shadow = true → Table.rising none v1 = true) : Frame M s { t with regs := v0, shadow := v1 } := by
  refine ⟨fun p q r => ?_, fun r => bit_clash hm rfl r, fun c => ⟨(h.canon c).hbm, hr (h.canon c).regs, hs (h.canon c).shadow, (h.canon c).spool⟩, h.fuses.trans ⟨Nat.le_refl _, fun _ e => e⟩⟩
  cases p <;> first | exact h.same _ q r | exact bit_clash hm rfl r

theorem Frame.with_regs_kites {M : Nat} {s t : State} {v0 v1} (h : Frame M s t)
    (hm : sub 0x1004 M = true)
    (hr : Table.rising none t.regs = true → Table.rising none v0 = true) : Frame M s { t with regs := v0, kites := v1 } := by
  refine ⟨fun p q r => ?_, fun r => bit_clash hm rfl r, fun c => ⟨(h.canon c).hbm, hr (h.canon c).regs, (h.canon c).shadow, (h.canon c).spool⟩, h.fuses.trans ⟨Nat.le_refl _, fun _ e => e⟩⟩
  cases p <;> first | exact h.same _ q r | exact bit_clash hm rfl r

theorem Frame.with_step_plan {M : Nat} {s t : State} {v0 v1} (h : Frame M s t)
    (hm : sub 0x4002000 M = true) : Frame M s { t with step := v0, plan := v1 } := by
  refine ⟨fun p q r => ?_, h.regs, fun c => ⟨(h.canon c).hbm, (h.canon c).regs, (h.canon c).shadow, (h.canon c).spool⟩, h.fuses.trans ⟨Nat.le_refl _, fun _ e => e⟩⟩
  cases p <;> first | exact h.same _ q r | exact bit_clash hm rfl r

theorem Frame.with_fab_recov {M : Nat} {s t : State} {v0 v1} (h : Frame M s t)
    (hm : sub 0x110000 M = true) : Frame M s { t with fab := v0, recov := v1 } := by
  refine ⟨fun p q r => ?_, h.regs, fun c => ⟨(h.canon c).hbm, (h.canon c).regs, (h.canon c).shadow, (h.canon c).spool⟩, h.fuses.trans ⟨Nat.le_refl _, fun _ e => e⟩⟩
  cases p <;> first | exact h.same _ q r | exact bit_clash hm rfl r

theorem Frame.with_recov_trust {M : Nat} {s t : State} {v0 v1} (h : Frame M s t)
    (hm : sub 0x900000 M = true)
    (ht : t.trust.svnMin ≤ v1.svnMin ∧ ∀ x, t.trust.userKey = some x → v1.userKey = some x) : Frame M s { t with recov := v0, trust := v1 } := by
  refine ⟨fun p q r => ?_, h.regs, fun c => ⟨(h.canon c).hbm, (h.canon c).regs, (h.canon c).shadow, (h.canon c).spool⟩, h.fuses.trans ⟨ht.1, ht.2⟩⟩
  cases p <;> first | exact h.same _ q r | exact bit_clash hm rfl r

theorem Frame.with_kites_step_seqs_winch_sc {M : Nat} {s t : State} {v0 v1 v2 v3 v4} (h : Frame M s t)
    (hm : sub 0xa7000 M = true) : Frame M s { t with kites := v0, step := v1, seqs := v2, winch := v3, sc := v4 } := by
  refine ⟨fun p q r => ?_, h.regs, fun c => ⟨(h.canon c).hbm, (h.canon c).regs, (h.canon c).shadow, (h.canon c).spool⟩, h.fuses.trans ⟨Nat.le_refl _, fun _ e => e⟩⟩
  cases p <;> first | exact h.same _ q r | exact bit_clash hm rfl r

theorem Frame.with_tick_regs_shadow_held_hiLatch_frozen_hdrs_ec_host_hbm_mem_kites_step_seqs_gov_fab_winch_burner_sc_recov_sb_tb_trust_pwr_hd_plan_trace_traceFull {M : Nat} {s t : State} {v0 v1 v2 v3 v4 v5 v6 v7 v8 v9 v10 v11 v12 v13 v14 v15 v16 v17 v18 v19 v20 v21 v22 v23 v24 v25 v26 v27} (h : Frame M s t)
    (hm : sub 0x1ffffffe M = true)
    (hh : Table.wf hbmBlank t.hbm = true → Table.wf hbmBlank v9 = true)
    (hr : Table.rising none t.regs = true → Table.rising none v1 = true)
    (hs : Table.rising none t.shadow = true → Table.rising none v2 = true)
    (hp : Canon s → SpoolOk t.mem.spool → SpoolOk v10.spool)
    (ht : t.trust.svnMin ≤ v22.svnMin ∧ ∀ x, t.trust.userKey = some x → v22.userKey = some x) : Frame M s { t with tick := v0, regs := v1, shadow := v2, held := v3, hiLatch := v4, frozen := v5, hdrs := v6, ec := v7, host := v8, hbm := v9, mem := v10, kites := v11, step := v12, seqs := v13, gov := v14, fab := v15, winch := v16, burner := v17, sc := v18, recov := v19, sb := v20, tb := v21, trust := v22, pwr := v23, hd := v24, plan := v25, trace := v26, traceFull := v27 } := by
  refine ⟨fun p q r => ?_, fun r => bit_clash hm rfl r, fun c => ⟨hh (h.canon c).hbm, hr (h.canon c).regs, hs (h.canon c).shadow, hp c (h.canon c).spool⟩, h.fuses.trans ⟨ht.1, ht.2⟩⟩
  cases p <;> first | exact h.same _ q r | exact bit_clash hm rfl r

theorem has_DEV_STAT_STATE {m M : Nat} (b : m.testBit 32 = true) (h : sub m M = true) : has Reg.DEV_STAT_STATE M := has_of_bit (j := 0) rfl b h

theorem has_DEV_STAT_CAUSE {m M : Nat} (b : m.testBit 33 = true) (h : sub m M = true) : has Reg.DEV_STAT_CAUSE M := has_of_bit (j := 1) rfl b h

theorem has_DEV_STAT_BOOT_MS {m M : Nat} (b : m.testBit 34 = true) (h : sub m M = true) : has Reg.DEV_STAT_BOOT_MS M := has_of_bit (j := 2) rfl b h

theorem has_CLK_KITE_FREQ_MHZ {m M : Nat} (b : m.testBit 35 = true) (h : sub m M = true) : has Reg.CLK_KITE_FREQ_MHZ M := has_of_bit (j := 3) rfl b h

theorem has_CLK_KITE_CAUSE {m M : Nat} (b : m.testBit 36 = true) (h : sub m M = true) : has Reg.CLK_KITE_CAUSE M := has_of_bit (j := 4) rfl b h

theorem has_CLK_REF_REF_OK {m M : Nat} (b : m.testBit 37 = true) (h : sub m M = true) : has Reg.CLK_REF_REF_OK M := has_of_bit (j := 5) rfl b h

theorem has_CLK_REF_PLL_LOCK {m M : Nat} (b : m.testBit 38 = true) (h : sub m M = true) : has Reg.CLK_REF_PLL_LOCK M := has_of_bit (j := 6) rfl b h

theorem has_PWR_IN_VIN {m M : Nat} (b : m.testBit 39 = true) (h : sub m M = true) : has Reg.PWR_IN_VIN M := has_of_bit (j := 7) rfl b h

theorem has_PWR_IN_IIN {m M : Nat} (b : m.testBit 40 = true) (h : sub m M = true) : has Reg.PWR_IN_IIN M := has_of_bit (j := 8) rfl b h

theorem has_PWR_AVG_AVG_100MS {m M : Nat} (b : m.testBit 41 = true) (h : sub m M = true) : has Reg.PWR_AVG_AVG_100MS M := has_of_bit (j := 9) rfl b h

theorem has_PWR_AVG_AVG_100US {m M : Nat} (b : m.testBit 42 = true) (h : sub m M = true) : has Reg.PWR_AVG_AVG_100US M := has_of_bit (j := 10) rfl b h

theorem has_THERM_DIE_MAX {m M : Nat} (b : m.testBit 43 = true) (h : sub m M = true) : has Reg.THERM_DIE_MAX M := has_of_bit (j := 11) rfl b h

theorem has_THERM_COOL_IN {m M : Nat} (b : m.testBit 44 = true) (h : sub m M = true) : has Reg.THERM_COOL_IN M := has_of_bit (j := 12) rfl b h

theorem has_THERM_COOL_OUT {m M : Nat} (b : m.testBit 45 = true) (h : sub m M = true) : has Reg.THERM_COOL_OUT M := has_of_bit (j := 13) rfl b h

theorem has_THERM_STAT_PWR_LIMIT {m M : Nat} (b : m.testBit 46 = true) (h : sub m M = true) : has Reg.THERM_STAT_PWR_LIMIT M := has_of_bit (j := 14) rfl b h

theorem has_THERM_STAT_THERM_LIMIT {m M : Nat} (b : m.testBit 47 = true) (h : sub m M = true) : has Reg.THERM_STAT_THERM_LIMIT M := has_of_bit (j := 15) rfl b h

theorem has_THERM_STAT_PEAK_LAPSED {m M : Nat} (b : m.testBit 48 = true) (h : sub m M = true) : has Reg.THERM_STAT_PEAK_LAPSED M := has_of_bit (j := 16) rfl b h

theorem has_THERM_STAT_COOL_HOT {m M : Nat} (b : m.testBit 49 = true) (h : sub m M = true) : has Reg.THERM_STAT_COOL_HOT M := has_of_bit (j := 17) rfl b h

theorem has_PHASES_SHED {m M : Nat} (b : m.testBit 50 = true) (h : sub m M = true) : has Reg.PHASES_SHED M := has_of_bit (j := 18) rfl b h

theorem has_PHASES_EFF_CAP {m M : Nat} (b : m.testBit 51 = true) (h : sub m M = true) : has Reg.PHASES_EFF_CAP M := has_of_bit (j := 19) rfl b h

theorem has_THROTTLE_TICKS_LO {m M : Nat} (b : m.testBit 52 = true) (h : sub m M = true) : has Reg.THROTTLE_TICKS_LO M := has_of_bit (j := 20) rfl b h

theorem has_THROTTLE_TICKS_HI {m M : Nat} (b : m.testBit 53 = true) (h : sub m M = true) : has Reg.THROTTLE_TICKS_HI M := has_of_bit (j := 21) rfl b h

theorem has_DFI_STAT_STATE {m M : Nat} (b : m.testBit 54 = true) (h : sub m M = true) : has Reg.DFI_STAT_STATE M := has_of_bit (j := 22) rfl b h

theorem has_DFI_STAT_APPLIED {m M : Nat} (b : m.testBit 55 = true) (h : sub m M = true) : has Reg.DFI_STAT_APPLIED M := has_of_bit (j := 23) rfl b h

theorem has_DFI_STAT_REFUSED {m M : Nat} (b : m.testBit 56 = true) (h : sub m M = true) : has Reg.DFI_STAT_REFUSED M := has_of_bit (j := 24) rfl b h

theorem has_DFI_FIRST_REF_REASON {m M : Nat} (b : m.testBit 57 = true) (h : sub m M = true) : has Reg.DFI_FIRST_REF_REASON M := has_of_bit (j := 25) rfl b h

theorem has_DFI_FIRST_REF_RECORD {m M : Nat} (b : m.testBit 58 = true) (h : sub m M = true) : has Reg.DFI_FIRST_REF_RECORD M := has_of_bit (j := 26) rfl b h

theorem has_DFI_OK_APPLIED {m M : Nat} (b : m.testBit 59 = true) (h : sub m M = true) : has Reg.DFI_OK_APPLIED M := has_of_bit (j := 27) rfl b h

theorem has_GOV_STAT_UFLOW_WATCH_OFF {m M : Nat} (b : m.testBit 60 = true) (h : sub m M = true) : has Reg.GOV_STAT_UFLOW_WATCH_OFF M := has_of_bit (j := 28) rfl b h

theorem has_GOV_STAT_DIVERGED {m M : Nat} (b : m.testBit 61 = true) (h : sub m M = true) : has Reg.GOV_STAT_DIVERGED M := has_of_bit (j := 29) rfl b h

theorem has_GOV_STAT_TABLE_PHASE {m M : Nat} (b : m.testBit 62 = true) (h : sub m M = true) : has Reg.GOV_STAT_TABLE_PHASE M := has_of_bit (j := 30) rfl b h

theorem has_GOV_STAT_STATS_PHASE {m M : Nat} (b : m.testBit 63 = true) (h : sub m M = true) : has Reg.GOV_STAT_STATS_PHASE M := has_of_bit (j := 31) rfl b h

theorem has_GOV_EVAL_STEP_STEP {m M : Nat} (b : m.testBit 64 = true) (h : sub m M = true) : has Reg.GOV_EVAL_STEP_STEP M := has_of_bit (j := 32) rfl b h

theorem has_GOV_LAT_TICKS {m M : Nat} (b : m.testBit 65 = true) (h : sub m M = true) : has Reg.GOV_LAT_TICKS M := has_of_bit (j := 33) rfl b h

theorem has_GOV_DIGEST_DIGEST {m M : Nat} (b : m.testBit 66 = true) (h : sub m M = true) : has Reg.GOV_DIGEST_DIGEST M := has_of_bit (j := 34) rfl b h

theorem has_UFW_CTL_UFW_EN {m M : Nat} (b : m.testBit 67 = true) (h : sub m M = true) : has Reg.UFW_CTL_UFW_EN M := has_of_bit (j := 35) rfl b h

theorem has_UFW_CTL_UFW_WIDEN {m M : Nat} (b : m.testBit 68 = true) (h : sub m M = true) : has Reg.UFW_CTL_UFW_WIDEN M := has_of_bit (j := 36) rfl b h

theorem has_UFW_CTL_UFW_STREAK {m M : Nat} (b : m.testBit 69 = true) (h : sub m M = true) : has Reg.UFW_CTL_UFW_STREAK M := has_of_bit (j := 37) rfl b h

theorem has_UFW_CTL_UFW_THRESH {m M : Nat} (b : m.testBit 70 = true) (h : sub m M = true) : has Reg.UFW_CTL_UFW_THRESH M := has_of_bit (j := 38) rfl b h

theorem has_UFW_ALARMS_ALARMS {m M : Nat} (b : m.testBit 71 = true) (h : sub m M = true) : has Reg.UFW_ALARMS_ALARMS M := has_of_bit (j := 39) rfl b h

theorem has_UFW_LAST_STEP {m M : Nat} (b : m.testBit 72 = true) (h : sub m M = true) : has Reg.UFW_LAST_STEP M := has_of_bit (j := 40) rfl b h

theorem has_UFW_LAST_TAG {m M : Nat} (b : m.testBit 73 = true) (h : sub m M = true) : has Reg.UFW_LAST_TAG M := has_of_bit (j := 41) rfl b h

theorem has_GOV_FIRES_COUNT {m M : Nat} (b : m.testBit 74 = true) (h : sub m M = true) : has Reg.GOV_FIRES_COUNT M := has_of_bit (j := 42) rfl b h

theorem has_GOV_CHANGES_COUNT {m M : Nat} (b : m.testBit 75 = true) (h : sub m M = true) : has Reg.GOV_CHANGES_COUNT M := has_of_bit (j := 43) rfl b h

theorem has_GOV_BOUND_COUNT {m M : Nat} (b : m.testBit 76 = true) (h : sub m M = true) : has Reg.GOV_BOUND_COUNT M := has_of_bit (j := 44) rfl b h

theorem has_GOV_BLOCKED_COUNT {m M : Nat} (b : m.testBit 77 = true) (h : sub m M = true) : has Reg.GOV_BLOCKED_COUNT M := has_of_bit (j := 45) rfl b h

theorem has_GOV_LATE_COUNT {m M : Nat} (b : m.testBit 78 = true) (h : sub m M = true) : has Reg.GOV_LATE_COUNT M := has_of_bit (j := 46) rfl b h

theorem has_GOV_LAST_FIRE_RULE {m M : Nat} (b : m.testBit 79 = true) (h : sub m M = true) : has Reg.GOV_LAST_FIRE_RULE M := has_of_bit (j := 47) rfl b h

theorem has_GOV_LAST_FIRE_ACTION {m M : Nat} (b : m.testBit 80 = true) (h : sub m M = true) : has Reg.GOV_LAST_FIRE_ACTION M := has_of_bit (j := 48) rfl b h

theorem has_GOV_LAST_FIRE_TAG {m M : Nat} (b : m.testBit 81 = true) (h : sub m M = true) : has Reg.GOV_LAST_FIRE_TAG M := has_of_bit (j := 49) rfl b h

theorem has_GOV_SV_IDX_WORD {m M : Nat} (b : m.testBit 82 = true) (h : sub m M = true) : has Reg.GOV_SV_IDX_WORD M := has_of_bit (j := 50) rfl b h

theorem has_GOV_RULE_W3_FIRES {m M : Nat} (b : m.testBit 83 = true) (h : sub m M = true) : has Reg.GOV_RULE_W3_FIRES M := has_of_bit (j := 51) rfl b h

theorem has_PT_EPOCH_EPOCH {m M : Nat} (b : m.testBit 84 = true) (h : sub m M = true) : has Reg.PT_EPOCH_EPOCH M := has_of_bit (j := 52) rfl b h

theorem has_PT_PEND_PENDING {m M : Nat} (b : m.testBit 85 = true) (h : sub m M = true) : has Reg.PT_PEND_PENDING M := has_of_bit (j := 53) rfl b h

theorem has_MW_COUNT_WINDOWS {m M : Nat} (b : m.testBit 86 = true) (h : sub m M = true) : has Reg.MW_COUNT_WINDOWS M := has_of_bit (j := 54) rfl b h

theorem has_WIN_DEFERRED_DEFERRED {m M : Nat} (b : m.testBit 87 = true) (h : sub m M = true) : has Reg.WIN_DEFERRED_DEFERRED M := has_of_bit (j := 55) rfl b h

theorem has_PLAN_STAT_STATE {m M : Nat} (b : m.testBit 88 = true) (h : sub m M = true) : has Reg.PLAN_STAT_STATE M := has_of_bit (j := 56) rfl b h

theorem has_PLAN_STAT_REASON {m M : Nat} (b : m.testBit 89 = true) (h : sub m M = true) : has Reg.PLAN_STAT_REASON M := has_of_bit (j := 57) rfl b h

theorem has_PLAN_REJ_OFS_OFFSET {m M : Nat} (b : m.testBit 90 = true) (h : sub m M = true) : has Reg.PLAN_REJ_OFS_OFFSET M := has_of_bit (j := 58) rfl b h

theorem has_PLAN_CRC_CRC {m M : Nat} (b : m.testBit 91 = true) (h : sub m M = true) : has Reg.PLAN_CRC_CRC M := has_of_bit (j := 59) rfl b h

theorem has_STEP_NUM_LO {m M : Nat} (b : m.testBit 92 = true) (h : sub m M = true) : has Reg.STEP_NUM_LO M := has_of_bit (j := 60) rfl b h

theorem has_STEP_NUM_HI {m M : Nat} (b : m.testBit 93 = true) (h : sub m M = true) : has Reg.STEP_NUM_HI M := has_of_bit (j := 61) rfl b h

theorem has_STEP_EPOCH_EPOCH {m M : Nat} (b : m.testBit 94 = true) (h : sub m M = true) : has Reg.STEP_EPOCH_EPOCH M := has_of_bit (j := 62) rfl b h

theorem has_STEP_STAT_REPLAY_RUN {m M : Nat} (b : m.testBit 95 = true) (h : sub m M = true) : has Reg.STEP_STAT_REPLAY_RUN M := has_of_bit (j := 63) rfl b h

theorem has_STEP_STAT_STATE {m M : Nat} (b : m.testBit 96 = true) (h : sub m M = true) : has Reg.STEP_STAT_STATE M := has_of_bit (j := 64) rfl b h

theorem has_STEP_TICK_LO {m M : Nat} (b : m.testBit 97 = true) (h : sub m M = true) : has Reg.STEP_TICK_LO M := has_of_bit (j := 65) rfl b h

theorem has_STEP_TICK_HI {m M : Nat} (b : m.testBit 98 = true) (h : sub m M = true) : has Reg.STEP_TICK_HI M := has_of_bit (j := 66) rfl b h

theorem has_SEAL_TICK_LO {m M : Nat} (b : m.testBit 99 = true) (h : sub m M = true) : has Reg.SEAL_TICK_LO M := has_of_bit (j := 67) rfl b h

theorem has_SEAL_TICK_HI {m M : Nat} (b : m.testBit 100 = true) (h : sub m M = true) : has Reg.SEAL_TICK_HI M := has_of_bit (j := 68) rfl b h

theorem has_SEALS_COUNT {m M : Nat} (b : m.testBit 101 = true) (h : sub m M = true) : has Reg.SEALS_COUNT M := has_of_bit (j := 69) rfl b h

theorem has_REPLAYS_COUNT {m M : Nat} (b : m.testBit 102 = true) (h : sub m M = true) : has Reg.REPLAYS_COUNT M := has_of_bit (j := 70) rfl b h

theorem has_STEP_SLIPS_COUNT {m M : Nat} (b : m.testBit 103 = true) (h : sub m M = true) : has Reg.STEP_SLIPS_COUNT M := has_of_bit (j := 71) rfl b h

theorem has_RECOV_STAT_HANDED {m M : Nat} (b : m.testBit 104 = true) (h : sub m M = true) : has Reg.RECOV_STAT_HANDED M := has_of_bit (j := 72) rfl b h

theorem has_RECOV_STAT_COVERING {m M : Nat} (b : m.testBit 105 = true) (h : sub m M = true) : has Reg.RECOV_STAT_COVERING M := has_of_bit (j := 73) rfl b h

theorem has_RECOV_STAT_PLAN_UE {m M : Nat} (b : m.testBit 106 = true) (h : sub m M = true) : has Reg.RECOV_STAT_PLAN_UE M := has_of_bit (j := 74) rfl b h

theorem has_RECOV_STAT_LAST_RUNG {m M : Nat} (b : m.testBit 107 = true) (h : sub m M = true) : has Reg.RECOV_STAT_LAST_RUNG M := has_of_bit (j := 75) rfl b h

theorem has_REC_COUNT_COUNT {m M : Nat} (b : m.testBit 108 = true) (h : sub m M = true) : has Reg.REC_COUNT_COUNT M := has_of_bit (j := 76) rfl b h

theorem has_RESTORED_COUNT {m M : Nat} (b : m.testBit 109 = true) (h : sub m M = true) : has Reg.RESTORED_COUNT M := has_of_bit (j := 77) rfl b h

theorem has_HANDOVERS_COUNT {m M : Nat} (b : m.testBit 110 = true) (h : sub m M = true) : has Reg.HANDOVERS_COUNT M := has_of_bit (j := 78) rfl b h

theorem has_SVC_HOURS_COUNT {m M : Nat} (b : m.testBit 111 = true) (h : sub m M = true) : has Reg.SVC_HOURS_COUNT M := has_of_bit (j := 79) rfl b h

theorem has_WEAR_HOT_COUNT {m M : Nat} (b : m.testBit 112 = true) (h : sub m M = true) : has Reg.WEAR_HOT_COUNT M := has_of_bit (j := 80) rfl b h

theorem has_FAB_STAT_DISC_STATE {m M : Nat} (b : m.testBit 113 = true) (h : sub m M = true) : has Reg.FAB_STAT_DISC_STATE M := has_of_bit (j := 81) rfl b h

theorem has_FAB_STAT_LINES_UP {m M : Nat} (b : m.testBit 114 = true) (h : sub m M = true) : has Reg.FAB_STAT_LINES_UP M := has_of_bit (j := 82) rfl b h

theorem has_ROUTE_INDEX_INDEX {m M : Nat} (b : m.testBit 115 = true) (h : sub m M = true) : has Reg.ROUTE_INDEX_INDEX M := has_of_bit (j := 83) rfl b h

theorem has_NO_ROUTE_COUNT {m M : Nat} (b : m.testBit 116 = true) (h : sub m M = true) : has Reg.NO_ROUTE_COUNT M := has_of_bit (j := 84) rfl b h

theorem has_BAD_EP_COUNT {m M : Nat} (b : m.testBit 117 = true) (h : sub m M = true) : has Reg.BAD_EP_COUNT M := has_of_bit (j := 85) rfl b h

theorem has_ORDER_DROPS_COUNT {m M : Nat} (b : m.testBit 118 = true) (h : sub m M = true) : has Reg.ORDER_DROPS_COUNT M := has_of_bit (j := 86) rfl b h

theorem has_STALE_DROPS_COUNT {m M : Nat} (b : m.testBit 119 = true) (h : sub m M = true) : has Reg.STALE_DROPS_COUNT M := has_of_bit (j := 87) rfl b h

theorem has_PERSIST_HITS_COUNT {m M : Nat} (b : m.testBit 120 = true) (h : sub m M = true) : has Reg.PERSIST_HITS_COUNT M := has_of_bit (j := 88) rfl b h

theorem has_RANGE_DROPS_COUNT {m M : Nat} (b : m.testBit 121 = true) (h : sub m M = true) : has Reg.RANGE_DROPS_COUNT M := has_of_bit (j := 89) rfl b h

theorem has_NBR_VALID {m M : Nat} (b : m.testBit 122 = true) (h : sub m M = true) : has Reg.NBR_VALID M := has_of_bit (j := 90) rfl b h

theorem has_NBR_PEER_ASSIGNED {m M : Nat} (b : m.testBit 123 = true) (h : sub m M = true) : has Reg.NBR_PEER_ASSIGNED M := has_of_bit (j := 91) rfl b h

theorem has_NBR_PEER_DEV {m M : Nat} (b : m.testBit 124 = true) (h : sub m M = true) : has Reg.NBR_PEER_DEV M := has_of_bit (j := 92) rfl b h

theorem has_NBR_PEER_LINE {m M : Nat} (b : m.testBit 125 = true) (h : sub m M = true) : has Reg.NBR_PEER_LINE M := has_of_bit (j := 93) rfl b h

theorem has_NBR_PEER_DIST {m M : Nat} (b : m.testBit 126 = true) (h : sub m M = true) : has Reg.NBR_PEER_DIST M := has_of_bit (j := 94) rfl b h

theorem has_EC_SEL_SRC {m M : Nat} (b : m.testBit 127 = true) (h : sub m M = true) : has Reg.EC_SEL_SRC M := has_of_bit (j := 95) rfl b h

theorem has_EC_CORE_CORE_EN {m M : Nat} (b : m.testBit 128 = true) (h : sub m M = true) : has Reg.EC_CORE_CORE_EN M := has_of_bit (j := 96) rfl b h

theorem has_STRAY_EOI_COUNT {m M : Nat} (b : m.testBit 129 = true) (h : sub m M = true) : has Reg.STRAY_EOI_COUNT M := has_of_bit (j := 97) rfl b h

theorem has_LATE_MASK_COUNT {m M : Nat} (b : m.testBit 130 = true) (h : sub m M = true) : has Reg.LATE_MASK_COUNT M := has_of_bit (j := 98) rfl b h

theorem has_GLITCH_REJ_COUNT {m M : Nat} (b : m.testBit 131 = true) (h : sub m M = true) : has Reg.GLITCH_REJ_COUNT M := has_of_bit (j := 99) rfl b h

theorem has_PIN_EDGES_COUNT {m M : Nat} (b : m.testBit 132 = true) (h : sub m M = true) : has Reg.PIN_EDGES_COUNT M := has_of_bit (j := 100) rfl b h

theorem has_EC_TMR_CMP_LO_CMP {m M : Nat} (b : m.testBit 133 = true) (h : sub m M = true) : has Reg.EC_TMR_CMP_LO_CMP M := has_of_bit (j := 101) rfl b h

theorem has_EC_TMR_CMP_HI_CMP {m M : Nat} (b : m.testBit 134 = true) (h : sub m M = true) : has Reg.EC_TMR_CMP_HI_CMP M := has_of_bit (j := 102) rfl b h

theorem has_EC_TMR_EN_EN {m M : Nat} (b : m.testBit 135 = true) (h : sub m M = true) : has Reg.EC_TMR_EN_EN M := has_of_bit (j := 103) rfl b h

theorem has_CORE_STAT_ROLE {m M : Nat} (b : m.testBit 136 = true) (h : sub m M = true) : has Reg.CORE_STAT_ROLE M := has_of_bit (j := 104) rfl b h

theorem has_CORE_STAT_STATE {m M : Nat} (b : m.testBit 137 = true) (h : sub m M = true) : has Reg.CORE_STAT_STATE M := has_of_bit (j := 105) rfl b h

theorem has_CORE_STAT_VERSION {m M : Nat} (b : m.testBit 138 = true) (h : sub m M = true) : has Reg.CORE_STAT_VERSION M := has_of_bit (j := 106) rfl b h

theorem has_SEC_STAT_RECOVERY {m M : Nat} (b : m.testBit 139 = true) (h : sub m M = true) : has Reg.SEC_STAT_RECOVERY M := has_of_bit (j := 107) rfl b h

theorem has_SEC_STAT_LOG_OVERFLOW {m M : Nat} (b : m.testBit 140 = true) (h : sub m M = true) : has Reg.SEC_STAT_LOG_OVERFLOW M := has_of_bit (j := 108) rfl b h

theorem has_SEC_STAT_RNG_FAIL {m M : Nat} (b : m.testBit 141 = true) (h : sub m M = true) : has Reg.SEC_STAT_RNG_FAIL M := has_of_bit (j := 109) rfl b h

theorem has_SEC_STAT_USER_KEY_SET {m M : Nat} (b : m.testBit 142 = true) (h : sub m M = true) : has Reg.SEC_STAT_USER_KEY_SET M := has_of_bit (j := 110) rfl b h

theorem has_SEC_STAT_BOOT_ERR {m M : Nat} (b : m.testBit 143 = true) (h : sub m M = true) : has Reg.SEC_STAT_BOOT_ERR M := has_of_bit (j := 111) rfl b h

theorem has_SEC_SVN_SVN_MIN {m M : Nat} (b : m.testBit 144 = true) (h : sub m M = true) : has Reg.SEC_SVN_SVN_MIN M := has_of_bit (j := 112) rfl b h

theorem has_SEC_SVN_SVN_RUN {m M : Nat} (b : m.testBit 145 = true) (h : sub m M = true) : has Reg.SEC_SVN_SVN_RUN M := has_of_bit (j := 113) rfl b h

theorem has_LOG_COUNT_COUNT {m M : Nat} (b : m.testBit 146 = true) (h : sub m M = true) : has Reg.LOG_COUNT_COUNT M := has_of_bit (j := 114) rfl b h

theorem has_LOG_SEL_ENTRY {m M : Nat} (b : m.testBit 147 = true) (h : sub m M = true) : has Reg.LOG_SEL_ENTRY M := has_of_bit (j := 115) rfl b h

theorem has_LOG_SEL_WORD {m M : Nat} (b : m.testBit 148 = true) (h : sub m M = true) : has Reg.LOG_SEL_WORD M := has_of_bit (j := 116) rfl b h

theorem has_MR_EXT_DIGEST {m M : Nat} (b : m.testBit 149 = true) (h : sub m M = true) : has Reg.MR_EXT_DIGEST M := has_of_bit (j := 117) rfl b h

theorem has_ATT_COUNT_COUNT {m M : Nat} (b : m.testBit 150 = true) (h : sub m M = true) : has Reg.ATT_COUNT_COUNT M := has_of_bit (j := 118) rfl b h

theorem has_USER_KEY_HASH_HASH {m M : Nat} (b : m.testBit 151 = true) (h : sub m M = true) : has Reg.USER_KEY_HASH_HASH M := has_of_bit (j := 119) rfl b h

theorem has_FL_ADDR_ADDR {m M : Nat} (b : m.testBit 152 = true) (h : sub m M = true) : has Reg.FL_ADDR_ADDR M := has_of_bit (j := 120) rfl b h

theorem has_FL_STAT_BUSY {m M : Nat} (b : m.testBit 153 = true) (h : sub m M = true) : has Reg.FL_STAT_BUSY M := has_of_bit (j := 121) rfl b h

theorem has_FL_STAT_RESULT {m M : Nat} (b : m.testBit 154 = true) (h : sub m M = true) : has Reg.FL_STAT_RESULT M := has_of_bit (j := 122) rfl b h

theorem has_FW_STAT_PHASE {m M : Nat} (b : m.testBit 155 = true) (h : sub m M = true) : has Reg.FW_STAT_PHASE M := has_of_bit (j := 123) rfl b h

theorem has_FW_STAT_MIXED {m M : Nat} (b : m.testBit 156 = true) (h : sub m M = true) : has Reg.FW_STAT_MIXED M := has_of_bit (j := 124) rfl b h

theorem has_FW_STAT_STAGED_VER {m M : Nat} (b : m.testBit 157 = true) (h : sub m M = true) : has Reg.FW_STAT_STAGED_VER M := has_of_bit (j := 125) rfl b h

theorem has_SVC_STAT_SVC_FULL {m M : Nat} (b : m.testBit 158 = true) (h : sub m M = true) : has Reg.SVC_STAT_SVC_FULL M := has_of_bit (j := 126) rfl b h

theorem has_SVC_STAT_SVC_LOST {m M : Nat} (b : m.testBit 159 = true) (h : sub m M = true) : has Reg.SVC_STAT_SVC_LOST M := has_of_bit (j := 127) rfl b h

theorem has_PORT_STAT_LINK {m M : Nat} (b : m.testBit 160 = true) (h : sub m M = true) : has Reg.PORT_STAT_LINK M := has_of_bit (j := 128) rfl b h

theorem has_PORT_STAT_FEC_LOCK {m M : Nat} (b : m.testBit 161 = true) (h : sub m M = true) : has Reg.PORT_STAT_FEC_LOCK M := has_of_bit (j := 129) rfl b h

theorem has_RX_FRAMES_COUNT {m M : Nat} (b : m.testBit 162 = true) (h : sub m M = true) : has Reg.RX_FRAMES_COUNT M := has_of_bit (j := 130) rfl b h

theorem has_RX_FCS_ERR_COUNT {m M : Nat} (b : m.testBit 163 = true) (h : sub m M = true) : has Reg.RX_FCS_ERR_COUNT M := has_of_bit (j := 131) rfl b h

theorem has_RX_FILTERED_COUNT {m M : Nat} (b : m.testBit 164 = true) (h : sub m M = true) : has Reg.RX_FILTERED_COUNT M := has_of_bit (j := 132) rfl b h

theorem has_TX_FRAMES_COUNT {m M : Nat} (b : m.testBit 165 = true) (h : sub m M = true) : has Reg.TX_FRAMES_COUNT M := has_of_bit (j := 133) rfl b h

theorem has_PAUSE_RX_COUNT {m M : Nat} (b : m.testBit 166 = true) (h : sub m M = true) : has Reg.PAUSE_RX_COUNT M := has_of_bit (j := 134) rfl b h

theorem has_PFC_TX_COUNT {m M : Nat} (b : m.testBit 167 = true) (h : sub m M = true) : has Reg.PFC_TX_COUNT M := has_of_bit (j := 135) rfl b h

theorem has_SC_STAT_PREEMPT {m M : Nat} (b : m.testBit 168 = true) (h : sub m M = true) : has Reg.SC_STAT_PREEMPT M := has_of_bit (j := 136) rfl b h

theorem has_SC_STAT_PFC_ACTIVE {m M : Nat} (b : m.testBit 169 = true) (h : sub m M = true) : has Reg.SC_STAT_PFC_ACTIVE M := has_of_bit (j := 137) rfl b h

theorem has_SC_STAT_WL_BUSY {m M : Nat} (b : m.testBit 170 = true) (h : sub m M = true) : has Reg.SC_STAT_WL_BUSY M := has_of_bit (j := 138) rfl b h

theorem has_SC_STAT_V_BUSY {m M : Nat} (b : m.testBit 171 = true) (h : sub m M = true) : has Reg.SC_STAT_V_BUSY M := has_of_bit (j := 139) rfl b h

theorem has_SC_STAT_CAL_USED {m M : Nat} (b : m.testBit 172 = true) (h : sub m M = true) : has Reg.SC_STAT_CAL_USED M := has_of_bit (j := 140) rfl b h

theorem has_SC_DSEL_WORD {m M : Nat} (b : m.testBit 173 = true) (h : sub m M = true) : has Reg.SC_DSEL_WORD M := has_of_bit (j := 141) rfl b h

theorem has_SC_VRES_OK {m M : Nat} (b : m.testBit 174 = true) (h : sub m M = true) : has Reg.SC_VRES_OK M := has_of_bit (j := 142) rfl b h

theorem has_SC_VRES_SLOT {m M : Nat} (b : m.testBit 175 = true) (h : sub m M = true) : has Reg.SC_VRES_SLOT M := has_of_bit (j := 143) rfl b h

theorem has_SC_VRES_CODE {m M : Nat} (b : m.testBit 176 = true) (h : sub m M = true) : has Reg.SC_VRES_CODE M := has_of_bit (j := 144) rfl b h

theorem has_SC_VRES_LAYER {m M : Nat} (b : m.testBit 177 = true) (h : sub m M = true) : has Reg.SC_VRES_LAYER M := has_of_bit (j := 145) rfl b h

theorem has_SC_REQS_COUNT {m M : Nat} (b : m.testBit 178 = true) (h : sub m M = true) : has Reg.SC_REQS_COUNT M := has_of_bit (j := 146) rfl b h

theorem has_SC_OK_COUNT {m M : Nat} (b : m.testBit 179 = true) (h : sub m M = true) : has Reg.SC_OK_COUNT M := has_of_bit (j := 147) rfl b h

theorem has_SC_BUSY_COUNT {m M : Nat} (b : m.testBit 180 = true) (h : sub m M = true) : has Reg.SC_BUSY_COUNT M := has_of_bit (j := 148) rfl b h

theorem has_SC_BADS_COUNT {m M : Nat} (b : m.testBit 181 = true) (h : sub m M = true) : has Reg.SC_BADS_COUNT M := has_of_bit (j := 149) rfl b h

theorem has_SC_FAULTS_COUNT {m M : Nat} (b : m.testBit 182 = true) (h : sub m M = true) : has Reg.SC_FAULTS_COUNT M := has_of_bit (j := 150) rfl b h

theorem has_SC_RUNTS_COUNT {m M : Nat} (b : m.testBit 183 = true) (h : sub m M = true) : has Reg.SC_RUNTS_COUNT M := has_of_bit (j := 151) rfl b h

theorem has_SC_LOST_COUNT {m M : Nat} (b : m.testBit 184 = true) (h : sub m M = true) : has Reg.SC_LOST_COUNT M := has_of_bit (j := 152) rfl b h

theorem has_SWAP_SKIPS_COUNT {m M : Nat} (b : m.testBit 185 = true) (h : sub m M = true) : has Reg.SWAP_SKIPS_COUNT M := has_of_bit (j := 153) rfl b h

theorem has_SC_HALTED_COUNT {m M : Nat} (b : m.testBit 186 = true) (h : sub m M = true) : has Reg.SC_HALTED_COUNT M := has_of_bit (j := 154) rfl b h

theorem has_SC_FAULT_KITE {m M : Nat} (b : m.testBit 187 = true) (h : sub m M = true) : has Reg.SC_FAULT_KITE M := has_of_bit (j := 155) rfl b h

theorem has_SC_FAULT_SLOT {m M : Nat} (b : m.testBit 188 = true) (h : sub m M = true) : has Reg.SC_FAULT_SLOT M := has_of_bit (j := 156) rfl b h

theorem has_SC_FAULT_CODE {m M : Nat} (b : m.testBit 189 = true) (h : sub m M = true) : has Reg.SC_FAULT_CODE M := has_of_bit (j := 157) rfl b h

theorem has_SC_SLOT_LIVE {m M : Nat} (b : m.testBit 190 = true) (h : sub m M = true) : has Reg.SC_SLOT_LIVE M := has_of_bit (j := 158) rfl b h

theorem has_SC_SLOT_SHADOW_OK {m M : Nat} (b : m.testBit 191 = true) (h : sub m M = true) : has Reg.SC_SLOT_SHADOW_OK M := has_of_bit (j := 159) rfl b h

theorem has_SC_SLOT_RETIRING {m M : Nat} (b : m.testBit 192 = true) (h : sub m M = true) : has Reg.SC_SLOT_RETIRING M := has_of_bit (j := 160) rfl b h

theorem has_SC_SLOT_STALE {m M : Nat} (b : m.testBit 193 = true) (h : sub m M = true) : has Reg.SC_SLOT_STALE M := has_of_bit (j := 161) rfl b h

theorem has_SC_SLOT_COST_C {m M : Nat} (b : m.testBit 194 = true) (h : sub m M = true) : has Reg.SC_SLOT_COST_C M := has_of_bit (j := 162) rfl b h

theorem has_SC_SLOT_VERSION {m M : Nat} (b : m.testBit 195 = true) (h : sub m M = true) : has Reg.SC_SLOT_VERSION M := has_of_bit (j := 163) rfl b h

theorem has_SC_LAT_COUNT {m M : Nat} (b : m.testBit 196 = true) (h : sub m M = true) : has Reg.SC_LAT_COUNT M := has_of_bit (j := 164) rfl b h

theorem has_CE_EXP_X {m M : Nat} (b : m.testBit 197 = true) (h : sub m M = true) : has Reg.CE_EXP_X M := has_of_bit (j := 165) rfl b h

theorem has_EVT_NEXT_SEQ {m M : Nat} (b : m.testBit 198 = true) (h : sub m M = true) : has Reg.EVT_NEXT_SEQ M := has_of_bit (j := 166) rfl b h

theorem has_CE_BAD_COUNT {m M : Nat} (b : m.testBit 199 = true) (h : sub m M = true) : has Reg.CE_BAD_COUNT M := has_of_bit (j := 167) rfl b h

theorem has_CE_DUPS_COUNT {m M : Nat} (b : m.testBit 200 = true) (h : sub m M = true) : has Reg.CE_DUPS_COUNT M := has_of_bit (j := 168) rfl b h

theorem has_CE_WINDOW_COUNT {m M : Nat} (b : m.testBit 201 = true) (h : sub m M = true) : has Reg.CE_WINDOW_COUNT M := has_of_bit (j := 169) rfl b h

theorem has_EVT_FWD_LOST_COUNT {m M : Nat} (b : m.testBit 202 = true) (h : sub m M = true) : has Reg.EVT_FWD_LOST_COUNT M := has_of_bit (j := 170) rfl b h

theorem has_BULK_LOST_COUNT {m M : Nat} (b : m.testBit 203 = true) (h : sub m M = true) : has Reg.BULK_LOST_COUNT M := has_of_bit (j := 171) rfl b h

theorem has_TB_SYNC_LOCKED {m M : Nat} (b : m.testBit 204 = true) (h : sub m M = true) : has Reg.TB_SYNC_LOCKED M := has_of_bit (j := 172) rfl b h

theorem has_TB_SYNC_LOADED {m M : Nat} (b : m.testBit 205 = true) (h : sub m M = true) : has Reg.TB_SYNC_LOADED M := has_of_bit (j := 173) rfl b h

theorem has_TB_SYNC_MASTER {m M : Nat} (b : m.testBit 206 = true) (h : sub m M = true) : has Reg.TB_SYNC_MASTER M := has_of_bit (j := 174) rfl b h

theorem has_TB_SYNC_OFFSET {m M : Nat} (b : m.testBit 207 = true) (h : sub m M = true) : has Reg.TB_SYNC_OFFSET M := has_of_bit (j := 175) rfl b h

theorem has_TB_MEAS_AT_LO {m M : Nat} (b : m.testBit 208 = true) (h : sub m M = true) : has Reg.TB_MEAS_AT_LO M := has_of_bit (j := 176) rfl b h

theorem has_TB_MEAS_AT_HI {m M : Nat} (b : m.testBit 209 = true) (h : sub m M = true) : has Reg.TB_MEAS_AT_HI M := has_of_bit (j := 177) rfl b h

theorem has_HD_STAT_STATE {m M : Nat} (b : m.testBit 210 = true) (h : sub m M = true) : has Reg.HD_STAT_STATE M := has_of_bit (j := 178) rfl b h

theorem has_HD_STAT_LATE {m M : Nat} (b : m.testBit 211 = true) (h : sub m M = true) : has Reg.HD_STAT_LATE M := has_of_bit (j := 179) rfl b h

theorem has_HD_STAT_INCOMPLETE {m M : Nat} (b : m.testBit 212 = true) (h : sub m M = true) : has Reg.HD_STAT_INCOMPLETE M := has_of_bit (j := 180) rfl b h

theorem has_HD_STAT_FABRIC {m M : Nat} (b : m.testBit 213 = true) (h : sub m M = true) : has Reg.HD_STAT_FABRIC M := has_of_bit (j := 181) rfl b h

theorem has_HD_STAT_DUMP_BUSY {m M : Nat} (b : m.testBit 214 = true) (h : sub m M = true) : has Reg.HD_STAT_DUMP_BUSY M := has_of_bit (j := 182) rfl b h

theorem has_HD_STAT_ORIGIN {m M : Nat} (b : m.testBit 215 = true) (h : sub m M = true) : has Reg.HD_STAT_ORIGIN M := has_of_bit (j := 183) rfl b h

theorem has_HD_CAUSE_CAUSE {m M : Nat} (b : m.testBit 216 = true) (h : sub m M = true) : has Reg.HD_CAUSE_CAUSE M := has_of_bit (j := 184) rfl b h

theorem has_HD_CAUSE_SOURCE {m M : Nat} (b : m.testBit 217 = true) (h : sub m M = true) : has Reg.HD_CAUSE_SOURCE M := has_of_bit (j := 185) rfl b h

theorem has_HD_CUT_LO {m M : Nat} (b : m.testBit 218 = true) (h : sub m M = true) : has Reg.HD_CUT_LO M := has_of_bit (j := 186) rfl b h

theorem has_HD_CUT_HI {m M : Nat} (b : m.testBit 219 = true) (h : sub m M = true) : has Reg.HD_CUT_HI M := has_of_bit (j := 187) rfl b h

theorem has_HD_RESUMED_LO {m M : Nat} (b : m.testBit 220 = true) (h : sub m M = true) : has Reg.HD_RESUMED_LO M := has_of_bit (j := 188) rfl b h

theorem has_HD_RESUMED_HI {m M : Nat} (b : m.testBit 221 = true) (h : sub m M = true) : has Reg.HD_RESUMED_HI M := has_of_bit (j := 189) rfl b h

theorem has_HD_LINES_OPEN_LINES {m M : Nat} (b : m.testBit 222 = true) (h : sub m M = true) : has Reg.HD_LINES_OPEN_LINES M := has_of_bit (j := 190) rfl b h

theorem has_HAULS_COUNT {m M : Nat} (b : m.testBit 223 = true) (h : sub m M = true) : has Reg.HAULS_COUNT M := has_of_bit (j := 191) rfl b h

theorem has_HAULS_IGNORED_COUNT {m M : Nat} (b : m.testBit 224 = true) (h : sub m M = true) : has Reg.HAULS_IGNORED_COUNT M := has_of_bit (j := 192) rfl b h

theorem has_HAUL_OTHER_COUNT {m M : Nat} (b : m.testBit 225 = true) (h : sub m M = true) : has Reg.HAUL_OTHER_COUNT M := has_of_bit (j := 193) rfl b h

theorem has_LATE_CUTS_COUNT {m M : Nat} (b : m.testBit 226 = true) (h : sub m M = true) : has Reg.LATE_CUTS_COUNT M := has_of_bit (j := 194) rfl b h

theorem has_MARK_TIMEOUTS_COUNT {m M : Nat} (b : m.testBit 227 = true) (h : sub m M = true) : has Reg.MARK_TIMEOUTS_COUNT M := has_of_bit (j := 195) rfl b h

theorem has_LATE_RELEASES_COUNT {m M : Nat} (b : m.testBit 228 = true) (h : sub m M = true) : has Reg.LATE_RELEASES_COUNT M := has_of_bit (j := 196) rfl b h

theorem has_TR_HEAD_WRAPPED {m M : Nat} (b : m.testBit 229 = true) (h : sub m M = true) : has Reg.TR_HEAD_WRAPPED M := has_of_bit (j := 197) rfl b h

theorem has_TR_HEAD_OFFSET {m M : Nat} (b : m.testBit 230 = true) (h : sub m M = true) : has Reg.TR_HEAD_OFFSET M := has_of_bit (j := 198) rfl b h

theorem has_TR_DROPS_DROPS {m M : Nat} (b : m.testBit 231 = true) (h : sub m M = true) : has Reg.TR_DROPS_DROPS M := has_of_bit (j := 199) rfl b h

theorem has_TRN_KMAP_SLOT {m M : Nat} (b : m.testBit 232 = true) (h : sub m M = true) : has Reg.TRN_KMAP_SLOT M := has_of_bit (j := 200) rfl b h

theorem has_TRN_BALLAST_USED {m M : Nat} (b : m.testBit 233 = true) (h : sub m M = true) : has Reg.TRN_BALLAST_USED M := has_of_bit (j := 201) rfl b h

theorem has_TRN_BALLAST_SLOT {m M : Nat} (b : m.testBit 234 = true) (h : sub m M = true) : has Reg.TRN_BALLAST_SLOT M := has_of_bit (j := 202) rfl b h

theorem has_TRN_KSTAT_FAILED {m M : Nat} (b : m.testBit 235 = true) (h : sub m M = true) : has Reg.TRN_KSTAT_FAILED M := has_of_bit (j := 203) rfl b h

theorem has_SPOOL_SPARE_WAY_DISABLED {m M : Nat} (b : m.testBit 236 = true) (h : sub m M = true) : has Reg.SPOOL_SPARE_WAY_DISABLED M := has_of_bit (j := 204) rfl b h

theorem has_SPOOL_SPARE_SPARE_USED {m M : Nat} (b : m.testBit 237 = true) (h : sub m M = true) : has Reg.SPOOL_SPARE_SPARE_USED M := has_of_bit (j := 205) rfl b h

theorem has_SP_HITS_LO {m M : Nat} (b : m.testBit 238 = true) (h : sub m M = true) : has Reg.SP_HITS_LO M := has_of_bit (j := 206) rfl b h

theorem has_SP_HITS_HI {m M : Nat} (b : m.testBit 239 = true) (h : sub m M = true) : has Reg.SP_HITS_HI M := has_of_bit (j := 207) rfl b h

theorem has_SP_MISSES_LO {m M : Nat} (b : m.testBit 240 = true) (h : sub m M = true) : has Reg.SP_MISSES_LO M := has_of_bit (j := 208) rfl b h

theorem has_SP_MISSES_HI {m M : Nat} (b : m.testBit 241 = true) (h : sub m M = true) : has Reg.SP_MISSES_HI M := has_of_bit (j := 209) rfl b h

theorem has_SP_WRITEBACKS_COUNT {m M : Nat} (b : m.testBit 242 = true) (h : sub m M = true) : has Reg.SP_WRITEBACKS_COUNT M := has_of_bit (j := 210) rfl b h

theorem has_LAST_DIRTY_DROPS_COUNT {m M : Nat} (b : m.testBit 243 = true) (h : sub m M = true) : has Reg.LAST_DIRTY_DROPS_COUNT M := has_of_bit (j := 211) rfl b h

theorem has_LAST_ON_KEEP_COUNT {m M : Nat} (b : m.testBit 244 = true) (h : sub m M = true) : has Reg.LAST_ON_KEEP_COUNT M := has_of_bit (j := 212) rfl b h

theorem has_KEEP_DENIED_COUNT {m M : Nat} (b : m.testBit 245 = true) (h : sub m M = true) : has Reg.KEEP_DENIED_COUNT M := has_of_bit (j := 213) rfl b h

theorem has_SP_REFETCH_COUNT {m M : Nat} (b : m.testBit 246 = true) (h : sub m M = true) : has Reg.SP_REFETCH_COUNT M := has_of_bit (j := 214) rfl b h

theorem has_REG_STALLS_STALLS {m M : Nat} (b : m.testBit 247 = true) (h : sub m M = true) : has Reg.REG_STALLS_STALLS M := has_of_bit (j := 215) rfl b h

theorem has_WN_STAT_BUSY {m M : Nat} (b : m.testBit 248 = true) (h : sub m M = true) : has Reg.WN_STAT_BUSY M := has_of_bit (j := 216) rfl b h

theorem has_WN_STAT_PHASE {m M : Nat} (b : m.testBit 249 = true) (h : sub m M = true) : has Reg.WN_STAT_PHASE M := has_of_bit (j := 217) rfl b h

theorem has_WN_STAT_CTX {m M : Nat} (b : m.testBit 250 = true) (h : sub m M = true) : has Reg.WN_STAT_CTX M := has_of_bit (j := 218) rfl b h

theorem has_WN_STAT_SEG {m M : Nat} (b : m.testBit 251 = true) (h : sub m M = true) : has Reg.WN_STAT_SEG M := has_of_bit (j := 219) rfl b h

theorem has_WN_FAULT_RECORD {m M : Nat} (b : m.testBit 252 = true) (h : sub m M = true) : has Reg.WN_FAULT_RECORD M := has_of_bit (j := 220) rfl b h

theorem has_WN_FAULT_CODE {m M : Nat} (b : m.testBit 253 = true) (h : sub m M = true) : has Reg.WN_FAULT_CODE M := has_of_bit (j := 221) rfl b h

theorem has_SEGS_COMBINED_COUNT {m M : Nat} (b : m.testBit 254 = true) (h : sub m M = true) : has Reg.SEGS_COMBINED_COUNT M := has_of_bit (j := 222) rfl b h

theorem has_SCALE_RAISED_COUNT {m M : Nat} (b : m.testBit 255 = true) (h : sub m M = true) : has Reg.SCALE_RAISED_COUNT M := has_of_bit (j := 223) rfl b h

theorem has_WN_CLIPS_COUNT {m M : Nat} (b : m.testBit 256 = true) (h : sub m M = true) : has Reg.WN_CLIPS_COUNT M := has_of_bit (j := 224) rfl b h

theorem has_WN_OF_COUNT {m M : Nat} (b : m.testBit 257 = true) (h : sub m M = true) : has Reg.WN_OF_COUNT M := has_of_bit (j := 225) rfl b h

theorem has_NAN_ELEMS_COUNT {m M : Nat} (b : m.testBit 258 = true) (h : sub m M = true) : has Reg.NAN_ELEMS_COUNT M := has_of_bit (j := 226) rfl b h

theorem has_WAIT_TICKS_COUNT {m M : Nat} (b : m.testBit 259 = true) (h : sub m M = true) : has Reg.WAIT_TICKS_COUNT M := has_of_bit (j := 227) rfl b h

theorem has_BACKUP_TAKEN_COUNT {m M : Nat} (b : m.testBit 260 = true) (h : sub m M = true) : has Reg.BACKUP_TAKEN_COUNT M := has_of_bit (j := 228) rfl b h

theorem has_DUP_DISCARDS_COUNT {m M : Nat} (b : m.testBit 261 = true) (h : sub m M = true) : has Reg.DUP_DISCARDS_COUNT M := has_of_bit (j := 229) rfl b h

theorem has_PROTO_DROPS_COUNT {m M : Nat} (b : m.testBit 262 = true) (h : sub m M = true) : has Reg.PROTO_DROPS_COUNT M := has_of_bit (j := 230) rfl b h

theorem has_WN_NAN_INFO_VALID {m M : Nat} (b : m.testBit 263 = true) (h : sub m M = true) : has Reg.WN_NAN_INFO_VALID M := has_of_bit (j := 231) rfl b h

theorem has_WN_NAN_INFO_RANK {m M : Nat} (b : m.testBit 264 = true) (h : sub m M = true) : has Reg.WN_NAN_INFO_RANK M := has_of_bit (j := 232) rfl b h

theorem has_WN_NAN_INFO_DESC {m M : Nat} (b : m.testBit 265 = true) (h : sub m M = true) : has Reg.WN_NAN_INFO_DESC M := has_of_bit (j := 233) rfl b h

theorem has_WN_NAN_ELEM_ELEM {m M : Nat} (b : m.testBit 266 = true) (h : sub m M = true) : has Reg.WN_NAN_ELEM_ELEM M := has_of_bit (j := 234) rfl b h

theorem has_WN_NAN_STEP_STEP {m M : Nat} (b : m.testBit 267 = true) (h : sub m M = true) : has Reg.WN_NAN_STEP_STEP M := has_of_bit (j := 235) rfl b h

theorem has_SCALE_CLAMPED_COUNT {m M : Nat} (b : m.testBit 268 = true) (h : sub m M = true) : has Reg.SCALE_CLAMPED_COUNT M := has_of_bit (j := 236) rfl b h

theorem has_NAN_GROUPS_GROUPS {m M : Nat} (b : m.testBit 269 = true) (h : sub m M = true) : has Reg.NAN_GROUPS_GROUPS M := has_of_bit (j := 237) rfl b h

theorem has_NAN_SEALED_GROUPS {m M : Nat} (b : m.testBit 270 = true) (h : sub m M = true) : has Reg.NAN_SEALED_GROUPS M := has_of_bit (j := 238) rfl b h

theorem has_BN_STAT_BUSY {m M : Nat} (b : m.testBit 271 = true) (h : sub m M = true) : has Reg.BN_STAT_BUSY M := has_of_bit (j := 239) rfl b h

theorem has_BN_STAT_PHASE {m M : Nat} (b : m.testBit 272 = true) (h : sub m M = true) : has Reg.BN_STAT_PHASE M := has_of_bit (j := 240) rfl b h

theorem has_BN_STAT_RECORD {m M : Nat} (b : m.testBit 273 = true) (h : sub m M = true) : has Reg.BN_STAT_RECORD M := has_of_bit (j := 241) rfl b h

theorem has_BN_FAULT_RECORD {m M : Nat} (b : m.testBit 274 = true) (h : sub m M = true) : has Reg.BN_FAULT_RECORD M := has_of_bit (j := 242) rfl b h

theorem has_BN_FAULT_CODE {m M : Nat} (b : m.testBit 275 = true) (h : sub m M = true) : has Reg.BN_FAULT_CODE M := has_of_bit (j := 243) rfl b h

theorem has_BN_PROGRESS_ELEM {m M : Nat} (b : m.testBit 276 = true) (h : sub m M = true) : has Reg.BN_PROGRESS_ELEM M := has_of_bit (j := 244) rfl b h

theorem has_UPDATES_COUNT {m M : Nat} (b : m.testBit 277 = true) (h : sub m M = true) : has Reg.UPDATES_COUNT M := has_of_bit (j := 245) rfl b h

theorem has_NAN_SKIPS_COUNT {m M : Nat} (b : m.testBit 278 = true) (h : sub m M = true) : has Reg.NAN_SKIPS_COUNT M := has_of_bit (j := 246) rfl b h

theorem has_BLOCK_FALLBACK_COUNT {m M : Nat} (b : m.testBit 279 = true) (h : sub m M = true) : has Reg.BLOCK_FALLBACK_COUNT M := has_of_bit (j := 247) rfl b h

theorem has_REFACTORS_COUNT {m M : Nat} (b : m.testBit 280 = true) (h : sub m M = true) : has Reg.REFACTORS_COUNT M := has_of_bit (j := 248) rfl b h

theorem has_DAMP_RAISES_COUNT {m M : Nat} (b : m.testBit 281 = true) (h : sub m M = true) : has Reg.DAMP_RAISES_COUNT M := has_of_bit (j := 249) rfl b h

theorem has_BN_CLIPS_COUNT {m M : Nat} (b : m.testBit 282 = true) (h : sub m M = true) : has Reg.BN_CLIPS_COUNT M := has_of_bit (j := 250) rfl b h

theorem has_WC_CLIPS_COUNT {m M : Nat} (b : m.testBit 283 = true) (h : sub m M = true) : has Reg.WC_CLIPS_COUNT M := has_of_bit (j := 251) rfl b h

theorem has_UPD_NONFINITE_COUNT {m M : Nat} (b : m.testBit 284 = true) (h : sub m M = true) : has Reg.UPD_NONFINITE_COUNT M := has_of_bit (j := 252) rfl b h

theorem has_WC_REWRITES_COUNT {m M : Nat} (b : m.testBit 285 = true) (h : sub m M = true) : has Reg.WC_REWRITES_COUNT M := has_of_bit (j := 253) rfl b h

theorem has_REEL_WAITS_COUNT {m M : Nat} (b : m.testBit 286 = true) (h : sub m M = true) : has Reg.REEL_WAITS_COUNT M := has_of_bit (j := 254) rfl b h

theorem has_BN_GSEL_GROUP {m M : Nat} (b : m.testBit 287 = true) (h : sub m M = true) : has Reg.BN_GSEL_GROUP M := has_of_bit (j := 255) rfl b h

theorem has_BN_GSEL_WORD {m M : Nat} (b : m.testBit 288 = true) (h : sub m M = true) : has Reg.BN_GSEL_WORD M := has_of_bit (j := 256) rfl b h

theorem has_BN_GINVALID_GROUPS {m M : Nat} (b : m.testBit 289 = true) (h : sub m M = true) : has Reg.BN_GINVALID_GROUPS M := has_of_bit (j := 257) rfl b h

theorem has_RL_STEP_STEP {m M : Nat} (b : m.testBit 290 = true) (h : sub m M = true) : has Reg.RL_STEP_STEP M := has_of_bit (j := 258) rfl b h

theorem has_KITE_STATE_STATE {m M : Nat} (b : m.testBit 291 = true) (h : sub m M = true) : has Reg.KITE_STATE_STATE M := has_of_bit (j := 259) rfl b h

theorem has_KITE_FAULT_OP_INDEX {m M : Nat} (b : m.testBit 292 = true) (h : sub m M = true) : has Reg.KITE_FAULT_OP_INDEX M := has_of_bit (j := 260) rfl b h

theorem has_KITE_FAULT_CODE {m M : Nat} (b : m.testBit 293 = true) (h : sub m M = true) : has Reg.KITE_FAULT_CODE M := has_of_bit (j := 261) rfl b h

theorem has_OPS_BASE_BASE {m M : Nat} (b : m.testBit 294 = true) (h : sub m M = true) : has Reg.OPS_BASE_BASE M := has_of_bit (j := 262) rfl b h

theorem has_OPS_COUNT_COUNT {m M : Nat} (b : m.testBit 295 = true) (h : sub m M = true) : has Reg.OPS_COUNT_COUNT M := has_of_bit (j := 263) rfl b h

theorem has_PLAN_PC_PC {m M : Nat} (b : m.testBit 296 = true) (h : sub m M = true) : has Reg.PLAN_PC_PC M := has_of_bit (j := 264) rfl b h

theorem has_SLIP_COUNT_SLIPS {m M : Nat} (b : m.testBit 297 = true) (h : sub m M = true) : has Reg.SLIP_COUNT_SLIPS M := has_of_bit (j := 265) rfl b h

theorem has_ACC_BASE_ACC_BASE {m M : Nat} (b : m.testBit 298 = true) (h : sub m M = true) : has Reg.ACC_BASE_ACC_BASE M := has_of_bit (j := 266) rfl b h

theorem has_ACC_SIZE_ACC_SIZE {m M : Nat} (b : m.testBit 299 = true) (h : sub m M = true) : has Reg.ACC_SIZE_ACC_SIZE M := has_of_bit (j := 267) rfl b h

theorem has_SP_SPARE_SPARE_USED {m M : Nat} (b : m.testBit 300 = true) (h : sub m M = true) : has Reg.SP_SPARE_SPARE_USED M := has_of_bit (j := 268) rfl b h

theorem has_SP_RETIRE_SP_RETIRE_CE {m M : Nat} (b : m.testBit 301 = true) (h : sub m M = true) : has Reg.SP_RETIRE_SP_RETIRE_CE M := has_of_bit (j := 269) rfl b h

theorem has_BANK_STALL_STALLS {m M : Nat} (b : m.testBit 302 = true) (h : sub m M = true) : has Reg.BANK_STALL_STALLS M := has_of_bit (j := 270) rfl b h

theorem has_GATE_CTL_ZERO_GATE_EN {m M : Nat} (b : m.testBit 303 = true) (h : sub m M = true) : has Reg.GATE_CTL_ZERO_GATE_EN M := has_of_bit (j := 271) rfl b h

theorem has_ARR_PROFILE_MODE {m M : Nat} (b : m.testBit 304 = true) (h : sub m M = true) : has Reg.ARR_PROFILE_MODE M := has_of_bit (j := 272) rfl b h

theorem has_ARR_PROFILE_SHAPE {m M : Nat} (b : m.testBit 305 = true) (h : sub m M = true) : has Reg.ARR_PROFILE_SHAPE M := has_of_bit (j := 273) rfl b h

theorem has_ARR_PROFILE_BRIDLE {m M : Nat} (b : m.testBit 306 = true) (h : sub m M = true) : has Reg.ARR_PROFILE_BRIDLE M := has_of_bit (j := 274) rfl b h

theorem has_ROW_MASK_ROWS {m M : Nat} (b : m.testBit 307 = true) (h : sub m M = true) : has Reg.ROW_MASK_ROWS M := has_of_bit (j := 275) rfl b h

theorem has_ARR_STATUS_LOAD_ROW {m M : Nat} (b : m.testBit 308 = true) (h : sub m M = true) : has Reg.ARR_STATUS_LOAD_ROW M := has_of_bit (j := 276) rfl b h

theorem has_ARR_STATUS_LIVE_PROFILE {m M : Nat} (b : m.testBit 309 = true) (h : sub m M = true) : has Reg.ARR_STATUS_LIVE_PROFILE M := has_of_bit (j := 277) rfl b h

theorem has_ARR_STATUS_LIVE_BRIDLE {m M : Nat} (b : m.testBit 310 = true) (h : sub m M = true) : has Reg.ARR_STATUS_LIVE_BRIDLE M := has_of_bit (j := 278) rfl b h

theorem has_ARR_STATUS_LIVE_SHAPE {m M : Nat} (b : m.testBit 311 = true) (h : sub m M = true) : has Reg.ARR_STATUS_LIVE_SHAPE M := has_of_bit (j := 279) rfl b h

theorem has_ARR_STATUS_LIVE_VALID {m M : Nat} (b : m.testBit 312 = true) (h : sub m M = true) : has Reg.ARR_STATUS_LIVE_VALID M := has_of_bit (j := 280) rfl b h

theorem has_ARR_STATUS_SHADOW_STATE {m M : Nat} (b : m.testBit 313 = true) (h : sub m M = true) : has Reg.ARR_STATUS_SHADOW_STATE M := has_of_bit (j := 281) rfl b h

theorem has_ARR_FLAGS_STEP_FLAGS {m M : Nat} (b : m.testBit 314 = true) (h : sub m M = true) : has Reg.ARR_FLAGS_STEP_FLAGS M := has_of_bit (j := 282) rfl b h

theorem has_ARR_FLAGS_UF {m M : Nat} (b : m.testBit 315 = true) (h : sub m M = true) : has Reg.ARR_FLAGS_UF M := has_of_bit (j := 283) rfl b h

theorem has_ARR_FLAGS_OF {m M : Nat} (b : m.testBit 316 = true) (h : sub m M = true) : has Reg.ARR_FLAGS_OF M := has_of_bit (j := 284) rfl b h

theorem has_ARR_FLAGS_INVALID {m M : Nat} (b : m.testBit 317 = true) (h : sub m M = true) : has Reg.ARR_FLAGS_INVALID M := has_of_bit (j := 285) rfl b h

theorem has_ARR_FLAGS_NAN_IN {m M : Nat} (b : m.testBit 318 = true) (h : sub m M = true) : has Reg.ARR_FLAGS_NAN_IN M := has_of_bit (j := 286) rfl b h

theorem has_STAT_LOADS_LO {m M : Nat} (b : m.testBit 319 = true) (h : sub m M = true) : has Reg.STAT_LOADS_LO M := has_of_bit (j := 287) rfl b h

theorem has_STAT_LOADS_HI {m M : Nat} (b : m.testBit 320 = true) (h : sub m M = true) : has Reg.STAT_LOADS_HI M := has_of_bit (j := 288) rfl b h

theorem has_STREAM_COLS_LO {m M : Nat} (b : m.testBit 321 = true) (h : sub m M = true) : has Reg.STREAM_COLS_LO M := has_of_bit (j := 289) rfl b h

theorem has_STREAM_COLS_HI {m M : Nat} (b : m.testBit 322 = true) (h : sub m M = true) : has Reg.STREAM_COLS_HI M := has_of_bit (j := 290) rfl b h

theorem has_WEIGHT_BUBBLES_BUBBLES {m M : Nat} (b : m.testBit 323 = true) (h : sub m M = true) : has Reg.WEIGHT_BUBBLES_BUBBLES M := has_of_bit (j := 291) rfl b h

theorem has_CB_FILE_STAT_CB_COPY_BUSY {m M : Nat} (b : m.testBit 324 = true) (h : sub m M = true) : has Reg.CB_FILE_STAT_CB_COPY_BUSY M := has_of_bit (j := 292) rfl b h

theorem has_CB_FILE_STAT_RSC_COPY_BUSY {m M : Nat} (b : m.testBit 325 = true) (h : sub m M = true) : has Reg.CB_FILE_STAT_RSC_COPY_BUSY M := has_of_bit (j := 293) rfl b h

theorem has_CB_FILE_STAT_CB_RETIRING {m M : Nat} (b : m.testBit 326 = true) (h : sub m M = true) : has Reg.CB_FILE_STAT_CB_RETIRING M := has_of_bit (j := 294) rfl b h

theorem has_ESC_FAULT_CAUSE {m M : Nat} (b : m.testBit 327 = true) (h : sub m M = true) : has Reg.ESC_FAULT_CAUSE M := has_of_bit (j := 295) rfl b h

theorem has_ESC_FAULT_BLOCK {m M : Nat} (b : m.testBit 328 = true) (h : sub m M = true) : has Reg.ESC_FAULT_BLOCK M := has_of_bit (j := 296) rfl b h

theorem has_ESC_FAULT_COUNT {m M : Nat} (b : m.testBit 329 = true) (h : sub m M = true) : has Reg.ESC_FAULT_COUNT M := has_of_bit (j := 297) rfl b h

theorem has_ESC_FAULT_COLUMN {m M : Nat} (b : m.testBit 330 = true) (h : sub m M = true) : has Reg.ESC_FAULT_COLUMN M := has_of_bit (j := 298) rfl b h

theorem has_ESC_SUBST_SUBSTS {m M : Nat} (b : m.testBit 331 = true) (h : sub m M = true) : has Reg.ESC_SUBST_SUBSTS M := has_of_bit (j := 299) rfl b h

theorem has_SLICE_SKIP_LO {m M : Nat} (b : m.testBit 332 = true) (h : sub m M = true) : has Reg.SLICE_SKIP_LO M := has_of_bit (j := 300) rfl b h

theorem has_SLICE_SKIP_HI {m M : Nat} (b : m.testBit 333 = true) (h : sub m M = true) : has Reg.SLICE_SKIP_HI M := has_of_bit (j := 301) rfl b h

theorem has_TBL_FILLS_FILLS {m M : Nat} (b : m.testBit 334 = true) (h : sub m M = true) : has Reg.TBL_FILLS_FILLS M := has_of_bit (j := 302) rfl b h

theorem has_CBF_CTL_AUTO_INC {m M : Nat} (b : m.testBit 335 = true) (h : sub m M = true) : has Reg.CBF_CTL_AUTO_INC M := has_of_bit (j := 303) rfl b h

theorem has_CBF_CTL_BANK {m M : Nat} (b : m.testBit 336 = true) (h : sub m M = true) : has Reg.CBF_CTL_BANK M := has_of_bit (j := 304) rfl b h

theorem has_CBF_CTL_FILE {m M : Nat} (b : m.testBit 337 = true) (h : sub m M = true) : has Reg.CBF_CTL_FILE M := has_of_bit (j := 305) rfl b h

theorem has_CBF_INDEX_WORD {m M : Nat} (b : m.testBit 338 = true) (h : sub m M = true) : has Reg.CBF_INDEX_WORD M := has_of_bit (j := 306) rfl b h

theorem has_CBF_DATA_DATA {m M : Nat} (b : m.testBit 339 = true) (h : sub m M = true) : has Reg.CBF_DATA_DATA M := has_of_bit (j := 307) rfl b h

theorem has_CBF_WAITS_WAITS {m M : Nat} (b : m.testBit 340 = true) (h : sub m M = true) : has Reg.CBF_WAITS_WAITS M := has_of_bit (j := 308) rfl b h

theorem has_VEC_STATUS_BUSY {m M : Nat} (b : m.testBit 341 = true) (h : sub m M = true) : has Reg.VEC_STATUS_BUSY M := has_of_bit (j := 309) rfl b h

theorem has_VEC_STATUS_VOP {m M : Nat} (b : m.testBit 342 = true) (h : sub m M = true) : has Reg.VEC_STATUS_VOP M := has_of_bit (j := 310) rfl b h

theorem has_VEC_STATUS_ELEM {m M : Nat} (b : m.testBit 343 = true) (h : sub m M = true) : has Reg.VEC_STATUS_ELEM M := has_of_bit (j := 311) rfl b h

theorem has_VEC_FLAGS_STEP_FLAGS {m M : Nat} (b : m.testBit 344 = true) (h : sub m M = true) : has Reg.VEC_FLAGS_STEP_FLAGS M := has_of_bit (j := 312) rfl b h

theorem has_VEC_FLAGS_DZ {m M : Nat} (b : m.testBit 345 = true) (h : sub m M = true) : has Reg.VEC_FLAGS_DZ M := has_of_bit (j := 313) rfl b h

theorem has_VEC_FLAGS_UF {m M : Nat} (b : m.testBit 346 = true) (h : sub m M = true) : has Reg.VEC_FLAGS_UF M := has_of_bit (j := 314) rfl b h

theorem has_VEC_FLAGS_OF {m M : Nat} (b : m.testBit 347 = true) (h : sub m M = true) : has Reg.VEC_FLAGS_OF M := has_of_bit (j := 315) rfl b h

theorem has_VEC_FLAGS_INVALID {m M : Nat} (b : m.testBit 348 = true) (h : sub m M = true) : has Reg.VEC_FLAGS_INVALID M := has_of_bit (j := 316) rfl b h

theorem has_VEC_FLAGS_NAN_IN {m M : Nat} (b : m.testBit 349 = true) (h : sub m M = true) : has Reg.VEC_FLAGS_NAN_IN M := has_of_bit (j := 317) rfl b h

theorem has_VEC_CLIPS_CLIPS {m M : Nat} (b : m.testBit 350 = true) (h : sub m M = true) : has Reg.VEC_CLIPS_CLIPS M := has_of_bit (j := 318) rfl b h

theorem has_VEC_ELEMS_LO {m M : Nat} (b : m.testBit 351 = true) (h : sub m M = true) : has Reg.VEC_ELEMS_LO M := has_of_bit (j := 319) rfl b h

theorem has_VEC_ELEMS_HI {m M : Nat} (b : m.testBit 352 = true) (h : sub m M = true) : has Reg.VEC_ELEMS_HI M := has_of_bit (j := 320) rfl b h

theorem has_NAN_TRAP_STEP_STEP {m M : Nat} (b : m.testBit 353 = true) (h : sub m M = true) : has Reg.NAN_TRAP_STEP_STEP M := has_of_bit (j := 321) rfl b h

theorem has_NAN_TRAP_OP_OP_INDEX {m M : Nat} (b : m.testBit 354 = true) (h : sub m M = true) : has Reg.NAN_TRAP_OP_OP_INDEX M := has_of_bit (j := 322) rfl b h

theorem has_NAN_TRAP_ELEM_TAG {m M : Nat} (b : m.testBit 355 = true) (h : sub m M = true) : has Reg.NAN_TRAP_ELEM_TAG M := has_of_bit (j := 323) rfl b h

theorem has_NAN_TRAP_ELEM_ELEM {m M : Nat} (b : m.testBit 356 = true) (h : sub m M = true) : has Reg.NAN_TRAP_ELEM_ELEM M := has_of_bit (j := 324) rfl b h

theorem has_NAN_TRAP_INFO_VALID {m M : Nat} (b : m.testBit 357 = true) (h : sub m M = true) : has Reg.NAN_TRAP_INFO_VALID M := has_of_bit (j := 325) rfl b h

theorem has_NAN_TRAP_INFO_KIND {m M : Nat} (b : m.testBit 358 = true) (h : sub m M = true) : has Reg.NAN_TRAP_INFO_KIND M := has_of_bit (j := 326) rfl b h

theorem has_NAN_TRAP_INFO_SOURCE {m M : Nat} (b : m.testBit 359 = true) (h : sub m M = true) : has Reg.NAN_TRAP_INFO_SOURCE M := has_of_bit (j := 327) rfl b h

theorem has_NAN_TRAP_INFO_UOP {m M : Nat} (b : m.testBit 360 = true) (h : sub m M = true) : has Reg.NAN_TRAP_INFO_UOP M := has_of_bit (j := 328) rfl b h

theorem has_NAN_TRAP_INFO_CARRY {m M : Nat} (b : m.testBit 361 = true) (h : sub m M = true) : has Reg.NAN_TRAP_INFO_CARRY M := has_of_bit (j := 329) rfl b h

theorem has_NAN_TRAP_INFO_LOGICAL {m M : Nat} (b : m.testBit 362 = true) (h : sub m M = true) : has Reg.NAN_TRAP_INFO_LOGICAL M := has_of_bit (j := 330) rfl b h

theorem has_NAN_TRAPS_TRAPS {m M : Nat} (b : m.testBit 363 = true) (h : sub m M = true) : has Reg.NAN_TRAPS_TRAPS M := has_of_bit (j := 331) rfl b h

theorem has_VP_CTL_AUTO_INC {m M : Nat} (b : m.testBit 364 = true) (h : sub m M = true) : has Reg.VP_CTL_AUTO_INC M := has_of_bit (j := 332) rfl b h

theorem has_VP_CTL_BANK {m M : Nat} (b : m.testBit 365 = true) (h : sub m M = true) : has Reg.VP_CTL_BANK M := has_of_bit (j := 333) rfl b h

theorem has_VP_INDEX_WORD {m M : Nat} (b : m.testBit 366 = true) (h : sub m M = true) : has Reg.VP_INDEX_WORD M := has_of_bit (j := 334) rfl b h

theorem has_VP_DATA_DATA {m M : Nat} (b : m.testBit 367 = true) (h : sub m M = true) : has Reg.VP_DATA_DATA M := has_of_bit (j := 335) rfl b h

theorem has_VP_FILE_STAT_VP_COPY_BUSY {m M : Nat} (b : m.testBit 368 = true) (h : sub m M = true) : has Reg.VP_FILE_STAT_VP_COPY_BUSY M := has_of_bit (j := 336) rfl b h

theorem has_VP_FILE_STAT_VP_RETIRING {m M : Nat} (b : m.testBit 369 = true) (h : sub m M = true) : has Reg.VP_FILE_STAT_VP_RETIRING M := has_of_bit (j := 337) rfl b h

theorem has_ENV_STAT_SNAP_VALID {m M : Nat} (b : m.testBit 370 = true) (h : sub m M = true) : has Reg.ENV_STAT_SNAP_VALID M := has_of_bit (j := 338) rfl b h

theorem has_ENV_SNAP_STEP_STEP {m M : Nat} (b : m.testBit 371 = true) (h : sub m M = true) : has Reg.ENV_SNAP_STEP_STEP M := has_of_bit (j := 339) rfl b h

theorem has_ENV_SEL_AUTO_INC {m M : Nat} (b : m.testBit 372 = true) (h : sub m M = true) : has Reg.ENV_SEL_AUTO_INC M := has_of_bit (j := 340) rfl b h

theorem has_ENV_SEL_TAG {m M : Nat} (b : m.testBit 373 = true) (h : sub m M = true) : has Reg.ENV_SEL_TAG M := has_of_bit (j := 341) rfl b h

theorem has_ENV_SEL_WORD {m M : Nat} (b : m.testBit 374 = true) (h : sub m M = true) : has Reg.ENV_SEL_WORD M := has_of_bit (j := 342) rfl b h

theorem has_ENV_DISCARD_DISCARDS {m M : Nat} (b : m.testBit 375 = true) (h : sub m M = true) : has Reg.ENV_DISCARD_DISCARDS M := has_of_bit (j := 343) rfl b h

theorem has_ENV_SAT_COUNT_SATS {m M : Nat} (b : m.testBit 376 = true) (h : sub m M = true) : has Reg.ENV_SAT_COUNT_SATS M := has_of_bit (j := 344) rfl b h

theorem has_TAG_CFG_HIST_BASE {m M : Nat} (b : m.testBit 377 = true) (h : sub m M = true) : has Reg.TAG_CFG_HIST_BASE M := has_of_bit (j := 345) rfl b h

theorem has_TAG_CFG_HIST_SHIFT {m M : Nat} (b : m.testBit 378 = true) (h : sub m M = true) : has Reg.TAG_CFG_HIST_SHIFT M := has_of_bit (j := 346) rfl b h

theorem has_STK_TEMP_BAND {m M : Nat} (b : m.testBit 379 = true) (h : sub m M = true) : has Reg.STK_TEMP_BAND M := has_of_bit (j := 347) rfl b h

theorem has_STK_TEMP_TEMP_MAX {m M : Nat} (b : m.testBit 380 = true) (h : sub m M = true) : has Reg.STK_TEMP_TEMP_MAX M := has_of_bit (j := 348) rfl b h

theorem has_STK_TEMP_TEMP {m M : Nat} (b : m.testBit 381 = true) (h : sub m M = true) : has Reg.STK_TEMP_TEMP M := has_of_bit (j := 349) rfl b h

theorem has_MIG_STAT_ACTIVE {m M : Nat} (b : m.testBit 382 = true) (h : sub m M = true) : has Reg.MIG_STAT_ACTIVE M := has_of_bit (j := 350) rfl b h

theorem has_MIG_STAT_BALLAST_USED {m M : Nat} (b : m.testBit 383 = true) (h : sub m M = true) : has Reg.MIG_STAT_BALLAST_USED M := has_of_bit (j := 351) rfl b h

theorem has_MIG_STAT_SRC {m M : Nat} (b : m.testBit 384 = true) (h : sub m M = true) : has Reg.MIG_STAT_SRC M := has_of_bit (j := 352) rfl b h

theorem has_MIG_STAT_COPIED {m M : Nat} (b : m.testBit 385 = true) (h : sub m M = true) : has Reg.MIG_STAT_COPIED M := has_of_bit (j := 353) rfl b h

theorem has_PC_MAP_PHYS {m M : Nat} (b : m.testBit 386 = true) (h : sub m M = true) : has Reg.PC_MAP_PHYS M := has_of_bit (j := 354) rfl b h

theorem has_UE_ADDR_LO_ADDR {m M : Nat} (b : m.testBit 387 = true) (h : sub m M = true) : has Reg.UE_ADDR_LO_ADDR M := has_of_bit (j := 355) rfl b h

theorem has_UE_ADDR_HI_VALID {m M : Nat} (b : m.testBit 388 = true) (h : sub m M = true) : has Reg.UE_ADDR_HI_VALID M := has_of_bit (j := 356) rfl b h

theorem has_UE_ADDR_HI_ADDR {m M : Nat} (b : m.testBit 389 = true) (h : sub m M = true) : has Reg.UE_ADDR_HI_ADDR M := has_of_bit (j := 357) rfl b h

theorem has_UE_INFO_PPC {m M : Nat} (b : m.testBit 390 = true) (h : sub m M = true) : has Reg.UE_INFO_PPC M := has_of_bit (j := 358) rfl b h

theorem has_UE_INFO_SID {m M : Nat} (b : m.testBit 391 = true) (h : sub m M = true) : has Reg.UE_INFO_SID M := has_of_bit (j := 359) rfl b h

theorem has_UE_INFO_BG {m M : Nat} (b : m.testBit 392 = true) (h : sub m M = true) : has Reg.UE_INFO_BG M := has_of_bit (j := 360) rfl b h

theorem has_UE_INFO_BANK {m M : Nat} (b : m.testBit 393 = true) (h : sub m M = true) : has Reg.UE_INFO_BANK M := has_of_bit (j := 361) rfl b h

theorem has_UE_INFO_ROW {m M : Nat} (b : m.testBit 394 = true) (h : sub m M = true) : has Reg.UE_INFO_ROW M := has_of_bit (j := 362) rfl b h

theorem has_UE_INFO_XFER {m M : Nat} (b : m.testBit 395 = true) (h : sub m M = true) : has Reg.UE_INFO_XFER M := has_of_bit (j := 363) rfl b h

theorem has_ODE_CE_COUNT {m M : Nat} (b : m.testBit 396 = true) (h : sub m M = true) : has Reg.ODE_CE_COUNT M := has_of_bit (j := 364) rfl b h

theorem has_SYM_CE_COUNT {m M : Nat} (b : m.testBit 397 = true) (h : sub m M = true) : has Reg.SYM_CE_COUNT M := has_of_bit (j := 365) rfl b h

theorem has_RETRY_OK_COUNT {m M : Nat} (b : m.testBit 398 = true) (h : sub m M = true) : has Reg.RETRY_OK_COUNT M := has_of_bit (j := 366) rfl b h

theorem has_ROW_REMAPS_COUNT {m M : Nat} (b : m.testBit 399 = true) (h : sub m M = true) : has Reg.ROW_REMAPS_COUNT M := has_of_bit (j := 367) rfl b h

theorem has_HPPR_DONE_COUNT {m M : Nat} (b : m.testBit 400 = true) (h : sub m M = true) : has Reg.HPPR_DONE_COUNT M := has_of_bit (j := 368) rfl b h

theorem has_PAGES_RETIRED_COUNT {m M : Nat} (b : m.testBit 401 = true) (h : sub m M = true) : has Reg.PAGES_RETIRED_COUNT M := has_of_bit (j := 369) rfl b h

theorem has_SPARES_USED_COUNT {m M : Nat} (b : m.testBit 402 = true) (h : sub m M = true) : has Reg.SPARES_USED_COUNT M := has_of_bit (j := 370) rfl b h

theorem has_TRACKER_EVICT_COUNT {m M : Nat} (b : m.testBit 403 = true) (h : sub m M = true) : has Reg.TRACKER_EVICT_COUNT M := has_of_bit (j := 371) rfl b h

theorem has_UNSCHED_RETRAINS_COUNT {m M : Nat} (b : m.testBit 404 = true) (h : sub m M = true) : has Reg.UNSCHED_RETRAINS_COUNT M := has_of_bit (j := 372) rfl b h

theorem has_SCRUB_PASSES_COUNT {m M : Nat} (b : m.testBit 405 = true) (h : sub m M = true) : has Reg.SCRUB_PASSES_COUNT M := has_of_bit (j := 373) rfl b h

theorem has_SPARE_PERM_COUNT {m M : Nat} (b : m.testBit 406 = true) (h : sub m M = true) : has Reg.SPARE_PERM_COUNT M := has_of_bit (j := 374) rfl b h

theorem has_RESERVE_FREE_COUNT {m M : Nat} (b : m.testBit 407 = true) (h : sub m M = true) : has Reg.RESERVE_FREE_COUNT M := has_of_bit (j := 375) rfl b h

theorem has_HPPR_STEPS_COUNT {m M : Nat} (b : m.testBit 408 = true) (h : sub m M = true) : has Reg.HPPR_STEPS_COUNT M := has_of_bit (j := 376) rfl b h

theorem has_PC_REC_CE_CE {m M : Nat} (b : m.testBit 409 = true) (h : sub m M = true) : has Reg.PC_REC_CE_CE M := has_of_bit (j := 377) rfl b h

theorem has_PC_REC_UE_UE {m M : Nat} (b : m.testBit 410 = true) (h : sub m M = true) : has Reg.PC_REC_UE_UE M := has_of_bit (j := 378) rfl b h

theorem has_PC_REC_ST_STATE {m M : Nat} (b : m.testBit 411 = true) (h : sub m M = true) : has Reg.PC_REC_ST_STATE M := has_of_bit (j := 379) rfl b h

theorem has_PC_REC_ST_LOGICAL {m M : Nat} (b : m.testBit 412 = true) (h : sub m M = true) : has Reg.PC_REC_ST_LOGICAL M := has_of_bit (j := 380) rfl b h

theorem has_PC_REC_ST_INTERVAL_CE {m M : Nat} (b : m.testBit 413 = true) (h : sub m M = true) : has Reg.PC_REC_ST_INTERVAL_CE M := has_of_bit (j := 381) rfl b h

theorem has_PC_REC_RT_RETRAINS {m M : Nat} (b : m.testBit 414 = true) (h : sub m M = true) : has Reg.PC_REC_RT_RETRAINS M := has_of_bit (j := 382) rfl b h

theorem has_LINE_STAT_STATE {m M : Nat} (b : m.testBit 415 = true) (h : sub m M = true) : has Reg.LINE_STAT_STATE M := has_of_bit (j := 383) rfl b h

theorem has_LINE_STAT_TB_PARENT {m M : Nat} (b : m.testBit 416 = true) (h : sub m M = true) : has Reg.LINE_STAT_TB_PARENT M := has_of_bit (j := 384) rfl b h

theorem has_LINE_RTT_RTT {m M : Nat} (b : m.testBit 417 = true) (h : sub m M = true) : has Reg.LINE_RTT_RTT M := has_of_bit (j := 385) rfl b h

theorem has_TX_FLITS_LO {m M : Nat} (b : m.testBit 418 = true) (h : sub m M = true) : has Reg.TX_FLITS_LO M := has_of_bit (j := 386) rfl b h

theorem has_TX_FLITS_HI {m M : Nat} (b : m.testBit 419 = true) (h : sub m M = true) : has Reg.TX_FLITS_HI M := has_of_bit (j := 387) rfl b h

theorem has_RX_FLITS_LO {m M : Nat} (b : m.testBit 420 = true) (h : sub m M = true) : has Reg.RX_FLITS_LO M := has_of_bit (j := 388) rfl b h

theorem has_RX_FLITS_HI {m M : Nat} (b : m.testBit 421 = true) (h : sub m M = true) : has Reg.RX_FLITS_HI M := has_of_bit (j := 389) rfl b h

theorem has_CRC_ERRS_COUNT {m M : Nat} (b : m.testBit 422 = true) (h : sub m M = true) : has Reg.CRC_ERRS_COUNT M := has_of_bit (j := 390) rfl b h

theorem has_RETRIES_COUNT {m M : Nat} (b : m.testBit 423 = true) (h : sub m M = true) : has Reg.RETRIES_COUNT M := has_of_bit (j := 391) rfl b h

theorem has_RETRY_FLITS_COUNT {m M : Nat} (b : m.testBit 424 = true) (h : sub m M = true) : has Reg.RETRY_FLITS_COUNT M := has_of_bit (j := 392) rfl b h

theorem has_LINE_FEC_CE_COUNT {m M : Nat} (b : m.testBit 425 = true) (h : sub m M = true) : has Reg.LINE_FEC_CE_COUNT M := has_of_bit (j := 393) rfl b h

theorem has_LINE_FEC_UE_COUNT {m M : Nat} (b : m.testBit 426 = true) (h : sub m M = true) : has Reg.LINE_FEC_UE_COUNT M := has_of_bit (j := 394) rfl b h

theorem has_LINE_DOWNS_COUNT {m M : Nat} (b : m.testBit 427 = true) (h : sub m M = true) : has Reg.LINE_DOWNS_COUNT M := has_of_bit (j := 395) rfl b h

theorem has_CREDIT_STALLS_COUNT {m M : Nat} (b : m.testBit 428 = true) (h : sub m M = true) : has Reg.CREDIT_STALLS_COUNT M := has_of_bit (j := 396) rfl b h

theorem has_REPLAY_FULL_COUNT {m M : Nat} (b : m.testBit 429 = true) (h : sub m M = true) : has Reg.REPLAY_FULL_COUNT M := has_of_bit (j := 397) rfl b h

theorem has_TX_BYTES_VC7_COUNT {m M : Nat} (b : m.testBit 430 = true) (h : sub m M = true) : has Reg.TX_BYTES_VC7_COUNT M := has_of_bit (j := 398) rfl b h

theorem has_LANE_BALLAST_BALLAST_USED {m M : Nat} (b : m.testBit 431 = true) (h : sub m M = true) : has Reg.LANE_BALLAST_BALLAST_USED M := has_of_bit (j := 399) rfl b h

theorem has_LANE_REC_ERR_SYM_ERR {m M : Nat} (b : m.testBit 432 = true) (h : sub m M = true) : has Reg.LANE_REC_ERR_SYM_ERR M := has_of_bit (j := 400) rfl b h

theorem has_LANE_REC_ST_STATE {m M : Nat} (b : m.testBit 433 = true) (h : sub m M = true) : has Reg.LANE_REC_ST_STATE M := has_of_bit (j := 401) rfl b h

theorem has_LANE_REC_ST_INTERVAL_ERR {m M : Nat} (b : m.testBit 434 = true) (h : sub m M = true) : has Reg.LANE_REC_ST_INTERVAL_ERR M := has_of_bit (j := 402) rfl b h

end Sys2Proof.Machine
end

