-- ==== Sys2Proof/Laws/Spool.lean ====
section
/-! SUPPORT. The operations on the lines of a spool set keep it as R206 lays it out. -/

namespace Sys2Proof.Machine

theorem LinesOk.nil (set : Nat) : LinesOk set [] := ⟨List.nodup_nil, fun _ h => (nomatch h), fun _ h => (nomatch h)⟩

theorem SpoolOk.nil : SpoolOk [] := ⟨rfl, fun _ h => (nomatch h)⟩

theorem Table.mem_of_find {α : Type} {t : Table α} {k : Nat} {v : α} (h : Table.find k t = some v) : (k, v) ∈ t := by
  induction t with
  | nil => cases h
  | cons e r ih =>
    obtain ⟨j, w⟩ := e
    unfold Table.find at h
    split at h
    · rename_i e
      cases h
      subst e
      exact List.mem_cons_self
    · exact List.mem_cons_of_mem _ (ih h)

theorem SpoolOk.set {t : Table (List SpoolLine)} (h : SpoolOk t) (set : Nat) : LinesOk set (t.getD set []) := by
  unfold Table.getD
  cases e : Table.find set t with
  | none => exact LinesOk.nil set
  | some ls => exact h.lines _ (Table.mem_of_find e)

theorem SpoolOk.put {t : Table (List SpoolLine)} {set : Nat} {ls : List SpoolLine} (h : SpoolOk t)
    (hl : LinesOk set ls) : SpoolOk (t.put set ls) := by
  refine ⟨Table.rising_put h.rising, fun e he => ?_⟩
  rcases Table.mem_put he with rfl | he
  · exact hl
  · exact h.lines e he

/-- A line that may stand in a set. -/
structure LineOk (set : Nat) (x : SpoolLine) : Prop where
  home : spoolSet (x.tag * 128) = set
  whole : ∀ h d, x.dirty h = some d ∨ x.kept h = some d → d.length = 64

theorem LinesOk.line {set : Nat} {ls : List SpoolLine} (h : LinesOk set ls) {x : SpoolLine} (hx : x ∈ ls) :
    LineOk set x := ⟨h.home x hx, h.whole x hx⟩

theorem LinesOk.cons {set : Nat} {ls : List SpoolLine} {x : SpoolLine} (h : LinesOk set ls) (hx : LineOk set x)
    (hn : x.tag ∉ ls.map SpoolLine.tag) : LinesOk set (x :: ls) := by
  refine ⟨by rw [List.map_cons]; exact List.nodup_cons.2 ⟨hn, h.tags⟩, fun y hy => ?_, fun y hy => ?_⟩
  · rcases List.mem_cons.1 hy with rfl | hy
    · exact hx.home
    · exact h.home y hy
  · rcases List.mem_cons.1 hy with rfl | hy
    · exact hx.whole
    · exact h.whole y hy

theorem LinesOk.snoc {set : Nat} {ls : List SpoolLine} {x : SpoolLine} (h : LinesOk set ls) (hx : LineOk set x)
    (hn : x.tag ∉ ls.map SpoolLine.tag) : LinesOk set (ls ++ [x]) := by
  refine ⟨?_, fun y hy => ?_, fun y hy => ?_⟩
  · rw [List.map_append, List.map_singleton, List.nodup_append]
    refine ⟨h.tags, List.nodup_cons.2 ⟨List.not_mem_nil, List.nodup_nil⟩, fun a ha b hb => ?_⟩
    rw [List.mem_singleton] at hb
    rintro rfl
    exact hn (hb ▸ ha)
  · rcases List.mem_append.1 hy with hy | hy
    · exact h.home y hy
    · rw [List.mem_singleton] at hy
      exact hy ▸ hx.home
  · rcases List.mem_append.1 hy with hy | hy
    · exact h.whole y hy
    · rw [List.mem_singleton] at hy
      exact hy ▸ hx.whole

theorem LinesOk.drop {set : Nat} {ls : List SpoolLine} (h : LinesOk set ls) (tag : Nat) : LinesOk set (dropLine ls tag) :=
  ⟨h.tags.sublist (List.filter_sublist.map _), fun x hx => h.home x (List.mem_filter.1 hx).1,
    fun x hx => h.whole x (List.mem_filter.1 hx).1⟩

theorem dropLine_tag (ls : List SpoolLine) (tag : Nat) : tag ∉ (dropLine ls tag).map SpoolLine.tag := by
  intro h
  obtain ⟨x, hx, e⟩ := List.mem_map.1 h
  have := (List.mem_filter.1 hx).2
  simp [e] at this

theorem replaceLine_tags (ls : List SpoolLine) (x : SpoolLine) :
    (replaceLine ls x).map SpoolLine.tag = ls.map SpoolLine.tag := by
  unfold replaceLine
  rw [List.map_map]
  refine List.map_congr_left fun y _ => ?_
  simp only [Function.comp]
  split
  · rename_i h
    exact h.symm
  · rfl

theorem LinesOk.replace {set : Nat} {ls : List SpoolLine} {x : SpoolLine} (h : LinesOk set ls) (hx : LineOk set x) :
    LinesOk set (replaceLine ls x) := by
  refine ⟨by rw [replaceLine_tags]; exact h.tags, fun y hy => ?_, fun y hy => ?_⟩
  all_goals
    obtain ⟨z, hz, rfl⟩ := List.mem_map.1 hy
    split
  · exact hx.home
  · exact h.home z hz
  · exact hx.whole
  · exact h.whole z hz

theorem LinesOk.map {set : Nat} {ls : List SpoolLine} {f : SpoolLine → SpoolLine} (h : LinesOk set ls)
    (ht : ∀ x, (f x).tag = x.tag) (hd : ∀ x k, (f x).dirty k = x.dirty k)
    (hk : ∀ x k, (f x).kept k = x.kept k) : LinesOk set (ls.map f) := by
  refine ⟨?_, fun y hy => ?_, fun y hy => ?_⟩
  · rw [List.map_map, show SpoolLine.tag ∘ f = SpoolLine.tag from funext ht]
    exact h.tags
  all_goals obtain ⟨z, hz, rfl⟩ := List.mem_map.1 hy
  · rw [ht]
    exact h.home z hz
  · intro k d
    rw [hd, hk]
    exact h.whole z hz k d

theorem findLine_mem {ls : List SpoolLine} {tag : Nat} {x : SpoolLine} (h : findLine ls tag = some x) :
    x ∈ ls ∧ x.tag = tag := by
  unfold findLine at h
  exact ⟨List.mem_of_find?_eq_some h, by simpa using List.find?_some h⟩

theorem findLine_none {ls : List SpoolLine} {tag : Nat} (h : findLine ls tag = none) : tag ∉ ls.map SpoolLine.tag := by
  intro hm
  obtain ⟨x, hx, e⟩ := List.mem_map.1 hm
  have := List.find?_eq_none.1 h x hx
  simp [e] at this

@[simp] theorem SpoolLine.setValid_tag (x : SpoolLine) (h : Nat) : (x.setValid h).tag = x.tag := by
  unfold SpoolLine.setValid
  split <;> rfl

@[simp] theorem SpoolLine.setValid_dirty (x : SpoolLine) (h k : Nat) : (x.setValid h).dirty k = x.dirty k := by
  unfold SpoolLine.setValid SpoolLine.dirty
  by_cases hh : h = 0 <;> simp [hh]

@[simp] theorem SpoolLine.setValid_kept (x : SpoolLine) (h k : Nat) : (x.setValid h).kept k = x.kept k := by
  unfold SpoolLine.setValid SpoolLine.kept
  by_cases hh : h = 0 <;> simp [hh]

@[simp] theorem SpoolLine.setValid_data (x : SpoolLine) (h k : Nat) : (x.setValid h).data k = x.data k := by
  unfold SpoolLine.data
  rw [SpoolLine.setValid_dirty, SpoolLine.setValid_kept]

@[simp] theorem SpoolLine.keep_tag (x : SpoolLine) (h : Nat) (d : Bytes) : (x.keep h d).tag = x.tag := by
  unfold SpoolLine.keep
  repeat' split
  all_goals rfl

@[simp] theorem SpoolLine.keep_dirty (x : SpoolLine) (h k : Nat) (d : Bytes) : (x.keep h d).dirty k = x.dirty k := by
  unfold SpoolLine.keep
  repeat' split
  all_goals rfl

/-- What is kept after a clean sector was given bytes to keep: nothing new where the sector holds data already. -/
theorem SpoolLine.keep_kept (x : SpoolLine) (h k : Nat) (d : Bytes) : (x.keep h d).kept k =
    if x.valid h = true ∧ x.data h = none ∧ (k = 0) = (h = 0) then some d else x.kept k := by
  unfold SpoolLine.keep SpoolLine.data SpoolLine.dirty SpoolLine.kept
  by_cases hh : h = 0 <;> by_cases hk : k = 0 <;> by_cases hv : x.valid h <;>
    cases e0 : x.d0 <;> cases e1 : x.d1 <;> cases f0 : x.k0 <;> cases f1 : x.k1 <;> simp_all

/-- Which data a line holds after a clean sector of it was given bytes to keep. -/
theorem SpoolLine.keep_data (x : SpoolLine) (h k : Nat) (d : Bytes) : (x.keep h d).data k =
    if x.valid h = true ∧ x.data h = none ∧ (k = 0) = (h = 0) then some d else x.data k := by
  show ((x.keep h d).dirty k).or ((x.keep h d).kept k) = _
  rw [SpoolLine.keep_dirty, SpoolLine.keep_kept]
  by_cases c : x.valid h = true ∧ x.data h = none ∧ (k = 0) = (h = 0)
  · have e : x.dirty k = none := by
      have := (Option.or_eq_none_iff.1 c.2.1).1
      unfold SpoolLine.dirty at this ⊢
      simp only [c.2.2]
      exact this
    rw [if_pos c, if_pos c, e]
    rfl
  · rw [if_neg c, if_neg c]
    rfl

@[simp] theorem SpoolLine.setDirty_tag (x : SpoolLine) (h : Nat) (d : Bytes) : (x.setDirty h d).tag = x.tag := by
  unfold SpoolLine.setDirty
  split <;> rfl

/-- Which dirty data a line holds after a sector of it is written: sector 0, or any other number for sector 1. -/
theorem SpoolLine.setDirty_dirty (x : SpoolLine) (h k : Nat) (d : Bytes) :
    (x.setDirty h d).dirty k = if (k = 0) = (h = 0) then some d else x.dirty k := by
  unfold SpoolLine.setDirty SpoolLine.dirty
  by_cases hh : h = 0 <;> by_cases hk : k = 0 <;> simp [hh, hk]

theorem SpoolLine.setDirty_kept (x : SpoolLine) (h k : Nat) (d : Bytes) :
    (x.setDirty h d).kept k = if (k = 0) = (h = 0) then none else x.kept k := by
  unfold SpoolLine.setDirty SpoolLine.kept
  by_cases hh : h = 0 <;> by_cases hk : k = 0 <;> simp [hh, hk]

theorem SpoolLine.setDirty_data (x : SpoolLine) (h k : Nat) (d : Bytes) :
    (x.setDirty h d).data k = if (k = 0) = (h = 0) then some d else x.data k := by
  unfold SpoolLine.data
  rw [SpoolLine.setDirty_dirty, SpoolLine.setDirty_kept]
  split <;> rfl

theorem LineOk.keep {set : Nat} {x : SpoolLine} (h : LineOk set x) (k : Nat) {d : Bytes} (hd : d.length = 64) :
    LineOk set (x.keep k d) := by
  refine ⟨by rw [SpoolLine.keep_tag]; exact h.home, fun j e he => ?_⟩
  rw [SpoolLine.keep_dirty, SpoolLine.keep_kept] at he
  split at he
  · rcases he with he | he
    · exact h.whole j e (.inl he)
    · cases he
      exact hd
  · exact h.whole j e he

theorem LineOk.invalidate {set : Nat} {x : SpoolLine} (h : LineOk set x) (k : Nat) : LineOk set (x.invalidate k) := by
  unfold SpoolLine.invalidate
  by_cases hk : k = 0
  all_goals
    simp only [hk, if_true, if_false]
    refine ⟨h.home, fun j d hd => h.whole j d (hd.imp id fun e => ?_)⟩
    unfold SpoolLine.kept at e ⊢
    by_cases hj : j = 0 <;> simp_all

/-- R255: a line whose dirty sectors were written back. -/
theorem LineOk.clean {set : Nat} {x : SpoolLine} (h : LineOk set x) : LineOk set { x with d0 := none, d1 := none } := by
  refine ⟨h.home, fun j d hd => h.whole j d (.inr ?_)⟩
  rcases hd with hd | hd
  · simp [SpoolLine.dirty] at hd
  · exact hd

theorem LineOk.setDirty {set : Nat} {x : SpoolLine} (h : LineOk set x) (k : Nat) {d : Bytes} (hd : d.length = 64) :
    LineOk set (x.setDirty k d) := by
  refine ⟨by rw [SpoolLine.setDirty_tag]; exact h.home, fun j e he => ?_⟩
  rw [SpoolLine.setDirty_dirty, SpoolLine.setDirty_kept] at he
  split at he
  · rcases he with he | he
    · cases he
      exact hd
    · cases he
  · exact h.whole j e he

theorem LineOk.setValid {set : Nat} {x : SpoolLine} (h : LineOk set x) (k : Nat) : LineOk set (x.setValid k) :=
  ⟨by rw [SpoolLine.setValid_tag]; exact h.home, fun j d => by
    rw [SpoolLine.setValid_dirty, SpoolLine.setValid_kept]
    exact h.whole j d⟩

theorem LinesOk.touch {set : Nat} {ls : List SpoolLine} {x : SpoolLine} (h : LinesOk set ls) (hx : LineOk set x)
    (hint : Nat) : LinesOk set (touchLine ls x hint) := by
  unfold touchLine
  split
  · exact h.replace hx
  · exact (h.drop x.tag).cons ⟨hx.home, hx.whole⟩ (dropLine_tag ls x.tag)

theorem LinesOk.alloc {set : Nat} {ls : List SpoolLine} {x : SpoolLine} (h : LinesOk set ls) (hx : LineOk set x)
    (hn : x.tag ∉ ls.map SpoolLine.tag) (off : Option Nat) (hint : Nat) : LinesOk set (allocLine off ls x hint) := by
  unfold allocLine
  dsimp only
  split
  · exact h.snoc ⟨hx.home, hx.whole⟩ hn
  · exact h.cons ⟨hx.home, hx.whole⟩ hn

theorem SpoolOk.unpin {t : Table (List SpoolLine)} {p : Nat → SpoolLine → Bool} (h : SpoolOk t) :
    SpoolOk (t.map (fun e => (e.1, e.2.map (fun l => if p e.1 l then { l with pin := false } else l)))) := by
  refine ⟨?_, fun e he => ?_⟩
  · have : ∀ (lo : Option Nat) (t : Table (List SpoolLine)), Table.rising lo t = true →
        Table.rising lo (t.map (fun e => (e.1, e.2.map (fun l => if p e.1 l then { l with pin := false } else l)))) = true := by
      intro lo t
      induction t generalizing lo with
      | nil => exact fun h => h
      | cons e r ih =>
        intro h
        have h' := Table.rising_cons.1 h
        exact Table.rising_cons.2 ⟨h'.1, ih _ h'.2⟩
    exact this _ _ h.rising
  · obtain ⟨z, hz, rfl⟩ := List.mem_map.1 he
    refine (h.lines z hz).map (fun x => ?_) (fun x k => ?_) (fun x k => ?_)
    all_goals split <;> rfl

@[simp] theorem memBytes_length (s : State) (a n : Nat) : (memBytes s a n).length = n := by
  induction n generalizing a with
  | zero => rfl
  | succ n ih => simp [memBytes, ih]

theorem mergeBytes_length {old bs : Bytes} {o : Nat} (h : old.length = 64) (ho : o ≤ 64) :
    (mergeBytes old o bs).length = 64 := by
  simp only [mergeBytes, List.length_take, List.length_append, List.length_drop, h]
  omega

/-! ### The sets of a state -/

theorem spoolSet_line (a : Nat) : spoolSet (a / 128 * 128) = spoolSet a := by
  unfold spoolSet
  rw [show a / 128 * 128 / 2048 = a / 2048 by omega, show a / 128 * 128 % 2048 / 128 = a % 2048 / 128 by omega]

theorem State.lines_setLines (s : State) (set set' : Nat) (ls : List SpoolLine) :
    (s.setLines set ls).lines set' = if set' = set then ls else s.lines set' := by
  unfold State.lines State.setLines
  split
  · rename_i e
    rw [e]
    exact Table.getD_put_same _ _ _ _
  · rename_i e
    exact Table.getD_put_ne e

theorem State.lines_congr {s t : State} (h : t.mem.spool = s.mem.spool) (set : Nat) : t.lines set = s.lines set := by
  unfold State.lines
  rw [h]

theorem hbmWrite_spool (s : State) (a : Nat) (bs : Bytes) : (hbmWrite s a bs).mem.spool = s.mem.spool := by
  unfold hbmWrite
  dsimp only
  split <;> rfl

theorem writebackLine_spool (s : State) (t : Nat) (x : SpoolLine) : (writebackLine s t x).mem.spool = s.mem.spool := by
  unfold writebackLine
  cases x.d0 <;> cases x.d1 <;> simp [State.bump, State.wr, hbmWrite_spool]

theorem effectiveHint_spool (s : State) (set tag hint : Nat) : (effectiveHint s set tag hint).2.mem = s.mem := by
  unfold effectiveHint
  dsimp only
  repeat' split
  all_goals rfl

theorem makeRoom_lines (s : State) (set : Nat) :
    (makeRoom s set).lines set = s.lines set ∨ ∃ tag, (makeRoom s set).lines set = dropLine (s.lines set) tag := by
  unfold makeRoom
  dsimp only
  split
  · exact .inl rfl
  · split
    · rename_i v _
      exact .inr ⟨v.tag, by rw [State.lines_setLines, if_pos rfl]⟩
    · exact .inl rfl

theorem dropLine_sub {ls : List SpoolLine} {tag t : Nat} (h : t ∉ ls.map SpoolLine.tag) :
    t ∉ (dropLine ls tag).map SpoolLine.tag := fun hm => h ((List.filter_sublist.map SpoolLine.tag).subset hm)

/-- The set of `a` after a line was brought in for it. -/
theorem LinesOk.bring {s : State} {a hint : Nat} {x : SpoolLine} (h : LinesOk (spoolSet a) (s.lines (spoolSet a)))
    (hf : findLine (s.lines (spoolSet a)) (a / 128) = some x) (k : Nat) :
    LinesOk (spoolSet a) (touchLine (s.lines (spoolSet a)) (x.setValid k) hint) :=
  h.touch ((h.line (findLine_mem hf).1).setValid k) hint

theorem LinesOk.bringNew {ls : List SpoolLine} {a : Nat} (h : LinesOk (spoolSet a) ls)
    (hn : a / 128 ∉ ls.map SpoolLine.tag) (off : Option Nat) (k hint : Nat) :
    LinesOk (spoolSet a) (allocLine off ls (({ tag := a / 128, way := 0 } : SpoolLine).setValid k) hint) := by
  have hx : LineOk (spoolSet a) ({ tag := a / 128, way := 0 } : SpoolLine) := by
    constructor
    · rw [spoolSet_line]
    · intro j d hd
      simp [SpoolLine.kept, SpoolLine.dirty] at hd
  refine h.alloc (hx.setValid k) ?_ off hint
  rw [SpoolLine.setValid_tag]
  exact hn

end Sys2Proof.Machine
end

