-- ==== Sys2Proof/Laws/FrameOps.lean ====
section
/-! SUPPORT. Frame lemmas for the functions of Machine/Ops.lean. -/

set_option Elab.async false
set_option linter.all false

namespace Sys2Proof.Machine

theorem State.wrSh_frame {M : Nat} {s0 s : State} {x1 x2 x3 x4} (h : Frame M s0 s)
    (hm : sub 0x8 M = true) : Frame M s0 (State.wrSh s x1 x2 x3 x4) := by
  unfold State.wrSh
  repeat' first
    | exact fun h => Table.rising_put h
    | exact fun h => Table.rising_erase h
    | exact fun h => Table.rising_filter h
    | exact fun h => Table.rising_putAll h
    | exact fun _ => rfl
    | exact fun h => Table.rising_putAll (Table.rising_filter h)
    | exact sub_trans rfl hm
    | with_reducible assumption
    | with_reducible apply Frame.with_shadow

theorem State.bump_frame {M : Nat} {s0 s : State} {f n i k} (h : Frame M s0 s) (hf : has f M) :
    Frame M s0 (s.bump f n i k) := State.wr_frame h hf

theorem State.wr64_frame {M : Nat} {s0 s : State} {lo hi v n} (h : Frame M s0 s) (hl : has lo M) (hh : has hi M) :
    Frame M s0 (s.wr64 lo hi v n) := State.wr_frame (State.wr_frame h hl) hh

theorem State.bump64_frame {M : Nat} {s0 s : State} {lo hi n k} (h : Frame M s0 s) (hl : has lo M) (hh : has hi M) :
    Frame M s0 (s.bump64 lo hi n k) := State.wr64_frame h hl hh

theorem State.setHdr_frame {M : Nat} {s0 s : State} {x1 x2 x3} (h : Frame M s0 s)
    (hm : sub 0x80 M = true) : Frame M s0 (State.setHdr s x1 x2 x3) := by
  unfold State.setHdr
  repeat' first
    | exact sub_trans rfl hm
    | with_reducible assumption
    | with_reducible apply Frame.with_hdrs

theorem State.countCe_frame {M : Nat} {s0 s : State} {x1 x2 x3} (h : Frame M s0 s)
    (hm : sub 0x80 M = true) : Frame M s0 (State.countCe s x1 x2 x3) := by
  unfold State.countCe
  repeat' first
    | exact sub_trans rfl hm
    | with_reducible assumption
    | with_reducible apply State.setHdr_frame

theorem State.countUe_frame {M : Nat} {s0 s : State} {x1 x2 x3} (h : Frame M s0 s)
    (hm : sub 0x80 M = true) : Frame M s0 (State.countUe s x1 x2 x3) := by
  unfold State.countUe
  repeat' first
    | exact sub_trans rfl hm
    | with_reducible assumption
    | with_reducible apply State.setHdr_frame

theorem State.emit_frame {M : Nat} {s0 s : State} {x1} (h : Frame M s0 s)
    (hm : sub 0x20000000 M = true) : Frame M s0 (State.emit s x1) := by
  unfold State.emit
  repeat' first
    | exact sub_trans rfl hm
    | with_reducible assumption
    | with_reducible apply Frame.with_out

theorem State.setLine_frame {M : Nat} {s0 s : State} {x1 x2} (h : Frame M s0 s)
    (hm : sub 0x10000 M = true) : Frame M s0 (State.setLine s x1 x2) := by
  unfold State.setLine
  repeat' first
    | exact sub_trans rfl hm
    | with_reducible assumption
    | with_reducible apply Frame.with_fab

theorem enqueue_frame {M : Nat} {s0 s : State} {x1 x2} (h : Frame M s0 s)
    (hm : sub 0x10000 M = true) : Frame M s0 (enqueue s x1 x2) := by
  unfold enqueue
  repeat' first
    | exact sub_trans rfl hm
    | with_reducible assumption
    | with_reducible apply State.setLine_frame
    | (intro x; refine (?_ : Frame M s0 x → _) ?_; (intro hx; clear_value x))
    | (intro x; clear_value x)
    | intro _
    | lift_lets -underBinder

theorem State.flood_frame {M : Nat} {s0 s : State} {x1 x2} (h : Frame M s0 s)
    (hm : sub 0x10000 M = true) : Frame M s0 (State.flood s x1 x2) := by
  unfold State.flood
  repeat' first
    | exact sub_trans rfl hm
    | with_reducible assumption
    | with_reducible apply enqueue_frame
    | with_reducible refine Frame.foldl (fun u a hu => ?_) ?_
    | with_reducible refine Frame.foldl_on (get := Prod.fst) (fun u a hu => ?_) ?_
    | with_reducible refine Frame.foldl_on (get := Prod.snd) (fun u a hu => ?_) ?_
    | (intro x; refine (?_ : Frame M s0 x → _) ?_; (intro hx; clear_value x))
    | (intro x; clear_value x)
    | intro _
    | lift_lets -underBinder

theorem State.draw_frame {M : Nat} {s0 s : State} (h : Frame M s0 s)
    (hm : sub 0x40000000 M = true) : Frame M s0 (State.draw s).2 := by
  unfold State.draw
  repeat' first
    | exact sub_trans rfl hm
    | with_reducible assumption
    | dsimp only
    | with_reducible apply Frame.with_fresh

theorem State.draw_frame_eq {M : Nat} {s0 s : State} {a0 t} (e : State.draw s = (a0, t)) (h : Frame M s0 s)
    (hm : sub 0x40000000 M = true) : Frame M s0 t := by
  have := State.draw_frame  h hm
  rwa [e] at this

theorem haulAt_frame {M : Nat} {s0 s : State} {x1 x2 x3 x4 x5 x6} (h : Frame M s0 s)
    (hm : sub 0x14fbc0000000000000000000000000000000000000000000002000000 M = true) : Frame M s0 (haulAt s x1 x2 x3 x4 x5 x6) := by
  unfold haulAt
  repeat' first
    | exact sub_trans rfl hm
    | with_reducible assumption
    | with_reducible apply State.wr_frame
    | with_reducible apply State.wr64_frame
    | with_reducible apply State.bump_frame
    | with_reducible apply Frame.ite
    | exact has_HAULS_IGNORED_COUNT rfl hm
    | exact has_HD_CAUSE_CAUSE rfl hm
    | exact has_HD_CAUSE_SOURCE rfl hm
    | exact has_HD_CUT_HI rfl hm
    | exact has_HD_CUT_LO rfl hm
    | exact has_HD_LINES_OPEN_LINES rfl hm
    | exact has_HD_STAT_FABRIC rfl hm
    | exact has_HD_STAT_INCOMPLETE rfl hm
    | exact has_HD_STAT_LATE rfl hm
    | exact has_HD_STAT_ORIGIN rfl hm
    | exact has_HD_STAT_STATE rfl hm
    | (intro x; refine (?_ : Frame M s0 x → _) ?_; (intro hx; clear_value x))
    | (intro x; clear_value x)
    | intro _
    | split
    | lift_lets -underBinder
    | with_reducible apply Frame.with_hd

theorem rememberHaul_frame {M : Nat} {s0 s : State} {x1 x2} (h : Frame M s0 s)
    (hm : sub 0x2000000 M = true) : Frame M s0 (rememberHaul s x1 x2) := by
  unfold rememberHaul
  repeat' first
    | exact sub_trans rfl hm
    | with_reducible assumption
    | with_reducible apply Frame.with_hd

theorem haulTrigger_frame {M : Nat} {s0 s : State} {x1 x2 x3 x4} (h : Frame M s0 s)
    (hm : sub 0x14fbc0000000000000000000000000000000000000000000002010000 M = true) : Frame M s0 (haulTrigger s x1 x2 x3 x4) := by
  unfold haulTrigger
  repeat' first
    | exact sub_trans rfl hm
    | with_reducible assumption
    | with_reducible apply haulAt_frame
    | with_reducible apply State.flood_frame
    | with_reducible apply rememberHaul_frame
    | with_reducible apply Frame.ite
    | (intro x; refine (?_ : Frame M s0 x → _) ?_; (intro hx; clear_value x))
    | (intro x; clear_value x)
    | intro _
    | split
    | lift_lets -underBinder

theorem hdrRaise_frame {M : Nat} {s0 s : State} {x1 x2} (h : Frame M s0 s)
    (hm : sub 0x80 M = true) : Frame M s0 (hdrRaise s x1 x2) := by
  unfold hdrRaise
  repeat' first
    | exact sub_trans rfl hm
    | with_reducible assumption
    | with_reducible apply State.setHdr_frame
    | (intro x; refine (?_ : Frame M s0 x → _) ?_; (intro hx; clear_value x))
    | (intro x; clear_value x)
    | intro _
    | split
    | lift_lets -underBinder

theorem pendSource_frame {M : Nat} {s0 : State} {fuel : Nat} {s : State} {n sw} (h : Frame M s0 s)
    (hm : sub 0x14fbc0400000000000000000000000000000000000000000002010380 M = true) : Frame M s0 (pendSource fuel s n sw) := by
  induction fuel generalizing s n sw with
  | zero => exact h
  | succ k ih =>
    unfold pendSource
    with_reducible apply Frame.ite h
    lift_lets
    repeat' first
    | exact sub_trans rfl hm
    | exact has_EVT_FWD_LOST_COUNT rfl hm
    | with_reducible assumption
    | with_reducible apply ih
    | with_reducible apply haulTrigger_frame
    | with_reducible apply hdrRaise_frame
    | with_reducible apply State.bump_frame
    | with_reducible apply Frame.ite
    | (intro x; refine (?_ : Frame M s0 x → _) ?_; (intro hx; clear_value x))
    | intro _
    | split
    | with_reducible apply Frame.with_ec
    | with_reducible apply Frame.with_host

theorem sampleSource_frame {M : Nat} {s0 s : State} {x1} (h : Frame M s0 s)
    (hm : sub 0x14fbc0400000000000000000000000000000000000000000002010380 M = true) : Frame M s0 (sampleSource s x1) := by
  unfold sampleSource
  repeat' first
    | exact sub_trans rfl hm
    | with_reducible assumption
    | with_reducible apply pendSource_frame
    | with_reducible apply Frame.ite
    | split

theorem samplePage_frame {M : Nat} {s0 s : State} {x1 x2} (h : Frame M s0 s)
    (hm : sub 0x14fbc0400000000000000000000000000000000000000000002010380 M = true) : Frame M s0 (samplePage s x1 x2) := by
  unfold samplePage
  repeat' first
    | exact sub_trans rfl hm
    | with_reducible assumption
    | with_reducible apply sampleSource_frame
    | split

theorem raiseQuiet_frame {M : Nat} {s0 s : State} {x1 x2} (h : Frame M s0 s)
    (hm : sub 0x14fbc0400000000000000000000000000000000000000000002010380 M = true) : Frame M s0 (raiseQuiet s x1 x2) := by
  unfold raiseQuiet
  repeat' first
    | exact sub_trans rfl hm
    | with_reducible assumption
    | with_reducible apply samplePage_frame
    | with_reducible apply hdrRaise_frame

theorem traceDrop_frame {M : Nat} {s0 s : State} {x1} (h : Frame M s0 s)
    (hm : sub 0x814fbc0400000000000000000000000000000000000000000002010380 M = true) : Frame M s0 (traceDrop s x1) := by
  unfold traceDrop
  repeat' first
    | exact sub_trans rfl hm
    | with_reducible assumption
    | with_reducible apply raiseQuiet_frame
    | with_reducible apply State.bump_frame
    | exact has_TR_DROPS_DROPS rfl hm

theorem traceAdd_frame {M : Nat} {s0 s : State} {x1 x2 x3 x4 x5 x6 x7} (h : Frame M s0 s)
    (hm : sub 0x814fbc040000000000000000000000000000000000000000000a010380 M = true) : Frame M s0 (traceAdd s x1 x2 x3 x4 x5 x6 x7) := by
  unfold traceAdd
  repeat' first
    | exact sub_trans rfl hm
    | with_reducible assumption
    | with_reducible apply traceDrop_frame
    | with_reducible apply Frame.ite
    | (intro x; refine (?_ : Frame M s0 x → _) ?_; (intro hx; clear_value x))
    | (intro x; clear_value x)
    | intro _
    | split
    | lift_lets -underBinder
    | with_reducible apply Frame.with_trace

theorem traceAll_frame {M : Nat} {s0 s : State} {x1 x2 x3 x4 x5} (h : Frame M s0 s)
    (hm : sub 0x814fbc040000000000000000000000000000000000000000000a010380 M = true) : Frame M s0 (traceAll s x1 x2 x3 x4 x5) := by
  unfold traceAll
  repeat' first
    | exact sub_trans rfl hm
    | with_reducible assumption
    | with_reducible apply traceAdd_frame
    | with_reducible refine Frame.foldl (fun u a hu => ?_) ?_
    | with_reducible refine Frame.foldl_on (get := Prod.fst) (fun u a hu => ?_) ?_
    | with_reducible refine Frame.foldl_on (get := Prod.snd) (fun u a hu => ?_) ?_
    | (intro x; refine (?_ : Frame M s0 x → _) ?_; (intro hx; clear_value x))
    | (intro x; clear_value x)
    | intro _
    | lift_lets -underBinder

theorem raise_frame {M : Nat} {s0 s : State} {x1 x2} (h : Frame M s0 s)
    (hm : sub 0x814fbc040000000000000000000000000000000000000000000a010380 M = true) : Frame M s0 (raise s x1 x2) := by
  unfold raise
  repeat' first
    | exact sub_trans rfl hm
    | with_reducible assumption
    | with_reducible apply raiseQuiet_frame
    | with_reducible apply traceAdd_frame
    | (intro x; refine (?_ : Frame M s0 x → _) ?_; (intro hx; clear_value x))
    | (intro x; clear_value x)
    | intro _
    | split
    | lift_lets -underBinder

theorem refuse_frame {M : Nat} {s0 s : State} {x1 x2} (h : Frame M s0 s)
    (hm : sub 0x814fbc040000000000000000000000000000000000000000000a010380 M = true) : Frame M s0 (refuse s x1 x2) := by
  unfold refuse
  repeat' first
    | exact sub_trans rfl hm
    | with_reducible assumption
    | with_reducible apply raise_frame

end Sys2Proof.Machine
end

