-- ==== Sys2Proof/Laws/FrameIdle.lean ====
section
/-! SUPPORT. Frame lemmas for the functions of Machine/Idle.lean. -/

set_option Elab.async false
set_option linter.all false

namespace Sys2Proof.Machine

theorem addUtil_frame {M : Nat} {s0 s : State} {x0 x2} (h : Frame M s0 s)
    (hm : sub 0x80 M = true) : Frame M s0 (addUtil x0 s x2) := by
  unfold addUtil
  repeat' first
    | exact sub_trans rfl hm
    | with_reducible assumption
    | with_reducible apply State.setHdr_frame

theorem throttleTicks_frame {M : Nat} {s0 s : State} {x1} (h : Frame M s0 s)
    (hm : sub 0x30000000000000 M = true) : Frame M s0 (throttleTicks s x1) := by
  unfold throttleTicks
  repeat' first
    | exact sub_trans rfl hm
    | with_reducible assumption
    | with_reducible apply State.bump64_frame
    | with_reducible apply Frame.ite
    | exact has_THROTTLE_TICKS_HI rfl hm
    | exact has_THROTTLE_TICKS_LO rfl hm
    | split

theorem clearRaw_frame {M : Nat} {s0 s : State} (h : Frame M s0 s)
    (hm : sub 0x80 M = true) : Frame M s0 (clearRaw s) := by
  unfold clearRaw
  repeat' first
    | exact sub_trans rfl hm
    | with_reducible assumption
    | (intro x; refine (?_ : Frame M s0 x → _) ?_; (intro hx; clear_value x))
    | (intro x; clear_value x)
    | intro _
    | lift_lets -underBinder
    | with_reducible apply Frame.with_hdrs

theorem State.advance_frame {M : Nat} {s0 s : State} {x1} (h : Frame M s0 s)
    (hm : sub 0x30000000000082 M = true) : Frame M s0 (State.advance s x1) := by
  unfold State.advance
  repeat' first
    | exact sub_trans rfl hm
    | with_reducible assumption
    | with_reducible apply addUtil_frame
    | with_reducible apply throttleTicks_frame
    | with_reducible apply clearRaw_frame
    | with_reducible apply Frame.ite
    | with_reducible refine Frame.foldl (fun u a hu => ?_) ?_
    | with_reducible refine Frame.foldl_on (get := Prod.fst) (fun u a hu => ?_) ?_
    | with_reducible refine Frame.foldl_on (get := Prod.snd) (fun u a hu => ?_) ?_
    | intro _
    | split
    | with_reducible apply Frame.with_tick

theorem State.passTo_frame {M : Nat} {s0 s : State} {x1} (h : Frame M s0 s)
    (hm : sub 0x30000000000082 M = true) : Frame M s0 (State.passTo s x1) := by
  unfold State.passTo
  repeat' first
    | exact sub_trans rfl hm
    | with_reducible assumption
    | with_reducible apply State.advance_frame

theorem idleTick_frame {M : Nat} {s0 s : State} (h : Frame M s0 s)
    (hm : sub 0x30000000000082 M = true) : Frame M s0 (idleTick s) := by
  unfold idleTick
  repeat' first
    | exact sub_trans rfl hm
    | with_reducible assumption
    | with_reducible apply State.advance_frame

end Sys2Proof.Machine
end

