-- ==== Sys2Proof/Laws/FrameRouting.lean ====
section
/-! SUPPORT. Frame lemmas for the functions of Machine/Routing.lean. -/

set_option Elab.async false
set_option linter.all false

namespace Sys2Proof.Machine

theorem routeFlit_frame {M : Nat} {s0 s : State} {x1} (h : Frame M s0 s)
    (hm : sub 0x10000 M = true) : FrameO (fun x => x) M s0 (routeFlit s x1) := by
  unfold routeFlit
  cases routeLine s (x1.dst / 16) with
  | none => exact FrameO.none
  | some out => exact FrameO.of_some (enqueue_frame h (sub_trans rfl hm))

theorem routeFlit_frame_some {M : Nat} {s0 s : State} {x1} {z} (e : routeFlit s x1 = some z) (h : Frame M s0 s)
    (hm : sub 0x10000 M = true) : Frame M s0 z :=
  (routeFlit_frame h hm).held z e

theorem noRoute_frame {M : Nat} {s0 s : State} (h : Frame M s0 s)
    (hm : sub 0x814fbc040000000000000000000010000000000000000000000a010380 M = true) : Frame M s0 (noRoute s) := by
  unfold noRoute
  repeat' first
    | exact sub_trans rfl hm
    | with_reducible assumption
    | with_reducible apply raise_frame
    | with_reducible apply State.bump_frame
    | exact has_NO_ROUTE_COUNT rfl hm

theorem State.send_frame {M : Nat} {s0 s : State} {x1 x2 x3} (h : Frame M s0 s)
    (hm : sub 0x814fbc040000000000000000000010000000000000000000002a010380 M = true) : Frame M s0 (State.send s x1 x2 x3) := by
  unfold State.send
  split
  · exact State.emit_frame h (sub_trans rfl hm)
  · cases e : routeFlit s (msgFlit x1 (16 * s.self + 8) (16 * x2 + 8) x3) with
    | none => exact noRoute_frame h (sub_trans rfl hm)
    | some t => exact routeFlit_frame_some e h (sub_trans rfl hm)

theorem State.sendUp_frame {M : Nat} {s0 s : State} {x1} (h : Frame M s0 s)
    (hm : sub 0x814fbc040000000000000000000010000000000000000000002a010380 M = true) : Frame M s0 (State.sendUp s x1) := by
  unfold State.sendUp
  repeat' first
    | exact sub_trans rfl hm
    | with_reducible assumption
    | with_reducible apply State.send_frame

theorem State.sendTree_frame {M : Nat} {s0 s : State} {x1} (h : Frame M s0 s)
    (hm : sub 0x814fbc040000000000000000000010000000000000000000002a010380 M = true) : Frame M s0 (State.sendTree s x1) := by
  unfold State.sendTree
  repeat' first
    | exact sub_trans rfl hm
    | with_reducible assumption
    | with_reducible apply State.send_frame
    | with_reducible refine Frame.foldl (fun u a hu => ?_) ?_
    | with_reducible refine Frame.foldl_on (get := Prod.fst) (fun u a hu => ?_) ?_
    | with_reducible refine Frame.foldl_on (get := Prod.snd) (fun u a hu => ?_) ?_
    | (intro x; refine (?_ : Frame M s0 x → _) ?_; (intro hx; clear_value x))
    | (intro x; clear_value x)
    | intro _
    | lift_lets -underBinder

theorem passUp_frame {M : Nat} {s0 s : State} {x1} (h : Frame M s0 s)
    (hm : sub 0x814fbc040000000000000000000010000000000000000000002a010380 M = true) : Frame M s0 (passUp s x1) := by
  unfold passUp
  repeat' first
    | exact sub_trans rfl hm
    | with_reducible assumption
    | with_reducible apply State.sendUp_frame
    | with_reducible apply Frame.ite
    | split

theorem passDown_frame {M : Nat} {s0 s : State} {x1} (h : Frame M s0 s)
    (hm : sub 0x814fbc040000000000000000000010000000000000000000002a010380 M = true) : Frame M s0 (passDown s x1) := by
  unfold passDown
  repeat' first
    | exact sub_trans rfl hm
    | with_reducible assumption
    | with_reducible apply State.sendTree_frame
    | with_reducible apply Frame.ite
    | split

end Sys2Proof.Machine
end

