-- ==== Sys2Proof/Laws/FrameFaults.lean ====
section
/-! SUPPORT. Frame lemmas for the functions of Machine/Faults.lean. -/

set_option Elab.async false
set_option linter.all false

namespace Sys2Proof.Machine

theorem stopStep_frame {M : Nat} {s0 s : State} (h : Frame M s0 s)
    (hm : sub 0x814fbc040000000000000000000010000000000000000000002a012380 M = true) : Frame M s0 (stopStep s) := by
  unfold stopStep
  repeat' first
    | exact sub_trans rfl hm
    | with_reducible assumption
    | with_reducible apply State.sendUp_frame
    | with_reducible apply Frame.ite
    | split
    | with_reducible apply Frame.with_step

theorem stopOrTrip_frame {M : Nat} {s0 s : State} {x1 x2 x3} (h : Frame M s0 s)
    (hm : sub 0x814fbc040000000000000000000010000000000000000000002a012380 M = true) : Frame M s0 (stopOrTrip s x1 x2 x3) := by
  unfold stopOrTrip
  repeat' first
    | exact sub_trans rfl hm
    | with_reducible assumption
    | with_reducible apply haulTrigger_frame
    | with_reducible apply stopStep_frame
    | with_reducible apply Frame.ite
    | (intro x; refine (?_ : Frame M s0 x → _) ?_; (intro hx; clear_value x))
    | (intro x; clear_value x)
    | intro _
    | split
    | lift_lets -underBinder
    | with_reducible apply Frame.with_hd

theorem rung_frame {M : Nat} {s0 s : State} {x1} (h : Frame M s0 s)
    (hm : sub 0x814fbc040000000000000000000000180000000000000000000a010380 M = true) : Frame M s0 (rung s x1) := by
  unfold rung
  repeat' first
    | exact sub_trans rfl hm
    | with_reducible assumption
    | with_reducible apply State.bump_frame
    | with_reducible apply State.wr_frame
    | with_reducible apply raise_frame
    | with_reducible apply Frame.ite
    | exact has_RECOV_STAT_LAST_RUNG rfl hm
    | exact has_REC_COUNT_COUNT rfl hm
    | (intro x; refine (?_ : Frame M s0 x → _) ?_; (intro hx; clear_value x))
    | (intro x; clear_value x)
    | intro _
    | split
    | lift_lets -underBinder

theorem absorbed_frame {M : Nat} {s0 s : State} {x1} (h : Frame M s0 s)
    (hm : sub 0x1000000000000000000000000000 M = true) : Frame M s0 (absorbed s x1) := by
  unfold absorbed
  repeat' first
    | exact sub_trans rfl hm
    | with_reducible assumption
    | with_reducible apply State.bump_frame
    | exact has_REC_COUNT_COUNT rfl hm

theorem replayFault_frame {M : Nat} {s0 s : State} (h : Frame M s0 s)
    (hm : sub 0x814fbc040000000000000000000010180000000000000000002a012380 M = true) : Frame M s0 (replayFault s) := by
  unfold replayFault
  repeat' first
    | exact sub_trans rfl hm
    | with_reducible assumption
    | with_reducible apply stopStep_frame
    | with_reducible apply rung_frame

theorem svcAppend_frame {M : Nat} {s0 s : State} {x1 x2 x3 x4} (h : Frame M s0 s)
    (hm : sub 0xc000000000000000000000000000000000100000 M = true) : Frame M s0 (svcAppend s x1 x2 x3 x4) := by
  unfold svcAppend
  repeat' first
    | exact sub_trans rfl hm
    | with_reducible assumption
    | with_reducible apply State.bump_frame
    | with_reducible apply State.wr_frame
    | with_reducible apply Frame.ite
    | exact has_SVC_STAT_SVC_FULL rfl hm
    | exact has_SVC_STAT_SVC_LOST rfl hm
    | (intro x; refine (?_ : Frame M s0 x → _) ?_; (intro hx; clear_value x))
    | (intro x; clear_value x)
    | intro _
    | split
    | lift_lets -underBinder
    | with_reducible apply Frame.with_recov

theorem rungRecorded_frame {M : Nat} {s0 s : State} {x1 x2 x3} (h : Frame M s0 s)
    (hm : sub 0x814fbc040000000000c00000000000180000000000000000000a110380 M = true) : Frame M s0 (rungRecorded s x1 x2 x3) := by
  unfold rungRecorded
  repeat' first
    | exact sub_trans rfl hm
    | with_reducible assumption
    | with_reducible apply svcAppend_frame
    | with_reducible apply rung_frame

theorem handOver_frame {M : Nat} {s0 s : State} (h : Frame M s0 s)
    (hm : sub 0x814fbc040000000000c00000000010590100000000000000002a110380 M = true) : Frame M s0 (handOver s) := by
  unfold handOver
  repeat' first
    | exact sub_trans rfl hm
    | with_reducible assumption
    | with_reducible apply State.send_frame
    | with_reducible apply State.wr_frame
    | with_reducible apply svcAppend_frame
    | with_reducible apply raise_frame
    | with_reducible apply State.bump_frame
    | with_reducible apply rungRecorded_frame
    | exact has_HANDOVERS_COUNT rfl hm
    | exact has_RECOV_STAT_HANDED rfl hm
    | exact has_STEP_STAT_STATE rfl hm
    | (intro x; refine (?_ : Frame M s0 x → _) ?_; (intro hx; clear_value x))
    | (intro x; clear_value x)
    | intro _
    | split
    | lift_lets -underBinder

theorem askRestore_frame {M : Nat} {s0 s : State} {x1 x2 x3} (h : Frame M s0 s)
    (hm : sub 0x814fbc040000000000c00000000010180000000000000000002a110380 M = true) : Frame M s0 (askRestore s x1 x2 x3) := by
  unfold askRestore
  repeat' first
    | exact sub_trans rfl hm
    | with_reducible assumption
    | with_reducible apply State.send_frame
    | with_reducible apply rungRecorded_frame
    | with_reducible apply Frame.ite
    | (intro x; refine (?_ : Frame M s0 x → _) ?_; (intro hx; clear_value x))
    | (intro x; clear_value x)
    | intro _
    | split
    | lift_lets -underBinder
    | with_reducible apply Frame.with_recov
    | with_reducible apply Frame.with_fab_recov

theorem noteUe_frame {M : Nat} {s0 s : State} {x1} (h : Frame M s0 s)
    (hm : sub 0x814fbc040000000000c000000000001c0000000000000000000a110380 M = true) : Frame M s0 (noteUe s x1) := by
  unfold noteUe
  repeat' first
    | exact sub_trans rfl hm
    | with_reducible assumption
    | with_reducible apply raise_frame
    | with_reducible apply rung_frame
    | with_reducible apply State.wr_frame
    | with_reducible apply rungRecorded_frame
    | with_reducible apply Frame.ite
    | exact has_RECOV_STAT_PLAN_UE rfl hm
    | (intro x; refine (?_ : Frame M s0 x → _) ?_; (intro hx; clear_value x))
    | (intro x; clear_value x)
    | intro _
    | split
    | lift_lets -underBinder
    | with_reducible apply Frame.with_recov

theorem stopForUe_frame {M : Nat} {s0 s : State} {x1} (h : Frame M s0 s)
    (hm : sub 0x814fbc040000000000c000000000101c0000000000000000002a112380 M = true) : Frame M s0 (stopForUe s x1) := by
  unfold stopForUe
  repeat' first
    | exact sub_trans rfl hm
    | with_reducible assumption
    | with_reducible apply stopOrTrip_frame
    | with_reducible apply noteUe_frame
    | with_reducible apply Frame.ite
    | split

theorem countEvent_frame {M : Nat} {s0 s : State} {x1 x2} (h : Frame M s0 s)
    (hm : sub 0x80 M = true) : Frame M s0 (countEvent s x1 x2) := by
  unfold countEvent
  repeat' first
    | exact sub_trans rfl hm
    | with_reducible assumption
    | with_reducible apply State.setHdr_frame
    | (intro x; refine (?_ : Frame M s0 x → _) ?_; (intro hx; clear_value x))
    | (intro x; clear_value x)
    | intro _
    | lift_lets -underBinder

theorem State.setWinch_frame {M : Nat} {s0 s : State} {x1 x2} (h : Frame M s0 s)
    (hm : sub 0x20000 M = true) : Frame M s0 (State.setWinch s x1 x2) := by
  unfold State.setWinch
  repeat' first
    | exact sub_trans rfl hm
    | with_reducible assumption
    | with_reducible apply Frame.with_winch

theorem endWait_frame {M : Nat} {s0 s : State} {x1} (h : Frame M s0 s)
    (hm : sub 0x80000000000000000000000000000000000000000000000000000000000020000 M = true) : Frame M s0 (endWait s x1) := by
  unfold endWait
  repeat' first
    | exact sub_trans rfl hm
    | with_reducible assumption
    | with_reducible apply State.bump_frame
    | with_reducible apply State.setWinch_frame
    | exact has_WAIT_TICKS_COUNT rfl hm
    | (intro x; refine (?_ : Frame M s0 x → _) ?_; (intro hx; clear_value x))
    | (intro x; clear_value x)
    | intro _
    | split
    | lift_lets -underBinder

theorem winchFault_frame {M : Nat} {s0 s : State} {x1 x2 x3 x4} (h : Frame M s0 s)
    (hm : sub 0x8320000814fbc040000000000000000000010180000000000000000002a032380 M = true) : Frame M s0 (winchFault s x1 x2 x3 x4) := by
  unfold winchFault
  repeat' first
    | exact sub_trans rfl hm
    | with_reducible assumption
    | with_reducible apply raise_frame
    | with_reducible apply State.wr_frame
    | with_reducible apply countEvent_frame
    | with_reducible apply endWait_frame
    | with_reducible apply stopOrTrip_frame
    | with_reducible apply stopStep_frame
    | with_reducible apply rung_frame
    | with_reducible apply Frame.ite
    | exact has_WN_FAULT_CODE rfl hm
    | exact has_WN_FAULT_RECORD rfl hm
    | exact has_WN_STAT_PHASE rfl hm
    | (intro x; refine (?_ : Frame M s0 x → _) ?_; (intro hx; clear_value x))
    | (intro x; clear_value x)
    | intro _
    | split
    | lift_lets -underBinder

theorem burnerFault_frame {M : Nat} {s0 s : State} {x1 x2 x3 x4} (h : Frame M s0 s)
    (hm : sub 0x1d0000000000814fbc040000000000000000000010180000000000000000002a012380 M = true) : Frame M s0 (burnerFault s x1 x2 x3 x4) := by
  unfold burnerFault
  repeat' first
    | exact sub_trans rfl hm
    | with_reducible assumption
    | with_reducible apply raise_frame
    | with_reducible apply State.wr_frame
    | with_reducible apply stopOrTrip_frame
    | with_reducible apply rung_frame
    | with_reducible apply Frame.ite
    | exact has_BN_FAULT_CODE rfl hm
    | exact has_BN_FAULT_RECORD rfl hm
    | exact has_BN_PROGRESS_ELEM rfl hm
    | exact has_BN_STAT_PHASE rfl hm
    | (intro x; refine (?_ : Frame M s0 x → _) ?_; (intro hx; clear_value x))
    | (intro x; clear_value x)
    | intro _
    | split
    | lift_lets -underBinder

theorem modeSkew_frame {M : Nat} {s0 s : State} (h : Frame M s0 s)
    (hm : sub 0x814fbc040000000000000000000010180000000000000000002a012380 M = true) : Frame M s0 (modeSkew s) := by
  unfold modeSkew
  repeat' first
    | exact sub_trans rfl hm
    | with_reducible assumption
    | with_reducible apply stopOrTrip_frame
    | with_reducible apply rung_frame
    | with_reducible apply raise_frame

theorem State.setKite_frame {M : Nat} {s0 s : State} {x1 x2} (h : Frame M s0 s)
    (hm : sub 0x1000 M = true) : Frame M s0 (State.setKite s x1 x2) := by
  unfold State.setKite
  repeat' first
    | exact sub_trans rfl hm
    | with_reducible assumption
    | with_reducible apply Frame.with_kites

theorem setEsc_frame {M : Nat} {s0 s : State} {x1 x2} (h : Frame M s0 s)
    (hm : sub 0x78000000000000000000000000000000000000000000000000000000000000000000000000000000000 M = true) : Frame M s0 (setEsc s x1 x2) := by
  unfold setEsc
  repeat' first
    | exact sub_trans rfl hm
    | with_reducible assumption
    | with_reducible apply State.wr_frame
    | exact has_ESC_FAULT_BLOCK rfl hm
    | exact has_ESC_FAULT_CAUSE rfl hm
    | exact has_ESC_FAULT_COLUMN rfl hm
    | exact has_ESC_FAULT_COUNT rfl hm

theorem setTrap_frame {M : Nat} {s0 s : State} {x1 x2 x3} (h : Frame M s0 s)
    (hm : sub 0x7fe0000000000000000000000000000000000000000000000000000000000000000000000000000000000000000 M = true) : Frame M s0 (setTrap s x1 x2 x3) := by
  unfold setTrap
  repeat' first
    | exact sub_trans rfl hm
    | with_reducible assumption
    | with_reducible apply State.wr_frame
    | exact has_NAN_TRAP_ELEM_ELEM rfl hm
    | exact has_NAN_TRAP_ELEM_TAG rfl hm
    | exact has_NAN_TRAP_INFO_CARRY rfl hm
    | exact has_NAN_TRAP_INFO_KIND rfl hm
    | exact has_NAN_TRAP_INFO_LOGICAL rfl hm
    | exact has_NAN_TRAP_INFO_SOURCE rfl hm
    | exact has_NAN_TRAP_INFO_UOP rfl hm
    | exact has_NAN_TRAP_INFO_VALID rfl hm
    | exact has_NAN_TRAP_OP_OP_INDEX rfl hm
    | exact has_NAN_TRAP_STEP_STEP rfl hm
    | (intro x; refine (?_ : Frame M s0 x → _) ?_; (intro hx; clear_value x))
    | (intro x; clear_value x)
    | intro _
    | lift_lets -underBinder

theorem clearLatches_frame {M : Nat} {s0 s : State} {x1} (h : Frame M s0 s)
    (hm : sub 0x7fe0000078000000030000000000000000000000000000000000000000000000000000000000000000000000000 M = true) : Frame M s0 (clearLatches s x1) := by
  unfold clearLatches
  repeat' first
    | exact sub_trans rfl hm
    | with_reducible assumption
    | with_reducible apply setTrap_frame
    | with_reducible apply setEsc_frame
    | with_reducible apply State.wr_frame
    | exact has_KITE_FAULT_CODE rfl hm
    | exact has_KITE_FAULT_OP_INDEX rfl hm

theorem latchKite_frame {M : Nat} {s0 s : State} {x1 x2} (h : Frame M s0 s)
    (hm : sub 0x7fe0000078000000030000000000000000000000000000000000000000000000000000000000000000000000000 M = true) : Frame M s0 (latchKite s x1 x2) := by
  unfold latchKite
  repeat' first
    | exact sub_trans rfl hm
    | with_reducible assumption
    | with_reducible apply State.wr_frame
    | with_reducible apply setEsc_frame
    | with_reducible apply setTrap_frame
    | exact has_KITE_FAULT_CODE rfl hm
    | exact has_KITE_FAULT_OP_INDEX rfl hm
    | (intro x; refine (?_ : Frame M s0 x → _) ?_; (intro hx; clear_value x))
    | (intro x; clear_value x)
    | intro _
    | split
    | lift_lets -underBinder

theorem latchFirst_frame {M : Nat} {s0 s : State} {x1 x2 x3} (h : Frame M s0 s)
    (hm : sub 0x7fe000007800000003000000000000000814fbc040000000000000000000000000000000000000000000a010380 M = true) : Frame M s0 (latchFirst s x1 x2 x3) := by
  unfold latchFirst
  repeat' first
    | exact sub_trans rfl hm
    | with_reducible assumption
    | with_reducible apply raise_frame
    | with_reducible apply latchKite_frame
    | with_reducible apply countEvent_frame
    | with_reducible apply setEsc_frame
    | with_reducible apply Frame.ite
    | split

theorem kiteFaultLatch_frame {M : Nat} {s0 s : State} {x1 x2 x3} (h : Frame M s0 s)
    (hm : sub 0x7fe000007800000003800000000000000814fbc040000000000000000000000000000000000000000000a011380 M = true) : Frame M s0 (kiteFaultLatch s x1 x2 x3) := by
  unfold kiteFaultLatch
  repeat' first
    | exact sub_trans rfl hm
    | with_reducible assumption
    | with_reducible apply State.wr_frame
    | with_reducible apply latchFirst_frame
    | with_reducible apply State.setKite_frame
    | exact has_KITE_STATE_STATE rfl hm
    | (intro x; refine (?_ : Frame M s0 x → _) ?_; (intro hx; clear_value x))
    | (intro x; clear_value x)
    | intro _
    | lift_lets -underBinder

theorem kiteFault_frame {M : Nat} {s0 s : State} {x1 x2 x3} (h : Frame M s0 s)
    (hm : sub 0x7fe000007800000003800000000000000814fbc040000000000000000000010180000000000000000002a013380 M = true) : Frame M s0 (kiteFault s x1 x2 x3) := by
  unfold kiteFault
  repeat' first
    | exact sub_trans rfl hm
    | with_reducible assumption
    | with_reducible apply replayFault_frame
    | with_reducible apply kiteFaultLatch_frame

theorem faultClear_frame {M : Nat} {s0 s : State} {x1 x2} (h : Frame M s0 s)
    (hm : sub 0x7fe0000078000000030000000000000000000000000000000000000000000000000000000000000000000000000 M = true) : Frame M s0 (faultClear s x1 x2) := by
  unfold faultClear
  repeat' first
    | exact sub_trans rfl hm
    | with_reducible assumption
    | with_reducible apply latchKite_frame
    | with_reducible apply clearLatches_frame
    | split

theorem endStop_frame {M : Nat} {s0 s : State} {x1} (h : Frame M s0 s)
    (hm : sub 0x1000 M = true) : Frame M s0 (endStop s x1) := by
  unfold endStop
  repeat' first
    | exact sub_trans rfl hm
    | with_reducible assumption
    | with_reducible apply State.setKite_frame

theorem gateOpens_frame {M : Nat} {s0 s : State} {x1 x2 x3} (h : Frame M s0 s)
    (hm : sub 0x2000 M = true) : Frame M s0 (gateOpens s x1 x2 x3) := by
  unfold gateOpens
  repeat' first
    | exact sub_trans rfl hm
    | with_reducible assumption
    | with_reducible apply Frame.ite
    | split
    | with_reducible apply Frame.with_step

theorem startGates_frame {M : Nat} {s0 s : State} (h : Frame M s0 s)
    (hm : sub 0x2000 M = true) : Frame M s0 (startGates s) := by
  unfold startGates
  repeat' first
    | exact sub_trans rfl hm
    | with_reducible assumption
    | (intro x; refine (?_ : Frame M s0 x → _) ?_; (intro hx; clear_value x))
    | (intro x; clear_value x)
    | intro _
    | lift_lets -underBinder
    | with_reducible apply Frame.with_step

theorem raiseTimes_frame {M : Nat} {s0 s : State} {x1 x2 x3} (h : Frame M s0 s)
    (hm : sub 0x814fbc040000000000000000000000000000000000000000000a010380 M = true) : Frame M s0 (raiseTimes s x1 x2 x3) := by
  unfold raiseTimes
  repeat' first
    | exact sub_trans rfl hm
    | with_reducible assumption
    | with_reducible apply raise_frame
    | with_reducible refine Frame.foldl (fun u a hu => ?_) ?_
    | with_reducible refine Frame.foldl_on (get := Prod.fst) (fun u a hu => ?_) ?_
    | with_reducible refine Frame.foldl_on (get := Prod.snd) (fun u a hu => ?_) ?_
    | (intro x; refine (?_ : Frame M s0 x → _) ?_; (intro hx; clear_value x))
    | (intro x; clear_value x)
    | intro _
    | lift_lets -underBinder

theorem remapRow_frame {M : Nat} {s0 s : State} {x1 x2} (h : Frame M s0 s)
    (hm : sub 0x100000000000000000814fbc040000000000000000000000180000000000000000000a011380 M = true) : Frame M s0 (remapRow s x1 x2).2 := by
  unfold remapRow
  repeat' first
    | exact sub_trans rfl hm
    | with_reducible assumption
    | with_reducible apply rung_frame
    | with_reducible apply State.bump_frame
    | with_reducible apply State.setKite_frame
    | with_reducible apply raise_frame
    | with_reducible apply Frame.ite
    | exact has_SP_SPARE_SPARE_USED rfl hm
    | (intro x; refine (?_ : Frame M s0 x → _) ?_; (intro hx; clear_value x))
    | (intro x; clear_value x)
    | intro _
    | split
    | lift_lets -underBinder
    | dsimp only

theorem remapRow_frame_eq {M : Nat} {s0 s : State} {x1 x2} {a0 t} (e : remapRow s x1 x2 = (a0, t)) (h : Frame M s0 s)
    (hm : sub 0x100000000000000000814fbc040000000000000000000000180000000000000000000a011380 M = true) : Frame M s0 t := by
  have := remapRow_frame (x1 := x1) (x2 := x2) h hm
  rwa [e] at this

theorem remapDue_frame {M : Nat} {s0 s : State} {x1} (h : Frame M s0 s)
    (hm : sub 0x100000000000000000814fbc040000000000000000000000180000000000000000000a011380 M = true) : Frame M s0 (remapDue s x1) := by
  unfold remapDue
  repeat' first
    | exact sub_trans rfl hm
    | with_reducible assumption
    | with_reducible apply remapRow_frame
    | with_reducible apply remapRow_frame_eq (by assumption)
    | with_reducible refine Frame.foldl (fun u a hu => ?_) ?_
    | with_reducible refine Frame.foldl_on (get := Prod.fst) (fun u a hu => ?_) ?_
    | with_reducible refine Frame.foldl_on (get := Prod.snd) (fun u a hu => ?_) ?_
    | (intro x; refine (?_ : Frame M s0 x → _) ?_; (intro hx; clear_value x))
    | (intro x; clear_value x)
    | intro _
    | lift_lets -underBinder

theorem declareFailed_frame {M : Nat} {s0 s : State} {x1} (h : Frame M s0 s)
    (hm : sub 0x800000000000008814fbc040000000000000000000000000000000000000000000a011380 M = true) : Frame M s0 (declareFailed s x1) := by
  unfold declareFailed
  repeat' first
    | exact sub_trans rfl hm
    | with_reducible assumption
    | with_reducible apply State.setKite_frame
    | with_reducible apply State.setHdr_frame
    | with_reducible apply State.wr_frame
    | with_reducible apply raise_frame
    | exact has_KITE_STATE_STATE rfl hm
    | exact has_TRN_KSTAT_FAILED rfl hm
    | (intro x; refine (?_ : Frame M s0 x → _) ?_; (intro hx; clear_value x))
    | (intro x; clear_value x)
    | intro _
    | lift_lets -underBinder

theorem sramExhausted_frame {M : Nat} {s0 s : State} {x1} (h : Frame M s0 s)
    (hm : sub 0x800000000000008814fbc040000000000c00000000010590100000000000000002a113380 M = true) : Frame M s0 (sramExhausted s x1) := by
  unfold sramExhausted
  repeat' first
    | exact sub_trans rfl hm
    | with_reducible assumption
    | with_reducible apply declareFailed_frame
    | with_reducible apply stopStep_frame
    | with_reducible apply handOver_frame
    | with_reducible apply Frame.ite
    | (intro x; refine (?_ : Frame M s0 x → _) ?_; (intro hx; clear_value x))
    | (intro x; clear_value x)
    | intro _
    | split
    | lift_lets -underBinder

theorem remapSram_frame {M : Nat} {s0 s : State} {x1} (h : Frame M s0 s)
    (hm : sub 0x800000000000008814fbc040000000000c00000000010590100000000000000002a113b80 M = true) : Frame M s0 (remapSram s x1) := by
  unfold remapSram
  dsimp only
  repeat' first
    | exact fun _ k => k
    | exact fun _ _ => SpoolOk.nil
    | exact sub_trans rfl hm
    | with_reducible assumption
    | with_reducible apply rung_frame
    | with_reducible apply sramExhausted_frame
    | with_reducible simp only []
    | with_reducible apply Frame.ite
    | (intro x; refine (?_ : Frame M s0 x → _) ?_; (intro hx; clear_value x))
    | (intro x; clear_value x)
    | intro _
    | split
    | lift_lets -underBinder
    | with_reducible apply Frame.with_mem

end Sys2Proof.Machine
end

