-- ==== Sys2Proof/Laws/FrameMemory.lean ====
section
/-! SUPPORT. Frame lemmas for the functions of Machine/Memory.lean. -/

set_option Elab.async false
set_option linter.all false

namespace Sys2Proof.Machine

theorem State.setStack_frame {M : Nat} {s0 s : State} {x1 x2} (h : Frame M s0 s)
    (hm : sub 0x800 M = true) : Frame M s0 (State.setStack s x1 x2) := by
  unfold State.setStack
  repeat' first
    | exact fun _ k => k
    | exact fun _ _ => SpoolOk.nil
    | exact sub_trans rfl hm
    | with_reducible assumption
    | with_reducible apply Frame.with_mem

theorem hbmWrite_frame {M : Nat} {s0 s : State} {x1 x2} (h : Frame M s0 s)
    (hm : sub 0xc00 M = true) : Frame M s0 (hbmWrite s x1 x2) := by
  unfold hbmWrite
  repeat' first
    | exact fun h => Table.wf_storeN h
    | exact fun _ => rfl
    | exact sub_trans rfl hm
    | with_reducible assumption
    | with_reducible apply State.setStack_frame
    | with_reducible apply Frame.ite
    | (intro x; refine (?_ : Frame M s0 x → _) ?_; (intro hx; clear_value x))
    | (intro x; clear_value x)
    | intro _
    | split
    | lift_lets -underBinder
    | with_reducible apply Frame.with_hbm

theorem State.setLines_frame {M : Nat} {s0 s : State} {set ls} (h : Frame M s0 s)
    (hl : Canon s0 → SpoolOk s.mem.spool → LinesOk set ls) (hm : sub 0x800 M = true) : Frame M s0 (State.setLines s set ls) := by
  unfold State.setLines
  exact Frame.with_mem h (sub_trans rfl hm) fun c k => k.put (hl c k)

theorem writebackLine_frame {M : Nat} {s0 s : State} {x1 x2} (h : Frame M s0 s)
    (hm : sub 0x4000000000000000000000000000000000000000000000000000000000c00 M = true) : Frame M s0 (writebackLine s x1 x2) := by
  unfold writebackLine
  repeat' first
    | exact sub_trans rfl hm
    | with_reducible assumption
    | with_reducible apply State.bump_frame
    | with_reducible apply hbmWrite_frame
    | exact has_SP_WRITEBACKS_COUNT rfl hm
    | (intro x; refine (?_ : Frame M s0 x → _) ?_; (intro hx; clear_value x))
    | (intro x; clear_value x)
    | intro _
    | split
    | lift_lets -underBinder

theorem keepClean_frame {M : Nat} {s0 s : State} {x1} (h : Frame M s0 s)
    (hm : sub 0x800 M = true) : Frame M s0 (keepClean s x1) := by
  unfold keepClean
  refine Frame.foldl (fun u n hu => ?_) h
  dsimp only
  split
  · rename_i x hx
    refine State.setLines_frame hu (fun _ k => ?_) (sub_trans rfl hm)
    have hl := k.set (spoolSet (n * 64))
    exact LinesOk.replace hl ((hl.line (findLine_mem hx).1).keep _ (memBytes_length _ _ _))
  · exact hu

theorem makeRoom_frame {M : Nat} {s0 s : State} {x1} (h : Frame M s0 s)
    (hm : sub 0x4000000000000000000000000000000000000000000000000000000000c00 M = true) : Frame M s0 (makeRoom s x1) := by
  unfold makeRoom
  dsimp only
  refine Frame.ite h ?_
  split
  · refine State.setLines_frame (writebackLine_frame h (sub_trans rfl hm)) (fun _ k => ?_)
      (sub_trans rfl hm)
    rw [writebackLine_spool] at k
    exact (k.set _).drop _
  · exact h

theorem effectiveHint_frame {M : Nat} {s0 s : State} {x1 x2 x3} (h : Frame M s0 s)
    (hm : sub 0x30000000000000000000000000000000000000000000000000000000000000 M = true) : Frame M s0 (effectiveHint s x1 x2 x3).2 := by
  unfold effectiveHint
  repeat' first
    | exact sub_trans rfl hm
    | with_reducible assumption
    | with_reducible apply State.bump_frame
    | with_reducible apply Frame.ite
    | exact has_KEEP_DENIED_COUNT rfl hm
    | exact has_LAST_ON_KEEP_COUNT rfl hm
    | (intro x; refine (?_ : Frame M s0 x → _) ?_; (intro hx; clear_value x))
    | (intro x; clear_value x)
    | intro _
    | split
    | lift_lets -underBinder
    | dsimp only

theorem effectiveHint_frame_eq {M : Nat} {s0 s : State} {x1 x2 x3} {a0 t} (e : effectiveHint s x1 x2 x3 = (a0, t)) (h : Frame M s0 s)
    (hm : sub 0x30000000000000000000000000000000000000000000000000000000000000 M = true) : Frame M s0 t := by
  have := effectiveHint_frame (x1 := x1) (x2 := x2) (x3 := x3) h hm
  rwa [e] at this

theorem bringSector_frame {M : Nat} {s0 s : State} {x1 x2} (h : Frame M s0 s)
    (hm : sub 0x7c00000000000000000000000000000000000000000000000000000000c00 M = true) : Frame M s0 (bringSector s x1 x2) := by
  unfold bringSector
  dsimp only
  split
  · rename_i x hx
    have h1 : ∀ (b : Bool) u, u = (if b = true then s.bump64 Reg.SP_HITS_LO Reg.SP_HITS_HI (spoolSet x1 / 16384)
        else s.bump64 Reg.SP_MISSES_LO Reg.SP_MISSES_HI (spoolSet x1 / 16384)) → Frame M s0 u ∧ u.mem = s.mem := by
      rintro b u rfl
      refine ⟨Frame.ite ?_ ?_, by split <;> rfl⟩
      · exact State.bump64_frame h (has_SP_HITS_LO rfl hm) (has_SP_HITS_HI rfl hm)
      · exact State.bump64_frame h (has_SP_MISSES_LO rfl hm) (has_SP_MISSES_HI rfl hm)
    obtain ⟨h2, h3⟩ := h1 (x.valid (x1 / 64 % 2)) _ rfl
    refine State.setLines_frame h2 (fun _ k => ?_) (sub_trans rfl hm)
    rw [h3] at k
    have hk : LinesOk (spoolSet x1) (s.lines (spoolSet x1)) := k.set _
    have e := State.lines_congr (congrArg Memory.spool h3) (spoolSet x1)
    rw [e]
    exact LinesOk.bring hk hx _
  · rename_i hx
    have h1 : Frame M s0 (s.bump64 Reg.SP_MISSES_LO Reg.SP_MISSES_HI (spoolSet x1 / 16384)) :=
      State.bump64_frame h (has_SP_MISSES_LO rfl hm) (has_SP_MISSES_HI rfl hm)
    refine State.setLines_frame (makeRoom_frame h1 (sub_trans rfl hm)) (fun _ k => ?_)
      (sub_trans rfl hm)
    have hk : LinesOk (spoolSet x1) ((makeRoom (s.bump64 Reg.SP_MISSES_LO Reg.SP_MISSES_HI (spoolSet x1 / 16384))
      (spoolSet x1)).lines (spoolSet x1)) := k.set _
    refine LinesOk.bringNew hk ?_ _ _ _
    rcases makeRoom_lines (s.bump64 Reg.SP_MISSES_LO Reg.SP_MISSES_HI (spoolSet x1 / 16384)) (spoolSet x1) with e | ⟨t, e⟩
    · rw [e]
      exact findLine_none hx
    · rw [e]
      exact dropLine_sub (findLine_none hx)

theorem dropLast_frame {M : Nat} {s0 s : State} {x1} (h : Frame M s0 s)
    (hm : sub 0x800814fbc040000000000000000000000000000000000000000000a010b80 M = true) : Frame M s0 (dropLast s x1) := by
  unfold dropLast
  dsimp only
  split
  · rename_i x hx
    have h1 := State.setLines_frame (set := spoolSet x1) (ls := dropLine (s.lines (spoolSet x1)) x.tag) h
      (fun _ k => (k.set _).drop _) (sub_trans rfl hm)
    exact Frame.ite (raise_frame (State.bump_frame h1 (has_LAST_DIRTY_DROPS_COUNT rfl hm)) (sub_trans rfl hm)) h1
  · exact h

theorem countSectors_frame {M : Nat} {s0 s : State} {x1} (h : Frame M s0 s)
    (hm : sub 0x3c00000000000000000000000000000000000000000000000000000000000 M = true) : Frame M s0 (countSectors s x1) := by
  unfold countSectors
  repeat' first
    | exact sub_trans rfl hm
    | with_reducible assumption
    | with_reducible apply State.bump64_frame
    | with_reducible apply Frame.ite
    | with_reducible refine Frame.foldl (fun u a hu => ?_) ?_
    | with_reducible refine Frame.foldl_on (get := Prod.fst) (fun u a hu => ?_) ?_
    | with_reducible refine Frame.foldl_on (get := Prod.snd) (fun u a hu => ?_) ?_
    | exact has_SP_HITS_HI rfl hm
    | exact has_SP_HITS_LO rfl hm
    | exact has_SP_MISSES_HI rfl hm
    | exact has_SP_MISSES_LO rfl hm
    | (intro x; refine (?_ : Frame M s0 x → _) ?_; (intro hx; clear_value x))
    | (intro x; clear_value x)
    | intro _
    | split
    | lift_lets -underBinder

theorem readSector_frame {M : Nat} {s0 s : State} {x1 x2} (h : Frame M s0 s)
    (hm : sub 0x37c00000000000000000000000000000000000000000000000000000000c00 M = true) : Frame M s0 (readSector s x1 x2).2 := by
  unfold readSector
  repeat' first
    | exact sub_trans rfl hm
    | with_reducible assumption
    | with_reducible apply State.bump64_frame
    | with_reducible apply effectiveHint_frame
    | with_reducible apply effectiveHint_frame_eq (by assumption)
    | with_reducible apply bringSector_frame
    | with_reducible apply Frame.ite
    | exact has_SP_MISSES_HI rfl hm
    | exact has_SP_MISSES_LO rfl hm
    | (intro x; refine (?_ : Frame M s0 x → _) ?_; (intro hx; clear_value x))
    | (intro x; clear_value x)
    | intro _
    | split
    | lift_lets -underBinder
    | dsimp only

theorem readSector_frame_eq {M : Nat} {s0 s : State} {x1 x2} {a0 t} (e : readSector s x1 x2 = (a0, t)) (h : Frame M s0 s)
    (hm : sub 0x37c00000000000000000000000000000000000000000000000000000000c00 M = true) : Frame M s0 t := by
  have := readSector_frame (x1 := x1) (x2 := x2) h hm
  rwa [e] at this

theorem writeSector_frame {M : Nat} {s0 s : State} {x1 x2 x3} (h : Frame M s0 s)
    (hm : sub 0x37c00000000000000000000000000000000000000000000000000000000c00 M = true) : Frame M s0 (writeSector s x1 x2 x3).2 := by
  unfold writeSector
  dsimp only
  split
  · exact h
  · rename_i hc
    generalize hh : (if x3 = 3 then 0 else x3) = hint
    have h1 := effectiveHint_frame (x1 := spoolSet (x1 / 64 * 64)) (x2 := x1 / 64 * 64 / 128) (x3 := hint) h
      (sub_trans rfl hm)
    have hd : (if x2.length = 64 then x2 else mergeBytes (memBytes s (x1 / 64 * 64) 64) (x1 % 64) x2).length = 64 := by
      split
      · assumption
      · exact mergeBytes_length (memBytes_length _ _ _) (by omega)
    split
    · exact hbmWrite_frame (State.bump64_frame h1 (has_SP_MISSES_LO rfl hm) (has_SP_MISSES_HI rfl hm))
        (sub_trans rfl hm)
    · have h2 := bringSector_frame (x1 := x1 / 64 * 64)
        (x2 := (effectiveHint s (spoolSet (x1 / 64 * 64)) (x1 / 64 * 64 / 128) hint).1) h1 (sub_trans rfl hm)
      split
      · rename_i x hx
        refine State.setLines_frame h2 (fun _ k => ?_) (sub_trans rfl hm)
        have hl := k.set (spoolSet (x1 / 64 * 64))
        exact LinesOk.replace hl ((hl.line (findLine_mem hx).1).setDirty _ (by simpa using hd))
      · exact h2

theorem writeSector_frame_eq {M : Nat} {s0 s : State} {x1 x2 x3} {a0 t} (e : writeSector s x1 x2 x3 = (a0, t)) (h : Frame M s0 s)
    (hm : sub 0x37c00000000000000000000000000000000000000000000000000000000c00 M = true) : Frame M s0 t := by
  have := writeSector_frame (x1 := x1) (x2 := x2) (x3 := x3) h hm
  rwa [e] at this

theorem readRange_frame {M : Nat} {s0 : State} {fuel : Nat} {s : State} {a len hint} (h : Frame M s0 s)
    (hm : sub 0x37c00000000000000000000000000000000000000000000000000000000c00 M = true) : Frame M s0 (readRange fuel s a len hint).2.2 := by
  induction fuel generalizing s a len with
  | zero => exact h
  | succ k ih =>
    unfold readRange
    split
    · exact h
    · have h1 : Frame M s0 (readSector s a hint).2 := readSector_frame h (sub_trans rfl hm)
      have h2 := ih (a := a + min len (64 - a % 64)) (len := len - min len (64 - a % 64)) h1
      dsimp only
      split <;> exact h2

theorem readRange_frame_eq {M : Nat} {s0 : State} {fuel : Nat} {s : State} {a len hint} {x y t}
    (e : readRange fuel s a len hint = (x, y, t)) (h : Frame M s0 s)
    (hm : sub 0x37c00000000000000000000000000000000000000000000000000000000c00 M = true) : Frame M s0 t := by
  have := readRange_frame (fuel := fuel) (a := a) (len := len) (hint := hint) h hm
  rwa [e] at this

theorem readLine_frame {M : Nat} {s0 s : State} {x1 x2} (h : Frame M s0 s)
    (hm : sub 0x3fc0814fbc040000000000000000000000000000000000000000000a010f80 M = true) : Frame M s0 (readLine s x1 x2).2.2 := by
  unfold readLine
  repeat' first
    | exact sub_trans rfl hm
    | with_reducible assumption
    | with_reducible apply effectiveHint_frame
    | with_reducible apply effectiveHint_frame_eq (by assumption)
    | with_reducible apply countSectors_frame
    | with_reducible apply dropLast_frame
    | with_reducible apply readRange_frame
    | with_reducible apply readRange_frame_eq (by assumption)
    | with_reducible apply Frame.ite
    | (intro x; refine (?_ : Frame M s0 x → _) ?_; (intro hx; clear_value x))
    | (intro x; clear_value x)
    | intro _
    | split
    | lift_lets -underBinder
    | dsimp only

theorem readLine_frame_eq {M : Nat} {s0 s : State} {x1 x2} {a0 a1 t} (e : readLine s x1 x2 = (a0, a1, t)) (h : Frame M s0 s)
    (hm : sub 0x3fc0814fbc040000000000000000000000000000000000000000000a010f80 M = true) : Frame M s0 t := by
  have := readLine_frame (x1 := x1) (x2 := x2) h hm
  rwa [e] at this

theorem readLines_frame {M : Nat} {s0 : State} {fuel : Nat} {s : State} {a len} (h : Frame M s0 s)
    (hm : sub 0x3fc0814fbc040000000000000000000000000000000000000000000a010f80 M = true) : Frame M s0 (readLines fuel s a len).2.2 := by
  induction fuel generalizing s a len with
  | zero => exact h
  | succ k ih =>
    unfold readLines
    split
    · exact h
    · exact ih (readLine_frame h (sub_trans rfl hm))

theorem readLines_frame_eq {M : Nat} {s0 : State} {fuel : Nat} {s : State} {a len} {x y t}
    (e : readLines fuel s a len = (x, y, t)) (h : Frame M s0 s) (hm : sub 0x3fc0814fbc040000000000000000000000000000000000000000000a010f80 M = true) : Frame M s0 t := by
  have := readLines_frame (fuel := fuel) (a := a) (len := len) h hm
  rwa [e] at this

theorem memRead_frame {M : Nat} {s0 s : State} {x1 x2 x3} (h : Frame M s0 s)
    (hm : sub 0x3fc0814fbc040000000000000000000000000000000000000000000a010f80 M = true) : Frame M s0 (memRead s x1 x2 x3).2.2 := by
  unfold memRead
  repeat' first
    | exact sub_trans rfl hm
    | with_reducible assumption
    | with_reducible apply readLines_frame
    | with_reducible apply readLines_frame_eq (by assumption)
    | with_reducible apply readRange_frame
    | with_reducible apply readRange_frame_eq (by assumption)
    | with_reducible apply Frame.ite
    | split
    | dsimp only

theorem memRead_frame_eq {M : Nat} {s0 s : State} {x1 x2 x3} {a0 a1 t} (e : memRead s x1 x2 x3 = (a0, a1, t)) (h : Frame M s0 s)
    (hm : sub 0x3fc0814fbc040000000000000000000000000000000000000000000a010f80 M = true) : Frame M s0 t := by
  have := memRead_frame (x1 := x1) (x2 := x2) (x3 := x3) h hm
  rwa [e] at this

theorem writeRange_frame {M : Nat} {s0 : State} {fuel : Nat} {s : State} {a bs hint} (h : Frame M s0 s)
    (hm : sub 0x37c00000000000000000000000000000000000000000000000000000000c00 M = true) : Frame M s0 (writeRange fuel s a bs hint).2 := by
  induction fuel generalizing s a bs with
  | zero => exact h
  | succ k ih =>
    unfold writeRange
    split
    · exact h
    · lift_lets
      intro n
      split
      rename_i ok s1 e
      have h1 : Frame M s0 s1 := writeSector_frame_eq e h hm
      have h2 := ih (a := a + min bs.length (64 - a % 64)) (bs := bs.drop (min bs.length (64 - a % 64))) h1
      split
      rename_i e2
      rw [e2] at h2
      split
      all_goals exact h2

theorem writeRange_frame_eq {M : Nat} {s0 : State} {fuel : Nat} {s : State} {a bs hint} {x t}
    (e : writeRange fuel s a bs hint = (x, t)) (h : Frame M s0 s) (hm : sub 0x37c00000000000000000000000000000000000000000000000000000000c00 M = true) :
    Frame M s0 t := by
  have := writeRange_frame (fuel := fuel) (a := a) (bs := bs) (hint := hint) h hm
  rwa [e] at this

theorem memWrite_frame {M : Nat} {s0 s : State} {x1 x2 x3} (h : Frame M s0 s)
    (hm : sub 0x37c00000000000000000000000000000000000000000000000000000000c00 M = true) : Frame M s0 (memWrite s x1 x2 x3).2 := by
  unfold memWrite
  repeat' first
    | exact sub_trans rfl hm
    | with_reducible assumption
    | with_reducible apply writeRange_frame
    | with_reducible apply writeRange_frame_eq (by assumption)
    | dsimp only

theorem memWrite_frame_eq {M : Nat} {s0 s : State} {x1 x2 x3} {a0 t} (e : memWrite s x1 x2 x3 = (a0, t)) (h : Frame M s0 s)
    (hm : sub 0x37c00000000000000000000000000000000000000000000000000000000c00 M = true) : Frame M s0 t := by
  have := memWrite_frame (x1 := x1) (x2 := x2) (x3 := x3) h hm
  rwa [e] at this

theorem unpinLines_frame {M : Nat} {s0 s : State} {x1} (h : Frame M s0 s)
    (hm : sub 0x800 M = true) : Frame M s0 (unpinLines s x1) := by
  unfold unpinLines
  exact Frame.with_mem h (sub_trans rfl hm) fun _ k => k.unpin

theorem State.setBucket_frame {M : Nat} {s0 s : State} {x1 x2 x3} (h : Frame M s0 s)
    (hm : sub 0x800 M = true) : Frame M s0 (State.setBucket s x1 x2 x3) := by
  unfold State.setBucket
  repeat' first
    | exact fun _ k => k
    | exact fun _ _ => SpoolOk.nil
    | exact sub_trans rfl hm
    | with_reducible assumption
    | with_reducible apply Frame.with_mem

theorem deduct_frame {M : Nat} {s0 s : State} {x1 x2 x3} (h : Frame M s0 s)
    (hm : sub 0x800 M = true) : Frame M s0 (deduct s x1 x2 x3) := by
  unfold deduct
  repeat' first
    | exact sub_trans rfl hm
    | with_reducible assumption
    | with_reducible apply State.setBucket_frame
    | with_reducible apply Frame.ite
    | (intro x; refine (?_ : Frame M s0 x → _) ?_; (intro hx; clear_value x))
    | (intro x; clear_value x)
    | intro _
    | split
    | lift_lets -underBinder

theorem countStalls_frame {M : Nat} {s0 s : State} {x1 x2 x3} (h : Frame M s0 s)
    (hm : sub 0x8000814fbc040000000000000000000000000000000000000000000a010380 M = true) : Frame M s0 (countStalls s x1 x2 x3) := by
  unfold countStalls
  repeat' first
    | exact sub_trans rfl hm
    | with_reducible assumption
    | with_reducible apply raise_frame
    | with_reducible apply State.bump_frame
    | with_reducible apply Frame.ite
    | exact has_REG_STALLS_STALLS rfl hm
    | split

theorem chargeStream_frame {M : Nat} {s0 s : State} {x1 x2 x3} (h : Frame M s0 s)
    (hm : sub 0x8000814fbc040000000000000000000000000000000000000000000a010b80 M = true) : Frame M s0 (chargeStream s x1 x2 x3) := by
  unfold chargeStream
  repeat' first
    | exact sub_trans rfl hm
    | with_reducible assumption
    | with_reducible apply State.setBucket_frame
    | with_reducible apply countStalls_frame
    | with_reducible apply Frame.ite
    | (intro x; refine (?_ : Frame M s0 x → _) ?_; (intro hx; clear_value x))
    | (intro x; clear_value x)
    | intro _
    | split
    | lift_lets -underBinder

theorem chargeRange_frame {M : Nat} {s0 s : State} {x1 x2 x3} (h : Frame M s0 s)
    (hm : sub 0x8000814fbc040000000000000000000000000000000000000000000a010b80 M = true) : Frame M s0 (chargeRange s x1 x2 x3) := by
  unfold chargeRange
  repeat' first
    | exact sub_trans rfl hm
    | with_reducible assumption
    | with_reducible apply chargeStream_frame
    | with_reducible refine Frame.foldl (fun u a hu => ?_) ?_
    | with_reducible refine Frame.foldl_on (get := Prod.fst) (fun u a hu => ?_) ?_
    | with_reducible refine Frame.foldl_on (get := Prod.snd) (fun u a hu => ?_) ?_
    | (intro x; refine (?_ : Frame M s0 x → _) ?_; (intro hx; clear_value x))
    | (intro x; clear_value x)
    | intro _
    | lift_lets -underBinder

end Sys2Proof.Machine
end

