-- ==== Sys2Proof/Laws/FrameHbmErrors.lean ====
section
/-! SUPPORT. Frame lemmas for the functions of Machine/HbmErrors.lean. -/

set_option Elab.async false
set_option linter.all false

namespace Sys2Proof.Machine

theorem showRepairs_frame {M : Nat} {s0 s : State} {x1} (h : Frame M s0 s)
    (hm : sub 0xc60000000000000000000000000000000000000000000000000000000000000000000000000000000000000000000000000000 M = true) : Frame M s0 (showRepairs s x1) := by
  unfold showRepairs
  repeat' first
    | exact sub_trans rfl hm
    | with_reducible assumption
    | with_reducible apply State.wr_frame
    | exact has_PAGES_RETIRED_COUNT rfl hm
    | exact has_RESERVE_FREE_COUNT rfl hm
    | exact has_SPARES_USED_COUNT rfl hm
    | exact has_SPARE_PERM_COUNT rfl hm
    | (intro x; refine (?_ : Frame M s0 x → _) ?_; (intro hx; clear_value x))
    | (intro x; clear_value x)
    | intro _
    | lift_lets -underBinder

theorem latchUe_frame {M : Nat} {s0 s : State} {x1} (h : Frame M s0 s)
    (hm : sub 0x4000ff800000000000000000000000000000000000000814fbc040000000000000000000000000000000000000000000a010380 M = true) : Frame M s0 (latchUe s x1) := by
  unfold latchUe
  repeat' first
    | exact sub_trans rfl hm
    | with_reducible assumption
    | with_reducible apply raise_frame
    | with_reducible apply State.bump_frame
    | with_reducible apply State.countUe_frame
    | with_reducible apply State.wr_frame
    | with_reducible apply Frame.ite
    | exact has_PC_REC_UE_UE rfl hm
    | exact has_UE_ADDR_HI_ADDR rfl hm
    | exact has_UE_ADDR_HI_VALID rfl hm
    | exact has_UE_ADDR_LO_ADDR rfl hm
    | exact has_UE_INFO_BANK rfl hm
    | exact has_UE_INFO_BG rfl hm
    | exact has_UE_INFO_PPC rfl hm
    | exact has_UE_INFO_ROW rfl hm
    | exact has_UE_INFO_SID rfl hm
    | exact has_UE_INFO_XFER rfl hm
    | (intro x; refine (?_ : Frame M s0 x → _) ?_; (intro hx; clear_value x))
    | (intro x; clear_value x)
    | intro _
    | split
    | lift_lets -underBinder

theorem zeroTransfers_frame {M : Nat} {s0 s : State} {x1 x2} (h : Frame M s0 s)
    (hm : sub 0xc00 M = true) : Frame M s0 (zeroTransfers s x1 x2) := by
  unfold zeroTransfers
  repeat' first
    | exact fun h => Table.wf_storeN h
    | exact fun _ => rfl
    | exact sub_trans rfl hm
    | with_reducible assumption
    | with_reducible apply keepClean_frame
    | with_reducible apply State.setStack_frame
    | with_reducible refine Frame.foldl (fun u a hu => ?_) ?_
    | with_reducible refine Frame.foldl_on (get := Prod.fst) (fun u a hu => ?_) ?_
    | with_reducible refine Frame.foldl_on (get := Prod.snd) (fun u a hu => ?_) ?_
    | (intro x; refine (?_ : Frame M s0 x → _) ?_; (intro hx; clear_value x))
    | (intro x; clear_value x)
    | intro _
    | lift_lets -underBinder
    | with_reducible apply Frame.with_hbm

theorem copyRow_frame {M : Nat} {s0 s : State} {x1 x2 x3} (h : Frame M s0 s)
    (hm : sub 0x4000ff800000000000000000000000000000000000000814fbc040000000000c000000000101c0000000000000000002a112f80 M = true) : Frame M s0 (copyRow s x1 x2 x3) := by
  unfold copyRow
  repeat' first
    | exact sub_trans rfl hm
    | with_reducible assumption
    | with_reducible apply zeroTransfers_frame
    | with_reducible apply stopForUe_frame
    | with_reducible apply latchUe_frame
    | with_reducible refine Frame.foldl (fun u a hu => ?_) ?_
    | with_reducible refine Frame.foldl_on (get := Prod.fst) (fun u a hu => ?_) ?_
    | with_reducible refine Frame.foldl_on (get := Prod.snd) (fun u a hu => ?_) ?_
    | (intro x; refine (?_ : Frame M s0 x → _) ?_; (intro hx; clear_value x))
    | (intro x; clear_value x)
    | intro _
    | split
    | lift_lets -underBinder

theorem sendRetire_frame {M : Nat} {s0 s : State} {x1 x2} (h : Frame M s0 s)
    (hm : sub 0x800 M = true) : Frame M s0 (sendRetire s x1 x2) := by
  unfold sendRetire
  repeat' first
    | exact sub_trans rfl hm
    | with_reducible assumption
    | with_reducible apply State.setStack_frame
    | with_reducible apply Frame.ite
    | split

theorem failNow_frame {M : Nat} {s0 s : State} {x1 x2 x3} (h : Frame M s0 s)
    (hm : sub 0x4c68ff800000000000000000000000000000000000000814fbc040000000000c000000000101c0000000000000000002a112f80 M = true) : Frame M s0 (failNow s x1 x2 x3) := by
  unfold failNow
  repeat' first
    | exact sub_trans rfl hm
    | with_reducible assumption
    | with_reducible apply copyRow_frame
    | with_reducible apply svcAppend_frame
    | with_reducible apply showRepairs_frame
    | with_reducible apply raise_frame
    | with_reducible apply absorbed_frame
    | with_reducible apply State.bump_frame
    | with_reducible apply State.setStack_frame
    | with_reducible apply sendRetire_frame
    | with_reducible apply Frame.ite
    | exact has_ROW_REMAPS_COUNT rfl hm
    | (intro x; refine (?_ : Frame M s0 x → _) ?_; (intro hx; clear_value x))
    | (intro x; clear_value x)
    | intro _
    | split
    | lift_lets -underBinder

theorem rowFails_frame {M : Nat} {s0 s : State} {x1 x2 x3} (h : Frame M s0 s)
    (hm : sub 0x4c68ff800000000000000000000000000000000000000814fbc040000000000c000000000101c0000000000000000002a112f80 M = true) : Frame M s0 (rowFails s x1 x2 x3) := by
  unfold rowFails
  repeat' first
    | exact sub_trans rfl hm
    | with_reducible assumption
    | with_reducible apply State.setStack_frame
    | with_reducible apply failNow_frame
    | with_reducible apply Frame.ite
    | (intro x; refine (?_ : Frame M s0 x → _) ?_; (intro hx; clear_value x))
    | (intro x; clear_value x)
    | intro _
    | split
    | lift_lets -underBinder

theorem handleQueued_frame {M : Nat} {s0 s : State} {x1} (h : Frame M s0 s)
    (hm : sub 0x4c68ff800000000000000000000000000000000000000814fbc040000000000c000000000101c0000000000000000002a112f80 M = true) : Frame M s0 (handleQueued s x1) := by
  unfold handleQueued
  repeat' first
    | exact sub_trans rfl hm
    | with_reducible assumption
    | with_reducible apply failNow_frame
    | with_reducible apply State.setStack_frame
    | with_reducible refine Frame.foldl (fun u a hu => ?_) ?_
    | with_reducible refine Frame.foldl_on (get := Prod.fst) (fun u a hu => ?_) ?_
    | with_reducible refine Frame.foldl_on (get := Prod.snd) (fun u a hu => ?_) ?_
    | (intro x; refine (?_ : Frame M s0 x → _) ?_; (intro hx; clear_value x))
    | (intro x; clear_value x)
    | intro _
    | lift_lets -underBinder

theorem trackRow_frame {M : Nat} {s0 s : State} {x1 x2} (h : Frame M s0 s)
    (hm : sub 0x80000000000000000000000000000000000000000000000000000000000000000000000000000000000000000000000000800 M = true) : Frame M s0 (trackRow s x1 x2).2 := by
  unfold trackRow
  repeat' first
    | exact sub_trans rfl hm
    | with_reducible assumption
    | with_reducible apply State.setStack_frame
    | with_reducible apply State.bump_frame
    | with_reducible apply Frame.ite
    | exact has_TRACKER_EVICT_COUNT rfl hm
    | (intro x; refine (?_ : Frame M s0 x → _) ?_; (intro hx; clear_value x))
    | (intro x; clear_value x)
    | intro _
    | split
    | lift_lets -underBinder
    | dsimp only

theorem trackRow_frame_eq {M : Nat} {s0 s : State} {x1 x2} {a0 t} (e : trackRow s x1 x2 = (a0, t)) (h : Frame M s0 s)
    (hm : sub 0x80000000000000000000000000000000000000000000000000000000000000000000000000000000000000000000000000800 M = true) : Frame M s0 t := by
  have := trackRow_frame (x1 := x1) (x2 := x2) h hm
  rwa [e] at this

theorem unscheduledRetrain_frame {M : Nat} {s0 s : State} {x1 x2} (h : Frame M s0 s)
    (hm : sub 0x4810000000000000000000000000000000000000000000814fbc040000000000000000000000100000000000000000000a010380 M = true) : Frame M s0 (unscheduledRetrain s x1 x2) := by
  unfold unscheduledRetrain
  repeat' first
    | exact sub_trans rfl hm
    | with_reducible assumption
    | with_reducible apply State.bump_frame
    | with_reducible apply State.wr_frame
    | with_reducible apply raise_frame
    | with_reducible apply absorbed_frame
    | with_reducible apply Frame.ite
    | exact has_PC_REC_RT_RETRAINS rfl hm
    | exact has_PC_REC_ST_STATE rfl hm
    | exact has_UNSCHED_RETRAINS_COUNT rfl hm
    | (intro x; refine (?_ : Frame M s0 x → _) ?_; (intro hx; clear_value x))
    | (intro x; clear_value x)
    | intro _
    | split
    | lift_lets -underBinder

theorem countChannelCe_frame {M : Nat} {s0 s : State} {x1 x2} (h : Frame M s0 s)
    (hm : sub 0x4810000000000000000000000000000000000000000000814fbc040000000000000000000000100000000000000000000a010b80 M = true) : Frame M s0 (countChannelCe s x1 x2) := by
  unfold countChannelCe
  repeat' first
    | exact sub_trans rfl hm
    | with_reducible assumption
    | with_reducible apply unscheduledRetrain_frame
    | with_reducible apply State.setStack_frame
    | with_reducible apply Frame.ite
    | (intro x; refine (?_ : Frame M s0 x → _) ?_; (intro hx; clear_value x))
    | (intro x; clear_value x)
    | intro _
    | split
    | lift_lets -underBinder

theorem parityErrors_frame {M : Nat} {s0 s : State} {x1 x2 x3} (h : Frame M s0 s)
    (hm : sub 0x4810000000000000000000000000000000000000000000814fbc040000000000000000000000100000000000000000000a010b80 M = true) : Frame M s0 (parityErrors s x1 x2 x3) := by
  unfold parityErrors
  repeat' first
    | exact sub_trans rfl hm
    | with_reducible assumption
    | with_reducible apply countChannelCe_frame
    | with_reducible apply unscheduledRetrain_frame
    | with_reducible apply Frame.ite
    | split

theorem rekeyStack_frame {M : Nat} {s0 s : State} {x1 x2 x3} (h : Frame M s0 s)
    (hm : sub 0xc00 M = true) : Frame M s0 (rekeyStack s x1 x2 x3) := by
  unfold rekeyStack
  have h0 : Frame M s0 (keepClean s (cleanSectors s x1 fun l => x2 l != x3 l)) := keepClean_frame h (sub_trans rfl hm)
  generalize keepClean s (cleanSectors s x1 fun l => x2 l != x3 l) = u at h0
  dsimp only
  exact Frame.with_hbm (State.setStack_frame h0 (sub_trans rfl hm)) (sub_trans rfl hm) (fun c => Table.wf_foldl_store (Table.wf_filter c))

theorem startMigration_frame {M : Nat} {s0 s : State} {x1 x2} (h : Frame M s0 s)
    (hm : sub 0x1800000340000000000000000000000000000000000000814fbc040000000000000000000000100000000000000000000a010b80 M = true) : Frame M s0 (startMigration s x1 x2) := by
  unfold startMigration
  repeat' first
    | exact sub_trans rfl hm
    | with_reducible assumption
    | with_reducible apply State.setStack_frame
    | with_reducible apply State.wr_frame
    | with_reducible apply raise_frame
    | with_reducible apply absorbed_frame
    | exact has_MIG_STAT_ACTIVE rfl hm
    | exact has_MIG_STAT_COPIED rfl hm
    | exact has_MIG_STAT_SRC rfl hm
    | exact has_PC_REC_ST_LOGICAL rfl hm
    | exact has_PC_REC_ST_STATE rfl hm
    | (intro x; refine (?_ : Frame M s0 x → _) ?_; (intro hx; clear_value x))
    | (intro x; clear_value x)
    | intro _
    | lift_lets -underBinder

theorem switchMigration_frame {M : Nat} {s0 s : State} {x1 x2} (h : Frame M s0 s)
    (hm : sub 0x18000004c0000000000000000000000000000000000000814fbc040000000000c00000000000000000000000000000000a110b80 M = true) : Frame M s0 (switchMigration s x1 x2) := by
  unfold switchMigration
  repeat' first
    | exact sub_trans rfl hm
    | with_reducible assumption
    | with_reducible apply State.setStack_frame
    | with_reducible apply State.wr_frame
    | with_reducible apply svcAppend_frame
    | with_reducible apply raise_frame
    | exact has_MIG_STAT_ACTIVE rfl hm
    | exact has_MIG_STAT_BALLAST_USED rfl hm
    | exact has_PC_MAP_PHYS rfl hm
    | exact has_PC_REC_ST_LOGICAL rfl hm
    | exact has_PC_REC_ST_STATE rfl hm
    | (intro x; refine (?_ : Frame M s0 x → _) ?_; (intro hx; clear_value x))
    | (intro x; clear_value x)
    | intro _
    | lift_lets -underBinder

theorem abandonMigration_frame {M : Nat} {s0 s : State} {x1} (h : Frame M s0 s)
    (hm : sub 0x8000000400000000000000000000000000000000000000000000000000000000000000000000000000000000000000000000800 M = true) : Frame M s0 (abandonMigration s x1) := by
  unfold abandonMigration
  repeat' first
    | exact sub_trans rfl hm
    | with_reducible assumption
    | with_reducible apply State.wr_frame
    | with_reducible apply State.setStack_frame
    | with_reducible apply Frame.ite
    | exact has_MIG_STAT_ACTIVE rfl hm
    | exact has_PC_REC_ST_STATE rfl hm
    | (intro x; refine (?_ : Frame M s0 x → _) ?_; (intro hx; clear_value x))
    | (intro x; clear_value x)
    | intro _
    | split
    | lift_lets -underBinder

theorem channelDies_frame {M : Nat} {s0 s : State} {x1 x2} (h : Frame M s0 s)
    (hm : sub 0x18000004c0000000000000000000000000000000000000814fbc040000000000c00000000010590100000000000000002a112f80 M = true) : Frame M s0 (channelDies s x1 x2) := by
  unfold channelDies
  repeat' first
    | exact sub_trans rfl hm
    | with_reducible assumption
    | with_reducible apply stopStep_frame
    | with_reducible apply raise_frame
    | with_reducible apply State.wr_frame
    | with_reducible apply abandonMigration_frame
    | with_reducible apply rekeyStack_frame
    | with_reducible apply rungRecorded_frame
    | with_reducible apply svcAppend_frame
    | with_reducible apply handOver_frame
    | with_reducible apply Frame.ite
    | exact has_MIG_STAT_BALLAST_USED rfl hm
    | exact has_PC_MAP_PHYS rfl hm
    | exact has_PC_REC_ST_LOGICAL rfl hm
    | exact has_PC_REC_ST_STATE rfl hm
    | (intro x; refine (?_ : Frame M s0 x → _) ?_; (intro hx; clear_value x))
    | (intro x; clear_value x)
    | intro _
    | split
    | lift_lets -underBinder
    | with_reducible apply Frame.with_recov

theorem correctedRow_frame {M : Nat} {s0 s : State} {x1 x2 x3} (h : Frame M s0 s)
    (hm : sub 0x4cde8ff800000000000000000000000000000000000000814fbc040000000000c000000000101c0000000000000000002a112f80 M = true) : Frame M s0 (correctedRow s x1 x2 x3) := by
  unfold correctedRow
  repeat' first
    | exact sub_trans rfl hm
    | with_reducible assumption
    | with_reducible apply trackRow_frame
    | with_reducible apply trackRow_frame_eq (by assumption)
    | with_reducible apply rowFails_frame
    | with_reducible apply State.setStack_frame
    | with_reducible apply countChannelCe_frame
    | with_reducible apply rung_frame
    | with_reducible apply Frame.ite
    | (intro x; refine (?_ : Frame M s0 x → _) ?_; (intro hx; clear_value x))
    | (intro x; clear_value x)
    | intro _
    | split
    | lift_lets -underBinder

theorem countSymbols_frame {M : Nat} {s0 s : State} {x1 x2 x3} (h : Frame M s0 s)
    (hm : sub 0x2200200000000000000000000000000000000000000000814fbc040000000000000000000000000000000000000000000a010380 M = true) : Frame M s0 (countSymbols s x1 x2 x3) := by
  unfold countSymbols
  repeat' first
    | exact sub_trans rfl hm
    | with_reducible assumption
    | with_reducible apply raise_frame
    | with_reducible apply State.bump_frame
    | with_reducible apply State.countCe_frame
    | exact has_PC_REC_CE_CE rfl hm
    | exact has_PC_REC_ST_INTERVAL_CE rfl hm
    | exact has_SYM_CE_COUNT rfl hm
    | (intro x; refine (?_ : Frame M s0 x → _) ?_; (intro hx; clear_value x))
    | (intro x; clear_value x)
    | intro _
    | lift_lets -underBinder

theorem correctedRead_frame {M : Nat} {s0 s : State} {x1 x2} (h : Frame M s0 s)
    (hm : sub 0x6edeaff800000000000000000000000000000000000000814fbc040000000000c000000000101c0000000000000000002a112f80 M = true) : Frame M s0 (correctedRead s x1 x2) := by
  unfold correctedRead
  repeat' first
    | exact sub_trans rfl hm
    | with_reducible assumption
    | with_reducible apply correctedRow_frame
    | with_reducible apply countSymbols_frame
    | (intro x; refine (?_ : Frame M s0 x → _) ?_; (intro hx; clear_value x))
    | (intro x; clear_value x)
    | intro _
    | lift_lets -underBinder

theorem markBad_frame {M : Nat} {s0 s : State} {x1 x2} (h : Frame M s0 s)
    (hm : sub 0x800 M = true) : Frame M s0 (markBad s x1 x2) := by
  unfold markBad
  repeat' first
    | exact sub_trans rfl hm
    | with_reducible assumption
    | with_reducible apply State.setStack_frame
    | with_reducible apply Frame.ite
    | (intro x; refine (?_ : Frame M s0 x → _) ?_; (intro hx; clear_value x))
    | (intro x; clear_value x)
    | intro _
    | split
    | lift_lets -underBinder

theorem uncorrectableRead_frame {M : Nat} {s0 s : State} {x1} (h : Frame M s0 s)
    (hm : sub 0x4c68ff800000000000000000000000000000000000000814fbc040000000000c000000000101c0000000000000000002a112f80 M = true) : Frame M s0 (uncorrectableRead s x1) := by
  unfold uncorrectableRead
  repeat' first
    | exact sub_trans rfl hm
    | with_reducible assumption
    | with_reducible apply latchUe_frame
    | with_reducible apply rowFails_frame
    | with_reducible apply markBad_frame
    | (intro x; refine (?_ : Frame M s0 x → _) ?_; (intro hx; clear_value x))
    | (intro x; clear_value x)
    | intro _
    | lift_lets -underBinder

theorem failedMerge_frame {M : Nat} {s0 s : State} {x1} (h : Frame M s0 s)
    (hm : sub 0x4000ff800000000000000000000000000000000000000814fbc040000000000000000000000000000000000000000000a010b80 M = true) : Frame M s0 (failedMerge s x1) := by
  unfold failedMerge
  repeat' first
    | exact sub_trans rfl hm
    | with_reducible assumption
    | with_reducible apply markBad_frame
    | with_reducible apply latchUe_frame

theorem consumerLoses_frame {M : Nat} {s0 s : State} {x1 x2} (h : Frame M s0 s)
    (hm : sub 0x1d0008320000814fbc040000000000c000000000101c0000000000000000002a132380 M = true) : Frame M s0 (consumerLoses s x1 x2) := by
  unfold consumerLoses
  repeat' first
    | exact sub_trans rfl hm
    | with_reducible assumption
    | with_reducible apply winchFault_frame
    | with_reducible apply noteUe_frame
    | with_reducible apply burnerFault_frame
    | with_reducible apply stopForUe_frame
    | with_reducible apply Frame.ite
    | split
    | with_reducible apply Frame.with_recov

theorem losesData_frame {M : Nat} {s0 s : State} {x1 x2} (h : Frame M s0 s)
    (hm : sub 0x1d0008320000814fbc040000000000c000000000101c0000000000000000002a132380 M = true) : Frame M s0 (losesData s x1 x2) := by
  unfold losesData
  repeat' first
    | exact sub_trans rfl hm
    | with_reducible assumption
    | with_reducible apply consumerLoses_frame
    | with_reducible apply noteUe_frame
    | with_reducible apply Frame.ite
    | with_reducible refine Frame.foldl (fun u a hu => ?_) ?_
    | with_reducible refine Frame.foldl_on (get := Prod.fst) (fun u a hu => ?_) ?_
    | with_reducible refine Frame.foldl_on (get := Prod.snd) (fun u a hu => ?_) ?_
    | (intro x; refine (?_ : Frame M s0 x → _) ?_; (intro hx; clear_value x))
    | (intro x; clear_value x)
    | intro _
    | split
    | lift_lets -underBinder
    | with_reducible apply Frame.with_recov

theorem readFor_frame {M : Nat} {s0 s : State} {x1 x2 x3 x4} (h : Frame M s0 s)
    (hm : sub 0x4c68ff8000000000000000000000000001d0008323fc0814fbc040000000000c000000000101c0000000000000000002a132f80 M = true) : Frame M s0 (readFor s x1 x2 x3 x4).2 := by
  unfold readFor
  repeat' first
    | exact sub_trans rfl hm
    | with_reducible assumption
    | with_reducible apply memRead_frame
    | with_reducible apply memRead_frame_eq (by assumption)
    | with_reducible apply losesData_frame
    | with_reducible apply uncorrectableRead_frame
    | with_reducible apply Frame.ite
    | with_reducible refine Frame.foldl (fun u a hu => ?_) ?_
    | with_reducible refine Frame.foldl_on (get := Prod.fst) (fun u a hu => ?_) ?_
    | with_reducible refine Frame.foldl_on (get := Prod.snd) (fun u a hu => ?_) ?_
    | (intro x; refine (?_ : Frame M s0 x → _) ?_; (intro hx; clear_value x))
    | (intro x; clear_value x)
    | intro _
    | split
    | lift_lets -underBinder
    | dsimp only

theorem readFor_frame_eq {M : Nat} {s0 s : State} {x1 x2 x3 x4} {a0 t} (e : readFor s x1 x2 x3 x4 = (a0, t)) (h : Frame M s0 s)
    (hm : sub 0x4c68ff8000000000000000000000000001d0008323fc0814fbc040000000000c000000000101c0000000000000000002a132f80 M = true) : Frame M s0 t := by
  have := readFor_frame (x1 := x1) (x2 := x2) (x3 := x3) (x4 := x4) h hm
  rwa [e] at this

theorem writeFor_frame {M : Nat} {s0 s : State} {x1 x2 x3 x4} (h : Frame M s0 s)
    (hm : sub 0x4000ff8000000000000000000000000001d00083237c0814fbc040000000000c000000000101c0000000000000000002a132f80 M = true) : Frame M s0 (writeFor s x1 x2 x3 x4).2 := by
  unfold writeFor
  repeat' first
    | exact sub_trans rfl hm
    | with_reducible assumption
    | with_reducible apply memWrite_frame
    | with_reducible apply memWrite_frame_eq (by assumption)
    | with_reducible apply losesData_frame
    | with_reducible apply failedMerge_frame
    | with_reducible refine Frame.foldl (fun u a hu => ?_) ?_
    | with_reducible refine Frame.foldl_on (get := Prod.fst) (fun u a hu => ?_) ?_
    | with_reducible refine Frame.foldl_on (get := Prod.snd) (fun u a hu => ?_) ?_
    | (intro x; refine (?_ : Frame M s0 x → _) ?_; (intro hx; clear_value x))
    | (intro x; clear_value x)
    | intro _
    | split
    | lift_lets -underBinder
    | dsimp only

theorem writeFor_frame_eq {M : Nat} {s0 s : State} {x1 x2 x3 x4} {a0 t} (e : writeFor s x1 x2 x3 x4 = (a0, t)) (h : Frame M s0 s)
    (hm : sub 0x4000ff8000000000000000000000000001d00083237c0814fbc040000000000c000000000101c0000000000000000002a132f80 M = true) : Frame M s0 t := by
  have := writeFor_frame (x1 := x1) (x2 := x2) (x3 := x3) (x4 := x4) h hm
  rwa [e] at this

theorem storeFor_frame {M : Nat} {s0 s : State} {x1 x2 x3 x4} (h : Frame M s0 s)
    (hm : sub 0x4000ff8000000000000000000000000001d00083237c0814fbc040000000000c000000000101c0000000000000000002a132f80 M = true) : Frame M s0 (storeFor s x1 x2 x3 x4) := by
  unfold storeFor
  repeat' first
    | exact sub_trans rfl hm
    | with_reducible assumption
    | with_reducible apply writeFor_frame
    | with_reducible apply writeFor_frame_eq (by assumption)

theorem transferReturns_frame {M : Nat} {s0 s : State} {x1 x2 x3} (h : Frame M s0 s)
    (hm : sub 0x6edeeff8000000000000000000000000001d0008320000814fbc040000000000c000000000101c0000000000000000002a132f80 M = true) : Frame M s0 (transferReturns s x1 x2 x3) := by
  unfold transferReturns
  repeat' first
    | exact sub_trans rfl hm
    | with_reducible assumption
    | with_reducible apply correctedRead_frame
    | with_reducible apply State.bump_frame
    | with_reducible apply consumerLoses_frame
    | with_reducible apply uncorrectableRead_frame
    | with_reducible apply Frame.ite
    | exact has_RETRY_OK_COUNT rfl hm
    | (intro x; refine (?_ : Frame M s0 x → _) ?_; (intro hx; clear_value x))
    | (intro x; clear_value x)
    | intro _
    | split
    | lift_lets -underBinder

end Sys2Proof.Machine
end

