-- ==== Sys2Proof/Laws/FrameMemorySystem.lean ====
section
/-! SUPPORT. Frame lemmas for the functions of Machine/MemorySystem.lean. -/

set_option Elab.async false
set_option linter.all false

namespace Sys2Proof.Machine

theorem dirtySectorUe_frame {M : Nat} {s0 s : State} {x1} (h : Frame M s0 s)
    (hm : sub 0x3800000000000000000000000000000000000000814fbc040000000000c000000000101c0000000000000000002a112380 M = true) : Frame M s0 (dirtySectorUe s x1) := by
  unfold dirtySectorUe
  repeat' first
    | exact sub_trans rfl hm
    | with_reducible assumption
    | with_reducible apply raise_frame
    | with_reducible apply State.countUe_frame
    | with_reducible apply State.wr_frame
    | with_reducible apply stopForUe_frame
    | with_reducible apply Frame.ite
    | exact has_UE_ADDR_HI_ADDR rfl hm
    | exact has_UE_ADDR_HI_VALID rfl hm
    | exact has_UE_ADDR_LO_ADDR rfl hm
    | (intro x; refine (?_ : Frame M s0 x → _) ?_; (intro hx; clear_value x))
    | (intro x; clear_value x)
    | intro _
    | split
    | lift_lets -underBinder

theorem sramError_frame {M : Nat} {s0 s : State} {x1 x2} (h : Frame M s0 s)
    (hm : sub 0x3800000000000000000000000000000000004000814fbc040000000000c000000000101c0000000000000000002a112b80 M = true) : Frame M s0 (sramError s x1 x2).2 := by
  unfold sramError
  dsimp only
  split
  · exact h
  · rename_i x hx
    have hc : ∀ e : Nat × Nat, Frame M s0 { s with mem := { s.mem with wayErrs := s.mem.wayErrs.put (wayKey (spoolSet x1) x.way) e } } :=
      fun e => Frame.with_mem h (sub_trans rfl hm) fun _ k => k
    split
    · exact absorbed_frame (State.countCe_frame (hc _) (sub_trans rfl hm)) (sub_trans rfl hm)
    · split
      · exact dirtySectorUe_frame (hc _) (sub_trans rfl hm)
      · refine State.bump_frame (State.setLines_frame (hc _) (fun _ k => ?_) (sub_trans rfl hm))
          (has_SP_REFETCH_COUNT rfl hm)
        have hl : LinesOk (spoolSet x1) (s.lines (spoolSet x1)) := SpoolOk.set k _
        refine hl.replace ?_
        exact (hl.line (findLine_mem hx).1).invalidate _

theorem sramError_frame_eq {M : Nat} {s0 s : State} {x1 x2} {a0 t} (e : sramError s x1 x2 = (a0, t)) (h : Frame M s0 s)
    (hm : sub 0x3800000000000000000000000000000000004000814fbc040000000000c000000000101c0000000000000000002a112b80 M = true) : Frame M s0 t := by
  have := sramError_frame (x1 := x1) (x2 := x2) h hm
  rwa [e] at this

theorem parityAt_frame {M : Nat} {s0 s : State} {x1 x2} (h : Frame M s0 s)
    (hm : sub 0x4810000000000000000000000000000000000000000000814fbc040000000000000000000000100000000000000000000a010b80 M = true) : Frame M s0 (parityAt s x1 x2) := by
  unfold parityAt
  repeat' first
    | exact sub_trans rfl hm
    | with_reducible assumption
    | with_reducible apply parityErrors_frame
    | (intro x; refine (?_ : Frame M s0 x → _) ?_; (intro hx; clear_value x))
    | (intro x; clear_value x)
    | intro _
    | lift_lets -underBinder

theorem serveAccess_frame {M : Nat} {s0 s : State} {x1} (h : Frame M s0 s)
    (hm : sub 0x4cd68ff8000000000000000000000000001d0008327fc0814fbc040000000000c000000000101c0000000000000000002a132f80 M = true) : Frame M s0 (serveAccess s x1) := by
  unfold serveAccess
  repeat' first
    | exact sub_trans rfl hm
    | with_reducible assumption
    | with_reducible apply parityAt_frame
    | with_reducible apply sramError_frame
    | with_reducible apply sramError_frame_eq (by assumption)
    | with_reducible apply storeFor_frame
    | with_reducible apply readFor_frame
    | with_reducible apply readFor_frame_eq (by assumption)
    | with_reducible apply State.emit_frame
    | with_reducible apply Frame.ite
    | (intro x; refine (?_ : Frame M s0 x → _) ?_; (intro hx; clear_value x))
    | (intro x; clear_value x)
    | intro _
    | split
    | lift_lets -underBinder

theorem regulateAccess_frame {M : Nat} {s0 s : State} {x1} (h : Frame M s0 s)
    (hm : sub 0x4cd68ff8000000000000000000000000001d0008327fc0814fbc040000000000c000000000101c0000000000000000002a132f80 M = true) : Frame M s0 (regulateAccess s x1) := by
  unfold regulateAccess
  dsimp only
  repeat' first
    | exact fun _ k => k
    | exact fun _ _ => SpoolOk.nil
    | exact sub_trans rfl hm
    | with_reducible assumption
    | with_reducible apply serveAccess_frame
    | with_reducible apply deduct_frame
    | with_reducible simp only []
    | with_reducible apply Frame.ite
    | (intro x; refine (?_ : Frame M s0 x → _) ?_; (intro hx; clear_value x))
    | (intro x; clear_value x)
    | intro _
    | split
    | lift_lets -underBinder
    | with_reducible apply Frame.with_mem

theorem acceptAccess_frame {M : Nat} {s0 s : State} {x1} (h : Frame M s0 s)
    (hm : sub 0x4cd68ff8000000000000000000000000001d0008327fc0814fbc040000000000c000000000101c0000000000000000002a132f80 M = true) : Frame M s0 (acceptAccess s x1) := by
  unfold acceptAccess
  repeat' first
    | exact fun _ k => k
    | exact fun _ _ => SpoolOk.nil
    | exact sub_trans rfl hm
    | with_reducible assumption
    | with_reducible apply regulateAccess_frame
    | split
    | with_reducible apply Frame.with_mem

theorem execSpoolAccess_frame {M : Nat} {s0 s : State} {x0} (h : Frame M s0 s)
    (hm : sub 0x4cd68ff8000000000000000000000000001d0008327fc0814fbc040000000000c000000000101c0000000000000000002a132f80 M = true) : FrameR M s0 (execSpoolAccess x0 s) := by
  unfold execSpoolAccess
  repeat' first
    | exact sub_trans rfl hm
    | with_reducible assumption
    | with_reducible apply FrameR.of_next
    | with_reducible apply FrameR.whenOk
    | with_reducible apply acceptAccess_frame

theorem admitHead_frame {M : Nat} {s0 s : State} {x1 x2} (h : Frame M s0 s)
    (hm : sub 0x4cd68ff8000000000000000000000000001d000832ffc0814fbc040000000000c000000000101c0000000000000000002a132f80 M = true) : Frame M s0 (admitHead s x1 x2) := by
  unfold admitHead
  dsimp only
  repeat' first
    | exact fun _ k => k
    | exact fun _ _ => SpoolOk.nil
    | exact sub_trans rfl hm
    | with_reducible assumption
    | with_reducible apply countStalls_frame
    | with_reducible apply serveAccess_frame
    | with_reducible apply deduct_frame
    | with_reducible simp only []
    | (intro x; refine (?_ : Frame M s0 x → _) ?_; (intro hx; clear_value x))
    | (intro x; clear_value x)
    | intro _
    | split
    | lift_lets -underBinder
    | with_reducible apply Frame.with_mem

theorem execRegAdmit_frame {M : Nat} {s0 s : State} {x0 x1} (h : Frame M s0 s)
    (hm : sub 0x4cd68ff8000000000000000000000000001d000832ffc0814fbc040000000000c000000000101c0000000000000000002a132f80 M = true) : FrameR M s0 (execRegAdmit x0 x1 s) := by
  unfold execRegAdmit
  repeat' first
    | exact sub_trans rfl hm
    | with_reducible assumption
    | with_reducible apply FrameR.of_next
    | with_reducible apply FrameR.whenOk
    | with_reducible apply admitHead_frame

theorem execHbmRead_frame {M : Nat} {s0 s : State} {x0 x1 x2 x3} (h : Frame M s0 s)
    (hm : sub 0x6edeeff8000000000000000000000000001d0008320000814fbc040000000000c000000000101c0000000000000000002a132f80 M = true) : FrameR M s0 (execHbmRead x0 x1 x2 x3 s) := by
  unfold execHbmRead
  repeat' first
    | exact sub_trans rfl hm
    | with_reducible assumption
    | with_reducible apply FrameR.of_next
    | with_reducible apply FrameR.whenOk
    | with_reducible apply transferReturns_frame
    | with_reducible apply parityAt_frame

theorem execUnpinAll_frame {M : Nat} {s0 s : State} {x0} (h : Frame M s0 s)
    (hm : sub 0x800 M = true) : FrameR M s0 (execUnpinAll x0 s) := by
  unfold execUnpinAll
  repeat' first
    | exact sub_trans rfl hm
    | with_reducible assumption
    | with_reducible apply FrameR.of_next
    | with_reducible apply FrameR.whenOk
    | with_reducible apply unpinLines_frame
    | (intro x; refine (?_ : Frame M s0 x → _) ?_; (intro hx; clear_value x))
    | (intro x; clear_value x)
    | intro _
    | lift_lets -underBinder

theorem clearUe_frame {M : Nat} {s0 s : State} {x1} (h : Frame M s0 s)
    (hm : sub 0xff8000000000000000000000000000000000000000000000000000000000000000000000000000000000000000000000000 M = true) : Frame M s0 (clearUe s x1) := by
  unfold clearUe
  repeat' first
    | exact sub_trans rfl hm
    | with_reducible assumption
    | with_reducible apply State.wr_frame
    | exact has_UE_ADDR_HI_ADDR rfl hm
    | exact has_UE_ADDR_HI_VALID rfl hm
    | exact has_UE_ADDR_LO_ADDR rfl hm
    | exact has_UE_INFO_BANK rfl hm
    | exact has_UE_INFO_BG rfl hm
    | exact has_UE_INFO_PPC rfl hm
    | exact has_UE_INFO_ROW rfl hm
    | exact has_UE_INFO_SID rfl hm
    | exact has_UE_INFO_XFER rfl hm
    | (intro x; refine (?_ : Frame M s0 x → _) ?_; (intro hx; clear_value x))
    | (intro x; clear_value x)
    | intro _
    | lift_lets -underBinder

theorem execUeClr_frame {M : Nat} {s0 s : State} {x0 x1} (h : Frame M s0 s)
    (hm : sub 0xff8000000000000000000000000000000000000000000000000000000000000000000000000000000000000000000000000 M = true) : FrameR M s0 (execUeClr x0 x1 s) := by
  unfold execUeClr
  repeat' first
    | exact sub_trans rfl hm
    | with_reducible assumption
    | with_reducible apply FrameR.of_next
    | with_reducible apply FrameR.whenOk
    | with_reducible apply FrameR.ite
    | with_reducible apply clearUe_frame
    | with_reducible apply Frame.ite
    | split

theorem retrainEnds_frame {M : Nat} {s0 s : State} {x1 x2 x3} (h : Frame M s0 s)
    (hm : sub 0x58000004c0000000000000000000000000000000000000814fbc040000000000c00000000010590100000000000000002a112f80 M = true) : Frame M s0 (retrainEnds s x1 x2 x3) := by
  unfold retrainEnds
  repeat' first
    | exact sub_trans rfl hm
    | with_reducible assumption
    | with_reducible apply State.wr_frame
    | with_reducible apply State.setStack_frame
    | with_reducible apply channelDies_frame
    | with_reducible apply State.bump_frame
    | with_reducible apply Frame.ite
    | exact has_PC_REC_RT_RETRAINS rfl hm
    | exact has_PC_REC_ST_STATE rfl hm
    | (intro x; refine (?_ : Frame M s0 x → _) ?_; (intro hx; clear_value x))
    | (intro x; clear_value x)
    | intro _
    | split
    | lift_lets -underBinder

theorem execRetrainDone_frame {M : Nat} {s0 s : State} {x0 x1 x2} (h : Frame M s0 s)
    (hm : sub 0x58000004c0000000000000000000000000000000000000814fbc040000000000c00000000010590100000000000000002a112f80 M = true) : FrameR M s0 (execRetrainDone x0 x1 x2 s) := by
  unfold execRetrainDone
  repeat' first
    | exact sub_trans rfl hm
    | with_reducible assumption
    | with_reducible apply FrameR.of_next
    | with_reducible apply FrameR.whenOk
    | with_reducible apply retrainEnds_frame

theorem execPcDead_frame {M : Nat} {s0 s : State} {x0 x1} (h : Frame M s0 s)
    (hm : sub 0x18000004c0000000000000000000000000000000000000814fbc040000000000c00000000010590100000000000000002a112f80 M = true) : FrameR M s0 (execPcDead x0 x1 s) := by
  unfold execPcDead
  repeat' first
    | exact sub_trans rfl hm
    | with_reducible assumption
    | with_reducible apply FrameR.of_next
    | with_reducible apply FrameR.whenOk
    | with_reducible apply channelDies_frame

theorem execPhyMarginLow_frame {M : Nat} {s0 s : State} {x0 x1} (h : Frame M s0 s)
    (hm : sub 0x4810000000000000000000000000000000000000000000814fbc040000000000000000000000100000000000000000000a010380 M = true) : FrameR M s0 (execPhyMarginLow x0 x1 s) := by
  unfold execPhyMarginLow
  repeat' first
    | exact sub_trans rfl hm
    | with_reducible assumption
    | with_reducible apply FrameR.of_next
    | with_reducible apply FrameR.whenOk
    | with_reducible apply unscheduledRetrain_frame

theorem enterBand_frame {M : Nat} {s0 s : State} {x1 x2} (h : Frame M s0 s)
    (hm : sub 0x8000000000000000000000000000000000000814fbc040000000000000000000000000000000000000000000a110380 M = true) : Frame M s0 (enterBand s x1 x2) := by
  unfold enterBand
  repeat' first
    | exact sub_trans rfl hm
    | with_reducible assumption
    | with_reducible apply raise_frame
    | with_reducible apply State.wr_frame
    | with_reducible apply Frame.ite
    | exact has_STK_TEMP_BAND rfl hm
    | (intro x; refine (?_ : Frame M s0 x → _) ?_; (intro hx; clear_value x))
    | (intro x; clear_value x)
    | intro _
    | split
    | lift_lets -underBinder
    | with_reducible apply Frame.with_recov

theorem readTemp_frame {M : Nat} {s0 s : State} {x1 x2} (h : Frame M s0 s)
    (hm : sub 0x38000000000000000000000000000000000000814fbc040000000000000000000000000000000000000000000a110b80 M = true) : Frame M s0 (readTemp s x1 x2) := by
  unfold readTemp
  repeat' first
    | exact sub_trans rfl hm
    | with_reducible assumption
    | with_reducible apply State.wr_frame
    | with_reducible apply enterBand_frame
    | with_reducible apply State.setStack_frame
    | with_reducible apply Frame.ite
    | exact has_STK_TEMP_TEMP rfl hm
    | exact has_STK_TEMP_TEMP_MAX rfl hm
    | (intro x; refine (?_ : Frame M s0 x → _) ?_; (intro hx; clear_value x))
    | (intro x; clear_value x)
    | intro _
    | split
    | lift_lets -underBinder

theorem execStackTempRead_frame {M : Nat} {s0 s : State} {x0 x1} (h : Frame M s0 s)
    (hm : sub 0x38000000000000000000000000000000000000814fbc040000000000000000000000000000000000000000000a110b80 M = true) : FrameR M s0 (execStackTempRead x0 x1 s) := by
  unfold execStackTempRead
  repeat' first
    | exact sub_trans rfl hm
    | with_reducible assumption
    | with_reducible apply FrameR.of_next
    | with_reducible apply FrameR.whenOk
    | with_reducible apply readTemp_frame

theorem openWindow_frame {M : Nat} {s0 s : State} (h : Frame M s0 s)
    (hm : sub 0x4000000030000000000882 M = true) : Frame M s0 (openWindow s) := by
  unfold openWindow
  dsimp only
  refine State.bump_frame ?_ (has_MW_COUNT_WINDOWS rfl hm)
  refine Frame.with_mem (State.passTo_frame h (sub_trans rfl hm)) (sub_trans rfl hm) ?_
  intro c _
  exact (h.canon c).spool

theorem execMaintWindowStart_frame {M : Nat} {s0 s : State} (h : Frame M s0 s)
    (hm : sub 0x4000000030000000000882 M = true) : FrameR M s0 (execMaintWindowStart s) := by
  unfold execMaintWindowStart
  repeat' first
    | exact sub_trans rfl hm
    | with_reducible assumption
    | with_reducible apply FrameR.of_next
    | with_reducible apply FrameR.whenOk
    | with_reducible apply openWindow_frame

theorem deferWork_frame {M : Nat} {s0 s : State} {x1} (h : Frame M s0 s)
    (hm : sub 0x814fbc040000000000000000000000000000800000000000000a010380 M = true) : Frame M s0 (deferWork s x1) := by
  unfold deferWork
  repeat' first
    | exact sub_trans rfl hm
    | with_reducible assumption
    | with_reducible apply raise_frame
    | with_reducible apply State.bump_frame
    | with_reducible apply Frame.ite
    | exact has_WIN_DEFERRED_DEFERRED rfl hm
    | split

theorem reserveExhausted_frame {M : Nat} {s0 s : State} {x1 x2} (h : Frame M s0 s)
    (hm : sub 0x814fbc040000000000000000000000000000000000000000000a010b80 M = true) : Frame M s0 (reserveExhausted s x1 x2) := by
  unfold reserveExhausted
  repeat' first
    | exact sub_trans rfl hm
    | with_reducible assumption
    | with_reducible apply raise_frame
    | with_reducible apply State.setStack_frame
    | (intro x; refine (?_ : Frame M s0 x → _) ?_; (intro hx; clear_value x))
    | (intro x; clear_value x)
    | intro _
    | lift_lets -underBinder

theorem retireGranule_frame {M : Nat} {s0 s : State} {x1 x2} (h : Frame M s0 s)
    (hm : sub 0x814fbc040000000000000000000000100000000000000000000a010b80 M = true) : Frame M s0 (retireGranule s x1 x2) := by
  unfold retireGranule
  repeat' first
    | exact sub_trans rfl hm
    | with_reducible assumption
    | with_reducible apply absorbed_frame
    | with_reducible apply State.setStack_frame
    | with_reducible apply reserveExhausted_frame
    | with_reducible apply Frame.ite
    | (intro x; refine (?_ : Frame M s0 x → _) ?_; (intro hx; clear_value x))
    | (intro x; clear_value x)
    | intro _
    | split
    | lift_lets -underBinder

theorem retireAll_frame {M : Nat} {s0 s : State} {x1 x2} (h : Frame M s0 s)
    (hm : sub 0x814fbc040000000000000000000000100000000000000000000a010b80 M = true) : Frame M s0 (retireAll s x1 x2) := by
  unfold retireAll
  repeat' first
    | exact sub_trans rfl hm
    | with_reducible assumption
    | with_reducible apply retireGranule_frame
    | with_reducible apply State.setStack_frame
    | with_reducible refine Frame.foldl (fun u a hu => ?_) ?_
    | with_reducible refine Frame.foldl_on (get := Prod.fst) (fun u a hu => ?_) ?_
    | with_reducible refine Frame.foldl_on (get := Prod.snd) (fun u a hu => ?_) ?_
    | (intro x; refine (?_ : Frame M s0 x → _) ?_; (intro hx; clear_value x))
    | (intro x; clear_value x)
    | intro _
    | lift_lets -underBinder

theorem repairStep_frame {M : Nat} {s0 s : State} {x1 x2 x3} (h : Frame M s0 s)
    (hm : sub 0x800 M = true) : Frame M s0 (repairStep s x1 x2 x3) := by
  unfold repairStep
  repeat' first
    | exact sub_trans rfl hm
    | with_reducible assumption
    | with_reducible apply State.setStack_frame
    | with_reducible apply Frame.ite
    | (intro x; refine (?_ : Frame M s0 x → _) ?_; (intro hx; clear_value x))
    | (intro x; clear_value x)
    | intro _
    | split
    | lift_lets -underBinder

theorem repairAll_frame {M : Nat} {s0 s : State} {x1 x2 x3} (h : Frame M s0 s)
    (hm : sub 0xc60000000000000000000000000000000000000000000000000000000000000000000000000000000000000000000000000800 M = true) : Frame M s0 (repairAll s x1 x2 x3) := by
  unfold repairAll
  repeat' first
    | exact sub_trans rfl hm
    | with_reducible assumption
    | with_reducible apply showRepairs_frame
    | with_reducible apply repairStep_frame
    | with_reducible refine Frame.foldl (fun u a hu => ?_) ?_
    | with_reducible refine Frame.foldl_on (get := Prod.fst) (fun u a hu => ?_) ?_
    | with_reducible refine Frame.foldl_on (get := Prod.snd) (fun u a hu => ?_) ?_
    | (intro x; refine (?_ : Frame M s0 x → _) ?_; (intro hx; clear_value x))
    | (intro x; clear_value x)
    | intro _
    | lift_lets -underBinder

theorem emptyWay_frame {M : Nat} {s0 s : State} {x1 x2 x3} (h : Frame M s0 s)
    (hm : sub 0x4000000000000000000000000000000000000000000000000000000000c00 M = true) : Frame M s0 (emptyWay s x1 x2 x3) := by
  unfold emptyWay
  dsimp only
  refine Frame.foldl_mem (fun u e he hu => ?_) h
  split
  · exact State.setLines_frame (writebackLine_frame hu (sub_trans rfl hm))
      (fun c _ => ((h.canon c).spool.lines e (List.mem_filter.1 he).1).drop _) (sub_trans rfl hm)
  · exact hu

theorem replaceWay_frame {M : Nat} {s0 s : State} {x1 x2 x3} (h : Frame M s0 s)
    (hm : sub 0x430814fbc040000000000c00000000000100000000000000000000a110f80 M = true) : Frame M s0 (replaceWay s x1 x2 x3) := by
  unfold replaceWay
  dsimp only
  repeat' first
    | exact fun _ k => k
    | exact fun _ _ => SpoolOk.nil
    | exact sub_trans rfl hm
    | with_reducible assumption
    | with_reducible apply emptyWay_frame
    | with_reducible apply svcAppend_frame
    | with_reducible apply raise_frame
    | with_reducible apply absorbed_frame
    | with_reducible apply State.wr_frame
    | with_reducible simp only []
    | with_reducible apply Frame.ite
    | exact has_SPOOL_SPARE_SPARE_USED rfl hm
    | exact has_SPOOL_SPARE_WAY_DISABLED rfl hm
    | (intro x; refine (?_ : Frame M s0 x → _) ?_; (intro hx; clear_value x))
    | (intro x; clear_value x)
    | intro _
    | split
    | lift_lets -underBinder
    | with_reducible apply Frame.with_mem

theorem scheduledRetrain_frame {M : Nat} {s0 s : State} {x1} (h : Frame M s0 s)
    (hm : sub 0x40000000000000000000000000000000000000000000000000000000000000000000000000000000000000000000000000000000 M = true) : Frame M s0 (scheduledRetrain s x1) := by
  unfold scheduledRetrain
  repeat' first
    | exact sub_trans rfl hm
    | with_reducible assumption
    | with_reducible apply State.bump_frame
    | with_reducible apply Frame.ite
    | with_reducible refine Frame.foldl (fun u a hu => ?_) ?_
    | with_reducible refine Frame.foldl_on (get := Prod.fst) (fun u a hu => ?_) ?_
    | with_reducible refine Frame.foldl_on (get := Prod.snd) (fun u a hu => ?_) ?_
    | exact has_PC_REC_RT_RETRAINS rfl hm
    | (intro x; refine (?_ : Frame M s0 x → _) ?_; (intro hx; clear_value x))
    | (intro x; clear_value x)
    | intro _
    | split
    | lift_lets -underBinder

theorem scrubLost_frame {M : Nat} {s0 s : State} {x1 x2} (h : Frame M s0 s)
    (hm : sub 0x4ce8ff800000000000000000000000000000000000000814fbc040000000000c000000000101c0000000000000000002a112f80 M = true) : Frame M s0 (scrubLost s x1 x2) := by
  unfold scrubLost
  repeat' first
    | exact sub_trans rfl hm
    | with_reducible assumption
    | with_reducible apply raise_frame
    | with_reducible apply State.bump_frame
    | with_reducible apply State.countUe_frame
    | with_reducible apply rowFails_frame
    | with_reducible apply trackRow_frame
    | with_reducible apply trackRow_frame_eq (by assumption)
    | with_reducible apply State.setStack_frame
    | with_reducible apply Frame.ite
    | exact has_PC_REC_UE_UE rfl hm
    | (intro x; refine (?_ : Frame M s0 x → _) ?_; (intro hx; clear_value x))
    | (intro x; clear_value x)
    | intro _
    | split
    | lift_lets -underBinder

theorem scrubCorrected_frame {M : Nat} {s0 s : State} {x1 x2 x3} (h : Frame M s0 s)
    (hm : sub 0x6edeaff800000000000000000000000000000000000000814fbc040000000000c000000000101c0000000000000000002a112f80 M = true) : Frame M s0 (scrubCorrected s x1 x2 x3) := by
  unfold scrubCorrected
  repeat' first
    | exact sub_trans rfl hm
    | with_reducible assumption
    | with_reducible apply correctedRow_frame
    | with_reducible apply countSymbols_frame
    | with_reducible apply countChannelCe_frame
    | with_reducible apply rung_frame
    | split

theorem scrubFind_frame {M : Nat} {s0 s : State} {x1 x2} (h : Frame M s0 s)
    (hm : sub 0x6edeeff800000000000000000000000000000000000000814fbc040000000000c000000000101c0000000000000000002a112f80 M = true) : Frame M s0 (scrubFind s x1 x2) := by
  unfold scrubFind
  repeat' first
    | exact sub_trans rfl hm
    | with_reducible assumption
    | with_reducible apply scrubCorrected_frame
    | with_reducible apply State.bump_frame
    | with_reducible apply uncorrectableRead_frame
    | with_reducible apply trackRow_frame
    | with_reducible apply trackRow_frame_eq (by assumption)
    | with_reducible apply scrubLost_frame
    | with_reducible apply Frame.ite
    | exact has_RETRY_OK_COUNT rfl hm
    | (intro x; refine (?_ : Frame M s0 x → _) ?_; (intro hx; clear_value x))
    | (intro x; clear_value x)
    | intro _
    | split
    | lift_lets -underBinder

theorem scrubStack_frame {M : Nat} {s0 s : State} {x1 x2 x3} (h : Frame M s0 s)
    (hm : sub 0x6efeeff800000000000000000000000000000000000000814fbc040000000000c000000000101c0000000000000000002a112f80 M = true) : Frame M s0 (scrubStack s x1 x2 x3) := by
  unfold scrubStack
  repeat' first
    | exact sub_trans rfl hm
    | with_reducible assumption
    | with_reducible apply State.setStack_frame
    | with_reducible apply State.bump_frame
    | with_reducible apply scrubFind_frame
    | with_reducible apply Frame.ite
    | with_reducible refine Frame.foldl (fun u a hu => ?_) ?_
    | with_reducible refine Frame.foldl_on (get := Prod.fst) (fun u a hu => ?_) ?_
    | with_reducible refine Frame.foldl_on (get := Prod.snd) (fun u a hu => ?_) ?_
    | exact has_SCRUB_PASSES_COUNT rfl hm
    | (intro x; refine (?_ : Frame M s0 x → _) ?_; (intro hx; clear_value x))
    | (intro x; clear_value x)
    | intro _
    | split
    | lift_lets -underBinder

theorem deferSwitch_frame {M : Nat} {s0 s : State} {x1 x2} (h : Frame M s0 s)
    (hm : sub 0x800 M = true) : Frame M s0 (deferSwitch s x1 x2) := by
  unfold deferSwitch
  repeat' first
    | exact sub_trans rfl hm
    | with_reducible assumption
    | with_reducible apply State.setStack_frame
    | with_reducible apply Frame.ite
    | split

theorem windowWork_frame {M : Nat} {s0 s : State} {x1 x2 x3} (h : Frame M s0 s)
    (hm : sub 0x6efefff800000000000000000000000800000000000438814fbc040000000000c000000000105d0100800000000000002a113f80 M = true) : Frame M s0 (windowWork s x1 x2 x3) := by
  unfold windowWork
  repeat' first
    | exact sub_trans rfl hm
    | with_reducible assumption
    | with_reducible apply remapSram_frame
    | with_reducible apply State.bump_frame
    | with_reducible apply scrubStack_frame
    | with_reducible apply deferWork_frame
    | with_reducible apply retireAll_frame
    | with_reducible apply deferSwitch_frame
    | with_reducible apply scheduledRetrain_frame
    | with_reducible apply replaceWay_frame
    | with_reducible apply repairAll_frame
    | with_reducible apply Frame.ite
    | with_reducible refine Frame.foldl (fun u a hu => ?_) ?_
    | with_reducible refine Frame.foldl_on (get := Prod.fst) (fun u a hu => ?_) ?_
    | with_reducible refine Frame.foldl_on (get := Prod.snd) (fun u a hu => ?_) ?_
    | exact has_ODE_CE_COUNT rfl hm
    | (intro x; refine (?_ : Frame M s0 x → _) ?_; (intro hx; clear_value x))
    | (intro x; clear_value x)
    | intro _
    | split
    | lift_lets -underBinder

theorem execWindowWork_frame {M : Nat} {s0 s : State} {x0 x1} (h : Frame M s0 s)
    (hm : sub 0x6efefff800000000000000000000000800000000000438814fbc040000000000c000000000105d0100800000000000002a113f80 M = true) : FrameR M s0 (execWindowWork x0 x1 s) := by
  unfold execWindowWork
  repeat' first
    | exact sub_trans rfl hm
    | with_reducible assumption
    | with_reducible apply FrameR.of_next
    | with_reducible apply FrameR.whenOk
    | with_reducible apply windowWork_frame
    | split

theorem swapMigration_frame {M : Nat} {s0 s : State} {x1} (h : Frame M s0 s)
    (hm : sub 0x18000004c0000000000000000000000000000000000000814fbc040000000000c00000000000000000000000000000000a110b80 M = true) : Frame M s0 (swapMigration s x1) := by
  unfold swapMigration
  repeat' first
    | exact sub_trans rfl hm
    | with_reducible assumption
    | with_reducible apply State.setStack_frame
    | with_reducible apply switchMigration_frame
    | with_reducible apply Frame.ite
    | split

theorem endRepairs_frame {M : Nat} {s0 s : State} {x1} (h : Frame M s0 s)
    (hm : sub 0xc70000000000000000000000000000000000000000000000000000000000000000000000000000000000000000000000000800 M = true) : Frame M s0 (endRepairs s x1) := by
  unfold endRepairs
  repeat' first
    | exact sub_trans rfl hm
    | with_reducible assumption
    | with_reducible apply showRepairs_frame
    | with_reducible apply State.bump_frame
    | with_reducible apply State.setStack_frame
    | with_reducible apply Frame.ite
    | with_reducible refine Frame.foldl (fun u a hu => ?_) ?_
    | with_reducible refine Frame.foldl_on (get := Prod.fst) (fun u a hu => ?_) ?_
    | with_reducible refine Frame.foldl_on (get := Prod.snd) (fun u a hu => ?_) ?_
    | exact has_HPPR_DONE_COUNT rfl hm
    | (intro x; refine (?_ : Frame M s0 x → _) ?_; (intro hx; clear_value x))
    | (intro x; clear_value x)
    | intro _
    | split
    | lift_lets -underBinder

theorem leaveGranule_frame {M : Nat} {s0 s : State} {x1 x2} (h : Frame M s0 s)
    (hm : sub 0x800 M = true) : Frame M s0 (leaveGranule s x1 x2) := by
  unfold leaveGranule
  repeat' first
    | exact sub_trans rfl hm
    | with_reducible assumption
    | with_reducible apply State.setStack_frame
    | with_reducible apply Frame.ite
    | with_reducible refine Frame.foldl (fun u a hu => ?_) ?_
    | with_reducible refine Frame.foldl_on (get := Prod.fst) (fun u a hu => ?_) ?_
    | with_reducible refine Frame.foldl_on (get := Prod.snd) (fun u a hu => ?_) ?_
    | (intro x; refine (?_ : Frame M s0 x → _) ?_; (intro hx; clear_value x))
    | (intro x; clear_value x)
    | intro _
    | split
    | lift_lets -underBinder

theorem swapPages_frame {M : Nat} {s0 s : State} {x1} (h : Frame M s0 s)
    (hm : sub 0xc6000000000000000000000000000000000000000000814fbc040000000000000000000000000000000000000000000a010b80 M = true) : Frame M s0 (swapPages s x1) := by
  unfold swapPages
  repeat' first
    | exact sub_trans rfl hm
    | with_reducible assumption
    | with_reducible apply leaveGranule_frame
    | with_reducible apply showRepairs_frame
    | with_reducible apply State.setStack_frame
    | with_reducible apply raiseTimes_frame
    | with_reducible apply Frame.ite
    | with_reducible refine Frame.foldl (fun u a hu => ?_) ?_
    | with_reducible refine Frame.foldl_on (get := Prod.fst) (fun u a hu => ?_) ?_
    | with_reducible refine Frame.foldl_on (get := Prod.snd) (fun u a hu => ?_) ?_
    | (intro x; refine (?_ : Frame M s0 x → _) ?_; (intro hx; clear_value x))
    | (intro x; clear_value x)
    | intro _
    | split
    | lift_lets -underBinder

theorem swapTables_frame {M : Nat} {s0 s : State} {x1} (h : Frame M s0 s)
    (hm : sub 0x1cc78ffcc0000000000000000000000000000000000000814fbc040000000000c000000000101c0000000000000000002a112f80 M = true) : Frame M s0 (swapTables s x1) := by
  unfold swapTables
  repeat' first
    | exact sub_trans rfl hm
    | with_reducible assumption
    | with_reducible apply handleQueued_frame
    | with_reducible apply swapPages_frame
    | with_reducible apply endRepairs_frame
    | with_reducible apply swapMigration_frame

theorem stampedAt_frame {M : Nat} {s0 s : State} {w f} (h : Frame M s0 s)
    (hf : ∀ u, Frame M s0 u → Frame M s0 (f u)) (hm : sub 0x2 M = true) : Frame M s0 (stampedAt s w f) := by
  unfold stampedAt
  exact Frame.with_tick (hf _ (Frame.with_tick h (sub_trans rfl hm))) (sub_trans rfl hm)

theorem swapAllTables_frame {M : Nat} {s0 s : State} {x1} (h : Frame M s0 s)
    (hm : sub 0x1cc78ffcc0000000000000000000100000000000000000814fbc040000000000c000000000101c0000000000003000002a113f82 M = true) : Frame M s0 (swapAllTables s x1) := by
  unfold swapAllTables
  repeat' first
    | exact sub_trans rfl hm
    | with_reducible assumption
    | with_reducible apply State.passTo_frame
    | with_reducible apply remapDue_frame
    | with_reducible apply stampedAt_frame
    | with_reducible apply swapTables_frame
    | with_reducible apply Frame.ite
    | with_reducible refine Frame.foldl (fun u a hu => ?_) ?_
    | with_reducible refine Frame.foldl_on (get := Prod.fst) (fun u a hu => ?_) ?_
    | with_reducible refine Frame.foldl_on (get := Prod.snd) (fun u a hu => ?_) ?_
    | (intro x; refine (?_ : Frame M s0 x → _) ?_; (intro hx; clear_value x))
    | (intro x; clear_value x)
    | intro _
    | split
    | lift_lets -underBinder

theorem execTableSwap_frame {M : Nat} {s0 s : State} (h : Frame M s0 s)
    (hm : sub 0x1cc78ffcc0000000000000000000100000000000000000814fbc040000000000c000000000101c0000000000003000002a113f82 M = true) : FrameR M s0 (execTableSwap s) := by
  unfold execTableSwap
  repeat' first
    | exact sub_trans rfl hm
    | with_reducible assumption
    | with_reducible apply FrameR.of_next
    | with_reducible apply FrameR.whenOk
    | with_reducible apply swapAllTables_frame
    | split

theorem closeWindow_frame {M : Nat} {s0 s : State} {x1} (h : Frame M s0 s)
    (hm : sub 0x4cd68ff8000000000000000000000000001d0008327fc0814fbc040000000000c000000000101c0000000000003000002a132f82 M = true) : Frame M s0 (closeWindow s x1) := by
  unfold closeWindow
  dsimp only
  refine Frame.foldl (fun u a hu => regulateAccess_frame hu (sub_trans rfl hm)) ?_
  refine Frame.with_mem (State.passTo_frame h (sub_trans rfl hm)) (sub_trans rfl hm) ?_
  intro c _
  exact (h.canon c).spool

theorem execWindowEnd_frame {M : Nat} {s0 s : State} (h : Frame M s0 s)
    (hm : sub 0x4cd68ff8000000000000000000000000001d0008327fc0814fbc040000000000c000000000101c0000000000003000002a132f82 M = true) : FrameR M s0 (execWindowEnd s) := by
  unfold execWindowEnd
  repeat' first
    | exact sub_trans rfl hm
    | with_reducible assumption
    | with_reducible apply FrameR.of_next
    | with_reducible apply FrameR.whenOk
    | with_reducible apply closeWindow_frame
    | split

theorem intervalEnds_frame {M : Nat} {s0 s : State} {x1} (h : Frame M s0 s)
    (hm : sub 0x3800000340000000000000000000000000000000000000814fbc040000000000000000000000100000000000000000000a010b80 M = true) : Frame M s0 (intervalEnds s x1) := by
  unfold intervalEnds
  repeat' first
    | exact sub_trans rfl hm
    | with_reducible assumption
    | with_reducible apply State.wr_frame
    | with_reducible apply State.setStack_frame
    | with_reducible apply startMigration_frame
    | with_reducible apply Frame.ite
    | with_reducible refine Frame.foldl (fun u a hu => ?_) ?_
    | with_reducible refine Frame.foldl_on (get := Prod.fst) (fun u a hu => ?_) ?_
    | with_reducible refine Frame.foldl_on (get := Prod.snd) (fun u a hu => ?_) ?_
    | exact has_PC_REC_ST_INTERVAL_CE rfl hm
    | (intro x; refine (?_ : Frame M s0 x → _) ?_; (intro hx; clear_value x))
    | (intro x; clear_value x)
    | intro _
    | split
    | lift_lets -underBinder

theorem execMigIntervalEnd_frame {M : Nat} {s0 s : State} {x0} (h : Frame M s0 s)
    (hm : sub 0x3800000340000000000000000000000000000000000000814fbc040000000000000000000000100000000000000000000a010b80 M = true) : FrameR M s0 (execMigIntervalEnd x0 s) := by
  unfold execMigIntervalEnd
  repeat' first
    | exact sub_trans rfl hm
    | with_reducible assumption
    | with_reducible apply FrameR.of_next
    | with_reducible apply FrameR.whenOk
    | with_reducible apply intervalEnds_frame

theorem migCopied_frame {M : Nat} {s0 s : State} {x1 x2} (h : Frame M s0 s)
    (hm : sub 0x2000000000000000000000000000000000000000000000000000000000000000000000000000000000000000000000800 M = true) : Frame M s0 (migCopied s x1 x2) := by
  unfold migCopied
  repeat' first
    | exact sub_trans rfl hm
    | with_reducible assumption
    | with_reducible apply State.wr_frame
    | with_reducible apply State.setStack_frame
    | exact has_MIG_STAT_COPIED rfl hm

theorem execMigCopyDone_frame {M : Nat} {s0 s : State} {x0} (h : Frame M s0 s)
    (hm : sub 0x2000000000000000000000000000000000000000000000000000000000000000000000000000000000000000000000800 M = true) : FrameR M s0 (execMigCopyDone x0 s) := by
  unfold execMigCopyDone
  repeat' first
    | exact sub_trans rfl hm
    | with_reducible assumption
    | with_reducible apply FrameR.of_next
    | with_reducible apply FrameR.whenOk
    | with_reducible apply migCopied_frame
    | split

theorem execMigrate_frame {M : Nat} {s0 s : State} {x0 x1} (h : Frame M s0 s)
    (hm : sub 0x1800000340000000000000000000000000000000000000814fbc040000000000000000000000100000000000000000000a010b80 M = true) : FrameR M s0 (execMigrate x0 x1 s) := by
  unfold execMigrate
  repeat' first
    | exact sub_trans rfl hm
    | with_reducible assumption
    | with_reducible apply FrameR.of_next
    | with_reducible apply FrameR.whenOk
    | with_reducible apply FrameR.ite
    | with_reducible apply startMigration_frame
    | with_reducible apply refuse_frame
    | with_reducible apply Frame.ite
    | split

end Sys2Proof.Machine
end

