-- ==== Sys2Proof/Laws/FrameKite.lean ====
section
/-! SUPPORT. Frame lemmas for the functions of Machine/Kite.lean. -/

set_option Elab.async false
set_option linter.all false

namespace Sys2Proof.Machine

theorem has_copyBusyFld {M : Nat} {f} (h : sub 0x100000000003000000000000000000000000000000000000000000000000000000000000000000000000000000000 M = true) : has (copyBusyFld f) M := by
  cases f
  · exact has_CB_FILE_STAT_CB_COPY_BUSY rfl h
  · exact has_CB_FILE_STAT_RSC_COPY_BUSY rfl h
  · exact has_VP_FILE_STAT_VP_COPY_BUSY rfl h

theorem State.spWrite_frame {M : Nat} {s0 s : State} {x1 x2 x3} (h : Frame M s0 s)
    (hm : sub 0x1000 M = true) : Frame M s0 (State.spWrite s x1 x2 x3) := by
  unfold State.spWrite
  repeat' first
    | exact sub_trans rfl hm
    | with_reducible assumption
    | with_reducible apply State.setKite_frame

theorem spCorrected_frame {M : Nat} {s0 s : State} {x1 x2} (h : Frame M s0 s)
    (hm : sub 0x814fbc040000000000000000000000180000000000000000000a011380 M = true) : Frame M s0 (spCorrected s x1 x2) := by
  unfold spCorrected
  repeat' first
    | exact sub_trans rfl hm
    | with_reducible assumption
    | with_reducible apply rung_frame
    | with_reducible apply raise_frame
    | with_reducible apply State.countCe_frame
    | with_reducible apply State.setKite_frame
    | (intro x; refine (?_ : Frame M s0 x → _) ?_; (intro hx; clear_value x))
    | (intro x; clear_value x)
    | intro _
    | lift_lets -underBinder

theorem spUncorrectable_frame {M : Nat} {s0 s : State} {x1 x2} (h : Frame M s0 s)
    (hm : sub 0x814fbc040000000000000000000000000000000000000000000a011380 M = true) : Frame M s0 (spUncorrectable s x1 x2) := by
  unfold spUncorrectable
  repeat' first
    | exact sub_trans rfl hm
    | with_reducible assumption
    | with_reducible apply raise_frame
    | with_reducible apply State.countUe_frame
    | with_reducible apply State.setKite_frame
    | with_reducible apply Frame.ite
    | (intro x; refine (?_ : Frame M s0 x → _) ?_; (intro hx; clear_value x))
    | (intro x; clear_value x)
    | intro _
    | split
    | lift_lets -underBinder

theorem showStream_frame {M : Nat} {s0 s : State} {x1} (h : Frame M s0 s)
    (hm : sub 0x108000000000000000000000000000000000000000000000000000000000000000000001000 M = true) : Frame M s0 (showStream s x1) := by
  unfold showStream
  repeat' first
    | exact sub_trans rfl hm
    | with_reducible assumption
    | with_reducible apply State.setKite_frame
    | with_reducible apply State.wr_frame
    | with_reducible apply Frame.ite
    | exact has_KITE_STATE_STATE rfl hm
    | exact has_PLAN_PC_PC rfl hm
    | (intro x; refine (?_ : Frame M s0 x → _) ?_; (intro hx; clear_value x))
    | (intro x; clear_value x)
    | intro _
    | split
    | lift_lets -underBinder

theorem opFault_frame {M : Nat} {s0 s : State} {x1 x2 x3 x4} (h : Frame M s0 s)
    (hm : sub 0x7fe000007800000003800000000000000814fbc040000000000000000000010180000000000000000002a013380 M = true) : Frame M s0 (opFault s x1 x2 x3 x4) := by
  unfold opFault
  repeat' first
    | exact sub_trans rfl hm
    | with_reducible assumption
    | with_reducible apply kiteFault_frame
    | with_reducible apply raise_frame
    | with_reducible apply Frame.ite
    | split

theorem faultTogether_frame {M : Nat} {s0 s : State} {x1 x2 x3 x4} (h : Frame M s0 s)
    (hm : sub 0x7fe000007800000003800000000000000814fbc040000000000000000000010180000000000000000002a013380 M = true) : Frame M s0 (faultTogether s x1 x2 x3 x4) := by
  unfold faultTogether
  repeat' first
    | exact sub_trans rfl hm
    | with_reducible assumption
    | with_reducible apply countEvent_frame
    | with_reducible apply opFault_frame
    | with_reducible refine Frame.foldl (fun u a hu => ?_) ?_
    | with_reducible refine Frame.foldl_on (get := Prod.fst) (fun u a hu => ?_) ?_
    | with_reducible refine Frame.foldl_on (get := Prod.snd) (fun u a hu => ?_) ?_
    | (intro x; refine (?_ : Frame M s0 x → _) ?_; (intro hx; clear_value x))
    | (intro x; clear_value x)
    | intro _
    | split
    | lift_lets -underBinder

theorem faultSpUe_frame {M : Nat} {s0 s : State} {x1 x2 x3 x4} (h : Frame M s0 s)
    (hm : sub 0x7fe000007800000003800000000000008814fbc040000000000000000000010180000000000000000002a013380 M = true) : Frame M s0 (faultSpUe s x1 x2 x3 x4) := by
  unfold faultSpUe
  repeat' first
    | exact sub_trans rfl hm
    | with_reducible assumption
    | with_reducible apply spUncorrectable_frame
    | with_reducible apply opFault_frame
    | with_reducible apply declareFailed_frame
    | with_reducible apply Frame.ite
    | (intro x; refine (?_ : Frame M s0 x → _) ?_; (intro hx; clear_value x))
    | (intro x; clear_value x)
    | intro _
    | split
    | lift_lets -underBinder

theorem meetErrors_frame {M : Nat} {s0 s : State} {x1 x2} (h : Frame M s0 s)
    (hm : sub 0x400000000000000000814fbc040000000000000000000000180000000000000000000a011380 M = true) : Frame M s0 (meetErrors s x1 x2).2 := by
  unfold meetErrors
  repeat' first
    | exact sub_trans rfl hm
    | with_reducible assumption
    | with_reducible apply spCorrected_frame
    | with_reducible apply raiseTimes_frame
    | with_reducible apply State.bump_frame
    | with_reducible refine Frame.foldl (fun u a hu => ?_) ?_
    | with_reducible refine Frame.foldl_on (get := Prod.fst) (fun u a hu => ?_) ?_
    | with_reducible refine Frame.foldl_on (get := Prod.snd) (fun u a hu => ?_) ?_
    | exact has_BANK_STALL_STALLS rfl hm
    | (intro x; refine (?_ : Frame M s0 x → _) ?_; (intro hx; clear_value x))
    | (intro x; clear_value x)
    | intro _
    | lift_lets -underBinder
    | dsimp only

theorem meetErrors_frame_eq {M : Nat} {s0 s : State} {x1 x2} {a0 t} (e : meetErrors s x1 x2 = (a0, t)) (h : Frame M s0 s)
    (hm : sub 0x400000000000000000814fbc040000000000000000000000180000000000000000000a011380 M = true) : Frame M s0 t := by
  have := meetErrors_frame (x1 := x1) (x2 := x2) h hm
  rwa [e] at this

theorem fetchRecords_frame {M : Nat} {s0 s : State} {who base r n f} (h : Frame M s0 s)
    (hf : ∀ u, Frame M s0 u → Frame M s0 (f u)) (hm : sub 0x4c68ff8000000000000000000000000001d0008323fc0814fbc040000000000c000000000101c0000000000000000002a132f80 M = true) : Frame M s0 (fetchRecords s who base r n f) := by
  unfold fetchRecords
  split
  · rename_i e
    exact hf _ (readFor_frame_eq e h (sub_trans rfl hm))
  · rename_i e
    exact readFor_frame_eq e h (sub_trans rfl hm)

theorem signalGate_frame {M : Nat} {s0 s : State} {x1 x2} (h : Frame M s0 s)
    (hm : sub 0x1000 M = true) : Frame M s0 (signalGate s x1 x2) := by
  unfold signalGate
  repeat' first
    | exact sub_trans rfl hm
    | with_reducible assumption
    | with_reducible apply State.setKite_frame
    | (intro x; refine (?_ : Frame M s0 x → _) ?_; (intro hx; clear_value x))
    | (intro x; clear_value x)
    | intro _
    | lift_lets -underBinder

theorem signalLogical_frame {M : Nat} {s0 s : State} {x1 x2} (h : Frame M s0 s)
    (hm : sub 0x1000 M = true) : Frame M s0 (signalLogical s x1 x2) := by
  unfold signalLogical
  repeat' first
    | exact sub_trans rfl hm
    | with_reducible assumption
    | with_reducible apply signalGate_frame

theorem fetchHead_frame {M : Nat} {s0 s : State} {n f} (h : Frame M s0 s)
    (hf : ∀ u, Frame M s0 u → Frame M s0 (f u)) (hm : sub 0x4c68ff8000000000000000000000000001d0008323fc0814fbc040000000000c000000000101c0000000000000000002a132f80 M = true) : Frame M s0 (fetchHead s n f) := by
  exact fetchRecords_frame h hf (sub_trans rfl hm)

theorem issueHead_frame {M : Nat} {s0 s : State} {x1} (h : Frame M s0 s)
    (hm : sub 0x20000000000000000814fbc040000000000000000000000008000000000000000000a011380 M = true) : Frame M s0 (issueHead s x1) := by
  unfold issueHead
  repeat' first
    | exact sub_trans rfl hm
    | with_reducible assumption
    | with_reducible apply State.setKite_frame
    | with_reducible apply raise_frame
    | with_reducible apply State.bump_frame
    | with_reducible apply traceAdd_frame
    | with_reducible apply Frame.ite
    | exact has_SLIP_COUNT_SLIPS rfl hm
    | exact has_STEP_SLIPS_COUNT rfl hm
    | (intro x; refine (?_ : Frame M s0 x → _) ?_; (intro hx; clear_value x))
    | (intro x; clear_value x)
    | intro _
    | split
    | lift_lets -underBinder

theorem completeRun_frame {M : Nat} {s0 s : State} {x1 x2} (h : Frame M s0 s)
    (hm : sub 0x814fbc040000000000000000000000000000000000000000000a011380 M = true) : Frame M s0 (completeRun s x1 x2) := by
  unfold completeRun
  repeat' first
    | exact sub_trans rfl hm
    | with_reducible assumption
    | with_reducible apply signalGate_frame
    | with_reducible apply traceAdd_frame
    | (intro x; refine (?_ : Frame M s0 x → _) ?_; (intro hx; clear_value x))
    | (intro x; clear_value x)
    | intro _
    | split
    | lift_lets -underBinder

theorem issueAtOnce_frame {M : Nat} {s0 s : State} {x1} (h : Frame M s0 s)
    (hm : sub 0x30800000000000000814fbc040000000000000000000000008000000000000000000a011380 M = true) : Frame M s0 (issueAtOnce s x1) := by
  unfold issueAtOnce
  repeat' first
    | exact sub_trans rfl hm
    | with_reducible assumption
    | with_reducible apply showStream_frame
    | with_reducible apply completeRun_frame
    | with_reducible apply issueHead_frame

theorem startCopy_frame {M : Nat} {s0 s : State} {x1 x2} (h : Frame M s0 s)
    (hm : sub 0x100000000003000000000000000000000000000000000000000000000000000000000000000000000000000001000 M = true) : Frame M s0 (startCopy s x1 x2) := by
  unfold startCopy
  repeat' first
    | with_reducible apply has_copyBusyFld
    | exact sub_trans rfl hm
    | with_reducible assumption
    | with_reducible apply State.wr_frame
    | with_reducible apply State.setKite_frame
    | exact has_CB_FILE_STAT_CB_COPY_BUSY rfl hm
    | exact has_CB_FILE_STAT_RSC_COPY_BUSY rfl hm
    | exact has_VP_FILE_STAT_VP_COPY_BUSY rfl hm
    | (intro x; refine (?_ : Frame M s0 x → _) ?_; (intro hx; clear_value x))
    | (intro x; clear_value x)
    | intro _
    | lift_lets -underBinder

theorem execFileCopy_frame {M : Nat} {s0 s : State} {x0 x1} (h : Frame M s0 s)
    (hm : sub 0x100000000003000000000000000000000000000000000000000000000000000000000000000000000000000001000 M = true) : FrameR M s0 (execFileCopy x0 x1 s) := by
  unfold execFileCopy
  repeat' first
    | exact sub_trans rfl hm
    | with_reducible assumption
    | with_reducible apply FrameR.of_next
    | with_reducible apply FrameR.whenOk
    | with_reducible apply startCopy_frame

theorem windowStore_frame {M : Nat} {s0 s : State} {x1 x2 x3 x4} (h : Frame M s0 s)
    (hm : sub 0x1000 M = true) : Frame M s0 (windowStore s x1 x2 x3 x4) := by
  unfold windowStore
  repeat' first
    | exact sub_trans rfl hm
    | with_reducible assumption
    | with_reducible apply State.setKite_frame
    | (intro x; refine (?_ : Frame M s0 x → _) ?_; (intro hx; clear_value x))
    | (intro x; clear_value x)
    | intro _
    | lift_lets -underBinder

theorem landFile_frame {M : Nat} {s0 s : State} {x1 x2} (h : Frame M s0 s)
    (hm : sub 0x1010 M = true) : Frame M s0 (landFile s x1 x2) := by
  unfold landFile
  repeat' first
    | exact sub_trans rfl hm
    | with_reducible assumption
    | with_reducible apply windowStore_frame
    | with_reducible refine Frame.foldl (fun u a hu => ?_) ?_
    | with_reducible refine Frame.foldl_on (get := Prod.fst) (fun u a hu => ?_) ?_
    | with_reducible refine Frame.foldl_on (get := Prod.snd) (fun u a hu => ?_) ?_
    | (intro x; refine (?_ : Frame M s0 x → _) ?_; (intro hx; clear_value x))
    | (intro x; clear_value x)
    | intro _
    | lift_lets -underBinder
    | with_reducible apply Frame.with_held

theorem endCopy_frame {M : Nat} {s0 s : State} {x1 x2} (h : Frame M s0 s)
    (hm : sub 0x100000000003000000000000000000000000000000000000000000000000000000000000000000000000000001010 M = true) : Frame M s0 (endCopy s x1 x2) := by
  unfold endCopy
  repeat' first
    | with_reducible apply has_copyBusyFld
    | exact sub_trans rfl hm
    | with_reducible assumption
    | with_reducible apply landFile_frame
    | with_reducible apply State.wr_frame
    | with_reducible apply State.setKite_frame
    | exact has_CB_FILE_STAT_CB_COPY_BUSY rfl hm
    | exact has_CB_FILE_STAT_RSC_COPY_BUSY rfl hm
    | exact has_VP_FILE_STAT_VP_COPY_BUSY rfl hm
    | (intro x; refine (?_ : Frame M s0 x → _) ?_; (intro hx; clear_value x))
    | (intro x; clear_value x)
    | intro _
    | lift_lets -underBinder

theorem execFileCopyDone_frame {M : Nat} {s0 s : State} {x0 x1} (h : Frame M s0 s)
    (hm : sub 0x100000000003000000000000000000000000000000000000000000000000000000000000000000000000000001010 M = true) : FrameR M s0 (execFileCopyDone x0 x1 s) := by
  unfold execFileCopyDone
  repeat' first
    | exact sub_trans rfl hm
    | with_reducible assumption
    | with_reducible apply FrameR.of_next
    | with_reducible apply FrameR.whenOk
    | with_reducible apply endCopy_frame

theorem windowHold_frame {M : Nat} {s0 s : State} {x1 x2 x3 x4} (h : Frame M s0 s)
    (hm : sub 0x1010 M = true) : Frame M s0 (windowHold s x1 x2 x3 x4) := by
  unfold windowHold
  repeat' first
    | exact sub_trans rfl hm
    | with_reducible assumption
    | with_reducible apply windowStore_frame
    | with_reducible apply Frame.ite
    | split
    | with_reducible apply Frame.with_held

theorem cbfAdvance_frame {M : Nat} {s0 s : State} {x1} (h : Frame M s0 s)
    (hm : sub 0x4000000000000000000000000000000000000000000000000000000000000000000000000000000000000 M = true) : Frame M s0 (cbfAdvance s x1) := by
  unfold cbfAdvance
  repeat' first
    | exact sub_trans rfl hm
    | with_reducible assumption
    | with_reducible apply State.wr_frame
    | with_reducible apply Frame.ite
    | exact has_CBF_INDEX_WORD rfl hm
    | split

theorem cbfRead_frame {M : Nat} {s0 s : State} {x1} (h : Frame M s0 s)
    (hm : sub 0x4000000000000000000000000000000000000000000000000000000000000000000000000000000000000 M = true) : Frame M s0 (cbfRead s x1).2 := by
  unfold cbfRead
  repeat' first
    | exact sub_trans rfl hm
    | with_reducible assumption
    | with_reducible apply cbfAdvance_frame
    | dsimp only

theorem cbfRead_frame_eq {M : Nat} {s0 s : State} {x1} {a0 t} (e : cbfRead s x1 = (a0, t)) (h : Frame M s0 s)
    (hm : sub 0x4000000000000000000000000000000000000000000000000000000000000000000000000000000000000 M = true) : Frame M s0 t := by
  have := cbfRead_frame (x1 := x1) h hm
  rwa [e] at this

theorem cbfWrite_frame {M : Nat} {s0 s : State} {x1 x2} (h : Frame M s0 s)
    (hm : sub 0x400000000000000000000000000814fbc040000000000000000000000000000000000000000000a011390 M = true) : Frame M s0 (cbfWrite s x1 x2) := by
  unfold cbfWrite
  repeat' first
    | exact sub_trans rfl hm
    | with_reducible assumption
    | with_reducible apply cbfAdvance_frame
    | with_reducible apply windowHold_frame
    | with_reducible apply refuse_frame
    | with_reducible apply Frame.ite
    | split

theorem execCbfData_frame {M : Nat} {s0 s : State} {x0 x1} (h : Frame M s0 s)
    (hm : sub 0x400000000000000000000000000814fbc040000000000000000000000000000000000000000002a011390 M = true) : FrameR M s0 (execCbfData x0 x1 s) := by
  unfold execCbfData
  repeat' first
    | exact sub_trans rfl hm
    | with_reducible assumption
    | with_reducible apply FrameR.of_next
    | with_reducible apply FrameR.whenOk
    | with_reducible apply State.emit_frame
    | with_reducible apply cbfRead_frame
    | with_reducible apply cbfRead_frame_eq (by assumption)
    | with_reducible apply cbfWrite_frame
    | split

theorem vpAdvance_frame {M : Nat} {s0 s : State} {x1} (h : Frame M s0 s)
    (hm : sub 0x40000000000000000000000000000000000000000000000000000000000000000000000000000000000000000000 M = true) : Frame M s0 (vpAdvance s x1) := by
  unfold vpAdvance
  repeat' first
    | exact sub_trans rfl hm
    | with_reducible assumption
    | with_reducible apply State.wr_frame
    | with_reducible apply Frame.ite
    | exact has_VP_INDEX_WORD rfl hm
    | split

theorem vpRead_frame {M : Nat} {s0 s : State} {x1} (h : Frame M s0 s)
    (hm : sub 0x40000000000000000000000000000000000000000000000000000000000000000000000000000000000000000000 M = true) : Frame M s0 (vpRead s x1).2 := by
  unfold vpRead
  repeat' first
    | exact sub_trans rfl hm
    | with_reducible assumption
    | with_reducible apply vpAdvance_frame
    | dsimp only

theorem vpRead_frame_eq {M : Nat} {s0 s : State} {x1} {a0 t} (e : vpRead s x1 = (a0, t)) (h : Frame M s0 s)
    (hm : sub 0x40000000000000000000000000000000000000000000000000000000000000000000000000000000000000000000 M = true) : Frame M s0 t := by
  have := vpRead_frame (x1 := x1) h hm
  rwa [e] at this

theorem vpWrite_frame {M : Nat} {s0 s : State} {x1 x2} (h : Frame M s0 s)
    (hm : sub 0x4000000000000000000000000000000000814fbc040000000000000000000000000000000000000000000a011390 M = true) : Frame M s0 (vpWrite s x1 x2) := by
  unfold vpWrite
  repeat' first
    | exact sub_trans rfl hm
    | with_reducible assumption
    | with_reducible apply vpAdvance_frame
    | with_reducible apply windowHold_frame
    | with_reducible apply refuse_frame
    | with_reducible apply Frame.ite
    | split

theorem execVpData_frame {M : Nat} {s0 s : State} {x0 x1} (h : Frame M s0 s)
    (hm : sub 0x4000000000000000000000000000000000814fbc040000000000000000000000000000000000000000002a011390 M = true) : FrameR M s0 (execVpData x0 x1 s) := by
  unfold execVpData
  repeat' first
    | exact sub_trans rfl hm
    | with_reducible assumption
    | with_reducible apply FrameR.of_next
    | with_reducible apply FrameR.whenOk
    | with_reducible apply State.emit_frame
    | with_reducible apply vpRead_frame
    | with_reducible apply vpRead_frame_eq (by assumption)
    | with_reducible apply vpWrite_frame
    | split

theorem execOpInvalid_frame {M : Nat} {s0 s : State} {x0 x1} (h : Frame M s0 s)
    (hm : sub 0x4c68ff8000007fe0000078000000038001d0008323fc0814fbc040000000000c000000000101c0000000000000000002a133f80 M = true) : FrameR M s0 (execOpInvalid x0 x1 s) := by
  unfold execOpInvalid
  repeat' first
    | exact sub_trans rfl hm
    | with_reducible assumption
    | with_reducible apply FrameR.of_next
    | with_reducible apply FrameR.whenOk
    | with_reducible apply fetchHead_frame
    | with_reducible apply opFault_frame
    | (intro x; refine (?_ : Frame M s0 x → _) ?_; (intro hx; clear_value x))
    | (intro x; clear_value x)
    | intro _
    | lift_lets -underBinder

theorem execFaultClr_frame {M : Nat} {s0 s : State} {x0 x1} (h : Frame M s0 s)
    (hm : sub 0x7fe0000078000000030000000000000000000000000000000000000000000000000000000000000000000000000 M = true) : FrameR M s0 (execFaultClr x0 x1 s) := by
  unfold execFaultClr
  repeat' first
    | exact sub_trans rfl hm
    | with_reducible assumption
    | with_reducible apply FrameR.of_next
    | with_reducible apply FrameR.whenOk
    | with_reducible apply faultClear_frame

end Sys2Proof.Machine
end

