-- ==== Sys2Proof/Laws/FrameEnvelope.lean ====
section
/-! SUPPORT. Frame lemmas for the functions of Machine/Envelope.lean. -/

set_option Elab.async false
set_option linter.all false

namespace Sys2Proof.Machine

theorem envRecord_frame {M : Nat} {s0 s : State} {x1 x2 x3} (h : Frame M s0 s)
    (hm : sub 0x1000 M = true) : Frame M s0 (envRecord s x1 x2 x3) := by
  unfold envRecord
  repeat' first
    | exact sub_trans rfl hm
    | with_reducible assumption
    | with_reducible apply State.setKite_frame
    | with_reducible apply Frame.ite
    | with_reducible refine Frame.foldl (fun u a hu => ?_) ?_
    | with_reducible refine Frame.foldl_on (get := Prod.fst) (fun u a hu => ?_) ?_
    | with_reducible refine Frame.foldl_on (get := Prod.snd) (fun u a hu => ?_) ?_
    | (intro x; refine (?_ : Frame M s0 x → _) ?_; (intro hx; clear_value x))
    | (intro x; clear_value x)
    | intro _
    | split
    | lift_lets -underBinder

theorem sealEnvelope_frame {M : Nat} {s0 s : State} {x1} (h : Frame M s0 s)
    (hm : sub 0x10c0000000000000000000000000000000000814fbc040000000000000000000000000000000000000000000a011380 M = true) : Frame M s0 (sealEnvelope s x1) := by
  unfold sealEnvelope
  repeat' first
    | exact sub_trans rfl hm
    | with_reducible assumption
    | with_reducible apply State.wr_frame
    | with_reducible apply State.setKite_frame
    | with_reducible apply raise_frame
    | with_reducible apply State.bump_frame
    | with_reducible apply Frame.ite
    | exact has_ENV_SAT_COUNT_SATS rfl hm
    | exact has_ENV_SNAP_STEP_STEP rfl hm
    | exact has_ENV_STAT_SNAP_VALID rfl hm
    | (intro x; refine (?_ : Frame M s0 x → _) ?_; (intro hx; clear_value x))
    | (intro x; clear_value x)
    | intro _
    | split
    | lift_lets -underBinder

theorem clearEnvelope_frame {M : Nat} {s0 s : State} {x1} (h : Frame M s0 s)
    (hm : sub 0x1000 M = true) : Frame M s0 (clearEnvelope s x1) := by
  unfold clearEnvelope
  repeat' first
    | exact sub_trans rfl hm
    | with_reducible assumption
    | with_reducible apply State.setKite_frame

theorem discardEnvelope_frame {M : Nat} {s0 s : State} {x1} (h : Frame M s0 s)
    (hm : sub 0x800000000000000000000000000000000000814fbc040000000000000000000000000000000000000000000a011380 M = true) : Frame M s0 (discardEnvelope s x1) := by
  unfold discardEnvelope
  repeat' first
    | exact sub_trans rfl hm
    | with_reducible assumption
    | with_reducible apply raise_frame
    | with_reducible apply State.bump_frame
    | with_reducible apply clearEnvelope_frame
    | exact has_ENV_DISCARD_DISCARDS rfl hm

theorem envAdvance_frame {M : Nat} {s0 s : State} {x1} (h : Frame M s0 s)
    (hm : sub 0x6000000000000000000000000000000000000000000000000000000000000000000000000000000000000000000000 M = true) : Frame M s0 (envAdvance s x1) := by
  unfold envAdvance
  repeat' first
    | exact sub_trans rfl hm
    | with_reducible assumption
    | with_reducible apply State.wr_frame
    | with_reducible apply Frame.ite
    | exact has_ENV_SEL_TAG rfl hm
    | exact has_ENV_SEL_WORD rfl hm
    | (intro x; refine (?_ : Frame M s0 x → _) ?_; (intro hx; clear_value x))
    | (intro x; clear_value x)
    | intro _
    | split
    | lift_lets -underBinder

theorem envRead_frame {M : Nat} {s0 s : State} {x1} (h : Frame M s0 s)
    (hm : sub 0x6000000000000000000000000000000000000000000000000000000000000000000000000000000000000000000000 M = true) : Frame M s0 (envRead s x1).2 := by
  unfold envRead
  repeat' first
    | exact sub_trans rfl hm
    | with_reducible assumption
    | with_reducible apply envAdvance_frame
    | dsimp only

theorem envRead_frame_eq {M : Nat} {s0 s : State} {x1} {a0 t} (e : envRead s x1 = (a0, t)) (h : Frame M s0 s)
    (hm : sub 0x6000000000000000000000000000000000000000000000000000000000000000000000000000000000000000000000 M = true) : Frame M s0 t := by
  have := envRead_frame (x1 := x1) h hm
  rwa [e] at this

theorem execEnvWin_frame {M : Nat} {s0 s : State} {x0} (h : Frame M s0 s)
    (hm : sub 0x6000000000000000000000000000000000000000000000000000000000000000000000000000000000000020000000 M = true) : FrameR M s0 (execEnvWin x0 s) := by
  unfold execEnvWin
  repeat' first
    | exact sub_trans rfl hm
    | with_reducible assumption
    | with_reducible apply FrameR.of_next
    | with_reducible apply FrameR.whenOk
    | with_reducible apply State.emit_frame
    | with_reducible apply envRead_frame
    | with_reducible apply envRead_frame_eq (by assumption)

end Sys2Proof.Machine
end

