-- ==== Sys2Proof/Laws/FrameArray.lean ====
section
/-! SUPPORT. Frame lemmas for the functions of Machine/Array.lean. -/

set_option Elab.async false
set_option linter.all false

namespace Sys2Proof.Machine

theorem readWsEntry_frame {M : Nat} {s0 s : State} {x1} (h : Frame M s0 s)
    (hm : sub 0x4c68ff8000000000000000000000000001d000832bfc0814fbc040000000000c000000000101c0000000000000000002a132f80 M = true) : Frame M s0 (readWsEntry s x1).2 := by
  unfold readWsEntry
  repeat' first
    | exact sub_trans rfl hm
    | with_reducible assumption
    | with_reducible apply readFor_frame
    | with_reducible apply readFor_frame_eq (by assumption)
    | with_reducible apply chargeRange_frame
    | with_reducible apply Frame.ite
    | (intro x; refine (?_ : Frame M s0 x → _) ?_; (intro hx; clear_value x))
    | (intro x; clear_value x)
    | intro _
    | split
    | lift_lets -underBinder
    | dsimp only

theorem readWsEntry_frame_eq {M : Nat} {s0 s : State} {x1} {a0 t} (e : readWsEntry s x1 = (a0, t)) (h : Frame M s0 s)
    (hm : sub 0x4c68ff8000000000000000000000000001d000832bfc0814fbc040000000000c000000000101c0000000000000000002a132f80 M = true) : Frame M s0 t := by
  have := readWsEntry_frame (x1 := x1) h hm
  rwa [e] at this

theorem acceptArray_frame {M : Nat} {s0 s : State} {x1 x2} (h : Frame M s0 s)
    (hm : sub 0x4c68ff8000007fe0000078000000338001d000832bfc0814fbc040000000000c000000000101c8000000000000000002a133f80 M = true) : Frame M s0 (acceptArray s x1 x2) := by
  unfold acceptArray
  repeat' first
    | exact sub_trans rfl hm
    | with_reducible assumption
    | with_reducible apply issueHead_frame
    | with_reducible apply raise_frame
    | with_reducible apply faultTogether_frame
    | with_reducible apply readWsEntry_frame
    | with_reducible apply readWsEntry_frame_eq (by assumption)
    | with_reducible apply showStream_frame
    | with_reducible apply State.setKite_frame
    | with_reducible apply Frame.ite
    | (intro x; refine (?_ : Frame M s0 x → _) ?_; (intro hx; clear_value x))
    | (intro x; clear_value x)
    | intro _
    | split
    | lift_lets -underBinder

theorem arrayFlags_frame {M : Nat} {s0 s : State} {x1 x2} (h : Frame M s0 s)
    (hm : sub 0x7c000000000000000000000000000000000000000000000000000000000000000000000000000000 M = true) : Frame M s0 (arrayFlags s x1 x2) := by
  unfold arrayFlags
  repeat' first
    | exact sub_trans rfl hm
    | with_reducible assumption
    | with_reducible apply State.wr_frame
    | exact has_ARR_FLAGS_INVALID rfl hm
    | exact has_ARR_FLAGS_NAN_IN rfl hm
    | exact has_ARR_FLAGS_OF rfl hm
    | exact has_ARR_FLAGS_STEP_FLAGS rfl hm
    | exact has_ARR_FLAGS_UF rfl hm

theorem emptyArray_frame {M : Nat} {s0 s : State} {x1} (h : Frame M s0 s)
    (hm : sub 0x7c00030800000000000000814fbc040000000000000000000000008000000000000000000a011380 M = true) : Frame M s0 (emptyArray s x1) := by
  unfold emptyArray
  repeat' first
    | exact sub_trans rfl hm
    | with_reducible assumption
    | with_reducible apply arrayFlags_frame
    | with_reducible apply issueAtOnce_frame
    | with_reducible apply State.setKite_frame
    | (intro x; refine (?_ : Frame M s0 x → _) ?_; (intro hx; clear_value x))
    | (intro x; clear_value x)
    | intro _
    | lift_lets -underBinder

theorem startArray_frame {M : Nat} {s0 s : State} {x1 x2} (h : Frame M s0 s)
    (hm : sub 0x4c68ff8000007fe000007807c000338001d000832bfc0814fbc040000000000c000000000101c8000000000000000002a133f80 M = true) : Frame M s0 (startArray s x1 x2) := by
  unfold startArray
  repeat' first
    | exact sub_trans rfl hm
    | with_reducible assumption
    | with_reducible apply fetchHead_frame
    | with_reducible apply emptyArray_frame
    | with_reducible apply acceptArray_frame
    | with_reducible apply Frame.ite
    | (intro x; refine (?_ : Frame M s0 x → _) ?_; (intro hx; clear_value x))
    | (intro x; clear_value x)
    | intro _
    | split
    | lift_lets -underBinder

theorem loadOperand_frame {M : Nat} {s0 s : State} {x1 x2 x3 x4} (h : Frame M s0 s)
    (hm : sub 0x7fe000047818210403800000000000008814fbc040000000000000000000010180000000000000000002a013380 M = true) : Frame M s0 (loadOperand s x1 x2 x3 x4) := by
  unfold loadOperand
  repeat' first
    | exact sub_trans rfl hm
    | with_reducible assumption
    | with_reducible apply State.bump64_frame
    | with_reducible apply opFault_frame
    | with_reducible apply meetErrors_frame
    | with_reducible apply meetErrors_frame_eq (by assumption)
    | with_reducible apply faultSpUe_frame
    | with_reducible apply State.bump_frame
    | with_reducible apply State.wr_frame
    | with_reducible apply State.setKite_frame
    | with_reducible apply Frame.ite
    | exact has_ARR_STATUS_LOAD_ROW rfl hm
    | exact has_ARR_STATUS_SHADOW_STATE rfl hm
    | exact has_STAT_LOADS_HI rfl hm
    | exact has_STAT_LOADS_LO rfl hm
    | exact has_TBL_FILLS_FILLS rfl hm
    | (intro x; refine (?_ : Frame M s0 x → _) ?_; (intro hx; clear_value x))
    | (intro x; clear_value x)
    | intro _
    | split
    | lift_lets -underBinder

theorem loadStationary_frame {M : Nat} {s0 s : State} {x1 x2} (h : Frame M s0 s)
    (hm : sub 0x7fe000047818210403800000000000008814fbc040000000000000000000010180000000000000000002a013380 M = true) : Frame M s0 (loadStationary s x1 x2) := by
  unfold loadStationary
  repeat' first
    | exact sub_trans rfl hm
    | with_reducible assumption
    | with_reducible apply loadOperand_frame
    | with_reducible apply opFault_frame
    | with_reducible apply raise_frame
    | split

theorem execStationaryLoad_frame {M : Nat} {s0 s : State} {x0 x1} (h : Frame M s0 s)
    (hm : sub 0x7fe000047818210403800000000000008814fbc040000000000000000000010180000000000000000002a013380 M = true) : FrameR M s0 (execStationaryLoad x0 x1 s) := by
  unfold execStationaryLoad
  repeat' first
    | exact sub_trans rfl hm
    | with_reducible assumption
    | with_reducible apply FrameR.of_next
    | with_reducible apply FrameR.whenOk
    | with_reducible apply loadStationary_frame

theorem swapTiles_frame {M : Nat} {s0 s : State} {x1} (h : Frame M s0 s)
    (hm : sub 0x3e00000000000000000000000000000000000000000000000000000000000000000000000001000 M = true) : Frame M s0 (swapTiles s x1) := by
  unfold swapTiles
  repeat' first
    | exact sub_trans rfl hm
    | with_reducible assumption
    | with_reducible apply State.wr_frame
    | with_reducible apply State.setKite_frame
    | exact has_ARR_STATUS_LIVE_BRIDLE rfl hm
    | exact has_ARR_STATUS_LIVE_PROFILE rfl hm
    | exact has_ARR_STATUS_LIVE_SHAPE rfl hm
    | exact has_ARR_STATUS_LIVE_VALID rfl hm
    | exact has_ARR_STATUS_SHADOW_STATE rfl hm
    | split

theorem execTileSwap_frame {M : Nat} {s0 s : State} {x0} (h : Frame M s0 s)
    (hm : sub 0x3e00000000000000000000000000000000000000000000000000000000000000000000000001000 M = true) : FrameR M s0 (execTileSwap x0 s) := by
  unfold execTileSwap
  repeat' first
    | exact sub_trans rfl hm
    | with_reducible assumption
    | with_reducible apply FrameR.of_next
    | with_reducible apply FrameR.whenOk
    | with_reducible apply swapTiles_frame

theorem enterColumn_frame {M : Nat} {s0 s : State} {x1 x2 x3 x4 x5 x6} (h : Frame M s0 s)
    (hm : sub 0x1000 M = true) : Frame M s0 (enterColumn s x1 x2 x3 x4 x5 x6).1 := by
  unfold enterColumn
  repeat' first
    | exact sub_trans rfl hm
    | with_reducible assumption
    | with_reducible apply State.spWrite_frame
    | with_reducible refine Frame.foldl (fun u a hu => ?_) ?_
    | with_reducible refine Frame.foldl_on (get := Prod.fst) (fun u a hu => ?_) ?_
    | with_reducible refine Frame.foldl_on (get := Prod.snd) (fun u a hu => ?_) ?_
    | (intro x; refine (?_ : Frame M s0 x → _) ?_; (intro hx; clear_value x))
    | (intro x; clear_value x)
    | intro _
    | lift_lets -underBinder
    | dsimp only

theorem enterColumn_frame_eq {M : Nat} {s0 s : State} {x1 x2 x3 x4 x5 x6} {t a1} (e : enterColumn s x1 x2 x3 x4 x5 x6 = (t, a1)) (h : Frame M s0 s)
    (hm : sub 0x1000 M = true) : Frame M s0 t := by
  have := enterColumn_frame (x1 := x1) (x2 := x2) (x3 := x3) (x4 := x4) (x5 := x5) (x6 := x6) h hm
  rwa [e] at this

theorem escOverrun_frame {M : Nat} {s0 s : State} {x1 x2 x3 x4 x5} (h : Frame M s0 s)
    (hm : sub 0x7fe000007800000003800000000000000814fbc040000000000000000000010180000000000000000002a013380 M = true) : Frame M s0 (escOverrun s x1 x2 x3 x4 x5) := by
  unfold escOverrun
  repeat' first
    | exact sub_trans rfl hm
    | with_reducible assumption
    | with_reducible apply kiteFault_frame
    | with_reducible apply raise_frame
    | with_reducible apply Frame.ite
    | (intro x; refine (?_ : Frame M s0 x → _) ?_; (intro hx; clear_value x))
    | (intro x; clear_value x)
    | intro _
    | split
    | lift_lets -underBinder

theorem arrayEvents_frame {M : Nat} {s0 s : State} {x1 x2} (h : Frame M s0 s)
    (hm : sub 0x814fbc040000000000000000000000000000000000000000000a010380 M = true) : Frame M s0 (arrayEvents s x1 x2) := by
  unfold arrayEvents
  repeat' first
    | exact sub_trans rfl hm
    | with_reducible assumption
    | with_reducible apply raise_frame
    | with_reducible apply Frame.ite
    | (intro x; refine (?_ : Frame M s0 x → _) ?_; (intro hx; clear_value x))
    | (intro x; clear_value x)
    | intro _
    | split
    | lift_lets -underBinder

theorem runColumns_frame {M : Nat} {s0 s : State} {x1 x2 x3 x4} (h : Frame M s0 s)
    (hm : sub 0x38060000000000000000000000814fbc040000000000000000000000000000000000000000000a011380 M = true) : Frame M s0 (runColumns s x1 x2 x3 x4).1 := by
  unfold runColumns
  repeat' first
    | exact sub_trans rfl hm
    | with_reducible assumption
    | with_reducible apply enterColumn_frame
    | with_reducible apply enterColumn_frame_eq (by assumption)
    | with_reducible apply State.bump_frame
    | with_reducible apply State.bump64_frame
    | with_reducible apply envRecord_frame
    | with_reducible apply arrayEvents_frame
    | with_reducible refine Frame.foldl (fun u a hu => ?_) ?_
    | with_reducible refine Frame.foldl_on (get := Prod.fst) (fun u a hu => ?_) ?_
    | with_reducible refine Frame.foldl_on (get := Prod.snd) (fun u a hu => ?_) ?_
    | exact has_ESC_SUBST_SUBSTS rfl hm
    | exact has_SLICE_SKIP_HI rfl hm
    | exact has_SLICE_SKIP_LO rfl hm
    | exact has_STREAM_COLS_HI rfl hm
    | exact has_STREAM_COLS_LO rfl hm
    | (intro x; refine (?_ : Frame M s0 x → _) ?_; (intro hx; clear_value x))
    | (intro x; clear_value x)
    | intro _
    | lift_lets -underBinder
    | dsimp only

theorem runColumns_frame_eq {M : Nat} {s0 s : State} {x1 x2 x3 x4} {t a1} (e : runColumns s x1 x2 x3 x4 = (t, a1)) (h : Frame M s0 s)
    (hm : sub 0x38060000000000000000000000814fbc040000000000000000000000000000000000000000000a011380 M = true) : Frame M s0 t := by
  have := runColumns_frame (x1 := x1) (x2 := x2) (x3 := x3) (x4 := x4) h hm
  rwa [e] at this

theorem finishStream_frame {M : Nat} {s0 s : State} {x1 x2 x3 x4} (h : Frame M s0 s)
    (hm : sub 0x108000000000000000000000000000000000000000000000000000000000000000000001000 M = true) : Frame M s0 (finishStream s x1 x2 x3 x4) := by
  unfold finishStream
  repeat' first
    | exact sub_trans rfl hm
    | with_reducible assumption
    | with_reducible apply showStream_frame
    | with_reducible apply State.setKite_frame
    | (intro x; refine (?_ : Frame M s0 x → _) ?_; (intro hx; clear_value x))
    | (intro x; clear_value x)
    | intro _
    | lift_lets -underBinder

theorem countBubbles_frame {M : Nat} {s0 s : State} {x1 x2} (h : Frame M s0 s)
    (hm : sub 0x80000000000000000000000814fbc040000000000000000000000000000000000000000000a010380 M = true) : Frame M s0 (countBubbles s x1 x2) := by
  unfold countBubbles
  repeat' first
    | exact sub_trans rfl hm
    | with_reducible assumption
    | with_reducible apply raiseTimes_frame
    | with_reducible apply State.bump_frame
    | exact has_WEIGHT_BUBBLES_BUBBLES rfl hm

theorem fetchStream_frame {M : Nat} {s0 s : State} {x1 x2} (h : Frame M s0 s)
    (hm : sub 0xbfc0814fbc040000000000000000000000000000000000000000000a010f80 M = true) : Frame M s0 (fetchStream s x1 x2).2 := by
  unfold fetchStream
  repeat' first
    | exact sub_trans rfl hm
    | with_reducible assumption
    | with_reducible apply memRead_frame
    | with_reducible apply memRead_frame_eq (by assumption)
    | with_reducible apply chargeRange_frame
    | with_reducible apply Frame.ite
    | split
    | dsimp only

theorem fetchStream_frame_eq {M : Nat} {s0 s : State} {x1 x2} {a0 t} (e : fetchStream s x1 x2 = (a0, t)) (h : Frame M s0 s)
    (hm : sub 0xbfc0814fbc040000000000000000000000000000000000000000000a010f80 M = true) : Frame M s0 t := by
  have := fetchStream_frame (x1 := x1) (x2 := x2) h hm
  rwa [e] at this

theorem streamTile_frame {M : Nat} {s0 s : State} {x1 x2 x3 x4} (h : Frame M s0 s)
    (hm : sub 0x4c68ff8000007fe00003f8e00004138001d000832bfc8814fbc040000000000c000000000101c0000000000000000002a133f80 M = true) : Frame M s0 (streamTile s x1 x2 x3 x4) := by
  unfold streamTile
  repeat' first
    | exact sub_trans rfl hm
    | with_reducible assumption
    | with_reducible apply faultTogether_frame
    | with_reducible apply raise_frame
    | with_reducible apply fetchStream_frame
    | with_reducible apply fetchStream_frame_eq (by assumption)
    | with_reducible apply meetErrors_frame
    | with_reducible apply meetErrors_frame_eq (by assumption)
    | with_reducible apply faultSpUe_frame
    | with_reducible apply runColumns_frame
    | with_reducible apply runColumns_frame_eq (by assumption)
    | with_reducible apply countBubbles_frame
    | with_reducible apply losesData_frame
    | with_reducible apply uncorrectableRead_frame
    | with_reducible apply escOverrun_frame
    | with_reducible apply finishStream_frame
    | with_reducible apply Frame.ite
    | with_reducible refine Frame.foldl (fun u a hu => ?_) ?_
    | with_reducible refine Frame.foldl_on (get := Prod.fst) (fun u a hu => ?_) ?_
    | with_reducible refine Frame.foldl_on (get := Prod.snd) (fun u a hu => ?_) ?_
    | (intro x; refine (?_ : Frame M s0 x → _) ?_; (intro hx; clear_value x))
    | (intro x; clear_value x)
    | intro _
    | split
    | lift_lets -underBinder

theorem streamLive_frame {M : Nat} {s0 s : State} {x1 x2 x3} (h : Frame M s0 s)
    (hm : sub 0x4c68ff8000007fe00003f8e00004138001d000832bfc8814fbc040000000000c000000000101c0000000000000000002a133f80 M = true) : Frame M s0 (streamLive s x1 x2 x3) := by
  unfold streamLive
  repeat' first
    | exact sub_trans rfl hm
    | with_reducible assumption
    | with_reducible apply streamTile_frame
    | split

theorem execArrayOp_frame {M : Nat} {s0 s : State} {x0 x1} (h : Frame M s0 s)
    (hm : sub 0x4c68ff8000007fe00003f8e7c004338001d000832bfc8814fbc040000000000c000000000101c8000000000000000002a133f80 M = true) : FrameR M s0 (execArrayOp x0 x1 s) := by
  unfold execArrayOp
  repeat' first
    | exact sub_trans rfl hm
    | with_reducible assumption
    | with_reducible apply FrameR.of_next
    | with_reducible apply FrameR.whenOk
    | with_reducible apply startArray_frame
    | with_reducible apply streamLive_frame
    | split

theorem completeArray_frame {M : Nat} {s0 s : State} {n} (h : Frame M s0 s)
    (hm : sub 0x7d00010800000000000000814fbc040000000000000000000000000000000000000000000a011380 M = true) : Frame M s0 (completeArray s n) := by
  unfold completeArray
  dsimp only
  cases (s.kite n).arr with
  | nil => exact h
  | cons r rest =>
    repeat' first
    | exact sub_trans rfl hm
    | exact has_ARR_STATUS_LIVE_VALID rfl hm
    | with_reducible assumption
    | with_reducible apply showStream_frame
    | with_reducible apply completeRun_frame
    | with_reducible apply arrayFlags_frame
    | with_reducible apply State.setKite_frame
    | with_reducible apply State.wr_frame
    | with_reducible apply Frame.ite

end Sys2Proof.Machine
end

