-- ==== Sys2Proof/Laws/FrameEventCtl.lean ====
section
/-! SUPPORT. Frame lemmas for the functions of Machine/EventCtl.lean. -/

set_option Elab.async false
set_option linter.all false

namespace Sys2Proof.Machine

theorem deliverTo_frame {M : Nat} {s0 s : State} {x1 x2} (h : Frame M s0 s)
    (hm : sub 0x100 M = true) : Frame M s0 (deliverTo s x1 x2) := by
  unfold deliverTo
  repeat' first
    | exact sub_trans rfl hm
    | with_reducible assumption
    | (intro x; refine (?_ : Frame M s0 x → _) ?_; (intro hx; clear_value x))
    | (intro x; clear_value x)
    | intro _
    | lift_lets -underBinder
    | with_reducible apply Frame.with_ec

theorem deliver_frame {M : Nat} {s0 s : State} (h : Frame M s0 s)
    (hm : sub 0x100 M = true) : Frame M s0 (deliver s) := by
  unfold deliver
  repeat' first
    | exact sub_trans rfl hm
    | with_reducible assumption
    | with_reducible apply deliverTo_frame
    | split

theorem execEcDeliver_frame {M : Nat} {s0 s : State} (h : Frame M s0 s)
    (hm : sub 0x100 M = true) : FrameR M s0 (execEcDeliver s) := by
  unfold execEcDeliver
  repeat' first
    | exact sub_trans rfl hm
    | with_reducible assumption
    | with_reducible apply FrameR.of_next
    | with_reducible apply FrameR.whenOk
    | with_reducible apply deliver_frame

theorem freeClaim_frame {M : Nat} {s0 s : State} {x1 x2} (h : Frame M s0 s)
    (hm : sub 0x14fbc0400000000000000000000000000000000000000000002010380 M = true) : Frame M s0 (freeClaim s x1 x2) := by
  unfold freeClaim
  repeat' first
    | exact sub_trans rfl hm
    | with_reducible assumption
    | with_reducible apply sampleSource_frame
    | with_reducible apply Frame.with_ec

theorem endOfInterrupt_frame {M : Nat} {s0 s : State} {x1 x2} (h : Frame M s0 s)
    (hm : sub 0x814fbc040000000000000000020000000000000000000000000a010380 M = true) : Frame M s0 (endOfInterrupt s x1 x2) := by
  unfold endOfInterrupt
  repeat' first
    | exact sub_trans rfl hm
    | with_reducible assumption
    | with_reducible apply freeClaim_frame
    | with_reducible apply raise_frame
    | with_reducible apply State.bump_frame
    | with_reducible apply Frame.ite
    | exact has_STRAY_EOI_COUNT rfl hm
    | split

theorem execEcEoi_frame {M : Nat} {s0 s : State} {x0 x1} (h : Frame M s0 s)
    (hm : sub 0x814fbc040000000000000000020000000000000000000000000a010380 M = true) : FrameR M s0 (execEcEoi x0 x1 s) := by
  unfold execEcEoi
  repeat' first
    | exact sub_trans rfl hm
    | with_reducible assumption
    | with_reducible apply FrameR.of_next
    | with_reducible apply FrameR.whenOk
    | with_reducible apply endOfInterrupt_frame

theorem releaseCore_frame {M : Nat} {s0 s : State} {x1} (h : Frame M s0 s)
    (hm : sub 0x14fbc0400000000000000000000000000000000000000000002010380 M = true) : Frame M s0 (releaseCore s x1) := by
  unfold releaseCore
  repeat' first
    | exact sub_trans rfl hm
    | with_reducible assumption
    | with_reducible apply freeClaim_frame
    | with_reducible apply pendSource_frame
    | with_reducible apply Frame.ite
    | (intro x; refine (?_ : Frame M s0 x → _) ?_; (intro hx; clear_value x))
    | (intro x; clear_value x)
    | intro _
    | split
    | lift_lets -underBinder

theorem writeCoreEn_frame {M : Nat} {s0 s : State} {x1} (h : Frame M s0 s)
    (hm : sub 0x14fbc0400000000000000000100000000000000000000000002010380 M = true) : Frame M s0 (writeCoreEn s x1) := by
  unfold writeCoreEn
  repeat' first
    | exact sub_trans rfl hm
    | with_reducible assumption
    | with_reducible apply State.wr_frame
    | with_reducible apply releaseCore_frame
    | with_reducible apply Frame.ite
    | with_reducible refine Frame.foldl (fun u a hu => ?_) ?_
    | with_reducible refine Frame.foldl_on (get := Prod.fst) (fun u a hu => ?_) ?_
    | with_reducible refine Frame.foldl_on (get := Prod.snd) (fun u a hu => ?_) ?_
    | exact has_EC_CORE_CORE_EN rfl hm
    | (intro x; refine (?_ : Frame M s0 x → _) ?_; (intro hx; clear_value x))
    | (intro x; clear_value x)
    | intro _
    | split
    | lift_lets -underBinder

theorem execEcCore_frame {M : Nat} {s0 s : State} {x0} (h : Frame M s0 s)
    (hm : sub 0x14fbc0400000000000000000100000000000000000000000002010380 M = true) : FrameR M s0 (execEcCore x0 s) := by
  unfold execEcCore
  repeat' first
    | exact sub_trans rfl hm
    | with_reducible assumption
    | with_reducible apply FrameR.of_next
    | with_reducible apply FrameR.whenOk
    | with_reducible apply writeCoreEn_frame

theorem setTimerCmp_frame {M : Nat} {s0 s : State} {x1 x2} (h : Frame M s0 s)
    (hm : sub 0x6000000000000000000000000000000000 M = true) : Frame M s0 (setTimerCmp s x1 x2) := by
  unfold setTimerCmp
  repeat' first
    | exact sub_trans rfl hm
    | with_reducible assumption
    | with_reducible apply State.wr_frame
    | exact has_EC_TMR_CMP_HI_CMP rfl hm
    | exact has_EC_TMR_CMP_LO_CMP rfl hm

theorem fireTimer_frame {M : Nat} {s0 s : State} {x1} (h : Frame M s0 s)
    (hm : sub 0x14fbc040000000000000000e000000000000000000030000002010382 M = true) : Frame M s0 (fireTimer s x1) := by
  unfold fireTimer
  repeat' first
    | exact sub_trans rfl hm
    | with_reducible assumption
    | with_reducible apply State.passTo_frame
    | with_reducible apply State.wr_frame
    | with_reducible apply setTimerCmp_frame
    | with_reducible apply pendSource_frame
    | with_reducible apply Frame.ite
    | exact has_EC_TMR_EN_EN rfl hm
    | (intro x; refine (?_ : Frame M s0 x → _) ?_; (intro hx; clear_value x))
    | (intro x; clear_value x)
    | intro _
    | split
    | lift_lets -underBinder

theorem execEcTimer_frame {M : Nat} {s0 s : State} {x0} (h : Frame M s0 s)
    (hm : sub 0x14fbc040000000000000000e000000000000000000030000002010382 M = true) : FrameR M s0 (execEcTimer x0 s) := by
  unfold execEcTimer
  repeat' first
    | exact sub_trans rfl hm
    | with_reducible assumption
    | with_reducible apply FrameR.of_next
    | with_reducible apply FrameR.whenOk
    | with_reducible apply fireTimer_frame

theorem pinMoves_frame {M : Nat} {s0 s : State} {y0 x2} (h : Frame M s0 s)
    (hm : sub 0x14fbc0400000000000000001000000000000000000000000002010380 M = true) : Frame M s0 (pinMoves y0 s x2) := by
  unfold pinMoves
  repeat' first
    | exact sub_trans rfl hm
    | with_reducible assumption
    | with_reducible apply State.bump_frame
    | with_reducible apply sampleSource_frame
    | with_reducible apply pendSource_frame
    | with_reducible apply Frame.ite
    | exact has_PIN_EDGES_COUNT rfl hm
    | (intro x; refine (?_ : Frame M s0 x → _) ?_; (intro hx; clear_value x))
    | (intro x; clear_value x)
    | intro _
    | split
    | lift_lets -underBinder

theorem pinHeld_frame {M : Nat} {s0 s : State} {x1 x2 x3} (h : Frame M s0 s)
    (hm : sub 0x814fbc040000000000000000180000000000000000000000000a010380 M = true) : Frame M s0 (pinHeld s x1 x2 x3) := by
  unfold pinHeld
  repeat' first
    | exact sub_trans rfl hm
    | with_reducible assumption
    | with_reducible apply raise_frame
    | with_reducible apply State.bump_frame
    | with_reducible apply pinMoves_frame
    | with_reducible apply Frame.ite
    | exact has_GLITCH_REJ_COUNT rfl hm
    | split
    | with_reducible apply Frame.with_ec

theorem execPinInput_frame {M : Nat} {s0 s : State} {x0 x1 x2} (h : Frame M s0 s)
    (hm : sub 0x814fbc040000000000000000180000000000000000000000000a010380 M = true) : FrameR M s0 (execPinInput x0 x1 x2 s) := by
  unfold execPinInput
  repeat' first
    | exact sub_trans rfl hm
    | with_reducible assumption
    | with_reducible apply FrameR.of_next
    | with_reducible apply FrameR.whenOk
    | with_reducible apply pinHeld_frame

theorem writePend_frame {M : Nat} {s0 s : State} {x1 x2 x3} (h : Frame M s0 s)
    (hm : sub 0x814fbc040000000000000000000000000000000000000000000a010380 M = true) : Frame M s0 (writePend s x1 x2 x3) := by
  unfold writePend
  repeat' first
    | exact sub_trans rfl hm
    | with_reducible assumption
    | with_reducible apply State.setHdr_frame
    | with_reducible apply raise_frame
    | with_reducible apply samplePage_frame
    | with_reducible refine Frame.foldl (fun u a hu => ?_) ?_
    | with_reducible refine Frame.foldl_on (get := Prod.fst) (fun u a hu => ?_) ?_
    | with_reducible refine Frame.foldl_on (get := Prod.snd) (fun u a hu => ?_) ?_
    | (intro x; refine (?_ : Frame M s0 x → _) ?_; (intro hx; clear_value x))
    | (intro x; clear_value x)
    | intro _
    | lift_lets -underBinder

theorem execEvtPend_frame {M : Nat} {s0 s : State} {x0 x1 x2} (h : Frame M s0 s)
    (hm : sub 0x814fbc040000000000000000000000000000000000000000000a010380 M = true) : FrameR M s0 (execEvtPend x0 x1 x2 s) := by
  unfold execEvtPend
  repeat' first
    | exact sub_trans rfl hm
    | with_reducible assumption
    | with_reducible apply FrameR.of_next
    | with_reducible apply FrameR.whenOk
    | with_reducible apply writePend_frame
    | split

theorem writeMask_frame {M : Nat} {s0 s : State} {x1 x2} (h : Frame M s0 s)
    (hm : sub 0x14fbc0400000000000000000000000000000000000000000002010380 M = true) : Frame M s0 (writeMask s x1 x2) := by
  unfold writeMask
  repeat' first
    | exact sub_trans rfl hm
    | with_reducible assumption
    | with_reducible apply samplePage_frame
    | with_reducible apply State.setHdr_frame

theorem writeEcPend_frame {M : Nat} {s0 s : State} {x1 x2} (h : Frame M s0 s)
    (hm : sub 0x14fbc0400000000000000000000000000000000000000000002010380 M = true) : Frame M s0 (writeEcPend s x1 x2) := by
  unfold writeEcPend
  repeat' first
    | exact sub_trans rfl hm
    | with_reducible assumption
    | with_reducible apply sampleSource_frame
    | with_reducible apply pendSource_frame
    | with_reducible apply Frame.ite
    | with_reducible refine Frame.foldl (fun u a hu => ?_) ?_
    | with_reducible refine Frame.foldl_on (get := Prod.fst) (fun u a hu => ?_) ?_
    | with_reducible refine Frame.foldl_on (get := Prod.snd) (fun u a hu => ?_) ?_
    | (intro x; refine (?_ : Frame M s0 x → _) ?_; (intro hx; clear_value x))
    | (intro x; clear_value x)
    | intro _
    | split
    | lift_lets -underBinder
    | with_reducible apply Frame.with_ec

theorem execEcPend_frame {M : Nat} {s0 s : State} {x0 x1} (h : Frame M s0 s)
    (hm : sub 0x14fbc0400000000000000000000000000000000000000000002010380 M = true) : FrameR M s0 (execEcPend x0 x1 s) := by
  unfold execEcPend
  repeat' first
    | exact sub_trans rfl hm
    | with_reducible assumption
    | with_reducible apply FrameR.of_next
    | with_reducible apply FrameR.whenOk
    | with_reducible apply writeEcPend_frame

theorem writeEcMask_frame {M : Nat} {s0 s : State} {x1 x2} (h : Frame M s0 s)
    (hm : sub 0x814fbc040000000000000000040000000000000000000000000a010380 M = true) : Frame M s0 (writeEcMask s x1 x2) := by
  unfold writeEcMask
  repeat' first
    | exact sub_trans rfl hm
    | with_reducible assumption
    | with_reducible apply raise_frame
    | with_reducible apply State.bump_frame
    | with_reducible apply Frame.ite
    | with_reducible refine Frame.foldl (fun u a hu => ?_) ?_
    | with_reducible refine Frame.foldl_on (get := Prod.fst) (fun u a hu => ?_) ?_
    | with_reducible refine Frame.foldl_on (get := Prod.snd) (fun u a hu => ?_) ?_
    | exact has_LATE_MASK_COUNT rfl hm
    | (intro x; refine (?_ : Frame M s0 x → _) ?_; (intro hx; clear_value x))
    | (intro x; clear_value x)
    | intro _
    | split
    | lift_lets -underBinder
    | with_reducible apply Frame.with_ec

theorem cfgAdvance_frame {M : Nat} {s0 s : State} (h : Frame M s0 s)
    (hm : sub 0x80000000000000000000000000000000 M = true) : Frame M s0 (cfgAdvance s) := by
  unfold cfgAdvance
  repeat' first
    | exact sub_trans rfl hm
    | with_reducible assumption
    | with_reducible apply State.wr_frame
    | with_reducible apply Frame.ite
    | exact has_EC_SEL_SRC rfl hm
    | split

theorem cfgRead_frame {M : Nat} {s0 s : State} (h : Frame M s0 s)
    (hm : sub 0x80000000000000000000000000000000 M = true) : Frame M s0 (cfgRead s).2 := by
  unfold cfgRead
  repeat' first
    | exact sub_trans rfl hm
    | with_reducible assumption
    | with_reducible apply cfgAdvance_frame
    | dsimp only

theorem cfgRead_frame_eq {M : Nat} {s0 s : State} {a0 t} (e : cfgRead s = (a0, t)) (h : Frame M s0 s)
    (hm : sub 0x80000000000000000000000000000000 M = true) : Frame M s0 t := by
  have := cfgRead_frame  h hm
  rwa [e] at this

theorem cfgWrite_frame {M : Nat} {s0 s : State} {x1} (h : Frame M s0 s)
    (hm : sub 0x814fbc040000000000000000108000000000000000000000000a010380 M = true) : Frame M s0 (cfgWrite s x1) := by
  unfold cfgWrite
  repeat' first
    | exact sub_trans rfl hm
    | with_reducible assumption
    | with_reducible apply cfgAdvance_frame
    | with_reducible apply pinMoves_frame
    | with_reducible apply sampleSource_frame
    | with_reducible apply refuse_frame
    | with_reducible apply Frame.ite
    | (intro x; refine (?_ : Frame M s0 x → _) ?_; (intro hx; clear_value x))
    | (intro x; clear_value x)
    | intro _
    | split
    | lift_lets -underBinder
    | with_reducible apply Frame.with_ec

theorem execEcCfg_frame {M : Nat} {s0 s : State} {x0} (h : Frame M s0 s)
    (hm : sub 0x814fbc040000000000000000108000000000000000000000002a010380 M = true) : FrameR M s0 (execEcCfg x0 s) := by
  unfold execEcCfg
  repeat' first
    | exact sub_trans rfl hm
    | with_reducible assumption
    | with_reducible apply FrameR.of_next
    | with_reducible apply FrameR.whenOk
    | with_reducible apply State.emit_frame
    | with_reducible apply cfgRead_frame
    | with_reducible apply cfgRead_frame_eq (by assumption)
    | with_reducible apply cfgWrite_frame
    | split

end Sys2Proof.Machine
end

