-- ==== Sys2Proof/Laws/FrameVector.lean ====
section
/-! SUPPORT. Frame lemmas for the functions of Machine/Vector.lean. -/

set_option Elab.async false
set_option linter.all false

namespace Sys2Proof.Machine

theorem writePacked_frame {M : Nat} {s0 s : State} {x1 x2 x3 x4} (h : Frame M s0 s)
    (hm : sub 0x1000 M = true) : Frame M s0 (writePacked s x1 x2 x3 x4) := by
  unfold writePacked
  repeat' first
    | exact sub_trans rfl hm
    | with_reducible assumption
    | with_reducible apply State.spWrite_frame
    | (intro x; refine (?_ : Frame M s0 x → _) ?_; (intro hx; clear_value x))
    | (intro x; clear_value x)
    | intro _
    | lift_lets -underBinder

theorem vecFlags_frame {M : Nat} {s0 s : State} {x1 x2} (h : Frame M s0 s)
    (hm : sub 0x3f00000000000000000000000000000000000000000000000000000000000000000000000000000000000000 M = true) : Frame M s0 (vecFlags s x1 x2) := by
  unfold vecFlags
  repeat' first
    | exact sub_trans rfl hm
    | with_reducible assumption
    | with_reducible apply State.wr_frame
    | exact has_VEC_FLAGS_DZ rfl hm
    | exact has_VEC_FLAGS_INVALID rfl hm
    | exact has_VEC_FLAGS_NAN_IN rfl hm
    | exact has_VEC_FLAGS_OF rfl hm
    | exact has_VEC_FLAGS_STEP_FLAGS rfl hm
    | exact has_VEC_FLAGS_UF rfl hm

theorem countClips_frame {M : Nat} {s0 s : State} {x1 x2} (h : Frame M s0 s)
    (hm : sub 0x400000000000000000000000000000814fbc040000000000000000000000000000000000000000000a010380 M = true) : Frame M s0 (countClips s x1 x2) := by
  unfold countClips
  repeat' first
    | exact sub_trans rfl hm
    | with_reducible assumption
    | with_reducible apply raise_frame
    | with_reducible apply State.bump_frame
    | with_reducible apply Frame.ite
    | exact has_VEC_CLIPS_CLIPS rfl hm
    | split

theorem writeResults_frame {M : Nat} {s0 s : State} {x1 x2 x3} (h : Frame M s0 s)
    (hm : sub 0x1c00000000000000000000000000000814fbc040000000000000000000000000000000000000000000a011380 M = true) : Frame M s0 (writeResults s x1 x2 x3) := by
  unfold writeResults
  repeat' first
    | exact sub_trans rfl hm
    | with_reducible assumption
    | with_reducible apply writePacked_frame
    | with_reducible apply State.spWrite_frame
    | with_reducible apply countClips_frame
    | with_reducible apply State.bump64_frame
    | with_reducible apply envRecord_frame
    | with_reducible apply Frame.ite
    | exact has_VEC_ELEMS_HI rfl hm
    | exact has_VEC_ELEMS_LO rfl hm
    | (intro x; refine (?_ : Frame M s0 x → _) ?_; (intro hx; clear_value x))
    | (intro x; clear_value x)
    | intro _
    | split
    | lift_lets -underBinder

theorem writeDraws_frame {M : Nat} {s0 s : State} {x1 x2 x3} (h : Frame M s0 s)
    (hm : sub 0x18000000000000000000000000000000000000000000000000000000000000000000000000000000000001000 M = true) : Frame M s0 (writeDraws s x1 x2 x3) := by
  unfold writeDraws
  repeat' first
    | exact sub_trans rfl hm
    | with_reducible assumption
    | with_reducible apply State.bump64_frame
    | with_reducible apply State.spWrite_frame
    | exact has_VEC_ELEMS_HI rfl hm
    | exact has_VEC_ELEMS_LO rfl hm
    | (intro x; refine (?_ : Frame M s0 x → _) ?_; (intro hx; clear_value x))
    | (intro x; clear_value x)
    | intro _
    | lift_lets -underBinder

theorem takeTrap_frame {M : Nat} {s0 s : State} {x1 x2 x3 x4 x5 x6 x7} (h : Frame M s0 s)
    (hm : sub 0xffe000007800000003800000000000000814fbc040000000000000000000010180000000000000000002a013380 M = true) : Frame M s0 (takeTrap s x1 x2 x3 x4 x5 x6 x7) := by
  unfold takeTrap
  repeat' first
    | exact sub_trans rfl hm
    | with_reducible assumption
    | with_reducible apply setTrap_frame
    | with_reducible apply raise_frame
    | with_reducible apply State.bump_frame
    | with_reducible apply stopOrTrip_frame
    | with_reducible apply rung_frame
    | with_reducible apply kiteFaultLatch_frame
    | with_reducible apply Frame.ite
    | exact has_NAN_TRAPS_TRAPS rfl hm
    | (intro x; refine (?_ : Frame M s0 x → _) ?_; (intro hx; clear_value x))
    | (intro x; clear_value x)
    | intro _
    | split
    | lift_lets -underBinder

theorem vecStatus_frame {M : Nat} {s0 s : State} {x1 x2 x3} (h : Frame M s0 s)
    (hm : sub 0xe0000000000000000000000000000000000000000000000000000000000000000000000000000000000000 M = true) : Frame M s0 (vecStatus s x1 x2 x3) := by
  unfold vecStatus
  repeat' first
    | exact sub_trans rfl hm
    | with_reducible assumption
    | with_reducible apply State.wr_frame
    | exact has_VEC_STATUS_BUSY rfl hm
    | exact has_VEC_STATUS_ELEM rfl hm
    | exact has_VEC_STATUS_VOP rfl hm

theorem storeVector_frame {M : Nat} {s0 s : State} {x1 x2 x3 x4 x5} (h : Frame M s0 s)
    (hm : sub 0xfffff2007800000013800000000000000814fbc040000000000000000000010180000000000000000002a013380 M = true) : Frame M s0 (storeVector s x1 x2 x3 x4 x5) := by
  unfold storeVector
  repeat' first
    | exact sub_trans rfl hm
    | with_reducible assumption
    | with_reducible apply writeDraws_frame
    | with_reducible apply showStream_frame
    | with_reducible apply State.setKite_frame
    | with_reducible apply writeResults_frame
    | with_reducible apply takeTrap_frame
    | with_reducible apply vecFlags_frame
    | with_reducible apply State.wr_frame
    | with_reducible apply Frame.ite
    | exact has_VEC_STATUS_BUSY rfl hm
    | (intro x; refine (?_ : Frame M s0 x → _) ?_; (intro hx; clear_value x))
    | (intro x; clear_value x)
    | intro _
    | split
    | lift_lets -underBinder

theorem runVector_frame {M : Nat} {s0 s : State} {x1 x2 x3 x4 x5} (h : Frame M s0 s)
    (hm : sub 0xfffffe007800000413800000000000008814fbc040000000000000000000010180000000000000000002a013380 M = true) : Frame M s0 (runVector s x1 x2 x3 x4 x5) := by
  unfold runVector
  repeat' first
    | exact sub_trans rfl hm
    | with_reducible assumption
    | with_reducible apply meetErrors_frame
    | with_reducible apply meetErrors_frame_eq (by assumption)
    | with_reducible apply faultSpUe_frame
    | with_reducible apply storeVector_frame
    | with_reducible apply vecStatus_frame
    | with_reducible apply State.setKite_frame
    | (intro x; refine (?_ : Frame M s0 x → _) ?_; (intro hx; clear_value x))
    | (intro x; clear_value x)
    | intro _
    | split
    | lift_lets -underBinder

theorem emptyVector_frame {M : Nat} {s0 s : State} {x1 x2} (h : Frame M s0 s)
    (hm : sub 0x3fe000000000030800000000000000814fbc040000000000000000000000008000000000000000000a011380 M = true) : Frame M s0 (emptyVector s x1 x2) := by
  unfold emptyVector
  repeat' first
    | exact sub_trans rfl hm
    | with_reducible assumption
    | with_reducible apply vecFlags_frame
    | with_reducible apply vecStatus_frame
    | with_reducible apply issueAtOnce_frame

theorem acceptVector_frame {M : Nat} {s0 s : State} {x1 x2 x3} (h : Frame M s0 s)
    (hm : sub 0xfffffe007800000433800000000000008814fbc040000000000000000000010188000000000000000002a013380 M = true) : Frame M s0 (acceptVector s x1 x2 x3) := by
  unfold acceptVector
  repeat' first
    | exact sub_trans rfl hm
    | with_reducible assumption
    | with_reducible apply emptyVector_frame
    | with_reducible apply runVector_frame
    | with_reducible apply issueHead_frame
    | with_reducible apply faultTogether_frame
    | with_reducible apply raise_frame
    | with_reducible apply Frame.ite
    | (intro x; refine (?_ : Frame M s0 x → _) ?_; (intro hx; clear_value x))
    | (intro x; clear_value x)
    | intro _
    | split
    | lift_lets -underBinder

theorem startVector_frame {M : Nat} {s0 s : State} {x1 x2 x3} (h : Frame M s0 s)
    (hm : sub 0x4c68ff800000fffffe0078000004338001d0008323fc8814fbc040000000000c000000000101c8000000000000000002a133f80 M = true) : Frame M s0 (startVector s x1 x2 x3) := by
  unfold startVector
  repeat' first
    | exact sub_trans rfl hm
    | with_reducible assumption
    | with_reducible apply fetchHead_frame
    | with_reducible apply acceptVector_frame
    | (intro x; refine (?_ : Frame M s0 x → _) ?_; (intro hx; clear_value x))
    | (intro x; clear_value x)
    | intro _
    | lift_lets -underBinder

theorem execMap_frame {M : Nat} {s0 s : State} {x0 x1} (h : Frame M s0 s)
    (hm : sub 0x4c68ff800000fffffe0078000004338001d0008323fc8814fbc040000000000c000000000101c8000000000000000002a133f80 M = true) : FrameR M s0 (execMap x0 x1 s) := by
  unfold execMap
  repeat' first
    | exact sub_trans rfl hm
    | with_reducible assumption
    | with_reducible apply FrameR.of_next
    | with_reducible apply FrameR.whenOk
    | with_reducible apply startVector_frame

theorem execConv_frame {M : Nat} {s0 s : State} {x0 x1} (h : Frame M s0 s)
    (hm : sub 0x4c68ff800000fffffe0078000004338001d0008323fc8814fbc040000000000c000000000101c8000000000000000002a133f80 M = true) : FrameR M s0 (execConv x0 x1 s) := by
  unfold execConv
  repeat' first
    | exact sub_trans rfl hm
    | with_reducible assumption
    | with_reducible apply FrameR.of_next
    | with_reducible apply FrameR.whenOk
    | with_reducible apply startVector_frame

theorem execScan_frame {M : Nat} {s0 s : State} {x0 x1} (h : Frame M s0 s)
    (hm : sub 0x4c68ff800000fffffe0078000004338001d0008323fc8814fbc040000000000c000000000101c8000000000000000002a133f80 M = true) : FrameR M s0 (execScan x0 x1 s) := by
  unfold execScan
  repeat' first
    | exact sub_trans rfl hm
    | with_reducible assumption
    | with_reducible apply FrameR.of_next
    | with_reducible apply FrameR.whenOk
    | with_reducible apply startVector_frame

theorem execReduce_frame {M : Nat} {s0 s : State} {x0 x1} (h : Frame M s0 s)
    (hm : sub 0x4c68ff800000fffffe0078000004338001d0008323fc8814fbc040000000000c000000000101c8000000000000000002a133f80 M = true) : FrameR M s0 (execReduce x0 x1 s) := by
  unfold execReduce
  repeat' first
    | exact sub_trans rfl hm
    | with_reducible assumption
    | with_reducible apply FrameR.of_next
    | with_reducible apply FrameR.whenOk
    | with_reducible apply startVector_frame

theorem execRescale_frame {M : Nat} {s0 s : State} {x0 x1} (h : Frame M s0 s)
    (hm : sub 0x4c68ff800000fffffe0078000004338001d0008323fc8814fbc040000000000c000000000101c8000000000000000002a133f80 M = true) : FrameR M s0 (execRescale x0 x1 s) := by
  unfold execRescale
  repeat' first
    | exact sub_trans rfl hm
    | with_reducible assumption
    | with_reducible apply FrameR.of_next
    | with_reducible apply FrameR.whenOk
    | with_reducible apply startVector_frame

theorem execRng_frame {M : Nat} {s0 s : State} {x0 x1} (h : Frame M s0 s)
    (hm : sub 0x4c68ff800000fffffe0078000004338001d0008323fc8814fbc040000000000c000000000101c8000000000000000002a133f80 M = true) : FrameR M s0 (execRng x0 x1 s) := by
  unfold execRng
  repeat' first
    | exact sub_trans rfl hm
    | with_reducible assumption
    | with_reducible apply FrameR.of_next
    | with_reducible apply FrameR.whenOk
    | with_reducible apply startVector_frame

theorem vecEvents_frame {M : Nat} {s0 s : State} {x1 x2} (h : Frame M s0 s)
    (hm : sub 0x814fbc040000000000000000000000000000000000000000000a010380 M = true) : Frame M s0 (vecEvents s x1 x2) := by
  unfold vecEvents
  repeat' first
    | exact sub_trans rfl hm
    | with_reducible assumption
    | with_reducible apply raise_frame
    | with_reducible apply Frame.ite
    | (intro x; refine (?_ : Frame M s0 x → _) ?_; (intro hx; clear_value x))
    | (intro x; clear_value x)
    | intro _
    | split
    | lift_lets -underBinder

theorem completeVector_frame {M : Nat} {s0 s : State} {x1} (h : Frame M s0 s)
    (hm : sub 0x3f2000000000010800000000000000814fbc040000000000000000000000000000000000000000000a011380 M = true) : Frame M s0 (completeVector s x1) := by
  unfold completeVector
  repeat' first
    | exact sub_trans rfl hm
    | with_reducible assumption
    | with_reducible apply State.setKite_frame
    | with_reducible apply vecEvents_frame
    | with_reducible apply vecFlags_frame
    | with_reducible apply State.wr_frame
    | with_reducible apply showStream_frame
    | with_reducible apply completeRun_frame
    | exact has_VEC_STATUS_BUSY rfl hm
    | (intro x; refine (?_ : Frame M s0 x → _) ?_; (intro hx; clear_value x))
    | (intro x; clear_value x)
    | intro _
    | split
    | lift_lets -underBinder

end Sys2Proof.Machine
end

