-- ==== Sys2Proof/Laws/FrameKiteOps.lean ====
section
/-! SUPPORT. Frame lemmas for the functions of Machine/KiteOps.lean. -/

set_option Elab.async false
set_option linter.all false

namespace Sys2Proof.Machine

theorem takePort_frame {M : Nat} {s0 s : State} {x1 x2} (h : Frame M s0 s)
    (hm : sub 0x108000000000000000000000000000000000000000000000000000000000000000000001000 M = true) : Frame M s0 (takePort s x1 x2) := by
  unfold takePort
  repeat' first
    | exact sub_trans rfl hm
    | with_reducible assumption
    | with_reducible apply showStream_frame
    | with_reducible apply State.setKite_frame

theorem moveOut_frame {M : Nat} {s0 s : State} {x1 x2 x3} (h : Frame M s0 s)
    (hm : sub 0x1080000000000b7c0814fbc040000000000000000000000000000000000000000000a011f80 M = true) : Frame M s0 (moveOut s x1 x2 x3) := by
  unfold moveOut
  repeat' first
    | exact sub_trans rfl hm
    | with_reducible assumption
    | with_reducible apply takePort_frame
    | with_reducible apply memWrite_frame
    | with_reducible apply memWrite_frame_eq (by assumption)
    | with_reducible apply chargeRange_frame

theorem moveIn_frame {M : Nat} {s0 s : State} {x1 x2 x3} (h : Frame M s0 s)
    (hm : sub 0x4c68ff8000000000000000000000108001d000832bfc0814fbc040000000000c000000000101c0000000000000000002a133f80 M = true) : Frame M s0 (moveIn s x1 x2 x3) := by
  unfold moveIn
  repeat' first
    | exact sub_trans rfl hm
    | with_reducible assumption
    | with_reducible apply readFor_frame
    | with_reducible apply readFor_frame_eq (by assumption)
    | with_reducible apply chargeRange_frame
    | with_reducible apply takePort_frame
    | with_reducible apply State.spWrite_frame
    | split

theorem acceptMove_frame {M : Nat} {s0 s : State} {x1 x2} (h : Frame M s0 s)
    (hm : sub 0x4c68ff8000007fe0000078000004338001d000832bfc8814fbc040000000000c000000000101c8000000000000000002a133f80 M = true) : Frame M s0 (acceptMove s x1 x2) := by
  unfold acceptMove
  repeat' first
    | exact sub_trans rfl hm
    | with_reducible assumption
    | with_reducible apply issueAtOnce_frame
    | with_reducible apply opFault_frame
    | with_reducible apply issueHead_frame
    | with_reducible apply meetErrors_frame
    | with_reducible apply meetErrors_frame_eq (by assumption)
    | with_reducible apply faultSpUe_frame
    | with_reducible apply moveOut_frame
    | with_reducible apply moveIn_frame
    | with_reducible apply Frame.ite
    | (intro x; refine (?_ : Frame M s0 x → _) ?_; (intro hx; clear_value x))
    | (intro x; clear_value x)
    | intro _
    | split
    | lift_lets -underBinder

theorem startMove_frame {M : Nat} {s0 s : State} {x1 x2} (h : Frame M s0 s)
    (hm : sub 0x4c68ff8000007fe0000078000004338001d000832bfc8814fbc040000000000c000000000101c8000000000000000002a133f80 M = true) : Frame M s0 (startMove s x1 x2) := by
  unfold startMove
  repeat' first
    | exact sub_trans rfl hm
    | with_reducible assumption
    | with_reducible apply fetchHead_frame
    | with_reducible apply acceptMove_frame
    | (intro x; refine (?_ : Frame M s0 x → _) ?_; (intro hx; clear_value x))
    | (intro x; clear_value x)
    | intro _
    | lift_lets -underBinder

theorem execMove_frame {M : Nat} {s0 s : State} {x0 x1} (h : Frame M s0 s)
    (hm : sub 0x4c68ff8000007fe0000078000004338001d000832bfc8814fbc040000000000c000000000101c8000000000000000002a133f80 M = true) : FrameR M s0 (execMove x0 x1 s) := by
  unfold execMove
  repeat' first
    | exact sub_trans rfl hm
    | with_reducible assumption
    | with_reducible apply FrameR.of_next
    | with_reducible apply FrameR.whenOk
    | with_reducible apply startMove_frame

theorem loadRecords_frame {M : Nat} {s0 s : State} {x1 x2 x3 x4} (h : Frame M s0 s)
    (hm : sub 0x1000 M = true) : Frame M s0 (loadRecords s x1 x2 x3 x4) := by
  unfold loadRecords
  repeat' first
    | exact sub_trans rfl hm
    | with_reducible assumption
    | with_reducible apply State.setKite_frame
    | (intro x; refine (?_ : Frame M s0 x → _) ?_; (intro hx; clear_value x))
    | (intro x; clear_value x)
    | intro _
    | lift_lets -underBinder

theorem cbfWaits_frame {M : Nat} {s0 s : State} {x1} (h : Frame M s0 s)
    (hm : sub 0x1000 M = true) : Frame M s0 (cbfWaits s x1) := by
  unfold cbfWaits
  repeat' first
    | exact sub_trans rfl hm
    | with_reducible assumption
    | with_reducible apply State.setKite_frame
    | with_reducible apply Frame.ite
    | (intro x; refine (?_ : Frame M s0 x → _) ?_; (intro hx; clear_value x))
    | (intro x; clear_value x)
    | intro _
    | split
    | lift_lets -underBinder

theorem cbfWaited_frame {M : Nat} {s0 s : State} {x1} (h : Frame M s0 s)
    (hm : sub 0x1000000000000000000000000000814fbc040000000000000000000000000000000000000000000a011380 M = true) : Frame M s0 (cbfWaited s x1) := by
  unfold cbfWaited
  repeat' first
    | exact sub_trans rfl hm
    | with_reducible assumption
    | with_reducible apply State.setKite_frame
    | with_reducible apply raiseTimes_frame
    | with_reducible apply State.bump_frame
    | exact has_CBF_WAITS_WAITS rfl hm
    | (intro x; refine (?_ : Frame M s0 x → _) ?_; (intro hx; clear_value x))
    | (intro x; clear_value x)
    | intro _
    | split
    | lift_lets -underBinder

theorem runCbf_frame {M : Nat} {s0 s : State} {x1 x2 x3 x4} (h : Frame M s0 s)
    (hm : sub 0x7fe000007800000413800000000000008814fbc040000000000000000000010180000000000000000002a013380 M = true) : Frame M s0 (runCbf s x1 x2 x3 x4) := by
  unfold runCbf
  repeat' first
    | exact sub_trans rfl hm
    | with_reducible assumption
    | with_reducible apply opFault_frame
    | with_reducible apply meetErrors_frame
    | with_reducible apply meetErrors_frame_eq (by assumption)
    | with_reducible apply faultSpUe_frame
    | with_reducible apply loadRecords_frame
    | with_reducible apply showStream_frame
    | with_reducible apply State.setKite_frame
    | with_reducible apply Frame.ite
    | (intro x; refine (?_ : Frame M s0 x → _) ?_; (intro hx; clear_value x))
    | (intro x; clear_value x)
    | intro _
    | split
    | lift_lets -underBinder

theorem acceptCbf_frame {M : Nat} {s0 s : State} {x1 x2} (h : Frame M s0 s)
    (hm : sub 0x7fe001007800000433800000000000008814fbc040000000000000000000010188000000000000000002a013380 M = true) : Frame M s0 (acceptCbf s x1 x2) := by
  unfold acceptCbf
  repeat' first
    | exact sub_trans rfl hm
    | with_reducible assumption
    | with_reducible apply issueAtOnce_frame
    | with_reducible apply cbfWaited_frame
    | with_reducible apply runCbf_frame
    | with_reducible apply issueHead_frame
    | with_reducible apply Frame.ite
    | (intro x; refine (?_ : Frame M s0 x → _) ?_; (intro hx; clear_value x))
    | (intro x; clear_value x)
    | intro _
    | split
    | lift_lets -underBinder

theorem startCbf_frame {M : Nat} {s0 s : State} {x1 x2} (h : Frame M s0 s)
    (hm : sub 0x4c68ff8000007fe0010078000004338001d0008323fc8814fbc040000000000c000000000101c8000000000000000002a133f80 M = true) : Frame M s0 (startCbf s x1 x2) := by
  unfold startCbf
  repeat' first
    | exact sub_trans rfl hm
    | with_reducible assumption
    | with_reducible apply cbfWaits_frame
    | with_reducible apply fetchHead_frame
    | with_reducible apply acceptCbf_frame
    | with_reducible apply Frame.ite
    | (intro x; refine (?_ : Frame M s0 x → _) ?_; (intro hx; clear_value x))
    | (intro x; clear_value x)
    | intro _
    | split
    | lift_lets -underBinder

theorem execCbfLoad_frame {M : Nat} {s0 s : State} {x0 x1} (h : Frame M s0 s)
    (hm : sub 0x4c68ff8000007fe0010078000004338001d0008323fc8814fbc040000000000c000000000101c8000000000000000002a133f80 M = true) : FrameR M s0 (execCbfLoad x0 x1 s) := by
  unfold execCbfLoad
  repeat' first
    | exact sub_trans rfl hm
    | with_reducible assumption
    | with_reducible apply FrameR.of_next
    | with_reducible apply FrameR.whenOk
    | with_reducible apply startCbf_frame

theorem completeMove_frame {M : Nat} {s0 s : State} {x1} (h : Frame M s0 s)
    (hm : sub 0x10800000000000000814fbc040000000000000000000000000000000000000000000a011380 M = true) : Frame M s0 (completeMove s x1) := by
  unfold completeMove
  repeat' first
    | exact sub_trans rfl hm
    | with_reducible assumption
    | with_reducible apply showStream_frame
    | with_reducible apply completeRun_frame
    | with_reducible apply State.setKite_frame
    | (intro x; refine (?_ : Frame M s0 x → _) ?_; (intro hx; clear_value x))
    | (intro x; clear_value x)
    | intro _
    | split
    | lift_lets -underBinder

theorem completeCbf_frame {M : Nat} {s0 s : State} {x1} (h : Frame M s0 s)
    (hm : sub 0x10800000000000000814fbc040000000000000000000000000000000000000000000a011380 M = true) : Frame M s0 (completeCbf s x1) := by
  unfold completeCbf
  repeat' first
    | exact sub_trans rfl hm
    | with_reducible assumption
    | with_reducible apply showStream_frame
    | with_reducible apply completeRun_frame
    | with_reducible apply State.setKite_frame
    | (intro x; refine (?_ : Frame M s0 x → _) ?_; (intro hx; clear_value x))
    | (intro x; clear_value x)
    | intro _
    | split
    | lift_lets -underBinder

end Sys2Proof.Machine
end

