-- ==== Sys2Proof/Laws/FrameTrains.lean ====
section
/-! SUPPORT. Frame lemmas for the functions of Machine/Trains.lean. -/

set_option Elab.async false
set_option linter.all false

namespace Sys2Proof.Machine

theorem State.setSeq_frame {M : Nat} {s0 s : State} {x1 x2 x3} (h : Frame M s0 s)
    (hm : sub 0x4000 M = true) : Frame M s0 (State.setSeq s x1 x2 x3) := by
  unfold State.setSeq
  repeat' first
    | exact sub_trans rfl hm
    | with_reducible assumption
    | with_reducible apply Frame.with_seqs

theorem fetchNext_frame {M : Nat} {s0 s : State} {who t p f} (h : Frame M s0 s)
    (hf : ∀ u, Frame M s0 u → Frame M s0 (f u)) (hm : sub 0x4c68ff8000000000000000000000000001d0008323fc0814fbc040000000000c000000000101c0000000000000000002a132f80 M = true) : Frame M s0 (fetchNext s who t p f) := by
  exact fetchRecords_frame h hf (sub_trans rfl hm)

theorem issueRecord_frame {M : Nat} {s0 s : State} {x1 x2} (h : Frame M s0 s)
    (hm : sub 0x814fbc040000000000000000000000000000000000000000000a014380 M = true) : Frame M s0 (issueRecord s x1 x2) := by
  unfold issueRecord
  repeat' first
    | exact sub_trans rfl hm
    | with_reducible assumption
    | with_reducible apply traceAdd_frame
    | with_reducible apply State.setSeq_frame
    | (intro x; refine (?_ : Frame M s0 x → _) ?_; (intro hx; clear_value x))
    | (intro x; clear_value x)
    | intro _
    | lift_lets -underBinder

theorem signalRecord_frame {M : Nat} {s0 s : State} {x1 x2} (h : Frame M s0 s)
    (hm : sub 0x1000 M = true) : Frame M s0 (signalRecord s x1 x2) := by
  unfold signalRecord
  repeat' first
    | exact sub_trans rfl hm
    | with_reducible assumption
    | with_reducible apply signalLogical_frame
    | split

theorem traceRecordDone_frame {M : Nat} {s0 s : State} {x1 x2 x3 x4} (h : Frame M s0 s)
    (hm : sub 0x814fbc040000000000000000000000000000000000000000000a010380 M = true) : Frame M s0 (traceRecordDone s x1 x2 x3 x4) := by
  unfold traceRecordDone
  repeat' first
    | exact sub_trans rfl hm
    | with_reducible assumption
    | with_reducible apply traceAdd_frame

theorem recordAtOnce_frame {M : Nat} {s0 s : State} {x1 x2} (h : Frame M s0 s)
    (hm : sub 0x814fbc040000000000000000000000000000000000000000000a015380 M = true) : Frame M s0 (recordAtOnce s x1 x2) := by
  unfold recordAtOnce
  repeat' first
    | exact sub_trans rfl hm
    | with_reducible assumption
    | with_reducible apply traceRecordDone_frame
    | with_reducible apply signalRecord_frame
    | with_reducible apply issueRecord_frame
    | (intro x; refine (?_ : Frame M s0 x → _) ?_; (intro hx; clear_value x))
    | (intro x; clear_value x)
    | intro _
    | lift_lets -underBinder

theorem runMemory_frame {M : Nat} {s0 s : State} {x1 x2} (h : Frame M s0 s)
    (hm : sub 0x4000 M = true) : Frame M s0 (runMemory s x1 x2) := by
  unfold runMemory
  repeat' first
    | exact sub_trans rfl hm
    | with_reducible assumption
    | with_reducible apply State.setSeq_frame

theorem startMemory_frame {M : Nat} {s0 s : State} {t f} (h : Frame M s0 s)
    (hf : ∀ u m, Frame M s0 u → Frame M s0 (f u m)) (hm : sub 0x4c68ff8000000000000000000000000001d0008323fc0814fbc040000000000c000000000101c0000000000000000002a137f80 M = true) : Frame M s0 (startMemory s t f) := by
  unfold startMemory
  refine fetchNext_frame h (fun u hu => ?_) (sub_trans rfl hm)
  dsimp only
  split
  · exact recordAtOnce_frame hu (sub_trans rfl hm)
  · exact runMemory_frame (hf _ _ (issueRecord_frame hu (sub_trans rfl hm))) (sub_trans rfl hm)

theorem copyGranules_frame {M : Nat} {s0 s : State} {x1} (h : Frame M s0 s)
    (hm : sub 0x4c68ff8000000000000000000000000001d000832bfc0814fbc040000000000c000000000101c0000000000000000002a132f80 M = true) : Frame M s0 (copyGranules s x1) := by
  unfold copyGranules
  repeat' first
    | exact sub_trans rfl hm
    | with_reducible assumption
    | with_reducible apply readFor_frame
    | with_reducible apply readFor_frame_eq (by assumption)
    | with_reducible apply chargeRange_frame
    | with_reducible apply memWrite_frame
    | with_reducible apply memWrite_frame_eq (by assumption)
    | split

theorem prefetchGranules_frame {M : Nat} {s0 s : State} {x1} (h : Frame M s0 s)
    (hm : sub 0x4c68ff8000000000000000000000000001d000832bfc0814fbc040000000000c000000000101c0000000000000000002a132f80 M = true) : Frame M s0 (prefetchGranules s x1) := by
  unfold prefetchGranules
  repeat' first
    | exact sub_trans rfl hm
    | with_reducible assumption
    | with_reducible apply readFor_frame
    | with_reducible apply readFor_frame_eq (by assumption)
    | with_reducible apply chargeRange_frame

theorem unpinGranules_frame {M : Nat} {s0 s : State} {x1} (h : Frame M s0 s)
    (hm : sub 0x800 M = true) : Frame M s0 (unpinGranules s x1) := by
  unfold unpinGranules
  repeat' first
    | exact sub_trans rfl hm
    | with_reducible assumption
    | with_reducible apply unpinLines_frame
    | (intro x; refine (?_ : Frame M s0 x → _) ?_; (intro hx; clear_value x))
    | (intro x; clear_value x)
    | intro _
    | lift_lets -underBinder

theorem writebackGranules_frame {M : Nat} {s0 s : State} {x1} (h : Frame M s0 s)
    (hm : sub 0x4000000000000000000000000000000000000000000000000000000000c00 M = true) : Frame M s0 (writebackGranules s x1) := by
  unfold writebackGranules
  refine Frame.foldl_mem (fun u e he hu => Frame.foldl_mem (fun v l hl hv => ?_) hu) h
  refine State.setLines_frame (writebackLine_frame hv (sub_trans rfl hm)) (fun c k => ?_)
    (sub_trans rfl hm)
  rw [writebackLine_spool] at k
  exact (k.set e.1).replace (((h.canon c).spool.lines e he).line (List.mem_filter.1 hl).1).clean

theorem execCopy_frame {M : Nat} {s0 s : State} {x0} (h : Frame M s0 s)
    (hm : sub 0x4c68ff8000000000000000000000000001d000832bfc0814fbc040000000000c000000000101c0000000000000000002a137f80 M = true) : FrameR M s0 (execCopy x0 s) := by
  unfold execCopy
  repeat' first
    | exact sub_trans rfl hm
    | with_reducible assumption
    | with_reducible apply FrameR.of_next
    | with_reducible apply FrameR.whenOk
    | with_reducible apply startMemory_frame
    | with_reducible apply copyGranules_frame
    | intro _

theorem execPrefetch_frame {M : Nat} {s0 s : State} {x0} (h : Frame M s0 s)
    (hm : sub 0x4c68ff8000000000000000000000000001d000832bfc0814fbc040000000000c000000000101c0000000000000000002a137f80 M = true) : FrameR M s0 (execPrefetch x0 s) := by
  unfold execPrefetch
  repeat' first
    | exact sub_trans rfl hm
    | with_reducible assumption
    | with_reducible apply FrameR.of_next
    | with_reducible apply FrameR.whenOk
    | with_reducible apply startMemory_frame
    | with_reducible apply prefetchGranules_frame
    | intro _

theorem execUnpin_frame {M : Nat} {s0 s : State} {x0} (h : Frame M s0 s)
    (hm : sub 0x4c68ff8000000000000000000000000001d0008323fc0814fbc040000000000c000000000101c0000000000000000002a137f80 M = true) : FrameR M s0 (execUnpin x0 s) := by
  unfold execUnpin
  repeat' first
    | exact sub_trans rfl hm
    | with_reducible assumption
    | with_reducible apply FrameR.of_next
    | with_reducible apply FrameR.whenOk
    | with_reducible apply startMemory_frame
    | with_reducible apply unpinGranules_frame
    | intro _

theorem execWriteback_frame {M : Nat} {s0 s : State} {x0} (h : Frame M s0 s)
    (hm : sub 0x4c68ff8000000000000000000000000001d0008323fc0814fbc040000000000c000000000101c0000000000000000002a137f80 M = true) : FrameR M s0 (execWriteback x0 s) := by
  unfold execWriteback
  repeat' first
    | exact sub_trans rfl hm
    | with_reducible assumption
    | with_reducible apply FrameR.of_next
    | with_reducible apply FrameR.whenOk
    | with_reducible apply startMemory_frame
    | with_reducible apply writebackGranules_frame
    | intro _

theorem completeMemory_frame {M : Nat} {s0 s : State} {x1} (h : Frame M s0 s)
    (hm : sub 0x814fbc040000000000000000000000000000000000000000000a015380 M = true) : Frame M s0 (completeMemory s x1) := by
  unfold completeMemory
  repeat' first
    | exact sub_trans rfl hm
    | with_reducible assumption
    | with_reducible apply traceRecordDone_frame
    | with_reducible apply signalRecord_frame
    | with_reducible apply State.setSeq_frame
    | (intro x; refine (?_ : Frame M s0 x → _) ?_; (intro hx; clear_value x))
    | (intro x; clear_value x)
    | intro _
    | split
    | lift_lets -underBinder

theorem completeOp_frame {M : Nat} {s0 s : State} {x1} (h : Frame M s0 s)
    (hm : sub 0x3f2000007d00010800000000000000814fbc040000000000000000000000000000000000000000000a015380 M = true) : Frame M s0 (completeOp s x1) := by
  unfold completeOp
  repeat' first
    | exact sub_trans rfl hm
    | with_reducible assumption
    | with_reducible apply completeArray_frame
    | with_reducible apply completeVector_frame
    | with_reducible apply completeMove_frame
    | with_reducible apply completeCbf_frame
    | with_reducible apply completeMemory_frame
    | split

theorem execOpComplete_frame {M : Nat} {s0 s : State} {x0} (h : Frame M s0 s)
    (hm : sub 0x3f2000007d00010800000000000000814fbc040000000000000000000000000000000000000000000a015380 M = true) : FrameR M s0 (execOpComplete x0 s) := by
  unfold execOpComplete
  repeat' first
    | exact sub_trans rfl hm
    | with_reducible assumption
    | with_reducible apply FrameR.of_next
    | with_reducible apply FrameR.whenOk
    | with_reducible apply completeOp_frame

end Sys2Proof.Machine
end

