-- ==== Sys2Proof/Laws/FrameFrames.lean ====
section
/-! SUPPORT. Frame lemmas for the functions of Machine/Frames.lean. -/

set_option Elab.async false
set_option linter.all false

namespace Sys2Proof.Machine

theorem acceptFrame_frame {M : Nat} {s0 s : State} {src served f} (h : Frame M s0 s)
    (hf : ∀ u, Frame M s0 u → Frame M s0 (f u)) (hm : sub 0x140000000000000000000000000000000000000000 M = true) :
    Frame M s0 (acceptFrame s src served f) := by
  unfold acceptFrame
  exact Frame.ite (hf _ (State.bump_frame h (has_RX_FRAMES_COUNT rfl hm))) (State.bump_frame h (has_RX_FILTERED_COUNT rfl hm))

theorem transmit_frame {M : Nat} {s0 s : State} {x1 x2} (h : Frame M s0 s)
    (hm : sub 0x200000000000000000000000000000000020000000 M = true) : Frame M s0 (transmit s x1 x2) := by
  unfold transmit
  repeat' first
    | exact sub_trans rfl hm
    | with_reducible assumption
    | with_reducible apply State.emit_frame
    | with_reducible apply State.bump_frame
    | exact has_TX_FRAMES_COUNT rfl hm

theorem sendFrame_frame {M : Nat} {s0 s : State} {x1 x2 x3} (h : Frame M s0 s)
    (hm : sub 0x200000000000000000000000000000000020000200 M = true) : Frame M s0 (sendFrame s x1 x2 x3) := by
  unfold sendFrame
  repeat' first
    | exact sub_trans rfl hm
    | with_reducible assumption
    | with_reducible apply transmit_frame
    | with_reducible apply Frame.ite
    | split
    | with_reducible apply Frame.with_host

theorem releaseFrames_frame {M : Nat} {s0 s : State} (h : Frame M s0 s)
    (hm : sub 0x200000000000000000000000000000000020000200 M = true) : Frame M s0 (releaseFrames s) := by
  unfold releaseFrames
  repeat' first
    | exact sub_trans rfl hm
    | with_reducible assumption
    | with_reducible apply transmit_frame
    | with_reducible apply Frame.ite
    | with_reducible refine Frame.foldl (fun u a hu => ?_) ?_
    | with_reducible refine Frame.foldl_on (get := Prod.fst) (fun u a hu => ?_) ?_
    | with_reducible refine Frame.foldl_on (get := Prod.snd) (fun u a hu => ?_) ?_
    | (intro x; refine (?_ : Frame M s0 x → _) ?_; (intro hx; clear_value x))
    | (intro x; clear_value x)
    | intro _
    | split
    | lift_lets -underBinder
    | with_reducible apply Frame.with_host

theorem sendBulk_frame {M : Nat} {s0 s : State} {x1 x2} (h : Frame M s0 s)
    (hm : sub 0x814fbc0c0000000020000000000000000000000000000000002a010380 M = true) : Frame M s0 (sendBulk s x1 x2) := by
  unfold sendBulk
  repeat' first
    | exact sub_trans rfl hm
    | with_reducible assumption
    | with_reducible apply sendFrame_frame
    | with_reducible apply raise_frame
    | with_reducible apply State.bump_frame
    | exact has_BULK_LOST_COUNT rfl hm
    | split

end Sys2Proof.Machine
end

