-- ==== Sys2Proof/Laws/FrameFabric.lean ====
section
/-! SUPPORT. Frame lemmas for the functions of Machine/Fabric.lean. -/

set_option Elab.async false
set_option linter.all false

namespace Sys2Proof.Machine

theorem dropUnrouted_frame {M : Nat} {s0 s : State} {x1} (h : Frame M s0 s)
    (hm : sub 0x814fbc040000000000000000000010180000000000000000002a012380 M = true) : Frame M s0 (dropUnrouted s x1) := by
  unfold dropUnrouted
  repeat' first
    | exact sub_trans rfl hm
    | with_reducible assumption
    | with_reducible apply replayFault_frame
    | with_reducible apply noRoute_frame
    | with_reducible apply Frame.ite
    | split

theorem forward_frame {M : Nat} {s0 s : State} {x1} (h : Frame M s0 s)
    (hm : sub 0x814fbc040000000000000000000010180000000000000000002a012380 M = true) : Frame M s0 (forward s x1) := by
  unfold forward
  cases e : routeFlit s x1 with
  | none => exact dropUnrouted_frame h (sub_trans rfl hm)
  | some t => exact routeFlit_frame_some e h (sub_trans rfl hm)

theorem tell_frame {M : Nat} {s0 s : State} {x1 x2 x3 x4} (h : Frame M s0 s)
    (hm : sub 0x814fbc040000000000000000000010180000000000000000002a012380 M = true) : Frame M s0 (tell s x1 x2 x3 x4) := by
  unfold tell
  repeat' first
    | exact sub_trans rfl hm
    | with_reducible assumption
    | with_reducible apply State.emit_frame
    | with_reducible apply forward_frame
    | with_reducible apply Frame.ite
    | split

theorem sendBytes_frame {M : Nat} {s0 s : State} {x1 x2} (h : Frame M s0 s)
    (hm : sub 0x20010000 M = true) : Frame M s0 (sendBytes s x1 x2) := by
  unfold sendBytes
  repeat' first
    | exact sub_trans rfl hm
    | with_reducible assumption
    | with_reducible apply State.emit_frame
    | with_reducible apply State.setLine_frame
    | (intro x; refine (?_ : Frame M s0 x → _) ?_; (intro hx; clear_value x))
    | (intro x; clear_value x)
    | intro _
    | split
    | lift_lets -underBinder

theorem flitTime_frame {M : Nat} {s0 s : State} {x1} (h : Frame M s0 s)
    (hm : sub 0x10000 M = true) : Frame M s0 (flitTime s x1) := by
  unfold flitTime
  repeat' first
    | exact sub_trans rfl hm
    | with_reducible assumption
    | with_reducible apply State.setLine_frame
    | with_reducible apply Frame.ite
    | (intro x; refine (?_ : Frame M s0 x → _) ?_; (intro hx; clear_value x))
    | (intro x; clear_value x)
    | intro _
    | split
    | lift_lets -underBinder

theorem countVc7_frame {M : Nat} {s0 s : State} {x1 x2} (h : Frame M s0 s)
    (hm : sub 0x400000000000000000000000000000000000000000000000000000000000000000000000000000000000000000000000000000010000 M = true) : Frame M s0 (countVc7 s x1 x2) := by
  unfold countVc7
  repeat' first
    | exact sub_trans rfl hm
    | with_reducible assumption
    | with_reducible apply State.bump_frame
    | with_reducible apply State.setLine_frame
    | with_reducible apply Frame.ite
    | exact has_TX_BYTES_VC7_COUNT rfl hm
    | (intro x; refine (?_ : Frame M s0 x → _) ?_; (intro hx; clear_value x))
    | (intro x; clear_value x)
    | intro _
    | split
    | lift_lets -underBinder

theorem sendSequenced_frame {M : Nat} {s0 s : State} {x1 x2} (h : Frame M s0 s)
    (hm : sub 0x400c00000000000000000000000000000000000000000000000000000000000000000000000000000000000000000000000020010000 M = true) : Frame M s0 (sendSequenced s x1 x2) := by
  unfold sendSequenced
  repeat' first
    | exact sub_trans rfl hm
    | with_reducible assumption
    | with_reducible apply countVc7_frame
    | with_reducible apply sendBytes_frame
    | with_reducible apply State.bump64_frame
    | exact has_TX_FLITS_HI rfl hm
    | exact has_TX_FLITS_LO rfl hm

theorem sendNext_frame {M : Nat} {s0 s : State} {x1} (h : Frame M s0 s)
    (hm : sub 0x710c00000000000000000000000000000000000000000000000000000000000000000000000000000000000000000000000020010000 M = true) : Frame M s0 (sendNext s x1) := by
  unfold sendNext
  repeat' first
    | exact sub_trans rfl hm
    | with_reducible assumption
    | with_reducible apply flitTime_frame
    | with_reducible apply sendBytes_frame
    | with_reducible apply State.setLine_frame
    | with_reducible apply State.bump_frame
    | with_reducible apply sendSequenced_frame
    | with_reducible apply Frame.ite
    | exact has_CREDIT_STALLS_COUNT rfl hm
    | exact has_REPLAY_FULL_COUNT rfl hm
    | exact has_RETRY_FLITS_COUNT rfl hm
    | (intro x; refine (?_ : Frame M s0 x → _) ?_; (intro hx; clear_value x))
    | (intro x; clear_value x)
    | intro _
    | split
    | lift_lets -underBinder

theorem execFlitSend_frame {M : Nat} {s0 s : State} {x0} (h : Frame M s0 s)
    (hm : sub 0x710c00000000000000000000000000000000000000000000000000000000000000000000000000000000000000000000000020010000 M = true) : FrameR M s0 (execFlitSend x0 s) := by
  unfold execFlitSend
  repeat' first
    | exact sub_trans rfl hm
    | with_reducible assumption
    | with_reducible apply FrameR.of_next
    | with_reducible apply FrameR.whenOk
    | with_reducible apply sendNext_frame

theorem execIdleAck_frame {M : Nat} {s0 s : State} {x0} (h : Frame M s0 s)
    (hm : sub 0x20010000 M = true) : FrameR M s0 (execIdleAck x0 s) := by
  unfold execIdleAck
  repeat' first
    | exact sub_trans rfl hm
    | with_reducible assumption
    | with_reducible apply FrameR.of_next
    | with_reducible apply FrameR.whenOk
    | with_reducible apply sendBytes_frame
    | with_reducible apply flitTime_frame

theorem queueLink_frame {M : Nat} {s0 s : State} {x1 x2 x3} (h : Frame M s0 s)
    (hm : sub 0x10000 M = true) : Frame M s0 (queueLink s x1 x2 x3) := by
  unfold queueLink
  repeat' first
    | exact sub_trans rfl hm
    | with_reducible assumption
    | with_reducible apply State.setLine_frame
    | (intro x; refine (?_ : Frame M s0 x → _) ?_; (intro hx; clear_value x))
    | (intro x; clear_value x)
    | intro _
    | lift_lets -underBinder

theorem askRetry_frame {M : Nat} {s0 s : State} {x1} (h : Frame M s0 s)
    (hm : sub 0x10000 M = true) : Frame M s0 (askRetry s x1) := by
  unfold askRetry
  repeat' first
    | exact sub_trans rfl hm
    | with_reducible assumption
    | with_reducible apply queueLink_frame
    | with_reducible apply State.setLine_frame
    | with_reducible apply Frame.ite
    | (intro x; refine (?_ : Frame M s0 x → _) ?_; (intro hx; clear_value x))
    | (intro x; clear_value x)
    | intro _
    | split
    | lift_lets -underBinder

theorem discardFlit_frame {M : Nat} {s0 s : State} {x1} (h : Frame M s0 s)
    (hm : sub 0x10000 M = true) : Frame M s0 (discardFlit s x1) := by
  unfold discardFlit
  repeat' first
    | exact sub_trans rfl hm
    | with_reducible assumption
    | with_reducible apply askRetry_frame
    | with_reducible apply Frame.ite
    | split

theorem takeReturns_frame {M : Nat} {s0 s : State} {x1 x2} (h : Frame M s0 s)
    (hm : sub 0x10000 M = true) : Frame M s0 (takeReturns s x1 x2) := by
  unfold takeReturns
  repeat' first
    | exact sub_trans rfl hm
    | with_reducible assumption
    | with_reducible apply State.setLine_frame
    | with_reducible apply Frame.ite
    | (intro x; refine (?_ : Frame M s0 x → _) ?_; (intro hx; clear_value x))
    | (intro x; clear_value x)
    | intro _
    | split
    | lift_lets -underBinder

theorem acceptFlit_frame {M : Nat} {s0 s : State} {x1 x2} (h : Frame M s0 s)
    (hm : sub 0x3000000000000000000000000000000000000000000000000000000000000000000000000000000000000000000000000000010000 M = true) : Frame M s0 (acceptFlit s x1 x2) := by
  unfold acceptFlit
  repeat' first
    | exact sub_trans rfl hm
    | with_reducible assumption
    | with_reducible apply State.bump64_frame
    | with_reducible apply State.setLine_frame
    | exact has_RX_FLITS_HI rfl hm
    | exact has_RX_FLITS_LO rfl hm
    | (intro x; refine (?_ : Frame M s0 x → _) ?_; (intro hx; clear_value x))
    | (intro x; clear_value x)
    | intro _
    | lift_lets -underBinder

theorem countFec_frame {M : Nat} {s0 s : State} {x1 x2 x3} (h : Frame M s0 s)
    (hm : sub 0x5020000000000000000000000000000000000000000000000000000000000000000000000000000001000000000000000000000000000 M = true) : Frame M s0 (countFec s x1 x2 x3) := by
  unfold countFec
  repeat' first
    | exact sub_trans rfl hm
    | with_reducible assumption
    | with_reducible apply State.wr_frame
    | with_reducible apply State.bump_frame
    | with_reducible apply absorbed_frame
    | with_reducible refine Frame.foldl (fun u a hu => ?_) ?_
    | with_reducible refine Frame.foldl_on (get := Prod.fst) (fun u a hu => ?_) ?_
    | with_reducible refine Frame.foldl_on (get := Prod.snd) (fun u a hu => ?_) ?_
    | exact has_LANE_REC_ERR_SYM_ERR rfl hm
    | exact has_LANE_REC_ST_INTERVAL_ERR rfl hm
    | exact has_LINE_FEC_CE_COUNT rfl hm
    | (intro x; refine (?_ : Frame M s0 x → _) ?_; (intro hx; clear_value x))
    | (intro x; clear_value x)
    | intro _
    | lift_lets -underBinder

theorem countFecUe_frame {M : Nat} {s0 s : State} {x1 x2} (h : Frame M s0 s)
    (hm : sub 0x4000000000000000000000000000000000000000000000000814fbc040000000000000000000000000000000000000000000a010380 M = true) : Frame M s0 (countFecUe s x1 x2) := by
  unfold countFecUe
  repeat' first
    | exact sub_trans rfl hm
    | with_reducible assumption
    | with_reducible apply raiseTimes_frame
    | with_reducible apply State.bump_frame
    | exact has_LINE_FEC_UE_COUNT rfl hm

theorem receiveFlit_frame {M : Nat} {s0 s : State} {x1 x2 x3} (h : Frame M s0 s)
    (hm : sub 0x7000000000000000000000000000000000000000000000000000000000000000000000000000000000000000000000000000010000 M = true) : Frame M s0 (receiveFlit s x1 x2 x3) := by
  unfold receiveFlit
  repeat' first
    | exact sub_trans rfl hm
    | with_reducible assumption
    | with_reducible apply discardFlit_frame
    | with_reducible apply State.bump_frame
    | with_reducible apply takeReturns_frame
    | with_reducible apply acceptFlit_frame
    | with_reducible apply Frame.ite
    | exact has_CRC_ERRS_COUNT rfl hm
    | (intro x; refine (?_ : Frame M s0 x → _) ?_; (intro hx; clear_value x))
    | (intro x; clear_value x)
    | intro _
    | split
    | lift_lets -underBinder

theorem scanIfClosed_frame {M : Nat} {s0 s : State} (h : Frame M s0 s)
    (hm : sub 0x40000000000000000000000000000000000000000000000000000 M = true) : Frame M s0 (scanIfClosed s) := by
  unfold scanIfClosed
  repeat' first
    | exact sub_trans rfl hm
    | with_reducible assumption
    | with_reducible apply State.wr_frame
    | with_reducible apply Frame.ite
    | exact has_HD_STAT_STATE rfl hm
    | split

theorem closeCapture_frame {M : Nat} {s0 s : State} {x1} (h : Frame M s0 s)
    (hm : sub 0x40000000000000000000000000000000000000000000002000000 M = true) : Frame M s0 (closeCapture s x1) := by
  unfold closeCapture
  repeat' first
    | exact sub_trans rfl hm
    | with_reducible assumption
    | with_reducible apply scanIfClosed_frame
    | with_reducible apply Frame.with_hd

theorem closeIfReached_frame {M : Nat} {s0 s : State} {x1} (h : Frame M s0 s)
    (hm : sub 0x40000000000000000000000000000000000000000000002000000 M = true) : Frame M s0 (closeIfReached s x1) := by
  unfold closeIfReached
  repeat' first
    | exact sub_trans rfl hm
    | with_reducible assumption
    | with_reducible apply closeCapture_frame
    | with_reducible apply Frame.ite
    | split

theorem execFlitRx_frame {M : Nat} {s0 s : State} {x0 x1 x2 x3 x4 x5} (h : Frame M s0 s)
    (hm : sub 0x506700000000000000000000000000000000000000000000000814fbc040000000000000000000000100000000000000000000a010380 M = true) : FrameR M s0 (execFlitRx x0 x1 x2 x3 x4 x5 s) := by
  unfold execFlitRx
  repeat' first
    | exact sub_trans rfl hm
    | with_reducible assumption
    | with_reducible apply FrameR.of_next
    | with_reducible apply FrameR.whenOk
    | with_reducible apply closeIfReached_frame
    | with_reducible apply receiveFlit_frame
    | with_reducible apply countFecUe_frame
    | with_reducible apply countFec_frame

theorem honourRetry_frame {M : Nat} {s0 s : State} {x1 x2} (h : Frame M s0 s)
    (hm : sub 0x800000000000000000000000000000000000000000000000814fbc040000000000000000000000100000000000000000000a010380 M = true) : Frame M s0 (honourRetry s x1 x2) := by
  unfold honourRetry
  repeat' first
    | exact sub_trans rfl hm
    | with_reducible assumption
    | with_reducible apply raise_frame
    | with_reducible apply absorbed_frame
    | with_reducible apply State.bump_frame
    | with_reducible apply State.setLine_frame
    | with_reducible apply Frame.ite
    | with_reducible refine Frame.foldl (fun u a hu => ?_) ?_
    | with_reducible refine Frame.foldl_on (get := Prod.fst) (fun u a hu => ?_) ?_
    | with_reducible refine Frame.foldl_on (get := Prod.snd) (fun u a hu => ?_) ?_
    | exact has_RETRIES_COUNT rfl hm
    | (intro x; refine (?_ : Frame M s0 x → _) ?_; (intro hx; clear_value x))
    | (intro x; clear_value x)
    | intro _
    | split
    | lift_lets -underBinder

theorem execRetryReq_frame {M : Nat} {s0 s : State} {x0 x1} (h : Frame M s0 s)
    (hm : sub 0x800000000000000000000000000000000000000000000000814fbc040000000000000000000000100000000000000000000a010380 M = true) : FrameR M s0 (execRetryReq x0 x1 s) := by
  unfold execRetryReq
  repeat' first
    | exact sub_trans rfl hm
    | with_reducible assumption
    | with_reducible apply FrameR.of_next
    | with_reducible apply FrameR.whenOk
    | with_reducible apply honourRetry_frame

theorem closeRecv_frame {M : Nat} {s0 s : State} {x1 x2 x3} (h : Frame M s0 s)
    (hm : sub 0x10000 M = true) : Frame M s0 (closeRecv s x1 x2 x3) := by
  unfold closeRecv
  repeat' first
    | exact sub_trans rfl hm
    | with_reducible assumption
    | (intro x; refine (?_ : Frame M s0 x → _) ?_; (intro hx; clear_value x))
    | (intro x; clear_value x)
    | intro _
    | lift_lets -underBinder
    | with_reducible apply Frame.with_fab

theorem putRecv_frame {M : Nat} {s0 s : State} {x1} (h : Frame M s0 s)
    (hm : sub 0x10000 M = true) : Frame M s0 (putRecv s x1) := by
  unfold putRecv
  repeat' first
    | exact sub_trans rfl hm
    | with_reducible assumption
    | with_reducible apply closeRecv_frame
    | (intro x; refine (?_ : Frame M s0 x → _) ?_; (intro hx; clear_value x))
    | (intro x; clear_value x)
    | intro _
    | lift_lets -underBinder
    | with_reducible apply Frame.with_fab

theorem dropRest_frame {M : Nat} {s0 s : State} {x1 x2} (h : Frame M s0 s)
    (hm : sub 0x10000 M = true) : Frame M s0 (dropRest s x1 x2) := by
  unfold dropRest
  repeat' first
    | exact sub_trans rfl hm
    | with_reducible assumption
    | with_reducible apply closeRecv_frame
    | with_reducible apply putRecv_frame
    | with_reducible apply Frame.ite
    | split

theorem orderDrop_frame {M : Nat} {s0 s : State} {x1 x2} (h : Frame M s0 s)
    (hm : sub 0x814fbc040000000000000000000050180000000000000000002a012380 M = true) : Frame M s0 (orderDrop s x1 x2) := by
  unfold orderDrop
  repeat' first
    | exact sub_trans rfl hm
    | with_reducible assumption
    | with_reducible apply raise_frame
    | with_reducible apply State.bump_frame
    | with_reducible apply dropRest_frame
    | with_reducible apply tell_frame
    | exact has_ORDER_DROPS_COUNT rfl hm
    | (intro x; refine (?_ : Frame M s0 x → _) ?_; (intro hx; clear_value x))
    | (intro x; clear_value x)
    | intro _
    | lift_lets -underBinder

theorem refuseTransfer_frame {M : Nat} {s0 s : State} {f} (h : Frame M s0 s) (hf : has f M)
    (hm : sub 0x814fbc040000000000000000000010180000000000000000002a012380 M = true) : Frame M s0 (refuseTransfer s f) :=
  replayFault_frame (raise_frame (State.bump_frame h hf) (sub_trans rfl hm)) (sub_trans rfl hm)

theorem landBytes_frame {M : Nat} {s0 s : State} {x1 x2 x3} (h : Frame M s0 s)
    (hm : sub 0x4000ff8000000000000000000000000001d000832b7c0814fbc040000000000c000000000101c0000000000000000002a132f80 M = true) : Frame M s0 (landBytes s x1 x2 x3) := by
  unfold landBytes
  repeat' first
    | exact sub_trans rfl hm
    | with_reducible assumption
    | with_reducible apply storeFor_frame
    | with_reducible apply chargeRange_frame
    | with_reducible apply closeRecv_frame
    | with_reducible apply putRecv_frame
    | with_reducible apply Frame.ite
    | (intro x; refine (?_ : Frame M s0 x → _) ?_; (intro hx; clear_value x))
    | (intro x; clear_value x)
    | intro _
    | split
    | lift_lets -underBinder
    | with_reducible apply Frame.with_fab

theorem openTransfer_frame {M : Nat} {s0 s : State} {x1 x2} (h : Frame M s0 s)
    (hm : sub 0x4000ff8000000000000000000000000001d000832b7c0814fbc040000000000c000000003901c0000000000000000002a132f80 M = true) : Frame M s0 (openTransfer s x1 x2) := by
  unfold openTransfer
  repeat' first
    | exact sub_trans rfl hm
    | with_reducible assumption
    | with_reducible apply landBytes_frame
    | with_reducible apply dropRest_frame
    | with_reducible apply State.bump_frame
    | with_reducible apply refuseTransfer_frame
    | with_reducible apply Frame.ite
    | exact has_PERSIST_HITS_COUNT rfl hm
    | exact has_RANGE_DROPS_COUNT rfl hm
    | exact has_STALE_DROPS_COUNT rfl hm
    | (intro x; refine (?_ : Frame M s0 x → _) ?_; (intro hx; clear_value x))
    | (intro x; clear_value x)
    | intro _
    | split
    | lift_lets -underBinder

theorem endpointData_frame {M : Nat} {s0 s : State} {x1 x2} (h : Frame M s0 s)
    (hm : sub 0x4000ff8000000000000000000000000001d000832b7c0814fbc040000000000c000000003d01c0000000000000000002a132f80 M = true) : Frame M s0 (endpointData s x1 x2) := by
  unfold endpointData
  repeat' first
    | exact sub_trans rfl hm
    | with_reducible assumption
    | with_reducible apply openTransfer_frame
    | with_reducible apply orderDrop_frame
    | with_reducible apply closeRecv_frame
    | with_reducible apply dropRest_frame
    | with_reducible apply State.bump_frame
    | with_reducible apply landBytes_frame
    | with_reducible apply Frame.ite
    | exact has_STALE_DROPS_COUNT rfl hm
    | (intro x; refine (?_ : Frame M s0 x → _) ?_; (intro hx; clear_value x))
    | (intro x; clear_value x)
    | intro _
    | split
    | lift_lets -underBinder

theorem openRestore_frame {M : Nat} {s0 s : State} {x1} (h : Frame M s0 s)
    (hm : sub 0x4000ff8000000000000000000000000001d000832b7c0814fbc040000000000c000000002101c0000000000000000002a132f80 M = true) : Frame M s0 (openRestore s x1) := by
  unfold openRestore
  repeat' first
    | exact sub_trans rfl hm
    | with_reducible assumption
    | with_reducible apply dropRest_frame
    | with_reducible apply raise_frame
    | with_reducible apply State.bump_frame
    | with_reducible apply landBytes_frame
    | with_reducible apply Frame.ite
    | exact has_RANGE_DROPS_COUNT rfl hm
    | (intro x; refine (?_ : Frame M s0 x → _) ?_; (intro hx; clear_value x))
    | (intro x; clear_value x)
    | intro _
    | split
    | lift_lets -underBinder

theorem gondolaData_frame {M : Nat} {s0 s : State} {x1} (h : Frame M s0 s)
    (hm : sub 0x4000ff8000000000000000000000000001d000832b7c0814fbc040000000000c000000002501c0000000000000000002a132f80 M = true) : Frame M s0 (gondolaData s x1) := by
  unfold gondolaData
  repeat' first
    | exact sub_trans rfl hm
    | with_reducible assumption
    | with_reducible apply openRestore_frame
    | with_reducible apply orderDrop_frame
    | with_reducible apply closeRecv_frame
    | with_reducible apply landBytes_frame
    | with_reducible apply Frame.ite
    | split

theorem atEndpoint_frame {M : Nat} {s0 s : State} {x1} (h : Frame M s0 s)
    (hm : sub 0x4000ff8000000000000000000000000001d000832b7c0814fbc0c0000000020c000000003f01c0000000000000000002a132f80 M = true) : Frame M s0 (atEndpoint s x1) := by
  unfold atEndpoint
  repeat' first
    | exact sub_trans rfl hm
    | with_reducible assumption
    | with_reducible apply State.bump_frame
    | with_reducible apply sendBulk_frame
    | with_reducible apply State.emit_frame
    | with_reducible apply endpointData_frame
    | with_reducible apply gondolaData_frame
    | with_reducible apply Frame.ite
    | exact has_BAD_EP_COUNT rfl hm
    | (intro x; refine (?_ : Frame M s0 x → _) ?_; (intro hx; clear_value x))
    | (intro x; clear_value x)
    | intro _
    | split
    | lift_lets -underBinder

theorem takeBuffered_frame {M : Nat} {s0 s : State} {x1 x2 x3} (h : Frame M s0 s)
    (hm : sub 0x4000ff8000000000000000000000000001d000832b7c0814fbc0c0000000020c000000003f01c0000000000000000002a132f80 M = true) : Frame M s0 (takeBuffered s x1 x2 x3) := by
  unfold takeBuffered
  repeat' first
    | exact sub_trans rfl hm
    | with_reducible assumption
    | with_reducible apply State.setLine_frame
    | with_reducible apply atEndpoint_frame
    | with_reducible apply forward_frame
    | with_reducible apply Frame.ite
    | (intro x; refine (?_ : Frame M s0 x → _) ?_; (intro hx; clear_value x))
    | (intro x; clear_value x)
    | intro _
    | split
    | lift_lets -underBinder

theorem execDataFlit_frame {M : Nat} {s0 s : State} {x0 x1 x2} (h : Frame M s0 s)
    (hm : sub 0x4000ff8000000000000000000000000001d000832b7c0814fbc0c0000000020c000000003f01c0000000000000000002a132f80 M = true) : FrameR M s0 (execDataFlit x0 x1 x2 s) := by
  unfold execDataFlit
  repeat' first
    | exact sub_trans rfl hm
    | with_reducible assumption
    | with_reducible apply FrameR.of_next
    | with_reducible apply FrameR.whenOk
    | with_reducible apply takeBuffered_frame

theorem inject_frame {M : Nat} {s0 s : State} {x1 x2} (h : Frame M s0 s)
    (hm : sub 0x4000ff8000000000000000000000000001d000832b7c0814fbc0c0000000020c000000003f01c0000000000000000002a132f80 M = true) : Frame M s0 (inject s x1 x2) := by
  unfold inject
  repeat' first
    | exact sub_trans rfl hm
    | with_reducible assumption
    | with_reducible apply atEndpoint_frame
    | with_reducible apply enqueue_frame
    | with_reducible apply forward_frame
    | with_reducible apply Frame.ite
    | split

theorem putFlits_frame {M : Nat} {s0 s : State} {x1} (h : Frame M s0 s)
    (hm : sub 0x4000ff8000000000000000000000000001d000832b7c0814fbc0c0000000020c000000003f01c0000000000000000002a132f80 M = true) : Frame M s0 (putFlits s x1) := by
  unfold putFlits
  repeat' first
    | exact sub_trans rfl hm
    | with_reducible assumption
    | with_reducible apply inject_frame
    | with_reducible refine Frame.foldl (fun u a hu => ?_) ?_
    | with_reducible refine Frame.foldl_on (get := Prod.fst) (fun u a hu => ?_) ?_
    | with_reducible refine Frame.foldl_on (get := Prod.snd) (fun u a hu => ?_) ?_
    | (intro x; refine (?_ : Frame M s0 x → _) ?_; (intro hx; clear_value x))
    | (intro x; clear_value x)
    | intro _
    | lift_lets -underBinder

theorem startSend_frame {M : Nat} {s0 s : State} {x1 x2 x3 x4 x5 x6} (h : Frame M s0 s)
    (hm : sub 0x4000ff8000000000000000000000000001d000832b7c0814fbc0c0000000020c000000003f01c0000000000000000002a132f80 M = true) : Frame M s0 (startSend s x1 x2 x3 x4 x5 x6) := by
  unfold startSend
  repeat' first
    | exact sub_trans rfl hm
    | with_reducible assumption
    | with_reducible apply putFlits_frame
    | (intro x; refine (?_ : Frame M s0 x → _) ?_; (intro hx; clear_value x))
    | (intro x; clear_value x)
    | intro _
    | lift_lets -underBinder
    | with_reducible apply Frame.with_fab

theorem runLine_frame {M : Nat} {s0 s : State} {x1} (h : Frame M s0 s)
    (hm : sub 0x4c68ff8000000000000000000000000001d000832bfc0814fbc0c0000000020c000000003f01c0000000000000000002a132f80 M = true) : Frame M s0 (runLine s x1) := by
  unfold runLine
  repeat' first
    | exact sub_trans rfl hm
    | with_reducible assumption
    | with_reducible apply State.setLine_frame
    | with_reducible apply readFor_frame
    | with_reducible apply readFor_frame_eq (by assumption)
    | with_reducible apply chargeRange_frame
    | with_reducible apply startSend_frame
    | with_reducible apply Frame.ite
    | (intro x; refine (?_ : Frame M s0 x → _) ?_; (intro hx; clear_value x))
    | (intro x; clear_value x)
    | intro _
    | split
    | lift_lets -underBinder

theorem startLine_frame {M : Nat} {s0 s : State} {x1} (h : Frame M s0 s)
    (hm : sub 0x4c68ff8000000000000000000000000001d000832bfc0814fbc0c0000000020c000000003f01c0000000000000000002a132f80 M = true) : Frame M s0 (startLine s x1) := by
  unfold startLine
  repeat' first
    | exact sub_trans rfl hm
    | with_reducible assumption
    | with_reducible apply fetchRecords_frame
    | with_reducible apply runLine_frame
    | (intro x; refine (?_ : Frame M s0 x → _) ?_; (intro hx; clear_value x))
    | (intro x; clear_value x)
    | intro _
    | lift_lets -underBinder

theorem execLineScheduleRecord_frame {M : Nat} {s0 s : State} {x0} (h : Frame M s0 s)
    (hm : sub 0x4c68ff8000000000000000000000000001d000832bfc0814fbc0c0000000020c000000003f01c0000000000000000002a132f80 M = true) : FrameR M s0 (execLineScheduleRecord x0 s) := by
  unfold execLineScheduleRecord
  repeat' first
    | exact sub_trans rfl hm
    | with_reducible assumption
    | with_reducible apply FrameR.of_next
    | with_reducible apply FrameR.whenOk
    | with_reducible apply startLine_frame

end Sys2Proof.Machine
end

