-- ==== Sys2Proof/Laws/FrameWinch.lean ====
section
/-! SUPPORT. Frame lemmas for the functions of Machine/Winch.lean. -/

set_option Elab.async false
set_option linter.all false

namespace Sys2Proof.Machine

theorem State.setRun_frame {M : Nat} {s0 s : State} {x1 x2} (h : Frame M s0 s)
    (hm : sub 0x20000 M = true) : Frame M s0 (State.setRun s x1 x2) := by
  unfold State.setRun
  repeat' first
    | exact sub_trans rfl hm
    | with_reducible assumption
    | with_reducible apply State.setWinch_frame
    | (intro x; refine (?_ : Frame M s0 x → _) ?_; (intro hx; clear_value x))
    | (intro x; clear_value x)
    | intro _
    | lift_lets -underBinder

theorem winchLoses_frame {M : Nat} {s0 s : State} {x1 x2 x3 x4} (h : Frame M s0 s)
    (hm : sub 0x8320000814fbc040000000000c000000000101c0000000000000000002a132380 M = true) : Frame M s0 (winchLoses s x1 x2 x3 x4) := by
  unfold winchLoses
  repeat' first
    | exact sub_trans rfl hm
    | with_reducible assumption
    | with_reducible apply winchFault_frame
    | with_reducible apply noteUe_frame
    | with_reducible refine Frame.foldl (fun u a hu => ?_) ?_
    | with_reducible refine Frame.foldl_on (get := Prod.fst) (fun u a hu => ?_) ?_
    | with_reducible refine Frame.foldl_on (get := Prod.snd) (fun u a hu => ?_) ?_
    | intro _

theorem winchRead_frame {M : Nat} {s0 s : State} {x1 x2 x3 x4 x5} (h : Frame M s0 s)
    (hm : sub 0x4c68ff80000000000000000000000000000000832bfc0814fbc040000000000c000000000101c0000000000000000002a132f80 M = true) : Frame M s0 (winchRead s x1 x2 x3 x4 x5).2 := by
  unfold winchRead
  repeat' first
    | exact sub_trans rfl hm
    | with_reducible assumption
    | with_reducible apply memRead_frame
    | with_reducible apply memRead_frame_eq (by assumption)
    | with_reducible apply chargeRange_frame
    | with_reducible apply winchLoses_frame
    | with_reducible apply uncorrectableRead_frame
    | with_reducible apply Frame.ite
    | with_reducible refine Frame.foldl (fun u a hu => ?_) ?_
    | with_reducible refine Frame.foldl_on (get := Prod.fst) (fun u a hu => ?_) ?_
    | with_reducible refine Frame.foldl_on (get := Prod.snd) (fun u a hu => ?_) ?_
    | (intro x; refine (?_ : Frame M s0 x → _) ?_; (intro hx; clear_value x))
    | (intro x; clear_value x)
    | intro _
    | split
    | lift_lets -underBinder
    | dsimp only

theorem winchRead_frame_eq {M : Nat} {s0 s : State} {x1 x2 x3 x4 x5} {a0 t} (e : winchRead s x1 x2 x3 x4 x5 = (a0, t)) (h : Frame M s0 s)
    (hm : sub 0x4c68ff80000000000000000000000000000000832bfc0814fbc040000000000c000000000101c0000000000000000002a132f80 M = true) : Frame M s0 t := by
  have := winchRead_frame (x1 := x1) (x2 := x2) (x3 := x3) (x4 := x4) (x5 := x5) h hm
  rwa [e] at this

theorem winchWrite_frame {M : Nat} {s0 s : State} {x1 x2 x3 x4 x5} (h : Frame M s0 s)
    (hm : sub 0x4000ff80000000000000000000000000000000832b7c0814fbc040000000000c000000000101c0000000000000000002a132f80 M = true) : Frame M s0 (winchWrite s x1 x2 x3 x4 x5) := by
  unfold winchWrite
  repeat' first
    | exact sub_trans rfl hm
    | with_reducible assumption
    | with_reducible apply memWrite_frame
    | with_reducible apply memWrite_frame_eq (by assumption)
    | with_reducible apply chargeRange_frame
    | with_reducible apply winchLoses_frame
    | with_reducible apply failedMerge_frame
    | with_reducible apply Frame.ite
    | with_reducible refine Frame.foldl (fun u a hu => ?_) ?_
    | with_reducible refine Frame.foldl_on (get := Prod.fst) (fun u a hu => ?_) ?_
    | with_reducible refine Frame.foldl_on (get := Prod.snd) (fun u a hu => ?_) ?_
    | (intro x; refine (?_ : Frame M s0 x → _) ?_; (intro hx; clear_value x))
    | (intro x; clear_value x)
    | intro _
    | split
    | lift_lets -underBinder

theorem readAll_frame {M : Nat} {s0 s : State} {t idx part rs} (h : Frame M s0 s)
    (hm : sub 0x4c68ff80000000000000000000000000000000832bfc0814fbc040000000000c000000000101c0000000000000000002a132f80 M = true) : Frame M s0 (readAll s t idx part rs).2 := by
  induction rs generalizing s with
  | nil => exact h
  | cons r rs ih =>
    unfold readAll
    split
    · rename_i e
      exact winchRead_frame_eq e h (sub_trans rfl hm)
    · rename_i e
      exact ih (winchRead_frame_eq e h (sub_trans rfl hm))

theorem readAll_frame_eq {M : Nat} {s0 s : State} {t idx part rs x u} (e : readAll s t idx part rs = (x, u))
    (h : Frame M s0 s) (hm : sub 0x4c68ff80000000000000000000000000000000832bfc0814fbc040000000000c000000000101c0000000000000000002a132f80 M = true) : Frame M s0 u := by
  have := readAll_frame (t := t) (idx := idx) (part := part) (rs := rs) h hm
  rwa [e] at this

theorem readInputs_frame {M : Nat} {s0 s : State} {x1 x2 x3 x4 x5 x6} (h : Frame M s0 s)
    (hm : sub 0x4c68ff80000000000000000000000000000000832bfc0814fbc040000000000c000000000101c0000000000000000002a132f80 M = true) : Frame M s0 (readInputs s x1 x2 x3 x4 x5 x6).2 := by
  unfold readInputs
  repeat' first
    | exact sub_trans rfl hm
    | with_reducible assumption
    | with_reducible apply readAll_frame
    | with_reducible apply readAll_frame_eq (by assumption)
    | (intro x; refine (?_ : Frame M s0 x → _) ?_; (intro hx; clear_value x))
    | (intro x; clear_value x)
    | intro _
    | split
    | lift_lets -underBinder
    | dsimp only

theorem readInputs_frame_eq {M : Nat} {s0 s : State} {x1 x2 x3 x4 x5 x6} {a0 t} (e : readInputs s x1 x2 x3 x4 x5 x6 = (a0, t)) (h : Frame M s0 s)
    (hm : sub 0x4c68ff80000000000000000000000000000000832bfc0814fbc040000000000c000000000101c0000000000000000002a132f80 M = true) : Frame M s0 t := by
  have := readInputs_frame (x1 := x1) (x2 := x2) (x3 := x3) (x4 := x4) (x5 := x5) (x6 := x6) h hm
  rwa [e] at this

theorem accumulatePass_frame {M : Nat} {s0 s : State} {x1 x2 x3 x4} (h : Frame M s0 s)
    (hm : sub 0x4c68ff80000000000000000000000000000000832bfc0814fbc040000000000c000000000101c0000000000000000002a132f80 M = true) : Frame M s0 (accumulatePass s x1 x2 x3 x4) := by
  unfold accumulatePass
  repeat' first
    | exact sub_trans rfl hm
    | with_reducible assumption
    | with_reducible apply readInputs_frame
    | with_reducible apply readInputs_frame_eq (by assumption)
    | with_reducible apply winchWrite_frame
    | split

theorem contributions_frame {M : Nat} {s0 s : State} {x1 x2 x3 x4} (h : Frame M s0 s)
    (hm : sub 0x4c68ff80000000000000000000000000000000832bfc0814fbc040000000000c000000000101c0000000000000000002a132f80 M = true) : Frame M s0 (contributions s x1 x2 x3 x4).2 := by
  unfold contributions
  repeat' first
    | exact sub_trans rfl hm
    | with_reducible assumption
    | with_reducible apply readInputs_frame
    | with_reducible apply readInputs_frame_eq (by assumption)
    | with_reducible apply Frame.ite
    | (intro x; refine (?_ : Frame M s0 x → _) ?_; (intro hx; clear_value x))
    | (intro x; clear_value x)
    | intro _
    | split
    | lift_lets -underBinder
    | dsimp only

theorem contributions_frame_eq {M : Nat} {s0 s : State} {x1 x2 x3 x4} {a0 t} (e : contributions s x1 x2 x3 x4 = (a0, t)) (h : Frame M s0 s)
    (hm : sub 0x4c68ff80000000000000000000000000000000832bfc0814fbc040000000000c000000000101c0000000000000000002a132f80 M = true) : Frame M s0 t := by
  have := contributions_frame (x1 := x1) (x2 := x2) (x3 := x3) (x4 := x4) h hm
  rwa [e] at this

theorem writeResult_frame {M : Nat} {s0 s : State} {x1 x2 x3 x4} (h : Frame M s0 s)
    (hm : sub 0x4000ff80000000000000000000000000000200832b7c0814fbc040000000000c000000000101c0000000000000000002a132f80 M = true) : Frame M s0 (writeResult s x1 x2 x3 x4) := by
  unfold writeResult
  repeat' first
    | exact sub_trans rfl hm
    | with_reducible assumption
    | with_reducible apply winchWrite_frame
    | with_reducible apply State.setRun_frame
    | with_reducible apply State.wr_frame
    | with_reducible apply Frame.ite
    | exact has_NAN_GROUPS_GROUPS rfl hm
    | (intro x; refine (?_ : Frame M s0 x → _) ?_; (intro hx; clear_value x))
    | (intro x; clear_value x)
    | intro _
    | split
    | lift_lets -underBinder

theorem queueSegment_frame {M : Nat} {s0 s : State} {x1 x2 x3 x4 x5} (h : Frame M s0 s)
    (hm : sub 0x20000 M = true) : Frame M s0 (queueSegment s x1 x2 x3 x4 x5) := by
  unfold queueSegment
  repeat' first
    | exact sub_trans rfl hm
    | with_reducible assumption
    | with_reducible apply State.setRun_frame
    | with_reducible apply Frame.ite
    | (intro x; refine (?_ : Frame M s0 x → _) ?_; (intro hx; clear_value x))
    | (intro x; clear_value x)
    | intro _
    | split
    | lift_lets -underBinder

theorem sendFree_frame {M : Nat} {s0 s : State} {x1 x2 x3 x4 x5} (h : Frame M s0 s)
    (hm : sub 0x814fbc040000000000000000000010180000000000000000002a012380 M = true) : Frame M s0 (sendFree s x1 x2 x3 x4 x5) := by
  unfold sendFree
  repeat' first
    | exact sub_trans rfl hm
    | with_reducible assumption
    | with_reducible apply tell_frame

theorem secondCopy_frame {M : Nat} {s0 s : State} {x1 x2 x3 x4 x5 x6 x7 x8} (h : Frame M s0 s)
    (hm : sub 0x28320000814fbc040000000000000000000010180000000000000000002a032380 M = true) : Frame M s0 (secondCopy s x1 x2 x3 x4 x5 x6 x7 x8) := by
  unfold secondCopy
  repeat' first
    | exact sub_trans rfl hm
    | with_reducible assumption
    | with_reducible apply sendFree_frame
    | with_reducible apply State.bump_frame
    | with_reducible apply State.setWinch_frame
    | with_reducible apply winchFault_frame
    | with_reducible apply raise_frame
    | with_reducible apply Frame.ite
    | exact has_DUP_DISCARDS_COUNT rfl hm
    | (intro x; refine (?_ : Frame M s0 x → _) ?_; (intro hx; clear_value x))
    | (intro x; clear_value x)
    | intro _
    | split
    | lift_lets -underBinder

theorem consumeCopy_frame {M : Nat} {s0 s : State} {x1 x2 x3 x4 x5 x6} (h : Frame M s0 s)
    (hm : sub 0x38320000814fbc040000000000000000000010180000000000000000002a032380 M = true) : Frame M s0 (consumeCopy s x1 x2 x3 x4 x5 x6) := by
  unfold consumeCopy
  repeat' first
    | exact sub_trans rfl hm
    | with_reducible assumption
    | with_reducible apply State.setWinch_frame
    | with_reducible apply sendFree_frame
    | with_reducible apply State.setRun_frame
    | with_reducible apply raise_frame
    | with_reducible apply State.bump_frame
    | with_reducible apply secondCopy_frame
    | with_reducible apply Frame.ite
    | exact has_BACKUP_TAKEN_COUNT rfl hm
    | (intro x; refine (?_ : Frame M s0 x → _) ?_; (intro hx; clear_value x))
    | (intro x; clear_value x)
    | intro _
    | split
    | lift_lets -underBinder

theorem countCombined_frame {M : Nat} {s0 s : State} {x1 x2 x3 x4} (h : Frame M s0 s)
    (hm : sub 0x4e0000814fbc040000000000000000000000000000000000000000000a010380 M = true) : Frame M s0 (countCombined s x1 x2 x3 x4) := by
  unfold countCombined
  repeat' first
    | exact sub_trans rfl hm
    | with_reducible assumption
    | with_reducible apply State.wr_frame
    | with_reducible apply State.bump_frame
    | with_reducible apply traceAdd_frame
    | exact has_SEGS_COMBINED_COUNT rfl hm
    | exact has_WN_STAT_CTX rfl hm
    | exact has_WN_STAT_PHASE rfl hm
    | exact has_WN_STAT_SEG rfl hm
    | (intro x; refine (?_ : Frame M s0 x → _) ?_; (intro hx; clear_value x))
    | (intro x; clear_value x)
    | intro _
    | lift_lets -underBinder

theorem finishHop_frame {M : Nat} {s0 s : State} {x1 x2 x3 x4 x5 x6 x7 x8 x9} (h : Frame M s0 s)
    (hm : sub 0x4000ff8000000000000000000000000000020087eb7c0814fbc040000000000c000000000101c0000000000000000002a132f80 M = true) : Frame M s0 (finishHop s x1 x2 x3 x4 x5 x6 x7 x8 x9) := by
  unfold finishHop
  repeat' first
    | exact sub_trans rfl hm
    | with_reducible assumption
    | with_reducible apply countCombined_frame
    | with_reducible apply State.setRun_frame
    | with_reducible apply writeResult_frame
    | with_reducible apply queueSegment_frame
    | with_reducible apply Frame.ite
    | (intro x; refine (?_ : Frame M s0 x → _) ?_; (intro hx; clear_value x))
    | (intro x; clear_value x)
    | intro _
    | split
    | lift_lets -underBinder

theorem firstHop_frame {M : Nat} {s0 s : State} {x1 x2 x3} (h : Frame M s0 s)
    (hm : sub 0x4c68ff8000000000000000000000000000020087ebfc0814fbc040000000000c000000000101c0000000000000000002a132f80 M = true) : Frame M s0 (firstHop s x1 x2 x3) := by
  unfold firstHop
  repeat' first
    | cases (by assumption : (([] : Bytes), (none : Option Nat), _) = (_, _, _))
    | exact sub_trans rfl hm
    | with_reducible assumption
    | with_reducible apply contributions_frame
    | with_reducible apply contributions_frame_eq (by assumption)
    | with_reducible apply winchRead_frame
    | with_reducible apply winchRead_frame_eq (by assumption)
    | with_reducible apply finishHop_frame
    | with_reducible apply Frame.ite
    | (intro x; refine (?_ : Frame M s0 x → _) ?_; (intro hx; clear_value x))
    | (intro x; clear_value x)
    | intro _
    | split
    | lift_lets -underBinder

theorem takeStaged_frame {M : Nat} {s0 s : State} {t r lap j role x f} (h : Frame M s0 s)
    (hf : ∀ u g, Frame M s0 u → Frame M s0 (f u g)) (hm : sub 0x4c68ff80000000000000000000000000000003832bfc0814fbc040000000000c000000000101c0000000000000000002a132f80 M = true) : Frame M s0 (takeStaged s t r lap j role x f) := by
  unfold takeStaged
  split
  · rename_i e
    exact winchRead_frame_eq e h (sub_trans rfl hm)
  · rename_i e
    exact hf _ _ (consumeCopy_frame (winchRead_frame_eq e h (sub_trans rfl hm)) (sub_trans rfl hm))

theorem laterHop_frame {M : Nat} {s0 s : State} {x1 x2 x3 x4 x5} (h : Frame M s0 s)
    (hm : sub 0x4c68ff8000000000000000000000000000020387ebfc0814fbc040000000000c000000000101c0000000000000000002a132f80 M = true) : Frame M s0 (laterHop s x1 x2 x3 x4 x5) := by
  unfold laterHop
  repeat' first
    | exact sub_trans rfl hm
    | with_reducible assumption
    | with_reducible apply takeStaged_frame
    | with_reducible apply contributions_frame
    | with_reducible apply contributions_frame_eq (by assumption)
    | with_reducible apply finishHop_frame
    | (intro x; refine (?_ : Frame M s0 x → _) ?_; (intro hx; clear_value x))
    | (intro x; clear_value x)
    | intro _
    | split
    | lift_lets -underBinder

theorem secondLap_frame {M : Nat} {s0 s : State} {x1 x2 x3 x4 x5} (h : Frame M s0 s)
    (hm : sub 0x4c68ff8000000000000000000000000000020387ebfc0814fbc040000000000c000000000101c0000000000000000002a132f80 M = true) : Frame M s0 (secondLap s x1 x2 x3 x4 x5) := by
  unfold secondLap
  repeat' first
    | exact sub_trans rfl hm
    | with_reducible assumption
    | with_reducible apply takeStaged_frame
    | with_reducible apply writeResult_frame
    | with_reducible apply countCombined_frame
    | with_reducible apply State.setRun_frame
    | with_reducible apply queueSegment_frame
    | with_reducible apply Frame.ite
    | (intro x; refine (?_ : Frame M s0 x → _) ?_; (intro hx; clear_value x))
    | (intro x; clear_value x)
    | intro _
    | split
    | lift_lets -underBinder

theorem settleWait_frame {M : Nat} {s0 s : State} {x1} (h : Frame M s0 s)
    (hm : sub 0x80000000000000000000000000000000000000000000000000000000000020000 M = true) : Frame M s0 (settleWait s x1) := by
  unfold settleWait
  repeat' first
    | exact sub_trans rfl hm
    | with_reducible assumption
    | with_reducible apply State.setWinch_frame
    | with_reducible apply endWait_frame
    | with_reducible apply Frame.ite
    | (intro x; refine (?_ : Frame M s0 x → _) ?_; (intro hx; clear_value x))
    | (intro x; clear_value x)
    | intro _
    | split
    | lift_lets -underBinder

theorem combineNext_frame {M : Nat} {s0 s : State} {x1 x2 x3 x4} (h : Frame M s0 s)
    (hm : sub 0x4c68ff8000000000000000000000000000020387ebfc0814fbc040000000000c000000000101c0000000000000000002a132f80 M = true) : Frame M s0 (combineNext s x1 x2 x3 x4) := by
  unfold combineNext
  repeat' first
    | exact sub_trans rfl hm
    | with_reducible assumption
    | with_reducible apply State.setWinch_frame
    | with_reducible apply firstHop_frame
    | with_reducible apply laterHop_frame
    | with_reducible apply secondLap_frame
    | with_reducible apply settleWait_frame
    | with_reducible apply Frame.ite
    | (intro x; refine (?_ : Frame M s0 x → _) ?_; (intro hx; clear_value x))
    | (intro x; clear_value x)
    | intro _
    | split
    | lift_lets -underBinder

theorem execSegmentCombine_frame {M : Nat} {s0 s : State} {x0} (h : Frame M s0 s)
    (hm : sub 0x4c68ff8000000000000000000000000000020387ebfc0814fbc040000000000c000000000101c0000000000000000002a132f80 M = true) : FrameR M s0 (execSegmentCombine x0 s) := by
  unfold execSegmentCombine
  repeat' first
    | exact sub_trans rfl hm
    | with_reducible assumption
    | with_reducible apply FrameR.of_next
    | with_reducible apply FrameR.whenOk
    | with_reducible apply combineNext_frame
    | split

theorem sendSegment_frame {M : Nat} {s0 s : State} {x1 x2 x3 x4 x5 x6} (h : Frame M s0 s)
    (hm : sub 0x4000ff8000000000000000000000000001d000832b7c0814fbc0c0000000020c000000003f01c0000000000000000002a132f80 M = true) : Frame M s0 (sendSegment s x1 x2 x3 x4 x5 x6) := by
  unfold sendSegment
  repeat' first
    | exact sub_trans rfl hm
    | with_reducible assumption
    | with_reducible apply startSend_frame
    | with_reducible apply State.setWinch_frame
    | with_reducible apply Frame.ite
    | (intro x; refine (?_ : Frame M s0 x → _) ?_; (intro hx; clear_value x))
    | (intro x; clear_value x)
    | intro _
    | split
    | lift_lets -underBinder

theorem execSegmentSend_frame {M : Nat} {s0 s : State} {x0 x1 x2} (h : Frame M s0 s)
    (hm : sub 0x4000ff8000000000000000000000000001d000832b7c0814fbc0c0000000020c000000003f01c0000000000000000002a132f80 M = true) : FrameR M s0 (execSegmentSend x0 x1 x2 s) := by
  unfold execSegmentSend
  repeat' first
    | exact sub_trans rfl hm
    | with_reducible assumption
    | with_reducible apply FrameR.of_next
    | with_reducible apply FrameR.whenOk
    | with_reducible apply sendSegment_frame
    | split

theorem freeSlot_frame {M : Nat} {s0 s : State} {x1 x2 x3 x4 x5} (h : Frame M s0 s)
    (hm : sub 0x80000000000000000000000000000000000000000000000000000000000020000 M = true) : Frame M s0 (freeSlot s x1 x2 x3 x4 x5) := by
  unfold freeSlot
  repeat' first
    | exact sub_trans rfl hm
    | with_reducible assumption
    | with_reducible apply settleWait_frame
    | with_reducible apply State.setWinch_frame
    | (intro x; refine (?_ : Frame M s0 x → _) ?_; (intro hx; clear_value x))
    | (intro x; clear_value x)
    | intro _
    | split
    | lift_lets -underBinder

theorem execSlotFree_frame {M : Nat} {s0 s : State} {x0 x1 x2 x3 x4} (h : Frame M s0 s)
    (hm : sub 0x80000000000000000000000000000000000000000000000000000000000020000 M = true) : FrameR M s0 (execSlotFree x0 x1 x2 x3 x4 s) := by
  unfold execSlotFree
  repeat' first
    | exact sub_trans rfl hm
    | with_reducible assumption
    | with_reducible apply FrameR.of_next
    | with_reducible apply FrameR.whenOk
    | with_reducible apply freeSlot_frame

theorem protoDrop_frame {M : Nat} {s0 s : State} {x1 x2 x3 x4} (h : Frame M s0 s)
    (hm : sub 0x48320000814fbc040000000000000000000010180000000000000000002a032380 M = true) : Frame M s0 (protoDrop s x1 x2 x3 x4) := by
  unfold protoDrop
  repeat' first
    | exact sub_trans rfl hm
    | with_reducible assumption
    | with_reducible apply winchFault_frame
    | with_reducible apply State.bump_frame
    | with_reducible apply State.setWinch_frame
    | exact has_PROTO_DROPS_COUNT rfl hm
    | (intro x; refine (?_ : Frame M s0 x → _) ?_; (intro hx; clear_value x))
    | (intro x; clear_value x)
    | intro _
    | lift_lets -underBinder

theorem notExpected_frame {M : Nat} {s0 s : State} {x1 x2 x3 x4 x5} (h : Frame M s0 s)
    (hm : sub 0x48320000814fbc040000000000000000000010180000000000000000002a032380 M = true) : Frame M s0 (notExpected s x1 x2 x3 x4 x5) := by
  unfold notExpected
  repeat' first
    | exact sub_trans rfl hm
    | with_reducible assumption
    | with_reducible apply protoDrop_frame
    | with_reducible apply Frame.ite
    | split

theorem checkStaged_frame {M : Nat} {s0 s : State} {x1 x2 x3 x4 x5} (h : Frame M s0 s)
    (hm : sub 0x68320000814fbc040000000000000000000010180000000000000000002a032380 M = true) : Frame M s0 (checkStaged s x1 x2 x3 x4 x5) := by
  unfold checkStaged
  repeat' first
    | exact sub_trans rfl hm
    | with_reducible assumption
    | with_reducible apply notExpected_frame
    | with_reducible apply protoDrop_frame
    | with_reducible apply State.setRun_frame
    | with_reducible apply secondCopy_frame
    | with_reducible apply settleWait_frame
    | with_reducible apply State.setWinch_frame
    | with_reducible apply Frame.ite
    | (intro x; refine (?_ : Frame M s0 x → _) ?_; (intro hx; clear_value x))
    | (intro x; clear_value x)
    | intro _
    | split
    | lift_lets -underBinder

theorem checkPast_frame {M : Nat} {s0 s : State} {x1 x2 x3 x4 x5} (h : Frame M s0 s)
    (hm : sub 0x68320000814fbc040000000000000000000010180000000000000000002a032380 M = true) : Frame M s0 (checkPast s x1 x2 x3 x4 x5) := by
  unfold checkPast
  repeat' first
    | exact sub_trans rfl hm
    | with_reducible assumption
    | with_reducible apply secondCopy_frame
    | with_reducible apply State.setWinch_frame
    | with_reducible apply notExpected_frame
    | with_reducible apply Frame.ite
    | (intro x; refine (?_ : Frame M s0 x → _) ?_; (intro hx; clear_value x))
    | (intro x; clear_value x)
    | intro _
    | split
    | lift_lets -underBinder

theorem segmentArrives_frame {M : Nat} {s0 s : State} {x1 x2 x3} (h : Frame M s0 s)
    (hm : sub 0x68320000814fbc040000000000000000000010180000000000000000002a032380 M = true) : Frame M s0 (segmentArrives s x1 x2 x3) := by
  unfold segmentArrives
  repeat' first
    | exact sub_trans rfl hm
    | with_reducible assumption
    | with_reducible apply State.setWinch_frame
    | with_reducible apply checkStaged_frame
    | with_reducible apply checkPast_frame
    | (intro x; refine (?_ : Frame M s0 x → _) ?_; (intro hx; clear_value x))
    | (intro x; clear_value x)
    | intro _
    | split
    | lift_lets -underBinder

theorem registerStream_frame {M : Nat} {s0 s : State} {x1 x2} (h : Frame M s0 s)
    (hm : sub 0x20000 M = true) : Frame M s0 (registerStream s x1 x2) := by
  unfold registerStream
  repeat' first
    | exact sub_trans rfl hm
    | with_reducible assumption
    | with_reducible apply State.setWinch_frame
    | with_reducible apply Frame.ite
    | split

theorem enterContext_frame {M : Nat} {s0 s : State} {x1 x2} (h : Frame M s0 s)
    (hm : sub 0x4c68ff80000000000000000000000000000006833bfc0814fbc040000000000c000000000101c0000000000000000002a132f80 M = true) : Frame M s0 (enterContext s x1 x2) := by
  unfold enterContext
  repeat' first
    | exact sub_trans rfl hm
    | with_reducible assumption
    | with_reducible apply State.wr_frame
    | with_reducible apply State.setRun_frame
    | with_reducible apply registerStream_frame
    | with_reducible apply accumulatePass_frame
    | with_reducible apply settleWait_frame
    | with_reducible apply checkStaged_frame
    | with_reducible apply Frame.ite
    | with_reducible refine Frame.foldl (fun u a hu => ?_) ?_
    | with_reducible refine Frame.foldl_on (get := Prod.fst) (fun u a hu => ?_) ?_
    | with_reducible refine Frame.foldl_on (get := Prod.snd) (fun u a hu => ?_) ?_
    | exact has_WN_STAT_BUSY rfl hm
    | exact has_WN_STAT_PHASE rfl hm
    | (intro x; refine (?_ : Frame M s0 x → _) ?_; (intro hx; clear_value x))
    | (intro x; clear_value x)
    | intro _
    | split
    | lift_lets -underBinder

theorem startDesc_frame {M : Nat} {s0 s : State} {x1 x2 x3 y4 x5} (h : Frame M s0 s)
    (hm : sub 0x4c68ff80000000000000000000000000000006833bfc0814fbc040000000000c000000000101c0000000000000000002a133f80 M = true) : Frame M s0 (startDesc s x1 x2 x3 y4 x5) := by
  unfold startDesc
  repeat' first
    | exact sub_trans rfl hm
    | with_reducible assumption
    | with_reducible apply winchFault_frame
    | with_reducible apply traceRecordDone_frame
    | with_reducible apply signalRecord_frame
    | with_reducible apply enterContext_frame
    | with_reducible apply Frame.ite
    | split

theorem acceptWinch_frame {M : Nat} {s0 s : State} {x1 x2 x3} (h : Frame M s0 s)
    (hm : sub 0x4c68ff80000000000000000000000000000006833bfc0814fbc040000000000c000000000101c0000000000000000002a137f80 M = true) : Frame M s0 (acceptWinch s x1 x2 x3) := by
  unfold acceptWinch
  repeat' first
    | exact sub_trans rfl hm
    | with_reducible assumption
    | with_reducible apply winchFault_frame
    | with_reducible apply issueRecord_frame
    | with_reducible apply memRead_frame
    | with_reducible apply memRead_frame_eq (by assumption)
    | with_reducible apply chargeRange_frame
    | with_reducible apply winchLoses_frame
    | with_reducible apply uncorrectableRead_frame
    | with_reducible apply startDesc_frame
    | with_reducible apply Frame.ite
    | with_reducible refine Frame.foldl (fun u a hu => ?_) ?_
    | with_reducible refine Frame.foldl_on (get := Prod.fst) (fun u a hu => ?_) ?_
    | with_reducible refine Frame.foldl_on (get := Prod.snd) (fun u a hu => ?_) ?_
    | (intro x; refine (?_ : Frame M s0 x → _) ?_; (intro hx; clear_value x))
    | (intro x; clear_value x)
    | intro _
    | split
    | lift_lets -underBinder

theorem startWinch_frame {M : Nat} {s0 s : State} {x1 x2 x3} (h : Frame M s0 s)
    (hm : sub 0x4c68ff8000000000000000000000000001d006833bfc0814fbc040000000000c000000000101c0000000000000000002a137f80 M = true) : Frame M s0 (startWinch s x1 x2 x3) := by
  unfold startWinch
  repeat' first
    | exact sub_trans rfl hm
    | with_reducible assumption
    | with_reducible apply fetchNext_frame
    | with_reducible apply acceptWinch_frame
    | (intro x; refine (?_ : Frame M s0 x → _) ?_; (intro hx; clear_value x))
    | (intro x; clear_value x)
    | intro _
    | lift_lets -underBinder

theorem execWinchRecord_frame {M : Nat} {s0 s : State} {x0 x1 x2} (h : Frame M s0 s)
    (hm : sub 0x4c68ff8000000000000000000000000001d006833bfc0814fbc040000000000c000000000101c0000000000000000002a137f80 M = true) : FrameR M s0 (execWinchRecord x0 x1 x2 s) := by
  unfold execWinchRecord
  repeat' first
    | exact sub_trans rfl hm
    | with_reducible assumption
    | with_reducible apply FrameR.of_next
    | with_reducible apply FrameR.whenOk
    | with_reducible apply startWinch_frame

theorem completeWinch_frame {M : Nat} {s0 s : State} {x1 x2} (h : Frame M s0 s)
    (hm : sub 0x8030000814fbc040000000000000000000000000000000000000000000a031380 M = true) : Frame M s0 (completeWinch s x1 x2) := by
  unfold completeWinch
  repeat' first
    | exact sub_trans rfl hm
    | with_reducible assumption
    | with_reducible apply State.setWinch_frame
    | with_reducible apply State.wr_frame
    | with_reducible apply settleWait_frame
    | with_reducible apply traceRecordDone_frame
    | with_reducible apply signalRecord_frame
    | with_reducible apply Frame.ite
    | exact has_WN_STAT_BUSY rfl hm
    | exact has_WN_STAT_PHASE rfl hm
    | (intro x; refine (?_ : Frame M s0 x → _) ?_; (intro hx; clear_value x))
    | (intro x; clear_value x)
    | intro _
    | split
    | lift_lets -underBinder

theorem execWinchRecordDone_frame {M : Nat} {s0 s : State} {x0 x1} (h : Frame M s0 s)
    (hm : sub 0x8030000814fbc040000000000000000000000000000000000000000000a031380 M = true) : FrameR M s0 (execWinchRecordDone x0 x1 s) := by
  unfold execWinchRecordDone
  repeat' first
    | exact sub_trans rfl hm
    | with_reducible assumption
    | with_reducible apply FrameR.of_next
    | with_reducible apply FrameR.whenOk
    | with_reducible apply completeWinch_frame
    | split

theorem clearWinchFault_frame {M : Nat} {s0 s : State} {x1} (h : Frame M s0 s)
    (hm : sub 0x3000000000000000000000000000000000000000000000000000000000000000 M = true) : Frame M s0 (clearWinchFault s x1) := by
  unfold clearWinchFault
  repeat' first
    | exact sub_trans rfl hm
    | with_reducible assumption
    | with_reducible apply State.wr_frame
    | exact has_WN_FAULT_CODE rfl hm
    | exact has_WN_FAULT_RECORD rfl hm

theorem execWnFaultClr_frame {M : Nat} {s0 s : State} {x0 x1} (h : Frame M s0 s)
    (hm : sub 0x3000000000000000000000000000000000000000000000000000000000000000 M = true) : FrameR M s0 (execWnFaultClr x0 x1 s) := by
  unfold execWnFaultClr
  repeat' first
    | exact sub_trans rfl hm
    | with_reducible assumption
    | with_reducible apply FrameR.of_next
    | with_reducible apply FrameR.whenOk
    | with_reducible apply FrameR.ite
    | with_reducible apply clearWinchFault_frame
    | with_reducible apply Frame.ite
    | split

theorem clearNan_frame {M : Nat} {s0 s : State} {x1} (h : Frame M s0 s)
    (hm : sub 0xf800000000000000000000000000000000000000000000000000000000000000000 M = true) : Frame M s0 (clearNan s x1) := by
  unfold clearNan
  repeat' first
    | exact sub_trans rfl hm
    | with_reducible assumption
    | with_reducible apply State.wr_frame
    | exact has_WN_NAN_ELEM_ELEM rfl hm
    | exact has_WN_NAN_INFO_DESC rfl hm
    | exact has_WN_NAN_INFO_RANK rfl hm
    | exact has_WN_NAN_INFO_VALID rfl hm
    | exact has_WN_NAN_STEP_STEP rfl hm

theorem execNanClr_frame {M : Nat} {s0 s : State} {x0 x1} (h : Frame M s0 s)
    (hm : sub 0xf800000000000000000000000000000000000000000000000000000000000000000 M = true) : FrameR M s0 (execNanClr x0 x1 s) := by
  unfold execNanClr
  repeat' first
    | exact sub_trans rfl hm
    | with_reducible assumption
    | with_reducible apply FrameR.of_next
    | with_reducible apply FrameR.whenOk
    | with_reducible apply FrameR.ite
    | with_reducible apply clearNan_frame
    | with_reducible apply Frame.ite
    | split

theorem landCount_frame {M : Nat} {s0 s : State} {t f e n} (h : Frame M s0 s) (hf : has f M)
    (hm : sub 0x814fbc040000000000000000000000000000000000000000000a010380 M = true) : Frame M s0 (landCount s t f e n) := by
  unfold landCount
  split
  · exact h
  · exact raise_frame (State.bump_frame h hf) hm

theorem landTotals_frame {M : Nat} {s0 s : State} {x1} (h : Frame M s0 s)
    (hm : sub 0x1f87800000814fbc040000000000000000000000000000000000000000000a030380 M = true) : Frame M s0 (landTotals s x1) := by
  unfold landTotals
  dsimp only
  repeat' first
    | exact sub_trans rfl hm
    | with_reducible assumption
    | with_reducible apply landCount_frame
    | with_reducible apply State.bump_frame
    | with_reducible apply State.setWinch_frame
    | with_reducible apply State.wr_frame
    | with_reducible simp only []
    | with_reducible apply Frame.ite
    | exact has_NAN_ELEMS_COUNT rfl hm
    | exact has_SCALE_CLAMPED_COUNT rfl hm
    | exact has_SCALE_RAISED_COUNT rfl hm
    | exact has_WN_CLIPS_COUNT rfl hm
    | exact has_WN_NAN_ELEM_ELEM rfl hm
    | exact has_WN_NAN_INFO_DESC rfl hm
    | exact has_WN_NAN_INFO_RANK rfl hm
    | exact has_WN_NAN_INFO_VALID rfl hm
    | exact has_WN_NAN_STEP_STEP rfl hm
    | exact has_WN_OF_COUNT rfl hm
    | (intro x; refine (?_ : Frame M s0 x → _) ?_; (intro hx; clear_value x))
    | (intro x; clear_value x)
    | intro _
    | split
    | lift_lets -underBinder

theorem sealNanGroups_frame {M : Nat} {s0 s : State} (h : Frame M s0 s)
    (hm : sub 0x40000000000000000000000000000000000000000000000000000000000000000000 M = true) : Frame M s0 (sealNanGroups s) := by
  unfold sealNanGroups
  repeat' first
    | exact sub_trans rfl hm
    | with_reducible assumption
    | with_reducible apply State.wr_frame
    | with_reducible refine Frame.foldl (fun u a hu => ?_) ?_
    | with_reducible refine Frame.foldl_on (get := Prod.fst) (fun u a hu => ?_) ?_
    | with_reducible refine Frame.foldl_on (get := Prod.snd) (fun u a hu => ?_) ?_
    | exact has_NAN_SEALED_GROUPS rfl hm
    | (intro x; refine (?_ : Frame M s0 x → _) ?_; (intro hx; clear_value x))
    | (intro x; clear_value x)
    | intro _
    | lift_lets -underBinder

theorem abandonBackups_frame {M : Nat} {s0 s : State} {x1} (h : Frame M s0 s)
    (hm : sub 0x20000 M = true) : Frame M s0 (abandonBackups s x1) := by
  unfold abandonBackups
  repeat' first
    | exact sub_trans rfl hm
    | with_reducible assumption
    | with_reducible apply State.setWinch_frame

theorem sealWinches_frame {M : Nat} {s0 s : State} (h : Frame M s0 s)
    (hm : sub 0x5f87800000814fbc040000000000000000000000000000000000000000000a030380 M = true) : Frame M s0 (sealWinches s) := by
  unfold sealWinches
  repeat' first
    | exact sub_trans rfl hm
    | with_reducible assumption
    | with_reducible apply abandonBackups_frame
    | with_reducible apply landTotals_frame
    | with_reducible apply sealNanGroups_frame
    | with_reducible refine Frame.foldl (fun u a hu => ?_) ?_
    | with_reducible refine Frame.foldl_on (get := Prod.fst) (fun u a hu => ?_) ?_
    | with_reducible refine Frame.foldl_on (get := Prod.snd) (fun u a hu => ?_) ?_
    | (intro x; refine (?_ : Frame M s0 x → _) ?_; (intro hx; clear_value x))
    | (intro x; clear_value x)
    | intro _
    | lift_lets -underBinder
    | with_reducible apply Frame.with_fab

theorem clearNanGroups_frame {M : Nat} {s0 s : State} {x1} (h : Frame M s0 s)
    (hm : sub 0x20000000000000000000000000000000000000000000000000000000000000000000 M = true) : Frame M s0 (clearNanGroups s x1) := by
  unfold clearNanGroups
  repeat' first
    | exact sub_trans rfl hm
    | with_reducible assumption
    | with_reducible apply State.wr_frame
    | with_reducible refine Frame.foldl (fun u a hu => ?_) ?_
    | with_reducible refine Frame.foldl_on (get := Prod.fst) (fun u a hu => ?_) ?_
    | with_reducible refine Frame.foldl_on (get := Prod.snd) (fun u a hu => ?_) ?_
    | exact has_NAN_GROUPS_GROUPS rfl hm
    | (intro x; refine (?_ : Frame M s0 x → _) ?_; (intro hx; clear_value x))
    | (intro x; clear_value x)
    | intro _
    | lift_lets -underBinder

theorem restartWinch_frame {M : Nat} {s0 s : State} {x1} (h : Frame M s0 s)
    (hm : sub 0x20080300000000000000000000000000000000000000000000000000000000024000 M = true) : Frame M s0 (restartWinch s x1) := by
  unfold restartWinch
  repeat' first
    | exact sub_trans rfl hm
    | with_reducible assumption
    | with_reducible apply State.setWinch_frame
    | with_reducible apply clearNanGroups_frame
    | with_reducible apply endWait_frame
    | with_reducible apply State.setSeq_frame
    | with_reducible apply State.wr_frame
    | exact has_WN_STAT_BUSY rfl hm
    | exact has_WN_STAT_PHASE rfl hm
    | (intro x; refine (?_ : Frame M s0 x → _) ?_; (intro hx; clear_value x))
    | (intro x; clear_value x)
    | intro _
    | lift_lets -underBinder

end Sys2Proof.Machine
end

