-- ==== Sys2Proof/Laws/FrameBurner.lean ====
section
/-! SUPPORT. Frame lemmas for the functions of Machine/Burner.lean. -/

set_option Elab.async false
set_option linter.all false

namespace Sys2Proof.Machine

theorem State.setBurner_frame {M : Nat} {s0 s : State} {x1 x2} (h : Frame M s0 s)
    (hm : sub 0x40000 M = true) : Frame M s0 (State.setBurner s x1 x2) := by
  unfold State.setBurner
  repeat' first
    | exact sub_trans rfl hm
    | with_reducible assumption
    | with_reducible apply Frame.with_burner

theorem checkGroups_frame {M : Nat} {s0 s : State} {x1} (h : Frame M s0 s)
    (hm : sub 0x200000000000000814fbc040000000000000000000000000000000000000000000a010380 M = true) : Frame M s0 (checkGroups s x1) := by
  unfold checkGroups
  repeat' first
    | exact sub_trans rfl hm
    | with_reducible assumption
    | with_reducible apply State.wr_frame
    | with_reducible apply raise_frame
    | with_reducible apply Frame.ite
    | with_reducible refine Frame.foldl (fun u a hu => ?_) ?_
    | with_reducible refine Frame.foldl_on (get := Prod.fst) (fun u a hu => ?_) ?_
    | with_reducible refine Frame.foldl_on (get := Prod.snd) (fun u a hu => ?_) ?_
    | exact has_BN_GINVALID_GROUPS rfl hm
    | (intro x; refine (?_ : Frame M s0 x → _) ?_; (intro hx; clear_value x))
    | (intro x; clear_value x)
    | intro _
    | split
    | lift_lets -underBinder

theorem gwinAdvance_frame {M : Nat} {s0 s : State} {x1} (h : Frame M s0 s)
    (hm : sub 0x1800000000000000000000000000000000000000000000000000000000000000000000000 M = true) : Frame M s0 (gwinAdvance s x1) := by
  unfold gwinAdvance
  repeat' first
    | exact sub_trans rfl hm
    | with_reducible assumption
    | with_reducible apply State.wr_frame
    | with_reducible apply Frame.ite
    | exact has_BN_GSEL_GROUP rfl hm
    | exact has_BN_GSEL_WORD rfl hm
    | (intro x; refine (?_ : Frame M s0 x → _) ?_; (intro hx; clear_value x))
    | (intro x; clear_value x)
    | intro _
    | split
    | lift_lets -underBinder

theorem gwinRead_frame {M : Nat} {s0 s : State} {x1} (h : Frame M s0 s)
    (hm : sub 0x1800000000000000000000000000000000000000000000000000000000000000000000000 M = true) : Frame M s0 (gwinRead s x1).2 := by
  unfold gwinRead
  repeat' first
    | exact sub_trans rfl hm
    | with_reducible assumption
    | with_reducible apply gwinAdvance_frame
    | with_reducible apply Frame.ite
    | (intro x; refine (?_ : Frame M s0 x → _) ?_; (intro hx; clear_value x))
    | (intro x; clear_value x)
    | intro _
    | split
    | lift_lets -underBinder
    | dsimp only

theorem gwinRead_frame_eq {M : Nat} {s0 s : State} {x1} {a0 t} (e : gwinRead s x1 = (a0, t)) (h : Frame M s0 s)
    (hm : sub 0x1800000000000000000000000000000000000000000000000000000000000000000000000 M = true) : Frame M s0 t := by
  have := gwinRead_frame (x1 := x1) h hm
  rwa [e] at this

theorem shadowStore_frame {M : Nat} {s0 s : State} {x1 x2} (h : Frame M s0 s)
    (hm : sub 0x18 M = true) : Frame M s0 (shadowStore s x1 x2) := by
  unfold shadowStore
  repeat' first
    | exact fun h => Table.rising_put h
    | exact fun h => Table.rising_erase h
    | exact fun h => Table.rising_filter h
    | exact fun h => Table.rising_putAll h
    | exact fun _ => rfl
    | exact fun h => Table.rising_putAll (Table.rising_filter h)
    | exact sub_trans rfl hm
    | with_reducible assumption
    | with_reducible apply Frame.ite
    | split
    | with_reducible apply Frame.with_shadow
    | with_reducible apply Frame.with_held

theorem gwinWrite_frame {M : Nat} {s0 s : State} {x1 x2} (h : Frame M s0 s)
    (hm : sub 0x180000000000000814fbc040000000000000000000000000000000000000000000a050398 M = true) : Frame M s0 (gwinWrite s x1 x2) := by
  unfold gwinWrite
  repeat' first
    | exact sub_trans rfl hm
    | with_reducible assumption
    | with_reducible apply refuse_frame
    | with_reducible apply gwinAdvance_frame
    | with_reducible apply shadowStore_frame
    | with_reducible apply State.setBurner_frame
    | with_reducible apply Frame.ite
    | (intro x; refine (?_ : Frame M s0 x → _) ?_; (intro hx; clear_value x))
    | (intro x; clear_value x)
    | intro _
    | split
    | lift_lets -underBinder

theorem execBnGwin_frame {M : Nat} {s0 s : State} {x0 x1} (h : Frame M s0 s)
    (hm : sub 0x180000000000000814fbc040000000000000000000000000000000000000000002a050398 M = true) : FrameR M s0 (execBnGwin x0 x1 s) := by
  unfold execBnGwin
  repeat' first
    | exact sub_trans rfl hm
    | with_reducible assumption
    | with_reducible apply FrameR.of_next
    | with_reducible apply FrameR.whenOk
    | with_reducible apply State.emit_frame
    | with_reducible apply gwinRead_frame
    | with_reducible apply gwinRead_frame_eq (by assumption)
    | with_reducible apply gwinWrite_frame
    | split

theorem advanceGroup_frame {M : Nat} {s0 s : State} {x1 x2 x3} (h : Frame M s0 s)
    (hm : sub 0x814fbc040000000000000000000000000000000000000000000a050380 M = true) : Frame M s0 (advanceGroup s x1 x2 x3) := by
  unfold advanceGroup
  repeat' first
    | exact sub_trans rfl hm
    | with_reducible assumption
    | with_reducible apply State.setBurner_frame
    | with_reducible apply raise_frame
    | with_reducible apply Frame.ite
    | (intro x; refine (?_ : Frame M s0 x → _) ?_; (intro hx; clear_value x))
    | (intro x; clear_value x)
    | intro _
    | split
    | lift_lets -underBinder

theorem countSkips_frame {M : Nat} {s0 s : State} {x1 x2} (h : Frame M s0 s)
    (hm : sub 0x400000000000814fbc040000000000000000000000000000000000000000000a010380 M = true) : Frame M s0 (countSkips s x1 x2) := by
  unfold countSkips
  repeat' first
    | exact sub_trans rfl hm
    | with_reducible assumption
    | with_reducible apply raise_frame
    | with_reducible apply State.bump_frame
    | with_reducible apply Frame.ite
    | exact has_NAN_SKIPS_COUNT rfl hm
    | split

theorem sealBurner_frame {M : Nat} {s0 s : State} {x1} (h : Frame M s0 s)
    (hm : sub 0x410000000000814fbc040000000000000000000000000000000000000000000a054380 M = true) : Frame M s0 (sealBurner s x1) := by
  unfold sealBurner
  repeat' first
    | exact sub_trans rfl hm
    | with_reducible assumption
    | with_reducible apply advanceGroup_frame
    | with_reducible apply State.setSeq_frame
    | with_reducible apply countSkips_frame
    | with_reducible apply State.setBurner_frame
    | with_reducible apply State.wr_frame
    | with_reducible apply Frame.ite
    | with_reducible refine Frame.foldl (fun u a hu => ?_) ?_
    | with_reducible refine Frame.foldl_on (get := Prod.fst) (fun u a hu => ?_) ?_
    | with_reducible refine Frame.foldl_on (get := Prod.snd) (fun u a hu => ?_) ?_
    | exact has_BN_STAT_PHASE rfl hm
    | (intro x; refine (?_ : Frame M s0 x → _) ?_; (intro hx; clear_value x))
    | (intro x; clear_value x)
    | intro _
    | split
    | lift_lets -underBinder

theorem computeRate_frame {M : Nat} {s0 s : State} {x1} (h : Frame M s0 s)
    (hm : sub 0x440000000000000814fbc040000000000000000000000000000000000000000000a050380 M = true) : Frame M s0 (computeRate s x1) := by
  unfold computeRate
  repeat' first
    | exact sub_trans rfl hm
    | with_reducible assumption
    | with_reducible apply State.setBurner_frame
    | with_reducible apply State.wr_frame
    | with_reducible apply raise_frame
    | with_reducible apply State.bump_frame
    | with_reducible apply Frame.ite
    | exact has_REEL_WAITS_COUNT rfl hm
    | exact has_RL_STEP_STEP rfl hm
    | (intro x; refine (?_ : Frame M s0 x → _) ?_; (intro hx; clear_value x))
    | (intro x; clear_value x)
    | intro _
    | split
    | lift_lets -underBinder

theorem execReelCompute_frame {M : Nat} {s0 s : State} {x0} (h : Frame M s0 s)
    (hm : sub 0x440000000000000814fbc040000000000000000000000000000000000000000000a050380 M = true) : FrameR M s0 (execReelCompute x0 s) := by
  unfold execReelCompute
  repeat' first
    | exact sub_trans rfl hm
    | with_reducible assumption
    | with_reducible apply FrameR.of_next
    | with_reducible apply FrameR.whenOk
    | with_reducible apply computeRate_frame

theorem burnRead_frame {M : Nat} {s0 s : State} {x1 x2 x3} (h : Frame M s0 s)
    (hm : sub 0x4c68ff80000000000000000000000000000000000bfc0814fbc040000000000c000000000101c0000000000000000002a112f80 M = true) : Frame M s0 (burnRead s x1 x2 x3).2.2 := by
  unfold burnRead
  repeat' first
    | exact sub_trans rfl hm
    | with_reducible assumption
    | with_reducible apply memRead_frame
    | with_reducible apply memRead_frame_eq (by assumption)
    | with_reducible apply chargeRange_frame
    | with_reducible apply uncorrectableRead_frame
    | with_reducible refine Frame.foldl (fun u a hu => ?_) ?_
    | with_reducible refine Frame.foldl_on (get := Prod.fst) (fun u a hu => ?_) ?_
    | with_reducible refine Frame.foldl_on (get := Prod.snd) (fun u a hu => ?_) ?_
    | (intro x; refine (?_ : Frame M s0 x → _) ?_; (intro hx; clear_value x))
    | (intro x; clear_value x)
    | intro _
    | split
    | lift_lets -underBinder
    | dsimp only

theorem burnRead_frame_eq {M : Nat} {s0 s : State} {x1 x2 x3} {a0 a1 t} (e : burnRead s x1 x2 x3 = (a0, a1, t)) (h : Frame M s0 s)
    (hm : sub 0x4c68ff80000000000000000000000000000000000bfc0814fbc040000000000c000000000101c0000000000000000002a112f80 M = true) : Frame M s0 t := by
  have := burnRead_frame (x1 := x1) (x2 := x2) (x3 := x3) h hm
  rwa [e] at this

theorem burnWrite_frame {M : Nat} {s0 s : State} {x1 x2 x3} (h : Frame M s0 s)
    (hm : sub 0x4000ff80000000000000000000000000000000000b7c0814fbc040000000000000000000000000000000000000000000a010f80 M = true) : Frame M s0 (burnWrite s x1 x2 x3).2 := by
  unfold burnWrite
  repeat' first
    | exact sub_trans rfl hm
    | with_reducible assumption
    | with_reducible apply memWrite_frame
    | with_reducible apply memWrite_frame_eq (by assumption)
    | with_reducible apply chargeRange_frame
    | with_reducible apply failedMerge_frame
    | with_reducible refine Frame.foldl (fun u a hu => ?_) ?_
    | with_reducible refine Frame.foldl_on (get := Prod.fst) (fun u a hu => ?_) ?_
    | with_reducible refine Frame.foldl_on (get := Prod.snd) (fun u a hu => ?_) ?_
    | (intro x; refine (?_ : Frame M s0 x → _) ?_; (intro hx; clear_value x))
    | (intro x; clear_value x)
    | intro _
    | split
    | lift_lets -underBinder
    | dsimp only

theorem burnWrite_frame_eq {M : Nat} {s0 s : State} {x1 x2 x3} {a0 t} (e : burnWrite s x1 x2 x3 = (a0, t)) (h : Frame M s0 s)
    (hm : sub 0x4000ff80000000000000000000000000000000000b7c0814fbc040000000000000000000000000000000000000000000a010f80 M = true) : Frame M s0 t := by
  have := burnWrite_frame (x1 := x1) (x2 := x2) (x3 := x3) h hm
  rwa [e] at this

theorem updateRecord_frame {M : Nat} {s0 s : State} {x1 x2 x3 x4 x5} (h : Frame M s0 s)
    (hm : sub 0x4c68ff80000000000000000000000000000000000bfc0814fbc040000000000c000000000101c0000000000000000002a112f80 M = true) : Frame M s0 (updateRecord s x1 x2 x3 x4 x5).2 := by
  unfold updateRecord
  repeat' first
    | exact sub_trans rfl hm
    | with_reducible assumption
    | with_reducible apply burnRead_frame
    | with_reducible apply burnRead_frame_eq (by assumption)
    | with_reducible apply burnWrite_frame
    | with_reducible apply burnWrite_frame_eq (by assumption)
    | with_reducible apply Frame.ite
    | (intro x; refine (?_ : Frame M s0 x → _) ?_; (intro hx; clear_value x))
    | (intro x; clear_value x)
    | intro _
    | split
    | lift_lets -underBinder
    | dsimp only

theorem updateRecord_frame_eq {M : Nat} {s0 s : State} {x1 x2 x3 x4 x5} {a0 t} (e : updateRecord s x1 x2 x3 x4 x5 = (a0, t)) (h : Frame M s0 s)
    (hm : sub 0x4c68ff80000000000000000000000000000000000bfc0814fbc040000000000c000000000101c0000000000000000002a112f80 M = true) : Frame M s0 t := by
  have := updateRecord_frame (x1 := x1) (x2 := x2) (x3 := x3) (x4 := x4) (x5 := x5) h hm
  rwa [e] at this

theorem passRecord_frame {M : Nat} {s0 s : State} {x1 x2 x3 x4} (h : Frame M s0 s)
    (hm : sub 0x4c68ff80000000000000000000000000000000000bfc0814fbc040000000000c000000000101c0000000000000000002a112f80 M = true) : Frame M s0 (passRecord s x1 x2 x3 x4).2 := by
  unfold passRecord
  repeat' first
    | exact sub_trans rfl hm
    | with_reducible assumption
    | with_reducible apply burnRead_frame
    | with_reducible apply burnRead_frame_eq (by assumption)
    | with_reducible apply updateRecord_frame
    | with_reducible apply updateRecord_frame_eq (by assumption)
    | with_reducible apply Frame.ite
    | (intro x; refine (?_ : Frame M s0 x → _) ?_; (intro hx; clear_value x))
    | (intro x; clear_value x)
    | intro _
    | split
    | lift_lets -underBinder
    | dsimp only

theorem passRecord_frame_eq {M : Nat} {s0 s : State} {x1 x2 x3 x4} {a0 t} (e : passRecord s x1 x2 x3 x4 = (a0, t)) (h : Frame M s0 s)
    (hm : sub 0x4c68ff80000000000000000000000000000000000bfc0814fbc040000000000c000000000101c0000000000000000002a112f80 M = true) : Frame M s0 t := by
  have := passRecord_frame (x1 := x1) (x2 := x2) (x3 := x3) (x4 := x4) h hm
  rwa [e] at this

theorem writeCopy_frame {M : Nat} {s0 s : State} {x1 x2 x3 x4} (h : Frame M s0 s)
    (hm : sub 0x4000ff80000000000000000000000000000000000b7c0814fbc040000000000000000000000000000000000000000000a010f80 M = true) : Frame M s0 (writeCopy s x1 x2 x3 x4).2 := by
  unfold writeCopy
  repeat' first
    | cases (by assumption : (([] : List Nat), _) = (_, _))
    | exact sub_trans rfl hm
    | with_reducible assumption
    | with_reducible apply burnWrite_frame
    | with_reducible apply burnWrite_frame_eq (by assumption)
    | with_reducible apply Frame.ite
    | with_reducible refine Frame.foldl (fun u a hu => ?_) ?_
    | with_reducible refine Frame.foldl_on (get := Prod.fst) (fun u a hu => ?_) ?_
    | with_reducible refine Frame.foldl_on (get := Prod.snd) (fun u a hu => ?_) ?_
    | (intro x; refine (?_ : Frame M s0 x → _) ?_; (intro hx; clear_value x))
    | (intro x; clear_value x)
    | intro _
    | split
    | lift_lets -underBinder
    | dsimp only

theorem writeCopy_frame_eq {M : Nat} {s0 s : State} {x1 x2 x3 x4} {a0 t} (e : writeCopy s x1 x2 x3 x4 = (a0, t)) (h : Frame M s0 s)
    (hm : sub 0x4000ff80000000000000000000000000000000000b7c0814fbc040000000000000000000000000000000000000000000a010f80 M = true) : Frame M s0 t := by
  have := writeCopy_frame (x1 := x1) (x2 := x2) (x3 := x3) (x4 := x4) h hm
  rwa [e] at this

theorem passStep_frame {M : Nat} {s0 s : State} {x1 x2 x3 x4} (h : Frame M s0 s)
    (hm : sub 0x4c68ff80000000000000000000000000000000000bfc0814fbc040000000000c000000000101c0000000000000000002a112f80 M = true) : Frame M s0 (passStep s x1 x2 x3 x4).2 := by
  unfold passStep
  repeat' first
    | exact sub_trans rfl hm
    | with_reducible assumption
    | with_reducible apply writeCopy_frame
    | with_reducible apply writeCopy_frame_eq (by assumption)
    | with_reducible apply passRecord_frame
    | with_reducible apply passRecord_frame_eq (by assumption)
    | with_reducible apply Frame.ite
    | split
    | dsimp only

theorem passStep_frame_eq {M : Nat} {s0 s : State} {x1 x2 x3 x4} {a0 t} (e : passStep s x1 x2 x3 x4 = (a0, t)) (h : Frame M s0 s)
    (hm : sub 0x4c68ff80000000000000000000000000000000000bfc0814fbc040000000000c000000000101c0000000000000000002a112f80 M = true) : Frame M s0 t := by
  have := passStep_frame (x1 := x1) (x2 := x2) (x3 := x3) (x4 := x4) h hm
  rwa [e] at this

theorem passLoop_frame {M : Nat} {s0 : State} {fuel : Nat} {s : State} {t r l stop x} (h : Frame M s0 s)
    (hm : sub 0x4c68ff80000000000000000000000000000000000bfc0814fbc040000000000c000000000101c0000000000000000002a112f80 M = true) : Frame M s0 (passLoop fuel s t r l stop x).2 := by
  induction fuel generalizing s x with
  | zero => exact h
  | succ k ih =>
    rw [passLoop]
    split
    · exact h
    · exact ih (passStep_frame h (sub_trans rfl hm))

theorem passLoop_frame_eq {M : Nat} {s0 : State} {fuel : Nat} {s : State} {t r l stop x y u}
    (e : passLoop fuel s t r l stop x = (y, u)) (h : Frame M s0 s) (hm : sub 0x4c68ff80000000000000000000000000000000000bfc0814fbc040000000000c000000000101c0000000000000000002a112f80 M = true) : Frame M s0 u := by
  have := passLoop_frame (fuel := fuel) (t := t) (r := r) (l := l) (stop := stop) (x := x) h hm
  rwa [e] at this

theorem countPass_frame {M : Nat} {s0 s : State} {x1 x2 x3} (h : Frame M s0 s)
    (hm : sub 0x1fa00000000000814fbc040000000000000000000000000000000000000000000a010380 M = true) : Frame M s0 (countPass s x1 x2 x3) := by
  unfold countPass
  repeat' first
    | exact sub_trans rfl hm
    | with_reducible assumption
    | with_reducible apply State.bump_frame
    | with_reducible apply raise_frame
    | with_reducible apply Frame.ite
    | exact has_BLOCK_FALLBACK_COUNT rfl hm
    | exact has_BN_CLIPS_COUNT rfl hm
    | exact has_DAMP_RAISES_COUNT rfl hm
    | exact has_REFACTORS_COUNT rfl hm
    | exact has_UPDATES_COUNT rfl hm
    | exact has_UPD_NONFINITE_COUNT rfl hm
    | exact has_WC_CLIPS_COUNT rfl hm
    | (intro x; refine (?_ : Frame M s0 x → _) ?_; (intro hx; clear_value x))
    | (intro x; clear_value x)
    | intro _
    | split
    | lift_lets -underBinder

theorem burnerAsks_frame {M : Nat} {s0 s : State} {x1 x2 x3} (h : Frame M s0 s)
    (hm : sub 0x814fbc040000000000c00000000010180000000000000000002a110380 M = true) : Frame M s0 (burnerAsks s x1 x2 x3) := by
  unfold burnerAsks
  repeat' first
    | exact sub_trans rfl hm
    | with_reducible assumption
    | with_reducible apply askRestore_frame
    | with_reducible refine Frame.foldl (fun u a hu => ?_) ?_
    | with_reducible refine Frame.foldl_on (get := Prod.fst) (fun u a hu => ?_) ?_
    | with_reducible refine Frame.foldl_on (get := Prod.snd) (fun u a hu => ?_) ?_
    | (intro x; refine (?_ : Frame M s0 x → _) ?_; (intro hx; clear_value x))
    | (intro x; clear_value x)
    | intro _
    | lift_lets -underBinder
    | with_reducible apply Frame.with_recov

theorem burnerLoses_frame {M : Nat} {s0 s : State} {x1 x2 x3} (h : Frame M s0 s)
    (hm : sub 0x1d0000000000814fbc040000000000c00000000010180000000000000000002a152380 M = true) : Frame M s0 (burnerLoses s x1 x2 x3) := by
  unfold burnerLoses
  repeat' first
    | exact sub_trans rfl hm
    | with_reducible assumption
    | with_reducible apply burnerFault_frame
    | with_reducible apply State.setBurner_frame
    | with_reducible apply burnerAsks_frame

theorem passTo_frame {M : Nat} {s0 s : State} {x1 x2 x3 x4} (h : Frame M s0 s)
    (hm : sub 0x4c68ff80000000000000000000000001fb0000000bfc0814fbc040000000000c000000000101c0000000000000000002a112f80 M = true) : Frame M s0 (passTo s x1 x2 x3 x4).2.2 := by
  unfold passTo
  repeat' first
    | exact sub_trans rfl hm
    | with_reducible assumption
    | with_reducible apply passLoop_frame
    | with_reducible apply passLoop_frame_eq (by assumption)
    | with_reducible apply State.wr_frame
    | with_reducible apply countPass_frame
    | exact has_BN_PROGRESS_ELEM rfl hm
    | (intro x; refine (?_ : Frame M s0 x → _) ?_; (intro hx; clear_value x))
    | (intro x; clear_value x)
    | intro _
    | split
    | lift_lets -underBinder
    | dsimp only

theorem passTo_frame_eq {M : Nat} {s0 s : State} {x1 x2 x3 x4} {a0 a1 t} (e : passTo s x1 x2 x3 x4 = (a0, a1, t)) (h : Frame M s0 s)
    (hm : sub 0x4c68ff80000000000000000000000001fb0000000bfc0814fbc040000000000c000000000101c0000000000000000002a112f80 M = true) : Frame M s0 t := by
  have := passTo_frame (x1 := x1) (x2 := x2) (x3 := x3) (x4 := x4) h hm
  rwa [e] at this

theorem runPass_frame {M : Nat} {s0 s : State} {x1 x2 x3 x4} (h : Frame M s0 s)
    (hm : sub 0x4c68ff80000000000000000000000001fbd000000bfc0814fbc040000000000c000000000101c0000000000000000002a152f80 M = true) : Frame M s0 (runPass s x1 x2 x3 x4) := by
  unfold runPass
  repeat' first
    | exact sub_trans rfl hm
    | with_reducible assumption
    | with_reducible apply passTo_frame
    | with_reducible apply passTo_frame_eq (by assumption)
    | with_reducible apply burnerLoses_frame
    | with_reducible apply uncorrectableRead_frame
    | with_reducible apply State.setBurner_frame
    | with_reducible apply Frame.ite
    | (intro x; refine (?_ : Frame M s0 x → _) ?_; (intro hx; clear_value x))
    | (intro x; clear_value x)
    | intro _
    | split
    | lift_lets -underBinder

theorem holdPass_frame {M : Nat} {s0 s : State} {x1 x2 x3 x4} (h : Frame M s0 s)
    (hm : sub 0x4c68ff80000000000000000000000001fbd000000bfc0814fbc040000000000c000000000101c0000000000000000002a152f80 M = true) : Frame M s0 (holdPass s x1 x2 x3 x4) := by
  unfold holdPass
  repeat' first
    | exact sub_trans rfl hm
    | with_reducible assumption
    | with_reducible apply passTo_frame
    | with_reducible apply passTo_frame_eq (by assumption)
    | with_reducible apply burnerLoses_frame
    | with_reducible apply State.wr_frame
    | with_reducible apply State.setBurner_frame
    | with_reducible apply Frame.ite
    | exact has_BN_STAT_PHASE rfl hm
    | (intro x; refine (?_ : Frame M s0 x → _) ?_; (intro hx; clear_value x))
    | (intro x; clear_value x)
    | intro _
    | split
    | lift_lets -underBinder

theorem burnSignal_frame {M : Nat} {s0 s : State} {x1 x2 x3} (h : Frame M s0 s)
    (hm : sub 0x41000 M = true) : Frame M s0 (burnSignal s x1 x2 x3) := by
  unfold burnSignal
  repeat' first
    | exact sub_trans rfl hm
    | with_reducible assumption
    | with_reducible apply State.setBurner_frame
    | with_reducible apply signalLogical_frame
    | with_reducible apply Frame.ite
    | (intro x; refine (?_ : Frame M s0 x → _) ?_; (intro hx; clear_value x))
    | (intro x; clear_value x)
    | intro _
    | split
    | lift_lets -underBinder

theorem closePlan_frame {M : Nat} {s0 s : State} (h : Frame M s0 s)
    (hm : sub 0x1000000000000000000002000 M = true) : Frame M s0 (closePlan s) := by
  unfold closePlan
  repeat' first
    | exact sub_trans rfl hm
    | with_reducible assumption
    | with_reducible apply State.wr_frame
    | with_reducible apply Frame.ite
    | exact has_STEP_STAT_STATE rfl hm
    | split
    | with_reducible apply Frame.with_step

theorem traceBurn_frame {M : Nat} {s0 s : State} {x1 x2 x3 x4} (h : Frame M s0 s)
    (hm : sub 0x814fbc040000000000000000000000000000000000000000000a010380 M = true) : Frame M s0 (traceBurn s x1 x2 x3 x4) := by
  unfold traceBurn
  repeat' first
    | exact sub_trans rfl hm
    | with_reducible assumption
    | with_reducible apply traceAdd_frame

theorem afterRecord_frame {M : Nat} {s0 s : State} {x1} (h : Frame M s0 s)
    (hm : sub 0x180000000000000000000000000000000000000000001000000000000000000042000 M = true) : Frame M s0 (afterRecord s x1) := by
  unfold afterRecord
  repeat' first
    | exact sub_trans rfl hm
    | with_reducible assumption
    | with_reducible apply State.setBurner_frame
    | with_reducible apply closePlan_frame
    | with_reducible apply State.wr_frame
    | with_reducible apply Frame.ite
    | exact has_BN_STAT_BUSY rfl hm
    | exact has_BN_STAT_PHASE rfl hm
    | (intro x; refine (?_ : Frame M s0 x → _) ?_; (intro hx; clear_value x))
    | (intro x; clear_value x)
    | intro _
    | split
    | lift_lets -underBinder

theorem burnAtOnce_frame {M : Nat} {s0 s : State} {x1 x2} (h : Frame M s0 s)
    (hm : sub 0x18000000000814fbc040000000000000000000000000100000000000000000a057380 M = true) : Frame M s0 (burnAtOnce s x1 x2) := by
  unfold burnAtOnce
  repeat' first
    | exact sub_trans rfl hm
    | with_reducible assumption
    | with_reducible apply traceBurn_frame
    | with_reducible apply burnSignal_frame
    | with_reducible apply afterRecord_frame
    | with_reducible apply issueRecord_frame
    | (intro x; refine (?_ : Frame M s0 x → _) ?_; (intro hx; clear_value x))
    | (intro x; clear_value x)
    | intro _
    | lift_lets -underBinder

theorem passAs_frame {M : Nat} {s0 s : State} {x1 x2 x3 x4} (h : Frame M s0 s)
    (hm : sub 0x4c68ff80000000000000000000000001fbd000000bfc0814fbc040000000000c000000000101c0000000000000000002a152f80 M = true) : Frame M s0 (passAs s x1 x2 x3 x4) := by
  unfold passAs
  repeat' first
    | exact sub_trans rfl hm
    | with_reducible assumption
    | with_reducible apply runPass_frame
    | with_reducible apply holdPass_frame
    | split

theorem takeStream_frame {M : Nat} {s0 s : State} {x1 x2} (h : Frame M s0 s)
    (hm : sub 0x40000 M = true) : Frame M s0 (takeStream s x1 x2) := by
  unfold takeStream
  repeat' first
    | exact sub_trans rfl hm
    | with_reducible assumption
    | with_reducible apply State.setBurner_frame
    | with_reducible apply Frame.ite
    | (intro x; refine (?_ : Frame M s0 x → _) ?_; (intro hx; clear_value x))
    | (intro x; clear_value x)
    | intro _
    | split
    | lift_lets -underBinder

theorem beginPass_frame {M : Nat} {s0 s : State} {x1 x2 x3 x4 x5} (h : Frame M s0 s)
    (hm : sub 0x4c68ff80000000000000000000000003fbf800000bfc0814fbc040000000000c000000000101c0000000000000000002a156f80 M = true) : Frame M s0 (beginPass s x1 x2 x3 x4 x5) := by
  unfold beginPass
  repeat' first
    | exact sub_trans rfl hm
    | with_reducible assumption
    | with_reducible apply issueRecord_frame
    | with_reducible apply State.setBurner_frame
    | with_reducible apply State.bump_frame
    | with_reducible apply passAs_frame
    | with_reducible apply State.wr_frame
    | with_reducible apply Frame.ite
    | exact has_BN_PROGRESS_ELEM rfl hm
    | exact has_BN_STAT_BUSY rfl hm
    | exact has_BN_STAT_PHASE rfl hm
    | exact has_BN_STAT_RECORD rfl hm
    | exact has_WC_REWRITES_COUNT rfl hm
    | (intro x; refine (?_ : Frame M s0 x → _) ?_; (intro hx; clear_value x))
    | (intro x; clear_value x)
    | intro _
    | split
    | lift_lets -underBinder

theorem holdRecord_frame {M : Nat} {s0 s : State} {x1 x2} (h : Frame M s0 s)
    (hm : sub 0x1f0000000000814fbc040000000000000000000010180000000000000000002a012380 M = true) : Frame M s0 (holdRecord s x1 x2) := by
  unfold holdRecord
  repeat' first
    | exact sub_trans rfl hm
    | with_reducible assumption
    | with_reducible apply burnerFault_frame
    | with_reducible apply State.wr_frame
    | exact has_BN_STAT_RECORD rfl hm
    | (intro x; refine (?_ : Frame M s0 x → _) ?_; (intro hx; clear_value x))
    | (intro x; clear_value x)
    | intro _
    | lift_lets -underBinder

theorem burnHead_frame {M : Nat} {s0 s : State} {x1} (h : Frame M s0 s)
    (hm : sub 0x3fc0814fbc040000000000000000000000000000000000000000000a010f80 M = true) : Frame M s0 (burnHead s x1).2.2 := by
  exact memRead_frame h (sub_trans rfl hm)

theorem burnHead_frame_eq {M : Nat} {s0 s : State} {x1} {a0 a1 t} (e : burnHead s x1 = (a0, a1, t)) (h : Frame M s0 s)
    (hm : sub 0x3fc0814fbc040000000000000000000000000000000000000000000a010f80 M = true) : Frame M s0 t := by
  have := burnHead_frame (x1 := x1) h hm
  rwa [e] at this

theorem burnFetch_frame {M : Nat} {s0 s : State} {t f} (h : Frame M s0 s)
    (hf : ∀ u, Frame M s0 u → Frame M s0 (f u)) (hm : sub 0x4c68ff8000000000000000000000000001f0000003fc0814fbc040000000000c000000000101c0000000000000000002a112f80 M = true) : Frame M s0 (burnFetch s t f) := by
  have h1 := burnHead_frame (x1 := t) h (sub_trans rfl hm)
  unfold burnFetch
  dsimp only
  split
  · exact hf _ h1
  · exact holdRecord_frame (Frame.foldl (fun _ _ hu => noteUe_frame (uncorrectableRead_frame hu (sub_trans rfl hm))
      (sub_trans rfl hm)) h1) (sub_trans rfl hm)

theorem runRecord_frame {M : Nat} {s0 s : State} {x1 x2 x3 x4 x5} (h : Frame M s0 s)
    (hm : sub 0x4c68ff80000000000000000000000003fbf800000bfc0814fbc040000000000c000000000101c0100000000000000002a157f80 M = true) : Frame M s0 (runRecord s x1 x2 x3 x4 x5) := by
  unfold runRecord
  repeat' first
    | exact sub_trans rfl hm
    | with_reducible assumption
    | with_reducible apply beginPass_frame
    | with_reducible apply burnAtOnce_frame
    | with_reducible apply Frame.ite
    | split

theorem judgeRecord_frame {M : Nat} {s0 s : State} {x1 x2 x3 x4} (h : Frame M s0 s)
    (hm : sub 0x4c68ff80000000000000000000000003fbf800000bfc0814fbc040000000000c000000000101c0100000000000000002a157f80 M = true) : Frame M s0 (judgeRecord s x1 x2 x3 x4) := by
  unfold judgeRecord
  repeat' first
    | exact sub_trans rfl hm
    | with_reducible assumption
    | with_reducible apply burnRead_frame
    | with_reducible apply burnRead_frame_eq (by assumption)
    | with_reducible apply holdRecord_frame
    | with_reducible apply burnerAsks_frame
    | with_reducible apply runRecord_frame
    | with_reducible apply takeStream_frame
    | with_reducible apply Frame.ite
    | (intro x; refine (?_ : Frame M s0 x → _) ?_; (intro hx; clear_value x))
    | (intro x; clear_value x)
    | intro _
    | split
    | lift_lets -underBinder

theorem startBurn_frame {M : Nat} {s0 s : State} {x1 x2} (h : Frame M s0 s)
    (hm : sub 0x4c68ff80000000000000000000000003fbf800000bfc0814fbc040000000000c000000000101c0100000000000000002a157f80 M = true) : Frame M s0 (startBurn s x1 x2) := by
  unfold startBurn
  repeat' first
    | exact sub_trans rfl hm
    | with_reducible assumption
    | with_reducible apply burnFetch_frame
    | with_reducible apply holdRecord_frame
    | with_reducible apply judgeRecord_frame
    | with_reducible apply Frame.ite
    | (intro x; refine (?_ : Frame M s0 x → _) ?_; (intro hx; clear_value x))
    | (intro x; clear_value x)
    | intro _
    | split
    | lift_lets -underBinder

theorem continueBurn_frame {M : Nat} {s0 s : State} {x1 x2 x3} (h : Frame M s0 s)
    (hm : sub 0x4c68ff80000000000000000000000001fbd000000bfc0814fbc040000000000c000000000101c0000000000000000002a152f80 M = true) : Frame M s0 (continueBurn s x1 x2 x3) := by
  unfold continueBurn
  repeat' first
    | exact sub_trans rfl hm
    | with_reducible assumption
    | with_reducible apply passAs_frame
    | with_reducible apply State.wr_frame
    | exact has_BN_STAT_PHASE rfl hm
    | split

theorem burnStep_frame {M : Nat} {s0 s : State} {x1 x2} (h : Frame M s0 s)
    (hm : sub 0x4c68ff80000000000000000000000003fbf800000bfc0814fbc040000000000c000000000101c0100000000000000002a157f80 M = true) : Frame M s0 (burnStep s x1 x2) := by
  unfold burnStep
  repeat' first
    | exact sub_trans rfl hm
    | with_reducible assumption
    | with_reducible apply continueBurn_frame
    | with_reducible apply startBurn_frame
    | split

theorem execBurnerRecord_frame {M : Nat} {s0 s : State} {x0 x1} (h : Frame M s0 s)
    (hm : sub 0x4c68ff80000000000000000000000003fbf800000bfc0814fbc040000000000c000000000101c0100000000000000002a157f80 M = true) : FrameR M s0 (execBurnerRecord x0 x1 s) := by
  unfold execBurnerRecord
  repeat' first
    | exact sub_trans rfl hm
    | with_reducible assumption
    | with_reducible apply FrameR.of_next
    | with_reducible apply FrameR.whenOk
    | with_reducible apply burnStep_frame

theorem completeBurn_frame {M : Nat} {s0 s : State} {x1 x2} (h : Frame M s0 s)
    (hm : sub 0x18000000000814fbc040000000000000000000000000100000000000000000a053380 M = true) : Frame M s0 (completeBurn s x1 x2) := by
  unfold completeBurn
  repeat' first
    | exact sub_trans rfl hm
    | with_reducible assumption
    | with_reducible apply traceBurn_frame
    | with_reducible apply burnSignal_frame
    | with_reducible apply afterRecord_frame
    | with_reducible apply State.setBurner_frame
    | (intro x; refine (?_ : Frame M s0 x → _) ?_; (intro hx; clear_value x))
    | (intro x; clear_value x)
    | intro _
    | split
    | lift_lets -underBinder

theorem execBurnerRecordDone_frame {M : Nat} {s0 s : State} {x0} (h : Frame M s0 s)
    (hm : sub 0x18000000000814fbc040000000000000000000000000100000000000000000a053380 M = true) : FrameR M s0 (execBurnerRecordDone x0 s) := by
  unfold execBurnerRecordDone
  repeat' first
    | exact sub_trans rfl hm
    | with_reducible assumption
    | with_reducible apply FrameR.of_next
    | with_reducible apply FrameR.whenOk
    | with_reducible apply completeBurn_frame
    | split

theorem clearBurnFault_frame {M : Nat} {s0 s : State} {x1} (h : Frame M s0 s)
    (hm : sub 0xc00000000000000000000000000000000000000000000000000000000000000000000 M = true) : Frame M s0 (clearBurnFault s x1) := by
  unfold clearBurnFault
  repeat' first
    | exact sub_trans rfl hm
    | with_reducible assumption
    | with_reducible apply State.wr_frame
    | exact has_BN_FAULT_CODE rfl hm
    | exact has_BN_FAULT_RECORD rfl hm

theorem execBnFaultClr_frame {M : Nat} {s0 s : State} {x0 x1} (h : Frame M s0 s)
    (hm : sub 0xc00000000000000000000000000000000000000000000000000000000000000000000 M = true) : FrameR M s0 (execBnFaultClr x0 x1 s) := by
  unfold execBnFaultClr
  repeat' first
    | exact sub_trans rfl hm
    | with_reducible assumption
    | with_reducible apply FrameR.of_next
    | with_reducible apply FrameR.whenOk
    | with_reducible apply FrameR.ite
    | with_reducible apply clearBurnFault_frame
    | with_reducible apply Frame.ite
    | split

theorem deliverSignals_frame {M : Nat} {s0 s : State} {x1} (h : Frame M s0 s)
    (hm : sub 0x1000 M = true) : Frame M s0 (deliverSignals s x1) := by
  unfold deliverSignals
  repeat' first
    | exact sub_trans rfl hm
    | with_reducible assumption
    | with_reducible apply signalLogical_frame
    | with_reducible refine Frame.foldl (fun u a hu => ?_) ?_
    | with_reducible refine Frame.foldl_on (get := Prod.fst) (fun u a hu => ?_) ?_
    | with_reducible refine Frame.foldl_on (get := Prod.snd) (fun u a hu => ?_) ?_
    | (intro x; refine (?_ : Frame M s0 x → _) ?_; (intro hx; clear_value x))
    | (intro x; clear_value x)
    | intro _
    | lift_lets -underBinder

theorem burnGoesOn_frame {M : Nat} {s0 s : State} {x1} (h : Frame M s0 s)
    (hm : sub 0xd00000000000000000000000000000000000000000000000000000000000000000000 M = true) : Frame M s0 (burnGoesOn s x1) := by
  unfold burnGoesOn
  repeat' first
    | exact sub_trans rfl hm
    | with_reducible assumption
    | with_reducible apply clearBurnFault_frame
    | with_reducible apply State.wr_frame
    | with_reducible apply Frame.ite
    | exact has_BN_STAT_PHASE rfl hm
    | (intro x; refine (?_ : Frame M s0 x → _) ?_; (intro hx; clear_value x))
    | (intro x; clear_value x)
    | intro _
    | split
    | lift_lets -underBinder

theorem releaseHeld_frame {M : Nat} {s0 s : State} {x1} (h : Frame M s0 s)
    (hm : sub 0xd00000000000000000000000000000000000000000000000000000000000000000000 M = true) : Frame M s0 (releaseHeld s x1) := by
  unfold releaseHeld
  repeat' first
    | exact sub_trans rfl hm
    | with_reducible assumption
    | with_reducible apply burnGoesOn_frame
    | with_reducible apply Frame.ite
    | split

theorem burnSync_frame {M : Nat} {s0 s : State} {x1} (h : Frame M s0 s)
    (hm : sub 0x4c68ff8000000000000000000000000001f8000003fc0814fbc040000000000c000000000101c0100000000000000002a157f80 M = true) : Frame M s0 (burnSync s x1) := by
  unfold burnSync
  repeat' first
    | exact sub_trans rfl hm
    | with_reducible assumption
    | with_reducible apply burnFetch_frame
    | with_reducible apply burnSignal_frame
    | with_reducible apply afterRecord_frame
    | with_reducible apply issueRecord_frame
    | (intro x; refine (?_ : Frame M s0 x → _) ?_; (intro hx; clear_value x))
    | (intro x; clear_value x)
    | intro _
    | lift_lets -underBinder

theorem syncUnit_frame {M : Nat} {s0 s : State} {x1} (h : Frame M s0 s)
    (hm : sub 0x4c68ff8000000000000000000000308001f8008323fc0814fbc040000000000c000000000101c8100000000000000002a177f80 M = true) : Frame M s0 (syncUnit s x1) := by
  unfold syncUnit
  repeat' first
    | exact sub_trans rfl hm
    | with_reducible assumption
    | with_reducible apply fetchHead_frame
    | with_reducible apply issueAtOnce_frame
    | with_reducible apply fetchNext_frame
    | with_reducible apply recordAtOnce_frame
    | with_reducible apply burnSync_frame
    | (intro x; refine (?_ : Frame M s0 x → _) ?_; (intro hx; clear_value x))
    | (intro x; clear_value x)
    | intro _
    | split
    | lift_lets -underBinder

theorem execSync_frame {M : Nat} {s0 s : State} {x0} (h : Frame M s0 s)
    (hm : sub 0x4c68ff8000000000000000000000308001f8008323fc0814fbc040000000000c000000000101c8100000000000000002a177f80 M = true) : FrameR M s0 (execSync x0 s) := by
  unfold execSync
  repeat' first
    | exact sub_trans rfl hm
    | with_reducible assumption
    | with_reducible apply FrameR.of_next
    | with_reducible apply FrameR.whenOk
    | with_reducible apply syncUnit_frame

end Sys2Proof.Machine
end

