-- ==== Sys2Proof/Laws/FrameGovernor.lean ====
section
/-! SUPPORT. Frame lemmas for the functions of Machine/Governor.lean. -/

set_option Elab.async false
set_option linter.all false

namespace Sys2Proof.Machine

theorem State.setGov_frame {M : Nat} {s0 s : State} {x1} (h : Frame M s0 s)
    (hm : sub 0x8000 M = true) : Frame M s0 (State.setGov s x1) := by
  unfold State.setGov
  repeat' first
    | exact sub_trans rfl hm
    | with_reducible assumption
    | with_reducible apply Frame.with_gov

theorem sendDown_frame {M : Nat} {s0 s : State} {x1} (h : Frame M s0 s)
    (hm : sub 0x814fbc040000000000000000000010000000000000000000002a010380 M = true) : Frame M s0 (sendDown s x1) := by
  unfold sendDown
  repeat' first
    | exact sub_trans rfl hm
    | with_reducible assumption
    | with_reducible apply State.send_frame
    | with_reducible refine Frame.foldl (fun u a hu => ?_) ?_
    | with_reducible refine Frame.foldl_on (get := Prod.fst) (fun u a hu => ?_) ?_
    | with_reducible refine Frame.foldl_on (get := Prod.snd) (fun u a hu => ?_) ?_
    | (intro x; refine (?_ : Frame M s0 x → _) ?_; (intro hx; clear_value x))
    | (intro x; clear_value x)
    | intro _
    | lift_lets -underBinder

theorem endExchange_frame {M : Nat} {s0 s : State} {x1} (h : Frame M s0 s)
    (hm : sub 0x814fbc040000000000000000000010000100000000800000002a01a380 M = true) : Frame M s0 (endExchange s x1) := by
  unfold endExchange
  repeat' first
    | exact sub_trans rfl hm
    | with_reducible assumption
    | with_reducible apply closePlan_frame
    | with_reducible apply State.wr_frame
    | with_reducible apply State.setGov_frame
    | with_reducible apply sendDown_frame
    | exact has_GOV_STAT_STATS_PHASE rfl hm

theorem tryCombine_frame {M : Nat} {s0 s : State} (h : Frame M s0 s)
    (hm : sub 0x814fbc040000000000000000000010000100000000800000002a01a380 M = true) : Frame M s0 (tryCombine s) := by
  unfold tryCombine
  repeat' first
    | exact sub_trans rfl hm
    | with_reducible assumption
    | with_reducible apply State.setGov_frame
    | with_reducible apply endExchange_frame
    | with_reducible apply State.send_frame
    | with_reducible apply Frame.ite
    | with_reducible refine Frame.foldl (fun u a hu => ?_) ?_
    | with_reducible refine Frame.foldl_on (get := Prod.fst) (fun u a hu => ?_) ?_
    | with_reducible refine Frame.foldl_on (get := Prod.snd) (fun u a hu => ?_) ?_
    | (intro x; refine (?_ : Frame M s0 x → _) ?_; (intro hx; clear_value x))
    | (intro x; clear_value x)
    | intro _
    | split
    | lift_lets -underBinder

theorem mergeDone_frame {M : Nat} {s0 s : State} (h : Frame M s0 s)
    (hm : sub 0x814fbc040000000000000000000010000100000000800000002a01a380 M = true) : Frame M s0 (mergeDone s) := by
  unfold mergeDone
  repeat' first
    | exact sub_trans rfl hm
    | with_reducible assumption
    | with_reducible apply State.wr_frame
    | with_reducible apply State.setGov_frame
    | with_reducible apply endExchange_frame
    | with_reducible apply tryCombine_frame
    | with_reducible apply Frame.ite
    | exact has_GOV_STAT_STATS_PHASE rfl hm
    | (intro x; refine (?_ : Frame M s0 x → _) ?_; (intro hx; clear_value x))
    | (intro x; clear_value x)
    | intro _
    | split
    | lift_lets -underBinder

theorem execGovMergeDone_frame {M : Nat} {s0 s : State} (h : Frame M s0 s)
    (hm : sub 0x814fbc040000000000000000000010000100000000800000002a01a380 M = true) : FrameR M s0 (execGovMergeDone s) := by
  unfold execGovMergeDone
  repeat' first
    | exact sub_trans rfl hm
    | with_reducible assumption
    | with_reducible apply FrameR.of_next
    | with_reducible apply FrameR.whenOk
    | with_reducible apply mergeDone_frame

theorem takeSummary_frame {M : Nat} {s0 s : State} {x1 x2 x3} (h : Frame M s0 s)
    (hm : sub 0x814fbc040000000000000000000010000100000000800000002a01a380 M = true) : Frame M s0 (takeSummary s x1 x2 x3) := by
  unfold takeSummary
  repeat' first
    | exact sub_trans rfl hm
    | with_reducible assumption
    | with_reducible apply endExchange_frame
    | with_reducible apply tryCombine_frame
    | with_reducible apply State.setGov_frame
    | with_reducible apply Frame.ite
    | split

theorem execGovSummary_frame {M : Nat} {s0 s : State} {x0 x1 x2} (h : Frame M s0 s)
    (hm : sub 0x814fbc040000000000000000000010000100000000800000002a01a380 M = true) : FrameR M s0 (execGovSummary x0 x1 x2 s) := by
  unfold execGovSummary
  repeat' first
    | exact sub_trans rfl hm
    | with_reducible assumption
    | with_reducible apply FrameR.of_next
    | with_reducible apply FrameR.whenOk
    | with_reducible apply takeSummary_frame

theorem sealGovernor_frame {M : Nat} {s0 s : State} {x1 x2 x3} (h : Frame M s0 s)
    (hm : sub 0x8000000000008000 M = true) : Frame M s0 (sealGovernor s x1 x2 x3) := by
  unfold sealGovernor
  repeat' first
    | exact sub_trans rfl hm
    | with_reducible assumption
    | with_reducible apply State.wr_frame
    | with_reducible apply State.setGov_frame
    | exact has_GOV_STAT_STATS_PHASE rfl hm
    | (intro x; refine (?_ : Frame M s0 x → _) ?_; (intro hx; clear_value x))
    | (intro x; clear_value x)
    | intro _
    | lift_lets -underBinder

theorem fireRule_frame {M : Nat} {s0 s : State} {x1 x2 x3} (h : Frame M s0 s)
    (hm : sub 0x814fbc0400000000000000000000000000000b8400000000000a010380 M = true) : Frame M s0 (fireRule s x1 x2 x3) := by
  unfold fireRule
  repeat' first
    | exact sub_trans rfl hm
    | with_reducible assumption
    | with_reducible apply State.bump_frame
    | with_reducible apply raise_frame
    | with_reducible apply State.wr_frame
    | exact has_GOV_FIRES_COUNT rfl hm
    | exact has_GOV_LAST_FIRE_ACTION rfl hm
    | exact has_GOV_LAST_FIRE_RULE rfl hm
    | exact has_GOV_LAST_FIRE_TAG rfl hm
    | exact has_GOV_RULE_W3_FIRES rfl hm
    | (intro x; refine (?_ : Frame M s0 x → _) ?_; (intro hx; clear_value x))
    | (intro x; clear_value x)
    | intro _
    | lift_lets -underBinder

theorem walkTag_frame {M : Nat} {s0 : State} {w0 w1 w2 r x st t} (h : Frame M s0 st.1)
    (hm : sub 0x814fbc0400000000000000000000000000000b8400000000000a018380 M = true) : Frame M s0 (walkTag w0 w1 w2 r x st t).1 := by
  unfold walkTag
  lift_lets
  intros
  split
  · exact h
  · split
    · exact fireRule_frame (State.setGov_frame h (sub_trans rfl hm)) (sub_trans rfl hm)
    · exact State.setGov_frame h (sub_trans rfl hm)

theorem walkRule_frame {M : Nat} {s0 : State} {x st r} (h : Frame M s0 st.1)
    (hm : sub 0x814fbc0400000000000000000000000000000b8400000000000a018380 M = true) : Frame M s0 (walkRule x st r).1 := by
  rw [walkRule]
  generalize ruleTags _ = l
  rw [apply_ite Prod.fst]
  exact Frame.ite h (Frame.foldl_on (get := Prod.fst) (fun _ _ hu => walkTag_frame hu hm) h)

theorem walkRules_frame {M : Nat} {s0 s : State} {x1} (h : Frame M s0 s)
    (hm : sub 0x814fbc0400000000000000000000000000000b8400000000000a018380 M = true) : Frame M s0 (walkRules s x1).1 := by
  unfold walkRules
  repeat' first
    | exact sub_trans rfl hm
    | with_reducible assumption
    | with_reducible apply walkRule_frame
    | with_reducible refine Frame.foldl (fun u a hu => ?_) ?_
    | with_reducible refine Frame.foldl_on (get := Prod.fst) (fun u a hu => ?_) ?_
    | with_reducible refine Frame.foldl_on (get := Prod.snd) (fun u a hu => ?_) ?_
    | intro _
    | dsimp only

theorem walkRules_frame_eq {M : Nat} {s0 s : State} {x1} {t a1} (e : walkRules s x1 = (t, a1)) (h : Frame M s0 s)
    (hm : sub 0x814fbc0400000000000000000000000000000b8400000000000a018380 M = true) : Frame M s0 t := by
  have := walkRules_frame (x1 := x1) h hm
  rwa [e] at this

theorem watchAlarm_frame {M : Nat} {s0 s : State} {x1 x2} (h : Frame M s0 s)
    (hm : sub 0x814fbc040000000000000000000000000000000380000000000a010380 M = true) : Frame M s0 (watchAlarm s x1 x2) := by
  unfold watchAlarm
  repeat' first
    | exact sub_trans rfl hm
    | with_reducible assumption
    | with_reducible apply raise_frame
    | with_reducible apply State.wr_frame
    | with_reducible apply State.bump_frame
    | exact has_UFW_ALARMS_ALARMS rfl hm
    | exact has_UFW_LAST_STEP rfl hm
    | exact has_UFW_LAST_TAG rfl hm

theorem watchTag_frame {M : Nat} {s0 : State} {x st t} (h : Frame M s0 st.1)
    (hm : sub 0x814fbc040000000000000000000000000000000380000000000a018380 M = true) : Frame M s0 (watchTag x st t).1 := by
  unfold watchTag
  lift_lets
  intros
  split
  · exact h
  · split
    · exact watchAlarm_frame (State.setGov_frame h (sub_trans rfl hm)) (sub_trans rfl hm)
    · exact State.setGov_frame h (sub_trans rfl hm)

theorem watchTags_frame {M : Nat} {s0 s : State} {x1} (h : Frame M s0 s)
    (hm : sub 0x814fbc040000000000000000000000000000000380000000000a018380 M = true) : Frame M s0 (watchTags s x1).1 := by
  unfold watchTags
  repeat' first
    | exact sub_trans rfl hm
    | with_reducible assumption
    | with_reducible apply watchTag_frame
    | with_reducible apply Frame.ite
    | with_reducible refine Frame.foldl (fun u a hu => ?_) ?_
    | with_reducible refine Frame.foldl_on (get := Prod.fst) (fun u a hu => ?_) ?_
    | with_reducible refine Frame.foldl_on (get := Prod.snd) (fun u a hu => ?_) ?_
    | intro _
    | split
    | dsimp only

theorem watchTags_frame_eq {M : Nat} {s0 s : State} {x1} {t a1} (e : watchTags s x1 = (t, a1)) (h : Frame M s0 s)
    (hm : sub 0x814fbc040000000000000000000000000000000380000000000a018380 M = true) : Frame M s0 t := by
  have := watchTags_frame (x1 := x1) h hm
  rwa [e] at this

theorem govChanged_frame {M : Nat} {s0 s : State} (h : Frame M s0 s)
    (hm : sub 0x814fbc040000000000000000000000000000000800000000000a010380 M = true) : Frame M s0 (govChanged s) := by
  unfold govChanged
  repeat' first
    | exact sub_trans rfl hm
    | with_reducible assumption
    | with_reducible apply raise_frame
    | with_reducible apply State.bump_frame
    | exact has_GOV_CHANGES_COUNT rfl hm

theorem govBound_frame {M : Nat} {s0 s : State} (h : Frame M s0 s)
    (hm : sub 0x814fbc040000000000000000000000000000001000000000000a010380 M = true) : Frame M s0 (govBound s) := by
  unfold govBound
  repeat' first
    | exact sub_trans rfl hm
    | with_reducible assumption
    | with_reducible apply raise_frame
    | with_reducible apply State.bump_frame
    | exact has_GOV_BOUND_COUNT rfl hm

theorem moveEntry_frame {M : Nat} {s0 s : State} {x1 x2} (h : Frame M s0 s)
    (hm : sub 0x814fbc040000000000000000000000000000003800000000000a010388 M = true) : Frame M s0 (moveEntry s x1 x2) := by
  unfold moveEntry
  repeat' first
    | exact sub_trans rfl hm
    | with_reducible assumption
    | with_reducible apply State.bump_frame
    | with_reducible apply govBound_frame
    | with_reducible apply govChanged_frame
    | with_reducible apply State.wrSh_frame
    | with_reducible apply Frame.ite
    | exact has_GOV_BLOCKED_COUNT rfl hm
    | (intro x; refine (?_ : Frame M s0 x → _) ?_; (intro hx; clear_value x))
    | (intro x; clear_value x)
    | intro _
    | split
    | lift_lets -underBinder

theorem moveScale_frame {M : Nat} {s0 s : State} {x1} (h : Frame M s0 s)
    (hm : sub 0x814fbc040000000000000000000000000000003800000000000a010388 M = true) : Frame M s0 (moveScale s x1) := by
  unfold moveScale
  repeat' first
    | exact sub_trans rfl hm
    | with_reducible assumption
    | with_reducible apply State.bump_frame
    | with_reducible apply govChanged_frame
    | with_reducible apply State.wrSh_frame
    | with_reducible apply Frame.ite
    | exact has_GOV_BLOCKED_COUNT rfl hm
    | exact has_GOV_BOUND_COUNT rfl hm
    | (intro x; refine (?_ : Frame M s0 x → _) ?_; (intro hx; clear_value x))
    | (intro x; clear_value x)
    | intro _
    | split
    | lift_lets -underBinder

theorem resolve_frame {M : Nat} {s0 s : State} {x1 x2} (h : Frame M s0 s)
    (hm : sub 0x814fbc040000000000000000000000000000003800000000000a010388 M = true) : Frame M s0 (resolve s x1 x2) := by
  unfold resolve
  repeat' first
    | exact sub_trans rfl hm
    | with_reducible assumption
    | with_reducible apply moveEntry_frame
    | with_reducible apply moveScale_frame
    | with_reducible apply Frame.ite
    | with_reducible refine Frame.foldl (fun u a hu => ?_) ?_
    | with_reducible refine Frame.foldl_on (get := Prod.fst) (fun u a hu => ?_) ?_
    | with_reducible refine Frame.foldl_on (get := Prod.snd) (fun u a hu => ?_) ?_
    | (intro x; refine (?_ : Frame M s0 x → _) ?_; (intro hx; clear_value x))
    | (intro x; clear_value x)
    | intro _
    | split
    | lift_lets -underBinder

theorem evaluate_frame {M : Nat} {s0 s : State} {x1} (h : Frame M s0 s)
    (hm : sub 0x814fbc0400000000000000000000000000000bbf80400000000a018388 M = true) : Frame M s0 (evaluate s x1) := by
  unfold evaluate
  repeat' first
    | exact sub_trans rfl hm
    | with_reducible assumption
    | with_reducible apply State.setGov_frame
    | with_reducible apply walkRules_frame
    | with_reducible apply walkRules_frame_eq (by assumption)
    | with_reducible apply watchTags_frame
    | with_reducible apply watchTags_frame_eq (by assumption)
    | with_reducible apply resolve_frame
    | with_reducible apply State.wr_frame
    | with_reducible apply Frame.ite
    | exact has_GOV_STAT_TABLE_PHASE rfl hm
    | (intro x; refine (?_ : Frame M s0 x → _) ?_; (intro hx; clear_value x))
    | (intro x; clear_value x)
    | intro _
    | split
    | lift_lets -underBinder

theorem evalHeld_frame {M : Nat} {s0 s : State} (h : Frame M s0 s)
    (hm : sub 0x814fbc0400000000000000000000000000000bbf80400000000a018388 M = true) : Frame M s0 (evalHeld s) := by
  unfold evalHeld
  repeat' first
    | exact sub_trans rfl hm
    | with_reducible assumption
    | with_reducible apply evaluate_frame
    | split

theorem execGovEval_frame {M : Nat} {s0 s : State} (h : Frame M s0 s)
    (hm : sub 0x814fbc0400000000000000000000000000000bbf80400000000a018388 M = true) : FrameR M s0 (execGovEval s) := by
  unfold execGovEval
  repeat' first
    | exact sub_trans rfl hm
    | with_reducible assumption
    | with_reducible apply FrameR.of_next
    | with_reducible apply FrameR.whenOk
    | with_reducible apply evalHeld_frame

theorem endLate_frame {M : Nat} {s0 s : State} (h : Frame M s0 s)
    (hm : sub 0x40000000000000008000 M = true) : Frame M s0 (endLate s) := by
  unfold endLate
  repeat' first
    | exact sub_trans rfl hm
    | with_reducible assumption
    | with_reducible apply State.bump_frame
    | with_reducible apply State.setGov_frame
    | exact has_GOV_LATE_COUNT rfl hm
    | split

theorem enterReady_frame {M : Nat} {s0 s : State} {x1} (h : Frame M s0 s)
    (hm : sub 0x2040074000000000008000 M = true) : Frame M s0 (enterReady s x1) := by
  unfold enterReady
  repeat' first
    | exact sub_trans rfl hm
    | with_reducible assumption
    | with_reducible apply State.wr_frame
    | with_reducible apply endLate_frame
    | exact has_GOV_DIGEST_DIGEST rfl hm
    | exact has_GOV_EVAL_STEP_STEP rfl hm
    | exact has_GOV_LAT_TICKS rfl hm
    | exact has_GOV_STAT_TABLE_PHASE rfl hm
    | exact has_PT_PEND_PENDING rfl hm
    | (intro x; refine (?_ : Frame M s0 x → _) ?_; (intro hx; clear_value x))
    | (intro x; clear_value x)
    | intro _
    | lift_lets -underBinder

theorem execGovReady_frame {M : Nat} {s0 s : State} (h : Frame M s0 s)
    (hm : sub 0x2040074000000000008000 M = true) : FrameR M s0 (execGovReady s) := by
  unfold execGovReady
  repeat' first
    | exact sub_trans rfl hm
    | with_reducible assumption
    | with_reducible apply FrameR.of_next
    | with_reducible apply FrameR.whenOk
    | with_reducible apply enterReady_frame

theorem commitGovernor_frame {M : Nat} {s0 s : State} (h : Frame M s0 s)
    (hm : sub 0x2000004000000000008000 M = true) : Frame M s0 (commitGovernor s) := by
  unfold commitGovernor
  repeat' first
    | exact sub_trans rfl hm
    | with_reducible assumption
    | with_reducible apply State.wr_frame
    | with_reducible apply State.setGov_frame
    | with_reducible apply Frame.ite
    | exact has_GOV_STAT_TABLE_PHASE rfl hm
    | exact has_PT_PEND_PENDING rfl hm
    | (intro x; refine (?_ : Frame M s0 x → _) ?_; (intro hx; clear_value x))
    | (intro x; clear_value x)
    | intro _
    | split
    | lift_lets -underBinder

theorem execPtCopyDone_frame {M : Nat} {s0 s : State} (h : Frame M s0 s)
    (hm : sub 0x4000000000000000 M = true) : FrameR M s0 (execPtCopyDone s) := by
  unfold execPtCopyDone
  repeat' first
    | exact sub_trans rfl hm
    | with_reducible assumption
    | with_reducible apply FrameR.of_next
    | with_reducible apply FrameR.whenOk
    | with_reducible apply State.wr_frame
    | exact has_GOV_STAT_TABLE_PHASE rfl hm

theorem repeatEval_frame {M : Nat} {s0 s : State} (h : Frame M s0 s)
    (hm : sub 0x814fbc040000000000000000000010180100200000e00000002a01a388 M = true) : Frame M s0 (repeatEval s) := by
  unfold repeatEval
  repeat' first
    | exact fun h => Table.rising_put h
    | exact fun h => Table.rising_erase h
    | exact fun h => Table.rising_filter h
    | exact fun h => Table.rising_putAll h
    | exact fun _ => rfl
    | exact fun h => Table.rising_putAll (Table.rising_filter h)
    | exact sub_trans rfl hm
    | with_reducible assumption
    | with_reducible apply rung_frame
    | with_reducible apply raise_frame
    | with_reducible apply State.wr_frame
    | with_reducible apply State.setGov_frame
    | with_reducible apply tryCombine_frame
    | with_reducible apply Frame.ite
    | exact has_GOV_STAT_DIVERGED rfl hm
    | exact has_GOV_STAT_STATS_PHASE rfl hm
    | exact has_GOV_STAT_TABLE_PHASE rfl hm
    | exact has_PT_PEND_PENDING rfl hm
    | (intro x; refine (?_ : Frame M s0 x → _) ?_; (intro hx; clear_value x))
    | (intro x; clear_value x)
    | intro _
    | split
    | lift_lets -underBinder
    | with_reducible apply Frame.with_shadow

theorem latchSlotWords_frame {M : Nat} {s0 s : State} {x1} (h : Frame M s0 s)
    (hm : sub 0xc M = true) : Frame M s0 (latchSlotWords s x1) := by
  unfold latchSlotWords
  repeat' first
    | exact fun h => Table.rising_put h
    | exact fun h => Table.rising_erase h
    | exact fun h => Table.rising_filter h
    | exact fun h => Table.rising_putAll h
    | exact fun _ => rfl
    | exact fun h => Table.rising_putAll (Table.rising_filter h)
    | exact sub_trans rfl hm
    | with_reducible assumption
    | (intro x; refine (?_ : Frame M s0 x → _) ?_; (intro hx; clear_value x))
    | (intro x; clear_value x)
    | intro _
    | lift_lets -underBinder
    | with_reducible apply Frame.with_regs_shadow

theorem reloadReplica_frame {M : Nat} {s0 s : State} {x1} (h : Frame M s0 s)
    (hm : sub 0x900c M = true) : Frame M s0 (reloadReplica s x1) := by
  unfold reloadReplica
  repeat' first
    | exact sub_trans rfl hm
    | with_reducible assumption
    | with_reducible apply State.setGov_frame
    | with_reducible apply latchSlotWords_frame
    | with_reducible apply State.setKite_frame
    | (intro x; refine (?_ : Frame M s0 x → _) ?_; (intro hx; clear_value x))
    | (intro x; clear_value x)
    | intro _
    | split
    | lift_lets -underBinder

theorem execReplicaReload_frame {M : Nat} {s0 s : State} {x0} (h : Frame M s0 s)
    (hm : sub 0x900c M = true) : FrameR M s0 (execReplicaReload x0 s) := by
  unfold execReplicaReload
  repeat' first
    | exact sub_trans rfl hm
    | with_reducible assumption
    | with_reducible apply FrameR.of_next
    | with_reducible apply FrameR.whenOk
    | with_reducible apply reloadReplica_frame

theorem watchOff_frame {M : Nat} {s0 s : State} (h : Frame M s0 s)
    (hm : sub 0x814fbc040000000000000000000000000000000000100000000a010380 M = true) : Frame M s0 (watchOff s) := by
  unfold watchOff
  repeat' first
    | exact sub_trans rfl hm
    | with_reducible assumption
    | with_reducible apply raise_frame
    | with_reducible apply State.wr_frame
    | with_reducible apply Frame.ite
    | exact has_GOV_STAT_UFLOW_WATCH_OFF rfl hm
    | split

theorem writeUfw_frame {M : Nat} {s0 s : State} {x1} (h : Frame M s0 s)
    (hm : sub 0x814fbc040000000000000000000000000000000078100000000a010380 M = true) : Frame M s0 (writeUfw s x1) := by
  unfold writeUfw
  repeat' first
    | exact sub_trans rfl hm
    | with_reducible assumption
    | with_reducible apply State.wr_frame
    | with_reducible apply watchOff_frame
    | with_reducible apply refuse_frame
    | with_reducible apply Frame.ite
    | exact has_UFW_CTL_UFW_EN rfl hm
    | exact has_UFW_CTL_UFW_STREAK rfl hm
    | exact has_UFW_CTL_UFW_THRESH rfl hm
    | exact has_UFW_CTL_UFW_WIDEN rfl hm
    | (intro x; refine (?_ : Frame M s0 x → _) ?_; (intro hx; clear_value x))
    | (intro x; clear_value x)
    | intro _
    | split
    | lift_lets -underBinder

theorem execUfwCtl_frame {M : Nat} {s0 s : State} {x0} (h : Frame M s0 s)
    (hm : sub 0x814fbc040000000000000000000000000000000078100000000a010380 M = true) : FrameR M s0 (execUfwCtl x0 s) := by
  unfold execUfwCtl
  repeat' first
    | exact sub_trans rfl hm
    | with_reducible assumption
    | with_reducible apply FrameR.of_next
    | with_reducible apply FrameR.whenOk
    | with_reducible apply writeUfw_frame

theorem svAdvance_frame {M : Nat} {s0 s : State} (h : Frame M s0 s)
    (hm : sub 0x400000000000000000000 M = true) : Frame M s0 (svAdvance s) := by
  unfold svAdvance
  repeat' first
    | exact sub_trans rfl hm
    | with_reducible assumption
    | with_reducible apply State.wr_frame
    | with_reducible apply Frame.ite
    | exact has_GOV_SV_IDX_WORD rfl hm
    | split

theorem svRead_frame {M : Nat} {s0 s : State} (h : Frame M s0 s)
    (hm : sub 0x400000000000000000000 M = true) : Frame M s0 (svRead s).2 := by
  unfold svRead
  repeat' first
    | exact sub_trans rfl hm
    | with_reducible assumption
    | with_reducible apply svAdvance_frame
    | with_reducible apply Frame.ite
    | split
    | dsimp only

theorem svRead_frame_eq {M : Nat} {s0 s : State} {a0 t} (e : svRead s = (a0, t)) (h : Frame M s0 s)
    (hm : sub 0x400000000000000000000 M = true) : Frame M s0 t := by
  have := svRead_frame  h hm
  rwa [e] at this

theorem svWrite_frame {M : Nat} {s0 s : State} {x1} (h : Frame M s0 s)
    (hm : sub 0x814fbc040000000000000000000000000000040000000000000a018380 M = true) : Frame M s0 (svWrite s x1) := by
  unfold svWrite
  repeat' first
    | exact sub_trans rfl hm
    | with_reducible assumption
    | with_reducible apply refuse_frame
    | with_reducible apply svAdvance_frame
    | with_reducible apply State.setGov_frame
    | with_reducible apply Frame.ite
    | split

theorem execGovSvData_frame {M : Nat} {s0 s : State} {x0} (h : Frame M s0 s)
    (hm : sub 0x814fbc040000000000000000000000000000040000000000002a018380 M = true) : FrameR M s0 (execGovSvData x0 s) := by
  unfold execGovSvData
  repeat' first
    | exact sub_trans rfl hm
    | with_reducible assumption
    | with_reducible apply FrameR.of_next
    | with_reducible apply FrameR.whenOk
    | with_reducible apply State.emit_frame
    | with_reducible apply svRead_frame
    | with_reducible apply svRead_frame_eq (by assumption)
    | with_reducible apply svWrite_frame
    | split

theorem loadGovernor_frame {M : Nat} {s0 s : State} {x1} (h : Frame M s0 s)
    (hm : sub 0x8000 M = true) : Frame M s0 (loadGovernor s x1) := by
  unfold loadGovernor
  repeat' first
    | exact sub_trans rfl hm
    | with_reducible assumption
    | with_reducible apply State.setGov_frame
    | with_reducible apply Frame.ite
    | with_reducible refine Frame.foldl (fun u a hu => ?_) ?_
    | with_reducible refine Frame.foldl_on (get := Prod.fst) (fun u a hu => ?_) ?_
    | with_reducible refine Frame.foldl_on (get := Prod.snd) (fun u a hu => ?_) ?_
    | (intro x; refine (?_ : Frame M s0 x → _) ?_; (intro hx; clear_value x))
    | (intro x; clear_value x)
    | intro _
    | split
    | lift_lets -underBinder

end Sys2Proof.Machine
end

