-- ==== Sys2Proof/Laws/FrameScoring.lean ====
section
/-! SUPPORT. Frame lemmas for the functions of Machine/Scoring.lean. -/

set_option Elab.async false
set_option linter.all false

namespace Sys2Proof.Machine

theorem startValidate_frame {M : Nat} {s0 s : State} {x1} (h : Frame M s0 s)
    (hm : sub 0x814fbc040000000800000000000000000000000000000000000a090380 M = true) : Frame M s0 (startValidate s x1) := by
  unfold startValidate
  repeat' first
    | exact sub_trans rfl hm
    | with_reducible assumption
    | with_reducible apply refuse_frame
    | with_reducible apply State.wr_frame
    | with_reducible apply Frame.ite
    | exact has_SC_STAT_V_BUSY rfl hm
    | split
    | with_reducible apply Frame.with_sc

theorem execValidate_frame {M : Nat} {s0 s : State} {x0} (h : Frame M s0 s)
    (hm : sub 0x814fbc040000000800000000000000000000000000000000000a090380 M = true) : FrameR M s0 (execValidate x0 s) := by
  unfold execValidate
  repeat' first
    | exact sub_trans rfl hm
    | with_reducible assumption
    | with_reducible apply FrameR.of_next
    | with_reducible apply FrameR.whenOk
    | with_reducible apply startValidate_frame

theorem endValidate_frame {M : Nat} {s0 s : State} {x1} (h : Frame M s0 s)
    (hm : sub 0x814fbc04008003c800000000000000000000000000000000000a090380 M = true) : Frame M s0 (endValidate s x1) := by
  unfold endValidate
  repeat' first
    | exact sub_trans rfl hm
    | with_reducible assumption
    | with_reducible apply State.wr_frame
    | with_reducible apply raise_frame
    | with_reducible apply Frame.ite
    | exact has_SC_SLOT_SHADOW_OK rfl hm
    | exact has_SC_STAT_V_BUSY rfl hm
    | exact has_SC_VRES_CODE rfl hm
    | exact has_SC_VRES_LAYER rfl hm
    | exact has_SC_VRES_OK rfl hm
    | exact has_SC_VRES_SLOT rfl hm
    | (intro x; refine (?_ : Frame M s0 x → _) ?_; (intro hx; clear_value x))
    | (intro x; clear_value x)
    | intro _
    | split
    | lift_lets -underBinder
    | with_reducible apply Frame.with_sc

theorem execValidated_frame {M : Nat} {s0 s : State} (h : Frame M s0 s)
    (hm : sub 0x814fbc04008003c800000000000000000000000000000000000a090380 M = true) : FrameR M s0 (execValidated s) := by
  unfold execValidated
  repeat' first
    | exact sub_trans rfl hm
    | with_reducible assumption
    | with_reducible apply FrameR.of_next
    | with_reducible apply FrameR.whenOk
    | with_reducible apply endValidate_frame
    | split

theorem dwinAdvance_frame {M : Nat} {s0 s : State} (h : Frame M s0 s)
    (hm : sub 0x20000000000000000000000000000000000000000000 M = true) : Frame M s0 (dwinAdvance s) := by
  unfold dwinAdvance
  repeat' first
    | exact sub_trans rfl hm
    | with_reducible assumption
    | with_reducible apply State.wr_frame
    | with_reducible apply Frame.ite
    | exact has_SC_DSEL_WORD rfl hm
    | split

theorem dwinRead_frame {M : Nat} {s0 s : State} (h : Frame M s0 s)
    (hm : sub 0x20000000000000000000000000000000000000000000 M = true) : Frame M s0 (dwinRead s).2 := by
  unfold dwinRead
  repeat' first
    | exact sub_trans rfl hm
    | with_reducible assumption
    | with_reducible apply dwinAdvance_frame
    | with_reducible apply Frame.ite
    | (intro x; refine (?_ : Frame M s0 x → _) ?_; (intro hx; clear_value x))
    | (intro x; clear_value x)
    | intro _
    | split
    | lift_lets -underBinder
    | dsimp only

theorem dwinRead_frame_eq {M : Nat} {s0 s : State} {a0 t} (e : dwinRead s = (a0, t)) (h : Frame M s0 s)
    (hm : sub 0x20000000000000000000000000000000000000000000 M = true) : Frame M s0 t := by
  have := dwinRead_frame  h hm
  rwa [e] at this

theorem clearShadowOk_frame {M : Nat} {s0 s : State} {x1} (h : Frame M s0 s)
    (hm : sub 0x800000000000000000000000000000000000000000000000 M = true) : Frame M s0 (clearShadowOk s x1) := by
  unfold clearShadowOk
  repeat' first
    | exact sub_trans rfl hm
    | with_reducible assumption
    | with_reducible apply State.wr_frame
    | exact has_SC_SLOT_SHADOW_OK rfl hm
    | split

theorem dwinWrite_frame {M : Nat} {s0 s : State} {x1} (h : Frame M s0 s)
    (hm : sub 0x814fbc040080002000000000000000000000000000000000000a010398 M = true) : Frame M s0 (dwinWrite s x1) := by
  unfold dwinWrite
  repeat' first
    | exact sub_trans rfl hm
    | with_reducible assumption
    | with_reducible apply shadowStore_frame
    | with_reducible apply dwinAdvance_frame
    | with_reducible apply clearShadowOk_frame
    | with_reducible apply refuse_frame
    | with_reducible apply Frame.ite
    | (intro x; refine (?_ : Frame M s0 x → _) ?_; (intro hx; clear_value x))
    | (intro x; clear_value x)
    | intro _
    | split
    | lift_lets -underBinder

theorem execScDwin_frame {M : Nat} {s0 s : State} {x0} (h : Frame M s0 s)
    (hm : sub 0x814fbc040080002000000000000000000000000000000000002a010398 M = true) : FrameR M s0 (execScDwin x0 s) := by
  unfold execScDwin
  repeat' first
    | exact sub_trans rfl hm
    | with_reducible assumption
    | with_reducible apply FrameR.of_next
    | with_reducible apply FrameR.whenOk
    | with_reducible apply State.emit_frame
    | with_reducible apply dwinRead_frame
    | with_reducible apply dwinRead_frame_eq (by assumption)
    | with_reducible apply dwinWrite_frame
    | split

theorem startLoad_frame {M : Nat} {s0 s : State} (h : Frame M s0 s)
    (hm : sub 0x814fbc040000000400000000000000000000000000000000000a090380 M = true) : Frame M s0 (startLoad s) := by
  unfold startLoad
  repeat' first
    | exact sub_trans rfl hm
    | with_reducible assumption
    | with_reducible apply refuse_frame
    | with_reducible apply State.wr_frame
    | with_reducible apply Frame.ite
    | exact has_SC_STAT_WL_BUSY rfl hm
    | split
    | with_reducible apply Frame.with_sc

theorem execWeightLoad_frame {M : Nat} {s0 s : State} (h : Frame M s0 s)
    (hm : sub 0x814fbc040000000400000000000000000000000000000000000a090380 M = true) : FrameR M s0 (execWeightLoad s) := by
  unfold execWeightLoad
  repeat' first
    | exact sub_trans rfl hm
    | with_reducible assumption
    | with_reducible apply FrameR.of_next
    | with_reducible apply FrameR.whenOk
    | with_reducible apply startLoad_frame

theorem landWeights_frame {M : Nat} {s0 s : State} {x1 x2 x3} (h : Frame M s0 s)
    (hm : sub 0x81000 M = true) : Frame M s0 (landWeights s x1 x2 x3) := by
  unfold landWeights
  repeat' first
    | exact sub_trans rfl hm
    | with_reducible assumption
    | with_reducible apply State.spWrite_frame
    | (intro x; refine (?_ : Frame M s0 x → _) ?_; (intro hx; clear_value x))
    | (intro x; clear_value x)
    | intro _
    | lift_lets -underBinder
    | with_reducible apply Frame.with_sc

theorem loadWeights_frame {M : Nat} {s0 s : State} {x1} (h : Frame M s0 s)
    (hm : sub 0x4c68ff80000000000000000000000000000000000bfc0814fbc040000000000c000000000101c0000000000000000002a193f80 M = true) : Frame M s0 (loadWeights s x1) := by
  unfold loadWeights
  repeat' first
    | exact sub_trans rfl hm
    | with_reducible assumption
    | with_reducible apply memRead_frame
    | with_reducible apply memRead_frame_eq (by assumption)
    | with_reducible apply chargeRange_frame
    | with_reducible apply landWeights_frame
    | with_reducible apply uncorrectableRead_frame
    | with_reducible refine Frame.foldl (fun u a hu => ?_) ?_
    | with_reducible refine Frame.foldl_on (get := Prod.fst) (fun u a hu => ?_) ?_
    | with_reducible refine Frame.foldl_on (get := Prod.snd) (fun u a hu => ?_) ?_
    | (intro x; refine (?_ : Frame M s0 x → _) ?_; (intro hx; clear_value x))
    | (intro x; clear_value x)
    | intro _
    | split
    | lift_lets -underBinder

theorem endLoad_frame {M : Nat} {s0 s : State} (h : Frame M s0 s)
    (hm : sub 0x4c68ff80000000000000000000000000000000000bfc0814fbc040000000400c000000000101c0000000000000000002a193f80 M = true) : Frame M s0 (endLoad s) := by
  unfold endLoad
  repeat' first
    | exact sub_trans rfl hm
    | with_reducible assumption
    | with_reducible apply loadWeights_frame
    | with_reducible apply raise_frame
    | with_reducible apply State.wr_frame
    | exact has_SC_STAT_WL_BUSY rfl hm
    | (intro x; refine (?_ : Frame M s0 x → _) ?_; (intro hx; clear_value x))
    | (intro x; clear_value x)
    | intro _
    | split
    | lift_lets -underBinder
    | with_reducible apply Frame.with_sc

theorem execWlDone_frame {M : Nat} {s0 s : State} (h : Frame M s0 s)
    (hm : sub 0x4c68ff80000000000000000000000000000000000bfc0814fbc040000000400c000000000101c0000000000000000002a193f80 M = true) : FrameR M s0 (execWlDone s) := by
  unfold execWlDone
  repeat' first
    | exact sub_trans rfl hm
    | with_reducible assumption
    | with_reducible apply FrameR.of_next
    | with_reducible apply FrameR.whenOk
    | with_reducible apply endLoad_frame

theorem pauseCheck_frame {M : Nat} {s0 s : State} (h : Frame M s0 s)
    (hm : sub 0x814fbc040000000280000000000000000000000000000000002a010380 M = true) : Frame M s0 (pauseCheck s) := by
  unfold pauseCheck
  repeat' first
    | exact sub_trans rfl hm
    | with_reducible assumption
    | with_reducible apply State.emit_frame
    | with_reducible apply State.bump_frame
    | with_reducible apply raise_frame
    | with_reducible apply State.wr_frame
    | with_reducible apply Frame.ite
    | exact has_PFC_TX_COUNT rfl hm
    | exact has_SC_STAT_PFC_ACTIVE rfl hm
    | split

theorem setCalendar_frame {M : Nat} {s0 s : State} {x1} (h : Frame M s0 s)
    (hm : sub 0x814fbc040000001280000000000000000000000000000000002a090380 M = true) : Frame M s0 (setCalendar s x1) := by
  unfold setCalendar
  repeat' first
    | exact sub_trans rfl hm
    | with_reducible assumption
    | with_reducible apply pauseCheck_frame
    | with_reducible apply State.wr_frame
    | exact has_SC_STAT_CAL_USED rfl hm
    | (intro x; refine (?_ : Frame M s0 x → _) ?_; (intro hx; clear_value x))
    | (intro x; clear_value x)
    | intro _
    | lift_lets -underBinder
    | with_reducible apply Frame.with_sc

theorem statusCount_frame {M : Nat} {s0 s : State} {x1} (h : Frame M s0 s)
    (hm : sub 0x814fbc040004780000000000000000000000000000000000000a010380 M = true) : Frame M s0 (statusCount s x1) := by
  unfold statusCount
  repeat' first
    | exact sub_trans rfl hm
    | with_reducible assumption
    | with_reducible apply State.bump_frame
    | with_reducible apply raise_frame
    | with_reducible apply Frame.ite
    | exact has_SC_BADS_COUNT rfl hm
    | exact has_SC_BUSY_COUNT rfl hm
    | exact has_SC_FAULTS_COUNT rfl hm
    | exact has_SC_HALTED_COUNT rfl hm
    | exact has_SC_OK_COUNT rfl hm
    | split

theorem answerRequest_frame {M : Nat} {s0 s : State} {x1 x2 x3 x4 x5 x6 x7} (h : Frame M s0 s)
    (hm : sub 0x814fbc040004781280000000000000000000000000000000002a090380 M = true) : Frame M s0 (answerRequest s x1 x2 x3 x4 x5 x6 x7) := by
  unfold answerRequest
  repeat' first
    | exact sub_trans rfl hm
    | with_reducible assumption
    | with_reducible apply setCalendar_frame
    | with_reducible apply statusCount_frame
    | (intro x; refine (?_ : Frame M s0 x → _) ?_; (intro hx; clear_value x))
    | (intro x; clear_value x)
    | intro _
    | lift_lets -underBinder

theorem fillVerdict_frame {M : Nat} {s0 s : State} {x1 x2 x3 x4 x5} (h : Frame M s0 s)
    (hm : sub 0x814fbc040004780000000000000000000000000000000000000a090380 M = true) : Frame M s0 (fillVerdict s x1 x2 x3 x4 x5) := by
  unfold fillVerdict
  repeat' first
    | exact sub_trans rfl hm
    | with_reducible assumption
    | with_reducible apply statusCount_frame
    | with_reducible apply Frame.ite
    | (intro x; refine (?_ : Frame M s0 x → _) ?_; (intro hx; clear_value x))
    | (intro x; clear_value x)
    | intro _
    | split
    | lift_lets -underBinder
    | with_reducible apply Frame.with_sc

theorem countLatency_frame {M : Nat} {s0 s : State} {x1} (h : Frame M s0 s)
    (hm : sub 0x814fbc041000000000000000000000000000000000000000000a010380 M = true) : Frame M s0 (countLatency s x1) := by
  unfold countLatency
  repeat' first
    | exact sub_trans rfl hm
    | with_reducible assumption
    | with_reducible apply State.bump_frame
    | with_reducible apply raise_frame
    | with_reducible apply Frame.ite
    | exact has_SC_LAT_COUNT rfl hm
    | (intro x; refine (?_ : Frame M s0 x → _) ?_; (intro hx; clear_value x))
    | (intro x; clear_value x)
    | intro _
    | split
    | lift_lets -underBinder

theorem sendVerdict_frame {M : Nat} {s0 s : State} (h : Frame M s0 s)
    (hm : sub 0x814fbc0410000012a0000000000000000000000000003000002a090382 M = true) : Frame M s0 (sendVerdict s) := by
  unfold sendVerdict
  repeat' first
    | exact sub_trans rfl hm
    | with_reducible assumption
    | with_reducible apply State.passTo_frame
    | with_reducible apply setCalendar_frame
    | with_reducible apply releaseFrames_frame
    | with_reducible apply sendFrame_frame
    | with_reducible apply countLatency_frame
    | (intro x; refine (?_ : Frame M s0 x → _) ?_; (intro hx; clear_value x))
    | (intro x; clear_value x)
    | intro _
    | split
    | lift_lets -underBinder

theorem execVerdictSend_frame {M : Nat} {s0 s : State} (h : Frame M s0 s)
    (hm : sub 0x814fbc0410000012a0000000000000000000000000003000002a090382 M = true) : FrameR M s0 (execVerdictSend s) := by
  unfold execVerdictSend
  repeat' first
    | exact sub_trans rfl hm
    | with_reducible assumption
    | with_reducible apply FrameR.of_next
    | with_reducible apply FrameR.whenOk
    | with_reducible apply sendVerdict_frame

theorem joinBatch_frame {M : Nat} {s0 s : State} {x1 x2 x3} (h : Frame M s0 s)
    (hm : sub 0x814fbc040000001280000000000000000000000000000000002a090380 M = true) : Frame M s0 (joinBatch s x1 x2 x3) := by
  unfold joinBatch
  repeat' first
    | exact sub_trans rfl hm
    | with_reducible assumption
    | with_reducible apply setCalendar_frame
    | with_reducible apply Frame.ite
    | (intro x; refine (?_ : Frame M s0 x → _) ?_; (intro hx; clear_value x))
    | (intro x; clear_value x)
    | intro _
    | split
    | lift_lets -underBinder
    | with_reducible apply Frame.with_sc

theorem admission_frame {M : Nat} {s0 s : State} {x1 x2 x3 x4 x5 x6} (h : Frame M s0 s)
    (hm : sub 0x814fbc040004781280000000000000000000000000000000002a090380 M = true) : Frame M s0 (admission s x1 x2 x3 x4 x5 x6) := by
  unfold admission
  repeat' first
    | exact sub_trans rfl hm
    | with_reducible assumption
    | with_reducible apply answerRequest_frame
    | with_reducible apply joinBatch_frame
    | with_reducible apply Frame.ite
    | (intro x; refine (?_ : Frame M s0 x → _) ?_; (intro hx; clear_value x))
    | (intro x; clear_value x)
    | intro _
    | split
    | lift_lets -underBinder

theorem parsedRequest_frame {M : Nat} {s0 s : State} {x1 x2 x3} (h : Frame M s0 s)
    (hm : sub 0x814fbc0400047c1280000000000000000000000000000000002a090380 M = true) : Frame M s0 (parsedRequest s x1 x2 x3) := by
  unfold parsedRequest
  repeat' first
    | exact sub_trans rfl hm
    | with_reducible assumption
    | with_reducible apply State.bump_frame
    | with_reducible apply answerRequest_frame
    | with_reducible apply admission_frame
    | with_reducible apply Frame.ite
    | exact has_SC_REQS_COUNT rfl hm
    | (intro x; refine (?_ : Frame M s0 x → _) ?_; (intro hx; clear_value x))
    | (intro x; clear_value x)
    | intro _
    | split
    | lift_lets -underBinder

theorem scoringFrame_frame {M : Nat} {s0 s : State} {x1 x2 x3} (h : Frame M s0 s)
    (hm : sub 0x814fbc040005fc1280000000000000000000000000003000002a090382 M = true) : Frame M s0 (scoringFrame s x1 x2 x3) := by
  unfold scoringFrame
  repeat' first
    | exact sub_trans rfl hm
    | with_reducible assumption
    | with_reducible apply State.passTo_frame
    | with_reducible apply State.bump_frame
    | with_reducible apply parsedRequest_frame
    | with_reducible apply Frame.ite
    | exact has_SC_LOST_COUNT rfl hm
    | exact has_SC_RUNTS_COUNT rfl hm
    | (intro x; refine (?_ : Frame M s0 x → _) ?_; (intro hx; clear_value x))
    | (intro x; clear_value x)
    | intro _
    | split
    | lift_lets -underBinder

theorem execScoringRequest_frame {M : Nat} {s0 s : State} {x0 x1 x2} (h : Frame M s0 s)
    (hm : sub 0x814fbc040005fc1294000000000000000000000000003000002a090382 M = true) : FrameR M s0 (execScoringRequest x0 x1 x2 s) := by
  unfold execScoringRequest
  repeat' first
    | exact sub_trans rfl hm
    | with_reducible assumption
    | with_reducible apply FrameR.of_next
    | with_reducible apply FrameR.whenOk
    | with_reducible apply acceptFrame_frame
    | with_reducible apply scoringFrame_frame
    | (intro x; refine (?_ : Frame M s0 x → _) ?_; (intro hx; clear_value x))
    | (intro x; clear_value x)
    | intro _
    | lift_lets -underBinder

theorem replaceBatch_frame {M : Nat} {s0 s : State} {x1 x2} (h : Frame M s0 s)
    (hm : sub 0x80000 M = true) : Frame M s0 (replaceBatch s x1 x2) := by
  unfold replaceBatch
  repeat' first
    | exact sub_trans rfl hm
    | with_reducible assumption
    | with_reducible apply Frame.ite
    | (intro x; refine (?_ : Frame M s0 x → _) ?_; (intro hx; clear_value x))
    | (intro x; clear_value x)
    | intro _
    | split
    | lift_lets -underBinder
    | with_reducible apply Frame.with_sc

theorem startBatch_frame {M : Nat} {s0 s : State} {x1} (h : Frame M s0 s)
    (hm : sub 0x8000000000000000000000000000000000000000000000000000000000030000000080082 M = true) : Frame M s0 (startBatch s x1) := by
  unfold startBatch
  repeat' first
    | exact sub_trans rfl hm
    | with_reducible assumption
    | with_reducible apply replaceBatch_frame
    | with_reducible apply State.passTo_frame
    | with_reducible apply State.wr_frame
    | with_reducible refine Frame.foldl (fun u a hu => ?_) ?_
    | with_reducible refine Frame.foldl_on (get := Prod.fst) (fun u a hu => ?_) ?_
    | with_reducible refine Frame.foldl_on (get := Prod.snd) (fun u a hu => ?_) ?_
    | exact has_KITE_STATE_STATE rfl hm
    | (intro x; refine (?_ : Frame M s0 x → _) ?_; (intro hx; clear_value x))
    | (intro x; clear_value x)
    | intro _
    | split
    | lift_lets -underBinder

theorem execBatchStart_frame {M : Nat} {s0 s : State} {x0} (h : Frame M s0 s)
    (hm : sub 0x8000000000000000000000000000000000000000000000000000000000030000000080082 M = true) : FrameR M s0 (execBatchStart x0 s) := by
  unfold execBatchStart
  repeat' first
    | exact sub_trans rfl hm
    | with_reducible assumption
    | with_reducible apply FrameR.of_next
    | with_reducible apply FrameR.whenOk
    | with_reducible apply startBatch_frame

theorem showRetiring_frame {M : Nat} {s0 s : State} (h : Frame M s0 s)
    (hm : sub 0x200000000004000000000000000000000000000000001000000000000000000000000000000000000000000000000 M = true) : Frame M s0 (showRetiring s) := by
  unfold showRetiring
  repeat' first
    | exact sub_trans rfl hm
    | with_reducible assumption
    | with_reducible apply State.wr_frame
    | with_reducible apply Frame.ite
    | with_reducible refine Frame.foldl (fun u a hu => ?_) ?_
    | with_reducible refine Frame.foldl_on (get := Prod.fst) (fun u a hu => ?_) ?_
    | with_reducible refine Frame.foldl_on (get := Prod.snd) (fun u a hu => ?_) ?_
    | exact has_CB_FILE_STAT_CB_RETIRING rfl hm
    | exact has_SC_SLOT_RETIRING rfl hm
    | exact has_VP_FILE_STAT_VP_RETIRING rfl hm
    | (intro x; refine (?_ : Frame M s0 x → _) ?_; (intro hx; clear_value x))
    | (intro x; clear_value x)
    | intro _
    | split
    | lift_lets -underBinder

theorem closeBatch_frame {M : Nat} {s0 s : State} {x1} (h : Frame M s0 s)
    (hm : sub 0x200000000004000000008000000000000000000000001000000000000000000000000000000000000000000080000 M = true) : Frame M s0 (closeBatch s x1) := by
  unfold closeBatch
  repeat' first
    | exact sub_trans rfl hm
    | with_reducible assumption
    | with_reducible apply showRetiring_frame
    | with_reducible apply State.wr_frame
    | with_reducible apply Frame.ite
    | with_reducible refine Frame.foldl (fun u a hu => ?_) ?_
    | with_reducible refine Frame.foldl_on (get := Prod.fst) (fun u a hu => ?_) ?_
    | with_reducible refine Frame.foldl_on (get := Prod.snd) (fun u a hu => ?_) ?_
    | exact has_KITE_STATE_STATE rfl hm
    | (intro x; refine (?_ : Frame M s0 x → _) ?_; (intro hx; clear_value x))
    | (intro x; clear_value x)
    | intro _
    | split
    | lift_lets -underBinder
    | with_reducible apply Frame.with_sc

theorem makeStale_frame {M : Nat} {s0 s : State} {x1 x2 x3} (h : Frame M s0 s)
    (hm : sub 0x814fbc040200000000000000000000000000000000000000000a090380 M = true) : Frame M s0 (makeStale s x1 x2 x3) := by
  unfold makeStale
  repeat' first
    | exact sub_trans rfl hm
    | with_reducible assumption
    | with_reducible apply raise_frame
    | with_reducible apply State.wr_frame
    | with_reducible apply Frame.ite
    | with_reducible refine Frame.foldl (fun u a hu => ?_) ?_
    | with_reducible refine Frame.foldl_on (get := Prod.fst) (fun u a hu => ?_) ?_
    | with_reducible refine Frame.foldl_on (get := Prod.snd) (fun u a hu => ?_) ?_
    | exact has_SC_SLOT_STALE rfl hm
    | (intro x; refine (?_ : Frame M s0 x → _) ?_; (intro hx; clear_value x))
    | (intro x; clear_value x)
    | intro _
    | split
    | lift_lets -underBinder
    | with_reducible apply Frame.with_sc

theorem latchPartFault_frame {M : Nat} {s0 s : State} {x1 x2 x3 x4} (h : Frame M s0 s)
    (hm : sub 0x7fe000007800000003800000000000000814fbc040038000000000000000000000000000000000000000a011380 M = true) : Frame M s0 (latchPartFault s x1 x2 x3 x4) := by
  unfold latchPartFault
  repeat' first
    | exact sub_trans rfl hm
    | with_reducible assumption
    | with_reducible apply State.wr_frame
    | with_reducible apply kiteFaultLatch_frame
    | with_reducible apply raise_frame
    | with_reducible apply endStop_frame
    | with_reducible apply faultClear_frame
    | with_reducible apply Frame.ite
    | exact has_KITE_STATE_STATE rfl hm
    | exact has_SC_FAULT_CODE rfl hm
    | exact has_SC_FAULT_KITE rfl hm
    | exact has_SC_FAULT_SLOT rfl hm
    | (intro x; refine (?_ : Frame M s0 x → _) ?_; (intro hx; clear_value x))
    | (intro x; clear_value x)
    | intro _
    | split
    | lift_lets -underBinder

theorem faultBatch_frame {M : Nat} {s0 s : State} {x1} (h : Frame M s0 s)
    (hm : sub 0x20000000000400000000800000000000000814fbc040104780000000000000000000000000000000000000a090380 M = true) : Frame M s0 (faultBatch s x1) := by
  unfold faultBatch
  repeat' first
    | exact sub_trans rfl hm
    | with_reducible assumption
    | with_reducible apply closeBatch_frame
    | with_reducible apply fillVerdict_frame
    | with_reducible refine Frame.foldl (fun u a hu => ?_) ?_
    | with_reducible refine Frame.foldl_on (get := Prod.fst) (fun u a hu => ?_) ?_
    | with_reducible refine Frame.foldl_on (get := Prod.snd) (fun u a hu => ?_) ?_
    | (intro x; refine (?_ : Frame M s0 x → _) ?_; (intro hx; clear_value x))
    | (intro x; clear_value x)
    | intro _
    | lift_lets -underBinder

theorem loseRow_frame {M : Nat} {s0 s : State} {x1 x2} (h : Frame M s0 s)
    (hm : sub 0x40001000 M = true) : Frame M s0 (loseRow s x1 x2) := by
  unfold loseRow
  repeat' first
    | exact sub_trans rfl hm
    | with_reducible assumption
    | with_reducible apply State.spWrite_frame
    | (intro x; refine (?_ : Frame M s0 x → _) ?_; (intro hx; clear_value x))
    | (intro x; clear_value x)
    | intro _
    | lift_lets -underBinder
    | with_reducible apply Frame.with_fresh

theorem partUe_frame {M : Nat} {s0 s : State} {x1 x2 x3 x4} (h : Frame M s0 s)
    (hm : sub 0x7fe000007800000103800000000000008814fbc040238000000000000000000180000000000000000004a091380 M = true) : Frame M s0 (partUe s x1 x2 x3 x4) := by
  unfold partUe
  repeat' first
    | exact sub_trans rfl hm
    | with_reducible assumption
    | with_reducible apply raise_frame
    | with_reducible apply State.countUe_frame
    | with_reducible apply remapRow_frame
    | with_reducible apply remapRow_frame_eq (by assumption)
    | with_reducible apply latchPartFault_frame
    | with_reducible apply makeStale_frame
    | with_reducible apply loseRow_frame
    | with_reducible apply declareFailed_frame
    | with_reducible apply Frame.ite
    | (intro x; refine (?_ : Frame M s0 x → _) ?_; (intro hx; clear_value x))
    | (intro x; clear_value x)
    | intro _
    | split
    | lift_lets -underBinder

theorem scoreBatch_frame {M : Nat} {s0 s : State} {x1} (h : Frame M s0 s)
    (hm : sub 0x207fe000007c00000003800000000000000814fbc04013c780000000000000000000000000000000000000a091380 M = true) : Frame M s0 (scoreBatch s x1) := by
  unfold scoreBatch
  repeat' first
    | exact sub_trans rfl hm
    | with_reducible assumption
    | with_reducible apply faultBatch_frame
    | with_reducible apply latchPartFault_frame
    | with_reducible apply raise_frame
    | with_reducible apply closeBatch_frame
    | with_reducible apply fillVerdict_frame
    | with_reducible refine Frame.foldl (fun u a hu => ?_) ?_
    | with_reducible refine Frame.foldl_on (get := Prod.fst) (fun u a hu => ?_) ?_
    | with_reducible refine Frame.foldl_on (get := Prod.snd) (fun u a hu => ?_) ?_
    | (intro x; refine (?_ : Frame M s0 x → _) ?_; (intro hx; clear_value x))
    | (intro x; clear_value x)
    | intro _
    | split
    | lift_lets -underBinder

theorem endBatch_frame {M : Nat} {s0 s : State} {x1 x2} (h : Frame M s0 s)
    (hm : sub 0x207fe000007c00000103800000000000008814fbc04033c780000000000000000180000000000003000004a091382 M = true) : Frame M s0 (endBatch s x1 x2) := by
  unfold endBatch
  repeat' first
    | exact sub_trans rfl hm
    | with_reducible assumption
    | with_reducible apply State.passTo_frame
    | with_reducible apply spCorrected_frame
    | with_reducible apply faultBatch_frame
    | with_reducible apply partUe_frame
    | with_reducible apply scoreBatch_frame
    | with_reducible refine Frame.foldl (fun u a hu => ?_) ?_
    | with_reducible refine Frame.foldl_on (get := Prod.fst) (fun u a hu => ?_) ?_
    | with_reducible refine Frame.foldl_on (get := Prod.snd) (fun u a hu => ?_) ?_
    | (intro x; refine (?_ : Frame M s0 x → _) ?_; (intro hx; clear_value x))
    | (intro x; clear_value x)
    | intro _
    | split
    | lift_lets -underBinder

theorem execBatchEnd_frame {M : Nat} {s0 s : State} {x0 x1} (h : Frame M s0 s)
    (hm : sub 0x207fe000007c00000103800000000000008814fbc04033c780000000000000000180000000000003000004a091382 M = true) : FrameR M s0 (execBatchEnd x0 x1 s) := by
  unfold execBatchEnd
  repeat' first
    | exact sub_trans rfl hm
    | with_reducible assumption
    | with_reducible apply FrameR.of_next
    | with_reducible apply FrameR.whenOk
    | with_reducible apply endBatch_frame

theorem showModel_frame {M : Nat} {s0 s : State} {x1} (h : Frame M s0 s)
    (hm : sub 0xe400000000000000000000000000000000000000000000000 M = true) : Frame M s0 (showModel s x1) := by
  unfold showModel
  repeat' first
    | exact sub_trans rfl hm
    | with_reducible assumption
    | with_reducible apply State.wr_frame
    | with_reducible apply Frame.ite
    | exact has_SC_SLOT_COST_C rfl hm
    | exact has_SC_SLOT_LIVE rfl hm
    | exact has_SC_SLOT_STALE rfl hm
    | exact has_SC_SLOT_VERSION rfl hm
    | (intro x; refine (?_ : Frame M s0 x → _) ?_; (intro hx; clear_value x))
    | (intro x; clear_value x)
    | intro _
    | split
    | lift_lets -underBinder

theorem partitionSkew_frame {M : Nat} {s0 s : State} {x1} (h : Frame M s0 s)
    (hm : sub 0x207fe000007c00000003800000000000000814fbc04013c780000000000000000000000000000000000000a091380 M = true) : Frame M s0 (partitionSkew s x1) := by
  unfold partitionSkew
  repeat' first
    | exact sub_trans rfl hm
    | with_reducible assumption
    | with_reducible apply raise_frame
    | with_reducible apply latchPartFault_frame
    | with_reducible apply faultBatch_frame
    | (intro x; refine (?_ : Frame M s0 x → _) ?_; (intro hx; clear_value x))
    | (intro x; clear_value x)
    | intro _
    | split
    | lift_lets -underBinder

end Sys2Proof.Machine
end

