-- ==== Sys2Proof/Laws/FrameRecovery.lean ====
section
/-! SUPPORT. Frame lemmas for the functions of Machine/Recovery.lean. -/

set_option Elab.async false
set_option linter.all false

namespace Sys2Proof.Machine

theorem kiteConfigFields_eq : kiteConfigFields =
    [Reg.OPS_BASE_BASE, Reg.OPS_COUNT_COUNT, Reg.ACC_BASE_ACC_BASE, Reg.ACC_SIZE_ACC_SIZE, Reg.SP_RETIRE_SP_RETIRE_CE,
     Reg.GATE_CTL_ZERO_GATE_EN, Reg.ARR_PROFILE_MODE, Reg.ARR_PROFILE_SHAPE, Reg.ARR_PROFILE_BRIDLE,
     Reg.ROW_MASK_ROWS, Reg.CBF_CTL_AUTO_INC, Reg.CBF_CTL_BANK, Reg.CBF_CTL_FILE, Reg.CBF_INDEX_WORD,
     Reg.CBF_DATA_DATA, Reg.VP_CTL_AUTO_INC, Reg.VP_CTL_BANK, Reg.VP_INDEX_WORD, Reg.VP_DATA_DATA,
     Reg.ENV_SEL_AUTO_INC, Reg.ENV_SEL_TAG, Reg.ENV_SEL_WORD, Reg.TAG_CFG_HIST_BASE, Reg.TAG_CFG_HIST_SHIFT] := by
     decide

theorem has_kiteConfig {M : Nat} (hm : sub 0x670f000000f8000000facc0000000000000000000000000000000000000000000000000000000000000000000000000 M = true) : ∀ f ∈ kiteConfigFields, has f M := by
  rw [kiteConfigFields_eq]
  refine List.forall_mem_cons.2 ⟨has_OPS_BASE_BASE rfl hm, ?_⟩
  refine List.forall_mem_cons.2 ⟨has_OPS_COUNT_COUNT rfl hm, ?_⟩
  refine List.forall_mem_cons.2 ⟨has_ACC_BASE_ACC_BASE rfl hm, ?_⟩
  refine List.forall_mem_cons.2 ⟨has_ACC_SIZE_ACC_SIZE rfl hm, ?_⟩
  refine List.forall_mem_cons.2 ⟨has_SP_RETIRE_SP_RETIRE_CE rfl hm, ?_⟩
  refine List.forall_mem_cons.2 ⟨has_GATE_CTL_ZERO_GATE_EN rfl hm, ?_⟩
  refine List.forall_mem_cons.2 ⟨has_ARR_PROFILE_MODE rfl hm, ?_⟩
  refine List.forall_mem_cons.2 ⟨has_ARR_PROFILE_SHAPE rfl hm, ?_⟩
  refine List.forall_mem_cons.2 ⟨has_ARR_PROFILE_BRIDLE rfl hm, ?_⟩
  refine List.forall_mem_cons.2 ⟨has_ROW_MASK_ROWS rfl hm, ?_⟩
  refine List.forall_mem_cons.2 ⟨has_CBF_CTL_AUTO_INC rfl hm, ?_⟩
  refine List.forall_mem_cons.2 ⟨has_CBF_CTL_BANK rfl hm, ?_⟩
  refine List.forall_mem_cons.2 ⟨has_CBF_CTL_FILE rfl hm, ?_⟩
  refine List.forall_mem_cons.2 ⟨has_CBF_INDEX_WORD rfl hm, ?_⟩
  refine List.forall_mem_cons.2 ⟨has_CBF_DATA_DATA rfl hm, ?_⟩
  refine List.forall_mem_cons.2 ⟨has_VP_CTL_AUTO_INC rfl hm, ?_⟩
  refine List.forall_mem_cons.2 ⟨has_VP_CTL_BANK rfl hm, ?_⟩
  refine List.forall_mem_cons.2 ⟨has_VP_INDEX_WORD rfl hm, ?_⟩
  refine List.forall_mem_cons.2 ⟨has_VP_DATA_DATA rfl hm, ?_⟩
  refine List.forall_mem_cons.2 ⟨has_ENV_SEL_AUTO_INC rfl hm, ?_⟩
  refine List.forall_mem_cons.2 ⟨has_ENV_SEL_TAG rfl hm, ?_⟩
  refine List.forall_mem_cons.2 ⟨has_ENV_SEL_WORD rfl hm, ?_⟩
  refine List.forall_mem_cons.2 ⟨has_TAG_CFG_HIST_BASE rfl hm, ?_⟩
  refine List.forall_mem_cons.2 ⟨has_TAG_CFG_HIST_SHIFT rfl hm, ?_⟩
  exact fun _ h => nomatch h

theorem rewritePiece_frame {M : Nat} {s0 s : State} {x1 x2} (h : Frame M s0 s)
    (hm : sub 0x4c68ff800000000000000000000000000000000003fc0814fbc040000000000c000000000101c0000000000000000002a113f80 M = true) : Frame M s0 (rewritePiece s x1 x2) := by
  unfold rewritePiece
  repeat' first
    | exact sub_trans rfl hm
    | with_reducible assumption
    | with_reducible apply memRead_frame
    | with_reducible apply memRead_frame_eq (by assumption)
    | with_reducible apply State.spWrite_frame
    | with_reducible apply noteUe_frame
    | with_reducible apply uncorrectableRead_frame
    | with_reducible apply Frame.ite
    | with_reducible refine Frame.foldl (fun u a hu => ?_) ?_
    | with_reducible refine Frame.foldl_on (get := Prod.fst) (fun u a hu => ?_) ?_
    | with_reducible refine Frame.foldl_on (get := Prod.snd) (fun u a hu => ?_) ?_
    | (intro x; refine (?_ : Frame M s0 x → _) ?_; (intro hx; clear_value x))
    | (intro x; clear_value x)
    | intro _
    | split
    | lift_lets -underBinder
    | with_reducible apply Frame.with_recov

theorem rewriteResident_frame {M : Nat} {s0 s : State} {x1 x2} (h : Frame M s0 s)
    (hm : sub 0x4c68ff800000000000000000000000000000000003fc0814fbc040000000000c000000000101c0000000000000000002a113f80 M = true) : Frame M s0 (rewriteResident s x1 x2) := by
  unfold rewriteResident
  repeat' first
    | exact sub_trans rfl hm
    | with_reducible assumption
    | with_reducible apply rewritePiece_frame
    | with_reducible refine Frame.foldl (fun u a hu => ?_) ?_
    | with_reducible refine Frame.foldl_on (get := Prod.fst) (fun u a hu => ?_) ?_
    | with_reducible refine Frame.foldl_on (get := Prod.snd) (fun u a hu => ?_) ?_
    | (intro x; refine (?_ : Frame M s0 x → _) ?_; (intro hx; clear_value x))
    | (intro x; clear_value x)
    | intro _
    | lift_lets -underBinder

theorem remapLost_frame {M : Nat} {s0 s : State} {x1} (h : Frame M s0 s)
    (hm : sub 0x4c68ff800000000000000000000100000000000003fc0814fbc040000000000c000000000101c0000000000000000006a113f80 M = true) : Frame M s0 (remapLost s x1) := by
  unfold remapLost
  repeat' first
    | exact sub_trans rfl hm
    | with_reducible assumption
    | with_reducible apply remapRow_frame
    | with_reducible apply remapRow_frame_eq (by assumption)
    | with_reducible apply loseRow_frame
    | with_reducible apply rewriteResident_frame
    | with_reducible apply State.setKite_frame
    | with_reducible apply Frame.ite
    | with_reducible refine Frame.foldl (fun u a hu => ?_) ?_
    | with_reducible refine Frame.foldl_on (get := Prod.fst) (fun u a hu => ?_) ?_
    | with_reducible refine Frame.foldl_on (get := Prod.snd) (fun u a hu => ?_) ?_
    | (intro x; refine (?_ : Frame M s0 x → _) ?_; (intro hx; clear_value x))
    | (intro x; clear_value x)
    | intro _
    | split
    | lift_lets -underBinder

theorem copyField_frame {M : Nat} {s0 s : State} {f o n i} (h : Frame M s0 s) (hf : has f M)
    (hm : sub 0x8 M = true) : Frame M s0 (copyField s f o n i) := by
  unfold copyField
  dsimp only
  split
  · exact Frame.with_shadow (State.wr_frame h hf) hm (fun c => Table.rising_put c)
  · exact Frame.with_shadow (State.wr_frame h hf) hm (fun c => Table.rising_erase c)

theorem copyConfig_frame {M : Nat} {s0 s : State} {x1 x2} (h : Frame M s0 s)
    (hm : sub 0x670f000000f8000000facc0000000000000000000000000000000000000000000000000000000000000000000000008 M = true) : Frame M s0 (copyConfig s x1 x2) := by
  unfold copyConfig
  have hk := has_kiteConfig (M := M) (sub_trans rfl hm)
  exact Frame.foldl_mem (fun _ f hf hu =>
    Frame.foldl (fun _ _ hv => copyField_frame hv (hk f hf) (sub_trans rfl hm)) hu) h

theorem adoptSlot_frame {M : Nat} {s0 s : State} {x1 x2 x3} (h : Frame M s0 s)
    (hm : sub 0x4c68ff80670f000000f8000000facc000000000003fc0814fbc040000000000c000000000101c0000000000000000002a113f88 M = true) : Frame M s0 (adoptSlot s x1 x2 x3) := by
  unfold adoptSlot
  repeat' first
    | exact sub_trans rfl hm
    | with_reducible assumption
    | with_reducible apply copyConfig_frame
    | with_reducible apply rewriteResident_frame
    | with_reducible apply State.setKite_frame
    | (intro x; refine (?_ : Frame M s0 x → _) ?_; (intro hx; clear_value x))
    | (intro x; clear_value x)
    | intro _
    | lift_lets -underBinder

theorem swapKite_frame {M : Nat} {s0 s : State} {x1 x2} (h : Frame M s0 s)
    (hm : sub 0x800000000000003814fbc040200000000c00000000000000000000000000000000a191388 M = true) : Frame M s0 (swapKite s x1 x2) := by
  unfold swapKite
  repeat' first
    | exact fun h => Table.rising_put h
    | exact fun h => Table.rising_erase h
    | exact fun h => Table.rising_filter h
    | exact fun h => Table.rising_putAll h
    | exact fun _ => rfl
    | exact fun h => Table.rising_putAll (Table.rising_filter h)
    | exact sub_trans rfl hm
    | with_reducible assumption
    | with_reducible apply State.wr_frame
    | with_reducible apply State.setKite_frame
    | with_reducible apply svcAppend_frame
    | with_reducible apply raise_frame
    | with_reducible apply makeStale_frame
    | with_reducible apply Frame.ite
    | exact has_KITE_STATE_STATE rfl hm
    | exact has_TRN_BALLAST_USED rfl hm
    | exact has_TRN_KMAP_SLOT rfl hm
    | (intro x; refine (?_ : Frame M s0 x → _) ?_; (intro hx; clear_value x))
    | (intro x; clear_value x)
    | intro _
    | split
    | lift_lets -underBinder
    | with_reducible apply Frame.with_shadow

theorem ballastGone_frame {M : Nat} {s0 s : State} {x1} (h : Frame M s0 s)
    (hm : sub 0x814fbc040000000000c00000000010590100000000000000002a110380 M = true) : Frame M s0 (ballastGone s x1) := by
  unfold ballastGone
  repeat' first
    | exact sub_trans rfl hm
    | with_reducible assumption
    | with_reducible apply handOver_frame
    | with_reducible apply raise_frame
    | with_reducible apply Frame.ite
    | (intro x; refine (?_ : Frame M s0 x → _) ?_; (intro hx; clear_value x))
    | (intro x; clear_value x)
    | intro _
    | split
    | lift_lets -underBinder
    | with_reducible apply Frame.with_recov

theorem repairKite_frame {M : Nat} {s0 s : State} {x1} (h : Frame M s0 s)
    (hm : sub 0x4c68ff80670f000000f8000000facc000000000003fc0814fbc040000000000c000000000105d0100000000000000002a113f88 M = true) : Frame M s0 (repairKite s x1) := by
  unfold repairKite
  repeat' first
    | exact fun h => Table.rising_put h
    | exact fun h => Table.rising_erase h
    | exact fun h => Table.rising_filter h
    | exact fun h => Table.rising_putAll h
    | exact fun _ => rfl
    | exact fun h => Table.rising_putAll (Table.rising_filter h)
    | exact sub_trans rfl hm
    | with_reducible assumption
    | with_reducible apply adoptSlot_frame
    | with_reducible apply rung_frame
    | with_reducible apply ballastGone_frame
    | (intro x; refine (?_ : Frame M s0 x → _) ?_; (intro hx; clear_value x))
    | (intro x; clear_value x)
    | intro _
    | split
    | lift_lets -underBinder
    | with_reducible apply Frame.with_recov
    | with_reducible apply Frame.with_shadow

theorem replaceNow_frame {M : Nat} {s0 s : State} {x1 x2} (h : Frame M s0 s)
    (hm : sub 0x4c68ff80670f000000f8000000facc800000000003fcb814fbc040200000000c000000000101c0000000000000000002a193f88 M = true) : Frame M s0 (replaceNow s x1 x2) := by
  unfold replaceNow
  repeat' first
    | exact sub_trans rfl hm
    | with_reducible assumption
    | with_reducible apply swapKite_frame
    | with_reducible apply adoptSlot_frame
    | with_reducible apply declareFailed_frame
    | (intro x; refine (?_ : Frame M s0 x → _) ?_; (intro hx; clear_value x))
    | (intro x; clear_value x)
    | intro _
    | lift_lets -underBinder

theorem replaceKite_frame {M : Nat} {s0 s : State} {x1 x2} (h : Frame M s0 s)
    (hm : sub 0x4c68ff80670f000000f8000000facc800000000003fcb814fbc040200000000c000000000101c0000000000000000002a193f88 M = true) : Frame M s0 (replaceKite s x1 x2) := by
  unfold replaceKite
  repeat' first
    | exact sub_trans rfl hm
    | with_reducible assumption
    | with_reducible apply refuse_frame
    | with_reducible apply replaceNow_frame
    | with_reducible apply Frame.ite
    | (intro x; refine (?_ : Frame M s0 x → _) ?_; (intro hx; clear_value x))
    | (intro x; clear_value x)
    | intro _
    | split
    | lift_lets -underBinder
    | with_reducible apply Frame.with_recov

theorem execReplace_frame {M : Nat} {s0 s : State} {x0 x1} (h : Frame M s0 s)
    (hm : sub 0x4c68ff80670f000000f8000000facc800000000003fcb814fbc040200000000c000000000101c0000000000000000002a193f88 M = true) : FrameR M s0 (execReplace x0 x1 s) := by
  unfold execReplace
  repeat' first
    | exact sub_trans rfl hm
    | with_reducible assumption
    | with_reducible apply FrameR.of_next
    | with_reducible apply FrameR.whenOk
    | with_reducible apply replaceKite_frame

theorem commitPlanned_frame {M : Nat} {s0 s : State} (h : Frame M s0 s)
    (hm : sub 0x4c68ff80670f000000f8000000facc800000000003fcb814fbc040200000000c000000000101c0000000000000000002a193f88 M = true) : Frame M s0 (commitPlanned s) := by
  unfold commitPlanned
  repeat' first
    | exact sub_trans rfl hm
    | with_reducible assumption
    | with_reducible apply replaceNow_frame
    | with_reducible refine Frame.foldl (fun u a hu => ?_) ?_
    | with_reducible refine Frame.foldl_on (get := Prod.fst) (fun u a hu => ?_) ?_
    | with_reducible refine Frame.foldl_on (get := Prod.snd) (fun u a hu => ?_) ?_
    | (intro x; refine (?_ : Frame M s0 x → _) ?_; (intro hx; clear_value x))
    | (intro x; clear_value x)
    | intro _
    | lift_lets -underBinder
    | with_reducible apply Frame.with_recov

theorem repairSwaps_frame {M : Nat} {s0 s : State} (h : Frame M s0 s)
    (hm : sub 0x800000000000003814fbc040200000000c00000000000000000000000000000000a191388 M = true) : Frame M s0 (repairSwaps s) := by
  unfold repairSwaps
  repeat' first
    | exact sub_trans rfl hm
    | with_reducible assumption
    | with_reducible apply swapKite_frame
    | with_reducible refine Frame.foldl (fun u a hu => ?_) ?_
    | with_reducible refine Frame.foldl_on (get := Prod.fst) (fun u a hu => ?_) ?_
    | with_reducible refine Frame.foldl_on (get := Prod.snd) (fun u a hu => ?_) ?_
    | (intro x; refine (?_ : Frame M s0 x → _) ?_; (intro hx; clear_value x))
    | (intro x; clear_value x)
    | intro _
    | lift_lets -underBinder
    | with_reducible apply Frame.with_recov

theorem hangKite_frame {M : Nat} {s0 s : State} {x1} (h : Frame M s0 s)
    (hm : sub 0x800000000000008814fbc040000000000000000000010000000000000003000002a013382 M = true) : Frame M s0 (hangKite s x1) := by
  unfold hangKite
  repeat' first
    | exact sub_trans rfl hm
    | with_reducible assumption
    | with_reducible apply stopStep_frame
    | with_reducible apply declareFailed_frame
    | with_reducible apply State.passTo_frame
    | (intro x; refine (?_ : Frame M s0 x → _) ?_; (intro hx; clear_value x))
    | (intro x; clear_value x)
    | intro _
    | lift_lets -underBinder

theorem execKiteHang_frame {M : Nat} {s0 s : State} {x0} (h : Frame M s0 s)
    (hm : sub 0x800000000000008814fbc040000000000000000000010000000000000003000002a013382 M = true) : FrameR M s0 (execKiteHang x0 s) := by
  unfold execKiteHang
  repeat' first
    | exact sub_trans rfl hm
    | with_reducible assumption
    | with_reducible apply FrameR.of_next
    | with_reducible apply FrameR.whenOk
    | with_reducible apply hangKite_frame

theorem clearPlanUe_frame {M : Nat} {s0 s : State} (h : Frame M s0 s)
    (hm : sub 0x4c68ff800000000000000000000000000000000003fc0814fbc040000000000c000000000101c0000000000000000002a113f80 M = true) : Frame M s0 (clearPlanUe s) := by
  unfold clearPlanUe
  repeat' first
    | exact sub_trans rfl hm
    | with_reducible assumption
    | with_reducible apply rewritePiece_frame
    | with_reducible apply State.wr_frame
    | with_reducible refine Frame.foldl (fun u a hu => ?_) ?_
    | with_reducible refine Frame.foldl_on (get := Prod.fst) (fun u a hu => ?_) ?_
    | with_reducible refine Frame.foldl_on (get := Prod.snd) (fun u a hu => ?_) ?_
    | exact has_RECOV_STAT_PLAN_UE rfl hm
    | (intro x; refine (?_ : Frame M s0 x → _) ?_; (intro hx; clear_value x))
    | (intro x; clear_value x)
    | intro _
    | lift_lets -underBinder
    | with_reducible apply Frame.with_recov

theorem execPlanUeDone_frame {M : Nat} {s0 s : State} (h : Frame M s0 s)
    (hm : sub 0x4c68ff800000000000000000000000000000000003fc0814fbc040000000000c000000000101c0000000000000000002a113f80 M = true) : FrameR M s0 (execPlanUeDone s) := by
  unfold execPlanUeDone
  repeat' first
    | exact sub_trans rfl hm
    | with_reducible assumption
    | with_reducible apply FrameR.of_next
    | with_reducible apply FrameR.whenOk
    | with_reducible apply clearPlanUe_frame

theorem askRestores_frame {M : Nat} {s0 s : State} (h : Frame M s0 s)
    (hm : sub 0x814fbc040000000000c00000000010180000000000000000002a110380 M = true) : Frame M s0 (askRestores s) := by
  unfold askRestores
  repeat' first
    | exact sub_trans rfl hm
    | with_reducible assumption
    | with_reducible apply askRestore_frame
    | with_reducible refine Frame.foldl (fun u a hu => ?_) ?_
    | with_reducible refine Frame.foldl_on (get := Prod.fst) (fun u a hu => ?_) ?_
    | with_reducible refine Frame.foldl_on (get := Prod.snd) (fun u a hu => ?_) ?_
    | (intro x; refine (?_ : Frame M s0 x → _) ?_; (intro hx; clear_value x))
    | (intro x; clear_value x)
    | intro _
    | lift_lets -underBinder
    | with_reducible apply Frame.with_recov

theorem restoreLanded_frame {M : Nat} {s0 s : State} {x1 x2} (h : Frame M s0 s)
    (hm : sub 0xd00000000000000000000000000000000000000002000000000000000000000100000 M = true) : Frame M s0 (restoreLanded s x1 x2) := by
  unfold restoreLanded
  repeat' first
    | exact sub_trans rfl hm
    | with_reducible assumption
    | with_reducible apply State.bump_frame
    | with_reducible apply burnGoesOn_frame
    | with_reducible apply Frame.ite
    | exact has_RESTORED_COUNT rfl hm
    | (intro x; refine (?_ : Frame M s0 x → _) ?_; (intro hx; clear_value x))
    | (intro x; clear_value x)
    | intro _
    | split
    | lift_lets -underBinder
    | with_reducible apply Frame.with_recov

theorem restoreFails_frame {M : Nat} {s0 s : State} {x1} (h : Frame M s0 s)
    (hm : sub 0x814fbc040000000000c00000000000180000000000000000000a110380 M = true) : Frame M s0 (restoreFails s x1) := by
  unfold restoreFails
  repeat' first
    | exact sub_trans rfl hm
    | with_reducible assumption
    | with_reducible apply rungRecorded_frame
    | (intro x; refine (?_ : Frame M s0 x → _) ?_; (intro hx; clear_value x))
    | (intro x; clear_value x)
    | intro _
    | lift_lets -underBinder
    | with_reducible apply Frame.with_recov

theorem keepReply_frame {M : Nat} {s0 s : State} {x1 x2 x3} (h : Frame M s0 s)
    (hm : sub 0x10000 M = true) : Frame M s0 (keepReply s x1 x2 x3) := by
  unfold keepReply
  repeat' first
    | exact sub_trans rfl hm
    | with_reducible assumption
    | with_reducible apply Frame.with_fab

theorem sendReply_frame {M : Nat} {s0 s : State} {x1 x2 x3 x4} (h : Frame M s0 s)
    (hm : sub 0x4000ff8000000000000000000000000001d000832b7c0814fbc0c0000000020c000000003f01c0000000000000000002a132f80 M = true) : Frame M s0 (sendReply s x1 x2 x3 x4) := by
  unfold sendReply
  repeat' first
    | exact sub_trans rfl hm
    | with_reducible assumption
    | with_reducible apply State.send_frame
    | with_reducible apply startSend_frame
    | split

theorem answerPeer_frame {M : Nat} {s0 s : State} {x1 x2 x3 x4} (h : Frame M s0 s)
    (hm : sub 0x4000ff8000000000000000000000000001d000832b7c0814fbc0c0000000020c000000003f01c0000000000000000002a132f80 M = true) : Frame M s0 (answerPeer s x1 x2 x3 x4) := by
  unfold answerPeer
  repeat' first
    | exact sub_trans rfl hm
    | with_reducible assumption
    | with_reducible apply sendReply_frame
    | with_reducible apply keepReply_frame

theorem runTo_frame {M : Nat} {s0 s : State} {x1 x2 x3} (h : Frame M s0 s)
    (hm : sub 0x4c68ff80000000000000000000000003fbf800000bfc0814fbc040000000000c000000000101c0100000000000000002a157f80 M = true) : Frame M s0 (runTo s x1 x2 x3) := by
  unfold runTo
  repeat' first
    | exact sub_trans rfl hm
    | with_reducible assumption
    | with_reducible apply continueBurn_frame
    | with_reducible apply startBurn_frame
    | with_reducible apply Frame.ite
    | split

theorem burnerHolds_frame {M : Nat} {s0 s : State} {x1 x2} (h : Frame M s0 s)
    (hm : sub 0x4c68ff80000000000000000000000003fbf800000bfc0814fbc040000000000c000000000101c0100000000000000002a157f80 M = true) : FrameO (fun x => x) M s0 (burnerHolds s x1 x2) := by
  unfold burnerHolds
  repeat' first
    | exact sub_trans rfl hm
    | with_reducible assumption
    | with_reducible apply FrameO.of_some
    | with_reducible exact FrameO.none
    | with_reducible apply FrameO.ite
    | with_reducible apply runTo_frame
    | with_reducible apply Frame.ite
    | (intro x; refine (?_ : Frame M s0 x → _) ?_; (intro hx; clear_value x))
    | (intro x; clear_value x)
    | intro _
    | split
    | lift_lets -underBinder
    | dsimp only

theorem burnerHolds_frame_some {M : Nat} {s0 s : State} {x1 x2} {z} (e : burnerHolds s x1 x2 = some z) (h : Frame M s0 s)
    (hm : sub 0x4c68ff80000000000000000000000003fbf800000bfc0814fbc040000000000c000000000101c0100000000000000002a157f80 M = true) : Frame M s0 z :=
  (burnerHolds_frame h hm).held z e

theorem serveRange_frame {M : Nat} {s0 s : State} {x1 x2} (h : Frame M s0 s)
    (hm : sub 0x4c68ff8000000000000000000000000001d000832bfc0814fbc0c0000000020c000000003f01c0000000000000000002a132f80 M = true) : Frame M s0 (serveRange s x1 x2) := by
  unfold serveRange
  repeat' first
    | exact sub_trans rfl hm
    | with_reducible assumption
    | with_reducible apply memRead_frame
    | with_reducible apply memRead_frame_eq (by assumption)
    | with_reducible apply answerPeer_frame
    | with_reducible apply uncorrectableRead_frame
    | with_reducible refine Frame.foldl (fun u a hu => ?_) ?_
    | with_reducible refine Frame.foldl_on (get := Prod.fst) (fun u a hu => ?_) ?_
    | with_reducible refine Frame.foldl_on (get := Prod.snd) (fun u a hu => ?_) ?_
    | (intro x; refine (?_ : Frame M s0 x → _) ?_; (intro hx; clear_value x))
    | (intro x; clear_value x)
    | intro _
    | split
    | lift_lets -underBinder

theorem serveRestore_frame {M : Nat} {s0 s : State} {x1 x2 x3} (h : Frame M s0 s)
    (hm : sub 0x4c68ff80000000000000000000000003fbf800832bfc0814fbc0c0000000020c000000003f01c0100000000000000002a177f80 M = true) : Frame M s0 (serveRestore s x1 x2 x3) := by
  unfold serveRestore
  repeat' first
    | exact sub_trans rfl hm
    | with_reducible assumption
    | with_reducible apply State.send_frame
    | with_reducible apply sendReply_frame
    | with_reducible apply answerPeer_frame
    | with_reducible apply burnerHolds_frame
    | with_reducible apply burnerHolds_frame_some (by assumption)
    | with_reducible apply serveRange_frame
    | with_reducible apply Frame.ite
    | split

theorem execRestoreRead_frame {M : Nat} {s0 s : State} {x0 x1 x2} (h : Frame M s0 s)
    (hm : sub 0x4c68ff80000000000000000000000003fbf800832bfc0814fbc0c0000000020c000000003f01c0100000000000000002a177f80 M = true) : FrameR M s0 (execRestoreRead x0 x1 x2 s) := by
  unfold execRestoreRead
  repeat' first
    | exact sub_trans rfl hm
    | with_reducible assumption
    | with_reducible apply FrameR.of_next
    | with_reducible apply FrameR.whenOk
    | with_reducible apply serveRestore_frame
    | split

end Sys2Proof.Machine
end

