-- ==== Sys2Proof/Laws/FrameCommit.lean ====
section
/-! SUPPORT. Frame lemmas for the functions of Machine/Commit.lean. -/

set_option Elab.async false
set_option linter.all false

namespace Sys2Proof.Machine

theorem showChannels_frame {M : Nat} {s0 s : State} {x1} (h : Frame M s0 s)
    (hm : sub 0x18000000000000000000000000000000000000000000000000000000000000000000000000000000000000000000000000000000 M = true) : Frame M s0 (showChannels s x1) := by
  unfold showChannels
  repeat' first
    | exact sub_trans rfl hm
    | with_reducible assumption
    | with_reducible apply State.wr_frame
    | with_reducible apply Frame.ite
    | with_reducible refine Frame.foldl (fun u a hu => ?_) ?_
    | with_reducible refine Frame.foldl_on (get := Prod.fst) (fun u a hu => ?_) ?_
    | with_reducible refine Frame.foldl_on (get := Prod.snd) (fun u a hu => ?_) ?_
    | exact has_PC_REC_ST_LOGICAL rfl hm
    | exact has_PC_REC_ST_STATE rfl hm
    | (intro x; refine (?_ : Frame M s0 x → _) ?_; (intro hx; clear_value x))
    | (intro x; clear_value x)
    | intro _
    | split
    | lift_lets -underBinder

theorem moveChannels_frame {M : Nat} {s0 s : State} {x1} (h : Frame M s0 s)
    (hm : sub 0xc00 M = true) : Frame M s0 (moveChannels s x1) := by
  unfold moveChannels
  repeat' first
    | exact sub_trans rfl hm
    | with_reducible assumption
    | with_reducible apply rekeyStack_frame
    | with_reducible apply Frame.ite
    | (intro x; refine (?_ : Frame M s0 x → _) ?_; (intro hx; clear_value x))
    | (intro x; clear_value x)
    | intro _
    | split
    | lift_lets -underBinder

theorem settleBuckets_frame {M : Nat} {s0 s : State} (h : Frame M s0 s)
    (hm : sub 0x800 M = true) : Frame M s0 (settleBuckets s) := by
  unfold settleBuckets
  repeat' first
    | exact sub_trans rfl hm
    | with_reducible assumption
    | with_reducible apply State.setBucket_frame
    | with_reducible refine Frame.foldl (fun u a hu => ?_) ?_
    | with_reducible refine Frame.foldl_on (get := Prod.fst) (fun u a hu => ?_) ?_
    | with_reducible refine Frame.foldl_on (get := Prod.snd) (fun u a hu => ?_) ?_
    | (intro x; refine (?_ : Frame M s0 x → _) ?_; (intro hx; clear_value x))
    | (intro x; clear_value x)
    | intro _
    | lift_lets -underBinder

theorem settleMap_frame {M : Nat} {s0 s : State} {x1} (h : Frame M s0 s)
    (hm : sub 0x8000000000000060000000000000000000000000000000000000000000000000000000000 M = true) : Frame M s0 (settleMap s x1) := by
  unfold settleMap
  repeat' first
    | exact sub_trans rfl hm
    | with_reducible assumption
    | with_reducible apply State.wr_frame
    | with_reducible apply Frame.ite
    | with_reducible refine Frame.foldl (fun u a hu => ?_) ?_
    | with_reducible refine Frame.foldl_on (get := Prod.fst) (fun u a hu => ?_) ?_
    | with_reducible refine Frame.foldl_on (get := Prod.snd) (fun u a hu => ?_) ?_
    | exact has_KITE_STATE_STATE rfl hm
    | exact has_TRN_BALLAST_SLOT rfl hm
    | exact has_TRN_BALLAST_USED rfl hm
    | (intro x; refine (?_ : Frame M s0 x → _) ?_; (intro hx; clear_value x))
    | (intro x; clear_value x)
    | intro _
    | split
    | lift_lets -underBinder

theorem latchSlot_frame {M : Nat} {s0 s : State} {x1 x2 x3} (h : Frame M s0 s)
    (hm : sub 0x1000 M = true) : Frame M s0 (latchSlot s x1 x2 x3) := by
  unfold latchSlot
  repeat' first
    | exact sub_trans rfl hm
    | with_reducible assumption
    | with_reducible apply State.setKite_frame
    | with_reducible apply Frame.ite
    | (intro x; refine (?_ : Frame M s0 x → _) ?_; (intro hx; clear_value x))
    | (intro x; clear_value x)
    | intro _
    | split
    | lift_lets -underBinder

theorem missSlot_frame {M : Nat} {s0 s : State} {x1} (h : Frame M s0 s)
    (hm : sub 0x9000 M = true) : Frame M s0 (missSlot s x1) := by
  unfold missSlot
  repeat' first
    | exact sub_trans rfl hm
    | with_reducible assumption
    | with_reducible apply State.setKite_frame
    | with_reducible apply State.setGov_frame
    | (intro x; refine (?_ : Frame M s0 x → _) ?_; (intro hx; clear_value x))
    | (intro x; clear_value x)
    | intro _
    | split
    | lift_lets -underBinder

theorem touchRule_frame {M : Nat} {s0 s : State} {x1} (h : Frame M s0 s)
    (hm : sub 0x8000 M = true) : Frame M s0 (touchRule s x1) := by
  unfold touchRule
  repeat' first
    | exact sub_trans rfl hm
    | with_reducible assumption
    | with_reducible apply Frame.ite
    | split
    | with_reducible apply Frame.with_gov

theorem landHeld_frame {M : Nat} {s0 s : State} {x1} (h : Frame M s0 s)
    (hm : sub 0x800000000000000000000000000000000000000000009018 M = true) : Frame M s0 (landHeld s x1) := by
  unfold landHeld
  repeat' first
    | exact fun h => Table.rising_put h
    | exact fun h => Table.rising_erase h
    | exact fun h => Table.rising_filter h
    | exact fun h => Table.rising_putAll h
    | exact fun _ => rfl
    | exact fun h => Table.rising_putAll (Table.rising_filter h)
    | exact sub_trans rfl hm
    | with_reducible assumption
    | with_reducible apply touchRule_frame
    | with_reducible apply clearShadowOk_frame
    | with_reducible apply windowStore_frame
    | with_reducible apply Frame.ite
    | split
    | with_reducible apply Frame.with_held
    | with_reducible apply Frame.with_shadow

theorem skewSlots_frame {M : Nat} {s0 s : State} {x1} (h : Frame M s0 s)
    (hm : sub 0x207fe000007c00000003800000000000000814fbc04013c780000000000000010180000000000000000002a093380 M = true) : Frame M s0 (skewSlots s x1) := by
  unfold skewSlots
  repeat' first
    | exact sub_trans rfl hm
    | with_reducible assumption
    | with_reducible apply partitionSkew_frame
    | with_reducible apply modeSkew_frame
    | with_reducible apply kiteFaultLatch_frame
    | with_reducible apply Frame.ite
    | with_reducible refine Frame.foldl (fun u a hu => ?_) ?_
    | with_reducible refine Frame.foldl_on (get := Prod.fst) (fun u a hu => ?_) ?_
    | with_reducible refine Frame.foldl_on (get := Prod.snd) (fun u a hu => ?_) ?_
    | (intro x; refine (?_ : Frame M s0 x → _) ?_; (intro hx; clear_value x))
    | (intro x; clear_value x)
    | intro _
    | split
    | lift_lets -underBinder

theorem latchWords_frame {M : Nat} {s0 s : State} {x1} (h : Frame M s0 s)
    (hm : sub 0x2000000000000000000000000000000000000000000000c M = true) : Frame M s0 (latchWords s x1) := by
  unfold latchWords
  repeat' first
    | exact fun h => Table.rising_put h
    | exact fun h => Table.rising_erase h
    | exact fun h => Table.rising_filter h
    | exact fun h => Table.rising_putAll h
    | exact fun _ => rfl
    | exact fun h => Table.rising_putAll (Table.rising_filter h)
    | exact sub_trans rfl hm
    | with_reducible assumption
    | with_reducible apply State.bump_frame
    | exact has_SWAP_SKIPS_COUNT rfl hm
    | exact has_any rfl hm
    | (intro x; refine (?_ : Frame M s0 x → _) ?_; (intro hx; clear_value x))
    | (intro x; clear_value x)
    | intro _
    | lift_lets -underBinder
    | with_reducible apply Frame.with_regs_shadow

theorem latchUnits_frame {M : Nat} {s0 s : State} {x1 x2 x3} (h : Frame M s0 s)
    (hm : sub 0x100000000000000000b000 M = true) : Frame M s0 (latchUnits s x1 x2 x3) := by
  unfold latchUnits
  repeat' first
    | exact sub_trans rfl hm
    | with_reducible assumption
    | with_reducible apply State.wr_frame
    | with_reducible apply latchSlot_frame
    | with_reducible apply missSlot_frame
    | with_reducible refine Frame.foldl (fun u a hu => ?_) ?_
    | with_reducible refine Frame.foldl_on (get := Prod.fst) (fun u a hu => ?_) ?_
    | with_reducible refine Frame.foldl_on (get := Prod.snd) (fun u a hu => ?_) ?_
    | exact has_PT_EPOCH_EPOCH rfl hm
    | (intro x; refine (?_ : Frame M s0 x → _) ?_; (intro hx; clear_value x))
    | (intro x; clear_value x)
    | intro _
    | lift_lets -underBinder
    | with_reducible apply Frame.with_step

theorem settleDetours_frame {M : Nat} {s0 s : State} (h : Frame M s0 s)
    (hm : sub 0x10000 M = true) : Frame M s0 (settleDetours s) := by
  unfold settleDetours
  repeat' first
    | exact sub_trans rfl hm
    | with_reducible assumption
    | (intro x; refine (?_ : Frame M s0 x → _) ?_; (intro hx; clear_value x))
    | (intro x; clear_value x)
    | intro _
    | lift_lets -underBinder
    | with_reducible apply Frame.with_fab

theorem traceCommit_frame {M : Nat} {s0 s : State} {x1} (h : Frame M s0 s)
    (hm : sub 0x814fbc040000000000000000000000000000000000000000000a010380 M = true) : Frame M s0 (traceCommit s x1) := by
  unfold traceCommit
  repeat' first
    | exact sub_trans rfl hm
    | with_reducible assumption
    | with_reducible apply traceAll_frame

theorem commitBanks_frame {M : Nat} {s0 s : State} {x1 x2} (h : Frame M s0 s)
    (hm : sub 0x1cc68ff80672f000000f8040000facca00000000003fcf814fbc040fc2000000c000000000101c0000300000400000002a19bf9c M = true) : Frame M s0 (commitBanks s x1 x2) := by
  unfold commitBanks
  repeat' first
    | exact sub_trans rfl hm
    | with_reducible assumption
    | with_reducible apply moveChannels_frame
    | with_reducible apply settleBuckets_frame
    | with_reducible apply latchUnits_frame
    | with_reducible apply latchWords_frame
    | with_reducible apply settleMap_frame
    | with_reducible apply showChannels_frame
    | with_reducible apply commitGovernor_frame
    | with_reducible apply checkGroups_frame
    | with_reducible apply showModel_frame
    | with_reducible apply showRetiring_frame
    | with_reducible apply commitPlanned_frame
    | with_reducible apply settleDetours_frame
    | with_reducible apply landHeld_frame
    | with_reducible apply traceCommit_frame
    | with_reducible refine Frame.foldl (fun u a hu => ?_) ?_
    | with_reducible refine Frame.foldl_on (get := Prod.fst) (fun u a hu => ?_) ?_
    | with_reducible refine Frame.foldl_on (get := Prod.snd) (fun u a hu => ?_) ?_
    | (intro x; refine (?_ : Frame M s0 x → _) ?_; (intro hx; clear_value x))
    | (intro x; clear_value x)
    | intro _
    | lift_lets -underBinder
    | with_reducible apply Frame.with_held

theorem localCommit_frame {M : Nat} {s0 s : State} {x1} (h : Frame M s0 s)
    (hm : sub 0x1cc68ff80672f7fe000f87c0000facfa00000000003fcf814fbc040ffe780000c000000000101c0000300000403000002a19bf9e M = true) : Frame M s0 (localCommit s x1) := by
  unfold localCommit
  repeat' first
    | exact sub_trans rfl hm
    | with_reducible assumption
    | with_reducible apply State.passTo_frame
    | with_reducible apply skewSlots_frame
    | with_reducible apply commitBanks_frame
    | (intro x; refine (?_ : Frame M s0 x → _) ?_; (intro hx; clear_value x))
    | (intro x; clear_value x)
    | intro _
    | lift_lets -underBinder

theorem execCommitTick_frame {M : Nat} {s0 s : State} (h : Frame M s0 s)
    (hm : sub 0x1cc68ff80672f7fe000f87c0000facfa00000000003fcf814fbc040ffe780000c000000000101c0000300000403000002a19bf9e M = true) : FrameR M s0 (execCommitTick s) := by
  unfold execCommitTick
  repeat' first
    | exact sub_trans rfl hm
    | with_reducible assumption
    | with_reducible apply FrameR.of_next
    | with_reducible apply FrameR.whenOk
    | with_reducible apply localCommit_frame
    | split
    | with_reducible apply Frame.with_step

end Sys2Proof.Machine
end

