-- ==== Sys2Proof/Laws/FrameRegRules.lean ====
section
/-! SUPPORT. Frame lemmas for the functions of Machine/RegRules.lean. -/

set_option Elab.async false
set_option linter.all false

namespace Sys2Proof.Machine

theorem keepTuned_frame {M : Nat} {s0 s : State} {x1} (h : Frame M s0 s)
    (hm : sub 0x800 M = true) : Frame M s0 (keepTuned s x1) := by
  unfold keepTuned
  repeat' first
    | exact fun _ k => k
    | exact fun _ _ => SpoolOk.nil
    | exact sub_trans rfl hm
    | with_reducible assumption
    | with_reducible apply Frame.ite
    | split
    | with_reducible apply Frame.with_mem

theorem storeField_frame {M : Nat} {s0 s : State} {x1 x2} (h : Frame M s0 s)
    (hm : sub 0x281c M = true) : Frame M s0 (storeField s x1 x2) := by
  unfold storeField
  repeat' first
    | exact sub_trans rfl hm
    | with_reducible assumption
    | with_reducible apply shadowStore_frame
    | with_reducible apply gateOpens_frame
    | with_reducible apply State.wr_frame
    | with_reducible apply keepTuned_frame
    | with_reducible apply Frame.ite
    | exact has_any rfl hm
    | split

theorem plainWrite_frame {M : Nat} {s0 s : State} {x1 x2 x3} (h : Frame M s0 s)
    (hm : sub 0x814fbc040000000000000000000000000000000000000000000a012b9c M = true) : Frame M s0 (plainWrite s x1 x2 x3).2 := by
  unfold plainWrite
  repeat' first
    | exact sub_trans rfl hm
    | with_reducible assumption
    | with_reducible apply refuse_frame
    | with_reducible apply storeField_frame
    | with_reducible apply Frame.ite
    | with_reducible refine Frame.foldl (fun u a hu => ?_) ?_
    | with_reducible refine Frame.foldl_on (get := Prod.fst) (fun u a hu => ?_) ?_
    | with_reducible refine Frame.foldl_on (get := Prod.snd) (fun u a hu => ?_) ?_
    | (intro x; refine (?_ : Frame M s0 x → _) ?_; (intro hx; clear_value x))
    | (intro x; clear_value x)
    | intro _
    | split
    | lift_lets -underBinder
    | dsimp only

theorem plainWrite_frame_eq {M : Nat} {s0 s : State} {x1 x2 x3} {a0 t} (e : plainWrite s x1 x2 x3 = (a0, t)) (h : Frame M s0 s)
    (hm : sub 0x814fbc040000000000000000000000000000000000000000000a012b9c M = true) : Frame M s0 t := by
  have := plainWrite_frame (x1 := x1) (x2 := x2) (x3 := x3) h hm
  rwa [e] at this

end Sys2Proof.Machine
end

