-- ==== Sys2Proof/Laws/FrameSteps.lean ====
section
/-! SUPPORT. Frame lemmas for the functions of Machine/Steps.lean. -/

set_option Elab.async false
set_option linter.all false

namespace Sys2Proof.Machine

theorem restartKite_frame {M : Nat} {s0 s : State} {x1} (h : Frame M s0 s)
    (hm : sub 0x100000004000108000000000000000000000000000000000000000000000000000000000000000000001000 M = true) : Frame M s0 (restartKite s x1) := by
  unfold restartKite
  repeat' first
    | exact sub_trans rfl hm
    | with_reducible assumption
    | with_reducible apply State.setKite_frame
    | with_reducible apply showStream_frame
    | with_reducible apply State.wr_frame
    | exact has_ARR_FLAGS_STEP_FLAGS rfl hm
    | exact has_VEC_FLAGS_STEP_FLAGS rfl hm
    | (intro x; refine (?_ : Frame M s0 x → _) ?_; (intro hx; clear_value x))
    | (intro x; clear_value x)
    | intro _
    | lift_lets -underBinder

theorem restartTrain_frame {M : Nat} {s0 s : State} {x1} (h : Frame M s0 s)
    (hm : sub 0x20080300000000000000000000000000000000000000000000000000000000025000 M = true) : Frame M s0 (restartTrain s x1) := by
  unfold restartTrain
  repeat' first
    | exact sub_trans rfl hm
    | with_reducible assumption
    | with_reducible apply deliverSignals_frame
    | with_reducible apply State.setSeq_frame
    | with_reducible apply restartWinch_frame

theorem restartLine_frame {M : Nat} {s0 s : State} {x1} (h : Frame M s0 s)
    (hm : sub 0x10000 M = true) : Frame M s0 (restartLine s x1) := by
  unfold restartLine
  repeat' first
    | exact sub_trans rfl hm
    | with_reducible assumption
    | with_reducible apply State.setLine_frame

theorem dropTransfers_frame {M : Nat} {s0 s : State} (h : Frame M s0 s)
    (hm : sub 0x10000 M = true) : Frame M s0 (dropTransfers s) := by
  unfold dropTransfers
  repeat' first
    | exact sub_trans rfl hm
    | with_reducible assumption
    | with_reducible apply Frame.ite
    | (intro x; refine (?_ : Frame M s0 x → _) ?_; (intro hx; clear_value x))
    | (intro x; clear_value x)
    | intro _
    | split
    | lift_lets -underBinder
    | with_reducible apply Frame.with_fab

theorem clearGates_frame {M : Nat} {s0 s : State} {x1} (h : Frame M s0 s)
    (hm : sub 0x1000 M = true) : Frame M s0 (clearGates s x1) := by
  unfold clearGates
  repeat' first
    | exact sub_trans rfl hm
    | with_reducible assumption
    | with_reducible apply State.setKite_frame
    | (intro x; refine (?_ : Frame M s0 x → _) ?_; (intro hx; clear_value x))
    | (intro x; clear_value x)
    | intro _
    | lift_lets -underBinder

theorem beginAttempt_frame {M : Nat} {s0 s : State} {x1} (h : Frame M s0 s)
    (hm : sub 0x100000004000108000020080300000000000000000000000000000000000007000000000000000000037000 M = true) : Frame M s0 (beginAttempt s x1) := by
  unfold beginAttempt
  repeat' first
    | exact sub_trans rfl hm
    | with_reducible assumption
    | with_reducible apply clearGates_frame
    | with_reducible apply dropTransfers_frame
    | with_reducible apply restartKite_frame
    | with_reducible apply restartLine_frame
    | with_reducible apply restartTrain_frame
    | with_reducible apply State.wr_frame
    | with_reducible apply State.wr64_frame
    | with_reducible refine Frame.foldl (fun u a hu => ?_) ?_
    | with_reducible refine Frame.foldl_on (get := Prod.fst) (fun u a hu => ?_) ?_
    | with_reducible refine Frame.foldl_on (get := Prod.snd) (fun u a hu => ?_) ?_
    | exact has_STEP_STAT_STATE rfl hm
    | exact has_STEP_TICK_HI rfl hm
    | exact has_STEP_TICK_LO rfl hm
    | (intro x; refine (?_ : Frame M s0 x → _) ?_; (intro hx; clear_value x))
    | (intro x; clear_value x)
    | intro _
    | lift_lets -underBinder
    | with_reducible apply Frame.with_step

theorem nextStep_frame {M : Nat} {s0 s : State} {x1 x2} (h : Frame M s0 s)
    (hm : sub 0xf00000000000000000002000 M = true) : Frame M s0 (nextStep s x1 x2) := by
  unfold nextStep
  repeat' first
    | exact sub_trans rfl hm
    | with_reducible assumption
    | with_reducible apply State.wr_frame
    | with_reducible apply State.wr64_frame
    | exact has_STEP_EPOCH_EPOCH rfl hm
    | exact has_STEP_NUM_HI rfl hm
    | exact has_STEP_NUM_LO rfl hm
    | exact has_STEP_STAT_REPLAY_RUN rfl hm
    | (intro x; refine (?_ : Frame M s0 x → _) ?_; (intro hx; clear_value x))
    | (intro x; clear_value x)
    | intro _
    | lift_lets -underBinder
    | with_reducible apply Frame.with_step

theorem traceStep_frame {M : Nat} {s0 s : State} {x1 x2} (h : Frame M s0 s)
    (hm : sub 0x814fbc040000000000000000000000000000000000000000000a010380 M = true) : Frame M s0 (traceStep s x1 x2) := by
  unfold traceStep
  repeat' first
    | exact sub_trans rfl hm
    | with_reducible assumption
    | with_reducible apply traceAll_frame

theorem stopHeld_frame {M : Nat} {s0 s : State} (h : Frame M s0 s)
    (hm : sub 0x814fbc040000000000000000000010000000000000000000002a012380 M = true) : Frame M s0 (stopHeld s) := by
  unfold stopHeld
  repeat' first
    | exact sub_trans rfl hm
    | with_reducible assumption
    | with_reducible apply stopStep_frame
    | with_reducible apply Frame.ite
    | split
    | with_reducible apply Frame.with_step

theorem stepTick_frame {M : Nat} {s0 s : State} {x1 x2} (h : Frame M s0 s)
    (hm : sub 0x1cc68ff80672f7fe010f87c0040fadfa00002008033fcf814fbc040ffe780000c000000000101c07f0300000403000002a1bff9e M = true) : Frame M s0 (stepTick s x1 x2) := by
  unfold stepTick
  repeat' first
    | exact sub_trans rfl hm
    | with_reducible assumption
    | with_reducible apply State.passTo_frame
    | with_reducible apply beginAttempt_frame
    | with_reducible apply startGates_frame
    | with_reducible apply nextStep_frame
    | with_reducible apply commitBanks_frame
    | with_reducible apply stopHeld_frame
    | with_reducible apply skewSlots_frame
    | with_reducible apply traceStep_frame
    | (intro x; refine (?_ : Frame M s0 x → _) ?_; (intro hx; clear_value x))
    | (intro x; clear_value x)
    | intro _
    | lift_lets -underBinder

theorem execStepTick_frame {M : Nat} {s0 s : State} (h : Frame M s0 s)
    (hm : sub 0x1cc68ff80672f7fe010f87c0040fadfa00002008033fcf814fbc040ffe780000c000000000101c07f0300000403000002a1bff9e M = true) : FrameR M s0 (execStepTick s) := by
  unfold execStepTick
  repeat' first
    | exact sub_trans rfl hm
    | with_reducible assumption
    | with_reducible apply FrameR.of_next
    | with_reducible apply FrameR.whenOk
    | with_reducible apply stepTick_frame
    | split

theorem sendReady_frame {M : Nat} {s0 s : State} (h : Frame M s0 s)
    (hm : sub 0x814fbc040000000000000000000010000100000000000000002a012380 M = true) : Frame M s0 (sendReady s) := by
  unfold sendReady
  repeat' first
    | exact sub_trans rfl hm
    | with_reducible assumption
    | with_reducible apply State.wr_frame
    | with_reducible apply traceAll_frame
    | with_reducible apply State.sendUp_frame
    | exact has_STEP_STAT_STATE rfl hm
    | (intro x; refine (?_ : Frame M s0 x → _) ?_; (intro hx; clear_value x))
    | (intro x; clear_value x)
    | intro _
    | lift_lets -underBinder
    | with_reducible apply Frame.with_step

theorem governorLate_frame {M : Nat} {s0 s : State} (h : Frame M s0 s)
    (hm : sub 0x814fbc040000000000000000000000000000000000000000000a018380 M = true) : Frame M s0 (governorLate s) := by
  unfold governorLate
  repeat' first
    | exact sub_trans rfl hm
    | with_reducible assumption
    | with_reducible apply raise_frame
    | with_reducible apply State.setGov_frame
    | with_reducible apply Frame.ite
    | split

theorem execDeviceReady_frame {M : Nat} {s0 s : State} (h : Frame M s0 s)
    (hm : sub 0x814fbc040000000000000000000010000100000000000000002a01a380 M = true) : FrameR M s0 (execDeviceReady s) := by
  unfold execDeviceReady
  repeat' first
    | exact sub_trans rfl hm
    | with_reducible assumption
    | with_reducible apply FrameR.of_next
    | with_reducible apply FrameR.whenOk
    | with_reducible apply FrameR.ite
    | with_reducible apply sendReady_frame
    | with_reducible apply governorLate_frame
    | with_reducible apply Frame.ite
    | split

theorem broadcast_frame {M : Nat} {s0 s : State} {x1} (h : Frame M s0 s)
    (hm : sub 0x814fbc040000000000000000000010000000000000000000002a010380 M = true) : Frame M s0 (broadcast s x1) := by
  unfold broadcast
  repeat' first
    | exact sub_trans rfl hm
    | with_reducible assumption
    | with_reducible apply State.sendTree_frame
    | with_reducible apply State.send_frame

theorem setRootDone_frame {M : Nat} {s0 s : State} (h : Frame M s0 s)
    (hm : sub 0x2000 M = true) : Frame M s0 (setRootDone s) := by
  unfold setRootDone
  repeat' first
    | exact sub_trans rfl hm
    | with_reducible assumption
    | with_reducible apply Frame.with_step

theorem rootAbort_frame {M : Nat} {s0 s : State} {x1} (h : Frame M s0 s)
    (hm : sub 0x814fbc040000000000c00000000010180000000000000000002a112380 M = true) : Frame M s0 (rootAbort s x1) := by
  unfold rootAbort
  repeat' first
    | exact sub_trans rfl hm
    | with_reducible assumption
    | with_reducible apply setRootDone_frame
    | with_reducible apply haulTrigger_frame
    | with_reducible apply rungRecorded_frame
    | with_reducible apply raise_frame
    | with_reducible apply broadcast_frame
    | with_reducible apply Frame.ite
    | (intro x; refine (?_ : Frame M s0 x → _) ?_; (intro hx; clear_value x))
    | (intro x; clear_value x)
    | intro _
    | split
    | lift_lets -underBinder

theorem rootDiverges_frame {M : Nat} {s0 s : State} (h : Frame M s0 s)
    (hm : sub 0x814fbc040000000000c00000000010180000000000000000002a112380 M = true) : Frame M s0 (rootDiverges s) := by
  unfold rootDiverges
  repeat' first
    | exact sub_trans rfl hm
    | with_reducible assumption
    | with_reducible apply haulTrigger_frame
    | with_reducible apply broadcast_frame
    | with_reducible apply setRootDone_frame
    | with_reducible apply rootAbort_frame
    | with_reducible apply Frame.ite
    | (intro x; refine (?_ : Frame M s0 x → _) ?_; (intro hx; clear_value x))
    | (intro x; clear_value x)
    | intro _
    | split
    | lift_lets -underBinder
    | with_reducible apply Frame.with_step

theorem rootSeal_frame {M : Nat} {s0 s : State} (h : Frame M s0 s)
    (hm : sub 0x814fbc040000000000000000000010000000000000000000002a012380 M = true) : Frame M s0 (rootSeal s) := by
  unfold rootSeal
  repeat' first
    | exact sub_trans rfl hm
    | with_reducible assumption
    | with_reducible apply setRootDone_frame
    | with_reducible apply broadcast_frame
    | with_reducible apply Frame.ite
    | (intro x; refine (?_ : Frame M s0 x → _) ?_; (intro hx; clear_value x))
    | (intro x; clear_value x)
    | intro _
    | split
    | lift_lets -underBinder
    | with_reducible apply Frame.with_step

theorem rootDecide_frame {M : Nat} {s0 s : State} (h : Frame M s0 s)
    (hm : sub 0x814fbc040000000000c00000000010180000000000000000002a112380 M = true) : Frame M s0 (rootDecide s) := by
  unfold rootDecide
  repeat' first
    | exact sub_trans rfl hm
    | with_reducible assumption
    | with_reducible apply rootDiverges_frame
    | with_reducible apply rootSeal_frame
    | with_reducible apply Frame.ite
    | split

theorem takeReady_frame {M : Nat} {s0 s : State} {x1 x2} (h : Frame M s0 s)
    (hm : sub 0x814fbc040000000000c00000000010180000000000000000002a112380 M = true) : Frame M s0 (takeReady s x1 x2) := by
  unfold takeReady
  repeat' first
    | exact sub_trans rfl hm
    | with_reducible assumption
    | with_reducible apply rootDecide_frame
    | (intro x; refine (?_ : Frame M s0 x → _) ?_; (intro hx; clear_value x))
    | (intro x; clear_value x)
    | intro _
    | lift_lets -underBinder
    | with_reducible apply Frame.with_step

theorem execReady_frame {M : Nat} {s0 s : State} {x0 x1 x2 x3} (h : Frame M s0 s)
    (hm : sub 0x814fbc040000000000c00000000010180000000000000000002a112380 M = true) : FrameR M s0 (execReady x0 x1 x2 x3 s) := by
  unfold execReady
  repeat' first
    | exact sub_trans rfl hm
    | with_reducible assumption
    | with_reducible apply FrameR.of_next
    | with_reducible apply FrameR.whenOk
    | with_reducible apply passUp_frame
    | with_reducible apply takeReady_frame

theorem execEndReq_frame {M : Nat} {s0 s : State} {x0} (h : Frame M s0 s)
    (hm : sub 0x814fbc040000000000000000000010000000000000000000002a012380 M = true) : FrameR M s0 (execEndReq x0 s) := by
  unfold execEndReq
  repeat' first
    | exact sub_trans rfl hm
    | with_reducible assumption
    | with_reducible apply FrameR.of_next
    | with_reducible apply FrameR.whenOk
    | with_reducible apply passUp_frame
    | with_reducible apply Frame.with_step

theorem execStop_frame {M : Nat} {s0 s : State} {x0 x1} (h : Frame M s0 s)
    (hm : sub 0x814fbc040000000000c00000000010180000000000000000002a112380 M = true) : FrameR M s0 (execStop x0 x1 s) := by
  unfold execStop
  repeat' first
    | exact sub_trans rfl hm
    | with_reducible assumption
    | with_reducible apply FrameR.of_next
    | with_reducible apply FrameR.whenOk
    | with_reducible apply passUp_frame
    | with_reducible apply rootAbort_frame

theorem rootReplayCheck_frame {M : Nat} {s0 s : State} (h : Frame M s0 s)
    (hm : sub 0x814fbc040000000000000000000010000000000000000000002a012380 M = true) : Frame M s0 (rootReplayCheck s) := by
  unfold rootReplayCheck
  repeat' first
    | exact sub_trans rfl hm
    | with_reducible assumption
    | with_reducible apply broadcast_frame
    | with_reducible apply Frame.ite
    | split
    | with_reducible apply Frame.with_step

theorem rootTakeReplay_frame {M : Nat} {s0 s : State} {x1} (h : Frame M s0 s)
    (hm : sub 0x814fbc040000000000000000000010000000000000000000002a012380 M = true) : Frame M s0 (rootTakeReplay s x1) := by
  unfold rootTakeReplay
  repeat' first
    | exact sub_trans rfl hm
    | with_reducible assumption
    | with_reducible apply rootReplayCheck_frame
    | (intro x; refine (?_ : Frame M s0 x → _) ?_; (intro hx; clear_value x))
    | (intro x; clear_value x)
    | intro _
    | lift_lets -underBinder
    | with_reducible apply Frame.with_step

theorem ownReplayReady_frame {M : Nat} {s0 s : State} (h : Frame M s0 s)
    (hm : sub 0x814fbc040000000000000000000010000000000000000000002a012380 M = true) : Frame M s0 (ownReplayReady s) := by
  unfold ownReplayReady
  repeat' first
    | exact sub_trans rfl hm
    | with_reducible assumption
    | with_reducible apply rootTakeReplay_frame
    | with_reducible apply State.sendUp_frame
    | with_reducible apply Frame.ite
    | (intro x; refine (?_ : Frame M s0 x → _) ?_; (intro hx; clear_value x))
    | (intro x; clear_value x)
    | intro _
    | split
    | lift_lets -underBinder
    | with_reducible apply Frame.with_step

theorem execReplayReady_frame {M : Nat} {s0 s : State} {x0 x1} (h : Frame M s0 s)
    (hm : sub 0x814fbc040000000000000000000010000000000000000000002a012380 M = true) : FrameR M s0 (execReplayReady x0 x1 s) := by
  unfold execReplayReady
  repeat' first
    | exact sub_trans rfl hm
    | with_reducible assumption
    | with_reducible apply FrameR.of_next
    | with_reducible apply FrameR.whenOk
    | with_reducible apply FrameR.ite
    | with_reducible apply passUp_frame
    | with_reducible apply ownReplayReady_frame
    | with_reducible apply rootTakeReplay_frame
    | with_reducible apply Frame.ite
    | split

theorem sealUnits_frame {M : Nat} {s0 s : State} {x1 x2 x3} (h : Frame M s0 s)
    (hm : sub 0x10c0000000000000000000000415f87800000814fbc040000000000000000000000000000000000800000000a07f380 M = true) : Frame M s0 (sealUnits s x1 x2 x3) := by
  unfold sealUnits
  repeat' first
    | exact sub_trans rfl hm
    | with_reducible assumption
    | with_reducible apply sealWinches_frame
    | with_reducible apply sealEnvelope_frame
    | with_reducible apply sealBurner_frame
    | with_reducible apply sealGovernor_frame
    | with_reducible refine Frame.foldl (fun u a hu => ?_) ?_
    | with_reducible refine Frame.foldl_on (get := Prod.fst) (fun u a hu => ?_) ?_
    | with_reducible refine Frame.foldl_on (get := Prod.snd) (fun u a hu => ?_) ?_
    | (intro x; refine (?_ : Frame M s0 x → _) ?_; (intro hx; clear_value x))
    | (intro x; clear_value x)
    | intro _
    | lift_lets -underBinder
    | with_reducible apply Frame.with_step

theorem armNext_frame {M : Nat} {s0 s : State} {x1 x2} (h : Frame M s0 s)
    (hm : sub 0x2000 M = true) : Frame M s0 (armNext s x1 x2) := by
  unfold armNext
  repeat' first
    | exact sub_trans rfl hm
    | with_reducible assumption
    | (intro x; refine (?_ : Frame M s0 x → _) ?_; (intro hx; clear_value x))
    | (intro x; clear_value x)
    | intro _
    | lift_lets -underBinder
    | with_reducible apply Frame.with_step

theorem sealStep_frame {M : Nat} {s0 s : State} {x1 x2 x3} (h : Frame M s0 s)
    (hm : sub 0x10c0000000000000000000000415f87800000814fbc040000000000000000000000003900000000a00000000a07f380 M = true) : Frame M s0 (sealStep s x1 x2 x3) := by
  unfold sealStep
  repeat' first
    | exact sub_trans rfl hm
    | with_reducible assumption
    | with_reducible apply raise_frame
    | with_reducible apply State.bump_frame
    | with_reducible apply State.wr64_frame
    | with_reducible apply traceAll_frame
    | with_reducible apply State.wr_frame
    | with_reducible apply sealUnits_frame
    | with_reducible apply closePlan_frame
    | with_reducible apply armNext_frame
    | with_reducible apply Frame.ite
    | exact has_GOV_STAT_DIVERGED rfl hm
    | exact has_SEALS_COUNT rfl hm
    | exact has_SEAL_TICK_HI rfl hm
    | exact has_SEAL_TICK_LO rfl hm
    | (intro x; refine (?_ : Frame M s0 x → _) ?_; (intro hx; clear_value x))
    | (intro x; clear_value x)
    | intro _
    | split
    | lift_lets -underBinder
    | with_reducible apply Frame.with_step

theorem execSealReceived_frame {M : Nat} {s0 s : State} {x0 x1 x2} (h : Frame M s0 s)
    (hm : sub 0x10c0000000000000000000000415f87800000814fbc040000000000000000000010003900000000a00000002a07f380 M = true) : FrameR M s0 (execSealReceived x0 x1 x2 s) := by
  unfold execSealReceived
  repeat' first
    | exact sub_trans rfl hm
    | with_reducible assumption
    | with_reducible apply FrameR.of_next
    | with_reducible apply FrameR.whenOk
    | with_reducible apply passDown_frame
    | with_reducible apply sealStep_frame
    | (intro x; refine (?_ : Frame M s0 x → _) ?_; (intro hx; clear_value x))
    | (intro x; clear_value x)
    | intro _
    | lift_lets -underBinder

theorem abortKite_frame {M : Nat} {s0 s : State} {x1} (h : Frame M s0 s)
    (hm : sub 0x4c68ff800000000000000000000110800000000003fc0814fbc040000000000c000000000101c0000000000000000006a113f80 M = true) : Frame M s0 (abortKite s x1) := by
  unfold abortKite
  repeat' first
    | exact sub_trans rfl hm
    | with_reducible assumption
    | with_reducible apply State.setKite_frame
    | with_reducible apply remapLost_frame
    | with_reducible apply showStream_frame
    | (intro x; refine (?_ : Frame M s0 x → _) ?_; (intro hx; clear_value x))
    | (intro x; clear_value x)
    | intro _
    | lift_lets -underBinder

theorem abortLine_frame {M : Nat} {s0 s : State} {x1} (h : Frame M s0 s)
    (hm : sub 0x10000 M = true) : Frame M s0 (abortLine s x1) := by
  unfold abortLine
  repeat' first
    | exact sub_trans rfl hm
    | with_reducible assumption
    | with_reducible apply State.setLine_frame
    | (intro x; refine (?_ : Frame M s0 x → _) ?_; (intro hx; clear_value x))
    | (intro x; clear_value x)
    | intro _
    | lift_lets -underBinder

theorem abortStep_frame {M : Nat} {s0 s : State} {x1} (h : Frame M s0 s)
    (hm : sub 0x4c68ff80670f000000f8000000fbdc800002008033fc0814fbc040000000000c000000000105d0100200000e00000006a13ff88 M = true) : Frame M s0 (abortStep s x1) := by
  unfold abortStep
  repeat' first
    | exact sub_trans rfl hm
    | with_reducible assumption
    | with_reducible apply traceAll_frame
    | with_reducible apply raise_frame
    | with_reducible apply abortKite_frame
    | with_reducible apply State.wr_frame
    | with_reducible apply State.setSeq_frame
    | with_reducible apply restartWinch_frame
    | with_reducible apply abortLine_frame
    | with_reducible apply askRestores_frame
    | with_reducible apply repairKite_frame
    | with_reducible apply repeatEval_frame
    | with_reducible apply Frame.ite
    | with_reducible refine Frame.foldl (fun u a hu => ?_) ?_
    | with_reducible refine Frame.foldl_on (get := Prod.fst) (fun u a hu => ?_) ?_
    | with_reducible refine Frame.foldl_on (get := Prod.snd) (fun u a hu => ?_) ?_
    | exact has_STEP_STAT_STATE rfl hm
    | (intro x; refine (?_ : Frame M s0 x → _) ?_; (intro hx; clear_value x))
    | (intro x; clear_value x)
    | intro _
    | split
    | lift_lets -underBinder
    | with_reducible apply Frame.with_step

theorem execAbortReceived_frame {M : Nat} {s0 s : State} {x0 x1} (h : Frame M s0 s)
    (hm : sub 0x4c68ff80670f000000f8000000fbdc800002008033fc0814fbc040000000000c000000000105d0100200000e00000006a13ff88 M = true) : FrameR M s0 (execAbortReceived x0 x1 s) := by
  unfold execAbortReceived
  repeat' first
    | exact sub_trans rfl hm
    | with_reducible assumption
    | with_reducible apply FrameR.of_next
    | with_reducible apply FrameR.whenOk
    | with_reducible apply passDown_frame
    | with_reducible apply abortStep_frame
    | (intro x; refine (?_ : Frame M s0 x → _) ?_; (intro hx; clear_value x))
    | (intro x; clear_value x)
    | intro _
    | lift_lets -underBinder

theorem execReplay_frame {M : Nat} {s0 s : State} {x0 x1} (h : Frame M s0 s)
    (hm : sub 0x814fbc040000000000000000000010000000000000000000002a012380 M = true) : FrameR M s0 (execReplay x0 x1 s) := by
  unfold execReplay
  repeat' first
    | exact sub_trans rfl hm
    | with_reducible assumption
    | with_reducible apply FrameR.of_next
    | with_reducible apply FrameR.whenOk
    | with_reducible apply passDown_frame
    | (intro x; refine (?_ : Frame M s0 x → _) ?_; (intro hx; clear_value x))
    | (intro x; clear_value x)
    | intro _
    | lift_lets -underBinder
    | with_reducible apply Frame.with_step

theorem recordFault_frame {M : Nat} {s0 s : State} {x1} (h : Frame M s0 s)
    (hm : sub 0x100000 M = true) : Frame M s0 (recordFault s x1) := by
  unfold recordFault
  repeat' first
    | exact sub_trans rfl hm
    | with_reducible assumption
    | with_reducible apply Frame.ite
    | (intro x; refine (?_ : Frame M s0 x → _) ?_; (intro hx; clear_value x))
    | (intro x; clear_value x)
    | intro _
    | split
    | lift_lets -underBinder
    | with_reducible apply Frame.with_recov

theorem clearKite_frame {M : Nat} {s0 s : State} {x1} (h : Frame M s0 s)
    (hm : sub 0x8007fe000007800000003800000000000000814fbc040000000000000000000000000000000000000000000a111380 M = true) : Frame M s0 (clearKite s x1) := by
  unfold clearKite
  repeat' first
    | exact sub_trans rfl hm
    | with_reducible assumption
    | with_reducible apply recordFault_frame
    | with_reducible apply endStop_frame
    | with_reducible apply faultClear_frame
    | with_reducible apply discardEnvelope_frame
    | with_reducible apply State.wr_frame
    | with_reducible apply Frame.ite
    | exact has_KITE_STATE_STATE rfl hm
    | (intro x; refine (?_ : Frame M s0 x → _) ?_; (intro hx; clear_value x))
    | (intro x; clear_value x)
    | intro _
    | split
    | lift_lets -underBinder

theorem replayTick_frame {M : Nat} {s0 s : State} {x1} (h : Frame M s0 s)
    (hm : sub 0x8007fe0100078004000138000d2008030003814fbc040200000000c00000000000004780000000003000000a1b738a M = true) : Frame M s0 (replayTick s x1) := by
  unfold replayTick
  repeat' first
    | exact sub_trans rfl hm
    | with_reducible assumption
    | with_reducible apply State.passTo_frame
    | with_reducible apply repairSwaps_frame
    | with_reducible apply clearKite_frame
    | with_reducible apply releaseHeld_frame
    | with_reducible apply State.wr_frame
    | with_reducible apply State.bump_frame
    | with_reducible apply traceStep_frame
    | with_reducible apply beginAttempt_frame
    | with_reducible refine Frame.foldl (fun u a hu => ?_) ?_
    | with_reducible refine Frame.foldl_on (get := Prod.fst) (fun u a hu => ?_) ?_
    | with_reducible refine Frame.foldl_on (get := Prod.snd) (fun u a hu => ?_) ?_
    | exact has_REPLAYS_COUNT rfl hm
    | exact has_STEP_STAT_REPLAY_RUN rfl hm
    | (intro x; refine (?_ : Frame M s0 x → _) ?_; (intro hx; clear_value x))
    | (intro x; clear_value x)
    | intro _
    | lift_lets -underBinder
    | with_reducible apply Frame.with_step

theorem execReplayTick_frame {M : Nat} {s0 s : State} (h : Frame M s0 s)
    (hm : sub 0x8007fe0100078004000138000d2008030003814fbc040200000000c00000000000004780000000003000000a1b738a M = true) : FrameR M s0 (execReplayTick s) := by
  unfold execReplayTick
  repeat' first
    | exact sub_trans rfl hm
    | with_reducible assumption
    | with_reducible apply FrameR.of_next
    | with_reducible apply FrameR.whenOk
    | with_reducible apply replayTick_frame
    | split

theorem timeOut_frame {M : Nat} {s0 s : State} (h : Frame M s0 s)
    (hm : sub 0x814fbc040000000000c00000000000180000000000003000000a110382 M = true) : Frame M s0 (timeOut s) := by
  unfold timeOut
  repeat' first
    | exact sub_trans rfl hm
    | with_reducible assumption
    | with_reducible apply haulTrigger_frame
    | with_reducible apply rungRecorded_frame
    | with_reducible apply raise_frame
    | with_reducible apply State.passTo_frame
    | (intro x; refine (?_ : Frame M s0 x → _) ?_; (intro hx; clear_value x))
    | (intro x; clear_value x)
    | intro _
    | lift_lets -underBinder

theorem execStepTimeout_frame {M : Nat} {s0 s : State} (h : Frame M s0 s)
    (hm : sub 0x814fbc040000000000c00000000000180000000000003000000a110382 M = true) : FrameR M s0 (execStepTimeout s) := by
  unfold execStepTimeout
  repeat' first
    | exact sub_trans rfl hm
    | with_reducible assumption
    | with_reducible apply FrameR.of_next
    | with_reducible apply FrameR.whenOk
    | with_reducible apply timeOut_frame

theorem rootHandover_frame {M : Nat} {s0 s : State} {x1 x2} (h : Frame M s0 s)
    (hm : sub 0x814fbc040000000000c00000000010180000000000000000002a112380 M = true) : Frame M s0 (rootHandover s x1 x2) := by
  unfold rootHandover
  repeat' first
    | exact sub_trans rfl hm
    | with_reducible assumption
    | with_reducible apply rootAbort_frame
    | with_reducible apply rootReplayCheck_frame
    | with_reducible apply Frame.ite
    | (intro x; refine (?_ : Frame M s0 x → _) ?_; (intro hx; clear_value x))
    | (intro x; clear_value x)
    | intro _
    | split
    | lift_lets -underBinder
    | with_reducible apply Frame.with_step

theorem cover_frame {M : Nat} {s0 s : State} {x1} (h : Frame M s0 s)
    (hm : sub 0x814fbc040000000000c00000000000420000000000000000000a110380 M = true) : Frame M s0 (cover s x1) := by
  unfold cover
  repeat' first
    | exact sub_trans rfl hm
    | with_reducible assumption
    | with_reducible apply svcAppend_frame
    | with_reducible apply raise_frame
    | with_reducible apply State.bump_frame
    | with_reducible apply State.wr_frame
    | exact has_HANDOVERS_COUNT rfl hm
    | exact has_RECOV_STAT_COVERING rfl hm

theorem takeHandover_frame {M : Nat} {s0 s : State} {x1 x2 x3} (h : Frame M s0 s)
    (hm : sub 0x814fbc040000000000c000000000105a0000000000000000002a112380 M = true) : Frame M s0 (takeHandover s x1 x2 x3) := by
  unfold takeHandover
  repeat' first
    | exact sub_trans rfl hm
    | with_reducible assumption
    | with_reducible apply rootHandover_frame
    | with_reducible apply cover_frame
    | with_reducible apply Frame.ite
    | (intro x; refine (?_ : Frame M s0 x → _) ?_; (intro hx; clear_value x))
    | (intro x; clear_value x)
    | intro _
    | split
    | lift_lets -underBinder

theorem execHandover_frame {M : Nat} {s0 s : State} {x0 x1 x2} (h : Frame M s0 s)
    (hm : sub 0x814fbc040000000000c000000000105a0000000000000000002a112380 M = true) : FrameR M s0 (execHandover x0 x1 x2 s) := by
  unfold execHandover
  repeat' first
    | exact sub_trans rfl hm
    | with_reducible assumption
    | with_reducible apply FrameR.of_next
    | with_reducible apply FrameR.whenOk
    | with_reducible apply takeHandover_frame

end Sys2Proof.Machine
end

