-- ==== Sys2Proof/Laws/FrameFabricCtl.lean ====
section
/-! SUPPORT. Frame lemmas for the functions of Machine/FabricCtl.lean. -/

set_option Elab.async false
set_option linter.all false

namespace Sys2Proof.Machine

theorem transferWritten_frame {M : Nat} {s0 s : State} {x1 x2} (h : Frame M s0 s)
    (hm : sub 0xd0068320000814fbc040000000000000000000010380000000000000000002a133380 M = true) : Frame M s0 (transferWritten s x1 x2) := by
  unfold transferWritten
  repeat' first
    | exact sub_trans rfl hm
    | with_reducible assumption
    | with_reducible apply tell_frame
    | with_reducible apply signalLogical_frame
    | with_reducible apply restoreLanded_frame
    | with_reducible apply segmentArrives_frame
    | with_reducible apply Frame.ite
    | (intro x; refine (?_ : Frame M s0 x → _) ?_; (intro hx; clear_value x))
    | (intro x; clear_value x)
    | intro _
    | split
    | lift_lets -underBinder
    | with_reducible apply Frame.with_fab

theorem execTransferWritten_frame {M : Nat} {s0 s : State} {x0 x1 x2 x3} (h : Frame M s0 s)
    (hm : sub 0xd0068320000814fbc040000000000000000000010380000000000000000002a133380 M = true) : FrameR M s0 (execTransferWritten x0 x1 x2 x3 s) := by
  unfold execTransferWritten
  repeat' first
    | exact sub_trans rfl hm
    | with_reducible assumption
    | with_reducible apply FrameR.of_next
    | with_reducible apply FrameR.whenOk
    | with_reducible apply transferWritten_frame
    | split

theorem traceDone_frame {M : Nat} {s0 s : State} {x1 x2} (h : Frame M s0 s)
    (hm : sub 0x814fbc040000000000000000000000000000000000000000000a010380 M = true) : Frame M s0 (traceDone s x1 x2) := by
  unfold traceDone
  repeat' first
    | exact sub_trans rfl hm
    | with_reducible assumption
    | with_reducible apply traceAdd_frame
    | with_reducible apply Frame.ite
    | split

theorem sendDone_frame {M : Nat} {s0 s : State} {x1 x2} (h : Frame M s0 s)
    (hm : sub 0x814fbc040000000000000000000000000000000000000000000a030380 M = true) : Frame M s0 (sendDone s x1 x2) := by
  unfold sendDone
  repeat' first
    | exact sub_trans rfl hm
    | with_reducible assumption
    | with_reducible apply traceDone_frame
    | with_reducible apply State.setLine_frame
    | with_reducible apply State.setWinch_frame
    | (intro x; refine (?_ : Frame M s0 x → _) ?_; (intro hx; clear_value x))
    | (intro x; clear_value x)
    | intro _
    | split
    | lift_lets -underBinder
    | with_reducible apply Frame.with_fab

theorem execDone_frame {M : Nat} {s0 s : State} {x0 x1 x2 x3} (h : Frame M s0 s)
    (hm : sub 0x814fbc040000000000000000000000000000000000000000000a030380 M = true) : FrameR M s0 (execDone x0 x1 x2 x3 s) := by
  unfold execDone
  repeat' first
    | exact sub_trans rfl hm
    | with_reducible assumption
    | with_reducible apply FrameR.of_next
    | with_reducible apply FrameR.whenOk
    | with_reducible apply sendDone_frame
    | split

theorem sendNacked_frame {M : Nat} {s0 s : State} {x1} (h : Frame M s0 s)
    (hm : sub 0x4000ff8000000000000000000000000001d000832b7c0814fbc0c0000000020c000000003f01c0000000000000000002a132f80 M = true) : Frame M s0 (sendNacked s x1) := by
  unfold sendNacked
  repeat' first
    | exact sub_trans rfl hm
    | with_reducible assumption
    | with_reducible apply replayFault_frame
    | with_reducible apply putFlits_frame
    | with_reducible apply Frame.ite
    | (intro x; refine (?_ : Frame M s0 x → _) ?_; (intro hx; clear_value x))
    | (intro x; clear_value x)
    | intro _
    | split
    | lift_lets -underBinder
    | with_reducible apply Frame.with_fab

theorem execNack_frame {M : Nat} {s0 s : State} {x0 x1 x2} (h : Frame M s0 s)
    (hm : sub 0x4000ff8000000000000000000000000001d000832b7c0814fbc0c0000000020c000000003f01c0000000000000000002a132f80 M = true) : FrameR M s0 (execNack x0 x1 x2 s) := by
  unfold execNack
  repeat' first
    | exact sub_trans rfl hm
    | with_reducible assumption
    | with_reducible apply FrameR.of_next
    | with_reducible apply FrameR.whenOk
    | with_reducible apply restoreFails_frame
    | with_reducible apply sendNacked_frame
    | split

theorem sendIdent_frame {M : Nat} {s0 s : State} {x1} (h : Frame M s0 s)
    (hm : sub 0x10000 M = true) : Frame M s0 (sendIdent s x1) := by
  unfold sendIdent
  repeat' first
    | exact sub_trans rfl hm
    | with_reducible assumption
    | with_reducible apply queueLink_frame
    | with_reducible apply Frame.ite
    | split

theorem identAll_frame {M : Nat} {s0 s : State} (h : Frame M s0 s)
    (hm : sub 0x10000 M = true) : Frame M s0 (identAll s) := by
  unfold identAll
  repeat' first
    | exact sub_trans rfl hm
    | with_reducible assumption
    | with_reducible apply sendIdent_frame
    | with_reducible refine Frame.foldl (fun u a hu => ?_) ?_
    | with_reducible refine Frame.foldl_on (get := Prod.fst) (fun u a hu => ?_) ?_
    | with_reducible refine Frame.foldl_on (get := Prod.snd) (fun u a hu => ?_) ?_
    | intro _

theorem showParent_frame {M : Nat} {s0 s : State} (h : Frame M s0 s)
    (hm : sub 0x100000000000000000000000000000000000000000000000000000000000000000000000000000000000000000000000000000000 M = true) : Frame M s0 (showParent s) := by
  unfold showParent
  repeat' first
    | exact sub_trans rfl hm
    | with_reducible assumption
    | with_reducible apply State.wr_frame
    | with_reducible refine Frame.foldl (fun u a hu => ?_) ?_
    | with_reducible refine Frame.foldl_on (get := Prod.fst) (fun u a hu => ?_) ?_
    | with_reducible refine Frame.foldl_on (get := Prod.snd) (fun u a hu => ?_) ?_
    | exact has_LINE_STAT_TB_PARENT rfl hm
    | (intro x; refine (?_ : Frame M s0 x → _) ?_; (intro hx; clear_value x))
    | (intro x; clear_value x)
    | intro _
    | lift_lets -underBinder

theorem chooseParent_frame {M : Nat} {s0 s : State} (h : Frame M s0 s)
    (hm : sub 0x100000000000000000000000000000000000000000000000000004000000000000000000000000000000000000000000000010000 M = true) : Frame M s0 (chooseParent s) := by
  unfold chooseParent
  repeat' first
    | exact sub_trans rfl hm
    | with_reducible assumption
    | with_reducible apply showParent_frame
    | with_reducible apply State.wr_frame
    | with_reducible apply Frame.ite
    | exact has_TB_SYNC_MASTER rfl hm
    | (intro x; refine (?_ : Frame M s0 x → _) ?_; (intro hx; clear_value x))
    | (intro x; clear_value x)
    | intro _
    | split
    | lift_lets -underBinder
    | with_reducible apply Frame.with_fab

theorem lockTime_frame {M : Nat} {s0 s : State} (h : Frame M s0 s)
    (hm : sub 0x814fbc140000000000000000000000000000000000000000000a010380 M = true) : Frame M s0 (lockTime s) := by
  unfold lockTime
  repeat' first
    | exact sub_trans rfl hm
    | with_reducible assumption
    | with_reducible apply raise_frame
    | with_reducible apply State.wr_frame
    | with_reducible apply Frame.ite
    | exact has_TB_SYNC_LOCKED rfl hm
    | split

theorem unlockTime_frame {M : Nat} {s0 s : State} (h : Frame M s0 s)
    (hm : sub 0x814fbc140000000000000000000010180000000000000000002a012380 M = true) : Frame M s0 (unlockTime s) := by
  unfold unlockTime
  repeat' first
    | exact sub_trans rfl hm
    | with_reducible assumption
    | with_reducible apply replayFault_frame
    | with_reducible apply raise_frame
    | with_reducible apply State.wr_frame
    | with_reducible apply Frame.ite
    | exact has_TB_SYNC_LOCKED rfl hm
    | split

theorem settleMaster_frame {M : Nat} {s0 s : State} (h : Frame M s0 s)
    (hm : sub 0x10000000000000000000000000000000000000000000000814fbc540000000000000000000000000000000000000000000a010380 M = true) : Frame M s0 (settleMaster s) := by
  unfold settleMaster
  repeat' first
    | exact sub_trans rfl hm
    | with_reducible assumption
    | with_reducible apply chooseParent_frame
    | with_reducible apply lockTime_frame
    | with_reducible apply Frame.ite
    | (intro x; refine (?_ : Frame M s0 x → _) ?_; (intro hx; clear_value x))
    | (intro x; clear_value x)
    | intro _
    | split
    | lift_lets -underBinder

theorem takeIdent_frame {M : Nat} {s0 s : State} {x1 x2} (h : Frame M s0 s)
    (hm : sub 0x10000000000000000000000000000000000000000000000814fbc440000000000000000007c00000000000000000000000a010380 M = true) : Frame M s0 (takeIdent s x1 x2) := by
  unfold takeIdent
  repeat' first
    | exact sub_trans rfl hm
    | with_reducible assumption
    | with_reducible apply State.wr_frame
    | with_reducible apply State.setLine_frame
    | with_reducible apply chooseParent_frame
    | with_reducible apply sendIdent_frame
    | with_reducible apply raise_frame
    | with_reducible apply Frame.ite
    | exact has_NBR_PEER_ASSIGNED rfl hm
    | exact has_NBR_PEER_DEV rfl hm
    | exact has_NBR_PEER_DIST rfl hm
    | exact has_NBR_PEER_LINE rfl hm
    | exact has_NBR_VALID rfl hm
    | (intro x; refine (?_ : Frame M s0 x → _) ?_; (intro hx; clear_value x))
    | (intro x; clear_value x)
    | intro _
    | split
    | lift_lets -underBinder

theorem execIdent_frame {M : Nat} {s0 s : State} {x0 x1} (h : Frame M s0 s)
    (hm : sub 0x10000000000000000000000000000000000000000000000814fbc440000000000000000007c00000000000000000000000a010380 M = true) : FrameR M s0 (execIdent x0 x1 s) := by
  unfold execIdent
  repeat' first
    | exact sub_trans rfl hm
    | with_reducible assumption
    | with_reducible apply FrameR.of_next
    | with_reducible apply FrameR.whenOk
    | with_reducible apply takeIdent_frame

theorem countLines_frame {M : Nat} {s0 s : State} (h : Frame M s0 s)
    (hm : sub 0x40000000000000000000000000000 M = true) : Frame M s0 (countLines s) := by
  unfold countLines
  repeat' first
    | exact sub_trans rfl hm
    | with_reducible assumption
    | with_reducible apply State.wr_frame
    | exact has_FAB_STAT_LINES_UP rfl hm

theorem rerouteLine_frame {M : Nat} {s0 s : State} {x1} (h : Frame M s0 s)
    (hm : sub 0x4000ff8000000000000000000000000001d000832b7c0814fbc0c0000000020c000000003f01c0000000000000000002a132f80 M = true) : Frame M s0 (rerouteLine s x1) := by
  unfold rerouteLine
  repeat' first
    | exact sub_trans rfl hm
    | with_reducible assumption
    | with_reducible apply forward_frame
    | with_reducible apply putFlits_frame
    | with_reducible apply replayFault_frame
    | with_reducible apply Frame.ite
    | with_reducible refine Frame.foldl (fun u a hu => ?_) ?_
    | with_reducible refine Frame.foldl_on (get := Prod.fst) (fun u a hu => ?_) ?_
    | with_reducible refine Frame.foldl_on (get := Prod.snd) (fun u a hu => ?_) ?_
    | (intro x; refine (?_ : Frame M s0 x → _) ?_; (intro hx; clear_value x))
    | (intro x; clear_value x)
    | intro _
    | split
    | lift_lets -underBinder

theorem noteDetours_frame {M : Nat} {s0 s : State} {x1} (h : Frame M s0 s)
    (hm : sub 0x10000 M = true) : Frame M s0 (noteDetours s x1) := by
  unfold noteDetours
  repeat' first
    | exact sub_trans rfl hm
    | with_reducible assumption
    | with_reducible apply Frame.ite
    | (intro x; refine (?_ : Frame M s0 x → _) ?_; (intro hx; clear_value x))
    | (intro x; clear_value x)
    | intro _
    | split
    | lift_lets -underBinder
    | with_reducible apply Frame.with_fab

theorem dropNeighbour_frame {M : Nat} {s0 s : State} {x1} (h : Frame M s0 s)
    (hm : sub 0x814fbc040000000000000000000400000000000000000000000a010380 M = true) : Frame M s0 (dropNeighbour s x1) := by
  unfold dropNeighbour
  repeat' first
    | exact sub_trans rfl hm
    | with_reducible assumption
    | with_reducible apply raise_frame
    | with_reducible apply State.wr_frame
    | with_reducible apply Frame.ite
    | exact has_NBR_VALID rfl hm
    | split

theorem takeLineDown_frame {M : Nat} {s0 s : State} {x1 x2 x3} (h : Frame M s0 s)
    (hm : sub 0x80184000ff8000000000000000000000000001d000832b7c0814fbc4c0000000020c000000007f41c0000000000000000002a132f80 M = true) : Frame M s0 (takeLineDown s x1 x2 x3) := by
  unfold takeLineDown
  repeat' first
    | exact sub_trans rfl hm
    | with_reducible assumption
    | with_reducible apply sendBytes_frame
    | with_reducible apply State.bump_frame
    | with_reducible apply State.wr_frame
    | with_reducible apply State.setLine_frame
    | with_reducible apply raise_frame
    | with_reducible apply countLines_frame
    | with_reducible apply dropNeighbour_frame
    | with_reducible apply rerouteLine_frame
    | with_reducible apply noteDetours_frame
    | with_reducible apply chooseParent_frame
    | with_reducible apply closeCapture_frame
    | with_reducible apply Frame.ite
    | exact has_LINE_DOWNS_COUNT rfl hm
    | exact has_LINE_STAT_STATE rfl hm
    | (intro x; refine (?_ : Frame M s0 x → _) ?_; (intro hx; clear_value x))
    | (intro x; clear_value x)
    | intro _
    | split
    | lift_lets -underBinder

theorem lineGoesDown_frame {M : Nat} {s0 s : State} {x1 x2} (h : Frame M s0 s)
    (hm : sub 0x80184000ff8000000000000000000000000001d000832b7c0814fbc4c0000000020c000000007f41c0000000000000000002a132f80 M = true) : Frame M s0 (lineGoesDown s x1 x2) := by
  unfold lineGoesDown
  repeat' first
    | exact sub_trans rfl hm
    | with_reducible assumption
    | with_reducible apply takeLineDown_frame
    | with_reducible apply Frame.ite
    | split

theorem execLineDown_frame {M : Nat} {s0 s : State} {x0} (h : Frame M s0 s)
    (hm : sub 0x80184000ff8000000000000000000000000001d000832b7c0814fbc4c0000000020c000000007f41c0000000000000000002a132f80 M = true) : FrameR M s0 (execLineDown x0 s) := by
  unfold execLineDown
  repeat' first
    | exact sub_trans rfl hm
    | with_reducible assumption
    | with_reducible apply FrameR.of_next
    | with_reducible apply FrameR.whenOk
    | with_reducible apply lineGoesDown_frame

theorem execDownNotice_frame {M : Nat} {s0 s : State} {x0} (h : Frame M s0 s)
    (hm : sub 0x80184000ff8000000000000000000000000001d000832b7c0814fbc4c0000000020c000000007f41c0000000000000000002a132f80 M = true) : FrameR M s0 (execDownNotice x0 s) := by
  unfold execDownNotice
  repeat' first
    | exact sub_trans rfl hm
    | with_reducible assumption
    | with_reducible apply FrameR.of_next
    | with_reducible apply FrameR.whenOk
    | with_reducible apply lineGoesDown_frame

theorem execAlignmentLoss_frame {M : Nat} {s0 s : State} {x0} (h : Frame M s0 s)
    (hm : sub 0x80184000ff8000000000000000000000000001d000832b7c0814fbc4c0000000020c000000007f41c0000000000000000002a132f80 M = true) : FrameR M s0 (execAlignmentLoss x0 s) := by
  unfold execAlignmentLoss
  repeat' first
    | exact sub_trans rfl hm
    | with_reducible assumption
    | with_reducible apply FrameR.of_next
    | with_reducible apply FrameR.whenOk
    | with_reducible apply lineGoesDown_frame

theorem retryAgain_frame {M : Nat} {s0 s : State} {x1} (h : Frame M s0 s)
    (hm : sub 0x80184000ff8000000000000000000000000001d000832b7c0814fbc4c0000000020c000000007f41c0000000000000000002a132f80 M = true) : Frame M s0 (retryAgain s x1) := by
  unfold retryAgain
  repeat' first
    | exact sub_trans rfl hm
    | with_reducible assumption
    | with_reducible apply lineGoesDown_frame
    | with_reducible apply askRetry_frame
    | with_reducible apply Frame.ite
    | split

theorem execRetryTimeout_frame {M : Nat} {s0 s : State} {x0} (h : Frame M s0 s)
    (hm : sub 0x80184000ff8000000000000000000000000001d000832b7c0814fbc4c0000000020c000000007f41c0000000000000000002a132f80 M = true) : FrameR M s0 (execRetryTimeout x0 s) := by
  unfold execRetryTimeout
  repeat' first
    | exact sub_trans rfl hm
    | with_reducible assumption
    | with_reducible apply FrameR.of_next
    | with_reducible apply FrameR.whenOk
    | with_reducible apply retryAgain_frame

theorem finishDiscovery_frame {M : Nat} {s0 s : State} (h : Frame M s0 s)
    (hm : sub 0x814fbc040000000000000000000002000000000000000000000a010380 M = true) : Frame M s0 (finishDiscovery s) := by
  unfold finishDiscovery
  repeat' first
    | exact sub_trans rfl hm
    | with_reducible assumption
    | with_reducible apply raise_frame
    | with_reducible apply State.wr_frame
    | with_reducible apply Frame.ite
    | exact has_FAB_STAT_DISC_STATE rfl hm
    | (intro x; refine (?_ : Frame M s0 x → _) ?_; (intro hx; clear_value x))
    | (intro x; clear_value x)
    | intro _
    | split
    | lift_lets -underBinder

theorem trainLine_frame {M : Nat} {s0 s : State} {x1} (h : Frame M s0 s)
    (hm : sub 0x80000000000000000000000000000000000000000000000000000000000000000000000000000000000000000000000000000000 M = true) : Frame M s0 (trainLine s x1) := by
  unfold trainLine
  repeat' first
    | exact sub_trans rfl hm
    | with_reducible assumption
    | with_reducible apply State.wr_frame
    | with_reducible apply Frame.ite
    | exact has_LINE_STAT_STATE rfl hm
    | split

theorem discover_frame {M : Nat} {s0 s : State} (h : Frame M s0 s)
    (hm : sub 0x8000000000000000000000000000000000000000000000814fbc040000000000000000000002000000000000000000000a010380 M = true) : Frame M s0 (discover s) := by
  unfold discover
  repeat' first
    | exact sub_trans rfl hm
    | with_reducible assumption
    | with_reducible apply State.wr_frame
    | with_reducible apply trainLine_frame
    | with_reducible apply State.setLine_frame
    | with_reducible apply finishDiscovery_frame
    | with_reducible apply Frame.ite
    | with_reducible refine Frame.foldl (fun u a hu => ?_) ?_
    | with_reducible refine Frame.foldl_on (get := Prod.fst) (fun u a hu => ?_) ?_
    | with_reducible refine Frame.foldl_on (get := Prod.snd) (fun u a hu => ?_) ?_
    | exact has_FAB_STAT_DISC_STATE rfl hm
    | exact has_LINE_STAT_STATE rfl hm
    | (intro x; refine (?_ : Frame M s0 x → _) ?_; (intro hx; clear_value x))
    | (intro x; clear_value x)
    | intro _
    | split
    | lift_lets -underBinder

theorem execDiscovery_frame {M : Nat} {s0 s : State} (h : Frame M s0 s)
    (hm : sub 0x8000000000000000000000000000000000000000000000814fbc040000000000000000000002000000000000000000000a010380 M = true) : FrameR M s0 (execDiscovery s) := by
  unfold execDiscovery
  repeat' first
    | exact sub_trans rfl hm
    | with_reducible assumption
    | with_reducible apply FrameR.of_next
    | with_reducible apply FrameR.whenOk
    | with_reducible apply discover_frame

theorem execDiscover_frame {M : Nat} {s0 s : State} (h : Frame M s0 s)
    (hm : sub 0x8000000000000000000000000000000000000000000000814fbc040000000000000000000002000000000000000000000a010380 M = true) : FrameR M s0 (execDiscover s) := by
  unfold execDiscover
  repeat' first
    | exact sub_trans rfl hm
    | with_reducible assumption
    | with_reducible apply FrameR.of_next
    | with_reducible apply FrameR.whenOk
    | with_reducible apply discover_frame

theorem discTimesOut_frame {M : Nat} {s0 s : State} {x1} (h : Frame M s0 s)
    (hm : sub 0x8000000000000000000000000000000000000000000000814fbc040000000000000000000002000000000000000000000a010380 M = true) : Frame M s0 (discTimesOut s x1) := by
  unfold discTimesOut
  repeat' first
    | exact sub_trans rfl hm
    | with_reducible assumption
    | with_reducible apply finishDiscovery_frame
    | with_reducible apply State.wr_frame
    | with_reducible apply State.setLine_frame
    | exact has_LINE_STAT_STATE rfl hm

theorem execDiscTimeout_frame {M : Nat} {s0 s : State} {x0} (h : Frame M s0 s)
    (hm : sub 0x8000000000000000000000000000000000000000000000814fbc040000000000000000000002000000000000000000000a010380 M = true) : FrameR M s0 (execDiscTimeout x0 s) := by
  unfold execDiscTimeout
  repeat' first
    | exact sub_trans rfl hm
    | with_reducible assumption
    | with_reducible apply FrameR.of_next
    | with_reducible apply FrameR.whenOk
    | with_reducible apply discTimesOut_frame

theorem lineComesUp_frame {M : Nat} {s0 s : State} {x1} (h : Frame M s0 s)
    (hm : sub 0x8000000000000000000000000000000000000000000000814fbc040000000000000000000006000000000000000000000a010380 M = true) : Frame M s0 (lineComesUp s x1) := by
  unfold lineComesUp
  repeat' first
    | exact sub_trans rfl hm
    | with_reducible assumption
    | with_reducible apply raise_frame
    | with_reducible apply countLines_frame
    | with_reducible apply State.wr_frame
    | with_reducible apply sendIdent_frame
    | with_reducible apply noteDetours_frame
    | with_reducible apply finishDiscovery_frame
    | with_reducible apply Frame.ite
    | exact has_FAB_STAT_DISC_STATE rfl hm
    | exact has_LINE_STAT_STATE rfl hm
    | (intro x; refine (?_ : Frame M s0 x → _) ?_; (intro hx; clear_value x))
    | (intro x; clear_value x)
    | intro _
    | split
    | lift_lets -underBinder

theorem execLineUp_frame {M : Nat} {s0 s : State} {x0} (h : Frame M s0 s)
    (hm : sub 0x8000000000000000000000000000000000000000000000814fbc040000000000000000000006000000000000000000000a010380 M = true) : FrameR M s0 (execLineUp x0 s) := by
  unfold execLineUp
  repeat' first
    | exact sub_trans rfl hm
    | with_reducible assumption
    | with_reducible apply FrameR.of_next
    | with_reducible apply FrameR.whenOk
    | with_reducible apply lineComesUp_frame

theorem execLineRetrain_frame {M : Nat} {s0 s : State} {x0} (h : Frame M s0 s)
    (hm : sub 0x80000000000000000000000000000000000000000000000000000000000000000000000000000000000000000000000000000000 M = true) : FrameR M s0 (execLineRetrain x0 s) := by
  unfold execLineRetrain
  repeat' first
    | exact sub_trans rfl hm
    | with_reducible assumption
    | with_reducible apply FrameR.of_next
    | with_reducible apply FrameR.whenOk
    | with_reducible apply trainLine_frame

theorem writeDevnum_frame {M : Nat} {s0 s : State} {x1} (h : Frame M s0 s)
    (hm : sub 0x10000000000000000000000000000000000000000000000814fbc540000000000000000000000000000000000000000000a012b9c M = true) : Frame M s0 (writeDevnum s x1).2 := by
  unfold writeDevnum
  repeat' first
    | exact sub_trans rfl hm
    | with_reducible assumption
    | with_reducible apply plainWrite_frame
    | with_reducible apply plainWrite_frame_eq (by assumption)
    | with_reducible apply identAll_frame
    | with_reducible apply settleMaster_frame
    | with_reducible apply Frame.ite
    | (intro x; refine (?_ : Frame M s0 x → _) ?_; (intro hx; clear_value x))
    | intro _
    | split
    | lift_lets -underBinder
    | dsimp only

theorem writeDevnum_frame_eq {M : Nat} {s0 s : State} {x1} {a0 t} (e : writeDevnum s x1 = (a0, t)) (h : Frame M s0 s)
    (hm : sub 0x10000000000000000000000000000000000000000000000814fbc540000000000000000000000000000000000000000000a012b9c M = true) : Frame M s0 t := by
  have := writeDevnum_frame (x1 := x1) h hm
  rwa [e] at this

theorem execFabDevnum_frame {M : Nat} {s0 s : State} {x0} (h : Frame M s0 s)
    (hm : sub 0x10000000000000000000000000000000000000000000000814fbc540000000000000000000000000000000000000000000a012b9c M = true) : FrameR M s0 (execFabDevnum x0 s) := by
  unfold execFabDevnum
  repeat' first
    | exact sub_trans rfl hm
    | with_reducible assumption
    | with_reducible apply FrameR.of_next
    | with_reducible apply FrameR.whenOk
    | with_reducible apply writeDevnum_frame
    | with_reducible apply writeDevnum_frame_eq (by assumption)

theorem lineReconfigured_frame {M : Nat} {s0 s : State} {y0 x2} (h : Frame M s0 s)
    (hm : sub 0x80184000ff8000000000000000000000000001d000832b7c0814fbc4c0000000020c000000007f61c0000000000000000002a132f80 M = true) : Frame M s0 (lineReconfigured y0 s x2) := by
  unfold lineReconfigured
  repeat' first
    | exact sub_trans rfl hm
    | with_reducible assumption
    | with_reducible apply finishDiscovery_frame
    | with_reducible apply takeLineDown_frame
    | with_reducible apply State.wr_frame
    | with_reducible apply trainLine_frame
    | with_reducible apply lineGoesDown_frame
    | with_reducible apply Frame.ite
    | exact has_LINE_STAT_STATE rfl hm
    | (intro x; refine (?_ : Frame M s0 x → _) ?_; (intro hx; clear_value x))
    | (intro x; clear_value x)
    | intro _
    | split
    | lift_lets -underBinder

theorem writeLineCfg_frame {M : Nat} {s0 s : State} {x1 x2} (h : Frame M s0 s)
    (hm : sub 0x80184000ff8000000000000000000000000001d000832b7c0814fbc4c0000000020c000000007f61c0000000000000000002a132f9c M = true) : Frame M s0 (writeLineCfg s x1 x2).2 := by
  unfold writeLineCfg
  repeat' first
    | with_reducible refine alsoWhen_frame ?_ (fun u hu => ?_)
    | with_reducible apply andThen_frame
    | with_reducible apply ok_frame
    | with_reducible apply allowed_frame
    | exact sub_trans rfl hm
    | with_reducible assumption
    | with_reducible apply plainWrite_frame
    | with_reducible apply plainWrite_frame_eq (by assumption)
    | with_reducible apply lineReconfigured_frame
    | (intro x; refine (?_ : Frame M s0 x → _) ?_; (intro hx; clear_value x))
    | (intro x; clear_value x)
    | intro _
    | lift_lets -underBinder
    | dsimp only

theorem writeLineCfg_frame_eq {M : Nat} {s0 s : State} {x1 x2} {a0 t} (e : writeLineCfg s x1 x2 = (a0, t)) (h : Frame M s0 s)
    (hm : sub 0x80184000ff8000000000000000000000000001d000832b7c0814fbc4c0000000020c000000007f61c0000000000000000002a132f9c M = true) : Frame M s0 t := by
  have := writeLineCfg_frame (x1 := x1) (x2 := x2) h hm
  rwa [e] at this

theorem execLineCfg_frame {M : Nat} {s0 s : State} {x0 x1} (h : Frame M s0 s)
    (hm : sub 0x80184000ff8000000000000000000000000001d000832b7c0814fbc4c0000000020c000000007f61c0000000000000000002a132f9c M = true) : FrameR M s0 (execLineCfg x0 x1 s) := by
  unfold execLineCfg
  repeat' first
    | exact sub_trans rfl hm
    | with_reducible assumption
    | with_reducible apply FrameR.of_next
    | with_reducible apply FrameR.whenOk
    | with_reducible apply writeLineCfg_frame
    | with_reducible apply writeLineCfg_frame_eq (by assumption)

theorem routeAdvance_frame {M : Nat} {s0 s : State} (h : Frame M s0 s)
    (hm : sub 0x80000000000000000000000000000 M = true) : Frame M s0 (routeAdvance s) := by
  unfold routeAdvance
  repeat' first
    | exact sub_trans rfl hm
    | with_reducible assumption
    | with_reducible apply State.wr_frame
    | with_reducible apply Frame.ite
    | exact has_ROUTE_INDEX_INDEX rfl hm
    | split

theorem routeRead_frame {M : Nat} {s0 s : State} (h : Frame M s0 s)
    (hm : sub 0x80000000000000000000000000000 M = true) : Frame M s0 (routeRead s).2 := by
  unfold routeRead
  repeat' first
    | exact sub_trans rfl hm
    | with_reducible assumption
    | with_reducible apply routeAdvance_frame
    | with_reducible apply Frame.ite
    | (intro x; refine (?_ : Frame M s0 x → _) ?_; (intro hx; clear_value x))
    | (intro x; clear_value x)
    | intro _
    | split
    | lift_lets -underBinder
    | dsimp only

theorem routeRead_frame_eq {M : Nat} {s0 s : State} {a0 t} (e : routeRead s = (a0, t)) (h : Frame M s0 s)
    (hm : sub 0x80000000000000000000000000000 M = true) : Frame M s0 t := by
  have := routeRead_frame  h hm
  rwa [e] at this

theorem routeWrite_frame {M : Nat} {s0 s : State} {x1} (h : Frame M s0 s)
    (hm : sub 0x814fbc040000000000000000000008000000000000000000000a010398 M = true) : Frame M s0 (routeWrite s x1) := by
  unfold routeWrite
  repeat' first
    | exact sub_trans rfl hm
    | with_reducible assumption
    | with_reducible apply routeAdvance_frame
    | with_reducible apply shadowStore_frame
    | with_reducible apply refuse_frame
    | with_reducible apply Frame.ite
    | split

theorem execRouteData_frame {M : Nat} {s0 s : State} {x0} (h : Frame M s0 s)
    (hm : sub 0x814fbc040000000000000000000008000000000000000000002a010398 M = true) : FrameR M s0 (execRouteData x0 s) := by
  unfold execRouteData
  repeat' first
    | exact sub_trans rfl hm
    | with_reducible assumption
    | with_reducible apply FrameR.of_next
    | with_reducible apply FrameR.whenOk
    | with_reducible apply State.emit_frame
    | with_reducible apply routeRead_frame
    | with_reducible apply routeRead_frame_eq (by assumption)
    | with_reducible apply routeWrite_frame
    | split

theorem agreeSwap_frame {M : Nat} {s0 s : State} {x1 x2} (h : Frame M s0 s)
    (hm : sub 0x10000 M = true) : Frame M s0 (agreeSwap s x1 x2) := by
  unfold agreeSwap
  repeat' first
    | exact sub_trans rfl hm
    | with_reducible assumption
    | with_reducible apply queueLink_frame
    | with_reducible apply State.setLine_frame
    | (intro x; refine (?_ : Frame M s0 x → _) ?_; (intro hx; clear_value x))
    | (intro x; clear_value x)
    | intro _
    | lift_lets -underBinder

theorem laneIntervalEnds_frame {M : Nat} {s0 s : State} {x1} (h : Frame M s0 s)
    (hm : sub 0x4000000000000000000000000000000000000000000000000000000000000000000000000000000000000000000000000000000010000 M = true) : Frame M s0 (laneIntervalEnds s x1) := by
  unfold laneIntervalEnds
  repeat' first
    | exact sub_trans rfl hm
    | with_reducible assumption
    | with_reducible apply agreeSwap_frame
    | with_reducible apply State.wr_frame
    | with_reducible apply Frame.ite
    | with_reducible refine Frame.foldl (fun u a hu => ?_) ?_
    | with_reducible refine Frame.foldl_on (get := Prod.fst) (fun u a hu => ?_) ?_
    | with_reducible refine Frame.foldl_on (get := Prod.snd) (fun u a hu => ?_) ?_
    | exact has_LANE_REC_ST_INTERVAL_ERR rfl hm
    | (intro x; refine (?_ : Frame M s0 x → _) ?_; (intro hx; clear_value x))
    | (intro x; clear_value x)
    | intro _
    | split
    | lift_lets -underBinder

theorem execLaneIntervalEnd_frame {M : Nat} {s0 s : State} {x0} (h : Frame M s0 s)
    (hm : sub 0x4000000000000000000000000000000000000000000000000000000000000000000000000000000000000000000000000000000010000 M = true) : FrameR M s0 (execLaneIntervalEnd x0 s) := by
  unfold execLaneIntervalEnd
  repeat' first
    | exact sub_trans rfl hm
    | with_reducible assumption
    | with_reducible apply FrameR.of_next
    | with_reducible apply FrameR.whenOk
    | with_reducible apply laneIntervalEnds_frame

theorem execLaneSwap_frame {M : Nat} {s0 s : State} {x0 x1 x2} (h : Frame M s0 s)
    (hm : sub 0x10000 M = true) : FrameR M s0 (execLaneSwap x0 x1 x2 s) := by
  unfold execLaneSwap
  repeat' first
    | exact sub_trans rfl hm
    | with_reducible assumption
    | with_reducible apply FrameR.of_next
    | with_reducible apply FrameR.whenOk
    | with_reducible apply State.setLine_frame

theorem moveLane_frame {M : Nat} {s0 s : State} {x1 x2 x3} (h : Frame M s0 s)
    (hm : sub 0x280000000000000000000000000000000000000000000000000814fbc040000000000c00000000000100000000000000000000a110380 M = true) : Frame M s0 (moveLane s x1 x2 x3) := by
  unfold moveLane
  repeat' first
    | exact sub_trans rfl hm
    | with_reducible assumption
    | with_reducible apply State.setLine_frame
    | with_reducible apply State.wr_frame
    | with_reducible apply svcAppend_frame
    | with_reducible apply raise_frame
    | with_reducible apply absorbed_frame
    | exact has_LANE_BALLAST_BALLAST_USED rfl hm
    | exact has_LANE_REC_ST_STATE rfl hm
    | (intro x; refine (?_ : Frame M s0 x → _) ?_; (intro hx; clear_value x))
    | (intro x; clear_value x)
    | intro _
    | lift_lets -underBinder

theorem execLaneWindowSwap_frame {M : Nat} {s0 s : State} {x0} (h : Frame M s0 s)
    (hm : sub 0x280000000000000000000000000000000000000000000000000814fbc040000000000c00000000000100000000000003000000a110382 M = true) : FrameR M s0 (execLaneWindowSwap x0 s) := by
  unfold execLaneWindowSwap
  repeat' first
    | exact sub_trans rfl hm
    | with_reducible assumption
    | with_reducible apply FrameR.of_next
    | with_reducible apply FrameR.whenOk
    | with_reducible apply moveLane_frame
    | with_reducible apply State.passTo_frame
    | split

theorem loseLane_frame {M : Nat} {s0 s : State} {x1 x2} (h : Frame M s0 s)
    (hm : sub 0x2880184000ff8000000000000000000000000001d000832b7c0814fbc4c0000000020c000000007f41c0000000000000000002a132f80 M = true) : Frame M s0 (loseLane s x1 x2) := by
  unfold loseLane
  repeat' first
    | exact sub_trans rfl hm
    | with_reducible assumption
    | with_reducible apply queueLink_frame
    | with_reducible apply moveLane_frame
    | with_reducible apply lineGoesDown_frame
    | with_reducible apply raise_frame
    | with_reducible apply State.wr_frame
    | exact has_LANE_REC_ST_STATE rfl hm
    | split

theorem execLaneLockLoss_frame {M : Nat} {s0 s : State} {x0 x1} (h : Frame M s0 s)
    (hm : sub 0x2880184000ff8000000000000000000000000001d000832b7c0814fbc4c0000000020c000000007f41c0000000000000000002a132f80 M = true) : FrameR M s0 (execLaneLockLoss x0 x1 s) := by
  unfold execLaneLockLoss
  repeat' first
    | exact sub_trans rfl hm
    | with_reducible assumption
    | with_reducible apply FrameR.of_next
    | with_reducible apply FrameR.whenOk
    | with_reducible apply loseLane_frame

theorem laneCommand_frame {M : Nat} {s0 s : State} {x1 x2} (h : Frame M s0 s)
    (hm : sub 0x814fbc040000000000000000000000000000000000000000000a010380 M = true) : Frame M s0 (laneCommand s x1 x2).2 := by
  unfold laneCommand
  repeat' first
    | with_reducible refine alsoWhen_frame ?_ (fun u hu => ?_)
    | with_reducible apply andThen_frame
    | with_reducible apply ok_frame
    | with_reducible apply allowed_frame
    | exact sub_trans rfl hm
    | with_reducible assumption
    | with_reducible apply agreeSwap_frame
    | with_reducible apply refuse_frame
    | with_reducible apply Frame.ite
    | split
    | dsimp only

theorem laneCommand_frame_eq {M : Nat} {s0 s : State} {x1 x2} {a0 t} (e : laneCommand s x1 x2 = (a0, t)) (h : Frame M s0 s)
    (hm : sub 0x814fbc040000000000000000000000000000000000000000000a010380 M = true) : Frame M s0 t := by
  have := laneCommand_frame (x1 := x1) (x2 := x2) h hm
  rwa [e] at this

theorem execLaneSwapCmd_frame {M : Nat} {s0 s : State} {x0 x1} (h : Frame M s0 s)
    (hm : sub 0x814fbc040000000000000000000000000000000000000000000a010380 M = true) : FrameR M s0 (execLaneSwapCmd x0 x1 s) := by
  unfold execLaneSwapCmd
  repeat' first
    | exact sub_trans rfl hm
    | with_reducible assumption
    | with_reducible apply FrameR.of_next
    | with_reducible apply FrameR.whenOk
    | with_reducible apply laneCommand_frame
    | with_reducible apply laneCommand_frame_eq (by assumption)

theorem sendSync_frame {M : Nat} {s0 s : State} {x1} (h : Frame M s0 s)
    (hm : sub 0x10000 M = true) : Frame M s0 (sendSync s x1) := by
  unfold sendSync
  repeat' first
    | exact sub_trans rfl hm
    | with_reducible assumption
    | with_reducible apply queueLink_frame

theorem execTimeSyncSend_frame {M : Nat} {s0 s : State} (h : Frame M s0 s)
    (hm : sub 0x10000 M = true) : FrameR M s0 (execTimeSyncSend s) := by
  unfold execTimeSyncSend
  repeat' first
    | exact sub_trans rfl hm
    | with_reducible assumption
    | with_reducible apply FrameR.of_next
    | with_reducible apply FrameR.whenOk
    | with_reducible apply sendSync_frame
    | split

theorem loadTimers_frame {M : Nat} {s0 s : State} {x1} (h : Frame M s0 s)
    (hm : sub 0x14fbc040000000000000000e000000000000000000030000002010382 M = true) : Frame M s0 (loadTimers s x1) := by
  unfold loadTimers
  repeat' first
    | exact sub_trans rfl hm
    | with_reducible assumption
    | with_reducible apply fireTimer_frame
    | with_reducible apply Frame.ite
    | with_reducible refine Frame.foldl (fun u a hu => ?_) ?_
    | with_reducible refine Frame.foldl_on (get := Prod.fst) (fun u a hu => ?_) ?_
    | with_reducible refine Frame.foldl_on (get := Prod.snd) (fun u a hu => ?_) ?_
    | (intro x; refine (?_ : Frame M s0 x → _) ?_; (intro hx; clear_value x))
    | (intro x; clear_value x)
    | intro _
    | split
    | lift_lets -underBinder

theorem loadCounter_frame {M : Nat} {s0 s : State} {x1} (h : Frame M s0 s)
    (hm : sub 0x14fbc240000000000000000e000000000000000000030000002010382 M = true) : Frame M s0 (loadCounter s x1) := by
  unfold loadCounter
  repeat' first
    | exact sub_trans rfl hm
    | with_reducible assumption
    | with_reducible apply loadTimers_frame
    | with_reducible apply State.wr_frame
    | exact has_TB_SYNC_LOADED rfl hm
    | (intro x; refine (?_ : Frame M s0 x → _) ?_; (intro hx; clear_value x))
    | (intro x; clear_value x)
    | intro _
    | lift_lets -underBinder
    | with_reducible apply Frame.with_tick

theorem syncReply_frame {M : Nat} {s0 s : State} {x1 x2 x3 x4 x5} (h : Frame M s0 s)
    (hm : sub 0x30000000000000000000000000000000000000000000000814fbcf40000000000000000e00010180000000000003000002a012382 M = true) : Frame M s0 (syncReply s x1 x2 x3 x4 x5) := by
  unfold syncReply
  repeat' first
    | exact sub_trans rfl hm
    | with_reducible assumption
    | with_reducible apply State.wr_frame
    | with_reducible apply lockTime_frame
    | with_reducible apply loadCounter_frame
    | with_reducible apply chooseParent_frame
    | with_reducible apply unlockTime_frame
    | with_reducible apply Frame.ite
    | exact has_LINE_RTT_RTT rfl hm
    | exact has_TB_SYNC_OFFSET rfl hm
    | (intro x; refine (?_ : Frame M s0 x → _) ?_; (intro hx; clear_value x))
    | (intro x; clear_value x)
    | intro _
    | split
    | lift_lets -underBinder

theorem takeDistance_frame {M : Nat} {s0 s : State} {x1 x2} (h : Frame M s0 s)
    (hm : sub 0x10000000000000000000000000000000000000000000000814fbc440000000000000000004000000000000000000000000a010380 M = true) : Frame M s0 (takeDistance s x1 x2) := by
  unfold takeDistance
  repeat' first
    | exact sub_trans rfl hm
    | with_reducible assumption
    | with_reducible apply chooseParent_frame
    | with_reducible apply raise_frame
    | with_reducible apply State.wr_frame
    | with_reducible apply Frame.ite
    | exact has_NBR_PEER_DIST rfl hm
    | split

theorem answerSync_frame {M : Nat} {s0 s : State} {x1 x2 x3} (h : Frame M s0 s)
    (hm : sub 0x10000 M = true) : Frame M s0 (answerSync s x1 x2 x3) := by
  unfold answerSync
  repeat' first
    | exact sub_trans rfl hm
    | with_reducible assumption
    | with_reducible apply queueLink_frame

theorem takeSync_frame {M : Nat} {s0 s : State} {x1 x2} (h : Frame M s0 s)
    (hm : sub 0x30000000000000000000000000000000000000000000000814fbcf40000000000000000e04010180000000000003000002a012382 M = true) : Frame M s0 (takeSync s x1 x2) := by
  unfold takeSync
  repeat' first
    | exact sub_trans rfl hm
    | with_reducible assumption
    | with_reducible apply answerSync_frame
    | with_reducible apply takeDistance_frame
    | with_reducible apply syncReply_frame
    | with_reducible apply Frame.ite
    | (intro x; refine (?_ : Frame M s0 x → _) ?_; (intro hx; clear_value x))
    | (intro x; clear_value x)
    | intro _
    | split
    | lift_lets -underBinder

theorem execTimeSync_frame {M : Nat} {s0 s : State} {x0 x1} (h : Frame M s0 s)
    (hm : sub 0x30000000000000000000000000000000000000000000000814fbcf40000000000000000e04010180000000000003000002a012382 M = true) : FrameR M s0 (execTimeSync x0 x1 s) := by
  unfold execTimeSync
  repeat' first
    | exact sub_trans rfl hm
    | with_reducible assumption
    | with_reducible apply FrameR.of_next
    | with_reducible apply FrameR.whenOk
    | with_reducible apply takeSync_frame

theorem syncLost_frame {M : Nat} {s0 s : State} (h : Frame M s0 s)
    (hm : sub 0x10000000000000000000000000000000000000000000000814fbc540000000000000000004010180000000000000000002a012380 M = true) : Frame M s0 (syncLost s) := by
  unfold syncLost
  repeat' first
    | exact sub_trans rfl hm
    | with_reducible assumption
    | with_reducible apply unlockTime_frame
    | with_reducible apply takeDistance_frame
    | with_reducible apply chooseParent_frame
    | with_reducible apply raise_frame
    | with_reducible apply settleMaster_frame
    | with_reducible apply Frame.ite
    | (intro x; refine (?_ : Frame M s0 x → _) ?_; (intro hx; clear_value x))
    | (intro x; clear_value x)
    | intro _
    | split
    | lift_lets -underBinder
    | with_reducible apply Frame.with_fab

theorem writeFabTb_frame {M : Nat} {s0 s : State} {x1} (h : Frame M s0 s)
    (hm : sub 0x10000000000000000000000000000000000000000000000814fbc540000000000000000000000000000000000000000000a012b9c M = true) : Frame M s0 (writeFabTb s x1).2 := by
  have h1 := plainWrite_frame (x1 := ⟨.fabric, 0⟩) (x2 := 0x50) (x3 := x1) h (sub_trans rfl hm)
  rw [writeFabTb, apply_ite Prod.snd]
  exact Frame.ite h1 (settleMaster_frame (Frame.with_fab h1 (sub_trans rfl hm)) (sub_trans rfl hm))

theorem writeFabTb_frame_eq {M : Nat} {s0 s : State} {x1} {a0 t} (e : writeFabTb s x1 = (a0, t)) (h : Frame M s0 s)
    (hm : sub 0x10000000000000000000000000000000000000000000000814fbc540000000000000000000000000000000000000000000a012b9c M = true) : Frame M s0 t := by
  have := writeFabTb_frame (x1 := x1) h hm
  rwa [e] at this

theorem execSyncTimeout_frame {M : Nat} {s0 s : State} (h : Frame M s0 s)
    (hm : sub 0x10000000000000000000000000000000000000000000000814fbc540000000000000000004010180000000000000000002a012380 M = true) : FrameR M s0 (execSyncTimeout s) := by
  unfold execSyncTimeout
  repeat' first
    | exact sub_trans rfl hm
    | with_reducible assumption
    | with_reducible apply FrameR.of_next
    | with_reducible apply FrameR.whenOk
    | with_reducible apply syncLost_frame

theorem tbAnswer_frame {M : Nat} {s0 s : State} {x1} (h : Frame M s0 s)
    (hm : sub 0x814fbc040000000000000000000010180000000000000000002a012380 M = true) : Frame M s0 (tbAnswer s x1) := by
  unfold tbAnswer
  repeat' first
    | exact sub_trans rfl hm
    | with_reducible assumption
    | with_reducible apply tell_frame

theorem execTbQuery_frame {M : Nat} {s0 s : State} {x0} (h : Frame M s0 s)
    (hm : sub 0x814fbc040000000000000000000010180000000000000000002a012380 M = true) : FrameR M s0 (execTbQuery x0 s) := by
  unfold execTbQuery
  repeat' first
    | exact sub_trans rfl hm
    | with_reducible assumption
    | with_reducible apply FrameR.of_next
    | with_reducible apply FrameR.whenOk
    | with_reducible apply tbAnswer_frame

theorem measurePairs_frame {M : Nat} {s0 s : State} (h : Frame M s0 s)
    (hm : sub 0x40400000 M = true) : Frame M s0 (measurePairs s) := by
  unfold measurePairs
  repeat' first
    | exact sub_trans rfl hm
    | with_reducible assumption
    | with_reducible apply State.draw_frame
    | with_reducible apply State.draw_frame_eq (by assumption)
    | with_reducible refine Frame.foldl (fun u a hu => ?_) ?_
    | with_reducible refine Frame.foldl_on (get := Prod.fst) (fun u a hu => ?_) ?_
    | with_reducible refine Frame.foldl_on (get := Prod.snd) (fun u a hu => ?_) ?_
    | (intro x; refine (?_ : Frame M s0 x → _) ?_; (intro hx; clear_value x))
    | (intro x; clear_value x)
    | intro _
    | split
    | lift_lets -underBinder
    | with_reducible apply Frame.with_tb

theorem startMeasure_frame {M : Nat} {s0 s : State} (h : Frame M s0 s)
    (hm : sub 0x400000 M = true) : Frame M s0 (startMeasure s) := by
  unfold startMeasure
  repeat' first
    | exact sub_trans rfl hm
    | with_reducible assumption
    | with_reducible apply Frame.with_tb

theorem execMeasure_frame {M : Nat} {s0 s : State} (h : Frame M s0 s)
    (hm : sub 0x400000 M = true) : FrameR M s0 (execMeasure s) := by
  unfold execMeasure
  repeat' first
    | exact sub_trans rfl hm
    | with_reducible assumption
    | with_reducible apply FrameR.of_next
    | with_reducible apply FrameR.whenOk
    | with_reducible apply startMeasure_frame

theorem endMeasure_frame {M : Nat} {s0 s : State} (h : Frame M s0 s)
    (hm : sub 0x814fbf040000000000000000000000000000000000000000004a410380 M = true) : Frame M s0 (endMeasure s) := by
  unfold endMeasure
  repeat' first
    | exact sub_trans rfl hm
    | with_reducible assumption
    | with_reducible apply measurePairs_frame
    | with_reducible apply raise_frame
    | with_reducible apply State.wr64_frame
    | exact has_TB_MEAS_AT_HI rfl hm
    | exact has_TB_MEAS_AT_LO rfl hm
    | (intro x; refine (?_ : Frame M s0 x → _) ?_; (intro hx; clear_value x))
    | (intro x; clear_value x)
    | intro _
    | lift_lets -underBinder
    | with_reducible apply Frame.with_tb

theorem execMeasDone_frame {M : Nat} {s0 s : State} (h : Frame M s0 s)
    (hm : sub 0x814fbf040000000000000000000000000000000000000000004a410380 M = true) : FrameR M s0 (execMeasDone s) := by
  unfold execMeasDone
  repeat' first
    | exact sub_trans rfl hm
    | with_reducible assumption
    | with_reducible apply FrameR.of_next
    | with_reducible apply FrameR.whenOk
    | with_reducible apply endMeasure_frame

end Sys2Proof.Machine
end

