-- ==== Sys2Proof/Laws/FrameFirmware.lean ====
section
/-! SUPPORT. Frame lemmas for the functions of Machine/Firmware.lean. -/

set_option Elab.async false
set_option linter.all false

namespace Sys2Proof.Machine

theorem appendLog_frame {M : Nat} {s0 s : State} {x1} (h : Frame M s0 s)
    (hm : sub 0x814fbc040000000000000010000000000000000000000000000a810380 M = true) : Frame M s0 (appendLog s x1) := by
  unfold appendLog
  repeat' first
    | exact ⟨Nat.le_refl _, fun _ h => h⟩
    | intro (x : Trust)
    | exact sub_trans rfl hm
    | with_reducible assumption
    | with_reducible apply raise_frame
    | with_reducible apply State.wr_frame
    | with_reducible apply Frame.ite
    | exact has_SEC_STAT_LOG_OVERFLOW rfl hm
    | split
    | with_reducible apply Frame.with_trust

theorem extendMr_frame {M : Nat} {s0 s : State} {x1 x2 x3 x4} (h : Frame M s0 s)
    (hm : sub 0x814fbc040000000000000410000000000000000000000000000a810380 M = true) : Frame M s0 (extendMr s x1 x2 x3 x4) := by
  unfold extendMr
  repeat' first
    | exact ⟨Nat.le_refl _, fun _ h => h⟩
    | intro (x : Trust)
    | exact sub_trans rfl hm
    | with_reducible assumption
    | with_reducible apply State.wr_frame
    | with_reducible apply appendLog_frame
    | exact has_LOG_COUNT_COUNT rfl hm
    | (intro x; refine (?_ : Frame M s0 x → _) ?_; (intro hx; clear_value x))
    | (intro x; clear_value x)
    | intro _
    | lift_lets -underBinder
    | with_reducible apply Frame.with_trust

theorem extendHost_frame {M : Nat} {s0 s : State} (h : Frame M s0 s)
    (hm : sub 0x814fbc040000000000000410000000000000000000000000000a810380 M = true) : Frame M s0 (extendHost s) := by
  unfold extendHost
  repeat' first
    | exact sub_trans rfl hm
    | with_reducible assumption
    | with_reducible apply extendMr_frame

theorem execExtend_frame {M : Nat} {s0 s : State} (h : Frame M s0 s)
    (hm : sub 0x814fbc040000000000000410000000000000000000000000000a810380 M = true) : FrameR M s0 (execExtend s) := by
  unfold execExtend
  repeat' first
    | exact sub_trans rfl hm
    | with_reducible assumption
    | with_reducible apply FrameR.of_next
    | with_reducible apply FrameR.whenOk
    | with_reducible apply extendHost_frame

theorem logAdvance_frame {M : Nat} {s0 s : State} (h : Frame M s0 s)
    (hm : sub 0x18000000000000000000000000000000000000 M = true) : Frame M s0 (logAdvance s) := by
  unfold logAdvance
  repeat' first
    | exact sub_trans rfl hm
    | with_reducible assumption
    | with_reducible apply State.wr_frame
    | with_reducible apply Frame.ite
    | exact has_LOG_SEL_ENTRY rfl hm
    | exact has_LOG_SEL_WORD rfl hm
    | split

theorem execLogWin_frame {M : Nat} {s0 s : State} (h : Frame M s0 s)
    (hm : sub 0x18000000000000000000000000000020000000 M = true) : FrameR M s0 (execLogWin s) := by
  unfold execLogWin
  repeat' first
    | exact sub_trans rfl hm
    | with_reducible assumption
    | with_reducible apply FrameR.of_next
    | with_reducible apply FrameR.whenOk
    | with_reducible apply State.emit_frame
    | with_reducible apply logAdvance_frame

theorem showFuses_frame {M : Nat} {s0 s : State} (h : Frame M s0 s)
    (hm : sub 0x81400000000000000000000000000000000000 M = true) : Frame M s0 (showFuses s) := by
  unfold showFuses
  repeat' first
    | exact sub_trans rfl hm
    | with_reducible assumption
    | with_reducible apply State.wr_frame
    | with_reducible refine Frame.foldl (fun u a hu => ?_) ?_
    | with_reducible refine Frame.foldl_on (get := Prod.fst) (fun u a hu => ?_) ?_
    | with_reducible refine Frame.foldl_on (get := Prod.snd) (fun u a hu => ?_) ?_
    | exact has_SEC_STAT_USER_KEY_SET rfl hm
    | exact has_SEC_SVN_SVN_MIN rfl hm
    | exact has_USER_KEY_HASH_HASH rfl hm
    | (intro x; refine (?_ : Frame M s0 x → _) ?_; (intro hx; clear_value x))
    | (intro x; clear_value x)
    | intro _
    | split
    | lift_lets -underBinder

theorem burnSvn_frame {M : Nat} {s0 s : State} {x1} (h : Frame M s0 s)
    (hm : sub 0x814fbc040000000000008140000000000000000000000000000a810380 M = true) : Frame M s0 (burnSvn s x1).2 := by
  unfold burnSvn
  repeat' first
    | exact ⟨Nat.le_of_not_lt fun c => by simp_all, fun _ h => h⟩
    | exact ⟨Nat.le_refl _, fun _ h => h⟩
    | intro (x : Trust)
    | exact sub_trans rfl hm
    | with_reducible assumption
    | with_reducible apply refuse_frame
    | with_reducible apply showFuses_frame
    | with_reducible apply Frame.ite
    | split
    | dsimp only
    | with_reducible apply Frame.with_trust

theorem burnSvn_frame_eq {M : Nat} {s0 s : State} {x1} {a0 t} (e : burnSvn s x1 = (a0, t)) (h : Frame M s0 s)
    (hm : sub 0x814fbc040000000000008140000000000000000000000000000a810380 M = true) : Frame M s0 t := by
  have := burnSvn_frame (x1 := x1) h hm
  rwa [e] at this

theorem execSvnBurn_frame {M : Nat} {s0 s : State} {x0} (h : Frame M s0 s)
    (hm : sub 0x814fbc040000000000008140000000000000000000000000000a810380 M = true) : FrameR M s0 (execSvnBurn x0 s) := by
  unfold execSvnBurn
  repeat' first
    | exact sub_trans rfl hm
    | with_reducible assumption
    | with_reducible apply FrameR.of_next
    | with_reducible apply FrameR.whenOk
    | with_reducible apply burnSvn_frame
    | with_reducible apply burnSvn_frame_eq (by assumption)

theorem burnUserKey_frame {M : Nat} {s0 s : State} {x1} (h : Frame M s0 s)
    (hm : sub 0x814fbc040000000000008140000000000000000000000000000a810380 M = true) : Frame M s0 (burnUserKey s x1).2 := by
  unfold burnUserKey
  repeat' first
    | exact ⟨Nat.le_refl _, fun _ h => by simp_all⟩
    | exact ⟨Nat.le_refl _, fun _ h => h⟩
    | intro (x : Trust)
    | exact sub_trans rfl hm
    | with_reducible assumption
    | with_reducible apply refuse_frame
    | with_reducible apply showFuses_frame
    | with_reducible apply Frame.ite
    | split
    | dsimp only
    | with_reducible apply Frame.with_trust

theorem burnUserKey_frame_eq {M : Nat} {s0 s : State} {x1} {a0 t} (e : burnUserKey s x1 = (a0, t)) (h : Frame M s0 s)
    (hm : sub 0x814fbc040000000000008140000000000000000000000000000a810380 M = true) : Frame M s0 t := by
  have := burnUserKey_frame (x1 := x1) h hm
  rwa [e] at this

theorem execUkhBurn_frame {M : Nat} {s0 s : State} {x0} (h : Frame M s0 s)
    (hm : sub 0x814fbc040000000000008140000000000000000000000000000a810380 M = true) : FrameR M s0 (execUkhBurn x0 s) := by
  unfold execUkhBurn
  repeat' first
    | exact sub_trans rfl hm
    | with_reducible assumption
    | with_reducible apply FrameR.of_next
    | with_reducible apply FrameR.whenOk
    | with_reducible apply burnUserKey_frame
    | with_reducible apply burnUserKey_frame_eq (by assumption)

theorem flAdvance_frame {M : Nat} {s0 s : State} (h : Frame M s0 s)
    (hm : sub 0x100000000000000000000000000000000000000 M = true) : Frame M s0 (flAdvance s) := by
  unfold flAdvance
  repeat' first
    | exact sub_trans rfl hm
    | with_reducible assumption
    | with_reducible apply State.wr_frame
    | exact has_FL_ADDR_ADDR rfl hm

theorem flRead_frame {M : Nat} {s0 s : State} (h : Frame M s0 s)
    (hm : sub 0x100000000000000000000000000000040000000 M = true) : Frame M s0 (flRead s).2 := by
  unfold flRead
  repeat' first
    | exact sub_trans rfl hm
    | with_reducible assumption
    | with_reducible apply State.draw_frame
    | with_reducible apply State.draw_frame_eq (by assumption)
    | with_reducible apply flAdvance_frame
    | with_reducible apply Frame.ite
    | (intro x; refine (?_ : Frame M s0 x → _) ?_; (intro hx; clear_value x))
    | (intro x; clear_value x)
    | intro _
    | split
    | lift_lets -underBinder
    | dsimp only

theorem flRead_frame_eq {M : Nat} {s0 s : State} {a0 t} (e : flRead s = (a0, t)) (h : Frame M s0 s)
    (hm : sub 0x100000000000000000000000000000040000000 M = true) : Frame M s0 t := by
  have := flRead_frame  h hm
  rwa [e] at this

theorem startFlash_frame {M : Nat} {s0 s : State} {x1} (h : Frame M s0 s)
    (hm : sub 0x200000000000000000000000000000000800000 M = true) : Frame M s0 (startFlash s x1) := by
  unfold startFlash
  repeat' first
    | exact ⟨Nat.le_refl _, fun _ h => h⟩
    | intro (x : Trust)
    | exact sub_trans rfl hm
    | with_reducible assumption
    | with_reducible apply State.wr_frame
    | exact has_FL_STAT_BUSY rfl hm
    | with_reducible apply Frame.with_trust

theorem flWrite_frame {M : Nat} {s0 s : State} {x1} (h : Frame M s0 s)
    (hm : sub 0x814fbc040000000000030000000000000000000000000000000a810380 M = true) : Frame M s0 (flWrite s x1).2 := by
  unfold flWrite
  repeat' first
    | exact sub_trans rfl hm
    | with_reducible assumption
    | with_reducible apply flAdvance_frame
    | with_reducible apply startFlash_frame
    | with_reducible apply refuse_frame
    | with_reducible apply Frame.ite
    | split
    | dsimp only

theorem flWrite_frame_eq {M : Nat} {s0 s : State} {x1} {a0 t} (e : flWrite s x1 = (a0, t)) (h : Frame M s0 s)
    (hm : sub 0x814fbc040000000000030000000000000000000000000000000a810380 M = true) : Frame M s0 t := by
  have := flWrite_frame (x1 := x1) h hm
  rwa [e] at this

theorem execFlData_frame {M : Nat} {s0 s : State} {x0} (h : Frame M s0 s)
    (hm : sub 0x814fbc040000000000030000000000000000000000000000006a810380 M = true) : FrameR M s0 (execFlData x0 s) := by
  unfold execFlData
  repeat' first
    | exact sub_trans rfl hm
    | with_reducible assumption
    | with_reducible apply FrameR.of_next
    | with_reducible apply FrameR.whenOk
    | with_reducible apply State.emit_frame
    | with_reducible apply flRead_frame
    | with_reducible apply flRead_frame_eq (by assumption)
    | with_reducible apply flWrite_frame
    | with_reducible apply flWrite_frame_eq (by assumption)
    | split

theorem flErase_frame {M : Nat} {s0 s : State} (h : Frame M s0 s)
    (hm : sub 0x814fbc040000000000020000000000000000000000000000000a810380 M = true) : Frame M s0 (flErase s).2 := by
  unfold flErase
  repeat' first
    | exact sub_trans rfl hm
    | with_reducible assumption
    | with_reducible apply startFlash_frame
    | with_reducible apply refuse_frame
    | with_reducible apply Frame.ite
    | split
    | dsimp only

theorem flErase_frame_eq {M : Nat} {s0 s : State} {a0 t} (e : flErase s = (a0, t)) (h : Frame M s0 s)
    (hm : sub 0x814fbc040000000000020000000000000000000000000000000a810380 M = true) : Frame M s0 t := by
  have := flErase_frame  h hm
  rwa [e] at this

theorem execErase_frame {M : Nat} {s0 s : State} (h : Frame M s0 s)
    (hm : sub 0x814fbc040000000000020000000000000000000000000000000a810380 M = true) : FrameR M s0 (execErase s) := by
  unfold execErase
  repeat' first
    | exact sub_trans rfl hm
    | with_reducible assumption
    | with_reducible apply FrameR.of_next
    | with_reducible apply FrameR.whenOk
    | with_reducible apply flErase_frame
    | with_reducible apply flErase_frame_eq (by assumption)

theorem flCommit_frame {M : Nat} {s0 s : State} {x1} (h : Frame M s0 s)
    (hm : sub 0x814fbc040000000000020000000000000000000000000000000a810380 M = true) : Frame M s0 (flCommit s x1).2 := by
  unfold flCommit
  repeat' first
    | exact sub_trans rfl hm
    | with_reducible assumption
    | with_reducible apply startFlash_frame
    | with_reducible apply refuse_frame
    | with_reducible apply Frame.ite
    | split
    | dsimp only

theorem flCommit_frame_eq {M : Nat} {s0 s : State} {x1} {a0 t} (e : flCommit s x1 = (a0, t)) (h : Frame M s0 s)
    (hm : sub 0x814fbc040000000000020000000000000000000000000000000a810380 M = true) : Frame M s0 t := by
  have := flCommit_frame (x1 := x1) h hm
  rwa [e] at this

theorem execFlCommit_frame {M : Nat} {s0 s : State} {x0} (h : Frame M s0 s)
    (hm : sub 0x814fbc040000000000020000000000000000000000000000000a810380 M = true) : FrameR M s0 (execFlCommit x0 s) := by
  unfold execFlCommit
  repeat' first
    | exact sub_trans rfl hm
    | with_reducible assumption
    | with_reducible apply FrameR.of_next
    | with_reducible apply FrameR.whenOk
    | with_reducible apply flCommit_frame
    | with_reducible apply flCommit_frame_eq (by assumption)

theorem extendRole_frame {M : Nat} {s0 s : State} {x1 x2 x3} (h : Frame M s0 s)
    (hm : sub 0x814fbc040000000000000410000000000000000000000000000a810380 M = true) : Frame M s0 (extendRole s x1 x2 x3) := by
  unfold extendRole
  repeat' first
    | exact sub_trans rfl hm
    | with_reducible assumption
    | with_reducible apply extendMr_frame
    | with_reducible apply Frame.ite
    | with_reducible refine Frame.foldl (fun u a hu => ?_) ?_
    | with_reducible refine Frame.foldl_on (get := Prod.fst) (fun u a hu => ?_) ?_
    | with_reducible refine Frame.foldl_on (get := Prod.snd) (fun u a hu => ?_) ?_
    | (intro x; refine (?_ : Frame M s0 x → _) ?_; (intro hx; clear_value x))
    | (intro x; clear_value x)
    | intro _
    | split
    | lift_lets -underBinder

theorem putFlash_frame {M : Nat} {s0 s : State} {x1 x2} (h : Frame M s0 s)
    (hm : sub 0x800000 M = true) : Frame M s0 (putFlash s x1 x2) := by
  unfold putFlash
  repeat' first
    | exact ⟨Nat.le_refl _, fun _ h => h⟩
    | intro (x : Trust)
    | exact sub_trans rfl hm
    | with_reducible assumption
    | with_reducible refine Frame.foldl (fun u a hu => ?_) ?_
    | with_reducible refine Frame.foldl_on (get := Prod.fst) (fun u a hu => ?_) ?_
    | with_reducible refine Frame.foldl_on (get := Prod.snd) (fun u a hu => ?_) ?_
    | (intro x; refine (?_ : Frame M s0 x → _) ?_; (intro hx; clear_value x))
    | (intro x; clear_value x)
    | intro _
    | lift_lets -underBinder
    | with_reducible apply Frame.with_trust

theorem eraseSector_frame {M : Nat} {s0 s : State} {x1} (h : Frame M s0 s)
    (hm : sub 0x800000 M = true) : Frame M s0 (eraseSector s x1) := by
  unfold eraseSector
  repeat' first
    | exact ⟨Nat.le_refl _, fun _ h => h⟩
    | intro (x : Trust)
    | exact sub_trans rfl hm
    | with_reducible assumption
    | with_reducible apply Frame.ite
    | (intro x; refine (?_ : Frame M s0 x → _) ?_; (intro hx; clear_value x))
    | (intro x; clear_value x)
    | intro _
    | split
    | lift_lets -underBinder
    | with_reducible apply Frame.with_trust

theorem programWord_frame {M : Nat} {s0 s : State} {x1 x2} (h : Frame M s0 s)
    (hm : sub 0x800000 M = true) : Frame M s0 (programWord s x1 x2) := by
  unfold programWord
  repeat' first
    | exact sub_trans rfl hm
    | with_reducible assumption
    | with_reducible apply putFlash_frame
    | with_reducible apply Frame.ite
    | (intro x; refine (?_ : Frame M s0 x → _) ?_; (intro hx; clear_value x))
    | (intro x; clear_value x)
    | intro _
    | split
    | lift_lets -underBinder

theorem commitSegment_frame {M : Nat} {s0 s : State} {x1} (h : Frame M s0 s)
    (hm : sub 0x800000 M = true) : Frame M s0 (commitSegment s x1).2 := by
  unfold commitSegment
  repeat' first
    | exact sub_trans rfl hm
    | with_reducible assumption
    | with_reducible apply putFlash_frame
    | with_reducible apply Frame.ite
    | (intro x; refine (?_ : Frame M s0 x → _) ?_; (intro hx; clear_value x))
    | (intro x; clear_value x)
    | intro _
    | split
    | lift_lets -underBinder
    | dsimp only

theorem commitSegment_frame_eq {M : Nat} {s0 s : State} {x1} {a0 t} (e : commitSegment s x1 = (a0, t)) (h : Frame M s0 s)
    (hm : sub 0x800000 M = true) : Frame M s0 t := by
  have := commitSegment_frame (x1 := x1) h hm
  rwa [e] at this

theorem runFlash_frame {M : Nat} {s0 s : State} {x1} (h : Frame M s0 s)
    (hm : sub 0x800000 M = true) : Frame M s0 (runFlash s x1).2 := by
  unfold runFlash
  repeat' first
    | exact sub_trans rfl hm
    | with_reducible assumption
    | with_reducible apply eraseSector_frame
    | with_reducible apply programWord_frame
    | with_reducible apply commitSegment_frame
    | with_reducible apply commitSegment_frame_eq (by assumption)
    | split
    | dsimp only

theorem runFlash_frame_eq {M : Nat} {s0 s : State} {x1} {a0 t} (e : runFlash s x1 = (a0, t)) (h : Frame M s0 s)
    (hm : sub 0x800000 M = true) : Frame M s0 t := by
  have := runFlash_frame (x1 := x1) h hm
  rwa [e] at this

theorem spoilFlash_frame {M : Nat} {s0 s : State} {x1 x2} (h : Frame M s0 s)
    (hm : sub 0x40800000 M = true) : Frame M s0 (spoilFlash s x1 x2) := by
  unfold spoilFlash
  repeat' first
    | exact sub_trans rfl hm
    | with_reducible assumption
    | with_reducible apply State.draw_frame
    | with_reducible apply State.draw_frame_eq (by assumption)
    | with_reducible apply putFlash_frame
    | (intro x; refine (?_ : Frame M s0 x → _) ?_; (intro hx; clear_value x))
    | (intro x; clear_value x)
    | intro _
    | split
    | lift_lets -underBinder

theorem failFlash_frame {M : Nat} {s0 s : State} {x1} (h : Frame M s0 s)
    (hm : sub 0x40800000 M = true) : Frame M s0 (failFlash s x1) := by
  unfold failFlash
  repeat' first
    | exact ⟨Nat.le_refl _, fun _ h => h⟩
    | intro (x : Trust)
    | exact sub_trans rfl hm
    | with_reducible assumption
    | with_reducible apply spoilFlash_frame
    | (intro x; refine (?_ : Frame M s0 x → _) ?_; (intro hx; clear_value x))
    | (intro x; clear_value x)
    | intro _
    | split
    | lift_lets -underBinder
    | with_reducible apply Frame.with_trust

theorem flashDone_frame {M : Nat} {s0 s : State} {x1 x2} (h : Frame M s0 s)
    (hm : sub 0x814fbc040000000000060000000000000000000000000000004a810380 M = true) : Frame M s0 (flashDone s x1 x2) := by
  unfold flashDone
  repeat' first
    | exact ⟨Nat.le_refl _, fun _ h => h⟩
    | intro (x : Trust)
    | exact sub_trans rfl hm
    | with_reducible assumption
    | with_reducible apply failFlash_frame
    | with_reducible apply runFlash_frame
    | with_reducible apply runFlash_frame_eq (by assumption)
    | with_reducible apply State.wr_frame
    | with_reducible apply raise_frame
    | with_reducible apply Frame.ite
    | exact has_FL_STAT_BUSY rfl hm
    | exact has_FL_STAT_RESULT rfl hm
    | (intro x; refine (?_ : Frame M s0 x → _) ?_; (intro hx; clear_value x))
    | (intro x; clear_value x)
    | intro _
    | split
    | lift_lets -underBinder
    | with_reducible apply Frame.with_trust

theorem execFlDone_frame {M : Nat} {s0 s : State} {x0} (h : Frame M s0 s)
    (hm : sub 0x814fbc040000000000060000000000000000000000000000004a810380 M = true) : FrameR M s0 (execFlDone x0 s) := by
  unfold execFlDone
  repeat' first
    | exact sub_trans rfl hm
    | with_reducible assumption
    | with_reducible apply FrameR.of_next
    | with_reducible apply FrameR.whenOk
    | with_reducible apply flashDone_frame
    | split

theorem setPhase_frame {M : Nat} {s0 s : State} {x1} (h : Frame M s0 s)
    (hm : sub 0x814fbc040000000000080000000000000000000000000000000a010380 M = true) : Frame M s0 (setPhase s x1) := by
  unfold setPhase
  repeat' first
    | exact sub_trans rfl hm
    | with_reducible assumption
    | with_reducible apply raise_frame
    | with_reducible apply State.wr_frame
    | with_reducible apply Frame.ite
    | exact has_FW_STAT_PHASE rfl hm
    | split

theorem stageImage_frame {M : Nat} {s0 s : State} (h : Frame M s0 s)
    (hm : sub 0x814fbc0400000000002c0410000000000000000000000000000a810380 M = true) : Frame M s0 (stageImage s).2 := by
  unfold stageImage
  repeat' first
    | exact ⟨Nat.le_refl _, fun _ h => h⟩
    | intro (x : Trust)
    | exact sub_trans rfl hm
    | with_reducible assumption
    | with_reducible apply refuse_frame
    | with_reducible apply State.wr_frame
    | with_reducible apply extendMr_frame
    | with_reducible apply setPhase_frame
    | with_reducible apply Frame.ite
    | exact has_FL_STAT_RESULT rfl hm
    | exact has_FW_STAT_STAGED_VER rfl hm
    | (intro x; refine (?_ : Frame M s0 x → _) ?_; (intro hx; clear_value x))
    | (intro x; clear_value x)
    | intro _
    | split
    | lift_lets -underBinder
    | dsimp only
    | with_reducible apply Frame.with_trust

theorem stageImage_frame_eq {M : Nat} {s0 s : State} {a0 t} (e : stageImage s = (a0, t)) (h : Frame M s0 s)
    (hm : sub 0x814fbc0400000000002c0410000000000000000000000000000a810380 M = true) : Frame M s0 t := by
  have := stageImage_frame  h hm
  rwa [e] at this

theorem execStage_frame {M : Nat} {s0 s : State} (h : Frame M s0 s)
    (hm : sub 0x814fbc0400000000002c0410000000000000000000000000000a810380 M = true) : FrameR M s0 (execStage s) := by
  unfold execStage
  repeat' first
    | exact sub_trans rfl hm
    | with_reducible assumption
    | with_reducible apply FrameR.of_next
    | with_reducible apply FrameR.whenOk
    | with_reducible apply stageImage_frame
    | with_reducible apply stageImage_frame_eq (by assumption)

theorem beginHandOver_frame {M : Nat} {s0 s : State} (h : Frame M s0 s)
    (hm : sub 0x20000000000000000000000000000000000 M = true) : Frame M s0 (beginHandOver s) := by
  unfold beginHandOver
  repeat' first
    | exact sub_trans rfl hm
    | with_reducible assumption
    | with_reducible apply State.wr_frame
    | exact has_CORE_STAT_STATE rfl hm
    | split

theorem swapImage_frame {M : Nat} {s0 s : State} (h : Frame M s0 s)
    (hm : sub 0x814fbc040000000000080002000000000000000000000000000a010380 M = true) : Frame M s0 (swapImage s).2 := by
  unfold swapImage
  repeat' first
    | exact sub_trans rfl hm
    | with_reducible assumption
    | with_reducible apply beginHandOver_frame
    | with_reducible apply setPhase_frame
    | with_reducible apply refuse_frame
    | with_reducible apply Frame.ite
    | (intro x; refine (?_ : Frame M s0 x → _) ?_; (intro hx; clear_value x))
    | (intro x; clear_value x)
    | intro _
    | split
    | lift_lets -underBinder
    | dsimp only

theorem swapImage_frame_eq {M : Nat} {s0 s : State} {a0 t} (e : swapImage s = (a0, t)) (h : Frame M s0 s)
    (hm : sub 0x814fbc040000000000080002000000000000000000000000000a010380 M = true) : Frame M s0 t := by
  have := swapImage_frame  h hm
  rwa [e] at this

theorem execSwap_frame {M : Nat} {s0 s : State} (h : Frame M s0 s)
    (hm : sub 0x814fbc040000000000080002000000000000000000000000000a010380 M = true) : FrameR M s0 (execSwap s) := by
  unfold execSwap
  repeat' first
    | exact sub_trans rfl hm
    | with_reducible assumption
    | with_reducible apply FrameR.of_next
    | with_reducible apply FrameR.whenOk
    | with_reducible apply swapImage_frame
    | with_reducible apply swapImage_frame_eq (by assumption)

theorem coreRuns_frame {M : Nat} {s0 s : State} {x1 x2 x3} (h : Frame M s0 s)
    (hm : sub 0x70000000000000000000000000000000000 M = true) : Frame M s0 (coreRuns s x1 x2 x3) := by
  unfold coreRuns
  repeat' first
    | exact sub_trans rfl hm
    | with_reducible assumption
    | with_reducible apply State.wr_frame
    | exact has_CORE_STAT_ROLE rfl hm
    | exact has_CORE_STAT_STATE rfl hm
    | exact has_CORE_STAT_VERSION rfl hm

theorem moveCore_frame {M : Nat} {s0 s : State} {x1 x2} (h : Frame M s0 s)
    (hm : sub 0x14fbc0400000000000000000100000000000000000000000002010380 M = true) : Frame M s0 (moveCore s x1 x2) := by
  unfold moveCore
  repeat' first
    | exact sub_trans rfl hm
    | with_reducible assumption
    | with_reducible apply writeCoreEn_frame

theorem endSwap_frame {M : Nat} {s0 s : State} {x1 x2} (h : Frame M s0 s)
    (hm : sub 0x814fbc040000000000180617000000000000000000000000000a810380 M = true) : Frame M s0 (endSwap s x1 x2) := by
  unfold endSwap
  repeat' first
    | exact ⟨Nat.le_refl _, fun _ h => h⟩
    | intro (x : Trust)
    | exact sub_trans rfl hm
    | with_reducible assumption
    | with_reducible apply coreRuns_frame
    | with_reducible apply extendRole_frame
    | with_reducible apply setPhase_frame
    | with_reducible apply State.wr_frame
    | exact has_FW_STAT_MIXED rfl hm
    | exact has_SEC_SVN_SVN_RUN rfl hm
    | (intro x; refine (?_ : Frame M s0 x → _) ?_; (intro hx; clear_value x))
    | (intro x; clear_value x)
    | intro _
    | lift_lets -underBinder
    | with_reducible apply Frame.with_trust

theorem handOverRole_frame {M : Nat} {s0 s : State} {x1 x2 x3} (h : Frame M s0 s)
    (hm : sub 0x814fbc040000000000180617010000000000000000000000000a810380 M = true) : Frame M s0 (handOverRole s x1 x2 x3) := by
  unfold handOverRole
  repeat' first
    | exact ⟨Nat.le_refl _, fun _ h => h⟩
    | intro (x : Trust)
    | exact sub_trans rfl hm
    | with_reducible assumption
    | with_reducible apply moveCore_frame
    | with_reducible apply extendRole_frame
    | with_reducible apply raise_frame
    | with_reducible apply coreRuns_frame
    | with_reducible apply endSwap_frame
    | with_reducible apply State.wr_frame
    | with_reducible apply beginHandOver_frame
    | with_reducible apply Frame.ite
    | exact has_CORE_STAT_ROLE rfl hm
    | exact has_FW_STAT_MIXED rfl hm
    | (intro x; refine (?_ : Frame M s0 x → _) ?_; (intro hx; clear_value x))
    | (intro x; clear_value x)
    | intro _
    | split
    | lift_lets -underBinder
    | with_reducible apply Frame.with_trust

theorem execHandoverDone_frame {M : Nat} {s0 s : State} (h : Frame M s0 s)
    (hm : sub 0x814fbc040000000000180617010000000000000000000000000a810380 M = true) : FrameR M s0 (execHandoverDone s) := by
  unfold execHandoverDone
  repeat' first
    | exact sub_trans rfl hm
    | with_reducible assumption
    | with_reducible apply FrameR.of_next
    | with_reducible apply FrameR.whenOk
    | with_reducible apply handOverRole_frame
    | split

end Sys2Proof.Machine
end

