-- ==== Sys2Proof/Laws/FrameRepairs.lean ====
section
/-! SUPPORT. Frame lemmas for the functions of Machine/Repairs.lean. -/

set_option Elab.async false
set_option linter.all false

namespace Sys2Proof.Machine

theorem settleSlot_frame {M : Nat} {s0 s : State} {x1} (h : Frame M s0 s)
    (hm : sub 0x8000000000000000000000000000000000000000000000000000000000000000000000080 M = true) : Frame M s0 (settleSlot s x1) := by
  unfold settleSlot
  repeat' first
    | exact sub_trans rfl hm
    | with_reducible assumption
    | with_reducible apply State.setHdr_frame
    | with_reducible apply State.wr_frame
    | with_reducible apply Frame.ite
    | exact has_KITE_STATE_STATE rfl hm
    | split

theorem settleChannel_frame {M : Nat} {s0 s : State} {x1 x2} (h : Frame M s0 s)
    (hm : sub 0x18000000000000000000000000000000000000000000000000000000000000000000000000000000000000000000000000000000 M = true) : Frame M s0 (settleChannel s x1 x2) := by
  unfold settleChannel
  repeat' first
    | exact sub_trans rfl hm
    | with_reducible assumption
    | with_reducible apply State.wr_frame
    | with_reducible apply Frame.ite
    | exact has_PC_REC_ST_LOGICAL rfl hm
    | exact has_PC_REC_ST_STATE rfl hm
    | (intro x; refine (?_ : Frame M s0 x → _) ?_; (intro hx; clear_value x))
    | (intro x; clear_value x)
    | intro _
    | split
    | lift_lets -underBinder

theorem restoreSpares_frame {M : Nat} {s0 s : State} {x1 x2} (h : Frame M s0 s)
    (hm : sub 0x814fbc040000000000000000000000000000000000000000000a011380 M = true) : Frame M s0 (restoreSpares s x1 x2) := by
  unfold restoreSpares
  repeat' first
    | exact sub_trans rfl hm
    | with_reducible assumption
    | with_reducible apply State.setKite_frame
    | with_reducible apply raise_frame
    | with_reducible apply Frame.ite
    | (intro x; refine (?_ : Frame M s0 x → _) ?_; (intro hx; clear_value x))
    | (intro x; clear_value x)
    | intro _
    | split
    | lift_lets -underBinder

theorem restoreSram_frame {M : Nat} {s0 s : State} {x1} (h : Frame M s0 s)
    (hm : sub 0x800 M = true) : Frame M s0 (restoreSram s x1) := by
  unfold restoreSram
  repeat' first
    | exact fun _ k => k
    | exact fun _ _ => SpoolOk.nil
    | exact sub_trans rfl hm
    | with_reducible assumption
    | with_reducible apply Frame.with_mem

theorem restoreTables_frame {M : Nat} {s0 s : State} {x1} (h : Frame M s0 s)
    (hm : sub 0x814fbc040000000000000000000000000000000000000000000a011b80 M = true) : Frame M s0 (restoreTables s x1) := by
  unfold restoreTables
  repeat' first
    | exact sub_trans rfl hm
    | with_reducible assumption
    | with_reducible apply State.setStack_frame
    | with_reducible apply restoreSpares_frame
    | with_reducible apply restoreSram_frame
    | with_reducible apply State.setLine_frame
    | with_reducible refine Frame.foldl (fun u a hu => ?_) ?_
    | with_reducible refine Frame.foldl_on (get := Prod.fst) (fun u a hu => ?_) ?_
    | with_reducible refine Frame.foldl_on (get := Prod.snd) (fun u a hu => ?_) ?_
    | (intro x; refine (?_ : Frame M s0 x → _) ?_; (intro hx; clear_value x))
    | (intro x; clear_value x)
    | intro _
    | lift_lets -underBinder

theorem restoreRegs_frame {M : Nat} {s0 s : State} (h : Frame M s0 s)
    (hm : sub 0x4 M = true) : Frame M s0 (restoreRegs s) := by
  unfold restoreRegs
  repeat' first
    | exact fun h => Table.rising_put h
    | exact fun h => Table.rising_erase h
    | exact fun h => Table.rising_filter h
    | exact fun h => Table.rising_putAll h
    | exact fun _ => rfl
    | exact fun h => Table.rising_putAll (Table.rising_filter h)
    | exact sub_trans rfl hm
    | with_reducible assumption
    | exact has_any rfl hm
    | with_reducible apply Frame.with_regs

theorem settleAll_frame {M : Nat} {s0 s : State} (h : Frame M s0 s)
    (hm : sub 0x18c60000000000000000000000000008000000000000000000000000000000000000000000000000000000000000000000000080 M = true) : Frame M s0 (settleAll s) := by
  unfold settleAll
  repeat' first
    | exact sub_trans rfl hm
    | with_reducible assumption
    | with_reducible apply showRepairs_frame
    | with_reducible apply settleChannel_frame
    | with_reducible apply settleSlot_frame
    | with_reducible refine Frame.foldl (fun u a hu => ?_) ?_
    | with_reducible refine Frame.foldl_on (get := Prod.fst) (fun u a hu => ?_) ?_
    | with_reducible refine Frame.foldl_on (get := Prod.snd) (fun u a hu => ?_) ?_
    | (intro x; refine (?_ : Frame M s0 x → _) ?_; (intro hx; clear_value x))
    | (intro x; clear_value x)
    | intro _
    | lift_lets -underBinder

theorem setRestored_frame {M : Nat} {s0 s : State} (h : Frame M s0 s)
    (hm : sub 0x800000 M = true) : Frame M s0 (setRestored s) := by
  unfold setRestored
  repeat' first
    | exact ⟨Nat.le_refl _, fun _ h => h⟩
    | intro (x : Trust)
    | exact sub_trans rfl hm
    | with_reducible assumption
    | with_reducible apply Frame.with_trust

theorem restoreRepairs_frame {M : Nat} {s0 s : State} (h : Frame M s0 s)
    (hm : sub 0x18c6000000000000000000000000000800000000000000814fbc040000000000000000000000000000000000000000000a811b84 M = true) : Frame M s0 (restoreRepairs s) := by
  unfold restoreRepairs
  repeat' first
    | exact sub_trans rfl hm
    | with_reducible assumption
    | with_reducible apply setRestored_frame
    | with_reducible apply settleAll_frame
    | with_reducible apply restoreTables_frame
    | with_reducible apply restoreRegs_frame

theorem bareState_frame {M : Nat} {s0 s : State} (h : Frame M s0 s)
    (hm : sub 0x1ffffffe M = true) : Frame M s0 (bareState s) := by
  unfold bareState
  repeat' first
    | exact fun h => Table.rising_put h
    | exact fun h => Table.rising_erase h
    | exact fun h => Table.rising_filter h
    | exact fun h => Table.rising_putAll h
    | exact fun _ => rfl
    | exact fun h => Table.rising_putAll (Table.rising_filter h)
    | exact ⟨Nat.le_refl _, fun _ h => h⟩
    | intro (x : Trust)
    | exact fun _ k => k
    | exact fun _ _ => SpoolOk.nil
    | exact fun h => Table.wf_storeN h
    | exact fun _ => rfl
    | exact sub_trans rfl hm
    | with_reducible assumption
    | with_reducible apply Frame.with_tick_regs_shadow_held_hiLatch_frozen_hdrs_ec_host_hbm_mem_kites_step_seqs_gov_fab_winch_burner_sc_recov_sb_tb_trust_pwr_hd_plan_trace_traceFull

theorem offState_frame {M : Nat} {s0 s : State} (h : Frame M s0 s)
    (hm : sub 0x1ffffffe M = true) : Frame M s0 (offState s) := by
  unfold offState
  repeat' first
    | exact sub_trans rfl hm
    | with_reducible assumption
    | with_reducible apply bareState_frame
    | with_reducible apply Frame.with_pwr

end Sys2Proof.Machine
end

