-- ==== Sys2Proof/Laws/FrameCores.lean ====
section
/-! SUPPORT. Frame lemmas for the functions of Machine/Cores.lean. -/

set_option Elab.async false
set_option linter.all false

namespace Sys2Proof.Machine

theorem retireCore_frame {M : Nat} {s0 s : State} {x1} (h : Frame M s0 s)
    (hm : sub 0x814fbc040000000000000003010000000000000000000000000a010380 M = true) : Frame M s0 (retireCore s x1) := by
  unfold retireCore
  repeat' first
    | exact sub_trans rfl hm
    | with_reducible assumption
    | with_reducible apply writeCoreEn_frame
    | with_reducible apply State.wr_frame
    | with_reducible apply raise_frame
    | with_reducible apply State.setHdr_frame
    | exact has_CORE_STAT_ROLE rfl hm
    | exact has_CORE_STAT_STATE rfl hm
    | (intro x; refine (?_ : Frame M s0 x → _) ?_; (intro hx; clear_value x))
    | (intro x; clear_value x)
    | intro _
    | lift_lets -underBinder

theorem beginTakeover_frame {M : Nat} {s0 s : State} {x1 x2 x3} (h : Frame M s0 s)
    (hm : sub 0x60000000000000000000000000000100000 M = true) : Frame M s0 (beginTakeover s x1 x2 x3) := by
  unfold beginTakeover
  repeat' first
    | exact sub_trans rfl hm
    | with_reducible assumption
    | with_reducible apply State.wr_frame
    | exact has_CORE_STAT_STATE rfl hm
    | exact has_CORE_STAT_VERSION rfl hm
    | (intro x; refine (?_ : Frame M s0 x → _) ?_; (intro hx; clear_value x))
    | (intro x; clear_value x)
    | intro _
    | lift_lets -underBinder
    | with_reducible apply Frame.with_recov

theorem joinRoles_frame {M : Nat} {s0 s : State} {x1 x2} (h : Frame M s0 s)
    (hm : sub 0x814fbc040000000000c00000000010590100000000000000002a110380 M = true) : Frame M s0 (joinRoles s x1 x2) := by
  unfold joinRoles
  repeat' first
    | exact sub_trans rfl hm
    | with_reducible assumption
    | with_reducible apply handOver_frame
    | with_reducible apply Frame.ite
    | (intro x; refine (?_ : Frame M s0 x → _) ?_; (intro hx; clear_value x))
    | (intro x; clear_value x)
    | intro _
    | split
    | lift_lets -underBinder
    | with_reducible apply Frame.with_recov

theorem stopSwap_frame {M : Nat} {s0 s : State} (h : Frame M s0 s)
    (hm : sub 0x814fbc040000000000080000000000000000000000000000000a010380 M = true) : Frame M s0 (stopSwap s) := by
  unfold stopSwap
  repeat' first
    | exact sub_trans rfl hm
    | with_reducible assumption
    | with_reducible apply setPhase_frame
    | with_reducible apply Frame.ite
    | split

theorem coreFails_frame {M : Nat} {s0 s : State} {x1} (h : Frame M s0 s)
    (hm : sub 0x814fbc040000000000c80007010010590100000000000000002a110380 M = true) : Frame M s0 (coreFails s x1) := by
  unfold coreFails
  repeat' first
    | exact sub_trans rfl hm
    | with_reducible assumption
    | with_reducible apply retireCore_frame
    | with_reducible apply joinRoles_frame
    | with_reducible apply beginTakeover_frame
    | with_reducible apply stopSwap_frame
    | with_reducible apply Frame.ite
    | (intro x; refine (?_ : Frame M s0 x → _) ?_; (intro hx; clear_value x))
    | (intro x; clear_value x)
    | intro _
    | split
    | lift_lets -underBinder
    | with_reducible apply Frame.with_recov

theorem execCoreFailure_frame {M : Nat} {s0 s : State} {x0} (h : Frame M s0 s)
    (hm : sub 0x814fbc040000000000c80007010010590100000000000000002a110380 M = true) : FrameR M s0 (execCoreFailure x0 s) := by
  unfold execCoreFailure
  repeat' first
    | exact sub_trans rfl hm
    | with_reducible assumption
    | with_reducible apply FrameR.of_next
    | with_reducible apply FrameR.whenOk
    | with_reducible apply coreFails_frame

theorem takeRole_frame {M : Nat} {s0 s : State} {x1 x2} (h : Frame M s0 s)
    (hm : sub 0x814fbc040000000000c00003010000000000000000000000000a110380 M = true) : Frame M s0 (takeRole s x1 x2) := by
  unfold takeRole
  repeat' first
    | exact sub_trans rfl hm
    | with_reducible assumption
    | with_reducible apply State.wr_frame
    | with_reducible apply writeCoreEn_frame
    | with_reducible apply svcAppend_frame
    | with_reducible apply raise_frame
    | exact has_CORE_STAT_ROLE rfl hm
    | exact has_CORE_STAT_STATE rfl hm
    | (intro x; refine (?_ : Frame M s0 x → _) ?_; (intro hx; clear_value x))
    | (intro x; clear_value x)
    | intro _
    | lift_lets -underBinder
    | with_reducible apply Frame.with_recov

theorem execRoleTakeover_frame {M : Nat} {s0 s : State} (h : Frame M s0 s)
    (hm : sub 0x814fbc040000000000c00003010000000000000000000000000a110380 M = true) : FrameR M s0 (execRoleTakeover s) := by
  unfold execRoleTakeover
  repeat' first
    | exact sub_trans rfl hm
    | with_reducible assumption
    | with_reducible apply FrameR.of_next
    | with_reducible apply FrameR.whenOk
    | with_reducible apply takeRole_frame
    | split

theorem showCap_frame {M : Nat} {s0 s : State} (h : Frame M s0 s)
    (hm : sub 0x8000000000000 M = true) : Frame M s0 (showCap s) := by
  unfold showCap
  repeat' first
    | exact sub_trans rfl hm
    | with_reducible assumption
    | with_reducible apply State.wr_frame
    | exact has_PHASES_EFF_CAP rfl hm

theorem shedPhase_frame {M : Nat} {s0 s : State} (h : Frame M s0 s)
    (hm : sub 0x814fbc040000000000c00000000000000000000000000d00000a110380 M = true) : Frame M s0 (shedPhase s) := by
  unfold shedPhase
  repeat' first
    | exact sub_trans rfl hm
    | with_reducible assumption
    | with_reducible apply showCap_frame
    | with_reducible apply State.wr_frame
    | with_reducible apply svcAppend_frame
    | with_reducible apply raise_frame
    | with_reducible apply Frame.ite
    | exact has_PHASES_SHED rfl hm
    | exact has_THERM_STAT_PEAK_LAPSED rfl hm
    | (intro x; refine (?_ : Frame M s0 x → _) ?_; (intro hx; clear_value x))
    | (intro x; clear_value x)
    | intro _
    | split
    | lift_lets -underBinder

theorem execPhaseShed_frame {M : Nat} {s0 s : State} (h : Frame M s0 s)
    (hm : sub 0x814fbc040000000000c00000000000000000000000000d00000a110380 M = true) : FrameR M s0 (execPhaseShed s) := by
  unfold execPhaseShed
  repeat' first
    | exact sub_trans rfl hm
    | with_reducible assumption
    | with_reducible apply FrameR.of_next
    | with_reducible apply FrameR.whenOk
    | with_reducible apply shedPhase_frame

theorem throttleEdges_frame {M : Nat} {s0 s : State} {x1 x2} (h : Frame M s0 s)
    (hm : sub 0x814fbc040000000000000000000000000000000000000000000a010380 M = true) : Frame M s0 (throttleEdges s x1 x2) := by
  unfold throttleEdges
  repeat' first
    | exact sub_trans rfl hm
    | with_reducible assumption
    | with_reducible apply raise_frame
    | with_reducible apply Frame.ite
    | with_reducible refine Frame.foldl (fun u a hu => ?_) ?_
    | with_reducible refine Frame.foldl_on (get := Prod.fst) (fun u a hu => ?_) ?_
    | with_reducible refine Frame.foldl_on (get := Prod.snd) (fun u a hu => ?_) ?_
    | (intro x; refine (?_ : Frame M s0 x → _) ?_; (intro hx; clear_value x))
    | (intro x; clear_value x)
    | intro _
    | split
    | lift_lets -underBinder

theorem settleClock_frame {M : Nat} {s0 s : State} (h : Frame M s0 s)
    (hm : sub 0x814fbc040000000000000000000000000000000000000000180a010380 M = true) : Frame M s0 (settleClock s) := by
  unfold settleClock
  repeat' first
    | exact sub_trans rfl hm
    | with_reducible assumption
    | with_reducible apply throttleEdges_frame
    | with_reducible apply State.wr_frame
    | with_reducible apply raise_frame
    | with_reducible apply Frame.ite
    | exact has_CLK_KITE_CAUSE rfl hm
    | exact has_CLK_KITE_FREQ_MHZ rfl hm
    | (intro x; refine (?_ : Frame M s0 x → _) ?_; (intro hx; clear_value x))
    | (intro x; clear_value x)
    | intro _
    | split
    | lift_lets -underBinder

theorem setDemand_frame {M : Nat} {s0 s : State} {f e on} (h : Frame M s0 s) (hf : has f M)
    (hm : sub 0x814fbc040000000000000000000000000000000000000000000a010380 M = true) : Frame M s0 (setDemand s f e on) := by
  unfold setDemand
  split
  · exact raise_frame (State.wr_frame h hf) hm
  · exact State.wr_frame h hf

theorem showInput_frame {M : Nat} {s0 s : State} {x1 x2} (h : Frame M s0 s)
    (hm : sub 0x814fbc040000000000000000000000000000000000000001800a010380 M = true) : Frame M s0 (showInput s x1 x2) := by
  unfold showInput
  repeat' first
    | exact sub_trans rfl hm
    | with_reducible assumption
    | with_reducible apply State.wr_frame
    | with_reducible apply raise_frame
    | with_reducible apply Frame.ite
    | exact has_PWR_IN_IIN rfl hm
    | exact has_PWR_IN_VIN rfl hm
    | (intro x; refine (?_ : Frame M s0 x → _) ?_; (intro hx; clear_value x))
    | (intro x; clear_value x)
    | intro _
    | split
    | lift_lets -underBinder

theorem powerEval_frame {M : Nat} {s0 s : State} {x1 x2 x3} (h : Frame M s0 s)
    (hm : sub 0x814fbc040000000000000000000000000000000000000847980b010380 M = true) : Frame M s0 (powerEval s x1 x2 x3) := by
  unfold powerEval
  repeat' first
    | exact sub_trans rfl hm
    | with_reducible assumption
    | with_reducible apply showCap_frame
    | with_reducible apply showInput_frame
    | with_reducible apply State.wr_frame
    | with_reducible apply settleClock_frame
    | with_reducible apply setDemand_frame
    | with_reducible apply Frame.ite
    | exact has_PWR_AVG_AVG_100MS rfl hm
    | exact has_PWR_AVG_AVG_100US rfl hm
    | exact has_THERM_STAT_PWR_LIMIT rfl hm
    | (intro x; refine (?_ : Frame M s0 x → _) ?_; (intro hx; clear_value x))
    | (intro x; clear_value x)
    | intro _
    | split
    | lift_lets -underBinder
    | with_reducible apply Frame.with_pwr

theorem execPowerEval_frame {M : Nat} {s0 s : State} {x0 x1 x2} (h : Frame M s0 s)
    (hm : sub 0x814fbc040000000000000000000000000000000000000847981ffffffe M = true) : FrameR M s0 (execPowerEval x0 x1 x2 s) := by
  unfold execPowerEval
  repeat' first
    | exact sub_trans rfl hm
    | with_reducible assumption
    | with_reducible apply FrameR.of_next
    | with_reducible apply FrameR.whenOk
    | with_reducible apply FrameR.ite
    | with_reducible apply offState_frame
    | with_reducible apply powerEval_frame
    | with_reducible apply Frame.ite
    | split

theorem thermalEval_frame {M : Nat} {s0 s : State} {x1 x2 x3} (h : Frame M s0 s)
    (hm : sub 0x814fbc0400000000000000000000000000000000000002b8181ffffffe M = true) : Frame M s0 (thermalEval s x1 x2 x3) := by
  unfold thermalEval
  repeat' first
    | exact sub_trans rfl hm
    | with_reducible assumption
    | with_reducible apply offState_frame
    | with_reducible apply State.wr_frame
    | with_reducible apply setDemand_frame
    | with_reducible apply settleClock_frame
    | with_reducible apply Frame.ite
    | exact has_THERM_COOL_IN rfl hm
    | exact has_THERM_COOL_OUT rfl hm
    | exact has_THERM_DIE_MAX rfl hm
    | exact has_THERM_STAT_COOL_HOT rfl hm
    | exact has_THERM_STAT_THERM_LIMIT rfl hm
    | (intro x; refine (?_ : Frame M s0 x → _) ?_; (intro hx; clear_value x))
    | (intro x; clear_value x)
    | intro _
    | split
    | lift_lets -underBinder
    | with_reducible apply Frame.with_pwr

theorem execThermalEval_frame {M : Nat} {s0 s : State} {x0 x1 x2} (h : Frame M s0 s)
    (hm : sub 0x814fbc0400000000000000000000000000000000000002b8181ffffffe M = true) : FrameR M s0 (execThermalEval x0 x1 x2 s) := by
  unfold execThermalEval
  repeat' first
    | exact sub_trans rfl hm
    | with_reducible assumption
    | with_reducible apply FrameR.of_next
    | with_reducible apply FrameR.whenOk
    | with_reducible apply thermalEval_frame

theorem refLost_frame {M : Nat} {s0 s : State} (h : Frame M s0 s)
    (hm : sub 0x814fbc140000000000000000000010180000000000000000202a012380 M = true) : Frame M s0 (refLost s) := by
  unfold refLost
  repeat' first
    | exact sub_trans rfl hm
    | with_reducible assumption
    | with_reducible apply unlockTime_frame
    | with_reducible apply raise_frame
    | with_reducible apply State.wr_frame
    | with_reducible apply Frame.ite
    | exact has_CLK_REF_REF_OK rfl hm
    | split

theorem execRefLost_frame {M : Nat} {s0 s : State} (h : Frame M s0 s)
    (hm : sub 0x814fbc140000000000000000000010180000000000000000202a012380 M = true) : FrameR M s0 (execRefLost s) := by
  unfold execRefLost
  repeat' first
    | exact sub_trans rfl hm
    | with_reducible assumption
    | with_reducible apply FrameR.of_next
    | with_reducible apply FrameR.whenOk
    | with_reducible apply refLost_frame

theorem execRefReturn_frame {M : Nat} {s0 s : State} (h : Frame M s0 s)
    (hm : sub 0x2000000000 M = true) : FrameR M s0 (execRefReturn s) := by
  unfold execRefReturn
  repeat' first
    | exact sub_trans rfl hm
    | with_reducible assumption
    | with_reducible apply FrameR.of_next
    | with_reducible apply FrameR.whenOk
    | with_reducible apply State.wr_frame
    | exact has_CLK_REF_REF_OK rfl hm

theorem execBoundaryScan_frame {M : Nat} {s0 s : State} {x0} (h : Frame M s0 s)
    (hm : sub 0x20000000 M = true) : FrameR M s0 (execBoundaryScan x0 s) := by
  unfold execBoundaryScan
  repeat' first
    | exact sub_trans rfl hm
    | with_reducible assumption
    | with_reducible apply FrameR.of_next
    | with_reducible apply FrameR.whenOk
    | with_reducible apply State.emit_frame

theorem writeSvcHead_frame {M : Nat} {s0 s : State} (h : Frame M s0 s)
    (hm : sub 0x900000 M = true) : Frame M s0 (writeSvcHead s) := by
  unfold writeSvcHead
  repeat' first
    | exact ⟨Nat.le_refl _, fun _ h => h⟩
    | intro (x : Trust)
    | exact sub_trans rfl hm
    | with_reducible assumption
    | (intro x; refine (?_ : Frame M s0 x → _) ?_; (intro hx; clear_value x))
    | (intro x; clear_value x)
    | intro _
    | lift_lets -underBinder
    | with_reducible apply Frame.with_recov_trust

theorem serviceHour_frame {M : Nat} {s0 s : State} (h : Frame M s0 s)
    (hm : sub 0x18000000000000000000000900000 M = true) : Frame M s0 (serviceHour s) := by
  unfold serviceHour
  repeat' first
    | exact sub_trans rfl hm
    | with_reducible assumption
    | with_reducible apply State.wr_frame
    | with_reducible apply writeSvcHead_frame
    | with_reducible apply Frame.ite
    | exact has_SVC_HOURS_COUNT rfl hm
    | exact has_WEAR_HOT_COUNT rfl hm
    | (intro x; refine (?_ : Frame M s0 x → _) ?_; (intro hx; clear_value x))
    | (intro x; clear_value x)
    | intro _
    | split
    | lift_lets -underBinder

theorem execServiceHour_frame {M : Nat} {s0 s : State} (h : Frame M s0 s)
    (hm : sub 0x18000000000000000000000900000 M = true) : FrameR M s0 (execServiceHour s) := by
  unfold execServiceHour
  repeat' first
    | exact sub_trans rfl hm
    | with_reducible assumption
    | with_reducible apply FrameR.of_next
    | with_reducible apply FrameR.whenOk
    | with_reducible apply serviceHour_frame

end Sys2Proof.Machine
end

