-- ==== Sys2Proof/Laws/FrameBoot.lean ====
section
/-! SUPPORT. Frame lemmas for the functions of Machine/Boot.lean. -/

set_option Elab.async false
set_option linter.all false

namespace Sys2Proof.Machine

theorem bothBanks_frame {M : Nat} {s0 s : State} {x1 x2} (h : Frame M s0 s)
    (hm : sub 0x200c M = true) : Frame M s0 (bothBanks s x1 x2) := by
  unfold bothBanks
  repeat' first
    | exact fun h => Table.rising_put h
    | exact fun h => Table.rising_erase h
    | exact fun h => Table.rising_filter h
    | exact fun h => Table.rising_putAll h
    | exact fun _ => rfl
    | exact fun h => Table.rising_putAll (Table.rising_filter h)
    | exact sub_trans rfl hm
    | with_reducible assumption
    | with_reducible apply State.wr_frame
    | with_reducible apply gateOpens_frame
    | exact has_any rfl hm
    | (intro x; refine (?_ : Frame M s0 x → _) ?_; (intro hx; clear_value x))
    | (intro x; clear_value x)
    | intro _
    | lift_lets -underBinder
    | with_reducible apply Frame.with_shadow

theorem applyUser_frame {M : Nat} {s0 s : State} {x1} (h : Frame M s0 s)
    (hm : sub 0x814fbc040000000000000000000000000000000000100000000a01238c M = true) : Frame M s0 (applyUser s x1) := by
  unfold applyUser
  repeat' first
    | exact sub_trans rfl hm
    | with_reducible assumption
    | with_reducible apply State.setHdr_frame
    | with_reducible apply bothBanks_frame
    | with_reducible apply watchOff_frame
    | with_reducible apply Frame.ite
    | with_reducible refine Frame.foldl (fun u a hu => ?_) ?_
    | with_reducible refine Frame.foldl_on (get := Prod.fst) (fun u a hu => ?_) ?_
    | with_reducible refine Frame.foldl_on (get := Prod.snd) (fun u a hu => ?_) ?_
    | (intro x; refine (?_ : Frame M s0 x → _) ?_; (intro hx; clear_value x))
    | (intro x; clear_value x)
    | intro _
    | split
    | lift_lets -underBinder

theorem noteUser_frame {M : Nat} {s0 s : State} {x1 x2} (h : Frame M s0 s)
    (hm : sub 0xf80000000000000 M = true) : Frame M s0 (noteUser s x1 x2) := by
  unfold noteUser
  repeat' first
    | exact sub_trans rfl hm
    | with_reducible assumption
    | with_reducible apply State.wr_frame
    | with_reducible apply Frame.ite
    | exact has_DFI_FIRST_REF_REASON rfl hm
    | exact has_DFI_FIRST_REF_RECORD rfl hm
    | exact has_DFI_OK_APPLIED rfl hm
    | exact has_DFI_STAT_APPLIED rfl hm
    | exact has_DFI_STAT_REFUSED rfl hm
    | (intro x; refine (?_ : Frame M s0 x → _) ?_; (intro hx; clear_value x))
    | (intro x; clear_value x)
    | intro _
    | split
    | lift_lets -underBinder

theorem userStep_frame {M : Nat} {s0 s : State} {x1} (h : Frame M s0 s)
    (hm : sub 0x814fbc0400000000000000000000000000000000001f8000000a81238c M = true) : Frame M s0 (userStep s x1) := by
  unfold userStep
  repeat' first
    | exact ⟨Nat.le_refl _, fun _ h => h⟩
    | intro (x : Trust)
    | exact sub_trans rfl hm
    | with_reducible assumption
    | with_reducible apply applyUser_frame
    | with_reducible apply noteUser_frame
    | with_reducible apply Frame.ite
    | (intro x; refine (?_ : Frame M s0 x → _) ?_; (intro hx; clear_value x))
    | (intro x; clear_value x)
    | intro _
    | split
    | lift_lets -underBinder
    | with_reducible apply Frame.with_trust

theorem applyImage_frame {M : Nat} {s0 s : State} (h : Frame M s0 s)
    (hm : sub 0x814fbc0400000000000004100000000000000000001fc000000a81238c M = true) : Frame M s0 (applyImage s) := by
  unfold applyImage
  repeat' first
    | exact sub_trans rfl hm
    | with_reducible assumption
    | with_reducible apply State.wr_frame
    | with_reducible apply extendMr_frame
    | with_reducible apply userStep_frame
    | with_reducible apply Frame.ite
    | with_reducible refine Frame.foldl (fun u a hu => ?_) ?_
    | with_reducible refine Frame.foldl_on (get := Prod.fst) (fun u a hu => ?_) ?_
    | with_reducible refine Frame.foldl_on (get := Prod.snd) (fun u a hu => ?_) ?_
    | exact has_DFI_STAT_STATE rfl hm
    | (intro x; refine (?_ : Frame M s0 x → _) ?_; (intro hx; clear_value x))
    | (intro x; clear_value x)
    | intro _
    | split
    | lift_lets -underBinder

theorem resetCommand_frame {M : Nat} {s0 s : State} {x1 x2} (h : Frame M s0 s)
    (hm : sub 0x814fbc040000000000000000000000000000000000000000000a810380 M = true) : Frame M s0 (resetCommand s x1 x2).2 := by
  unfold resetCommand
  repeat' first
    | exact ⟨Nat.le_refl _, fun _ h => h⟩
    | intro (x : Trust)
    | exact sub_trans rfl hm
    | with_reducible assumption
    | with_reducible apply refuse_frame
    | with_reducible apply Frame.ite
    | split
    | dsimp only
    | with_reducible apply Frame.with_trust

theorem resetCommand_frame_eq {M : Nat} {s0 s : State} {x1 x2} {a0 t} (e : resetCommand s x1 x2 = (a0, t)) (h : Frame M s0 s)
    (hm : sub 0x814fbc040000000000000000000000000000000000000000000a810380 M = true) : Frame M s0 t := by
  have := resetCommand_frame (x1 := x1) (x2 := x2) h hm
  rwa [e] at this

theorem execReset_frame {M : Nat} {s0 s : State} {x0 x1} (h : Frame M s0 s)
    (hm : sub 0x814fbc040000000000000000000000000000000000000000000a810380 M = true) : FrameR M s0 (execReset x0 x1 s) := by
  unfold execReset
  repeat' first
    | exact sub_trans rfl hm
    | with_reducible assumption
    | with_reducible apply FrameR.of_next
    | with_reducible apply FrameR.whenOk
    | with_reducible apply resetCommand_frame
    | with_reducible apply resetCommand_frame_eq (by assumption)

theorem deviceReset_frame {M : Nat} {s0 s : State} {x1 x2} (h : Frame M s0 s)
    (hm : sub 0x200000000000008140000000000000000000000000021ffffffe M = true) : Frame M s0 (deviceReset s x1 x2) := by
  unfold deviceReset
  repeat' first
    | exact ⟨Nat.le_refl _, fun _ h => h⟩
    | intro (x : Trust)
    | exact sub_trans rfl hm
    | with_reducible assumption
    | with_reducible apply bareState_frame
    | with_reducible apply showFuses_frame
    | with_reducible apply State.wr_frame
    | exact has_DEV_STAT_CAUSE rfl hm
    | exact has_TB_SYNC_LOADED rfl hm
    | (intro x; refine (?_ : Frame M s0 x → _) ?_; (intro hx; clear_value x))
    | (intro x; clear_value x)
    | intro _
    | lift_lets -underBinder
    | with_reducible apply Frame.with_tick_trust

theorem execDeviceReset_frame {M : Nat} {s0 s : State} (h : Frame M s0 s)
    (hm : sub 0x200000000000008140000000000000000000000000021ffffffe M = true) : FrameR M s0 (execDeviceReset s) := by
  unfold execDeviceReset
  repeat' first
    | exact sub_trans rfl hm
    | with_reducible assumption
    | with_reducible apply FrameR.of_next
    | with_reducible apply FrameR.whenOk
    | with_reducible apply deviceReset_frame
    | split

theorem execPowerEnable_frame {M : Nat} {s0 s : State} (h : Frame M s0 s)
    (hm : sub 0x1000000 M = true) : FrameR M s0 (execPowerEnable s) := by
  unfold execPowerEnable
  repeat' first
    | exact sub_trans rfl hm
    | with_reducible assumption
    | with_reducible apply FrameR.of_next
    | with_reducible apply FrameR.whenOk
    | with_reducible apply Frame.with_pwr

theorem powerOn_frame {M : Nat} {s0 s : State} (h : Frame M s0 s)
    (hm : sub 0x8140000000000000000000000000001ffffffe M = true) : Frame M s0 (powerOn s) := by
  unfold powerOn
  repeat' first
    | exact sub_trans rfl hm
    | with_reducible assumption
    | with_reducible apply showFuses_frame
    | with_reducible apply bareState_frame

theorem execPowerGood_frame {M : Nat} {s0 s : State} (h : Frame M s0 s)
    (hm : sub 0x8140000000000000000000000000001ffffffe M = true) : FrameR M s0 (execPowerGood s) := by
  unfold execPowerGood
  repeat' first
    | exact sub_trans rfl hm
    | with_reducible assumption
    | with_reducible apply FrameR.of_next
    | with_reducible apply FrameR.whenOk
    | with_reducible apply powerOn_frame

theorem execPowerOff_frame {M : Nat} {s0 s : State} (h : Frame M s0 s)
    (hm : sub 0x1ffffffe M = true) : FrameR M s0 (execPowerOff s) := by
  unfold execPowerOff
  repeat' first
    | exact sub_trans rfl hm
    | with_reducible assumption
    | with_reducible apply FrameR.of_next
    | with_reducible apply FrameR.whenOk
    | with_reducible apply offState_frame

theorem enterRecovery_frame {M : Nat} {s0 s : State} {x1} (h : Frame M s0 s)
    (hm : sub 0x814fbc040000000000000498000000000000000000000000010a810380 M = true) : Frame M s0 (enterRecovery s x1) := by
  unfold enterRecovery
  repeat' first
    | exact sub_trans rfl hm
    | with_reducible assumption
    | with_reducible apply State.wr_frame
    | with_reducible apply extendMr_frame
    | exact has_DEV_STAT_STATE rfl hm
    | exact has_SEC_STAT_BOOT_ERR rfl hm
    | exact has_SEC_STAT_RECOVERY rfl hm
    | (intro x; refine (?_ : Frame M s0 x → _) ?_; (intro hx; clear_value x))
    | (intro x; clear_value x)
    | intro _
    | lift_lets -underBinder

theorem romStage_frame {M : Nat} {s0 s : State} (h : Frame M s0 s)
    (hm : sub 0x814fbc040000000000008550000000000000000000000000610a810380 M = true) : Frame M s0 (romStage s) := by
  unfold romStage
  repeat' first
    | exact sub_trans rfl hm
    | with_reducible assumption
    | with_reducible apply extendMr_frame
    | with_reducible apply State.wr_frame
    | with_reducible apply showFuses_frame
    | exact has_CLK_REF_PLL_LOCK rfl hm
    | exact has_CLK_REF_REF_OK rfl hm
    | exact has_DEV_STAT_STATE rfl hm
    | (intro x; refine (?_ : Frame M s0 x → _) ?_; (intro hx; clear_value x))
    | (intro x; clear_value x)
    | intro _
    | lift_lets -underBinder

theorem execRomStage_frame {M : Nat} {s0 s : State} (h : Frame M s0 s)
    (hm : sub 0x814fbc040000000000008550000000000000000000000000610a810380 M = true) : FrameR M s0 (execRomStage s) := by
  unfold execRomStage
  repeat' first
    | exact sub_trans rfl hm
    | with_reducible assumption
    | with_reducible apply FrameR.of_next
    | with_reducible apply FrameR.whenOk
    | with_reducible apply romStage_frame

theorem verifyStage_frame {M : Nat} {s0 s : State} (h : Frame M s0 s)
    (hm : sub 0x814fbc040000000000000698000000000000000000000000010a810380 M = true) : Frame M s0 (verifyStage s) := by
  unfold verifyStage
  repeat' first
    | exact sub_trans rfl hm
    | with_reducible assumption
    | with_reducible apply State.wr_frame
    | with_reducible apply extendMr_frame
    | with_reducible apply enterRecovery_frame
    | with_reducible apply Frame.ite
    | exact has_DEV_STAT_STATE rfl hm
    | exact has_SEC_SVN_SVN_RUN rfl hm
    | (intro x; refine (?_ : Frame M s0 x → _) ?_; (intro hx; clear_value x))
    | (intro x; clear_value x)
    | intro _
    | split
    | lift_lets -underBinder

theorem execVerifyStage_frame {M : Nat} {s0 s : State} (h : Frame M s0 s)
    (hm : sub 0x814fbc040000000000000698000000000000000000000000010a810380 M = true) : FrameR M s0 (execVerifyStage s) := by
  unfold execVerifyStage
  repeat' first
    | exact sub_trans rfl hm
    | with_reducible assumption
    | with_reducible apply FrameR.of_next
    | with_reducible apply FrameR.whenOk
    | with_reducible apply verifyStage_frame

theorem startCores_frame {M : Nat} {s0 s : State} {x1} (h : Frame M s0 s)
    (hm : sub 0x70000000000000000000000000000000000 M = true) : Frame M s0 (startCores s x1) := by
  unfold startCores
  repeat' first
    | exact sub_trans rfl hm
    | with_reducible assumption
    | with_reducible apply coreRuns_frame
    | with_reducible refine Frame.foldl (fun u a hu => ?_) ?_
    | with_reducible refine Frame.foldl_on (get := Prod.fst) (fun u a hu => ?_) ?_
    | with_reducible refine Frame.foldl_on (get := Prod.snd) (fun u a hu => ?_) ?_
    | (intro x; refine (?_ : Frame M s0 x → _) ?_; (intro hx; clear_value x))
    | (intro x; clear_value x)
    | intro _
    | lift_lets -underBinder

theorem loadStage_frame {M : Nat} {s0 s : State} {x1} (h : Frame M s0 s)
    (hm : sub 0x814fbc04000000000000049f000000000000000000000000010a810380 M = true) : Frame M s0 (loadStage s x1) := by
  unfold loadStage
  repeat' first
    | exact ⟨Nat.le_refl _, fun _ h => h⟩
    | intro (x : Trust)
    | exact sub_trans rfl hm
    | with_reducible assumption
    | with_reducible apply enterRecovery_frame
    | with_reducible apply extendRole_frame
    | with_reducible apply State.wr_frame
    | with_reducible apply startCores_frame
    | with_reducible apply Frame.ite
    | with_reducible refine Frame.foldl (fun u a hu => ?_) ?_
    | with_reducible refine Frame.foldl_on (get := Prod.fst) (fun u a hu => ?_) ?_
    | with_reducible refine Frame.foldl_on (get := Prod.snd) (fun u a hu => ?_) ?_
    | exact has_DEV_STAT_STATE rfl hm
    | (intro x; refine (?_ : Frame M s0 x → _) ?_; (intro hx; clear_value x))
    | (intro x; clear_value x)
    | intro _
    | split
    | lift_lets -underBinder
    | with_reducible apply Frame.with_trust

theorem execLoadStage_frame {M : Nat} {s0 s : State} {x0} (h : Frame M s0 s)
    (hm : sub 0x814fbc04000000000000049f000000000000000000000000010a810380 M = true) : FrameR M s0 (execLoadStage x0 s) := by
  unfold execLoadStage
  repeat' first
    | exact sub_trans rfl hm
    | with_reducible assumption
    | with_reducible apply FrameR.of_next
    | with_reducible apply FrameR.whenOk
    | with_reducible apply loadStage_frame

theorem restoreHours_frame {M : Nat} {s0 s : State} (h : Frame M s0 s)
    (hm : sub 0x18000000000000000000000000000 M = true) : Frame M s0 (restoreHours s) := by
  unfold restoreHours
  repeat' first
    | exact sub_trans rfl hm
    | with_reducible assumption
    | with_reducible apply State.wr_frame
    | exact has_SVC_HOURS_COUNT rfl hm
    | exact has_WEAR_HOT_COUNT rfl hm
    | split

theorem configStage_frame {M : Nat} {s0 s : State} (h : Frame M s0 s)
    (hm : sub 0x118c6000000000000000000000000000800000000000000814fbc5400000000000004100000018000000000001fc000010a813b8c M = true) : Frame M s0 (configStage s) := by
  unfold configStage
  repeat' first
    | exact sub_trans rfl hm
    | with_reducible assumption
    | with_reducible apply settleMaster_frame
    | with_reducible apply restoreHours_frame
    | with_reducible apply State.wr_frame
    | with_reducible apply restoreRepairs_frame
    | with_reducible apply applyImage_frame
    | exact has_DEV_STAT_STATE rfl hm

theorem execConfigStage_frame {M : Nat} {s0 s : State} (h : Frame M s0 s)
    (hm : sub 0x118c6000000000000000000000000000800000000000000814fbc5400000000000004100000018000000000001fc000010a813b8c M = true) : FrameR M s0 (execConfigStage s) := by
  unfold execConfigStage
  repeat' first
    | exact sub_trans rfl hm
    | with_reducible assumption
    | with_reducible apply FrameR.of_next
    | with_reducible apply FrameR.whenOk
    | with_reducible apply configStage_frame

theorem hbmStage_frame {M : Nat} {s0 s : State} {x1} (h : Frame M s0 s)
    (hm : sub 0x1000000000000000000000000000000000000000000000000000000000000000000000000000000000000000000000100000000 M = true) : Frame M s0 (hbmStage s x1) := by
  unfold hbmStage
  repeat' first
    | exact sub_trans rfl hm
    | with_reducible assumption
    | with_reducible apply State.wr_frame
    | with_reducible refine Frame.foldl (fun u a hu => ?_) ?_
    | with_reducible refine Frame.foldl_on (get := Prod.fst) (fun u a hu => ?_) ?_
    | with_reducible refine Frame.foldl_on (get := Prod.snd) (fun u a hu => ?_) ?_
    | exact has_DEV_STAT_STATE rfl hm
    | exact has_HPPR_STEPS_COUNT rfl hm
    | (intro x; refine (?_ : Frame M s0 x → _) ?_; (intro hx; clear_value x))
    | (intro x; clear_value x)
    | intro _
    | lift_lets -underBinder

theorem execHbmStage_frame {M : Nat} {s0 s : State} {x0} (h : Frame M s0 s)
    (hm : sub 0x1000000000000000000000000000000000000000000000000000000000000000000000000000000000000000000000100000000 M = true) : FrameR M s0 (execHbmStage x0 s) := by
  unfold execHbmStage
  repeat' first
    | exact sub_trans rfl hm
    | with_reducible assumption
    | with_reducible apply FrameR.of_next
    | with_reducible apply FrameR.whenOk
    | with_reducible apply hbmStage_frame

theorem becomeReady_frame {M : Nat} {s0 s : State} (h : Frame M s0 s)
    (hm : sub 0x814fbf040000000000000000000000000000000000000000054a410380 M = true) : Frame M s0 (becomeReady s) := by
  unfold becomeReady
  repeat' first
    | exact sub_trans rfl hm
    | with_reducible assumption
    | with_reducible apply State.wr_frame
    | with_reducible apply raise_frame
    | with_reducible apply endMeasure_frame
    | exact has_DEV_STAT_BOOT_MS rfl hm
    | exact has_DEV_STAT_STATE rfl hm
    | (intro x; refine (?_ : Frame M s0 x → _) ?_; (intro hx; clear_value x))
    | (intro x; clear_value x)
    | intro _
    | lift_lets -underBinder

theorem execDevReady_frame {M : Nat} {s0 s : State} (h : Frame M s0 s)
    (hm : sub 0x814fbf040000000000000000000000000000000000000000054a410380 M = true) : FrameR M s0 (execDevReady s) := by
  unfold execDevReady
  repeat' first
    | exact sub_trans rfl hm
    | with_reducible assumption
    | with_reducible apply FrameR.of_next
    | with_reducible apply FrameR.whenOk
    | with_reducible apply becomeReady_frame

theorem entropySample_frame {M : Nat} {s0 s : State} {x1} (h : Frame M s0 s)
    (hm : sub 0x814fbc040000000000000020000000000000000000000000000a810380 M = true) : Frame M s0 (entropySample s x1) := by
  unfold entropySample
  repeat' first
    | exact ⟨Nat.le_refl _, fun _ h => h⟩
    | intro (x : Trust)
    | exact sub_trans rfl hm
    | with_reducible assumption
    | with_reducible apply State.wr_frame
    | with_reducible apply raise_frame
    | with_reducible apply Frame.ite
    | exact has_SEC_STAT_RNG_FAIL rfl hm
    | (intro x; refine (?_ : Frame M s0 x → _) ?_; (intro hx; clear_value x))
    | (intro x; clear_value x)
    | intro _
    | split
    | lift_lets -underBinder
    | with_reducible apply Frame.with_trust

theorem execEntropySample_frame {M : Nat} {s0 s : State} {x0} (h : Frame M s0 s)
    (hm : sub 0x814fbc040000000000000020000000000000000000000000000a810380 M = true) : FrameR M s0 (execEntropySample x0 s) := by
  unfold execEntropySample
  repeat' first
    | exact sub_trans rfl hm
    | with_reducible assumption
    | with_reducible apply FrameR.of_next
    | with_reducible apply FrameR.whenOk
    | with_reducible apply entropySample_frame

end Sys2Proof.Machine
end

