-- ==== Sys2Proof/Laws/FrameHaulDown.lean ====
section
/-! SUPPORT. Frame lemmas for the functions of Machine/HaulDown.lean. -/

set_option Elab.async false
set_option linter.all false

namespace Sys2Proof.Machine

theorem haulCommand_frame {M : Nat} {s0 s : State} {x1 x2} (h : Frame M s0 s)
    (hm : sub 0x14fbc0000000000000000000000000000000000000000000002010000 M = true) : Frame M s0 (haulCommand s x1 x2) := by
  unfold haulCommand
  repeat' first
    | exact sub_trans rfl hm
    | with_reducible assumption
    | with_reducible apply haulTrigger_frame

theorem execHaul_frame {M : Nat} {s0 s : State} {x0 x1} (h : Frame M s0 s)
    (hm : sub 0x14fbc0000000000000000000000000000000000000000000002010000 M = true) : FrameR M s0 (execHaul x0 x1 s) := by
  unfold execHaul
  repeat' first
    | exact sub_trans rfl hm
    | with_reducible assumption
    | with_reducible apply FrameR.of_next
    | with_reducible apply FrameR.whenOk
    | with_reducible apply haulCommand_frame

theorem lateCut_frame {M : Nat} {s0 s : State} {y0} (h : Frame M s0 s)
    (hm : sub 0x854fbc040000000000000000000000000000000000000000000a010380 M = true) : Frame M s0 (lateCut y0 s) := by
  unfold lateCut
  repeat' first
    | exact sub_trans rfl hm
    | with_reducible assumption
    | with_reducible apply raise_frame
    | with_reducible apply State.bump_frame
    | with_reducible apply State.wr_frame
    | with_reducible apply Frame.ite
    | exact has_HD_STAT_LATE rfl hm
    | exact has_LATE_CUTS_COUNT rfl hm
    | split

theorem acceptHaul_frame {M : Nat} {s0 s : State} {x1 x2 x3} (h : Frame M s0 s)
    (hm : sub 0x854fbc040000000000000000000000000000000000000000000a010380 M = true) : Frame M s0 (acceptHaul s x1 x2 x3) := by
  unfold acceptHaul
  repeat' first
    | exact sub_trans rfl hm
    | with_reducible assumption
    | with_reducible apply haulAt_frame
    | with_reducible apply lateCut_frame
    | with_reducible apply Frame.ite
    | split

theorem takeHaul_frame {M : Nat} {s0 s : State} {x1 x2 x3 x4 x5} (h : Frame M s0 s)
    (hm : sub 0x874fbc040000000000000000000000000000000000000000000a010380 M = true) : Frame M s0 (takeHaul s x1 x2 x3 x4 x5) := by
  unfold takeHaul
  repeat' first
    | exact sub_trans rfl hm
    | with_reducible assumption
    | with_reducible apply State.flood_frame
    | with_reducible apply rememberHaul_frame
    | with_reducible apply acceptHaul_frame
    | with_reducible apply State.bump_frame
    | with_reducible apply Frame.ite
    | exact has_HAUL_OTHER_COUNT rfl hm
    | (intro x; refine (?_ : Frame M s0 x → _) ?_; (intro hx; clear_value x))
    | (intro x; clear_value x)
    | intro _
    | split
    | lift_lets -underBinder

theorem execHaulMsg_frame {M : Nat} {s0 s : State} {x0 x1 x2 x3 x4} (h : Frame M s0 s)
    (hm : sub 0x874fbc040000000000000000000000000000000000000000000a010380 M = true) : FrameR M s0 (execHaulMsg x0 x1 x2 x3 x4 s) := by
  unfold execHaulMsg
  repeat' first
    | exact sub_trans rfl hm
    | with_reducible assumption
    | with_reducible apply FrameR.of_next
    | with_reducible apply FrameR.whenOk
    | with_reducible apply takeHaul_frame

theorem sendMarker_frame {M : Nat} {s0 s : State} {x1 x2} (h : Frame M s0 s)
    (hm : sub 0x10000 M = true) : Frame M s0 (sendMarker s x1 x2) := by
  unfold sendMarker
  repeat' first
    | exact sub_trans rfl hm
    | with_reducible assumption
    | with_reducible apply queueLink_frame

theorem openCaptures_frame {M : Nat} {s0 s : State} (h : Frame M s0 s)
    (hm : sub 0x2000000 M = true) : Frame M s0 (openCaptures s) := by
  unfold openCaptures
  repeat' first
    | exact sub_trans rfl hm
    | with_reducible assumption
    | (intro x; refine (?_ : Frame M s0 x → _) ?_; (intro hx; clear_value x))
    | (intro x; clear_value x)
    | intro _
    | lift_lets -underBinder
    | with_reducible apply Frame.with_hd

theorem cutNow_frame {M : Nat} {s0 s : State} {x1} (h : Frame M s0 s)
    (hm : sub 0x81cfbc040000000000000000000000000000000000003000000a010382 M = true) : Frame M s0 (cutNow s x1) := by
  unfold cutNow
  repeat' first
    | exact sub_trans rfl hm
    | with_reducible assumption
    | with_reducible apply State.bump_frame
    | with_reducible apply State.wr_frame
    | with_reducible apply State.passTo_frame
    | with_reducible apply traceAll_frame
    | with_reducible apply raise_frame
    | with_reducible apply scanIfClosed_frame
    | with_reducible apply openCaptures_frame
    | with_reducible apply sendMarker_frame
    | with_reducible refine Frame.foldl (fun u a hu => ?_) ?_
    | with_reducible refine Frame.foldl_on (get := Prod.fst) (fun u a hu => ?_) ?_
    | with_reducible refine Frame.foldl_on (get := Prod.snd) (fun u a hu => ?_) ?_
    | exact has_HAULS_COUNT rfl hm
    | exact has_HD_STAT_STATE rfl hm
    | (intro x; refine (?_ : Frame M s0 x → _) ?_; (intro hx; clear_value x))
    | (intro x; clear_value x)
    | intro _
    | lift_lets -underBinder

theorem execHaulCut_frame {M : Nat} {s0 s : State} (h : Frame M s0 s)
    (hm : sub 0x81cfbc040000000000000000000000000000000000003000000a010382 M = true) : FrameR M s0 (execHaulCut s) := by
  unfold execHaulCut
  repeat' first
    | exact sub_trans rfl hm
    | with_reducible assumption
    | with_reducible apply FrameR.of_next
    | with_reducible apply FrameR.whenOk
    | with_reducible apply cutNow_frame

theorem takeMarker_frame {M : Nat} {s0 s : State} {x1 x2} (h : Frame M s0 s)
    (hm : sub 0x40000000000000000000000000000000000000000000002000000 M = true) : Frame M s0 (takeMarker s x1 x2) := by
  unfold takeMarker
  repeat' first
    | exact sub_trans rfl hm
    | with_reducible assumption
    | with_reducible apply closeIfReached_frame
    | with_reducible apply Frame.ite
    | split
    | with_reducible apply Frame.with_hd

theorem execCutMarker_frame {M : Nat} {s0 s : State} {x0 x1 x2} (h : Frame M s0 s)
    (hm : sub 0x40000000000000000000000000000000000000000000002000000 M = true) : FrameR M s0 (execCutMarker x0 x1 x2 s) := by
  unfold execCutMarker
  repeat' first
    | exact sub_trans rfl hm
    | with_reducible assumption
    | with_reducible apply FrameR.of_next
    | with_reducible apply FrameR.whenOk
    | with_reducible apply takeMarker_frame

theorem timeOutCapture_frame {M : Nat} {s0 s : State} {x1} (h : Frame M s0 s)
    (hm : sub 0x894fbc040000000000000000000000000000000000000000000a010380 M = true) : Frame M s0 (timeOutCapture s x1) := by
  unfold timeOutCapture
  repeat' first
    | exact sub_trans rfl hm
    | with_reducible assumption
    | with_reducible apply State.wr_frame
    | with_reducible apply raise_frame
    | with_reducible apply State.bump_frame
    | exact has_HD_LINES_OPEN_LINES rfl hm
    | exact has_HD_STAT_INCOMPLETE rfl hm
    | exact has_MARK_TIMEOUTS_COUNT rfl hm
    | (intro x; refine (?_ : Frame M s0 x → _) ?_; (intro hx; clear_value x))
    | (intro x; clear_value x)
    | intro _
    | lift_lets -underBinder

theorem closeAll_frame {M : Nat} {s0 s : State} (h : Frame M s0 s)
    (hm : sub 0x894fbc040000000000000000000000000000000000003000000a010382 M = true) : Frame M s0 (closeAll s) := by
  unfold closeAll
  repeat' first
    | exact sub_trans rfl hm
    | with_reducible assumption
    | with_reducible apply State.passTo_frame
    | with_reducible apply timeOutCapture_frame
    | with_reducible apply scanIfClosed_frame
    | with_reducible refine Frame.foldl (fun u a hu => ?_) ?_
    | with_reducible refine Frame.foldl_on (get := Prod.fst) (fun u a hu => ?_) ?_
    | with_reducible refine Frame.foldl_on (get := Prod.snd) (fun u a hu => ?_) ?_
    | (intro x; refine (?_ : Frame M s0 x → _) ?_; (intro hx; clear_value x))
    | (intro x; clear_value x)
    | intro _
    | lift_lets -underBinder
    | with_reducible apply Frame.with_hd

theorem execMarkTimeout_frame {M : Nat} {s0 s : State} (h : Frame M s0 s)
    (hm : sub 0x894fbc040000000000000000000000000000000000003000000a010382 M = true) : FrameR M s0 (execMarkTimeout s) := by
  unfold execMarkTimeout
  repeat' first
    | exact sub_trans rfl hm
    | with_reducible assumption
    | with_reducible apply FrameR.of_next
    | with_reducible apply FrameR.whenOk
    | with_reducible apply closeAll_frame

theorem copyDump_frame {M : Nat} {s0 s : State} {x1 x2} (h : Frame M s0 s)
    (hm : sub 0x4000ff8000000000000000000000000001d00083237c0814fbc040000000000c000000000101c0000000000000000002a132f80 M = true) : Frame M s0 (copyDump s x1 x2) := by
  rw [copyDump]
  exact storeFor_frame h (sub_trans rfl hm)

theorem writeDump_frame {M : Nat} {s0 s : State} {x1} (h : Frame M s0 s)
    (hm : sub 0x4000ff8000000000000000000000000001d00083237c0814ffc040000000000c000000000101c0000000000000000002a132f9c M = true) : Frame M s0 (writeDump s x1).2 := by
  unfold writeDump
  repeat' first
    | with_reducible refine alsoWhen_frame ?_ (fun u hu => ?_)
    | with_reducible apply andThen_frame
    | with_reducible apply ok_frame
    | with_reducible apply allowed_frame
    | exact sub_trans rfl hm
    | with_reducible assumption
    | with_reducible apply plainWrite_frame
    | with_reducible apply plainWrite_frame_eq (by assumption)
    | with_reducible apply copyDump_frame
    | with_reducible apply State.wr_frame
    | with_reducible apply refuse_frame
    | with_reducible apply Frame.ite
    | exact has_HD_STAT_DUMP_BUSY rfl hm
    | (intro x; refine (?_ : Frame M s0 x → _) ?_; (intro hx; clear_value x))
    | (intro x; clear_value x)
    | intro _
    | split
    | lift_lets -underBinder
    | dsimp only

theorem writeDump_frame_eq {M : Nat} {s0 s : State} {x1} {a0 t} (e : writeDump s x1 = (a0, t)) (h : Frame M s0 s)
    (hm : sub 0x4000ff8000000000000000000000000001d00083237c0814ffc040000000000c000000000101c0000000000000000002a132f9c M = true) : Frame M s0 t := by
  have := writeDump_frame (x1 := x1) h hm
  rwa [e] at this

theorem execHdDump_frame {M : Nat} {s0 s : State} {x0} (h : Frame M s0 s)
    (hm : sub 0x4000ff8000000000000000000000000001d00083237c0814ffc040000000000c000000000101c0000000000000000002a132f9c M = true) : FrameR M s0 (execHdDump x0 s) := by
  unfold execHdDump
  repeat' first
    | exact sub_trans rfl hm
    | with_reducible assumption
    | with_reducible apply FrameR.of_next
    | with_reducible apply FrameR.whenOk
    | with_reducible apply writeDump_frame
    | with_reducible apply writeDump_frame_eq (by assumption)

theorem execDumpDone_frame {M : Nat} {s0 s : State} (h : Frame M s0 s)
    (hm : sub 0x400000000000000000000000000000000000000000000000000000 M = true) : FrameR M s0 (execDumpDone s) := by
  unfold execDumpDone
  repeat' first
    | exact sub_trans rfl hm
    | with_reducible assumption
    | with_reducible apply FrameR.of_next
    | with_reducible apply FrameR.whenOk
    | with_reducible apply State.wr_frame
    | exact has_HD_STAT_DUMP_BUSY rfl hm

theorem rememberRelease_frame {M : Nat} {s0 s : State} {x1 x2} (h : Frame M s0 s)
    (hm : sub 0x2000000 M = true) : Frame M s0 (rememberRelease s x1 x2) := by
  unfold rememberRelease
  repeat' first
    | exact sub_trans rfl hm
    | with_reducible assumption
    | with_reducible apply Frame.with_hd

theorem setResume_frame {M : Nat} {s0 s : State} {x1} (h : Frame M s0 s)
    (hm : sub 0x40000000000000000000000000000000000000000000002000000 M = true) : Frame M s0 (setResume s x1) := by
  unfold setResume
  repeat' first
    | exact sub_trans rfl hm
    | with_reducible assumption
    | with_reducible apply State.wr_frame
    | exact has_HD_STAT_STATE rfl hm
    | with_reducible apply Frame.with_hd

theorem releaseCommand_frame {M : Nat} {s0 s : State} {x1} (h : Frame M s0 s)
    (hm : sub 0x814fbc040000000000000000000000000000000000000000000a010380 M = true) : Frame M s0 (releaseCommand s x1).2 := by
  unfold releaseCommand
  repeat' first
    | exact sub_trans rfl hm
    | with_reducible assumption
    | with_reducible apply refuse_frame
    | with_reducible apply setResume_frame
    | with_reducible apply State.flood_frame
    | with_reducible apply rememberRelease_frame
    | with_reducible apply Frame.ite
    | (intro x; refine (?_ : Frame M s0 x → _) ?_; (intro hx; clear_value x))
    | (intro x; clear_value x)
    | intro _
    | split
    | lift_lets -underBinder
    | dsimp only

theorem releaseCommand_frame_eq {M : Nat} {s0 s : State} {x1} {a0 t} (e : releaseCommand s x1 = (a0, t)) (h : Frame M s0 s)
    (hm : sub 0x814fbc040000000000000000000000000000000000000000000a010380 M = true) : Frame M s0 t := by
  have := releaseCommand_frame (x1 := x1) h hm
  rwa [e] at this

theorem execRelease_frame {M : Nat} {s0 s : State} {x0} (h : Frame M s0 s)
    (hm : sub 0x814fbc040000000000000000000000000000000000000000000a010380 M = true) : FrameR M s0 (execRelease x0 s) := by
  unfold execRelease
  repeat' first
    | exact sub_trans rfl hm
    | with_reducible assumption
    | with_reducible apply FrameR.of_next
    | with_reducible apply FrameR.whenOk
    | with_reducible apply releaseCommand_frame
    | with_reducible apply releaseCommand_frame_eq (by assumption)

theorem acceptRelease_frame {M : Nat} {s0 s : State} {x1} (h : Frame M s0 s)
    (hm : sub 0x914fbc040000000000000000000000000000000000000000000a010380 M = true) : Frame M s0 (acceptRelease s x1) := by
  unfold acceptRelease
  repeat' first
    | exact sub_trans rfl hm
    | with_reducible assumption
    | with_reducible apply setResume_frame
    | with_reducible apply raise_frame
    | with_reducible apply State.bump_frame
    | with_reducible apply Frame.ite
    | exact has_LATE_RELEASES_COUNT rfl hm
    | split

theorem takeRelease_frame {M : Nat} {s0 s : State} {x1 x2 x3} (h : Frame M s0 s)
    (hm : sub 0x914fbc040000000000000000000000000000000000000000000a010380 M = true) : Frame M s0 (takeRelease s x1 x2 x3) := by
  unfold takeRelease
  repeat' first
    | exact sub_trans rfl hm
    | with_reducible assumption
    | with_reducible apply State.flood_frame
    | with_reducible apply rememberRelease_frame
    | with_reducible apply acceptRelease_frame
    | with_reducible apply Frame.ite
    | (intro x; refine (?_ : Frame M s0 x → _) ?_; (intro hx; clear_value x))
    | (intro x; clear_value x)
    | intro _
    | split
    | lift_lets -underBinder

theorem execReleaseMsg_frame {M : Nat} {s0 s : State} {x0 x1 x2} (h : Frame M s0 s)
    (hm : sub 0x914fbc040000000000000000000000000000000000000000000a010380 M = true) : FrameR M s0 (execReleaseMsg x0 x1 x2 s) := by
  unfold execReleaseMsg
  repeat' first
    | exact sub_trans rfl hm
    | with_reducible assumption
    | with_reducible apply FrameR.of_next
    | with_reducible apply FrameR.whenOk
    | with_reducible apply takeRelease_frame

theorem shiftTicks_frame {M : Nat} {s0 s : State} {x1} (h : Frame M s0 s)
    (hm : sub 0xa7000 M = true) : Frame M s0 (shiftTicks s x1) := by
  unfold shiftTicks
  repeat' first
    | exact sub_trans rfl hm
    | with_reducible assumption
    | with_reducible apply Frame.ite
    | (intro x; refine (?_ : Frame M s0 x → _) ?_; (intro hx; clear_value x))
    | (intro x; clear_value x)
    | intro _
    | split
    | lift_lets -underBinder
    | with_reducible apply Frame.with_kites_step_seqs_winch_sc

theorem dropOpenLines_frame {M : Nat} {s0 s : State} (h : Frame M s0 s)
    (hm : sub 0x80184000ff8000000000000000000000000001d000832b7c0814fbc4c0000000020c000000007f41c0000000000000000002a132f80 M = true) : Frame M s0 (dropOpenLines s) := by
  unfold dropOpenLines
  repeat' first
    | exact sub_trans rfl hm
    | with_reducible assumption
    | with_reducible apply lineGoesDown_frame
    | with_reducible refine Frame.foldl (fun u a hu => ?_) ?_
    | with_reducible refine Frame.foldl_on (get := Prod.fst) (fun u a hu => ?_) ?_
    | with_reducible refine Frame.foldl_on (get := Prod.snd) (fun u a hu => ?_) ?_
    | (intro x; refine (?_ : Frame M s0 x → _) ?_; (intro hx; clear_value x))
    | (intro x; clear_value x)
    | intro _
    | lift_lets -underBinder

theorem heldStop_frame {M : Nat} {s0 s : State} (h : Frame M s0 s)
    (hm : sub 0x814fbc040000000000000000000010000000000000000000002a012380 M = true) : Frame M s0 (heldStop s) := by
  unfold heldStop
  repeat' first
    | exact sub_trans rfl hm
    | with_reducible assumption
    | with_reducible apply stopStep_frame
    | with_reducible apply Frame.ite
    | split
    | with_reducible apply Frame.with_hd

theorem resumeAt_frame {M : Nat} {s0 s : State} {x1} (h : Frame M s0 s)
    (hm : sub 0x80184000ff8000000000000000000000000001d000832b7c0817fbc4c0000000020c000000007f41c0000000000003000002a1b7f82 M = true) : Frame M s0 (resumeAt s x1) := by
  unfold resumeAt
  repeat' first
    | exact sub_trans rfl hm
    | with_reducible assumption
    | with_reducible apply shiftTicks_frame
    | with_reducible apply State.passTo_frame
    | with_reducible apply State.wr64_frame
    | with_reducible apply State.wr_frame
    | with_reducible apply traceAll_frame
    | with_reducible apply raise_frame
    | with_reducible apply heldStop_frame
    | with_reducible apply dropOpenLines_frame
    | exact has_HD_RESUMED_HI rfl hm
    | exact has_HD_RESUMED_LO rfl hm
    | exact has_HD_STAT_STATE rfl hm
    | (intro x; refine (?_ : Frame M s0 x → _) ?_; (intro hx; clear_value x))
    | (intro x; clear_value x)
    | intro _
    | lift_lets -underBinder

theorem execReleaseTick_frame {M : Nat} {s0 s : State} (h : Frame M s0 s)
    (hm : sub 0x80184000ff8000000000000000000000000001d000832b7c0817fbc4c0000000020c000000007f41c0000000000003000002a1b7f82 M = true) : FrameR M s0 (execReleaseTick s) := by
  unfold execReleaseTick
  repeat' first
    | exact sub_trans rfl hm
    | with_reducible assumption
    | with_reducible apply FrameR.of_next
    | with_reducible apply FrameR.whenOk
    | with_reducible apply resumeAt_frame

theorem idleSlot_frame {M : Nat} {s0 s : State} {x1} (h : Frame M s0 s)
    (hm : sub 0x8007fe000007800000003800000000000000814fbc040000000000000000000000000000000000000000000a011380 M = true) : Frame M s0 (idleSlot s x1) := by
  unfold idleSlot
  repeat' first
    | exact sub_trans rfl hm
    | with_reducible assumption
    | with_reducible apply State.setKite_frame
    | with_reducible apply endStop_frame
    | with_reducible apply faultClear_frame
    | with_reducible apply discardEnvelope_frame
    | with_reducible apply State.wr_frame
    | with_reducible apply Frame.ite
    | exact has_KITE_STATE_STATE rfl hm
    | (intro x; refine (?_ : Frame M s0 x → _) ?_; (intro hx; clear_value x))
    | (intro x; clear_value x)
    | intro _
    | split
    | lift_lets -underBinder

theorem idleTrain_frame {M : Nat} {s0 s : State} {x1} (h : Frame M s0 s)
    (hm : sub 0xdaf883300000000000000000000000000000000000000000000000000000000064000 M = true) : Frame M s0 (idleTrain s x1) := by
  unfold idleTrain
  repeat' first
    | exact sub_trans rfl hm
    | with_reducible assumption
    | with_reducible apply clearNan_frame
    | with_reducible apply clearWinchFault_frame
    | with_reducible apply State.setSeq_frame
    | with_reducible apply restartWinch_frame
    | with_reducible apply State.setBurner_frame
    | with_reducible apply clearBurnFault_frame
    | with_reducible apply State.wr_frame
    | exact has_BN_STAT_BUSY rfl hm
    | exact has_BN_STAT_PHASE rfl hm
    | (intro x; refine (?_ : Frame M s0 x → _) ?_; (intro hx; clear_value x))
    | (intro x; clear_value x)
    | intro _
    | lift_lets -underBinder

theorem idleGovernor_frame {M : Nat} {s0 s : State} (h : Frame M s0 s)
    (hm : sub 0x200000c000000000008000 M = true) : Frame M s0 (idleGovernor s) := by
  unfold idleGovernor
  repeat' first
    | exact sub_trans rfl hm
    | with_reducible assumption
    | with_reducible apply State.wr_frame
    | with_reducible apply State.setGov_frame
    | exact has_GOV_STAT_STATS_PHASE rfl hm
    | exact has_GOV_STAT_TABLE_PHASE rfl hm
    | exact has_PT_PEND_PENDING rfl hm
    | (intro x; refine (?_ : Frame M s0 x → _) ?_; (intro hx; clear_value x))
    | (intro x; clear_value x)
    | intro _
    | lift_lets -underBinder

theorem idlePlan_frame {M : Nat} {s0 s : State} (h : Frame M s0 s)
    (hm : sub 0x1010000000000000004002000 M = true) : Frame M s0 (idlePlan s) := by
  unfold idlePlan
  repeat' first
    | exact sub_trans rfl hm
    | with_reducible assumption
    | with_reducible apply State.wr_frame
    | exact has_PLAN_STAT_STATE rfl hm
    | exact has_STEP_STAT_STATE rfl hm
    | (intro x; refine (?_ : Frame M s0 x → _) ?_; (intro hx; clear_value x))
    | (intro x; clear_value x)
    | intro _
    | lift_lets -underBinder
    | with_reducible apply Frame.with_step_plan

theorem idlePartition_frame {M : Nat} {s0 s : State} (h : Frame M s0 s)
    (hm : sub 0x20000000000400000000800000000000000814fbc04013c780c00000000000000000000000000000000000a090380 M = true) : Frame M s0 (idlePartition s) := by
  unfold idlePartition
  repeat' first
    | exact sub_trans rfl hm
    | with_reducible assumption
    | with_reducible apply faultBatch_frame
    | with_reducible apply State.wr_frame
    | with_reducible refine Frame.foldl (fun u a hu => ?_) ?_
    | with_reducible refine Frame.foldl_on (get := Prod.fst) (fun u a hu => ?_) ?_
    | with_reducible refine Frame.foldl_on (get := Prod.snd) (fun u a hu => ?_) ?_
    | exact has_SC_FAULT_CODE rfl hm
    | exact has_SC_FAULT_KITE rfl hm
    | exact has_SC_FAULT_SLOT rfl hm
    | exact has_SC_STAT_V_BUSY rfl hm
    | exact has_SC_STAT_WL_BUSY rfl hm
    | (intro x; refine (?_ : Frame M s0 x → _) ?_; (intro hx; clear_value x))
    | (intro x; clear_value x)
    | intro _
    | split
    | lift_lets -underBinder
    | with_reducible apply Frame.with_sc

theorem idleRecovery_frame {M : Nat} {s0 s : State} (h : Frame M s0 s)
    (hm : sub 0x800000000000003814fbc040200000000c00000000000000000000000000000000a191388 M = true) : Frame M s0 (idleRecovery s) := by
  unfold idleRecovery
  repeat' first
    | exact sub_trans rfl hm
    | with_reducible assumption
    | with_reducible apply repairSwaps_frame
    | (intro x; refine (?_ : Frame M s0 x → _) ?_; (intro hx; clear_value x))
    | (intro x; clear_value x)
    | intro _
    | lift_lets -underBinder
    | with_reducible apply Frame.with_recov

theorem abandonCut_frame {M : Nat} {s0 s : State} (h : Frame M s0 s)
    (hm : sub 0x80184000ff8008207fe000007c000000038001daf8833b7c3814fbc4c033c780c20c000000007f41c0101200000c00000002e1fff88 M = true) : Frame M s0 (abandonCut s) := by
  unfold abandonCut
  repeat' first
    | exact sub_trans rfl hm
    | with_reducible assumption
    | with_reducible apply idleTrain_frame
    | with_reducible apply idleSlot_frame
    | with_reducible apply idlePlan_frame
    | with_reducible apply idleGovernor_frame
    | with_reducible apply idlePartition_frame
    | with_reducible apply idleRecovery_frame
    | with_reducible apply dropTransfers_frame
    | with_reducible apply dropOpenLines_frame
    | with_reducible apply restartLine_frame
    | with_reducible apply State.wr_frame
    | with_reducible refine Frame.foldl (fun u a hu => ?_) ?_
    | with_reducible refine Frame.foldl_on (get := Prod.fst) (fun u a hu => ?_) ?_
    | with_reducible refine Frame.foldl_on (get := Prod.snd) (fun u a hu => ?_) ?_
    | exact has_HD_STAT_STATE rfl hm
    | (intro x; refine (?_ : Frame M s0 x → _) ?_; (intro hx; clear_value x))
    | (intro x; clear_value x)
    | intro _
    | lift_lets -underBinder
    | with_reducible apply Frame.with_hd

theorem abandonCommand_frame {M : Nat} {s0 s : State} (h : Frame M s0 s)
    (hm : sub 0x80184000ff8008207fe000007c000000038001daf8833b7c3814fbc4c033c780c20c000000007f41c0101200000c00000002e1fff88 M = true) : Frame M s0 (abandonCommand s).2 := by
  unfold abandonCommand
  repeat' first
    | exact sub_trans rfl hm
    | with_reducible assumption
    | with_reducible apply abandonCut_frame
    | with_reducible apply refuse_frame
    | with_reducible apply Frame.ite
    | split
    | dsimp only

theorem abandonCommand_frame_eq {M : Nat} {s0 s : State} {a0 t} (e : abandonCommand s = (a0, t)) (h : Frame M s0 s)
    (hm : sub 0x80184000ff8008207fe000007c000000038001daf8833b7c3814fbc4c033c780c20c000000007f41c0101200000c00000002e1fff88 M = true) : Frame M s0 t := by
  have := abandonCommand_frame  h hm
  rwa [e] at this

theorem execAbandon_frame {M : Nat} {s0 s : State} (h : Frame M s0 s)
    (hm : sub 0x80184000ff8008207fe000007c000000038001daf8833b7c3814fbc4c033c780c20c000000007f41c0101200000c00000002e1fff88 M = true) : FrameR M s0 (execAbandon s) := by
  unfold execAbandon
  repeat' first
    | exact sub_trans rfl hm
    | with_reducible assumption
    | with_reducible apply FrameR.of_next
    | with_reducible apply FrameR.whenOk
    | with_reducible apply abandonCommand_frame
    | with_reducible apply abandonCommand_frame_eq (by assumption)

theorem moveHead_frame {M : Nat} {s0 s : State} {x1 x2} (h : Frame M s0 s)
    (hm : sub 0xe14fbc040000000000000000000000000000000000000000001a010380 M = true) : Frame M s0 (moveHead s x1 x2) := by
  unfold moveHead
  repeat' first
    | exact sub_trans rfl hm
    | with_reducible assumption
    | with_reducible apply State.wr_frame
    | with_reducible apply raise_frame
    | with_reducible apply Frame.ite
    | exact has_TR_HEAD_OFFSET rfl hm
    | exact has_TR_HEAD_WRAPPED rfl hm
    | (intro x; refine (?_ : Frame M s0 x → _) ?_; (intro hx; clear_value x))
    | (intro x; clear_value x)
    | intro _
    | split
    | lift_lets -underBinder
    | with_reducible apply Frame.with_traceFull

theorem traceBurst_frame {M : Nat} {s0 s : State} {x1} (h : Frame M s0 s)
    (hm : sub 0x4000ff8000000000000000000000000001d000832b7c0e14fbc040000000000c000000000101c0000000000000000003a132f80 M = true) : Frame M s0 (traceBurst s x1) := by
  unfold traceBurst
  repeat' first
    | exact sub_trans rfl hm
    | with_reducible assumption
    | with_reducible apply storeFor_frame
    | with_reducible apply chargeRange_frame
    | with_reducible apply moveHead_frame
    | (intro x; refine (?_ : Frame M s0 x → _) ?_; (intro hx; clear_value x))
    | (intro x; clear_value x)
    | intro _
    | lift_lets -underBinder
    | with_reducible apply Frame.with_trace

theorem execTraceBurst_frame {M : Nat} {s0 s : State} {x0} (h : Frame M s0 s)
    (hm : sub 0x4000ff8000000000000000000000000001d000832b7c0e14fbc040000000000c000000000101c0000000000000000003a132f80 M = true) : FrameR M s0 (execTraceBurst x0 s) := by
  unfold execTraceBurst
  repeat' first
    | exact sub_trans rfl hm
    | with_reducible assumption
    | with_reducible apply FrameR.of_next
    | with_reducible apply FrameR.whenOk
    | with_reducible apply traceBurst_frame

theorem clearHead_frame {M : Nat} {s0 s : State} {x1} (h : Frame M s0 s)
    (hm : sub 0x6000000000000000000000000000000000000000000000000010000000 M = true) : Frame M s0 (clearHead s x1) := by
  unfold clearHead
  repeat' first
    | exact sub_trans rfl hm
    | with_reducible assumption
    | with_reducible apply State.wr_frame
    | exact has_TR_HEAD_OFFSET rfl hm
    | exact has_TR_HEAD_WRAPPED rfl hm
    | with_reducible apply Frame.with_traceFull

theorem writeTrCtl_frame {M : Nat} {s0 s : State} {x1} (h : Frame M s0 s)
    (hm : sub 0xe14fbc040000000000000000000000000000000000000000001a012b9c M = true) : Frame M s0 (writeTrCtl s x1).2 := by
  unfold writeTrCtl
  repeat' first
    | with_reducible refine alsoWhen_frame ?_ (fun u hu => ?_)
    | with_reducible apply andThen_frame
    | with_reducible apply ok_frame
    | with_reducible apply allowed_frame
    | exact sub_trans rfl hm
    | with_reducible assumption
    | with_reducible apply plainWrite_frame
    | with_reducible apply plainWrite_frame_eq (by assumption)
    | with_reducible apply clearHead_frame
    | with_reducible apply Frame.ite
    | with_reducible refine Frame.foldl (fun u a hu => ?_) ?_
    | with_reducible refine Frame.foldl_on (get := Prod.fst) (fun u a hu => ?_) ?_
    | with_reducible refine Frame.foldl_on (get := Prod.snd) (fun u a hu => ?_) ?_
    | (intro x; refine (?_ : Frame M s0 x → _) ?_; (intro hx; clear_value x))
    | (intro x; clear_value x)
    | intro _
    | split
    | lift_lets -underBinder
    | dsimp only

theorem writeTrCtl_frame_eq {M : Nat} {s0 s : State} {x1} {a0 t} (e : writeTrCtl s x1 = (a0, t)) (h : Frame M s0 s)
    (hm : sub 0xe14fbc040000000000000000000000000000000000000000001a012b9c M = true) : Frame M s0 t := by
  have := writeTrCtl_frame (x1 := x1) h hm
  rwa [e] at this

theorem execTrCtl_frame {M : Nat} {s0 s : State} {x0} (h : Frame M s0 s)
    (hm : sub 0xe14fbc040000000000000000000000000000000000000000001a012b9c M = true) : FrameR M s0 (execTrCtl x0 s) := by
  unfold execTrCtl
  repeat' first
    | exact sub_trans rfl hm
    | with_reducible assumption
    | with_reducible apply FrameR.of_next
    | with_reducible apply FrameR.whenOk
    | with_reducible apply writeTrCtl_frame
    | with_reducible apply writeTrCtl_frame_eq (by assumption)

end Sys2Proof.Machine
end

