-- ==== Sys2Proof/Laws/FramePlanCmd.lean ====
section
/-! SUPPORT. Frame lemmas for the functions of Machine/PlanCmd.lean. -/

set_option Elab.async false
set_option linter.all false

namespace Sys2Proof.Machine

theorem loadCommand_frame {M : Nat} {s0 s : State} (h : Frame M s0 s)
    (hm : sub 0x10000000000000000000000 M = true) : Frame M s0 (loadCommand s).2 := by
  unfold loadCommand
  repeat' first
    | exact sub_trans rfl hm
    | with_reducible assumption
    | with_reducible apply State.wr_frame
    | with_reducible apply Frame.ite
    | exact has_PLAN_STAT_STATE rfl hm
    | split
    | dsimp only

theorem loadCommand_frame_eq {M : Nat} {s0 s : State} {a0 t} (e : loadCommand s = (a0, t)) (h : Frame M s0 s)
    (hm : sub 0x10000000000000000000000 M = true) : Frame M s0 t := by
  have := loadCommand_frame  h hm
  rwa [e] at this

theorem armPlan_frame {M : Nat} {s0 s : State} {x1} (h : Frame M s0 s)
    (hm : sub 0x1800000000000000000002000 M = true) : Frame M s0 (armPlan s x1) := by
  unfold armPlan
  repeat' first
    | exact sub_trans rfl hm
    | with_reducible assumption
    | with_reducible apply State.wr_frame
    | exact has_STEP_STAT_REPLAY_RUN rfl hm
    | exact has_STEP_STAT_STATE rfl hm
    | (intro x; refine (?_ : Frame M s0 x → _) ?_; (intro hx; clear_value x))
    | (intro x; clear_value x)
    | intro _
    | lift_lets -underBinder
    | with_reducible apply Frame.with_step

theorem startCommand_frame {M : Nat} {s0 s : State} {x1} (h : Frame M s0 s)
    (hm : sub 0x1800000000000000000002000 M = true) : Frame M s0 (startCommand s x1).2 := by
  unfold startCommand
  repeat' first
    | exact sub_trans rfl hm
    | with_reducible assumption
    | with_reducible apply armPlan_frame
    | with_reducible apply Frame.ite
    | split
    | dsimp only

theorem startCommand_frame_eq {M : Nat} {s0 s : State} {x1} {a0 t} (e : startCommand s x1 = (a0, t)) (h : Frame M s0 s)
    (hm : sub 0x1800000000000000000002000 M = true) : Frame M s0 t := by
  have := startCommand_frame (x1 := x1) h hm
  rwa [e] at this

theorem stopCommand_frame {M : Nat} {s0 s : State} (h : Frame M s0 s)
    (hm : sub 0x814fbc040000000000000000000010000000000000000000002a010380 M = true) : Frame M s0 (stopCommand s).2 := by
  unfold stopCommand
  repeat' first
    | exact sub_trans rfl hm
    | with_reducible assumption
    | with_reducible apply State.sendUp_frame
    | with_reducible apply Frame.ite
    | split
    | dsimp only

theorem stopCommand_frame_eq {M : Nat} {s0 s : State} {a0 t} (e : stopCommand s = (a0, t)) (h : Frame M s0 s)
    (hm : sub 0x814fbc040000000000000000000010000000000000000000002a010380 M = true) : Frame M s0 t := by
  have := stopCommand_frame  h hm
  rwa [e] at this

theorem commitCommand_frame {M : Nat} {s0 s : State} (h : Frame M s0 s)
    (hm : sub 0x2000 M = true) : Frame M s0 (commitCommand s).2 := by
  unfold commitCommand
  repeat' first
    | exact sub_trans rfl hm
    | with_reducible assumption
    | with_reducible apply Frame.ite
    | split
    | dsimp only
    | with_reducible apply Frame.with_step

theorem commitCommand_frame_eq {M : Nat} {s0 s : State} {a0 t} (e : commitCommand s = (a0, t)) (h : Frame M s0 s)
    (hm : sub 0x2000 M = true) : Frame M s0 t := by
  have := commitCommand_frame  h hm
  rwa [e] at this

theorem stepCommand_frame {M : Nat} {s0 s : State} {r} (h : Frame M s0 s) (hr : Frame M s0 r.2)
    (hm : sub 0x814fbc040000000000000000000000000000000000000000000a010380 M = true) : Frame M s0 (stepCommand s r).2 := by
  unfold stepCommand
  split
  · exact hr
  · exact refuse_frame (x1 := .plan) (x2 := 0) h (sub_trans rfl hm)

end Sys2Proof.Machine
end

