-- ==== Sys2Proof/Laws/FrameRegRead.lean ====
section
/-! SUPPORT. Frame lemmas for the functions of Machine/RegRead.lean. -/

set_option Elab.async false
set_option linter.all false

namespace Sys2Proof.Machine

theorem windowRead_frame {M : Nat} {s0 s : State} {x1 x2} (h : Frame M s0 s)
    (hm : sub 0x6040000004000000000001800000000000000000000000000020000118000080080000000400000000000040000000 M = true) : FrameO Prod.snd M s0 (windowRead s x1 x2) := by
  unfold windowRead
  repeat' first
    | exact sub_trans rfl hm
    | with_reducible assumption
    | with_reducible apply FrameO.of_some
    | with_reducible exact FrameO.none
    | with_reducible apply FrameO.ite
    | with_reducible apply cbfRead_frame
    | with_reducible apply cbfRead_frame_eq (by assumption)
    | with_reducible apply vpRead_frame
    | with_reducible apply vpRead_frame_eq (by assumption)
    | with_reducible apply envRead_frame
    | with_reducible apply envRead_frame_eq (by assumption)
    | with_reducible apply svRead_frame
    | with_reducible apply svRead_frame_eq (by assumption)
    | with_reducible apply gwinRead_frame
    | with_reducible apply gwinRead_frame_eq (by assumption)
    | with_reducible apply routeRead_frame
    | with_reducible apply routeRead_frame_eq (by assumption)
    | with_reducible apply dwinRead_frame
    | with_reducible apply dwinRead_frame_eq (by assumption)
    | with_reducible apply cfgRead_frame
    | with_reducible apply cfgRead_frame_eq (by assumption)
    | with_reducible apply flRead_frame
    | with_reducible apply flRead_frame_eq (by assumption)
    | with_reducible apply logAdvance_frame
    | with_reducible apply Frame.ite
    | split
    | dsimp only

theorem windowRead_frame_some {M : Nat} {s0 s : State} {x1 x2} {z} (e : windowRead s x1 x2 = some z) (h : Frame M s0 s)
    (hm : sub 0x6040000004000000000001800000000000000000000000000020000118000080080000000400000000000040000000 M = true) : Frame M s0 z.2 :=
  (windowRead_frame h hm).held z e

theorem latchHigh_frame {M : Nat} {s0 s : State} {x1 x2} (h : Frame M s0 s)
    (hm : sub 0x6040000004000000000001800000000000000000000000000030000118000080080000000400000000000040000020 M = true) : Frame M s0 (latchHigh s x1 x2) := by
  unfold latchHigh
  repeat' first
    | exact sub_trans rfl hm
    | with_reducible assumption
    | with_reducible apply Frame.ite
    | (intro x; refine (?_ : Frame M s0 x → _) ?_; (intro hx; clear_value x))
    | (intro x; clear_value x)
    | intro _
    | split
    | lift_lets -underBinder
    | with_reducible apply Frame.with_hiLatch

theorem readHigh_frame {M : Nat} {s0 s : State} {x1 x2} (h : Frame M s0 s)
    (hm : sub 0x6040000004000000000001800000000000000000000000000030000118000080080000000400000000000040000020 M = true) : Frame M s0 (readHigh s x1 x2).2 := by
  unfold readHigh
  repeat' first
    | exact sub_trans rfl hm
    | with_reducible assumption
    | with_reducible apply Frame.ite
    | split
    | dsimp only
    | with_reducible apply Frame.with_hiLatch

theorem readHigh_frame_eq {M : Nat} {s0 s : State} {x1 x2} {a0 t} (e : readHigh s x1 x2 = (a0, t)) (h : Frame M s0 s)
    (hm : sub 0x6040000004000000000001800000000000000000000000000030000118000080080000000400000000000040000020 M = true) : Frame M s0 t := by
  have := readHigh_frame (x1 := x1) (x2 := x2) h hm
  rwa [e] at this

theorem readWord_frame {M : Nat} {s0 s : State} {x1 x2} (h : Frame M s0 s)
    (hm : sub 0x6040000004000000000001800000000000000000000000000030000118000080080000000400000000000040000020 M = true) : Frame M s0 (readWord s x1 x2).2 := by
  unfold readWord
  repeat' first
    | exact sub_trans rfl hm
    | with_reducible assumption
    | with_reducible apply windowRead_frame
    | with_reducible apply windowRead_frame_some (by assumption)
    | with_reducible apply latchHigh_frame
    | with_reducible apply readHigh_frame
    | with_reducible apply readHigh_frame_eq (by assumption)
    | with_reducible apply Frame.ite
    | split
    | dsimp only

theorem readWord_frame_eq {M : Nat} {s0 s : State} {x1 x2} {a0 t} (e : readWord s x1 x2 = (a0, t)) (h : Frame M s0 s)
    (hm : sub 0x6040000004000000000001800000000000000000000000000030000118000080080000000400000000000040000020 M = true) : Frame M s0 t := by
  have := readWord_frame (x1 := x1) (x2 := x2) h hm
  rwa [e] at this

theorem readReg_frame {M : Nat} {s0 s : State} {x1} (h : Frame M s0 s)
    (hm : sub 0x6040000004000000000001800000000000000000000000000030000118000080080000000400000000000040000020 M = true) : FrameO Prod.snd M s0 (readReg s x1) := by
  unfold readReg
  repeat' first
    | exact sub_trans rfl hm
    | with_reducible assumption
    | with_reducible apply FrameO.of_some
    | with_reducible exact FrameO.none
    | with_reducible apply readWord_frame
    | with_reducible apply readWord_frame_eq (by assumption)
    | split
    | dsimp only

theorem readReg_frame_some {M : Nat} {s0 s : State} {x1} {z} (e : readReg s x1 = some z) (h : Frame M s0 s)
    (hm : sub 0x6040000004000000000001800000000000000000000000000030000118000080080000000400000000000040000020 M = true) : Frame M s0 z.2 :=
  (readReg_frame h hm).held z e

theorem execTbNowLo_frame {M : Nat} {s0 s : State} (h : Frame M s0 s)
    (hm : sub 0x6040000004000000000001800000000000000000000000000030000118000080080000000400000000000060000020 M = true) : FrameR M s0 (execTbNowLo s) := by
  unfold execTbNowLo
  repeat' first
    | exact sub_trans rfl hm
    | with_reducible assumption
    | with_reducible apply FrameR.of_next
    | with_reducible apply FrameR.whenOk
    | with_reducible apply readWord_frame
    | with_reducible apply readWord_frame_eq (by assumption)
    | with_reducible apply State.emit_frame
    | (intro x; refine (?_ : Frame M s0 x → _) ?_; (intro hx; clear_value x))
    | (intro x; clear_value x)
    | intro _
    | lift_lets -underBinder

theorem execLowWordRead_frame {M : Nat} {s0 s : State} {x0} (h : Frame M s0 s)
    (hm : sub 0x6040000004000000000001800000000000000000000000000030000118000080080000000400000000000060000020 M = true) : FrameR M s0 (execLowWordRead x0 s) := by
  unfold execLowWordRead
  repeat' first
    | exact sub_trans rfl hm
    | with_reducible assumption
    | with_reducible apply FrameR.of_next
    | with_reducible apply FrameR.whenOk
    | with_reducible apply readReg_frame
    | with_reducible apply readReg_frame_some (by assumption)
    | with_reducible apply State.emit_frame
    | split

end Sys2Proof.Machine
end

