-- ==== Sys2Proof/Laws/FrameAttest.lean ====
section
/-! SUPPORT. Frame lemmas for the functions of Machine/Attest.lean. -/

set_option Elab.async false
set_option linter.all false

namespace Sys2Proof.Machine

theorem signReport_frame {M : Nat} {s0 s : State} {x1} (h : Frame M s0 s)
    (hm : sub 0x6040000004000000000001800000000000000000000000000030000158000080080000000400000000000040000000 M = true) : Frame M s0 (signReport s x1).2 := by
  unfold signReport
  repeat' first
    | exact sub_trans rfl hm
    | with_reducible assumption
    | with_reducible apply State.bump_frame
    | exact has_ATT_COUNT_COUNT rfl hm
    | (intro x; refine (?_ : Frame M s0 x → _) ?_; (intro hx; clear_value x))
    | (intro x; clear_value x)
    | intro _
    | lift_lets -underBinder
    | dsimp only
    | with_reducible apply Frame.with_fresh

theorem signReport_frame_eq {M : Nat} {s0 s : State} {x1} {a0 t} (e : signReport s x1 = (a0, t)) (h : Frame M s0 s)
    (hm : sub 0x6040000004000000000001800000000000000000000000000030000158000080080000000400000000000040000000 M = true) : Frame M s0 t := by
  have := signReport_frame (x1 := x1) h hm
  rwa [e] at this

theorem attestCommand_frame {M : Nat} {s0 s : State} {x1} (h : Frame M s0 s)
    (hm : sub 0x6040000004000000000001800000000000000000000000000030000158000080080000000400000000000040000000 M = true) : Frame M s0 (attestCommand s x1).2.2 := by
  unfold attestCommand
  repeat' first
    | exact sub_trans rfl hm
    | with_reducible assumption
    | with_reducible apply signReport_frame
    | with_reducible apply signReport_frame_eq (by assumption)
    | with_reducible apply Frame.ite
    | split
    | dsimp only

theorem attestCommand_frame_eq {M : Nat} {s0 s : State} {x1} {a0 a1 t} (e : attestCommand s x1 = (a0, a1, t)) (h : Frame M s0 s)
    (hm : sub 0x6040000004000000000001800000000000000000000000000030000158000080080000000400000000000040000000 M = true) : Frame M s0 t := by
  have := attestCommand_frame (x1 := x1) h hm
  rwa [e] at this

end Sys2Proof.Machine
end

