-- ==== Sys2Proof/Laws/FrameRegWrite.lean ====
section
/-! SUPPORT. Frame lemmas for the functions of Machine/RegWrite.lean. -/

set_option Elab.async false
set_option linter.all false

namespace Sys2Proof.Machine

theorem andThen_frame {M : Nat} {s0 : State} {f r} (h : Frame M s0 (f r.2)) : Frame M s0 (andThen f r).2 := h

theorem alsoWhen_frame {M : Nat} {s0 : State} {on f r} (h : Frame M s0 r.2)
    (hf : ∀ u, Frame M s0 u → Frame M s0 (f u).2) : Frame M s0 (alsoWhen on f r).2 := by
  unfold alsoWhen
  split
  · exact hf _ h
  · exact h

theorem ok_frame {M : Nat} {s0 s : State} {f} (h : Frame M s0 (f s)) : Frame M s0 (ok f s).2 := h

theorem allowed_frame {M : Nat} {s0 s : State} {can f} (h : Frame M s0 (f s)) : Frame M s0 (allowed can f s).2 := h

theorem getD_frame {M : Nat} {s0 : State} {o : Option (Bool × State)} {d} (h : FrameO Prod.snd M s0 o)
    (hd : Frame M s0 d.2) : Frame M s0 (o.getD d).2 := by
  cases o with
  | none => exact hd
  | some z => exact h.held z rfl

theorem holdCounts_frame {M : Nat} {s0 s : State} {x1} (h : Frame M s0 s)
    (hm : sub 0x40 M = true) : Frame M s0 (holdCounts s x1) := by
  unfold holdCounts
  repeat' first
    | exact sub_trans rfl hm
    | with_reducible assumption
    | with_reducible refine Frame.foldl (fun u a hu => ?_) ?_
    | with_reducible refine Frame.foldl_on (get := Prod.fst) (fun u a hu => ?_) ?_
    | with_reducible refine Frame.foldl_on (get := Prod.snd) (fun u a hu => ?_) ?_
    | (intro x; refine (?_ : Frame M s0 x → _) ?_; (intro hx; clear_value x))
    | (intro x; clear_value x)
    | intro _
    | lift_lets -underBinder
    | with_reducible apply Frame.with_frozen

theorem releaseCounts_frame {M : Nat} {s0 s : State} {x1} (h : Frame M s0 s)
    (hm : sub 0x40 M = true) : Frame M s0 (releaseCounts s x1) := by
  unfold releaseCounts
  repeat' first
    | exact sub_trans rfl hm
    | with_reducible assumption
    | (intro x; refine (?_ : Frame M s0 x → _) ?_; (intro hx; clear_value x))
    | (intro x; clear_value x)
    | intro _
    | split
    | lift_lets -underBinder
    | with_reducible apply Frame.with_frozen

theorem setFreeze_frame {M : Nat} {s0 s : State} {x1 x2} (h : Frame M s0 s)
    (hm : sub 0xc0 M = true) : Frame M s0 (setFreeze s x1 x2) := by
  unfold setFreeze
  repeat' first
    | exact sub_trans rfl hm
    | with_reducible assumption
    | with_reducible apply State.setHdr_frame
    | with_reducible apply holdCounts_frame
    | with_reducible apply releaseCounts_frame
    | with_reducible apply Frame.ite
    | (intro x; refine (?_ : Frame M s0 x → _) ?_; (intro hx; clear_value x))
    | (intro x; clear_value x)
    | intro _
    | split
    | lift_lets -underBinder

theorem resetField_frame {M : Nat} {s0 s : State} {x1 x2} (h : Frame M s0 s)
    (hm : sub 0x200c M = true) : Frame M s0 (resetField s x1 x2) := by
  unfold resetField
  repeat' first
    | exact sub_trans rfl hm
    | with_reducible assumption
    | with_reducible apply bothBanks_frame

theorem clearCount_frame {M : Nat} {s0 s : State} {x1 x2} (h : Frame M s0 s)
    (hm : sub 0x4 M = true) : Frame M s0 (clearCount s x1 x2) := by
  unfold clearCount
  repeat' first
    | exact sub_trans rfl hm
    | with_reducible assumption
    | with_reducible apply State.wr_frame
    | exact has_any rfl hm

theorem reapply_frame {M : Nat} {s0 s : State} {x1} (h : Frame M s0 s)
    (hm : sub 0x814fbc040000000000000000000000000000000000100000000a01238c M = true) : Frame M s0 (reapply s x1) := by
  unfold reapply
  repeat' first
    | exact sub_trans rfl hm
    | with_reducible assumption
    | with_reducible apply applyUser_frame
    | with_reducible apply Frame.ite
    | with_reducible refine Frame.foldl (fun u a hu => ?_) ?_
    | with_reducible refine Frame.foldl_on (get := Prod.fst) (fun u a hu => ?_) ?_
    | with_reducible refine Frame.foldl_on (get := Prod.snd) (fun u a hu => ?_) ?_
    | (intro x; refine (?_ : Frame M s0 x → _) ?_; (intro hx; clear_value x))
    | (intro x; clear_value x)
    | intro _
    | split
    | lift_lets -underBinder

theorem portFalls_frame {M : Nat} {s0 s : State} (h : Frame M s0 s)
    (hm : sub 0x814fbc040000000103000000000000000000000000000000000a010380 M = true) : Frame M s0 (portFalls s) := by
  unfold portFalls
  repeat' first
    | exact sub_trans rfl hm
    | with_reducible assumption
    | with_reducible apply State.wr_frame
    | with_reducible apply raise_frame
    | with_reducible apply Frame.ite
    | exact has_PORT_STAT_FEC_LOCK rfl hm
    | exact has_PORT_STAT_LINK rfl hm
    | exact has_SC_STAT_PREEMPT rfl hm
    | (intro x; refine (?_ : Frame M s0 x → _) ?_; (intro hx; clear_value x))
    | (intro x; clear_value x)
    | intro _
    | split
    | lift_lets -underBinder

theorem mediaChanged_frame {M : Nat} {s0 s : State} {y0} (h : Frame M s0 s)
    (hm : sub 0x814fbc040000000103000000000000000000000000000000000a010380 M = true) : Frame M s0 (mediaChanged y0 s) := by
  unfold mediaChanged
  repeat' first
    | exact sub_trans rfl hm
    | with_reducible assumption
    | with_reducible apply portFalls_frame
    | with_reducible apply Frame.ite
    | split

theorem followFields_frame {M : Nat} {s0 s : State} {y0 x2} (h : Frame M s0 s)
    (hm : sub 0x8019c000ff8000000000000000000000008001d000832b7c6814fbc5c0000000123c000000107f61c0000000000000000002a132f80 M = true) : Frame M s0 (followFields y0 s x2) := by
  unfold followFields
  repeat' first
    | exact sub_trans rfl hm
    | with_reducible assumption
    | with_reducible apply lineReconfigured_frame
    | with_reducible apply identAll_frame
    | with_reducible apply settleMaster_frame
    | with_reducible apply mediaChanged_frame
    | with_reducible apply settleMap_frame
    | with_reducible apply showChannels_frame
    | with_reducible apply writeEcPend_frame
    | with_reducible apply writeCoreEn_frame
    | with_reducible refine Frame.foldl (fun u a hu => ?_) ?_
    | with_reducible refine Frame.foldl_on (get := Prod.fst) (fun u a hu => ?_) ?_
    | with_reducible refine Frame.foldl_on (get := Prod.snd) (fun u a hu => ?_) ?_
    | (intro x; refine (?_ : Frame M s0 x → _) ?_; (intro hx; clear_value x))
    | (intro x; clear_value x)
    | intro _
    | split
    | lift_lets -underBinder
    | with_reducible apply Frame.with_ec

theorem returnChannels_frame {M : Nat} {s0 s : State} {x1} (h : Frame M s0 s)
    (hm : sub 0xc08 M = true) : Frame M s0 (returnChannels s x1) := by
  unfold returnChannels
  repeat' first
    | exact sub_trans rfl hm
    | with_reducible assumption
    | with_reducible apply moveChannels_frame
    | with_reducible apply State.wrSh_frame
    | with_reducible apply Frame.ite
    | with_reducible refine Frame.foldl (fun u a hu => ?_) ?_
    | with_reducible refine Frame.foldl_on (get := Prod.fst) (fun u a hu => ?_) ?_
    | with_reducible refine Frame.foldl_on (get := Prod.snd) (fun u a hu => ?_) ?_
    | (intro x; refine (?_ : Frame M s0 x → _) ?_; (intro hx; clear_value x))
    | (intro x; clear_value x)
    | intro _
    | split
    | lift_lets -underBinder

theorem softReset_frame {M : Nat} {s0 s : State} {x1} (h : Frame M s0 s)
    (hm : sub 0x8019c000ff8000000000000000000000008001d000832b7c6814fbc5c0000000123c000000107f61c0000000000100000002a132fcc M = true) : Frame M s0 (softReset s x1) := by
  unfold softReset
  repeat' first
    | exact sub_trans rfl hm
    | with_reducible assumption
    | with_reducible apply resetField_frame
    | with_reducible apply returnChannels_frame
    | with_reducible apply releaseCounts_frame
    | with_reducible apply State.setHdr_frame
    | with_reducible apply clearCount_frame
    | with_reducible apply reapply_frame
    | with_reducible apply samplePage_frame
    | with_reducible apply followFields_frame
    | with_reducible refine Frame.foldl (fun u a hu => ?_) ?_
    | with_reducible refine Frame.foldl_on (get := Prod.fst) (fun u a hu => ?_) ?_
    | with_reducible refine Frame.foldl_on (get := Prod.snd) (fun u a hu => ?_) ?_
    | (intro x; refine (?_ : Frame M s0 x → _) ?_; (intro hx; clear_value x))
    | (intro x; clear_value x)
    | intro _
    | lift_lets -underBinder

theorem commandReset_frame {M : Nat} {s0 s : State} {x1} (h : Frame M s0 s)
    (hm : sub 0x8019c000ff8000000000000000000000008001d000832b7c6814fbc5c0000000123c000000107f61c0000000000100000002a132fcc M = true) : Frame M s0 (commandReset s x1).2 := by
  unfold commandReset
  repeat' first
    | exact sub_trans rfl hm
    | with_reducible assumption
    | with_reducible apply refuse_frame
    | with_reducible apply softReset_frame
    | with_reducible apply Frame.ite
    | split
    | dsimp only

theorem commandReset_frame_eq {M : Nat} {s0 s : State} {x1} {a0 t} (e : commandReset s x1 = (a0, t)) (h : Frame M s0 s)
    (hm : sub 0x8019c000ff8000000000000000000000008001d000832b7c6814fbc5c0000000123c000000107f61c0000000000100000002a132fcc M = true) : Frame M s0 t := by
  have := commandReset_frame (x1 := x1) h hm
  rwa [e] at this

theorem writeControl_frame {M : Nat} {s0 s : State} {x1 x2} (h : Frame M s0 s)
    (hm : sub 0x8019c000ff8000000000000000000000008001d000832b7c6814fbc5c0000000123c000000107f61c0000000000100000002a132fcc M = true) : Frame M s0 (writeControl s x1 x2).2 := by
  unfold writeControl
  repeat' first
    | exact sub_trans rfl hm
    | with_reducible assumption
    | with_reducible apply setFreeze_frame
    | with_reducible apply commandReset_frame
    | with_reducible apply commandReset_frame_eq (by assumption)
    | with_reducible apply Frame.ite
    | (intro x; refine (?_ : Frame M s0 x → _) ?_; (intro hx; clear_value x))
    | (intro x; clear_value x)
    | intro _
    | split
    | lift_lets -underBinder
    | dsimp only

theorem writeControl_frame_eq {M : Nat} {s0 s : State} {x1 x2} {a0 t} (e : writeControl s x1 x2 = (a0, t)) (h : Frame M s0 s)
    (hm : sub 0x8019c000ff8000000000000000000000008001d000832b7c6814fbc5c0000000123c000000107f61c0000000000100000002a132fcc M = true) : Frame M s0 t := by
  have := writeControl_frame (x1 := x1) (x2 := x2) h hm
  rwa [e] at this

theorem execSoftReset_frame {M : Nat} {s0 s : State} {x0} (h : Frame M s0 s)
    (hm : sub 0x8019c000ff8000000000000000000000008001d000832b7c6814fbc5c0000000123c000000107f61c0000000000100000002a132fcc M = true) : FrameR M s0 (execSoftReset x0 s) := by
  unfold execSoftReset
  repeat' first
    | exact sub_trans rfl hm
    | with_reducible assumption
    | with_reducible apply FrameR.of_next
    | with_reducible apply FrameR.whenOk
    | with_reducible apply commandReset_frame
    | with_reducible apply commandReset_frame_eq (by assumption)
    | split

theorem execFreeze_frame {M : Nat} {s0 s : State} {x0 x1} (h : Frame M s0 s)
    (hm : sub 0xc0 M = true) : FrameR M s0 (execFreeze x0 x1 s) := by
  unfold execFreeze
  repeat' first
    | exact sub_trans rfl hm
    | with_reducible assumption
    | with_reducible apply FrameR.of_next
    | with_reducible apply FrameR.whenOk
    | with_reducible apply setFreeze_frame
    | split

theorem writeHeader_frame {M : Nat} {s0 s : State} {x1 x2 x3} (h : Frame M s0 s)
    (hm : sub 0x8019c000ff8000000000000000000000008001d000832b7c6814fbc5c0000000123c000000107f61c0000000000100000002a132fcc M = true) : Frame M s0 (writeHeader s x1 x2 x3).2 := by
  unfold writeHeader
  repeat' first
    | exact sub_trans rfl hm
    | with_reducible assumption
    | with_reducible apply writeControl_frame
    | with_reducible apply writeControl_frame_eq (by assumption)
    | with_reducible apply writeMask_frame
    | with_reducible apply writePend_frame
    | split
    | dsimp only

theorem writeHeader_frame_eq {M : Nat} {s0 s : State} {x1 x2 x3} {a0 t} (e : writeHeader s x1 x2 x3 = (a0, t)) (h : Frame M s0 s)
    (hm : sub 0x8019c000ff8000000000000000000000008001d000832b7c6814fbc5c0000000123c000000107f61c0000000000100000002a132fcc M = true) : Frame M s0 t := by
  have := writeHeader_frame (x1 := x1) (x2 := x2) (x3 := x3) h hm
  rwa [e] at this

theorem writeStepCmd_frame {M : Nat} {s0 s : State} {x1} (h : Frame M s0 s)
    (hm : sub 0x814fbc040000000000000000000010000181000000000000002a012380 M = true) : Frame M s0 (writeStepCmd s x1).2 := by
  unfold writeStepCmd
  repeat' first
    | with_reducible refine alsoWhen_frame ?_ (fun u hu => ?_)
    | with_reducible apply andThen_frame
    | with_reducible apply ok_frame
    | with_reducible apply allowed_frame
    | exact sub_trans rfl hm
    | with_reducible assumption
    | with_reducible apply stepCommand_frame
    | with_reducible apply startCommand_frame
    | with_reducible apply startCommand_frame_eq (by assumption)
    | with_reducible apply commitCommand_frame
    | with_reducible apply commitCommand_frame_eq (by assumption)
    | with_reducible apply stopCommand_frame
    | with_reducible apply stopCommand_frame_eq (by assumption)
    | with_reducible apply loadCommand_frame
    | with_reducible apply loadCommand_frame_eq (by assumption)
    | with_reducible apply State.send_frame
    | (intro x; refine (?_ : Frame M s0 x → _) ?_; (intro hx; clear_value x))
    | (intro x; clear_value x)
    | intro _
    | lift_lets -underBinder
    | dsimp only

theorem writeStepCmd_frame_eq {M : Nat} {s0 s : State} {x1} {a0 t} (e : writeStepCmd s x1 = (a0, t)) (h : Frame M s0 s)
    (hm : sub 0x814fbc040000000000000000000010000181000000000000002a012380 M = true) : Frame M s0 t := by
  have := writeStepCmd_frame (x1 := x1) h hm
  rwa [e] at this

theorem writeHdCmd_frame {M : Nat} {s0 s : State} {x1} (h : Frame M s0 s)
    (hm : sub 0x80184000ff8008207fe000007c000000038001daf8833b7c3814fbc4c033c780c20c000000007f41c0101200000c00000002e1fff88 M = true) : Frame M s0 (writeHdCmd s x1).2 := by
  unfold writeHdCmd
  repeat' first
    | with_reducible refine alsoWhen_frame ?_ (fun u hu => ?_)
    | with_reducible apply andThen_frame
    | with_reducible apply ok_frame
    | with_reducible apply allowed_frame
    | exact sub_trans rfl hm
    | with_reducible assumption
    | with_reducible apply abandonCommand_frame
    | with_reducible apply abandonCommand_frame_eq (by assumption)
    | with_reducible apply releaseCommand_frame
    | with_reducible apply releaseCommand_frame_eq (by assumption)
    | with_reducible apply haulCommand_frame
    | (intro x; refine (?_ : Frame M s0 x → _) ?_; (intro hx; clear_value x))
    | (intro x; clear_value x)
    | intro _
    | lift_lets -underBinder
    | dsimp only

theorem writeHdCmd_frame_eq {M : Nat} {s0 s : State} {x1} {a0 t} (e : writeHdCmd s x1 = (a0, t)) (h : Frame M s0 s)
    (hm : sub 0x80184000ff8008207fe000007c000000038001daf8833b7c3814fbc4c033c780c20c000000007f41c0101200000c00000002e1fff88 M = true) : Frame M s0 t := by
  have := writeHdCmd_frame (x1 := x1) h hm
  rwa [e] at this

theorem writeStkCmd_frame {M : Nat} {s0 s : State} {x1 x2} (h : Frame M s0 s)
    (hm : sub 0x18000ffb40000000000000000000000000000000000000814fbc040000000000000000000000100000000000000000000a010b80 M = true) : Frame M s0 (writeStkCmd s x1 x2).2 := by
  unfold writeStkCmd
  repeat' first
    | with_reducible refine alsoWhen_frame ?_ (fun u hu => ?_)
    | with_reducible apply andThen_frame
    | with_reducible apply ok_frame
    | with_reducible apply allowed_frame
    | exact sub_trans rfl hm
    | with_reducible assumption
    | with_reducible apply startMigration_frame
    | with_reducible apply refuse_frame
    | with_reducible apply clearUe_frame
    | with_reducible apply Frame.ite
    | (intro x; refine (?_ : Frame M s0 x → _) ?_; (intro hx; clear_value x))
    | (intro x; clear_value x)
    | intro _
    | split
    | lift_lets -underBinder
    | dsimp only

theorem writeStkCmd_frame_eq {M : Nat} {s0 s : State} {x1 x2} {a0 t} (e : writeStkCmd s x1 x2 = (a0, t)) (h : Frame M s0 s)
    (hm : sub 0x18000ffb40000000000000000000000000000000000000814fbc040000000000000000000000100000000000000000000a010b80 M = true) : Frame M s0 t := by
  have := writeStkCmd_frame (x1 := x1) (x2 := x2) h hm
  rwa [e] at this

theorem writeSecCmd_frame {M : Nat} {s0 s : State} {x1} (h : Frame M s0 s)
    (hm : sub 0x814fbc040000000000008550000000000000000000000000000a810380 M = true) : Frame M s0 (writeSecCmd s x1).2 := by
  unfold writeSecCmd
  repeat' first
    | with_reducible refine alsoWhen_frame ?_ (fun u hu => ?_)
    | with_reducible apply andThen_frame
    | with_reducible apply ok_frame
    | with_reducible apply allowed_frame
    | exact sub_trans rfl hm
    | with_reducible assumption
    | with_reducible apply burnSvn_frame
    | with_reducible apply burnSvn_frame_eq (by assumption)
    | with_reducible apply burnUserKey_frame
    | with_reducible apply burnUserKey_frame_eq (by assumption)
    | with_reducible apply extendHost_frame
    | dsimp only

theorem writeSecCmd_frame_eq {M : Nat} {s0 s : State} {x1} {a0 t} (e : writeSecCmd s x1 = (a0, t)) (h : Frame M s0 s)
    (hm : sub 0x814fbc040000000000008550000000000000000000000000000a810380 M = true) : Frame M s0 t := by
  have := writeSecCmd_frame (x1 := x1) h hm
  rwa [e] at this

theorem writeFlCmd_frame {M : Nat} {s0 s : State} {x1} (h : Frame M s0 s)
    (hm : sub 0x814fbc040000000000020000000000000000000000000000000a810380 M = true) : Frame M s0 (writeFlCmd s x1).2 := by
  unfold writeFlCmd
  repeat' first
    | with_reducible refine alsoWhen_frame ?_ (fun u hu => ?_)
    | with_reducible apply andThen_frame
    | with_reducible apply ok_frame
    | with_reducible apply allowed_frame
    | exact sub_trans rfl hm
    | with_reducible assumption
    | with_reducible apply flCommit_frame
    | with_reducible apply flCommit_frame_eq (by assumption)
    | with_reducible apply flErase_frame
    | with_reducible apply flErase_frame_eq (by assumption)
    | dsimp only

theorem writeFlCmd_frame_eq {M : Nat} {s0 s : State} {x1} {a0 t} (e : writeFlCmd s x1 = (a0, t)) (h : Frame M s0 s)
    (hm : sub 0x814fbc040000000000020000000000000000000000000000000a810380 M = true) : Frame M s0 t := by
  have := writeFlCmd_frame (x1 := x1) h hm
  rwa [e] at this

theorem writeFwCmd_frame {M : Nat} {s0 s : State} {x1} (h : Frame M s0 s)
    (hm : sub 0x814fbc0400000000002c0412000000000000000000000000000a810380 M = true) : Frame M s0 (writeFwCmd s x1).2 := by
  unfold writeFwCmd
  repeat' first
    | with_reducible refine alsoWhen_frame ?_ (fun u hu => ?_)
    | with_reducible apply andThen_frame
    | with_reducible apply ok_frame
    | with_reducible apply allowed_frame
    | exact sub_trans rfl hm
    | with_reducible assumption
    | with_reducible apply swapImage_frame
    | with_reducible apply swapImage_frame_eq (by assumption)
    | with_reducible apply stageImage_frame
    | with_reducible apply stageImage_frame_eq (by assumption)
    | dsimp only

theorem writeFwCmd_frame_eq {M : Nat} {s0 s : State} {x1} {a0 t} (e : writeFwCmd s x1 = (a0, t)) (h : Frame M s0 s)
    (hm : sub 0x814fbc0400000000002c0412000000000000000000000000000a810380 M = true) : Frame M s0 t := by
  have := writeFwCmd_frame (x1 := x1) h hm
  rwa [e] at this

theorem writeWnCmd_frame {M : Nat} {s0 s : State} {x1 x2} (h : Frame M s0 s)
    (hm : sub 0xf803000000000000000000000000000000000000000000000000000000000000000 M = true) : Frame M s0 (writeWnCmd s x1 x2).2 := by
  unfold writeWnCmd
  repeat' first
    | with_reducible refine alsoWhen_frame ?_ (fun u hu => ?_)
    | with_reducible apply andThen_frame
    | with_reducible apply ok_frame
    | with_reducible apply allowed_frame
    | exact sub_trans rfl hm
    | with_reducible assumption
    | with_reducible apply clearNan_frame
    | with_reducible apply clearWinchFault_frame
    | dsimp only

theorem writeWnCmd_frame_eq {M : Nat} {s0 s : State} {x1 x2} {a0 t} (e : writeWnCmd s x1 x2 = (a0, t)) (h : Frame M s0 s)
    (hm : sub 0xf803000000000000000000000000000000000000000000000000000000000000000 M = true) : Frame M s0 t := by
  have := writeWnCmd_frame (x1 := x1) (x2 := x2) h hm
  rwa [e] at this

theorem writeGovernor_frame {M : Nat} {s0 s : State} {x1 x2 x3} (h : Frame M s0 s)
    (hm : sub 0x814fbc040000000000000000000000000000000000000000000a01ab9c M = true) : Frame M s0 (writeGovernor s x1 x2 x3).2 := by
  unfold writeGovernor
  repeat' first
    | exact sub_trans rfl hm
    | with_reducible assumption
    | with_reducible apply plainWrite_frame
    | with_reducible apply plainWrite_frame_eq (by assumption)
    | with_reducible apply touchRule_frame
    | with_reducible apply Frame.ite
    | (intro x; refine (?_ : Frame M s0 x → _) ?_; (intro hx; clear_value x))
    | (intro x; clear_value x)
    | intro _
    | split
    | lift_lets -underBinder
    | dsimp only

theorem writeGovernor_frame_eq {M : Nat} {s0 s : State} {x1 x2 x3} {a0 t} (e : writeGovernor s x1 x2 x3 = (a0, t)) (h : Frame M s0 s)
    (hm : sub 0x814fbc040000000000000000000000000000000000000000000a01ab9c M = true) : Frame M s0 t := by
  have := writeGovernor_frame (x1 := x1) (x2 := x2) (x3 := x3) h hm
  rwa [e] at this

set_option maxRecDepth 4000 in
theorem commandWrite_frame {M : Nat} {s0 s : State} {x1 x2 x3 x4} (h : Frame M s0 s)
    (hm : sub 0x8019cc68ffb46f2f7fe000f87c0000facf8001daf8833bfcbe14ffc5c033c780d23eea5520707f61c0181200078d00000003edfff9c M = true) : FrameO Prod.snd M s0 (commandWrite s x1 x2 x3 x4) := by
  unfold commandWrite
  split
  all_goals repeat' first
    | with_reducible refine alsoWhen_frame ?_ (fun u hu => ?_)
    | with_reducible apply andThen_frame
    | with_reducible apply ok_frame
    | with_reducible apply allowed_frame
    | exact sub_trans rfl hm
    | with_reducible assumption
    | with_reducible apply FrameO.of_some
    | with_reducible exact FrameO.none
    | with_reducible apply FrameO.ite
    | with_reducible apply resetCommand_frame
    | with_reducible apply resetCommand_frame_eq (by assumption)
    | with_reducible apply writeUfw_frame
    | with_reducible apply writeGovernor_frame
    | with_reducible apply writeGovernor_frame_eq (by assumption)
    | with_reducible apply writeStepCmd_frame
    | with_reducible apply writeStepCmd_frame_eq (by assumption)
    | with_reducible apply clearPlanUe_frame
    | with_reducible apply writeDevnum_frame
    | with_reducible apply writeDevnum_frame_eq (by assumption)
    | with_reducible apply discover_frame
    | with_reducible apply writeFabTb_frame
    | with_reducible apply writeFabTb_frame_eq (by assumption)
    | with_reducible apply writeCoreEn_frame
    | with_reducible apply endOfInterrupt_frame
    | with_reducible apply writeEcPend_frame
    | with_reducible apply writeEcMask_frame
    | with_reducible apply State.wr_frame
    | with_reducible apply writeSecCmd_frame
    | with_reducible apply writeSecCmd_frame_eq (by assumption)
    | with_reducible apply writeFlCmd_frame
    | with_reducible apply writeFlCmd_frame_eq (by assumption)
    | with_reducible apply writeFwCmd_frame
    | with_reducible apply writeFwCmd_frame_eq (by assumption)
    | with_reducible apply mediaChanged_frame
    | with_reducible apply plainWrite_frame
    | with_reducible apply plainWrite_frame_eq (by assumption)
    | with_reducible apply startValidate_frame
    | with_reducible apply startLoad_frame
    | with_reducible apply startMeasure_frame
    | with_reducible apply writeHdCmd_frame
    | with_reducible apply writeHdCmd_frame_eq (by assumption)
    | with_reducible apply writeDump_frame
    | with_reducible apply writeDump_frame_eq (by assumption)
    | with_reducible apply writeTrCtl_frame
    | with_reducible apply writeTrCtl_frame_eq (by assumption)
    | with_reducible apply replaceKite_frame
    | with_reducible apply unpinLines_frame
    | with_reducible apply writeWnCmd_frame
    | with_reducible apply writeWnCmd_frame_eq (by assumption)
    | with_reducible apply clearBurnFault_frame
    | with_reducible apply faultClear_frame
    | with_reducible apply writeStkCmd_frame
    | with_reducible apply writeStkCmd_frame_eq (by assumption)
    | with_reducible apply writeLineCfg_frame
    | with_reducible apply writeLineCfg_frame_eq (by assumption)
    | with_reducible apply laneCommand_frame
    | with_reducible apply laneCommand_frame_eq (by assumption)
    | with_reducible apply Frame.ite
    | exact has_MR_EXT_DIGEST rfl hm
    | (intro x; refine (?_ : Frame M s0 x → _) ?_; (intro hx; clear_value x))
    | (intro x; clear_value x)
    | intro _
    | split
    | lift_lets -underBinder
    | dsimp only

theorem commandWrite_frame_some {M : Nat} {s0 s : State} {x1 x2 x3 x4} {z} (e : commandWrite s x1 x2 x3 x4 = some z) (h : Frame M s0 s)
    (hm : sub 0x8019cc68ffb46f2f7fe000f87c0000facf8001daf8833bfcbe14ffc5c033c780d23eea5520707f61c0181200078d00000003edfff9c M = true) : Frame M s0 z.2 :=
  (commandWrite_frame h hm).held z e

theorem windowWrite_frame {M : Nat} {s0 s : State} {x1 x2 x3} (h : Frame M s0 s)
    (hm : sub 0x4000000400000000000180000000000000814fbc040080002000030000108008000000040000000000000a859398 M = true) : FrameO Prod.snd M s0 (windowWrite s x1 x2 x3) := by
  unfold windowWrite
  repeat' first
    | exact sub_trans rfl hm
    | with_reducible assumption
    | with_reducible apply FrameO.of_some
    | with_reducible exact FrameO.none
    | with_reducible apply FrameO.ite
    | with_reducible apply cbfWrite_frame
    | with_reducible apply vpWrite_frame
    | with_reducible apply svWrite_frame
    | with_reducible apply gwinWrite_frame
    | with_reducible apply routeWrite_frame
    | with_reducible apply dwinWrite_frame
    | with_reducible apply cfgWrite_frame
    | with_reducible apply flWrite_frame
    | with_reducible apply flWrite_frame_eq (by assumption)
    | with_reducible apply Frame.ite
    | split
    | dsimp only

theorem windowWrite_frame_some {M : Nat} {s0 s : State} {x1 x2 x3} {z} (e : windowWrite s x1 x2 x3 = some z) (h : Frame M s0 s)
    (hm : sub 0x4000000400000000000180000000000000814fbc040080002000030000108008000000040000000000000a859398 M = true) : Frame M s0 z.2 :=
  (windowWrite_frame h hm).held z e

theorem writeWord_frame {M : Nat} {s0 s : State} {x1 x2 x3 x4} (h : Frame M s0 s)
    (hm : sub 0x8019cc68ffb46f2f7fe000f87c0000facf9801daf8833bfcfe14ffc5c03bc782d23efa5521787fe1c0181240078d00000003edfffdc M = true) : Frame M s0 (writeWord s x1 x2 x3 x4).2 := by
  unfold writeWord
  repeat' first
    | apply getD_frame
    | exact sub_trans rfl hm
    | with_reducible assumption
    | with_reducible apply writeHeader_frame
    | with_reducible apply writeHeader_frame_eq (by assumption)
    | with_reducible apply windowWrite_frame
    | with_reducible apply windowWrite_frame_some (by assumption)
    | with_reducible apply commandWrite_frame
    | with_reducible apply commandWrite_frame_some (by assumption)
    | with_reducible apply plainWrite_frame
    | with_reducible apply plainWrite_frame_eq (by assumption)
    | with_reducible apply Frame.ite
    | split
    | dsimp only

theorem writeWord_frame_eq {M : Nat} {s0 s : State} {x1 x2 x3 x4} {a0 t} (e : writeWord s x1 x2 x3 x4 = (a0, t)) (h : Frame M s0 s)
    (hm : sub 0x8019cc68ffb46f2f7fe000f87c0000facf9801daf8833bfcfe14ffc5c03bc782d23efa5521787fe1c0181240078d00000003edfffdc M = true) : Frame M s0 t := by
  have := writeWord_frame (x1 := x1) (x2 := x2) (x3 := x3) (x4 := x4) h hm
  rwa [e] at this

theorem writeReg_frame {M : Nat} {s0 s : State} {x1 x2 x3} (h : Frame M s0 s)
    (hm : sub 0x8019cc68ffb46f2f7fe000f87c0000facf9801daf8833bfcfe14ffc5c03bc782d23efa5521787fe1c0181240078d00000003edfffdc M = true) : FrameO Prod.snd M s0 (writeReg s x1 x2 x3) := by
  unfold writeReg
  repeat' first
    | exact sub_trans rfl hm
    | with_reducible assumption
    | with_reducible apply FrameO.of_some
    | with_reducible exact FrameO.none
    | with_reducible apply writeWord_frame
    | with_reducible apply writeWord_frame_eq (by assumption)
    | split
    | dsimp only

theorem writeReg_frame_some {M : Nat} {s0 s : State} {x1 x2 x3} {z} (e : writeReg s x1 x2 x3 = some z) (h : Frame M s0 s)
    (hm : sub 0x8019cc68ffb46f2f7fe000f87c0000facf9801daf8833bfcfe14ffc5c03bc782d23efa5521787fe1c0181240078d00000003edfffdc M = true) : Frame M s0 z.2 :=
  (writeReg_frame h hm).held z e

theorem execRegisterWrite_frame {M : Nat} {s0 s : State} {x0 x1} (h : Frame M s0 s)
    (hm : sub 0x8019cc68ffb46f2f7fe000f87c0000facf9801daf8833bfcfe14ffc5c03bc782d23efa5521787fe1c0181240078d00000003edfffdc M = true) : FrameR M s0 (execRegisterWrite x0 x1 s) := by
  unfold execRegisterWrite
  repeat' first
    | exact sub_trans rfl hm
    | with_reducible assumption
    | with_reducible apply FrameR.of_next
    | with_reducible apply FrameR.whenOk
    | with_reducible apply writeReg_frame
    | with_reducible apply writeReg_frame_some (by assumption)
    | split

end Sys2Proof.Machine
end

