-- ==== Sys2Proof/Laws/FrameHostPort.lean ====
section
/-! SUPPORT. Frame lemmas for the functions of Machine/HostPort.lean. -/

set_option Elab.async false
set_option linter.all false

namespace Sys2Proof.Machine

theorem fails_frame {M : Nat} {s0 s : State} {st} (h : Frame M s0 s) : Frame M s0 (fails s st).s := h

theorem regAnswer_frame {M : Nat} {s0 : State} {r n epoch} (h : Frame M s0 r.s) :
    Frame M s0 (regAnswer r n epoch).s := h

theorem regAt_frame_some {M : Nat} {s0 : State} {α : Type} {a : Nat} {o : Option (α × State)} {z}
    (e : regAt a o = some z) (h : FrameO Prod.snd M s0 o) : Frame M s0 z.2 := by
  unfold regAt at e
  split at e
  · exact h.held z e
  · cases e

theorem readOne_frame {M : Nat} {s0 : State} {x0 x1 r x3} (h : Frame M s0 r.s)
    (hm : sub 0x6040000004000000000001800000000000000000000000000030000118000080080000000400000000000040000020 M = true) : Frame M s0 (readOne x0 x1 r x3).s := by
  unfold readOne
  dsimp only
  split
  next e => exact regAt_frame_some e (readReg_frame h hm)
  next => exact h

theorem writeOne_frame {M : Nat} {s0 : State} {x0 x1 r x3} (h : Frame M s0 r.s)
    (hm : sub 0x8019cc68ffb46f2f7fe000f87c0000facf9801daf8833bfcfe14ffc5c03bc782d23efa5521787fe1c0181240078d00000003edfffdc M = true) : Frame M s0 (writeOne x0 x1 r x3).s := by
  unfold writeOne
  dsimp only
  split
  next e => exact regAt_frame_some e (writeReg_frame h hm)
  next => exact h

theorem regRead_frame {M : Nat} {s0 s : State} {x1 x2 x3 x4} (h : Frame M s0 s)
    (hm : sub 0x6040000004000000000001800000000000000000000000000030000118000080080000000400000000000040000020 M = true) : Frame M s0 (regRead s x1 x2 x3 x4).s := by
  unfold regRead
  split
  · exact h
  · exact Frame.foldl_on (get := RegRun.s) (fun _ _ hu => readOne_frame hu hm) h

theorem regWrite_frame {M : Nat} {s0 s : State} {x1 x2 x3 x4} (h : Frame M s0 s)
    (hm : sub 0x8019cc68ffb46f2f7fe000f87c0000facf9801daf8833bfcfe14ffc5c03bc782d23efa5521787fe1c0181240078d00000003edfffdc M = true) : Frame M s0 (regWrite s x1 x2 x3 x4).s := by
  unfold regWrite
  split
  · exact h
  · exact Frame.foldl_on (get := RegRun.s) (fun _ _ hu => writeOne_frame hu hm) h

theorem hostCharge_frame {M : Nat} {s0 s : State} {x1 x2} (h : Frame M s0 s)
    (hm : sub 0x8000814fbc040000000000000000000000000000000000000000000a010b80 M = true) : Frame M s0 (hostCharge s x1 x2) := by
  unfold hostCharge
  repeat' first
    | exact sub_trans rfl hm
    | with_reducible assumption
    | with_reducible apply chargeRange_frame

theorem hostRead_frame {M : Nat} {s0 s : State} {x1 x2} (h : Frame M s0 s)
    (hm : sub 0x4c68ff8000000000000000000000000001d000832bfc0814fbc040000000000c000000000101c0000000000000000002a132f80 M = true) : Frame M s0 (hostRead s x1 x2).s := by
  unfold hostRead
  split
  · split
    next e => exact readFor_frame_eq e (hostCharge_frame h (sub_trans rfl hm)) (sub_trans rfl hm)
    next e => exact readFor_frame_eq e (hostCharge_frame h (sub_trans rfl hm)) (sub_trans rfl hm)
  · exact h

theorem hostStore_frame {M : Nat} {s0 s : State} {x1 x2} (h : Frame M s0 s)
    (hm : sub 0x4000ff8000000000000000000000000001d000832b7c0814fbc040000000000c000000000101c0000000000000000002a132f80 M = true) : Frame M s0 (hostStore s x1 x2).s := by
  rw [hostStore]
  split
  next e => exact fails_frame (writeFor_frame_eq e (hostCharge_frame h (sub_trans rfl hm)) (sub_trans rfl hm))

theorem hostWrite_frame {M : Nat} {s0 s : State} {x1 x2} (h : Frame M s0 s)
    (hm : sub 0x4000ff8000000000000000000000000001d000832b7c0814fbc040000000000c000000000101c0000000000000000002a132f80 M = true) : Frame M s0 (hostWrite s x1 x2).s := by
  unfold hostWrite
  split
  · exact hostStore_frame h hm
  · exact h

theorem planWrite_frame {M : Nat} {s0 s : State} {x1 x2} (h : Frame M s0 s)
    (hm : sub 0x4000ff8000000000000000000000000001d000832b7c0814fbc040000000000c000000000101c0001000000000000002a132f80 M = true) : Frame M s0 (planWrite s x1 x2).s := by
  unfold planWrite
  split
  · exact h
  · split
    · exact h
    · exact State.wr_frame (hostStore_frame h (sub_trans rfl hm)) (has_PLAN_STAT_STATE rfl hm)

theorem commitAnswer_frame {M : Nat} {s0 s : State} (h : Frame M s0 s)
    (hm : sub 0x2000 M = true) : Frame M s0 (commitAnswer s).s := by
  have h1 := commitCommand_frame h hm
  unfold commitAnswer
  dsimp only
  split
  · exact h1
  · exact h1

theorem attestAnswer_frame {M : Nat} {s0 s : State} {x1} (h : Frame M s0 s)
    (hm : sub 0x6040000004000000000001800000000000000000000000000030000158000080080000000400000000000040000000 M = true) : Frame M s0 (attestAnswer s x1).s := by
  exact attestCommand_frame h hm

theorem runOperation_frame {M : Nat} {s0 s : State} {x1 x2} (h : Frame M s0 s)
    (hm : sub 0x8019cc68ffb46f2f7fe000f87c0000facf9801daf8833bfcfe14ffc5c03bc783d23effd521787fe1c0181240078d00000007edffffc M = true) : Frame M s0 (runOperation s x1 x2).s := by
  unfold runOperation
  split
  · exact h
  · split
    · exact h
    · split
      · exact regRead_frame h (sub_trans rfl hm)
      · exact regWrite_frame h (sub_trans rfl hm)
      · exact hostRead_frame h (sub_trans rfl hm)
      · exact hostWrite_frame h (sub_trans rfl hm)
      · exact planWrite_frame h (sub_trans rfl hm)
      · exact loadCommand_frame h (sub_trans rfl hm)
      · exact startCommand_frame h (sub_trans rfl hm)
      · exact stopCommand_frame h (sub_trans rfl hm)
      · exact commitAnswer_frame h (sub_trans rfl hm)
      · exact attestAnswer_frame h (sub_trans rfl hm)
      · exact h

theorem State.setStream_frame {M : Nat} {s0 s : State} {x1 x2} (h : Frame M s0 s)
    (hm : sub 0x200 M = true) : Frame M s0 (State.setStream s x1 x2) := by
  unfold State.setStream
  repeat' first
    | exact sub_trans rfl hm
    | with_reducible assumption
    | with_reducible apply Frame.with_host

theorem ackEvents_frame {M : Nat} {s0 s : State} {x1} (h : Frame M s0 s)
    (hm : sub 0x200 M = true) : Frame M s0 (ackEvents s x1) := by
  unfold ackEvents
  repeat' first
    | exact sub_trans rfl hm
    | with_reducible assumption
    | (intro x; refine (?_ : Frame M s0 x → _) ?_; (intro hx; clear_value x))
    | (intro x; clear_value x)
    | intro _
    | lift_lets -underBinder
    | with_reducible apply Frame.with_host

theorem keepResponse_frame {M : Nat} {s0 s : State} {x1 x2} (h : Frame M s0 s)
    (hm : sub 0x200 M = true) : Frame M s0 (keepResponse s x1 x2) := by
  unfold keepResponse
  repeat' first
    | exact sub_trans rfl hm
    | with_reducible assumption
    | with_reducible apply State.setStream_frame
    | (intro x; refine (?_ : Frame M s0 x → _) ?_; (intro hx; clear_value x))
    | (intro x; clear_value x)
    | intro _
    | lift_lets -underBinder

theorem respond_frame {M : Nat} {s0 s : State} {x1 x2 x3 x4} (h : Frame M s0 s)
    (hm : sub 0x200000000000000000000000000000000020000200 M = true) : Frame M s0 (respond s x1 x2 x3 x4) := by
  unfold respond
  repeat' first
    | exact sub_trans rfl hm
    | with_reducible assumption
    | with_reducible apply sendFrame_frame
    | with_reducible apply keepResponse_frame
    | (intro x; refine (?_ : Frame M s0 x → _) ?_; (intro hx; clear_value x))
    | (intro x; clear_value x)
    | intro _
    | lift_lets -underBinder

theorem advanceStream_frame {M : Nat} {s0 s : State} {x1} (h : Frame M s0 s)
    (hm : sub 0x20000000000000000000000000000000000000000000000000 M = true) : Frame M s0 (advanceStream s x1) := by
  unfold advanceStream
  repeat' first
    | exact sub_trans rfl hm
    | with_reducible assumption
    | with_reducible apply State.wr_frame
    | exact has_CE_EXP_X rfl hm

theorem executeNow_frame {M : Nat} {s0 s : State} {x1 x2} (h : Frame M s0 s)
    (hm : sub 0x8019cc68ffb46f2f7fe000f87c0000facf9801daf8833bfcfe14ffc5c23bc783d23effd521787fe1c0181240078d00000007edffffc M = true) : Frame M s0 (executeNow s x1 x2) := by
  unfold executeNow
  repeat' first
    | exact sub_trans rfl hm
    | with_reducible assumption
    | with_reducible apply runOperation_frame
    | with_reducible apply respond_frame
    | with_reducible apply advanceStream_frame
    | (intro x; refine (?_ : Frame M s0 x → _) ?_; (intro hx; clear_value x))
    | (intro x; clear_value x)
    | intro _
    | lift_lets -underBinder

theorem openCommand_frame {M : Nat} {s0 s : State} {x1 x2} (h : Frame M s0 s)
    (hm : sub 0x20000000200000000000000000000000000000000020000200 M = true) : Frame M s0 (openCommand s x1 x2) := by
  unfold openCommand
  repeat' first
    | exact sub_trans rfl hm
    | with_reducible assumption
    | with_reducible apply State.setStream_frame
    | with_reducible apply advanceStream_frame
    | with_reducible apply respond_frame
    | with_reducible apply Frame.ite
    | (intro x; refine (?_ : Frame M s0 x → _) ?_; (intro hx; clear_value x))
    | (intro x; clear_value x)
    | intro _
    | split
    | lift_lets -underBinder
    | with_reducible apply Frame.with_host

theorem holdCommand_frame {M : Nat} {s0 s : State} {x1 x2} (h : Frame M s0 s)
    (hm : sub 0x200 M = true) : Frame M s0 (holdCommand s x1 x2) := by
  unfold holdCommand
  repeat' first
    | exact sub_trans rfl hm
    | with_reducible assumption
    | with_reducible apply State.setStream_frame
    | with_reducible apply Frame.ite
    | (intro x; refine (?_ : Frame M s0 x → _) ?_; (intro hx; clear_value x))
    | (intro x; clear_value x)
    | intro _
    | split
    | lift_lets -underBinder

theorem repeatResponse_frame {M : Nat} {s0 s : State} {x1} (h : Frame M s0 s)
    (hm : sub 0x100000000200000000000000000000000000000000020000200 M = true) : Frame M s0 (repeatResponse s x1) := by
  unfold repeatResponse
  repeat' first
    | exact sub_trans rfl hm
    | with_reducible assumption
    | with_reducible apply State.bump_frame
    | with_reducible apply sendFrame_frame
    | exact has_CE_DUPS_COUNT rfl hm
    | (intro x; refine (?_ : Frame M s0 x → _) ?_; (intro hx; clear_value x))
    | (intro x; clear_value x)
    | intro _
    | split
    | lift_lets -underBinder

theorem takeCommand_op_frame {M : Nat} {s0 s : State} {src c} (h : Frame M s0 s)
    (hr : ∀ u, Frame M s0 u → Frame M s0 (runOperation u c.opc c.body).s) (hm : sub 0x320000000200000000000000000000000000000000020000200 M = true) :
    Frame M s0 (takeCommand s src c) := by
  have ha := ackEvents_frame (x1 := c.ack) h (sub_trans rfl hm)
  unfold takeCommand
  dsimp only
  split
  · exact openCommand_frame ha (sub_trans rfl hm)
  · split
    · split
      · exact holdCommand_frame ha (sub_trans rfl hm)
      · exact respond_frame (advanceStream_frame (hr _ ha) (sub_trans rfl hm)) (sub_trans rfl hm)
    · split
      · exact holdCommand_frame ha (sub_trans rfl hm)
      · split
        · exact repeatResponse_frame ha (sub_trans rfl hm)
        · exact State.bump_frame ha (has_CE_WINDOW_COUNT rfl hm)

theorem takeCommand_frame {M : Nat} {s0 s : State} {src c} (h : Frame M s0 s)
    (hm : sub 0x8019cc68ffb46f2f7fe000f87c0000facf9801daf8833bfcfe14ffc5f23bc783d23effd521787fe1c0181240078d00000007edffffc M = true) : Frame M s0 (takeCommand s src c) :=
  takeCommand_op_frame h (fun _ hu => runOperation_frame hu (sub_trans rfl hm)) (sub_trans rfl hm)

theorem controlFrame_frame {M : Nat} {s0 s : State} {x1 x2} (h : Frame M s0 s)
    (hm : sub 0x8019cc68ffb46f2f7fe000f87c0000facf9801daf8833bfcfe14ffc5fa3bc783d23effd521787fe1c0181240078d00000007edffffc M = true) : Frame M s0 (controlFrame s x1 x2) := by
  unfold controlFrame
  repeat' first
    | exact sub_trans rfl hm
    | with_reducible assumption
    | with_reducible apply takeCommand_frame
    | with_reducible apply raise_frame
    | with_reducible apply State.bump_frame
    | exact has_CE_BAD_COUNT rfl hm
    | split

theorem execControlFrameRx_frame {M : Nat} {s0 s : State} {x0 x1} (h : Frame M s0 s)
    (hm : sub 0x8019cc68ffb46f2f7fe000f87c0000facf9801daf8833bfcfe14ffc5fa3bc783d37effd521787fe1c0181240078d00000007edffffc M = true) : FrameR M s0 (execControlFrameRx x0 x1 s) := by
  unfold execControlFrameRx
  repeat' first
    | exact sub_trans rfl hm
    | with_reducible assumption
    | with_reducible apply FrameR.of_next
    | with_reducible apply FrameR.whenOk
    | with_reducible apply acceptFrame_frame
    | with_reducible apply controlFrame_frame
    | (intro x; refine (?_ : Frame M s0 x → _) ?_; (intro hx; clear_value x))
    | (intro x; clear_value x)
    | intro _
    | lift_lets -underBinder

theorem commandFrame_op_frame {M : Nat} {s0 s : State} {h0 opc body} (h : Frame M s0 s)
    (hr : ∀ u, Frame M s0 u → Frame M s0 (runOperation u opc body).s) (hm : sub 0x320000000340000000000000000000000000000000020000200 M = true) :
    FrameR M s0 (commandFrame h0 opc body s) := by
  unfold commandFrame
  apply FrameR.whenOk h
  exact acceptFrame_frame h (fun _ hu => takeCommand_op_frame hu hr (sub_trans rfl hm)) (sub_trans rfl hm)

theorem runOperation_of {M : Nat} {s0 u : State} {opc b} (h : Frame M s0 u)
    (hf : Frame M s0 (match opc with
      | 0x02 => regRead u (leAt b 0 4) (leAt b 4 2) (bit (leAt b 6 2) 0) 256
      | 0x03 => regWrite u (leAt b 0 4) (bit (leAt b 6 2) 0) (wordsLE (leAt b 4 2) (b.drop 8)) 256
      | 0x10 => hostRead u (leAt b 0 8) (leAt b 8 4)
      | 0x11 => hostWrite u (leAt b 0 8) (b.drop 12)
      | 0x20 => planWrite u (leAt b 0 4) (b.drop 8)
      | 0x21 => ofStatus (loadCommand u)
      | 0x22 => ofStatus (startCommand u (leAt b 0 8))
      | 0x23 => ofStatus (stopCommand u)
      | 0x24 => commitAnswer u
      | 0x30 => attestAnswer u (b.drop 2)
      | _ => fails u stOk).s) : Frame M s0 (runOperation u opc b).s := by
  unfold runOperation
  split
  · exact h
  · split
    · exact h
    · exact hf

theorem runHeld_frame {M : Nat} {s0 s : State} {x1} (h : Frame M s0 s)
    (hm : sub 0x8019cc68ffb46f2f7fe000f87c0000facf9801daf8833bfcfe14ffc5c23bc783d23effd521787fe1c0181240078d00000007edffffc M = true) : Frame M s0 (runHeld s x1) := by
  unfold runHeld
  repeat' first
    | exact sub_trans rfl hm
    | with_reducible assumption
    | with_reducible apply State.setStream_frame
    | with_reducible apply executeNow_frame
    | (intro x; refine (?_ : Frame M s0 x → _) ?_; (intro hx; clear_value x))
    | (intro x; clear_value x)
    | intro _
    | split
    | lift_lets -underBinder

theorem execHeldCommandExecute_frame {M : Nat} {s0 s : State} {x0} (h : Frame M s0 s)
    (hm : sub 0x8019cc68ffb46f2f7fe000f87c0000facf9801daf8833bfcfe14ffc5c23bc783d23effd521787fe1c0181240078d00000007edffffc M = true) : FrameR M s0 (execHeldCommandExecute x0 s) := by
  unfold execHeldCommandExecute
  repeat' first
    | exact sub_trans rfl hm
    | with_reducible assumption
    | with_reducible apply FrameR.of_next
    | with_reducible apply FrameR.whenOk
    | with_reducible apply runHeld_frame

theorem execNop_frame {M : Nat} {s0 s : State} {x0} (h : Frame M s0 s)
    (hm : sub 0x320000000340000000000000000000000000000000020000200 M = true) : FrameR M s0 (execNop x0 s) :=
  commandFrame_op_frame h (fun _ hu => runOperation_of hu (hu)) (sub_trans rfl hm)

theorem execOpenStream_frame {M : Nat} {s0 s : State} {x0} (h : Frame M s0 s)
    (hm : sub 0x320000000340000000000000000000000000000000020000200 M = true) : FrameR M s0 (execOpenStream x0 s) :=
  commandFrame_op_frame h (fun _ hu => runOperation_of hu (hu)) (sub_trans rfl hm)

theorem execRegRead_frame {M : Nat} {s0 s : State} {x0 x1 x2 x3} (h : Frame M s0 s)
    (hm : sub 0x6040000004000000000001800000000000000000000320000030340118000080080000000400000000000060000220 M = true) : FrameR M s0 (execRegRead x0 x1 x2 x3 s) :=
  commandFrame_op_frame h (fun _ hu => runOperation_of hu (regRead_frame hu (sub_trans rfl hm))) (sub_trans rfl hm)

theorem execRegWrite_frame {M : Nat} {s0 s : State} {x0 x1 x2 x3 x4} (h : Frame M s0 s)
    (hm : sub 0x8019cc68ffb46f2f7fe000f87c0000facf9801daf8833bfcfe14ffc5f23bc783d37effd521787fe1c0181240078d00000007edffffc M = true) : FrameR M s0 (execRegWrite x0 x1 x2 x3 x4 s) :=
  commandFrame_op_frame h (fun _ hu => runOperation_of hu (regWrite_frame hu (sub_trans rfl hm))) (sub_trans rfl hm)

theorem execMemRead_frame {M : Nat} {s0 s : State} {x0 x1 x2} (h : Frame M s0 s)
    (hm : sub 0x4c68ff8000000000000000000000000001d000832bfc0814fbc072000000034c000000000101c0000000000000000002a132f80 M = true) : FrameR M s0 (execMemRead x0 x1 x2 s) :=
  commandFrame_op_frame h (fun _ hu => runOperation_of hu (hostRead_frame hu (sub_trans rfl hm))) (sub_trans rfl hm)

theorem execMemWrite_frame {M : Nat} {s0 s : State} {x0 x1 x2 x3} (h : Frame M s0 s)
    (hm : sub 0x4000ff8000000000000000000000000001d000832b7c0814fbc072000000034c000000000101c0000000000000000002a132f80 M = true) : FrameR M s0 (execMemWrite x0 x1 x2 x3 s) :=
  commandFrame_op_frame h (fun _ hu => runOperation_of hu (hostWrite_frame hu (sub_trans rfl hm))) (sub_trans rfl hm)

theorem execPlanWrite_frame {M : Nat} {s0 s : State} {x0 x1 x2 x3} (h : Frame M s0 s)
    (hm : sub 0x4000ff8000000000000000000000000001d000832b7c0814fbc072000000034c000000000101c0001000000000000002a132f80 M = true) : FrameR M s0 (execPlanWrite x0 x1 x2 x3 s) :=
  commandFrame_op_frame h (fun _ hu => runOperation_of hu (planWrite_frame hu (sub_trans rfl hm))) (sub_trans rfl hm)

theorem stepCmdWrite_frame {M : Nat} {s0 s : State} {x1} (h : Frame M s0 s)
    (hm : sub 0x814fbc040000000000000000000010000181000000000000002a012380 M = true) : Frame M s0 (stepCmdWrite s x1) := by
  unfold stepCmdWrite
  repeat' first
    | exact sub_trans rfl hm
    | with_reducible assumption
    | with_reducible apply writeStepCmd_frame
    | with_reducible apply writeStepCmd_frame_eq (by assumption)

theorem execPlanLoad_frame {M : Nat} {s0 s : State} {x0} (h : Frame M s0 s)
    (hm : sub 0x814fbc072000000034000000000010000181000000000000002a012380 M = true) : FrameR M s0 (execPlanLoad x0 s) := by
  unfold execPlanLoad
  split
  · exact commandFrame_op_frame h (fun _ hu => runOperation_of hu (loadCommand_frame hu (sub_trans rfl hm))) (sub_trans rfl hm)
  · exact FrameR.of_next (stepCmdWrite_frame h (sub_trans rfl hm))

theorem execStepStart_frame {M : Nat} {s0 s : State} {x0 x1} (h : Frame M s0 s)
    (hm : sub 0x814fbc072000000034000000000010000181000000000000002a012380 M = true) : FrameR M s0 (execStepStart x0 x1 s) := by
  unfold execStepStart
  split
  · exact commandFrame_op_frame h (fun _ hu => runOperation_of hu (startCommand_frame hu (sub_trans rfl hm))) (sub_trans rfl hm)
  · exact FrameR.whenOk h (stepCmdWrite_frame h (sub_trans rfl hm))

theorem execStepStop_frame {M : Nat} {s0 s : State} {x0} (h : Frame M s0 s)
    (hm : sub 0x814fbc072000000034000000000010000181000000000000002a012380 M = true) : FrameR M s0 (execStepStop x0 s) := by
  unfold execStepStop
  split
  · exact commandFrame_op_frame h (fun _ hu => runOperation_of hu (stopCommand_frame hu (sub_trans rfl hm))) (sub_trans rfl hm)
  · exact FrameR.of_next (stepCmdWrite_frame h (sub_trans rfl hm))

theorem execCommit_frame {M : Nat} {s0 s : State} {x0} (h : Frame M s0 s)
    (hm : sub 0x814fbc072000000034000000000010000181000000000000002a012380 M = true) : FrameR M s0 (execCommit x0 s) := by
  unfold execCommit
  split
  · exact commandFrame_op_frame h (fun _ hu => runOperation_of hu (commitAnswer_frame hu (sub_trans rfl hm))) (sub_trans rfl hm)
  · exact FrameR.of_next (stepCmdWrite_frame h (sub_trans rfl hm))

theorem peerAnswer_frame {M : Nat} {s0 : State} {src txn r} (h : Frame M s0 r.s)
    (hm : sub 0x4000ff8000000000000000000000000001d000832b7c0814fbc0c0000000020c000000003f01c0000000000000000002a132f80 M = true) : Frame M s0 (peerAnswer src txn r) := answerPeer_frame h hm

theorem peerAttest_frame {M : Nat} {s0 s : State} {x1 x2 x3} (h : Frame M s0 s)
    (hm : sub 0x4000ff8006040000004000000000001801d000832b7c0814fbc0c0000003020c158000083f81c0000040000000000006a132f80 M = true) : Frame M s0 (peerAttest s x1 x2 x3) := by
  unfold peerAttest
  repeat' first
    | exact sub_trans rfl hm
    | with_reducible assumption
    | with_reducible apply attestCommand_frame
    | with_reducible apply attestCommand_frame_eq (by assumption)
    | with_reducible apply answerPeer_frame
    | with_reducible apply Frame.ite
    | (intro x; refine (?_ : Frame M s0 x → _) ?_; (intro hx; clear_value x))
    | (intro x; clear_value x)
    | intro _
    | split
    | lift_lets -underBinder

theorem onceForPeer_frame {M : Nat} {s0 s : State} {src txn f} (h : Frame M s0 s)
    (hf : ∀ u, Frame M s0 u → Frame M s0 (f u)) (hm : sub 0x4000ff8000000000000000000000000001d000832b7c0814fbc0c0000000020c000000003f01c0000000000000000002a132f80 M = true) :
    Frame M s0 (onceForPeer s src txn f) := by
  unfold onceForPeer
  split
  · exact sendReply_frame h (sub_trans rfl hm)
  · exact hf _ h

theorem peerRegister_frame {M : Nat} {s0 s : State} {x1 x2 x3} (h : Frame M s0 s)
    (hm : sub 0x8019cc68ffb46f2f7fe000f87c0000facf9801daf8833bfcfe14ffc5c03bc783d23efbd521787fe1c0181240078d00000007edffffc M = true) : Frame M s0 (peerRegister s x1 x2 x3) := by
  unfold peerRegister
  split
  · refine peerAnswer_frame ?_ (sub_trans rfl hm)
    split
    · exact h
    · exact regRead_frame h (sub_trans rfl hm)
  · refine peerAnswer_frame ?_ (sub_trans rfl hm)
    split
    · exact h
    · split
      · exact h
      · exact regWrite_frame h (sub_trans rfl hm)

theorem execPeerRegisterCommand_frame {M : Nat} {s0 s : State} {x0 x1 x2} (h : Frame M s0 s)
    (hm : sub 0x8019cc68ffb46f2f7fe000f87c0000facf9801daf8833bfcfe14ffc5c03bc783d23efbd521787fe1c0181240078d00000007edffffc M = true) : FrameR M s0 (execPeerRegisterCommand x0 x1 x2 s) := by
  unfold execPeerRegisterCommand
  repeat' first
    | exact sub_trans rfl hm
    | with_reducible assumption
    | with_reducible apply FrameR.of_next
    | with_reducible apply FrameR.whenOk
    | with_reducible apply onceForPeer_frame
    | with_reducible apply peerRegister_frame
    | (intro x; refine (?_ : Frame M s0 x → _) ?_; (intro hx; clear_value x))
    | (intro x; clear_value x)
    | intro _
    | lift_lets -underBinder

theorem execAttest_frame {M : Nat} {s0 s : State} {x0 x1 x2} (h : Frame M s0 s)
    (hm : sub 0x4000ff8006040000004000000000001801d000832b7c0814fbc0f2000003034c158000083f81c0000040000000000006a132f80 M = true) : FrameR M s0 (execAttest x0 x1 x2 s) := by
  unfold execAttest
  split
  · exact commandFrame_op_frame h (fun _ hu => runOperation_of hu (attestAnswer_frame hu (sub_trans rfl hm))) (sub_trans rfl hm)
  · exact FrameR.of_next (onceForPeer_frame h (fun _ hu => Frame.ite (peerAttest_frame hu (sub_trans rfl hm))
      (answerPeer_frame hu (sub_trans rfl hm))) (sub_trans rfl hm))

theorem sendEvents_frame {M : Nat} {s0 s : State} {x1} (h : Frame M s0 s)
    (hm : sub 0x40000000200000000000000000000000000000000020000200 M = true) : Frame M s0 (sendEvents s x1) := by
  unfold sendEvents
  repeat' first
    | exact sub_trans rfl hm
    | with_reducible assumption
    | with_reducible apply sendFrame_frame
    | with_reducible apply State.wr_frame
    | exact has_EVT_NEXT_SEQ rfl hm
    | (intro x; refine (?_ : Frame M s0 x → _) ?_; (intro hx; clear_value x))
    | (intro x; clear_value x)
    | intro _
    | lift_lets -underBinder
    | with_reducible apply Frame.with_host

theorem execEventFrameSend_frame {M : Nat} {s0 s : State} (h : Frame M s0 s)
    (hm : sub 0x40000000200000000000000000000000000000000020000200 M = true) : FrameR M s0 (execEventFrameSend s) := by
  unfold execEventFrameSend
  repeat' first
    | exact sub_trans rfl hm
    | with_reducible assumption
    | with_reducible apply FrameR.of_next
    | with_reducible apply FrameR.whenOk
    | with_reducible apply sendEvents_frame
    | split

theorem execEventFrameRetx_frame {M : Nat} {s0 s : State} {x0} (h : Frame M s0 s)
    (hm : sub 0x200000000000000000000000000000000020000200 M = true) : FrameR M s0 (execEventFrameRetx x0 s) := by
  unfold execEventFrameRetx
  repeat' first
    | exact sub_trans rfl hm
    | with_reducible assumption
    | with_reducible apply FrameR.of_next
    | with_reducible apply FrameR.whenOk
    | with_reducible apply sendFrame_frame
    | split

end Sys2Proof.Machine
end

