-- ==== Sys2Proof/Laws/FramePlanImage.lean ====
section
/-! SUPPORT. Frame lemmas for the functions of Machine/PlanImage.lean. -/

set_option Elab.async false
set_option linter.all false

namespace Sys2Proof.Machine

theorem regsRecord_frame {M : Nat} {s0 s : State} {x1 x2 x3} (h : Frame M s0 s)
    (hm : sub 0x8019cc68ffb46f2f7fe000f87c0000facf9801daf8833bfcfe14ffc5c03bc782d23efbd521787fe1c0181240078d00000007edfffdc M = true) : Frame M s0 (regsRecord s x1 x2 x3).2 := by
  unfold regsRecord
  repeat' first
    | exact sub_trans rfl hm
    | with_reducible assumption
    | with_reducible apply writeWord_frame
    | with_reducible apply writeWord_frame_eq (by assumption)
    | with_reducible apply Frame.ite
    | (intro x; refine (?_ : Frame M s0 x → _) ?_; (intro hx; clear_value x))
    | (intro x; clear_value x)
    | intro _
    | split
    | lift_lets -underBinder
    | dsimp only

theorem regsRecord_frame_eq {M : Nat} {s0 s : State} {x1 x2 x3} {a0 t} (e : regsRecord s x1 x2 x3 = (a0, t)) (h : Frame M s0 s)
    (hm : sub 0x8019cc68ffb46f2f7fe000f87c0000facf9801daf8833bfcfe14ffc5c03bc782d23efbd521787fe1c0181240078d00000007edfffdc M = true) : Frame M s0 t := by
  have := regsRecord_frame (x1 := x1) (x2 := x2) (x3 := x3) h hm
  rwa [e] at this

theorem regsStep_frame {M : Nat} {s0 : State} {r x1} (h : Frame M s0 r.s)
    (hm : sub 0x8019cc68ffb46f2f7fe000f87c0000facf9801daf8833bfcfe14ffc5c03bc782d23efbd521787fe1c0181240078d00000007edfffdc M = true) : Frame M s0 (regsStep r x1).s := by
  unfold regsStep
  dsimp only
  split
  · exact h
  · exact regsRecord_frame h hm

theorem loadRegs_frame {M : Nat} {s0 s : State} {x1 x2} (h : Frame M s0 s)
    (hm : sub 0x8019cc68ffb46f2f7fe000f87c0000facf9801daf8833bfcfe14ffc5c03bc782d23efbd521787fe1c0181240078d00000007edfffdc M = true) : Frame M s0 (loadRegs s x1 x2).s :=
  Frame.foldl_on (get := RegsLoad.s) (fun _ _ hu => regsStep_frame hu hm) h

theorem putShadow_frame {M : Nat} {s0 s : State} {x1 x2 x3} (h : Frame M s0 s)
    (hm : sub 0x8 M = true) : Frame M s0 (putShadow s x1 x2 x3) := by
  unfold putShadow
  repeat' first
    | exact sub_trans rfl hm
    | with_reducible assumption
    | with_reducible apply State.wrSh_frame
    | with_reducible refine Frame.foldl (fun u a hu => ?_) ?_
    | with_reducible refine Frame.foldl_on (get := Prod.fst) (fun u a hu => ?_) ?_
    | with_reducible refine Frame.foldl_on (get := Prod.snd) (fun u a hu => ?_) ?_
    | (intro x; refine (?_ : Frame M s0 x → _) ?_; (intro hx; clear_value x))
    | (intro x; clear_value x)
    | intro _
    | lift_lets -underBinder

theorem loadPrecision_frame {M : Nat} {s0 s : State} {x1 x2} (h : Frame M s0 s)
    (hm : sub 0x8 M = true) : Frame M s0 (loadPrecision s x1 x2) := by
  unfold loadPrecision
  repeat' first
    | exact sub_trans rfl hm
    | with_reducible assumption
    | with_reducible apply putShadow_frame
    | with_reducible refine Frame.foldl (fun u a hu => ?_) ?_
    | with_reducible refine Frame.foldl_on (get := Prod.fst) (fun u a hu => ?_) ?_
    | with_reducible refine Frame.foldl_on (get := Prod.snd) (fun u a hu => ?_) ?_
    | (intro x; refine (?_ : Frame M s0 x → _) ?_; (intro hx; clear_value x))
    | (intro x; clear_value x)
    | intro _
    | lift_lets -underBinder

theorem loadFiles_frame {M : Nat} {s0 s : State} {x1 x2} (h : Frame M s0 s)
    (hm : sub 0x1000 M = true) : Frame M s0 (loadFiles s x1 x2) := by
  unfold loadFiles
  repeat' first
    | exact sub_trans rfl hm
    | with_reducible assumption
    | with_reducible apply loadRecords_frame
    | with_reducible refine Frame.foldl (fun u a hu => ?_) ?_
    | with_reducible refine Frame.foldl_on (get := Prod.fst) (fun u a hu => ?_) ?_
    | with_reducible refine Frame.foldl_on (get := Prod.snd) (fun u a hu => ?_) ?_
    | (intro x; refine (?_ : Frame M s0 x → _) ?_; (intro hx; clear_value x))
    | (intro x; clear_value x)
    | intro _
    | lift_lets -underBinder

theorem loadData_frame {M : Nat} {s0 s : State} {x1 x2} (h : Frame M s0 s)
    (hm : sub 0x4000ff8000000000000000000000000001d00083237c0814fbc040000000000c000000000101c0000000000000000002a133f80 M = true) : Frame M s0 (loadData s x1 x2) := by
  unfold loadData
  repeat' first
    | exact sub_trans rfl hm
    | with_reducible assumption
    | with_reducible apply storeFor_frame
    | with_reducible apply State.spWrite_frame
    | with_reducible apply Frame.ite
    | with_reducible refine Frame.foldl (fun u a hu => ?_) ?_
    | with_reducible refine Frame.foldl_on (get := Prod.fst) (fun u a hu => ?_) ?_
    | with_reducible refine Frame.foldl_on (get := Prod.snd) (fun u a hu => ?_) ?_
    | (intro x; refine (?_ : Frame M s0 x → _) ?_; (intro hx; clear_value x))
    | (intro x; clear_value x)
    | intro _
    | split
    | lift_lets -underBinder

theorem loadBanks_frame {M : Nat} {s0 s : State} {x1 x2} (h : Frame M s0 s)
    (hm : sub 0x8019cc68ffb46f2f7fe000f87c0000facf9801daf8833bfcfe14ffc5c03bc782d23efbd521787fe1c0181240078d00000007edfffdc M = true) : Frame M s0 (loadBanks s x1 x2).s := by
  have h1 := loadRegs_frame (x1 := x1) (x2 := x2) (Frame.with_step (v0 := { s.step with armed := none, commitAt := [] }) h
    (sub_trans rfl hm)) (sub_trans rfl hm)
  have h2 := loadPrecision_frame (x1 := x1) (x2 := x2) h1 (sub_trans rfl hm)
  have h3 := loadFiles_frame (x1 := x1) (x2 := x2) h2 (sub_trans rfl hm)
  have h4 := loadData_frame (x1 := x1) (x2 := x2) h3 (sub_trans rfl hm)
  exact Frame.with_step h4 (sub_trans rfl hm)

theorem asCommitted_frame {M : Nat} {s0 s : State} (h : Frame M s0 s)
    (hm : sub 0x1004 M = true) : Frame M s0 (asCommitted s) := by
  unfold asCommitted
  repeat' first
    | exact fun h => Table.rising_put h
    | exact fun h => Table.rising_erase h
    | exact fun h => Table.rising_filter h
    | exact fun h => Table.rising_putAll h
    | exact fun _ => rfl
    | exact fun h => Table.rising_putAll (Table.rising_filter h)
    | exact sub_trans rfl hm
    | with_reducible assumption
    | exact has_any rfl hm
    | (intro x; refine (?_ : Frame M s0 x → _) ?_; (intro hx; clear_value x))
    | (intro x; clear_value x)
    | intro _
    | lift_lets -underBinder
    | with_reducible apply Frame.with_regs_kites

end Sys2Proof.Machine
end

