-- ==== Sys2Proof/Laws/FramePlanCheck.lean ====
section
/-! SUPPORT. Frame lemmas for the functions of Machine/PlanCheck.lean. -/

set_option Elab.async false
set_option linter.all false

namespace Sys2Proof.Machine

theorem loadOps_frame {M : Nat} {s0 s : State} {x1} (h : Frame M s0 s)
    (hm : sub 0x8 M = true) : Frame M s0 (loadOps s x1) := by
  unfold loadOps
  repeat' first
    | exact sub_trans rfl hm
    | with_reducible assumption
    | with_reducible apply State.wrSh_frame
    | with_reducible refine Frame.foldl (fun u a hu => ?_) ?_
    | with_reducible refine Frame.foldl_on (get := Prod.fst) (fun u a hu => ?_) ?_
    | with_reducible refine Frame.foldl_on (get := Prod.snd) (fun u a hu => ?_) ?_
    | (intro x; refine (?_ : Frame M s0 x → _) ?_; (intro hx; clear_value x))
    | (intro x; clear_value x)
    | intro _
    | split
    | lift_lets -underBinder

theorem loadGovState_frame {M : Nat} {s0 s : State} {x1 x2} (h : Frame M s0 s)
    (hm : sub 0x8000 M = true) : Frame M s0 (loadGovState s x1 x2) := by
  unfold loadGovState
  repeat' first
    | exact sub_trans rfl hm
    | with_reducible assumption
    | with_reducible apply loadGovernor_frame
    | (intro x; refine (?_ : Frame M s0 x → _) ?_; (intro hx; clear_value x))
    | (intro x; clear_value x)
    | intro _
    | lift_lets -underBinder

theorem loadPlan_frame {M : Nat} {s0 s : State} (h : Frame M s0 s)
    (hm : sub 0x8019cc68ffb46f2f7fe000f87c0000facf9801daf8833bfcfe14ffc5c03bc782d23efbd521787fe1c018b240078d00000007edfffdc M = true) : Frame M s0 (loadPlan s) := by
  unfold loadPlan
  repeat' first
    | exact sub_trans rfl hm
    | with_reducible assumption
    | with_reducible apply loadOps_frame
    | with_reducible apply loadBanks_frame
    | with_reducible apply loadGovState_frame
    | with_reducible apply unpinLines_frame
    | with_reducible apply State.wrSh_frame
    | with_reducible apply State.wr_frame
    | with_reducible apply raise_frame
    | with_reducible apply extendMr_frame
    | exact has_PLAN_CRC_CRC rfl hm
    | exact has_PLAN_STAT_REASON rfl hm
    | exact has_PLAN_STAT_STATE rfl hm
    | (intro x; refine (?_ : Frame M s0 x → _) ?_; (intro hx; clear_value x))
    | (intro x; clear_value x)
    | intro _
    | lift_lets -underBinder
    | with_reducible apply Frame.with_plan

theorem rejectPlan_frame {M : Nat} {s0 s : State} {x1} (h : Frame M s0 s)
    (hm : sub 0x814fbc040000000000000000000000000007000000000000000a010380 M = true) : Frame M s0 (rejectPlan s x1) := by
  unfold rejectPlan
  repeat' first
    | exact sub_trans rfl hm
    | with_reducible assumption
    | with_reducible apply raise_frame
    | with_reducible apply State.wr_frame
    | exact has_PLAN_REJ_OFS_OFFSET rfl hm
    | exact has_PLAN_STAT_REASON rfl hm
    | exact has_PLAN_STAT_STATE rfl hm

theorem judgePlan_frame {M : Nat} {s0 s : State} (h : Frame M s0 s)
    (hm : sub 0x8019cc68ffb46f2f7fe000f87c0000facf9801daf8833bfcfe14ffc5c03bc782d23efbd521787fe1c018f240078d00000007edfffdc M = true) : Frame M s0 (judgePlan s) := by
  unfold judgePlan
  repeat' first
    | exact sub_trans rfl hm
    | with_reducible assumption
    | with_reducible apply rejectPlan_frame
    | with_reducible apply loadPlan_frame
    | split

theorem finishCheck_frame {M : Nat} {s0 s : State} (h : Frame M s0 s)
    (hm : sub 0x8019cc68ffb46f2f7fe000f87c0000facf9801daf8833bfcfe14ffc5c03bc782d23efbd521787fe1c018f240078d00000007edfffdc M = true) : Frame M s0 (finishCheck s) := by
  unfold finishCheck
  repeat' first
    | exact sub_trans rfl hm
    | with_reducible assumption
    | with_reducible apply readFor_frame
    | with_reducible apply readFor_frame_eq (by assumption)
    | with_reducible apply judgePlan_frame
    | with_reducible apply rejectPlan_frame
    | split

theorem execPlanCheckDone_frame {M : Nat} {s0 s : State} (h : Frame M s0 s)
    (hm : sub 0x8019cc68ffb46f2f7fe000f87c0000facf9801daf8833bfcfe14ffc5c03bc782d23efbd521787fe1c018f240078d00000007edfffdc M = true) : FrameR M s0 (execPlanCheckDone s) := by
  unfold execPlanCheckDone
  repeat' first
    | exact sub_trans rfl hm
    | with_reducible assumption
    | with_reducible apply FrameR.of_next
    | with_reducible apply FrameR.whenOk
    | with_reducible apply finishCheck_frame

end Sys2Proof.Machine
end

