-- ==== Sys2Proof/Laws/FramePort.lean ====
section
/-! SUPPORT. Frame lemmas for the functions of Machine/Port.lean. -/

set_option Elab.async false
set_option linter.all false

namespace Sys2Proof.Machine

theorem filterFrame_frame {M : Nat} {s0 s : State} {x1} (h : Frame M s0 s)
    (hm : sub 0x180000000000000000000000000000000000000000 M = true) : Frame M s0 (filterFrame s x1) := by
  unfold filterFrame
  repeat' first
    | exact sub_trans rfl hm
    | with_reducible assumption
    | with_reducible apply State.bump_frame
    | with_reducible apply Frame.ite
    | exact has_RX_FCS_ERR_COUNT rfl hm
    | exact has_RX_FILTERED_COUNT rfl hm
    | split

theorem execHostFrameDropped_frame {M : Nat} {s0 s : State} {x0} (h : Frame M s0 s)
    (hm : sub 0x180000000000000000000000000000000000000000 M = true) : FrameR M s0 (execHostFrameDropped x0 s) := by
  unfold execHostFrameDropped
  repeat' first
    | exact sub_trans rfl hm
    | with_reducible assumption
    | with_reducible apply FrameR.of_next
    | with_reducible apply FrameR.whenOk
    | with_reducible apply filterFrame_frame

theorem execPauseRx_frame {M : Nat} {s0 s : State} (h : Frame M s0 s)
    (hm : sub 0x400000000000000000000000000000000000000000 M = true) : FrameR M s0 (execPauseRx s) := by
  unfold execPauseRx
  repeat' first
    | exact sub_trans rfl hm
    | with_reducible assumption
    | with_reducible apply FrameR.of_next
    | with_reducible apply FrameR.whenOk
    | with_reducible apply State.bump_frame
    | exact has_PAUSE_RX_COUNT rfl hm

theorem State.setPtp_frame {M : Nat} {s0 s : State} {x1} (h : Frame M s0 s)
    (hm : sub 0x200 M = true) : Frame M s0 (State.setPtp s x1) := by
  unfold State.setPtp
  repeat' first
    | exact sub_trans rfl hm
    | with_reducible assumption
    | with_reducible apply Frame.with_host

theorem ptpTake_frame {M : Nat} {s0 s : State} {x1} (h : Frame M s0 s)
    (hm : sub 0x200 M = true) : Frame M s0 (ptpTake s x1) := by
  unfold ptpTake
  repeat' first
    | exact sub_trans rfl hm
    | with_reducible assumption
    | with_reducible apply State.setPtp_frame
    | with_reducible apply Frame.ite
    | (intro x; refine (?_ : Frame M s0 x → _) ?_; (intro hx; clear_value x))
    | (intro x; clear_value x)
    | intro _
    | split
    | lift_lets -underBinder

theorem execPtpMessage_frame {M : Nat} {s0 s : State} {x0} (h : Frame M s0 s)
    (hm : sub 0x240000000000000000000000000000000000000200 M = true) : FrameR M s0 (execPtpMessage x0 s) := by
  unfold execPtpMessage
  repeat' first
    | exact sub_trans rfl hm
    | with_reducible assumption
    | with_reducible apply FrameR.of_next
    | with_reducible apply FrameR.whenOk
    | with_reducible apply State.bump_frame
    | with_reducible apply ptpTake_frame
    | exact has_RX_FRAMES_COUNT rfl hm
    | exact has_TX_FRAMES_COUNT rfl hm
    | split

theorem portRises_frame {M : Nat} {s0 s : State} {x1} (h : Frame M s0 s)
    (hm : sub 0x814fbc040000000103000000000000000000000000000000000a010380 M = true) : Frame M s0 (portRises s x1) := by
  unfold portRises
  repeat' first
    | exact sub_trans rfl hm
    | with_reducible assumption
    | with_reducible apply raise_frame
    | with_reducible apply State.wr_frame
    | exact has_PORT_STAT_FEC_LOCK rfl hm
    | exact has_PORT_STAT_LINK rfl hm
    | exact has_SC_STAT_PREEMPT rfl hm

theorem execHostLinkUp_frame {M : Nat} {s0 s : State} {x0} (h : Frame M s0 s)
    (hm : sub 0x814fbc040000000103000000000000000000000000000000000a010380 M = true) : FrameR M s0 (execHostLinkUp x0 s) := by
  unfold execHostLinkUp
  repeat' first
    | exact sub_trans rfl hm
    | with_reducible assumption
    | with_reducible apply FrameR.of_next
    | with_reducible apply FrameR.whenOk
    | with_reducible apply portRises_frame

theorem execHostLinkDown_frame {M : Nat} {s0 s : State} (h : Frame M s0 s)
    (hm : sub 0x814fbc040000000103000000000000000000000000000000000a010380 M = true) : FrameR M s0 (execHostLinkDown s) := by
  unfold execHostLinkDown
  repeat' first
    | exact sub_trans rfl hm
    | with_reducible assumption
    | with_reducible apply FrameR.of_next
    | with_reducible apply FrameR.whenOk
    | with_reducible apply portFalls_frame

end Sys2Proof.Machine
end

