-- ==== Sys2Proof/Laws/FrameScanOut.lean ====
section
/-! SUPPORT. Frame lemmas for the functions of Machine/ScanOut.lean. -/

set_option Elab.async false
set_option linter.all false

namespace Sys2Proof.Machine

theorem captured_frame {M : Nat} {s0 s : State} {x1 x2} (h : Frame M s0 s)
    (hm : sub 0x40000000 M = true) : Frame M s0 (captured s x1 x2).2 := by
  unfold captured
  repeat' first
    | exact sub_trans rfl hm
    | with_reducible assumption
    | with_reducible apply State.draw_frame
    | with_reducible apply State.draw_frame_eq (by assumption)
    | (intro x; refine (?_ : Frame M s0 x → _) ?_; (intro hx; clear_value x))
    | (intro x; clear_value x)
    | intro _
    | split
    | lift_lets -underBinder
    | dsimp only

theorem captured_frame_eq {M : Nat} {s0 s : State} {x1 x2} {a0 t} (e : captured s x1 x2 = (a0, t)) (h : Frame M s0 s)
    (hm : sub 0x40000000 M = true) : Frame M s0 t := by
  have := captured_frame (x1 := x1) (x2 := x2) h hm
  rwa [e] at this

theorem capturedAll_frame {M : Nat} {s0 s : State} {x1} (h : Frame M s0 s)
    (hm : sub 0x40000000 M = true) : Frame M s0 (capturedAll s x1).2 := by
  unfold capturedAll
  repeat' first
    | exact sub_trans rfl hm
    | with_reducible assumption
    | with_reducible apply captured_frame
    | with_reducible apply captured_frame_eq (by assumption)
    | with_reducible refine Frame.foldl (fun u a hu => ?_) ?_
    | with_reducible refine Frame.foldl_on (get := Prod.fst) (fun u a hu => ?_) ?_
    | with_reducible refine Frame.foldl_on (get := Prod.snd) (fun u a hu => ?_) ?_
    | (intro x; refine (?_ : Frame M s0 x → _) ?_; (intro hx; clear_value x))
    | (intro x; clear_value x)
    | intro _
    | split
    | lift_lets -underBinder
    | dsimp only

theorem capturedAll_frame_eq {M : Nat} {s0 s : State} {x1} {a0 t} (e : capturedAll s x1 = (a0, t)) (h : Frame M s0 s)
    (hm : sub 0x40000000 M = true) : Frame M s0 t := by
  have := capturedAll_frame (x1 := x1) h hm
  rwa [e] at this

theorem writeBlob_frame {M : Nat} {s0 s : State} {y0 x2} (h : Frame M s0 s)
    (hm : sub 0x4000ff8006040000004000000000001801d00083237c0814fbc040000003000c118000080181c0000040000000000006a132f80 M = true) : Frame M s0 (writeBlob y0 s x2) := by
  unfold writeBlob
  repeat' first
    | exact sub_trans rfl hm
    | with_reducible assumption
    | with_reducible apply capturedAll_frame
    | with_reducible apply capturedAll_frame_eq (by assumption)
    | with_reducible apply storeFor_frame
    | (intro x; refine (?_ : Frame M s0 x → _) ?_; (intro hx; clear_value x))
    | (intro x; clear_value x)
    | intro _
    | split
    | lift_lets -underBinder

theorem scanOut_frame {M : Nat} {s0 s : State} (h : Frame M s0 s)
    (hm : sub 0x4000ff8006040000004000000000001801d00083237c0814fbc040000003000c118000080181c0000040000000000006a132f80 M = true) : Frame M s0 (scanOut s) := by
  unfold scanOut
  repeat' first
    | exact sub_trans rfl hm
    | with_reducible assumption
    | with_reducible apply writeBlob_frame
    | with_reducible apply storeFor_frame
    | with_reducible apply raise_frame
    | with_reducible apply State.wr_frame
    | with_reducible refine Frame.foldl (fun u a hu => ?_) ?_
    | with_reducible refine Frame.foldl_on (get := Prod.fst) (fun u a hu => ?_) ?_
    | with_reducible refine Frame.foldl_on (get := Prod.snd) (fun u a hu => ?_) ?_
    | exact has_HD_STAT_STATE rfl hm
    | (intro x; refine (?_ : Frame M s0 x → _) ?_; (intro hx; clear_value x))
    | (intro x; clear_value x)
    | intro _
    | lift_lets -underBinder

theorem execScanDone_frame {M : Nat} {s0 s : State} (h : Frame M s0 s)
    (hm : sub 0x4000ff8006040000004000000000001801d00083237c0814fbc040000003000c118000080181c0000040000000000006a132f80 M = true) : FrameR M s0 (execScanDone s) := by
  unfold execScanDone
  repeat' first
    | exact sub_trans rfl hm
    | with_reducible assumption
    | with_reducible apply FrameR.of_next
    | with_reducible apply FrameR.whenOk
    | with_reducible apply scanOut_frame

end Sys2Proof.Machine
end

