-- ==== Sys2Proof/Laws/FrameSideband.lean ====
section
/-! SUPPORT. Frame lemmas for the functions of Machine/Sideband.lean. -/

set_option Elab.async false
set_option linter.all false

namespace Sys2Proof.Machine

theorem State.setSide_frame {M : Nat} {s0 s : State} {x1} (h : Frame M s0 s)
    (hm : sub 0x200000 M = true) : Frame M s0 (State.setSide s x1) := by
  unfold State.setSide
  repeat' first
    | exact sub_trans rfl hm
    | with_reducible assumption
    | with_reducible apply Frame.with_sb

theorem refreshHealth_frame {M : Nat} {s0 s : State} (h : Frame M s0 s)
    (hm : sub 0x200000 M = true) : Frame M s0 (refreshHealth s) := by
  unfold refreshHealth
  repeat' first
    | exact sub_trans rfl hm
    | with_reducible assumption
    | with_reducible apply State.setSide_frame

theorem execHealthRefresh_frame {M : Nat} {s0 s : State} (h : Frame M s0 s)
    (hm : sub 0x200000 M = true) : FrameR M s0 (execHealthRefresh s) := by
  unfold execHealthRefresh
  repeat' first
    | exact sub_trans rfl hm
    | with_reducible assumption
    | with_reducible apply FrameR.of_next
    | with_reducible apply FrameR.whenOk
    | with_reducible apply refreshHealth_frame

theorem execHealth_frame {M : Nat} {s0 s : State} (h : Frame M s0 s)
    (hm : sub 0x20200000 M = true) : FrameR M s0 (execHealth s) := by
  unfold execHealth
  repeat' first
    | exact sub_trans rfl hm
    | with_reducible assumption
    | with_reducible apply FrameR.of_next
    | with_reducible apply FrameR.whenOk
    | with_reducible apply State.emit_frame

theorem execRegAddr_frame {M : Nat} {s0 s : State} {x0} (h : Frame M s0 s)
    (hm : sub 0x200000 M = true) : FrameR M s0 (execRegAddr x0 s) := by
  unfold execRegAddr
  repeat' first
    | exact sub_trans rfl hm
    | with_reducible assumption
    | with_reducible apply FrameR.of_next
    | with_reducible apply FrameR.whenOk
    | with_reducible apply State.setSide_frame

theorem finishSideRead_frame {M : Nat} {s0 s : State} {x1} (h : Frame M s0 s)
    (hm : sub 0x6040000004000000000001800000000000000000000000000030000118000080080000000400000000000040200020 M = true) : Frame M s0 (finishSideRead s x1) := by
  unfold finishSideRead
  split
  next e => exact State.setSide_frame (regAt_frame_some e (readReg_frame h (sub_trans rfl hm))) (sub_trans rfl hm)
  next => exact State.setSide_frame h (sub_trans rfl hm)

theorem execSidebandReadDone_frame {M : Nat} {s0 s : State} (h : Frame M s0 s)
    (hm : sub 0x6040000004000000000001800000000000000000000000000030000118000080080000000400000000000040200020 M = true) : FrameR M s0 (execSidebandReadDone s) := by
  unfold execSidebandReadDone
  repeat' first
    | exact sub_trans rfl hm
    | with_reducible assumption
    | with_reducible apply FrameR.of_next
    | with_reducible apply FrameR.whenOk
    | with_reducible apply finishSideRead_frame
    | split

theorem execRegGet_frame {M : Nat} {s0 s : State} (h : Frame M s0 s)
    (hm : sub 0x20200000 M = true) : FrameR M s0 (execRegGet s) := by
  unfold execRegGet
  repeat' first
    | exact sub_trans rfl hm
    | with_reducible assumption
    | with_reducible apply FrameR.of_next
    | with_reducible apply FrameR.whenOk
    | with_reducible apply FrameR.ite
    | with_reducible apply State.emit_frame
    | with_reducible apply State.setSide_frame
    | with_reducible apply Frame.ite
    | split

theorem sidePut_frame {M : Nat} {s0 s : State} {x1 x2} (h : Frame M s0 s)
    (hm : sub 0x8019cc68ffb46f2f7fe000f87c0000facf9801daf8833bfcfe14ffc5c03bc782d23efa5521787fe1c0181240078d00000003effffdc M = true) : Frame M s0 (sidePut s x1 x2) := by
  unfold sidePut
  split
  · exact State.setSide_frame h (sub_trans rfl hm)
  · split
    next e =>
      have h1 := regAt_frame_some e (writeReg_frame h (sub_trans rfl hm))
      split
      · exact State.setSide_frame h1 (sub_trans rfl hm)
      · exact h1
    next => exact State.setSide_frame h (sub_trans rfl hm)

theorem execRegPut_frame {M : Nat} {s0 s : State} {x0 x1} (h : Frame M s0 s)
    (hm : sub 0x8019cc68ffb46f2f7fe000f87c0000facf9801daf8833bfcfe14ffc5c03bc782d23efa5521787fe1c0181240078d00000003effffdc M = true) : FrameR M s0 (execRegPut x0 x1 s) := by
  unfold execRegPut
  repeat' first
    | exact sub_trans rfl hm
    | with_reducible assumption
    | with_reducible apply FrameR.of_next
    | with_reducible apply FrameR.whenOk
    | with_reducible apply sidePut_frame

theorem execDynamicAddressing_frame {M : Nat} {s0 s : State} {x0} (h : Frame M s0 s)
    (hm : sub 0x200000 M = true) : FrameR M s0 (execDynamicAddressing x0 s) := by
  unfold execDynamicAddressing
  repeat' first
    | exact sub_trans rfl hm
    | with_reducible assumption
    | with_reducible apply FrameR.of_next
    | with_reducible apply FrameR.whenOk
    | with_reducible apply State.setSide_frame

end Sys2Proof.Machine
end

