-- ==== Sys2Proof/Laws/Footprint.lean ====
section
/-! SUPPORT. From the footprints as numbers to the footprints of Safety.lean. -/

namespace Sys2Proof.Machine

/-- The footprint `f` lists every part and field that the number `m` lists. -/
def Foot.covers (f : Foot) (m : Nat) : Bool :=
  [Part.pending, .tick, .regs, .shadow, .held, .hiLatch, .frozen, .hdrs, .ec, .host, .hbm, .mem, .kites, .step, .seqs, .gov, .fab, .winch, .burner, .sc, .recov, .sb, .tb, .trust, .pwr, .hd, .plan, .trace, .traceFull, .out, .fresh].all (fun p => !m.testBit p.bit || f.parts.contains p)
    && (f.parts.contains .regs
      || (!m.testBit 2 && written.zipIdx.all (fun e => !m.testBit (32 + e.2) || f.fields.contains e.1)))

theorem keeps_of_frame {f : Foot} {m : Nat} {s t : State} (hc : f.covers m = true) (h : Frame m s t) : Keeps f s t := by
  unfold Foot.covers at hc
  rw [Bool.and_eq_true] at hc
  refine ⟨fun p hp hr => h.same p hr ?_, fun hr k hk => ?_⟩
  · have := List.all_eq_true.1 hc.1 p (by cases p <;> simp)
    cases e : m.testBit p.bit
    · rfl
    · simp [e, hp] at this
  · have h2 := hc.2
    rw [Bool.or_eq_true, Bool.and_eq_true] at h2
    rcases h2 with h2 | ⟨h2, h3⟩
    · exact absurd (by simpa using h2) hr
    · refine h.regs (by simpa using h2) k fun j x hj hx n i hv => hk x ?_ n i hv
      have hz : (x, j) ∈ written.zipIdx := by
        rw [List.mk_mem_zipIdx_iff_getElem?]
        exact hx
      have := List.all_eq_true.1 h3 (x, j) hz
      simpa [hj] using this

end Sys2Proof.Machine
end

