-- ==== Sys2Proof/Laws/Keys.lean ====
section
/-! SUPPORT. Different fields have different keys, so a frame keeps what a read of any field outside it gives. -/

namespace Sys2Proof.Machine

theorem pageBase_inv_kite : ∀ n : Fin 136,
    pageOf id (pageBase .kiteCtl n) = some ⟨.kiteCtl, n⟩ ∧ pageOf id (pageBase .kiteArr n) = some ⟨.kiteArr, n⟩ ∧
      pageOf id (pageBase .kiteVec n) = some ⟨.kiteVec, n⟩ ∧ pageOf id (pageBase .kiteEnv n) = some ⟨.kiteEnv, n⟩ := by
  decide +kernel

theorem pageBase_inv_stack : ∀ n : Fin 16,
    pageOf id (pageBase .stackCtl n) = some ⟨.stackCtl, n⟩ ∧ pageOf id (pageBase .stackErr n) = some ⟨.stackErr, n⟩ ∧
      pageOf id (pageBase .stackChan n) = some ⟨.stackChan, n⟩ := by decide +kernel

theorem pageBase_inv_line : ∀ n : Fin 32,
    pageOf id (pageBase .lineCtl n) = some ⟨.lineCtl, n⟩ ∧ pageOf id (pageBase .lineLane n) = some ⟨.lineLane, n⟩ := by
  decide +kernel

theorem pageBase_inv_train : ∀ n : Fin 8,
    pageOf id (pageBase .trainCtl n) = some ⟨.trainCtl, n⟩ ∧ pageOf id (pageBase .spool n) = some ⟨.spool, n⟩ ∧
      pageOf id (pageBase .regulator n) = some ⟨.regulator, n⟩ ∧ pageOf id (pageBase .winch n) = some ⟨.winch, n⟩ ∧
        pageOf id (pageBase .burner n) = some ⟨.burner, n⟩ ∧ pageOf id (pageBase .reel n) = some ⟨.reel, n⟩ := by
  decide +kernel

theorem pageBase_inv_core : ∀ n : Fin 4, pageOf id (pageBase .core n) = some ⟨.core, n⟩ := by decide +kernel

/-- The address map of R376 tells every page from every other. -/
theorem pageBase_inv {k : PageKind} {n : Nat} (h : n < pageCount k) : pageOf id (pageBase k n) = some ⟨k, n⟩ := by
  cases k
  case kiteCtl => exact (pageBase_inv_kite ⟨n, h⟩).1
  case kiteArr => exact (pageBase_inv_kite ⟨n, h⟩).2.1
  case kiteVec => exact (pageBase_inv_kite ⟨n, h⟩).2.2.1
  case kiteEnv => exact (pageBase_inv_kite ⟨n, h⟩).2.2.2
  case stackCtl => exact (pageBase_inv_stack ⟨n, h⟩).1
  case stackErr => exact (pageBase_inv_stack ⟨n, h⟩).2.1
  case stackChan => exact (pageBase_inv_stack ⟨n, h⟩).2.2
  case lineCtl => exact (pageBase_inv_line ⟨n, h⟩).1
  case lineLane => exact (pageBase_inv_line ⟨n, h⟩).2
  case trainCtl => exact (pageBase_inv_train ⟨n, h⟩).1
  case spool => exact (pageBase_inv_train ⟨n, h⟩).2.1
  case regulator => exact (pageBase_inv_train ⟨n, h⟩).2.2.1
  case winch => exact (pageBase_inv_train ⟨n, h⟩).2.2.2.1
  case burner => exact (pageBase_inv_train ⟨n, h⟩).2.2.2.2.1
  case reel => exact (pageBase_inv_train ⟨n, h⟩).2.2.2.2.2
  case core => exact pageBase_inv_core ⟨n, h⟩
  all_goals
    obtain rfl : n = 0 := Nat.lt_one_iff.1 h
    decide +kernel

theorem pageBase_aligned (k : PageKind) (n : Nat) : pageBase k n % 4096 = 0 := by
  cases k <;> simp only [pageBase] <;> omega

theorem pageBase_inj {k k' : PageKind} {n n' : Nat} (h : n < pageCount k) (h' : n' < pageCount k')
    (e : pageBase k n = pageBase k' n') : k = k' ∧ n = n' := by
  have a := pageBase_inv h
  rw [e, pageBase_inv h'] at a
  cases a
  exact ⟨rfl, rfl⟩

/-- The registers of a field lie word by word within its page. -/
def Fld.inPage (f : Fld) : Bool :=
  f.ofs % 4 == 0 && f.stride % 4 == 0 && decide (f.lo < 32) && decide (f.ofs + (f.count - 1) * f.stride < 4096)

/-- Two fields share no bits: other pages, other bits, other words, or interleaved registers. -/
def Fld.apart (f g : Fld) : Bool :=
  f.inPage && g.inPage &&
    (f.page != g.page || f.lo != g.lo || decide (f.ofs + (f.count - 1) * f.stride < g.ofs) ||
      decide (g.ofs + (g.count - 1) * g.stride < f.ofs) ||
      (f.stride == g.stride && f.ofs % f.stride != g.ofs % f.stride))

theorem Fld.key_ne {f g : Fld} {n i m j : Nat} (ha : f.apart g = true) (hf : f.valid n i = true)
    (hg : g.valid m j = true) : f.key n i ≠ g.key m j := by
  intro e
  simp only [Fld.apart, Fld.inPage, Bool.and_eq_true, beq_iff_eq, decide_eq_true_eq] at ha
  simp only [Fld.valid, Bool.and_eq_true, decide_eq_true_eq] at hf hg
  obtain ⟨⟨⟨⟨⟨f1, f2⟩, f3⟩, f4⟩, ⟨⟨⟨g1, g2⟩, g3⟩, g4⟩⟩, hs⟩ := ha
  have hi : i * f.stride ≤ (f.count - 1) * f.stride := Nat.mul_le_mul_right _ (by omega)
  have hj : j * g.stride ≤ (g.count - 1) * g.stride := Nat.mul_le_mul_right _ (by omega)
  have bf := pageBase_aligned f.page n
  have bg := pageBase_aligned g.page m
  have mf : i * f.stride % 4 = 0 := by rw [Nat.mul_mod, f2]; simp
  have mg : j * g.stride % 4 = 0 := by rw [Nat.mul_mod, g2]; simp
  unfold Fld.key at e
  generalize hpf : pageBase f.page n = pf at *
  generalize hpg : pageBase g.page m = pg at *
  generalize hti : i * f.stride = ti at *
  generalize htj : j * g.stride = tj at *
  have hp : pf = pg := by omega
  have hl : f.lo = g.lo := by omega
  have ho : f.ofs + ti = g.ofs + tj := by omega
  obtain ⟨hk, -⟩ := pageBase_inj hf.1 hg.1 (by rw [hpf, hpg, hp])
  simp only [Bool.or_eq_true, bne_iff_ne, ne_eq, decide_eq_true_eq, Bool.and_eq_true, beq_iff_eq] at hs
  rcases hs with (((hs | hs) | hs) | hs) | ⟨hs, ht⟩
  · exact hs hk
  · exact hs hl
  · omega
  · omega
  · apply ht
    have := congrArg (· % f.stride) ho
    simp only [← hti, ← htj, ← hs, Nat.add_mul_mod_self_right] at this
    exact this

/-- A field is outside a footprint. -/
def Foot.misses (f : Foot) (x : Fld) : Bool := !f.parts.contains .regs && f.fields.all (fun y => x.apart y)

/-- A frame keeps what a read of a field outside it gives. -/
theorem Keeps.rd {f : Foot} {s t : State} {x : Fld} {n i : Nat} (h : Keeps f s t) (hm : f.misses x = true)
    (hv : x.valid n i = true) : t.rd x n i = s.rd x n i := by
  simp only [Foot.misses, Bool.and_eq_true, Bool.not_eq_true', List.all_eq_true] at hm
  unfold State.rd Table.getD
  rw [h.regs (by simpa using hm.1) _ fun y hy m j hw => Fld.key_ne (hm.2 y hy) hv hw]

/-- A field is outside a numbered footprint. -/
def Fld.outside (x : Fld) (m : Nat) : Bool := !m.testBit 2 && written.zipIdx.all (fun e => !m.testBit (32 + e.2) || x.apart e.1)

theorem Frame.rd {m : Nat} {s t : State} {x : Fld} {n i : Nat} (h : Frame m s t) (hm : x.outside m = true)
    (hv : x.valid n i = true) : t.rd x n i = s.rd x n i := by
  simp only [Fld.outside, Bool.and_eq_true, Bool.not_eq_true', List.all_eq_true] at hm
  unfold State.rd Table.getD
  rw [h.regs hm.1 _ fun j y hj hy a b hw => ?_]
  have hz : (y, j) ∈ written.zipIdx := by
    rw [List.mk_mem_zipIdx_iff_getElem?]
    exact hy
  have := hm.2 (y, j) hz
  simp only [hj, Bool.not_true, Bool.false_or] at this
  exact Fld.key_ne this hv hw

end Sys2Proof.Machine
end

