-- ==== Sys2Proof/Laws/State.lean ====
section
/-! SUPPORT. What the updates of State leave as it was, field by field, and what a read gives after a write. -/

namespace Sys2Proof.Machine
@[simp] theorem State.bump_pending {s : State} {x1 x2 x3 x4} : (s.bump x1 x2 x3 x4).pending = s.pending := rfl
@[simp] theorem State.bump_tick {s : State} {x1 x2 x3 x4} : (s.bump x1 x2 x3 x4).tick = s.tick := rfl
@[simp] theorem State.bump_shadow {s : State} {x1 x2 x3 x4} : (s.bump x1 x2 x3 x4).shadow = s.shadow := rfl
@[simp] theorem State.bump_held {s : State} {x1 x2 x3 x4} : (s.bump x1 x2 x3 x4).held = s.held := rfl
@[simp] theorem State.bump_hiLatch {s : State} {x1 x2 x3 x4} : (s.bump x1 x2 x3 x4).hiLatch = s.hiLatch := rfl
@[simp] theorem State.bump_frozen {s : State} {x1 x2 x3 x4} : (s.bump x1 x2 x3 x4).frozen = s.frozen := rfl
@[simp] theorem State.bump_hdrs {s : State} {x1 x2 x3 x4} : (s.bump x1 x2 x3 x4).hdrs = s.hdrs := rfl
@[simp] theorem State.bump_ec {s : State} {x1 x2 x3 x4} : (s.bump x1 x2 x3 x4).ec = s.ec := rfl
@[simp] theorem State.bump_host {s : State} {x1 x2 x3 x4} : (s.bump x1 x2 x3 x4).host = s.host := rfl
@[simp] theorem State.bump_hbm {s : State} {x1 x2 x3 x4} : (s.bump x1 x2 x3 x4).hbm = s.hbm := rfl
@[simp] theorem State.bump_mem {s : State} {x1 x2 x3 x4} : (s.bump x1 x2 x3 x4).mem = s.mem := rfl
@[simp] theorem State.bump_kites {s : State} {x1 x2 x3 x4} : (s.bump x1 x2 x3 x4).kites = s.kites := rfl
@[simp] theorem State.bump_step {s : State} {x1 x2 x3 x4} : (s.bump x1 x2 x3 x4).step = s.step := rfl
@[simp] theorem State.bump_seqs {s : State} {x1 x2 x3 x4} : (s.bump x1 x2 x3 x4).seqs = s.seqs := rfl
@[simp] theorem State.bump_gov {s : State} {x1 x2 x3 x4} : (s.bump x1 x2 x3 x4).gov = s.gov := rfl
@[simp] theorem State.bump_fab {s : State} {x1 x2 x3 x4} : (s.bump x1 x2 x3 x4).fab = s.fab := rfl
@[simp] theorem State.bump_winch {s : State} {x1 x2 x3 x4} : (s.bump x1 x2 x3 x4).winch = s.winch := rfl
@[simp] theorem State.bump_burner {s : State} {x1 x2 x3 x4} : (s.bump x1 x2 x3 x4).burner = s.burner := rfl
@[simp] theorem State.bump_sc {s : State} {x1 x2 x3 x4} : (s.bump x1 x2 x3 x4).sc = s.sc := rfl
@[simp] theorem State.bump_recov {s : State} {x1 x2 x3 x4} : (s.bump x1 x2 x3 x4).recov = s.recov := rfl
@[simp] theorem State.bump_sb {s : State} {x1 x2 x3 x4} : (s.bump x1 x2 x3 x4).sb = s.sb := rfl
@[simp] theorem State.bump_tb {s : State} {x1 x2 x3 x4} : (s.bump x1 x2 x3 x4).tb = s.tb := rfl
@[simp] theorem State.bump_trust {s : State} {x1 x2 x3 x4} : (s.bump x1 x2 x3 x4).trust = s.trust := rfl
@[simp] theorem State.bump_pwr {s : State} {x1 x2 x3 x4} : (s.bump x1 x2 x3 x4).pwr = s.pwr := rfl
@[simp] theorem State.bump_hd {s : State} {x1 x2 x3 x4} : (s.bump x1 x2 x3 x4).hd = s.hd := rfl
@[simp] theorem State.bump_plan {s : State} {x1 x2 x3 x4} : (s.bump x1 x2 x3 x4).plan = s.plan := rfl
@[simp] theorem State.bump_trace {s : State} {x1 x2 x3 x4} : (s.bump x1 x2 x3 x4).trace = s.trace := rfl
@[simp] theorem State.bump_traceFull {s : State} {x1 x2 x3 x4} : (s.bump x1 x2 x3 x4).traceFull = s.traceFull := rfl
@[simp] theorem State.bump_out {s : State} {x1 x2 x3 x4} : (s.bump x1 x2 x3 x4).out = s.out := rfl
@[simp] theorem State.bump_fresh {s : State} {x1 x2 x3 x4} : (s.bump x1 x2 x3 x4).fresh = s.fresh := rfl

@[simp] theorem State.bump64_pending {s : State} {x1 x2 x3 x4} : (s.bump64 x1 x2 x3 x4).pending = s.pending := rfl
@[simp] theorem State.bump64_tick {s : State} {x1 x2 x3 x4} : (s.bump64 x1 x2 x3 x4).tick = s.tick := rfl
@[simp] theorem State.bump64_shadow {s : State} {x1 x2 x3 x4} : (s.bump64 x1 x2 x3 x4).shadow = s.shadow := rfl
@[simp] theorem State.bump64_held {s : State} {x1 x2 x3 x4} : (s.bump64 x1 x2 x3 x4).held = s.held := rfl
@[simp] theorem State.bump64_hiLatch {s : State} {x1 x2 x3 x4} : (s.bump64 x1 x2 x3 x4).hiLatch = s.hiLatch := rfl
@[simp] theorem State.bump64_frozen {s : State} {x1 x2 x3 x4} : (s.bump64 x1 x2 x3 x4).frozen = s.frozen := rfl
@[simp] theorem State.bump64_hdrs {s : State} {x1 x2 x3 x4} : (s.bump64 x1 x2 x3 x4).hdrs = s.hdrs := rfl
@[simp] theorem State.bump64_ec {s : State} {x1 x2 x3 x4} : (s.bump64 x1 x2 x3 x4).ec = s.ec := rfl
@[simp] theorem State.bump64_host {s : State} {x1 x2 x3 x4} : (s.bump64 x1 x2 x3 x4).host = s.host := rfl
@[simp] theorem State.bump64_hbm {s : State} {x1 x2 x3 x4} : (s.bump64 x1 x2 x3 x4).hbm = s.hbm := rfl
@[simp] theorem State.bump64_mem {s : State} {x1 x2 x3 x4} : (s.bump64 x1 x2 x3 x4).mem = s.mem := rfl
@[simp] theorem State.bump64_kites {s : State} {x1 x2 x3 x4} : (s.bump64 x1 x2 x3 x4).kites = s.kites := rfl
@[simp] theorem State.bump64_step {s : State} {x1 x2 x3 x4} : (s.bump64 x1 x2 x3 x4).step = s.step := rfl
@[simp] theorem State.bump64_seqs {s : State} {x1 x2 x3 x4} : (s.bump64 x1 x2 x3 x4).seqs = s.seqs := rfl
@[simp] theorem State.bump64_gov {s : State} {x1 x2 x3 x4} : (s.bump64 x1 x2 x3 x4).gov = s.gov := rfl
@[simp] theorem State.bump64_fab {s : State} {x1 x2 x3 x4} : (s.bump64 x1 x2 x3 x4).fab = s.fab := rfl
@[simp] theorem State.bump64_winch {s : State} {x1 x2 x3 x4} : (s.bump64 x1 x2 x3 x4).winch = s.winch := rfl
@[simp] theorem State.bump64_burner {s : State} {x1 x2 x3 x4} : (s.bump64 x1 x2 x3 x4).burner = s.burner := rfl
@[simp] theorem State.bump64_sc {s : State} {x1 x2 x3 x4} : (s.bump64 x1 x2 x3 x4).sc = s.sc := rfl
@[simp] theorem State.bump64_recov {s : State} {x1 x2 x3 x4} : (s.bump64 x1 x2 x3 x4).recov = s.recov := rfl
@[simp] theorem State.bump64_sb {s : State} {x1 x2 x3 x4} : (s.bump64 x1 x2 x3 x4).sb = s.sb := rfl
@[simp] theorem State.bump64_tb {s : State} {x1 x2 x3 x4} : (s.bump64 x1 x2 x3 x4).tb = s.tb := rfl
@[simp] theorem State.bump64_trust {s : State} {x1 x2 x3 x4} : (s.bump64 x1 x2 x3 x4).trust = s.trust := rfl
@[simp] theorem State.bump64_pwr {s : State} {x1 x2 x3 x4} : (s.bump64 x1 x2 x3 x4).pwr = s.pwr := rfl
@[simp] theorem State.bump64_hd {s : State} {x1 x2 x3 x4} : (s.bump64 x1 x2 x3 x4).hd = s.hd := rfl
@[simp] theorem State.bump64_plan {s : State} {x1 x2 x3 x4} : (s.bump64 x1 x2 x3 x4).plan = s.plan := rfl
@[simp] theorem State.bump64_trace {s : State} {x1 x2 x3 x4} : (s.bump64 x1 x2 x3 x4).trace = s.trace := rfl
@[simp] theorem State.bump64_traceFull {s : State} {x1 x2 x3 x4} : (s.bump64 x1 x2 x3 x4).traceFull = s.traceFull := rfl
@[simp] theorem State.bump64_out {s : State} {x1 x2 x3 x4} : (s.bump64 x1 x2 x3 x4).out = s.out := rfl
@[simp] theorem State.bump64_fresh {s : State} {x1 x2 x3 x4} : (s.bump64 x1 x2 x3 x4).fresh = s.fresh := rfl

@[simp] theorem State.countCe_pending {s : State} {x1 x2 x3} : (s.countCe x1 x2 x3).pending = s.pending := rfl
@[simp] theorem State.countCe_tick {s : State} {x1 x2 x3} : (s.countCe x1 x2 x3).tick = s.tick := rfl
@[simp] theorem State.countCe_regs {s : State} {x1 x2 x3} : (s.countCe x1 x2 x3).regs = s.regs := rfl
@[simp] theorem State.countCe_shadow {s : State} {x1 x2 x3} : (s.countCe x1 x2 x3).shadow = s.shadow := rfl
@[simp] theorem State.countCe_held {s : State} {x1 x2 x3} : (s.countCe x1 x2 x3).held = s.held := rfl
@[simp] theorem State.countCe_hiLatch {s : State} {x1 x2 x3} : (s.countCe x1 x2 x3).hiLatch = s.hiLatch := rfl
@[simp] theorem State.countCe_frozen {s : State} {x1 x2 x3} : (s.countCe x1 x2 x3).frozen = s.frozen := rfl
@[simp] theorem State.countCe_ec {s : State} {x1 x2 x3} : (s.countCe x1 x2 x3).ec = s.ec := rfl
@[simp] theorem State.countCe_host {s : State} {x1 x2 x3} : (s.countCe x1 x2 x3).host = s.host := rfl
@[simp] theorem State.countCe_hbm {s : State} {x1 x2 x3} : (s.countCe x1 x2 x3).hbm = s.hbm := rfl
@[simp] theorem State.countCe_mem {s : State} {x1 x2 x3} : (s.countCe x1 x2 x3).mem = s.mem := rfl
@[simp] theorem State.countCe_kites {s : State} {x1 x2 x3} : (s.countCe x1 x2 x3).kites = s.kites := rfl
@[simp] theorem State.countCe_step {s : State} {x1 x2 x3} : (s.countCe x1 x2 x3).step = s.step := rfl
@[simp] theorem State.countCe_seqs {s : State} {x1 x2 x3} : (s.countCe x1 x2 x3).seqs = s.seqs := rfl
@[simp] theorem State.countCe_gov {s : State} {x1 x2 x3} : (s.countCe x1 x2 x3).gov = s.gov := rfl
@[simp] theorem State.countCe_fab {s : State} {x1 x2 x3} : (s.countCe x1 x2 x3).fab = s.fab := rfl
@[simp] theorem State.countCe_winch {s : State} {x1 x2 x3} : (s.countCe x1 x2 x3).winch = s.winch := rfl
@[simp] theorem State.countCe_burner {s : State} {x1 x2 x3} : (s.countCe x1 x2 x3).burner = s.burner := rfl
@[simp] theorem State.countCe_sc {s : State} {x1 x2 x3} : (s.countCe x1 x2 x3).sc = s.sc := rfl
@[simp] theorem State.countCe_recov {s : State} {x1 x2 x3} : (s.countCe x1 x2 x3).recov = s.recov := rfl
@[simp] theorem State.countCe_sb {s : State} {x1 x2 x3} : (s.countCe x1 x2 x3).sb = s.sb := rfl
@[simp] theorem State.countCe_tb {s : State} {x1 x2 x3} : (s.countCe x1 x2 x3).tb = s.tb := rfl
@[simp] theorem State.countCe_trust {s : State} {x1 x2 x3} : (s.countCe x1 x2 x3).trust = s.trust := rfl
@[simp] theorem State.countCe_pwr {s : State} {x1 x2 x3} : (s.countCe x1 x2 x3).pwr = s.pwr := rfl
@[simp] theorem State.countCe_hd {s : State} {x1 x2 x3} : (s.countCe x1 x2 x3).hd = s.hd := rfl
@[simp] theorem State.countCe_plan {s : State} {x1 x2 x3} : (s.countCe x1 x2 x3).plan = s.plan := rfl
@[simp] theorem State.countCe_trace {s : State} {x1 x2 x3} : (s.countCe x1 x2 x3).trace = s.trace := rfl
@[simp] theorem State.countCe_traceFull {s : State} {x1 x2 x3} : (s.countCe x1 x2 x3).traceFull = s.traceFull := rfl
@[simp] theorem State.countCe_out {s : State} {x1 x2 x3} : (s.countCe x1 x2 x3).out = s.out := rfl
@[simp] theorem State.countCe_fresh {s : State} {x1 x2 x3} : (s.countCe x1 x2 x3).fresh = s.fresh := rfl

@[simp] theorem State.countUe_pending {s : State} {x1 x2 x3} : (s.countUe x1 x2 x3).pending = s.pending := rfl
@[simp] theorem State.countUe_tick {s : State} {x1 x2 x3} : (s.countUe x1 x2 x3).tick = s.tick := rfl
@[simp] theorem State.countUe_regs {s : State} {x1 x2 x3} : (s.countUe x1 x2 x3).regs = s.regs := rfl
@[simp] theorem State.countUe_shadow {s : State} {x1 x2 x3} : (s.countUe x1 x2 x3).shadow = s.shadow := rfl
@[simp] theorem State.countUe_held {s : State} {x1 x2 x3} : (s.countUe x1 x2 x3).held = s.held := rfl
@[simp] theorem State.countUe_hiLatch {s : State} {x1 x2 x3} : (s.countUe x1 x2 x3).hiLatch = s.hiLatch := rfl
@[simp] theorem State.countUe_frozen {s : State} {x1 x2 x3} : (s.countUe x1 x2 x3).frozen = s.frozen := rfl
@[simp] theorem State.countUe_ec {s : State} {x1 x2 x3} : (s.countUe x1 x2 x3).ec = s.ec := rfl
@[simp] theorem State.countUe_host {s : State} {x1 x2 x3} : (s.countUe x1 x2 x3).host = s.host := rfl
@[simp] theorem State.countUe_hbm {s : State} {x1 x2 x3} : (s.countUe x1 x2 x3).hbm = s.hbm := rfl
@[simp] theorem State.countUe_mem {s : State} {x1 x2 x3} : (s.countUe x1 x2 x3).mem = s.mem := rfl
@[simp] theorem State.countUe_kites {s : State} {x1 x2 x3} : (s.countUe x1 x2 x3).kites = s.kites := rfl
@[simp] theorem State.countUe_step {s : State} {x1 x2 x3} : (s.countUe x1 x2 x3).step = s.step := rfl
@[simp] theorem State.countUe_seqs {s : State} {x1 x2 x3} : (s.countUe x1 x2 x3).seqs = s.seqs := rfl
@[simp] theorem State.countUe_gov {s : State} {x1 x2 x3} : (s.countUe x1 x2 x3).gov = s.gov := rfl
@[simp] theorem State.countUe_fab {s : State} {x1 x2 x3} : (s.countUe x1 x2 x3).fab = s.fab := rfl
@[simp] theorem State.countUe_winch {s : State} {x1 x2 x3} : (s.countUe x1 x2 x3).winch = s.winch := rfl
@[simp] theorem State.countUe_burner {s : State} {x1 x2 x3} : (s.countUe x1 x2 x3).burner = s.burner := rfl
@[simp] theorem State.countUe_sc {s : State} {x1 x2 x3} : (s.countUe x1 x2 x3).sc = s.sc := rfl
@[simp] theorem State.countUe_recov {s : State} {x1 x2 x3} : (s.countUe x1 x2 x3).recov = s.recov := rfl
@[simp] theorem State.countUe_sb {s : State} {x1 x2 x3} : (s.countUe x1 x2 x3).sb = s.sb := rfl
@[simp] theorem State.countUe_tb {s : State} {x1 x2 x3} : (s.countUe x1 x2 x3).tb = s.tb := rfl
@[simp] theorem State.countUe_trust {s : State} {x1 x2 x3} : (s.countUe x1 x2 x3).trust = s.trust := rfl
@[simp] theorem State.countUe_pwr {s : State} {x1 x2 x3} : (s.countUe x1 x2 x3).pwr = s.pwr := rfl
@[simp] theorem State.countUe_hd {s : State} {x1 x2 x3} : (s.countUe x1 x2 x3).hd = s.hd := rfl
@[simp] theorem State.countUe_plan {s : State} {x1 x2 x3} : (s.countUe x1 x2 x3).plan = s.plan := rfl
@[simp] theorem State.countUe_trace {s : State} {x1 x2 x3} : (s.countUe x1 x2 x3).trace = s.trace := rfl
@[simp] theorem State.countUe_traceFull {s : State} {x1 x2 x3} : (s.countUe x1 x2 x3).traceFull = s.traceFull := rfl
@[simp] theorem State.countUe_out {s : State} {x1 x2 x3} : (s.countUe x1 x2 x3).out = s.out := rfl
@[simp] theorem State.countUe_fresh {s : State} {x1 x2 x3} : (s.countUe x1 x2 x3).fresh = s.fresh := rfl

@[simp] theorem State.emit_pending {s : State} {x1} : (s.emit x1).pending = s.pending := rfl
@[simp] theorem State.emit_tick {s : State} {x1} : (s.emit x1).tick = s.tick := rfl
@[simp] theorem State.emit_regs {s : State} {x1} : (s.emit x1).regs = s.regs := rfl
@[simp] theorem State.emit_shadow {s : State} {x1} : (s.emit x1).shadow = s.shadow := rfl
@[simp] theorem State.emit_held {s : State} {x1} : (s.emit x1).held = s.held := rfl
@[simp] theorem State.emit_hiLatch {s : State} {x1} : (s.emit x1).hiLatch = s.hiLatch := rfl
@[simp] theorem State.emit_frozen {s : State} {x1} : (s.emit x1).frozen = s.frozen := rfl
@[simp] theorem State.emit_hdrs {s : State} {x1} : (s.emit x1).hdrs = s.hdrs := rfl
@[simp] theorem State.emit_ec {s : State} {x1} : (s.emit x1).ec = s.ec := rfl
@[simp] theorem State.emit_host {s : State} {x1} : (s.emit x1).host = s.host := rfl
@[simp] theorem State.emit_hbm {s : State} {x1} : (s.emit x1).hbm = s.hbm := rfl
@[simp] theorem State.emit_mem {s : State} {x1} : (s.emit x1).mem = s.mem := rfl
@[simp] theorem State.emit_kites {s : State} {x1} : (s.emit x1).kites = s.kites := rfl
@[simp] theorem State.emit_step {s : State} {x1} : (s.emit x1).step = s.step := rfl
@[simp] theorem State.emit_seqs {s : State} {x1} : (s.emit x1).seqs = s.seqs := rfl
@[simp] theorem State.emit_gov {s : State} {x1} : (s.emit x1).gov = s.gov := rfl
@[simp] theorem State.emit_fab {s : State} {x1} : (s.emit x1).fab = s.fab := rfl
@[simp] theorem State.emit_winch {s : State} {x1} : (s.emit x1).winch = s.winch := rfl
@[simp] theorem State.emit_burner {s : State} {x1} : (s.emit x1).burner = s.burner := rfl
@[simp] theorem State.emit_sc {s : State} {x1} : (s.emit x1).sc = s.sc := rfl
@[simp] theorem State.emit_recov {s : State} {x1} : (s.emit x1).recov = s.recov := rfl
@[simp] theorem State.emit_sb {s : State} {x1} : (s.emit x1).sb = s.sb := rfl
@[simp] theorem State.emit_tb {s : State} {x1} : (s.emit x1).tb = s.tb := rfl
@[simp] theorem State.emit_trust {s : State} {x1} : (s.emit x1).trust = s.trust := rfl
@[simp] theorem State.emit_pwr {s : State} {x1} : (s.emit x1).pwr = s.pwr := rfl
@[simp] theorem State.emit_hd {s : State} {x1} : (s.emit x1).hd = s.hd := rfl
@[simp] theorem State.emit_plan {s : State} {x1} : (s.emit x1).plan = s.plan := rfl
@[simp] theorem State.emit_trace {s : State} {x1} : (s.emit x1).trace = s.trace := rfl
@[simp] theorem State.emit_traceFull {s : State} {x1} : (s.emit x1).traceFull = s.traceFull := rfl
@[simp] theorem State.emit_fresh {s : State} {x1} : (s.emit x1).fresh = s.fresh := rfl

@[simp] theorem State.setBucket_pending {s : State} {x1 x2 x3} : (s.setBucket x1 x2 x3).pending = s.pending := rfl
@[simp] theorem State.setBucket_tick {s : State} {x1 x2 x3} : (s.setBucket x1 x2 x3).tick = s.tick := rfl
@[simp] theorem State.setBucket_regs {s : State} {x1 x2 x3} : (s.setBucket x1 x2 x3).regs = s.regs := rfl
@[simp] theorem State.setBucket_shadow {s : State} {x1 x2 x3} : (s.setBucket x1 x2 x3).shadow = s.shadow := rfl
@[simp] theorem State.setBucket_held {s : State} {x1 x2 x3} : (s.setBucket x1 x2 x3).held = s.held := rfl
@[simp] theorem State.setBucket_hiLatch {s : State} {x1 x2 x3} : (s.setBucket x1 x2 x3).hiLatch = s.hiLatch := rfl
@[simp] theorem State.setBucket_frozen {s : State} {x1 x2 x3} : (s.setBucket x1 x2 x3).frozen = s.frozen := rfl
@[simp] theorem State.setBucket_hdrs {s : State} {x1 x2 x3} : (s.setBucket x1 x2 x3).hdrs = s.hdrs := rfl
@[simp] theorem State.setBucket_ec {s : State} {x1 x2 x3} : (s.setBucket x1 x2 x3).ec = s.ec := rfl
@[simp] theorem State.setBucket_host {s : State} {x1 x2 x3} : (s.setBucket x1 x2 x3).host = s.host := rfl
@[simp] theorem State.setBucket_hbm {s : State} {x1 x2 x3} : (s.setBucket x1 x2 x3).hbm = s.hbm := rfl
@[simp] theorem State.setBucket_kites {s : State} {x1 x2 x3} : (s.setBucket x1 x2 x3).kites = s.kites := rfl
@[simp] theorem State.setBucket_step {s : State} {x1 x2 x3} : (s.setBucket x1 x2 x3).step = s.step := rfl
@[simp] theorem State.setBucket_seqs {s : State} {x1 x2 x3} : (s.setBucket x1 x2 x3).seqs = s.seqs := rfl
@[simp] theorem State.setBucket_gov {s : State} {x1 x2 x3} : (s.setBucket x1 x2 x3).gov = s.gov := rfl
@[simp] theorem State.setBucket_fab {s : State} {x1 x2 x3} : (s.setBucket x1 x2 x3).fab = s.fab := rfl
@[simp] theorem State.setBucket_winch {s : State} {x1 x2 x3} : (s.setBucket x1 x2 x3).winch = s.winch := rfl
@[simp] theorem State.setBucket_burner {s : State} {x1 x2 x3} : (s.setBucket x1 x2 x3).burner = s.burner := rfl
@[simp] theorem State.setBucket_sc {s : State} {x1 x2 x3} : (s.setBucket x1 x2 x3).sc = s.sc := rfl
@[simp] theorem State.setBucket_recov {s : State} {x1 x2 x3} : (s.setBucket x1 x2 x3).recov = s.recov := rfl
@[simp] theorem State.setBucket_sb {s : State} {x1 x2 x3} : (s.setBucket x1 x2 x3).sb = s.sb := rfl
@[simp] theorem State.setBucket_tb {s : State} {x1 x2 x3} : (s.setBucket x1 x2 x3).tb = s.tb := rfl
@[simp] theorem State.setBucket_trust {s : State} {x1 x2 x3} : (s.setBucket x1 x2 x3).trust = s.trust := rfl
@[simp] theorem State.setBucket_pwr {s : State} {x1 x2 x3} : (s.setBucket x1 x2 x3).pwr = s.pwr := rfl
@[simp] theorem State.setBucket_hd {s : State} {x1 x2 x3} : (s.setBucket x1 x2 x3).hd = s.hd := rfl
@[simp] theorem State.setBucket_plan {s : State} {x1 x2 x3} : (s.setBucket x1 x2 x3).plan = s.plan := rfl
@[simp] theorem State.setBucket_trace {s : State} {x1 x2 x3} : (s.setBucket x1 x2 x3).trace = s.trace := rfl
@[simp] theorem State.setBucket_traceFull {s : State} {x1 x2 x3} : (s.setBucket x1 x2 x3).traceFull = s.traceFull := rfl
@[simp] theorem State.setBucket_out {s : State} {x1 x2 x3} : (s.setBucket x1 x2 x3).out = s.out := rfl
@[simp] theorem State.setBucket_fresh {s : State} {x1 x2 x3} : (s.setBucket x1 x2 x3).fresh = s.fresh := rfl

@[simp] theorem State.setBurner_pending {s : State} {x1 x2} : (s.setBurner x1 x2).pending = s.pending := rfl
@[simp] theorem State.setBurner_tick {s : State} {x1 x2} : (s.setBurner x1 x2).tick = s.tick := rfl
@[simp] theorem State.setBurner_regs {s : State} {x1 x2} : (s.setBurner x1 x2).regs = s.regs := rfl
@[simp] theorem State.setBurner_shadow {s : State} {x1 x2} : (s.setBurner x1 x2).shadow = s.shadow := rfl
@[simp] theorem State.setBurner_held {s : State} {x1 x2} : (s.setBurner x1 x2).held = s.held := rfl
@[simp] theorem State.setBurner_hiLatch {s : State} {x1 x2} : (s.setBurner x1 x2).hiLatch = s.hiLatch := rfl
@[simp] theorem State.setBurner_frozen {s : State} {x1 x2} : (s.setBurner x1 x2).frozen = s.frozen := rfl
@[simp] theorem State.setBurner_hdrs {s : State} {x1 x2} : (s.setBurner x1 x2).hdrs = s.hdrs := rfl
@[simp] theorem State.setBurner_ec {s : State} {x1 x2} : (s.setBurner x1 x2).ec = s.ec := rfl
@[simp] theorem State.setBurner_host {s : State} {x1 x2} : (s.setBurner x1 x2).host = s.host := rfl
@[simp] theorem State.setBurner_hbm {s : State} {x1 x2} : (s.setBurner x1 x2).hbm = s.hbm := rfl
@[simp] theorem State.setBurner_mem {s : State} {x1 x2} : (s.setBurner x1 x2).mem = s.mem := rfl
@[simp] theorem State.setBurner_kites {s : State} {x1 x2} : (s.setBurner x1 x2).kites = s.kites := rfl
@[simp] theorem State.setBurner_step {s : State} {x1 x2} : (s.setBurner x1 x2).step = s.step := rfl
@[simp] theorem State.setBurner_seqs {s : State} {x1 x2} : (s.setBurner x1 x2).seqs = s.seqs := rfl
@[simp] theorem State.setBurner_gov {s : State} {x1 x2} : (s.setBurner x1 x2).gov = s.gov := rfl
@[simp] theorem State.setBurner_fab {s : State} {x1 x2} : (s.setBurner x1 x2).fab = s.fab := rfl
@[simp] theorem State.setBurner_winch {s : State} {x1 x2} : (s.setBurner x1 x2).winch = s.winch := rfl
@[simp] theorem State.setBurner_sc {s : State} {x1 x2} : (s.setBurner x1 x2).sc = s.sc := rfl
@[simp] theorem State.setBurner_recov {s : State} {x1 x2} : (s.setBurner x1 x2).recov = s.recov := rfl
@[simp] theorem State.setBurner_sb {s : State} {x1 x2} : (s.setBurner x1 x2).sb = s.sb := rfl
@[simp] theorem State.setBurner_tb {s : State} {x1 x2} : (s.setBurner x1 x2).tb = s.tb := rfl
@[simp] theorem State.setBurner_trust {s : State} {x1 x2} : (s.setBurner x1 x2).trust = s.trust := rfl
@[simp] theorem State.setBurner_pwr {s : State} {x1 x2} : (s.setBurner x1 x2).pwr = s.pwr := rfl
@[simp] theorem State.setBurner_hd {s : State} {x1 x2} : (s.setBurner x1 x2).hd = s.hd := rfl
@[simp] theorem State.setBurner_plan {s : State} {x1 x2} : (s.setBurner x1 x2).plan = s.plan := rfl
@[simp] theorem State.setBurner_trace {s : State} {x1 x2} : (s.setBurner x1 x2).trace = s.trace := rfl
@[simp] theorem State.setBurner_traceFull {s : State} {x1 x2} : (s.setBurner x1 x2).traceFull = s.traceFull := rfl
@[simp] theorem State.setBurner_out {s : State} {x1 x2} : (s.setBurner x1 x2).out = s.out := rfl
@[simp] theorem State.setBurner_fresh {s : State} {x1 x2} : (s.setBurner x1 x2).fresh = s.fresh := rfl

@[simp] theorem State.setGov_pending {s : State} {x1} : (s.setGov x1).pending = s.pending := rfl
@[simp] theorem State.setGov_tick {s : State} {x1} : (s.setGov x1).tick = s.tick := rfl
@[simp] theorem State.setGov_regs {s : State} {x1} : (s.setGov x1).regs = s.regs := rfl
@[simp] theorem State.setGov_shadow {s : State} {x1} : (s.setGov x1).shadow = s.shadow := rfl
@[simp] theorem State.setGov_held {s : State} {x1} : (s.setGov x1).held = s.held := rfl
@[simp] theorem State.setGov_hiLatch {s : State} {x1} : (s.setGov x1).hiLatch = s.hiLatch := rfl
@[simp] theorem State.setGov_frozen {s : State} {x1} : (s.setGov x1).frozen = s.frozen := rfl
@[simp] theorem State.setGov_hdrs {s : State} {x1} : (s.setGov x1).hdrs = s.hdrs := rfl
@[simp] theorem State.setGov_ec {s : State} {x1} : (s.setGov x1).ec = s.ec := rfl
@[simp] theorem State.setGov_host {s : State} {x1} : (s.setGov x1).host = s.host := rfl
@[simp] theorem State.setGov_hbm {s : State} {x1} : (s.setGov x1).hbm = s.hbm := rfl
@[simp] theorem State.setGov_mem {s : State} {x1} : (s.setGov x1).mem = s.mem := rfl
@[simp] theorem State.setGov_kites {s : State} {x1} : (s.setGov x1).kites = s.kites := rfl
@[simp] theorem State.setGov_step {s : State} {x1} : (s.setGov x1).step = s.step := rfl
@[simp] theorem State.setGov_seqs {s : State} {x1} : (s.setGov x1).seqs = s.seqs := rfl
@[simp] theorem State.setGov_fab {s : State} {x1} : (s.setGov x1).fab = s.fab := rfl
@[simp] theorem State.setGov_winch {s : State} {x1} : (s.setGov x1).winch = s.winch := rfl
@[simp] theorem State.setGov_burner {s : State} {x1} : (s.setGov x1).burner = s.burner := rfl
@[simp] theorem State.setGov_sc {s : State} {x1} : (s.setGov x1).sc = s.sc := rfl
@[simp] theorem State.setGov_recov {s : State} {x1} : (s.setGov x1).recov = s.recov := rfl
@[simp] theorem State.setGov_sb {s : State} {x1} : (s.setGov x1).sb = s.sb := rfl
@[simp] theorem State.setGov_tb {s : State} {x1} : (s.setGov x1).tb = s.tb := rfl
@[simp] theorem State.setGov_trust {s : State} {x1} : (s.setGov x1).trust = s.trust := rfl
@[simp] theorem State.setGov_pwr {s : State} {x1} : (s.setGov x1).pwr = s.pwr := rfl
@[simp] theorem State.setGov_hd {s : State} {x1} : (s.setGov x1).hd = s.hd := rfl
@[simp] theorem State.setGov_plan {s : State} {x1} : (s.setGov x1).plan = s.plan := rfl
@[simp] theorem State.setGov_trace {s : State} {x1} : (s.setGov x1).trace = s.trace := rfl
@[simp] theorem State.setGov_traceFull {s : State} {x1} : (s.setGov x1).traceFull = s.traceFull := rfl
@[simp] theorem State.setGov_out {s : State} {x1} : (s.setGov x1).out = s.out := rfl
@[simp] theorem State.setGov_fresh {s : State} {x1} : (s.setGov x1).fresh = s.fresh := rfl

@[simp] theorem State.setHdr_pending {s : State} {x1 x2 x3} : (s.setHdr x1 x2 x3).pending = s.pending := rfl
@[simp] theorem State.setHdr_tick {s : State} {x1 x2 x3} : (s.setHdr x1 x2 x3).tick = s.tick := rfl
@[simp] theorem State.setHdr_regs {s : State} {x1 x2 x3} : (s.setHdr x1 x2 x3).regs = s.regs := rfl
@[simp] theorem State.setHdr_shadow {s : State} {x1 x2 x3} : (s.setHdr x1 x2 x3).shadow = s.shadow := rfl
@[simp] theorem State.setHdr_held {s : State} {x1 x2 x3} : (s.setHdr x1 x2 x3).held = s.held := rfl
@[simp] theorem State.setHdr_hiLatch {s : State} {x1 x2 x3} : (s.setHdr x1 x2 x3).hiLatch = s.hiLatch := rfl
@[simp] theorem State.setHdr_frozen {s : State} {x1 x2 x3} : (s.setHdr x1 x2 x3).frozen = s.frozen := rfl
@[simp] theorem State.setHdr_ec {s : State} {x1 x2 x3} : (s.setHdr x1 x2 x3).ec = s.ec := rfl
@[simp] theorem State.setHdr_host {s : State} {x1 x2 x3} : (s.setHdr x1 x2 x3).host = s.host := rfl
@[simp] theorem State.setHdr_hbm {s : State} {x1 x2 x3} : (s.setHdr x1 x2 x3).hbm = s.hbm := rfl
@[simp] theorem State.setHdr_mem {s : State} {x1 x2 x3} : (s.setHdr x1 x2 x3).mem = s.mem := rfl
@[simp] theorem State.setHdr_kites {s : State} {x1 x2 x3} : (s.setHdr x1 x2 x3).kites = s.kites := rfl
@[simp] theorem State.setHdr_step {s : State} {x1 x2 x3} : (s.setHdr x1 x2 x3).step = s.step := rfl
@[simp] theorem State.setHdr_seqs {s : State} {x1 x2 x3} : (s.setHdr x1 x2 x3).seqs = s.seqs := rfl
@[simp] theorem State.setHdr_gov {s : State} {x1 x2 x3} : (s.setHdr x1 x2 x3).gov = s.gov := rfl
@[simp] theorem State.setHdr_fab {s : State} {x1 x2 x3} : (s.setHdr x1 x2 x3).fab = s.fab := rfl
@[simp] theorem State.setHdr_winch {s : State} {x1 x2 x3} : (s.setHdr x1 x2 x3).winch = s.winch := rfl
@[simp] theorem State.setHdr_burner {s : State} {x1 x2 x3} : (s.setHdr x1 x2 x3).burner = s.burner := rfl
@[simp] theorem State.setHdr_sc {s : State} {x1 x2 x3} : (s.setHdr x1 x2 x3).sc = s.sc := rfl
@[simp] theorem State.setHdr_recov {s : State} {x1 x2 x3} : (s.setHdr x1 x2 x3).recov = s.recov := rfl
@[simp] theorem State.setHdr_sb {s : State} {x1 x2 x3} : (s.setHdr x1 x2 x3).sb = s.sb := rfl
@[simp] theorem State.setHdr_tb {s : State} {x1 x2 x3} : (s.setHdr x1 x2 x3).tb = s.tb := rfl
@[simp] theorem State.setHdr_trust {s : State} {x1 x2 x3} : (s.setHdr x1 x2 x3).trust = s.trust := rfl
@[simp] theorem State.setHdr_pwr {s : State} {x1 x2 x3} : (s.setHdr x1 x2 x3).pwr = s.pwr := rfl
@[simp] theorem State.setHdr_hd {s : State} {x1 x2 x3} : (s.setHdr x1 x2 x3).hd = s.hd := rfl
@[simp] theorem State.setHdr_plan {s : State} {x1 x2 x3} : (s.setHdr x1 x2 x3).plan = s.plan := rfl
@[simp] theorem State.setHdr_trace {s : State} {x1 x2 x3} : (s.setHdr x1 x2 x3).trace = s.trace := rfl
@[simp] theorem State.setHdr_traceFull {s : State} {x1 x2 x3} : (s.setHdr x1 x2 x3).traceFull = s.traceFull := rfl
@[simp] theorem State.setHdr_out {s : State} {x1 x2 x3} : (s.setHdr x1 x2 x3).out = s.out := rfl
@[simp] theorem State.setHdr_fresh {s : State} {x1 x2 x3} : (s.setHdr x1 x2 x3).fresh = s.fresh := rfl

@[simp] theorem State.setKite_pending {s : State} {x1 x2} : (s.setKite x1 x2).pending = s.pending := rfl
@[simp] theorem State.setKite_tick {s : State} {x1 x2} : (s.setKite x1 x2).tick = s.tick := rfl
@[simp] theorem State.setKite_regs {s : State} {x1 x2} : (s.setKite x1 x2).regs = s.regs := rfl
@[simp] theorem State.setKite_shadow {s : State} {x1 x2} : (s.setKite x1 x2).shadow = s.shadow := rfl
@[simp] theorem State.setKite_held {s : State} {x1 x2} : (s.setKite x1 x2).held = s.held := rfl
@[simp] theorem State.setKite_hiLatch {s : State} {x1 x2} : (s.setKite x1 x2).hiLatch = s.hiLatch := rfl
@[simp] theorem State.setKite_frozen {s : State} {x1 x2} : (s.setKite x1 x2).frozen = s.frozen := rfl
@[simp] theorem State.setKite_hdrs {s : State} {x1 x2} : (s.setKite x1 x2).hdrs = s.hdrs := rfl
@[simp] theorem State.setKite_ec {s : State} {x1 x2} : (s.setKite x1 x2).ec = s.ec := rfl
@[simp] theorem State.setKite_host {s : State} {x1 x2} : (s.setKite x1 x2).host = s.host := rfl
@[simp] theorem State.setKite_hbm {s : State} {x1 x2} : (s.setKite x1 x2).hbm = s.hbm := rfl
@[simp] theorem State.setKite_mem {s : State} {x1 x2} : (s.setKite x1 x2).mem = s.mem := rfl
@[simp] theorem State.setKite_step {s : State} {x1 x2} : (s.setKite x1 x2).step = s.step := rfl
@[simp] theorem State.setKite_seqs {s : State} {x1 x2} : (s.setKite x1 x2).seqs = s.seqs := rfl
@[simp] theorem State.setKite_gov {s : State} {x1 x2} : (s.setKite x1 x2).gov = s.gov := rfl
@[simp] theorem State.setKite_fab {s : State} {x1 x2} : (s.setKite x1 x2).fab = s.fab := rfl
@[simp] theorem State.setKite_winch {s : State} {x1 x2} : (s.setKite x1 x2).winch = s.winch := rfl
@[simp] theorem State.setKite_burner {s : State} {x1 x2} : (s.setKite x1 x2).burner = s.burner := rfl
@[simp] theorem State.setKite_sc {s : State} {x1 x2} : (s.setKite x1 x2).sc = s.sc := rfl
@[simp] theorem State.setKite_recov {s : State} {x1 x2} : (s.setKite x1 x2).recov = s.recov := rfl
@[simp] theorem State.setKite_sb {s : State} {x1 x2} : (s.setKite x1 x2).sb = s.sb := rfl
@[simp] theorem State.setKite_tb {s : State} {x1 x2} : (s.setKite x1 x2).tb = s.tb := rfl
@[simp] theorem State.setKite_trust {s : State} {x1 x2} : (s.setKite x1 x2).trust = s.trust := rfl
@[simp] theorem State.setKite_pwr {s : State} {x1 x2} : (s.setKite x1 x2).pwr = s.pwr := rfl
@[simp] theorem State.setKite_hd {s : State} {x1 x2} : (s.setKite x1 x2).hd = s.hd := rfl
@[simp] theorem State.setKite_plan {s : State} {x1 x2} : (s.setKite x1 x2).plan = s.plan := rfl
@[simp] theorem State.setKite_trace {s : State} {x1 x2} : (s.setKite x1 x2).trace = s.trace := rfl
@[simp] theorem State.setKite_traceFull {s : State} {x1 x2} : (s.setKite x1 x2).traceFull = s.traceFull := rfl
@[simp] theorem State.setKite_out {s : State} {x1 x2} : (s.setKite x1 x2).out = s.out := rfl
@[simp] theorem State.setKite_fresh {s : State} {x1 x2} : (s.setKite x1 x2).fresh = s.fresh := rfl

@[simp] theorem State.setLine_pending {s : State} {x1 x2} : (s.setLine x1 x2).pending = s.pending := rfl
@[simp] theorem State.setLine_tick {s : State} {x1 x2} : (s.setLine x1 x2).tick = s.tick := rfl
@[simp] theorem State.setLine_regs {s : State} {x1 x2} : (s.setLine x1 x2).regs = s.regs := rfl
@[simp] theorem State.setLine_shadow {s : State} {x1 x2} : (s.setLine x1 x2).shadow = s.shadow := rfl
@[simp] theorem State.setLine_held {s : State} {x1 x2} : (s.setLine x1 x2).held = s.held := rfl
@[simp] theorem State.setLine_hiLatch {s : State} {x1 x2} : (s.setLine x1 x2).hiLatch = s.hiLatch := rfl
@[simp] theorem State.setLine_frozen {s : State} {x1 x2} : (s.setLine x1 x2).frozen = s.frozen := rfl
@[simp] theorem State.setLine_hdrs {s : State} {x1 x2} : (s.setLine x1 x2).hdrs = s.hdrs := rfl
@[simp] theorem State.setLine_ec {s : State} {x1 x2} : (s.setLine x1 x2).ec = s.ec := rfl
@[simp] theorem State.setLine_host {s : State} {x1 x2} : (s.setLine x1 x2).host = s.host := rfl
@[simp] theorem State.setLine_hbm {s : State} {x1 x2} : (s.setLine x1 x2).hbm = s.hbm := rfl
@[simp] theorem State.setLine_mem {s : State} {x1 x2} : (s.setLine x1 x2).mem = s.mem := rfl
@[simp] theorem State.setLine_kites {s : State} {x1 x2} : (s.setLine x1 x2).kites = s.kites := rfl
@[simp] theorem State.setLine_step {s : State} {x1 x2} : (s.setLine x1 x2).step = s.step := rfl
@[simp] theorem State.setLine_seqs {s : State} {x1 x2} : (s.setLine x1 x2).seqs = s.seqs := rfl
@[simp] theorem State.setLine_gov {s : State} {x1 x2} : (s.setLine x1 x2).gov = s.gov := rfl
@[simp] theorem State.setLine_winch {s : State} {x1 x2} : (s.setLine x1 x2).winch = s.winch := rfl
@[simp] theorem State.setLine_burner {s : State} {x1 x2} : (s.setLine x1 x2).burner = s.burner := rfl
@[simp] theorem State.setLine_sc {s : State} {x1 x2} : (s.setLine x1 x2).sc = s.sc := rfl
@[simp] theorem State.setLine_recov {s : State} {x1 x2} : (s.setLine x1 x2).recov = s.recov := rfl
@[simp] theorem State.setLine_sb {s : State} {x1 x2} : (s.setLine x1 x2).sb = s.sb := rfl
@[simp] theorem State.setLine_tb {s : State} {x1 x2} : (s.setLine x1 x2).tb = s.tb := rfl
@[simp] theorem State.setLine_trust {s : State} {x1 x2} : (s.setLine x1 x2).trust = s.trust := rfl
@[simp] theorem State.setLine_pwr {s : State} {x1 x2} : (s.setLine x1 x2).pwr = s.pwr := rfl
@[simp] theorem State.setLine_hd {s : State} {x1 x2} : (s.setLine x1 x2).hd = s.hd := rfl
@[simp] theorem State.setLine_plan {s : State} {x1 x2} : (s.setLine x1 x2).plan = s.plan := rfl
@[simp] theorem State.setLine_trace {s : State} {x1 x2} : (s.setLine x1 x2).trace = s.trace := rfl
@[simp] theorem State.setLine_traceFull {s : State} {x1 x2} : (s.setLine x1 x2).traceFull = s.traceFull := rfl
@[simp] theorem State.setLine_out {s : State} {x1 x2} : (s.setLine x1 x2).out = s.out := rfl
@[simp] theorem State.setLine_fresh {s : State} {x1 x2} : (s.setLine x1 x2).fresh = s.fresh := rfl

@[simp] theorem State.setLines_pending {s : State} {x1 x2} : (s.setLines x1 x2).pending = s.pending := rfl
@[simp] theorem State.setLines_tick {s : State} {x1 x2} : (s.setLines x1 x2).tick = s.tick := rfl
@[simp] theorem State.setLines_regs {s : State} {x1 x2} : (s.setLines x1 x2).regs = s.regs := rfl
@[simp] theorem State.setLines_shadow {s : State} {x1 x2} : (s.setLines x1 x2).shadow = s.shadow := rfl
@[simp] theorem State.setLines_held {s : State} {x1 x2} : (s.setLines x1 x2).held = s.held := rfl
@[simp] theorem State.setLines_hiLatch {s : State} {x1 x2} : (s.setLines x1 x2).hiLatch = s.hiLatch := rfl
@[simp] theorem State.setLines_frozen {s : State} {x1 x2} : (s.setLines x1 x2).frozen = s.frozen := rfl
@[simp] theorem State.setLines_hdrs {s : State} {x1 x2} : (s.setLines x1 x2).hdrs = s.hdrs := rfl
@[simp] theorem State.setLines_ec {s : State} {x1 x2} : (s.setLines x1 x2).ec = s.ec := rfl
@[simp] theorem State.setLines_host {s : State} {x1 x2} : (s.setLines x1 x2).host = s.host := rfl
@[simp] theorem State.setLines_hbm {s : State} {x1 x2} : (s.setLines x1 x2).hbm = s.hbm := rfl
@[simp] theorem State.setLines_kites {s : State} {x1 x2} : (s.setLines x1 x2).kites = s.kites := rfl
@[simp] theorem State.setLines_step {s : State} {x1 x2} : (s.setLines x1 x2).step = s.step := rfl
@[simp] theorem State.setLines_seqs {s : State} {x1 x2} : (s.setLines x1 x2).seqs = s.seqs := rfl
@[simp] theorem State.setLines_gov {s : State} {x1 x2} : (s.setLines x1 x2).gov = s.gov := rfl
@[simp] theorem State.setLines_fab {s : State} {x1 x2} : (s.setLines x1 x2).fab = s.fab := rfl
@[simp] theorem State.setLines_winch {s : State} {x1 x2} : (s.setLines x1 x2).winch = s.winch := rfl
@[simp] theorem State.setLines_burner {s : State} {x1 x2} : (s.setLines x1 x2).burner = s.burner := rfl
@[simp] theorem State.setLines_sc {s : State} {x1 x2} : (s.setLines x1 x2).sc = s.sc := rfl
@[simp] theorem State.setLines_recov {s : State} {x1 x2} : (s.setLines x1 x2).recov = s.recov := rfl
@[simp] theorem State.setLines_sb {s : State} {x1 x2} : (s.setLines x1 x2).sb = s.sb := rfl
@[simp] theorem State.setLines_tb {s : State} {x1 x2} : (s.setLines x1 x2).tb = s.tb := rfl
@[simp] theorem State.setLines_trust {s : State} {x1 x2} : (s.setLines x1 x2).trust = s.trust := rfl
@[simp] theorem State.setLines_pwr {s : State} {x1 x2} : (s.setLines x1 x2).pwr = s.pwr := rfl
@[simp] theorem State.setLines_hd {s : State} {x1 x2} : (s.setLines x1 x2).hd = s.hd := rfl
@[simp] theorem State.setLines_plan {s : State} {x1 x2} : (s.setLines x1 x2).plan = s.plan := rfl
@[simp] theorem State.setLines_trace {s : State} {x1 x2} : (s.setLines x1 x2).trace = s.trace := rfl
@[simp] theorem State.setLines_traceFull {s : State} {x1 x2} : (s.setLines x1 x2).traceFull = s.traceFull := rfl
@[simp] theorem State.setLines_out {s : State} {x1 x2} : (s.setLines x1 x2).out = s.out := rfl
@[simp] theorem State.setLines_fresh {s : State} {x1 x2} : (s.setLines x1 x2).fresh = s.fresh := rfl

@[simp] theorem State.setPtp_pending {s : State} {x1} : (s.setPtp x1).pending = s.pending := rfl
@[simp] theorem State.setPtp_tick {s : State} {x1} : (s.setPtp x1).tick = s.tick := rfl
@[simp] theorem State.setPtp_regs {s : State} {x1} : (s.setPtp x1).regs = s.regs := rfl
@[simp] theorem State.setPtp_shadow {s : State} {x1} : (s.setPtp x1).shadow = s.shadow := rfl
@[simp] theorem State.setPtp_held {s : State} {x1} : (s.setPtp x1).held = s.held := rfl
@[simp] theorem State.setPtp_hiLatch {s : State} {x1} : (s.setPtp x1).hiLatch = s.hiLatch := rfl
@[simp] theorem State.setPtp_frozen {s : State} {x1} : (s.setPtp x1).frozen = s.frozen := rfl
@[simp] theorem State.setPtp_hdrs {s : State} {x1} : (s.setPtp x1).hdrs = s.hdrs := rfl
@[simp] theorem State.setPtp_ec {s : State} {x1} : (s.setPtp x1).ec = s.ec := rfl
@[simp] theorem State.setPtp_hbm {s : State} {x1} : (s.setPtp x1).hbm = s.hbm := rfl
@[simp] theorem State.setPtp_mem {s : State} {x1} : (s.setPtp x1).mem = s.mem := rfl
@[simp] theorem State.setPtp_kites {s : State} {x1} : (s.setPtp x1).kites = s.kites := rfl
@[simp] theorem State.setPtp_step {s : State} {x1} : (s.setPtp x1).step = s.step := rfl
@[simp] theorem State.setPtp_seqs {s : State} {x1} : (s.setPtp x1).seqs = s.seqs := rfl
@[simp] theorem State.setPtp_gov {s : State} {x1} : (s.setPtp x1).gov = s.gov := rfl
@[simp] theorem State.setPtp_fab {s : State} {x1} : (s.setPtp x1).fab = s.fab := rfl
@[simp] theorem State.setPtp_winch {s : State} {x1} : (s.setPtp x1).winch = s.winch := rfl
@[simp] theorem State.setPtp_burner {s : State} {x1} : (s.setPtp x1).burner = s.burner := rfl
@[simp] theorem State.setPtp_sc {s : State} {x1} : (s.setPtp x1).sc = s.sc := rfl
@[simp] theorem State.setPtp_recov {s : State} {x1} : (s.setPtp x1).recov = s.recov := rfl
@[simp] theorem State.setPtp_sb {s : State} {x1} : (s.setPtp x1).sb = s.sb := rfl
@[simp] theorem State.setPtp_tb {s : State} {x1} : (s.setPtp x1).tb = s.tb := rfl
@[simp] theorem State.setPtp_trust {s : State} {x1} : (s.setPtp x1).trust = s.trust := rfl
@[simp] theorem State.setPtp_pwr {s : State} {x1} : (s.setPtp x1).pwr = s.pwr := rfl
@[simp] theorem State.setPtp_hd {s : State} {x1} : (s.setPtp x1).hd = s.hd := rfl
@[simp] theorem State.setPtp_plan {s : State} {x1} : (s.setPtp x1).plan = s.plan := rfl
@[simp] theorem State.setPtp_trace {s : State} {x1} : (s.setPtp x1).trace = s.trace := rfl
@[simp] theorem State.setPtp_traceFull {s : State} {x1} : (s.setPtp x1).traceFull = s.traceFull := rfl
@[simp] theorem State.setPtp_out {s : State} {x1} : (s.setPtp x1).out = s.out := rfl
@[simp] theorem State.setPtp_fresh {s : State} {x1} : (s.setPtp x1).fresh = s.fresh := rfl

@[simp] theorem State.setRun_pending {s : State} {x1 x2} : (s.setRun x1 x2).pending = s.pending := rfl
@[simp] theorem State.setRun_tick {s : State} {x1 x2} : (s.setRun x1 x2).tick = s.tick := rfl
@[simp] theorem State.setRun_regs {s : State} {x1 x2} : (s.setRun x1 x2).regs = s.regs := rfl
@[simp] theorem State.setRun_shadow {s : State} {x1 x2} : (s.setRun x1 x2).shadow = s.shadow := rfl
@[simp] theorem State.setRun_held {s : State} {x1 x2} : (s.setRun x1 x2).held = s.held := rfl
@[simp] theorem State.setRun_hiLatch {s : State} {x1 x2} : (s.setRun x1 x2).hiLatch = s.hiLatch := rfl
@[simp] theorem State.setRun_frozen {s : State} {x1 x2} : (s.setRun x1 x2).frozen = s.frozen := rfl
@[simp] theorem State.setRun_hdrs {s : State} {x1 x2} : (s.setRun x1 x2).hdrs = s.hdrs := rfl
@[simp] theorem State.setRun_ec {s : State} {x1 x2} : (s.setRun x1 x2).ec = s.ec := rfl
@[simp] theorem State.setRun_host {s : State} {x1 x2} : (s.setRun x1 x2).host = s.host := rfl
@[simp] theorem State.setRun_hbm {s : State} {x1 x2} : (s.setRun x1 x2).hbm = s.hbm := rfl
@[simp] theorem State.setRun_mem {s : State} {x1 x2} : (s.setRun x1 x2).mem = s.mem := rfl
@[simp] theorem State.setRun_kites {s : State} {x1 x2} : (s.setRun x1 x2).kites = s.kites := rfl
@[simp] theorem State.setRun_step {s : State} {x1 x2} : (s.setRun x1 x2).step = s.step := rfl
@[simp] theorem State.setRun_seqs {s : State} {x1 x2} : (s.setRun x1 x2).seqs = s.seqs := rfl
@[simp] theorem State.setRun_gov {s : State} {x1 x2} : (s.setRun x1 x2).gov = s.gov := rfl
@[simp] theorem State.setRun_fab {s : State} {x1 x2} : (s.setRun x1 x2).fab = s.fab := rfl
@[simp] theorem State.setRun_burner {s : State} {x1 x2} : (s.setRun x1 x2).burner = s.burner := rfl
@[simp] theorem State.setRun_sc {s : State} {x1 x2} : (s.setRun x1 x2).sc = s.sc := rfl
@[simp] theorem State.setRun_recov {s : State} {x1 x2} : (s.setRun x1 x2).recov = s.recov := rfl
@[simp] theorem State.setRun_sb {s : State} {x1 x2} : (s.setRun x1 x2).sb = s.sb := rfl
@[simp] theorem State.setRun_tb {s : State} {x1 x2} : (s.setRun x1 x2).tb = s.tb := rfl
@[simp] theorem State.setRun_trust {s : State} {x1 x2} : (s.setRun x1 x2).trust = s.trust := rfl
@[simp] theorem State.setRun_pwr {s : State} {x1 x2} : (s.setRun x1 x2).pwr = s.pwr := rfl
@[simp] theorem State.setRun_hd {s : State} {x1 x2} : (s.setRun x1 x2).hd = s.hd := rfl
@[simp] theorem State.setRun_plan {s : State} {x1 x2} : (s.setRun x1 x2).plan = s.plan := rfl
@[simp] theorem State.setRun_trace {s : State} {x1 x2} : (s.setRun x1 x2).trace = s.trace := rfl
@[simp] theorem State.setRun_traceFull {s : State} {x1 x2} : (s.setRun x1 x2).traceFull = s.traceFull := rfl
@[simp] theorem State.setRun_out {s : State} {x1 x2} : (s.setRun x1 x2).out = s.out := rfl
@[simp] theorem State.setRun_fresh {s : State} {x1 x2} : (s.setRun x1 x2).fresh = s.fresh := rfl

@[simp] theorem State.setSeq_pending {s : State} {x1 x2 x3} : (s.setSeq x1 x2 x3).pending = s.pending := rfl
@[simp] theorem State.setSeq_tick {s : State} {x1 x2 x3} : (s.setSeq x1 x2 x3).tick = s.tick := rfl
@[simp] theorem State.setSeq_regs {s : State} {x1 x2 x3} : (s.setSeq x1 x2 x3).regs = s.regs := rfl
@[simp] theorem State.setSeq_shadow {s : State} {x1 x2 x3} : (s.setSeq x1 x2 x3).shadow = s.shadow := rfl
@[simp] theorem State.setSeq_held {s : State} {x1 x2 x3} : (s.setSeq x1 x2 x3).held = s.held := rfl
@[simp] theorem State.setSeq_hiLatch {s : State} {x1 x2 x3} : (s.setSeq x1 x2 x3).hiLatch = s.hiLatch := rfl
@[simp] theorem State.setSeq_frozen {s : State} {x1 x2 x3} : (s.setSeq x1 x2 x3).frozen = s.frozen := rfl
@[simp] theorem State.setSeq_hdrs {s : State} {x1 x2 x3} : (s.setSeq x1 x2 x3).hdrs = s.hdrs := rfl
@[simp] theorem State.setSeq_ec {s : State} {x1 x2 x3} : (s.setSeq x1 x2 x3).ec = s.ec := rfl
@[simp] theorem State.setSeq_host {s : State} {x1 x2 x3} : (s.setSeq x1 x2 x3).host = s.host := rfl
@[simp] theorem State.setSeq_hbm {s : State} {x1 x2 x3} : (s.setSeq x1 x2 x3).hbm = s.hbm := rfl
@[simp] theorem State.setSeq_mem {s : State} {x1 x2 x3} : (s.setSeq x1 x2 x3).mem = s.mem := rfl
@[simp] theorem State.setSeq_kites {s : State} {x1 x2 x3} : (s.setSeq x1 x2 x3).kites = s.kites := rfl
@[simp] theorem State.setSeq_step {s : State} {x1 x2 x3} : (s.setSeq x1 x2 x3).step = s.step := rfl
@[simp] theorem State.setSeq_gov {s : State} {x1 x2 x3} : (s.setSeq x1 x2 x3).gov = s.gov := rfl
@[simp] theorem State.setSeq_fab {s : State} {x1 x2 x3} : (s.setSeq x1 x2 x3).fab = s.fab := rfl
@[simp] theorem State.setSeq_winch {s : State} {x1 x2 x3} : (s.setSeq x1 x2 x3).winch = s.winch := rfl
@[simp] theorem State.setSeq_burner {s : State} {x1 x2 x3} : (s.setSeq x1 x2 x3).burner = s.burner := rfl
@[simp] theorem State.setSeq_sc {s : State} {x1 x2 x3} : (s.setSeq x1 x2 x3).sc = s.sc := rfl
@[simp] theorem State.setSeq_recov {s : State} {x1 x2 x3} : (s.setSeq x1 x2 x3).recov = s.recov := rfl
@[simp] theorem State.setSeq_sb {s : State} {x1 x2 x3} : (s.setSeq x1 x2 x3).sb = s.sb := rfl
@[simp] theorem State.setSeq_tb {s : State} {x1 x2 x3} : (s.setSeq x1 x2 x3).tb = s.tb := rfl
@[simp] theorem State.setSeq_trust {s : State} {x1 x2 x3} : (s.setSeq x1 x2 x3).trust = s.trust := rfl
@[simp] theorem State.setSeq_pwr {s : State} {x1 x2 x3} : (s.setSeq x1 x2 x3).pwr = s.pwr := rfl
@[simp] theorem State.setSeq_hd {s : State} {x1 x2 x3} : (s.setSeq x1 x2 x3).hd = s.hd := rfl
@[simp] theorem State.setSeq_plan {s : State} {x1 x2 x3} : (s.setSeq x1 x2 x3).plan = s.plan := rfl
@[simp] theorem State.setSeq_trace {s : State} {x1 x2 x3} : (s.setSeq x1 x2 x3).trace = s.trace := rfl
@[simp] theorem State.setSeq_traceFull {s : State} {x1 x2 x3} : (s.setSeq x1 x2 x3).traceFull = s.traceFull := rfl
@[simp] theorem State.setSeq_out {s : State} {x1 x2 x3} : (s.setSeq x1 x2 x3).out = s.out := rfl
@[simp] theorem State.setSeq_fresh {s : State} {x1 x2 x3} : (s.setSeq x1 x2 x3).fresh = s.fresh := rfl

@[simp] theorem State.setSide_pending {s : State} {x1} : (s.setSide x1).pending = s.pending := rfl
@[simp] theorem State.setSide_tick {s : State} {x1} : (s.setSide x1).tick = s.tick := rfl
@[simp] theorem State.setSide_regs {s : State} {x1} : (s.setSide x1).regs = s.regs := rfl
@[simp] theorem State.setSide_shadow {s : State} {x1} : (s.setSide x1).shadow = s.shadow := rfl
@[simp] theorem State.setSide_held {s : State} {x1} : (s.setSide x1).held = s.held := rfl
@[simp] theorem State.setSide_hiLatch {s : State} {x1} : (s.setSide x1).hiLatch = s.hiLatch := rfl
@[simp] theorem State.setSide_frozen {s : State} {x1} : (s.setSide x1).frozen = s.frozen := rfl
@[simp] theorem State.setSide_hdrs {s : State} {x1} : (s.setSide x1).hdrs = s.hdrs := rfl
@[simp] theorem State.setSide_ec {s : State} {x1} : (s.setSide x1).ec = s.ec := rfl
@[simp] theorem State.setSide_host {s : State} {x1} : (s.setSide x1).host = s.host := rfl
@[simp] theorem State.setSide_hbm {s : State} {x1} : (s.setSide x1).hbm = s.hbm := rfl
@[simp] theorem State.setSide_mem {s : State} {x1} : (s.setSide x1).mem = s.mem := rfl
@[simp] theorem State.setSide_kites {s : State} {x1} : (s.setSide x1).kites = s.kites := rfl
@[simp] theorem State.setSide_step {s : State} {x1} : (s.setSide x1).step = s.step := rfl
@[simp] theorem State.setSide_seqs {s : State} {x1} : (s.setSide x1).seqs = s.seqs := rfl
@[simp] theorem State.setSide_gov {s : State} {x1} : (s.setSide x1).gov = s.gov := rfl
@[simp] theorem State.setSide_fab {s : State} {x1} : (s.setSide x1).fab = s.fab := rfl
@[simp] theorem State.setSide_winch {s : State} {x1} : (s.setSide x1).winch = s.winch := rfl
@[simp] theorem State.setSide_burner {s : State} {x1} : (s.setSide x1).burner = s.burner := rfl
@[simp] theorem State.setSide_sc {s : State} {x1} : (s.setSide x1).sc = s.sc := rfl
@[simp] theorem State.setSide_recov {s : State} {x1} : (s.setSide x1).recov = s.recov := rfl
@[simp] theorem State.setSide_tb {s : State} {x1} : (s.setSide x1).tb = s.tb := rfl
@[simp] theorem State.setSide_trust {s : State} {x1} : (s.setSide x1).trust = s.trust := rfl
@[simp] theorem State.setSide_pwr {s : State} {x1} : (s.setSide x1).pwr = s.pwr := rfl
@[simp] theorem State.setSide_hd {s : State} {x1} : (s.setSide x1).hd = s.hd := rfl
@[simp] theorem State.setSide_plan {s : State} {x1} : (s.setSide x1).plan = s.plan := rfl
@[simp] theorem State.setSide_trace {s : State} {x1} : (s.setSide x1).trace = s.trace := rfl
@[simp] theorem State.setSide_traceFull {s : State} {x1} : (s.setSide x1).traceFull = s.traceFull := rfl
@[simp] theorem State.setSide_out {s : State} {x1} : (s.setSide x1).out = s.out := rfl
@[simp] theorem State.setSide_fresh {s : State} {x1} : (s.setSide x1).fresh = s.fresh := rfl

@[simp] theorem State.setStack_pending {s : State} {x1 x2} : (s.setStack x1 x2).pending = s.pending := rfl
@[simp] theorem State.setStack_tick {s : State} {x1 x2} : (s.setStack x1 x2).tick = s.tick := rfl
@[simp] theorem State.setStack_regs {s : State} {x1 x2} : (s.setStack x1 x2).regs = s.regs := rfl
@[simp] theorem State.setStack_shadow {s : State} {x1 x2} : (s.setStack x1 x2).shadow = s.shadow := rfl
@[simp] theorem State.setStack_held {s : State} {x1 x2} : (s.setStack x1 x2).held = s.held := rfl
@[simp] theorem State.setStack_hiLatch {s : State} {x1 x2} : (s.setStack x1 x2).hiLatch = s.hiLatch := rfl
@[simp] theorem State.setStack_frozen {s : State} {x1 x2} : (s.setStack x1 x2).frozen = s.frozen := rfl
@[simp] theorem State.setStack_hdrs {s : State} {x1 x2} : (s.setStack x1 x2).hdrs = s.hdrs := rfl
@[simp] theorem State.setStack_ec {s : State} {x1 x2} : (s.setStack x1 x2).ec = s.ec := rfl
@[simp] theorem State.setStack_host {s : State} {x1 x2} : (s.setStack x1 x2).host = s.host := rfl
@[simp] theorem State.setStack_hbm {s : State} {x1 x2} : (s.setStack x1 x2).hbm = s.hbm := rfl
@[simp] theorem State.setStack_kites {s : State} {x1 x2} : (s.setStack x1 x2).kites = s.kites := rfl
@[simp] theorem State.setStack_step {s : State} {x1 x2} : (s.setStack x1 x2).step = s.step := rfl
@[simp] theorem State.setStack_seqs {s : State} {x1 x2} : (s.setStack x1 x2).seqs = s.seqs := rfl
@[simp] theorem State.setStack_gov {s : State} {x1 x2} : (s.setStack x1 x2).gov = s.gov := rfl
@[simp] theorem State.setStack_fab {s : State} {x1 x2} : (s.setStack x1 x2).fab = s.fab := rfl
@[simp] theorem State.setStack_winch {s : State} {x1 x2} : (s.setStack x1 x2).winch = s.winch := rfl
@[simp] theorem State.setStack_burner {s : State} {x1 x2} : (s.setStack x1 x2).burner = s.burner := rfl
@[simp] theorem State.setStack_sc {s : State} {x1 x2} : (s.setStack x1 x2).sc = s.sc := rfl
@[simp] theorem State.setStack_recov {s : State} {x1 x2} : (s.setStack x1 x2).recov = s.recov := rfl
@[simp] theorem State.setStack_sb {s : State} {x1 x2} : (s.setStack x1 x2).sb = s.sb := rfl
@[simp] theorem State.setStack_tb {s : State} {x1 x2} : (s.setStack x1 x2).tb = s.tb := rfl
@[simp] theorem State.setStack_trust {s : State} {x1 x2} : (s.setStack x1 x2).trust = s.trust := rfl
@[simp] theorem State.setStack_pwr {s : State} {x1 x2} : (s.setStack x1 x2).pwr = s.pwr := rfl
@[simp] theorem State.setStack_hd {s : State} {x1 x2} : (s.setStack x1 x2).hd = s.hd := rfl
@[simp] theorem State.setStack_plan {s : State} {x1 x2} : (s.setStack x1 x2).plan = s.plan := rfl
@[simp] theorem State.setStack_trace {s : State} {x1 x2} : (s.setStack x1 x2).trace = s.trace := rfl
@[simp] theorem State.setStack_traceFull {s : State} {x1 x2} : (s.setStack x1 x2).traceFull = s.traceFull := rfl
@[simp] theorem State.setStack_out {s : State} {x1 x2} : (s.setStack x1 x2).out = s.out := rfl
@[simp] theorem State.setStack_fresh {s : State} {x1 x2} : (s.setStack x1 x2).fresh = s.fresh := rfl

@[simp] theorem State.setStream_pending {s : State} {x1 x2} : (s.setStream x1 x2).pending = s.pending := rfl
@[simp] theorem State.setStream_tick {s : State} {x1 x2} : (s.setStream x1 x2).tick = s.tick := rfl
@[simp] theorem State.setStream_regs {s : State} {x1 x2} : (s.setStream x1 x2).regs = s.regs := rfl
@[simp] theorem State.setStream_shadow {s : State} {x1 x2} : (s.setStream x1 x2).shadow = s.shadow := rfl
@[simp] theorem State.setStream_held {s : State} {x1 x2} : (s.setStream x1 x2).held = s.held := rfl
@[simp] theorem State.setStream_hiLatch {s : State} {x1 x2} : (s.setStream x1 x2).hiLatch = s.hiLatch := rfl
@[simp] theorem State.setStream_frozen {s : State} {x1 x2} : (s.setStream x1 x2).frozen = s.frozen := rfl
@[simp] theorem State.setStream_hdrs {s : State} {x1 x2} : (s.setStream x1 x2).hdrs = s.hdrs := rfl
@[simp] theorem State.setStream_ec {s : State} {x1 x2} : (s.setStream x1 x2).ec = s.ec := rfl
@[simp] theorem State.setStream_hbm {s : State} {x1 x2} : (s.setStream x1 x2).hbm = s.hbm := rfl
@[simp] theorem State.setStream_mem {s : State} {x1 x2} : (s.setStream x1 x2).mem = s.mem := rfl
@[simp] theorem State.setStream_kites {s : State} {x1 x2} : (s.setStream x1 x2).kites = s.kites := rfl
@[simp] theorem State.setStream_step {s : State} {x1 x2} : (s.setStream x1 x2).step = s.step := rfl
@[simp] theorem State.setStream_seqs {s : State} {x1 x2} : (s.setStream x1 x2).seqs = s.seqs := rfl
@[simp] theorem State.setStream_gov {s : State} {x1 x2} : (s.setStream x1 x2).gov = s.gov := rfl
@[simp] theorem State.setStream_fab {s : State} {x1 x2} : (s.setStream x1 x2).fab = s.fab := rfl
@[simp] theorem State.setStream_winch {s : State} {x1 x2} : (s.setStream x1 x2).winch = s.winch := rfl
@[simp] theorem State.setStream_burner {s : State} {x1 x2} : (s.setStream x1 x2).burner = s.burner := rfl
@[simp] theorem State.setStream_sc {s : State} {x1 x2} : (s.setStream x1 x2).sc = s.sc := rfl
@[simp] theorem State.setStream_recov {s : State} {x1 x2} : (s.setStream x1 x2).recov = s.recov := rfl
@[simp] theorem State.setStream_sb {s : State} {x1 x2} : (s.setStream x1 x2).sb = s.sb := rfl
@[simp] theorem State.setStream_tb {s : State} {x1 x2} : (s.setStream x1 x2).tb = s.tb := rfl
@[simp] theorem State.setStream_trust {s : State} {x1 x2} : (s.setStream x1 x2).trust = s.trust := rfl
@[simp] theorem State.setStream_pwr {s : State} {x1 x2} : (s.setStream x1 x2).pwr = s.pwr := rfl
@[simp] theorem State.setStream_hd {s : State} {x1 x2} : (s.setStream x1 x2).hd = s.hd := rfl
@[simp] theorem State.setStream_plan {s : State} {x1 x2} : (s.setStream x1 x2).plan = s.plan := rfl
@[simp] theorem State.setStream_trace {s : State} {x1 x2} : (s.setStream x1 x2).trace = s.trace := rfl
@[simp] theorem State.setStream_traceFull {s : State} {x1 x2} : (s.setStream x1 x2).traceFull = s.traceFull := rfl
@[simp] theorem State.setStream_out {s : State} {x1 x2} : (s.setStream x1 x2).out = s.out := rfl
@[simp] theorem State.setStream_fresh {s : State} {x1 x2} : (s.setStream x1 x2).fresh = s.fresh := rfl

@[simp] theorem State.setWinch_pending {s : State} {x1 x2} : (s.setWinch x1 x2).pending = s.pending := rfl
@[simp] theorem State.setWinch_tick {s : State} {x1 x2} : (s.setWinch x1 x2).tick = s.tick := rfl
@[simp] theorem State.setWinch_regs {s : State} {x1 x2} : (s.setWinch x1 x2).regs = s.regs := rfl
@[simp] theorem State.setWinch_shadow {s : State} {x1 x2} : (s.setWinch x1 x2).shadow = s.shadow := rfl
@[simp] theorem State.setWinch_held {s : State} {x1 x2} : (s.setWinch x1 x2).held = s.held := rfl
@[simp] theorem State.setWinch_hiLatch {s : State} {x1 x2} : (s.setWinch x1 x2).hiLatch = s.hiLatch := rfl
@[simp] theorem State.setWinch_frozen {s : State} {x1 x2} : (s.setWinch x1 x2).frozen = s.frozen := rfl
@[simp] theorem State.setWinch_hdrs {s : State} {x1 x2} : (s.setWinch x1 x2).hdrs = s.hdrs := rfl
@[simp] theorem State.setWinch_ec {s : State} {x1 x2} : (s.setWinch x1 x2).ec = s.ec := rfl
@[simp] theorem State.setWinch_host {s : State} {x1 x2} : (s.setWinch x1 x2).host = s.host := rfl
@[simp] theorem State.setWinch_hbm {s : State} {x1 x2} : (s.setWinch x1 x2).hbm = s.hbm := rfl
@[simp] theorem State.setWinch_mem {s : State} {x1 x2} : (s.setWinch x1 x2).mem = s.mem := rfl
@[simp] theorem State.setWinch_kites {s : State} {x1 x2} : (s.setWinch x1 x2).kites = s.kites := rfl
@[simp] theorem State.setWinch_step {s : State} {x1 x2} : (s.setWinch x1 x2).step = s.step := rfl
@[simp] theorem State.setWinch_seqs {s : State} {x1 x2} : (s.setWinch x1 x2).seqs = s.seqs := rfl
@[simp] theorem State.setWinch_gov {s : State} {x1 x2} : (s.setWinch x1 x2).gov = s.gov := rfl
@[simp] theorem State.setWinch_fab {s : State} {x1 x2} : (s.setWinch x1 x2).fab = s.fab := rfl
@[simp] theorem State.setWinch_burner {s : State} {x1 x2} : (s.setWinch x1 x2).burner = s.burner := rfl
@[simp] theorem State.setWinch_sc {s : State} {x1 x2} : (s.setWinch x1 x2).sc = s.sc := rfl
@[simp] theorem State.setWinch_recov {s : State} {x1 x2} : (s.setWinch x1 x2).recov = s.recov := rfl
@[simp] theorem State.setWinch_sb {s : State} {x1 x2} : (s.setWinch x1 x2).sb = s.sb := rfl
@[simp] theorem State.setWinch_tb {s : State} {x1 x2} : (s.setWinch x1 x2).tb = s.tb := rfl
@[simp] theorem State.setWinch_trust {s : State} {x1 x2} : (s.setWinch x1 x2).trust = s.trust := rfl
@[simp] theorem State.setWinch_pwr {s : State} {x1 x2} : (s.setWinch x1 x2).pwr = s.pwr := rfl
@[simp] theorem State.setWinch_hd {s : State} {x1 x2} : (s.setWinch x1 x2).hd = s.hd := rfl
@[simp] theorem State.setWinch_plan {s : State} {x1 x2} : (s.setWinch x1 x2).plan = s.plan := rfl
@[simp] theorem State.setWinch_trace {s : State} {x1 x2} : (s.setWinch x1 x2).trace = s.trace := rfl
@[simp] theorem State.setWinch_traceFull {s : State} {x1 x2} : (s.setWinch x1 x2).traceFull = s.traceFull := rfl
@[simp] theorem State.setWinch_out {s : State} {x1 x2} : (s.setWinch x1 x2).out = s.out := rfl
@[simp] theorem State.setWinch_fresh {s : State} {x1 x2} : (s.setWinch x1 x2).fresh = s.fresh := rfl

@[simp] theorem State.spWrite_pending {s : State} {x1 x2 x3} : (s.spWrite x1 x2 x3).pending = s.pending := rfl
@[simp] theorem State.spWrite_tick {s : State} {x1 x2 x3} : (s.spWrite x1 x2 x3).tick = s.tick := rfl
@[simp] theorem State.spWrite_regs {s : State} {x1 x2 x3} : (s.spWrite x1 x2 x3).regs = s.regs := rfl
@[simp] theorem State.spWrite_shadow {s : State} {x1 x2 x3} : (s.spWrite x1 x2 x3).shadow = s.shadow := rfl
@[simp] theorem State.spWrite_held {s : State} {x1 x2 x3} : (s.spWrite x1 x2 x3).held = s.held := rfl
@[simp] theorem State.spWrite_hiLatch {s : State} {x1 x2 x3} : (s.spWrite x1 x2 x3).hiLatch = s.hiLatch := rfl
@[simp] theorem State.spWrite_frozen {s : State} {x1 x2 x3} : (s.spWrite x1 x2 x3).frozen = s.frozen := rfl
@[simp] theorem State.spWrite_hdrs {s : State} {x1 x2 x3} : (s.spWrite x1 x2 x3).hdrs = s.hdrs := rfl
@[simp] theorem State.spWrite_ec {s : State} {x1 x2 x3} : (s.spWrite x1 x2 x3).ec = s.ec := rfl
@[simp] theorem State.spWrite_host {s : State} {x1 x2 x3} : (s.spWrite x1 x2 x3).host = s.host := rfl
@[simp] theorem State.spWrite_hbm {s : State} {x1 x2 x3} : (s.spWrite x1 x2 x3).hbm = s.hbm := rfl
@[simp] theorem State.spWrite_mem {s : State} {x1 x2 x3} : (s.spWrite x1 x2 x3).mem = s.mem := rfl
@[simp] theorem State.spWrite_step {s : State} {x1 x2 x3} : (s.spWrite x1 x2 x3).step = s.step := rfl
@[simp] theorem State.spWrite_seqs {s : State} {x1 x2 x3} : (s.spWrite x1 x2 x3).seqs = s.seqs := rfl
@[simp] theorem State.spWrite_gov {s : State} {x1 x2 x3} : (s.spWrite x1 x2 x3).gov = s.gov := rfl
@[simp] theorem State.spWrite_fab {s : State} {x1 x2 x3} : (s.spWrite x1 x2 x3).fab = s.fab := rfl
@[simp] theorem State.spWrite_winch {s : State} {x1 x2 x3} : (s.spWrite x1 x2 x3).winch = s.winch := rfl
@[simp] theorem State.spWrite_burner {s : State} {x1 x2 x3} : (s.spWrite x1 x2 x3).burner = s.burner := rfl
@[simp] theorem State.spWrite_sc {s : State} {x1 x2 x3} : (s.spWrite x1 x2 x3).sc = s.sc := rfl
@[simp] theorem State.spWrite_recov {s : State} {x1 x2 x3} : (s.spWrite x1 x2 x3).recov = s.recov := rfl
@[simp] theorem State.spWrite_sb {s : State} {x1 x2 x3} : (s.spWrite x1 x2 x3).sb = s.sb := rfl
@[simp] theorem State.spWrite_tb {s : State} {x1 x2 x3} : (s.spWrite x1 x2 x3).tb = s.tb := rfl
@[simp] theorem State.spWrite_trust {s : State} {x1 x2 x3} : (s.spWrite x1 x2 x3).trust = s.trust := rfl
@[simp] theorem State.spWrite_pwr {s : State} {x1 x2 x3} : (s.spWrite x1 x2 x3).pwr = s.pwr := rfl
@[simp] theorem State.spWrite_hd {s : State} {x1 x2 x3} : (s.spWrite x1 x2 x3).hd = s.hd := rfl
@[simp] theorem State.spWrite_plan {s : State} {x1 x2 x3} : (s.spWrite x1 x2 x3).plan = s.plan := rfl
@[simp] theorem State.spWrite_trace {s : State} {x1 x2 x3} : (s.spWrite x1 x2 x3).trace = s.trace := rfl
@[simp] theorem State.spWrite_traceFull {s : State} {x1 x2 x3} : (s.spWrite x1 x2 x3).traceFull = s.traceFull := rfl
@[simp] theorem State.spWrite_out {s : State} {x1 x2 x3} : (s.spWrite x1 x2 x3).out = s.out := rfl
@[simp] theorem State.spWrite_fresh {s : State} {x1 x2 x3} : (s.spWrite x1 x2 x3).fresh = s.fresh := rfl

@[simp] theorem State.wr_pending {s : State} {x1 x2 x3 x4} : (s.wr x1 x2 x3 x4).pending = s.pending := rfl
@[simp] theorem State.wr_tick {s : State} {x1 x2 x3 x4} : (s.wr x1 x2 x3 x4).tick = s.tick := rfl
@[simp] theorem State.wr_shadow {s : State} {x1 x2 x3 x4} : (s.wr x1 x2 x3 x4).shadow = s.shadow := rfl
@[simp] theorem State.wr_held {s : State} {x1 x2 x3 x4} : (s.wr x1 x2 x3 x4).held = s.held := rfl
@[simp] theorem State.wr_hiLatch {s : State} {x1 x2 x3 x4} : (s.wr x1 x2 x3 x4).hiLatch = s.hiLatch := rfl
@[simp] theorem State.wr_frozen {s : State} {x1 x2 x3 x4} : (s.wr x1 x2 x3 x4).frozen = s.frozen := rfl
@[simp] theorem State.wr_hdrs {s : State} {x1 x2 x3 x4} : (s.wr x1 x2 x3 x4).hdrs = s.hdrs := rfl
@[simp] theorem State.wr_ec {s : State} {x1 x2 x3 x4} : (s.wr x1 x2 x3 x4).ec = s.ec := rfl
@[simp] theorem State.wr_host {s : State} {x1 x2 x3 x4} : (s.wr x1 x2 x3 x4).host = s.host := rfl
@[simp] theorem State.wr_hbm {s : State} {x1 x2 x3 x4} : (s.wr x1 x2 x3 x4).hbm = s.hbm := rfl
@[simp] theorem State.wr_mem {s : State} {x1 x2 x3 x4} : (s.wr x1 x2 x3 x4).mem = s.mem := rfl
@[simp] theorem State.wr_kites {s : State} {x1 x2 x3 x4} : (s.wr x1 x2 x3 x4).kites = s.kites := rfl
@[simp] theorem State.wr_step {s : State} {x1 x2 x3 x4} : (s.wr x1 x2 x3 x4).step = s.step := rfl
@[simp] theorem State.wr_seqs {s : State} {x1 x2 x3 x4} : (s.wr x1 x2 x3 x4).seqs = s.seqs := rfl
@[simp] theorem State.wr_gov {s : State} {x1 x2 x3 x4} : (s.wr x1 x2 x3 x4).gov = s.gov := rfl
@[simp] theorem State.wr_fab {s : State} {x1 x2 x3 x4} : (s.wr x1 x2 x3 x4).fab = s.fab := rfl
@[simp] theorem State.wr_winch {s : State} {x1 x2 x3 x4} : (s.wr x1 x2 x3 x4).winch = s.winch := rfl
@[simp] theorem State.wr_burner {s : State} {x1 x2 x3 x4} : (s.wr x1 x2 x3 x4).burner = s.burner := rfl
@[simp] theorem State.wr_sc {s : State} {x1 x2 x3 x4} : (s.wr x1 x2 x3 x4).sc = s.sc := rfl
@[simp] theorem State.wr_recov {s : State} {x1 x2 x3 x4} : (s.wr x1 x2 x3 x4).recov = s.recov := rfl
@[simp] theorem State.wr_sb {s : State} {x1 x2 x3 x4} : (s.wr x1 x2 x3 x4).sb = s.sb := rfl
@[simp] theorem State.wr_tb {s : State} {x1 x2 x3 x4} : (s.wr x1 x2 x3 x4).tb = s.tb := rfl
@[simp] theorem State.wr_trust {s : State} {x1 x2 x3 x4} : (s.wr x1 x2 x3 x4).trust = s.trust := rfl
@[simp] theorem State.wr_pwr {s : State} {x1 x2 x3 x4} : (s.wr x1 x2 x3 x4).pwr = s.pwr := rfl
@[simp] theorem State.wr_hd {s : State} {x1 x2 x3 x4} : (s.wr x1 x2 x3 x4).hd = s.hd := rfl
@[simp] theorem State.wr_plan {s : State} {x1 x2 x3 x4} : (s.wr x1 x2 x3 x4).plan = s.plan := rfl
@[simp] theorem State.wr_trace {s : State} {x1 x2 x3 x4} : (s.wr x1 x2 x3 x4).trace = s.trace := rfl
@[simp] theorem State.wr_traceFull {s : State} {x1 x2 x3 x4} : (s.wr x1 x2 x3 x4).traceFull = s.traceFull := rfl
@[simp] theorem State.wr_out {s : State} {x1 x2 x3 x4} : (s.wr x1 x2 x3 x4).out = s.out := rfl
@[simp] theorem State.wr_fresh {s : State} {x1 x2 x3 x4} : (s.wr x1 x2 x3 x4).fresh = s.fresh := rfl

@[simp] theorem State.wr64_pending {s : State} {x1 x2 x3 x4} : (s.wr64 x1 x2 x3 x4).pending = s.pending := rfl
@[simp] theorem State.wr64_tick {s : State} {x1 x2 x3 x4} : (s.wr64 x1 x2 x3 x4).tick = s.tick := rfl
@[simp] theorem State.wr64_shadow {s : State} {x1 x2 x3 x4} : (s.wr64 x1 x2 x3 x4).shadow = s.shadow := rfl
@[simp] theorem State.wr64_held {s : State} {x1 x2 x3 x4} : (s.wr64 x1 x2 x3 x4).held = s.held := rfl
@[simp] theorem State.wr64_hiLatch {s : State} {x1 x2 x3 x4} : (s.wr64 x1 x2 x3 x4).hiLatch = s.hiLatch := rfl
@[simp] theorem State.wr64_frozen {s : State} {x1 x2 x3 x4} : (s.wr64 x1 x2 x3 x4).frozen = s.frozen := rfl
@[simp] theorem State.wr64_hdrs {s : State} {x1 x2 x3 x4} : (s.wr64 x1 x2 x3 x4).hdrs = s.hdrs := rfl
@[simp] theorem State.wr64_ec {s : State} {x1 x2 x3 x4} : (s.wr64 x1 x2 x3 x4).ec = s.ec := rfl
@[simp] theorem State.wr64_host {s : State} {x1 x2 x3 x4} : (s.wr64 x1 x2 x3 x4).host = s.host := rfl
@[simp] theorem State.wr64_hbm {s : State} {x1 x2 x3 x4} : (s.wr64 x1 x2 x3 x4).hbm = s.hbm := rfl
@[simp] theorem State.wr64_mem {s : State} {x1 x2 x3 x4} : (s.wr64 x1 x2 x3 x4).mem = s.mem := rfl
@[simp] theorem State.wr64_kites {s : State} {x1 x2 x3 x4} : (s.wr64 x1 x2 x3 x4).kites = s.kites := rfl
@[simp] theorem State.wr64_step {s : State} {x1 x2 x3 x4} : (s.wr64 x1 x2 x3 x4).step = s.step := rfl
@[simp] theorem State.wr64_seqs {s : State} {x1 x2 x3 x4} : (s.wr64 x1 x2 x3 x4).seqs = s.seqs := rfl
@[simp] theorem State.wr64_gov {s : State} {x1 x2 x3 x4} : (s.wr64 x1 x2 x3 x4).gov = s.gov := rfl
@[simp] theorem State.wr64_fab {s : State} {x1 x2 x3 x4} : (s.wr64 x1 x2 x3 x4).fab = s.fab := rfl
@[simp] theorem State.wr64_winch {s : State} {x1 x2 x3 x4} : (s.wr64 x1 x2 x3 x4).winch = s.winch := rfl
@[simp] theorem State.wr64_burner {s : State} {x1 x2 x3 x4} : (s.wr64 x1 x2 x3 x4).burner = s.burner := rfl
@[simp] theorem State.wr64_sc {s : State} {x1 x2 x3 x4} : (s.wr64 x1 x2 x3 x4).sc = s.sc := rfl
@[simp] theorem State.wr64_recov {s : State} {x1 x2 x3 x4} : (s.wr64 x1 x2 x3 x4).recov = s.recov := rfl
@[simp] theorem State.wr64_sb {s : State} {x1 x2 x3 x4} : (s.wr64 x1 x2 x3 x4).sb = s.sb := rfl
@[simp] theorem State.wr64_tb {s : State} {x1 x2 x3 x4} : (s.wr64 x1 x2 x3 x4).tb = s.tb := rfl
@[simp] theorem State.wr64_trust {s : State} {x1 x2 x3 x4} : (s.wr64 x1 x2 x3 x4).trust = s.trust := rfl
@[simp] theorem State.wr64_pwr {s : State} {x1 x2 x3 x4} : (s.wr64 x1 x2 x3 x4).pwr = s.pwr := rfl
@[simp] theorem State.wr64_hd {s : State} {x1 x2 x3 x4} : (s.wr64 x1 x2 x3 x4).hd = s.hd := rfl
@[simp] theorem State.wr64_plan {s : State} {x1 x2 x3 x4} : (s.wr64 x1 x2 x3 x4).plan = s.plan := rfl
@[simp] theorem State.wr64_trace {s : State} {x1 x2 x3 x4} : (s.wr64 x1 x2 x3 x4).trace = s.trace := rfl
@[simp] theorem State.wr64_traceFull {s : State} {x1 x2 x3 x4} : (s.wr64 x1 x2 x3 x4).traceFull = s.traceFull := rfl
@[simp] theorem State.wr64_out {s : State} {x1 x2 x3 x4} : (s.wr64 x1 x2 x3 x4).out = s.out := rfl
@[simp] theorem State.wr64_fresh {s : State} {x1 x2 x3 x4} : (s.wr64 x1 x2 x3 x4).fresh = s.fresh := rfl

@[simp] theorem State.wrSh_pending {s : State} {x1 x2 x3 x4} : (s.wrSh x1 x2 x3 x4).pending = s.pending := rfl
@[simp] theorem State.wrSh_tick {s : State} {x1 x2 x3 x4} : (s.wrSh x1 x2 x3 x4).tick = s.tick := rfl
@[simp] theorem State.wrSh_regs {s : State} {x1 x2 x3 x4} : (s.wrSh x1 x2 x3 x4).regs = s.regs := rfl
@[simp] theorem State.wrSh_held {s : State} {x1 x2 x3 x4} : (s.wrSh x1 x2 x3 x4).held = s.held := rfl
@[simp] theorem State.wrSh_hiLatch {s : State} {x1 x2 x3 x4} : (s.wrSh x1 x2 x3 x4).hiLatch = s.hiLatch := rfl
@[simp] theorem State.wrSh_frozen {s : State} {x1 x2 x3 x4} : (s.wrSh x1 x2 x3 x4).frozen = s.frozen := rfl
@[simp] theorem State.wrSh_hdrs {s : State} {x1 x2 x3 x4} : (s.wrSh x1 x2 x3 x4).hdrs = s.hdrs := rfl
@[simp] theorem State.wrSh_ec {s : State} {x1 x2 x3 x4} : (s.wrSh x1 x2 x3 x4).ec = s.ec := rfl
@[simp] theorem State.wrSh_host {s : State} {x1 x2 x3 x4} : (s.wrSh x1 x2 x3 x4).host = s.host := rfl
@[simp] theorem State.wrSh_hbm {s : State} {x1 x2 x3 x4} : (s.wrSh x1 x2 x3 x4).hbm = s.hbm := rfl
@[simp] theorem State.wrSh_mem {s : State} {x1 x2 x3 x4} : (s.wrSh x1 x2 x3 x4).mem = s.mem := rfl
@[simp] theorem State.wrSh_kites {s : State} {x1 x2 x3 x4} : (s.wrSh x1 x2 x3 x4).kites = s.kites := rfl
@[simp] theorem State.wrSh_step {s : State} {x1 x2 x3 x4} : (s.wrSh x1 x2 x3 x4).step = s.step := rfl
@[simp] theorem State.wrSh_seqs {s : State} {x1 x2 x3 x4} : (s.wrSh x1 x2 x3 x4).seqs = s.seqs := rfl
@[simp] theorem State.wrSh_gov {s : State} {x1 x2 x3 x4} : (s.wrSh x1 x2 x3 x4).gov = s.gov := rfl
@[simp] theorem State.wrSh_fab {s : State} {x1 x2 x3 x4} : (s.wrSh x1 x2 x3 x4).fab = s.fab := rfl
@[simp] theorem State.wrSh_winch {s : State} {x1 x2 x3 x4} : (s.wrSh x1 x2 x3 x4).winch = s.winch := rfl
@[simp] theorem State.wrSh_burner {s : State} {x1 x2 x3 x4} : (s.wrSh x1 x2 x3 x4).burner = s.burner := rfl
@[simp] theorem State.wrSh_sc {s : State} {x1 x2 x3 x4} : (s.wrSh x1 x2 x3 x4).sc = s.sc := rfl
@[simp] theorem State.wrSh_recov {s : State} {x1 x2 x3 x4} : (s.wrSh x1 x2 x3 x4).recov = s.recov := rfl
@[simp] theorem State.wrSh_sb {s : State} {x1 x2 x3 x4} : (s.wrSh x1 x2 x3 x4).sb = s.sb := rfl
@[simp] theorem State.wrSh_tb {s : State} {x1 x2 x3 x4} : (s.wrSh x1 x2 x3 x4).tb = s.tb := rfl
@[simp] theorem State.wrSh_trust {s : State} {x1 x2 x3 x4} : (s.wrSh x1 x2 x3 x4).trust = s.trust := rfl
@[simp] theorem State.wrSh_pwr {s : State} {x1 x2 x3 x4} : (s.wrSh x1 x2 x3 x4).pwr = s.pwr := rfl
@[simp] theorem State.wrSh_hd {s : State} {x1 x2 x3 x4} : (s.wrSh x1 x2 x3 x4).hd = s.hd := rfl
@[simp] theorem State.wrSh_plan {s : State} {x1 x2 x3 x4} : (s.wrSh x1 x2 x3 x4).plan = s.plan := rfl
@[simp] theorem State.wrSh_trace {s : State} {x1 x2 x3 x4} : (s.wrSh x1 x2 x3 x4).trace = s.trace := rfl
@[simp] theorem State.wrSh_traceFull {s : State} {x1 x2 x3 x4} : (s.wrSh x1 x2 x3 x4).traceFull = s.traceFull := rfl
@[simp] theorem State.wrSh_out {s : State} {x1 x2 x3 x4} : (s.wrSh x1 x2 x3 x4).out = s.out := rfl
@[simp] theorem State.wrSh_fresh {s : State} {x1 x2 x3 x4} : (s.wrSh x1 x2 x3 x4).fresh = s.fresh := rfl

/-- A field read after it was written: cut to its width. -/
theorem State.rd_wr {s : State} {f : Fld} {v n i : Nat} (h : f.valid n i = true) :
    (s.wr f v n i).rd f n i = v % 2 ^ f.len := by
  unfold State.rd State.wr
  rw [if_pos h]
  exact Table.getD_put_same _ _ _ _

/-- Every other field is as it was. -/
theorem State.rd_wr_ne {s : State} {f g : Fld} {v n i m j : Nat} (h : g.key m j ≠ f.key n i) :
    (s.wr f v n i).rd g m j = s.rd g m j := by
  unfold State.rd State.wr
  dsimp only
  split
  · exact Table.getD_put_ne h
  · rfl

@[simp] theorem State.rdSh_wrSh {s : State} {f : Fld} {v n i : Nat} : (s.wrSh f v n i).rdSh f n i = v % 2 ^ f.len :=
  Table.getD_put_same _ _ _ _

/-- A write of the shadow leaves the live value. -/
@[simp] theorem State.rd_wrSh {s : State} {f g : Fld} {v n i m j : Nat} : (s.wrSh f v n i).rd g m j = s.rd g m j := rfl

@[simp] theorem State.hdr_setHdr {s : State} {k n h} : (s.setHdr k n h).hdr k n = h := Table.getD_put_same _ _ _ _

@[simp] theorem State.kite_setKite {s : State} {k x} : (s.setKite k x).kite k = x := Table.getD_put_same _ _ _ _

theorem State.kite_setKite_ne {s : State} {k j x} (h : j ≠ k) : (s.setKite k x).kite j = s.kite j := Table.getD_put_ne h

@[simp] theorem State.burnerOf_setBurner {s : State} {k x} : (s.setBurner k x).burnerOf k = x := Table.getD_put_same _ _ _ _

theorem State.burnerOf_setBurner_ne {s : State} {k j x} (h : j ≠ k) : (s.setBurner k x).burnerOf j = s.burnerOf j := Table.getD_put_ne h

@[simp] theorem State.line_setLine {s : State} {k x} : (s.setLine k x).line k = x := Table.getD_put_same _ _ _ _

theorem State.line_setLine_ne {s : State} {k j x} (h : j ≠ k) : (s.setLine k x).line j = s.line j := Table.getD_put_ne h

@[simp] theorem State.stream_setStream {s : State} {k x} : (s.setStream k x).stream k = x := Table.getD_put_same _ _ _ _

theorem State.stream_setStream_ne {s : State} {k j x} (h : j ≠ k) : (s.setStream k x).stream j = s.stream j := Table.getD_put_ne h

@[simp] theorem State.stack_setStack {s : State} {k x} : (s.setStack k x).stack k = x := Table.getD_put_same _ _ _ _

theorem State.stack_setStack_ne {s : State} {k j x} (h : j ≠ k) : (s.setStack k x).stack j = s.stack j := Table.getD_put_ne h

@[simp] theorem State.winchOf_setWinch {s : State} {k x} : (s.setWinch k x).winchOf k = x := Table.getD_put_same _ _ _ _

theorem State.winchOf_setWinch_ne {s : State} {k j x} (h : j ≠ k) : (s.setWinch k x).winchOf j = s.winchOf j := Table.getD_put_ne h

@[simp] theorem State.rd_setKite {s : State} {k x} {f n i} : (s.setKite k x).rd f n i = s.rd f n i := rfl

@[simp] theorem State.rd_setBurner {s : State} {k x} {f n i} : (s.setBurner k x).rd f n i = s.rd f n i := rfl

@[simp] theorem State.rd_setLine {s : State} {k x} {f n i} : (s.setLine k x).rd f n i = s.rd f n i := rfl

@[simp] theorem State.rd_setStack {s : State} {k x} {f n i} : (s.setStack k x).rd f n i = s.rd f n i := rfl

@[simp] theorem State.rd_setWinch {s : State} {k x} {f n i} : (s.setWinch k x).rd f n i = s.rd f n i := rfl

@[simp] theorem State.rd_setHdr {s : State} {k n x} {f m i} : (s.setHdr k n x).rd f m i = s.rd f m i := rfl

@[simp] theorem State.rd_setGov {s : State} {x} {f n i} : (s.setGov x).rd f n i = s.rd f n i := rfl

@[simp] theorem State.rd_setSeq {s : State} {k n x} {f m i} : (s.setSeq k n x).rd f m i = s.rd f m i := rfl

end Sys2Proof.Machine
end

