-- ==== Sys2Proof/Laws/Events.lean ====
section
/-! SUPPORT. An event raised stays pending in its page's header, whatever raising other events brings; a write leaves
every other field as it reads. -/

namespace Sys2Proof.Machine

/-- A write of a field leaves the reads of a field that shares no bits with it. -/
theorem State.rd_wr_apart {s : State} {f g : Fld} {v n i m j : Nat} (ha : g.apart f = true)
    (hg : g.valid m j = true) : (s.wr f v n i).rd g m j = s.rd g m j := by
  by_cases hf : f.valid n i = true
  · exact State.rd_wr_ne (Fld.key_ne ha hg hf)
  · unfold State.rd State.wr
    simp [hf]

theorem State.rd_bump_apart {s : State} {f g : Fld} {n i m j k : Nat} (ha : g.apart f = true)
    (hg : g.valid m j = true) : (s.bump f n i k).rd g m j = s.rd g m j := State.rd_wr_apart ha hg

/-- A read depends on the registers alone. -/
theorem State.rd_congr {s t : State} (h : t.regs = s.regs) (f : Fld) (n i : Nat) : t.rd f n i = s.rd f n i := by
  unfold State.rd
  rw [h]

@[simp] theorem State.rd_emit (s : State) (o : Out) (f : Fld) (n i : Nat) : (s.emit o).rd f n i = s.rd f n i := rfl

/-- What a counted field reads after it rises: it holds at all ones (R14). -/
theorem State.rd_bump {s : State} {f : Fld} {n i k : Nat} (hv : f.valid n i = true) :
    (s.bump f n i k).rd f n i = satAdd f.len (s.rd f n i) k := by
  unfold State.bump
  rw [State.rd_wr hv, Nat.mod_eq_of_lt]
  exact Nat.lt_of_le_of_lt (Nat.min_le_left _ _) (Nat.sub_lt (Nat.two_pow_pos _) (by decide))

/-- No event pending in `s` is lost in `t`. -/
def PendsKept (s t : State) : Prop := ∀ k n b, (s.hdr k n).pend.getLsbD b = true → (t.hdr k n).pend.getLsbD b = true

theorem PendsKept.refl (s : State) : PendsKept s s := fun _ _ _ h => h

theorem PendsKept.trans {s t u : State} (h : PendsKept s t) (h' : PendsKept t u) : PendsKept s u :=
  fun k n b x => h' k n b (h k n b x)

theorem PendsKept.of_hdrs {s t : State} (h : t.hdrs = s.hdrs) : PendsKept s t := by
  intro k n b x
  unfold State.hdr at *
  rw [h]
  exact x

/-- A frame that leaves the headers alone loses no event. -/
theorem PendsKept.of_frame {m : Nat} {s t : State} (h : Frame m s t) (hm : m.testBit 7 = false) : PendsKept s t :=
  .of_hdrs (h.same .hdrs (by decide) hm)

theorem State.hdr_setHdr_at (s : State) (k k' : PageKind) (n n' : Nat) (h : Hdr) :
    (s.setHdr k n h).hdr k' n' = if pageBase k' n' = pageBase k n then h else s.hdr k' n' := by
  unfold State.hdr State.setHdr
  split
  · rename_i e
    rw [e]
    exact Table.getD_put_same _ _ _ _
  · rename_i e
    exact Table.getD_put_ne e

theorem hdrRaise_kept (s : State) (e : Evt) (n : Nat) : PendsKept s (hdrRaise s e n) := by
  intro k m b x
  simp only [hdrRaise, State.hdr_setHdr_at]
  split
  · rename_i he
    unfold State.hdr at x
    rw [he] at x
    simp only [BitVec.getLsbD_or, Bool.or_eq_true]
    exact .inl x
  · exact x

theorem hdrRaise_pends (s : State) (e : Evt) (n : Nat) (h : e.bit < 32) :
    ((hdrRaise s e n).hdr e.page n).pend.getLsbD e.bit = true := by
  simp only [hdrRaise, State.hdr_setHdr_at, if_true, BitVec.getLsbD_or, BitVec.getLsbD_ofNat, Nat.testBit_two_pow_self, Bool.and_true, decide_eq_true h,
    Bool.or_true]

theorem pendSource_kept (fuel : Nat) : ∀ (s : State) (n : Nat) (sw : Bool), PendsKept s (pendSource fuel s n sw) := by
  induction fuel with
  | zero => exact fun s _ _ => .refl s
  | succ fuel ih =>
    intro s n sw
    unfold pendSource
    have h2 : ∀ s1 : State, s1.hdrs = s.hdrs → PendsKept s
        (if s.rd Reg.HD_TRIP_EVT_EN = 1 ∧ s.rd Reg.HD_TRIP_EVT_SRC = n then
          haulTrigger s1 1 n (s.rd Reg.HD_TRIP_FABRIC == 1) false else s1) := by
      intro s1 h1
      have h1 := PendsKept.of_hdrs h1
      split
      · exact h1.trans (.of_frame (haulTrigger_frame (Frame.refl _ s1) (sub_refl _)) (by decide +kernel))
      · exact h1
    have key : ∀ s2 : State, PendsKept s s2 → PendsKept s
        (if (s.srcCfg n).fwd then
          if s2.host.events.length < 1024 then
            { s2 with host := { s2.host with events := s2.host.events ++ [eventRec s n sw] } }
          else
            let s3 := hdrRaise (s2.bump Reg.EVT_FWD_LOST_COUNT) Ev.cmdEngine_EVT_LOST 0
            if asserted s3 723 && !bit1024 s3.ec.active 723 then pendSource fuel s3 723 false else s3
        else s2) := by
      intro s2 h
      split
      · split
        · exact h.trans (.of_hdrs rfl)
        · have h3 := h.trans ((PendsKept.of_hdrs (t := s2.bump Reg.EVT_FWD_LOST_COUNT) rfl).trans
            (hdrRaise_kept _ Ev.cmdEngine_EVT_LOST 0))
          simp only
          split
          · exact h3.trans (ih _ _ _)
          · exact h3
      · exact h
    split
    · exact .refl s
    · exact key _ (h2 { s with ec := { s.ec with pend := s.ec.pend ||| oneHot n } } rfl)

theorem samplePage_kept (s : State) (k : PageKind) (n : Nat) : PendsKept s (samplePage s k n) := by
  unfold samplePage sampleSource
  split
  · split
    · exact pendSource_kept _ _ _ _
    · exact .refl s
  · exact .refl s

theorem raiseQuiet_kept (s : State) (e : Evt) (n : Nat) : PendsKept s (raiseQuiet s e n) :=
  (hdrRaise_kept s e n).trans (samplePage_kept _ _ _)

theorem traceAdd_kept (s : State) (t cls kind unit a b c : Nat) : PendsKept s (traceAdd s t cls kind unit a b c) := by
  unfold traceAdd
  split
  · simp only
    split
    · exact .of_hdrs rfl
    · exact (PendsKept.of_hdrs (t := State.bump _ Reg.TR_DROPS_DROPS 0 t) rfl).trans (raiseQuiet_kept _ _ _)
  · exact .refl s

theorem traceAll_kept (s : State) (cls kind a b c : Nat) : PendsKept s (traceAll s cls kind a b c) := by
  unfold traceAll
  generalize List.range 8 = l
  induction l generalizing s with
  | nil => exact .refl s
  | cons t l ih => exact (traceAdd_kept s _ _ _ _ _ _ _).trans (ih _)

theorem raise_kept (s : State) (e : Evt) (n : Nat) : PendsKept s (raise s e n) := by
  unfold raise
  simp only
  split
  · exact (raiseQuiet_kept s e n).trans (traceAdd_kept _ _ _ _ _ _ _ _)
  · exact raiseQuiet_kept s e n

/-- R384: a raised event is pending. -/
theorem raiseQuiet_pends (s : State) (e : Evt) (n : Nat) (h : e.bit < 32) : Pends (raiseQuiet s e n) e n :=
  samplePage_kept _ _ _ _ _ _ (hdrRaise_pends s e n h)

theorem raise_pends (s : State) (e : Evt) (n : Nat) (h : e.bit < 32) : Pends (raise s e n) e n := by
  have hq := raiseQuiet_pends s e n h
  unfold raise
  simp only
  split
  · exact traceAdd_kept _ _ _ _ _ _ _ _ _ _ _ hq
  · exact hq

theorem PendsKept.pends {s t : State} {e : Evt} {n : Nat} (h : PendsKept s t) (p : Pends s e n) : Pends t e n :=
  h _ _ _ p

end Sys2Proof.Machine
end

