-- ==== Sys2Proof/Laws/Commands.lean ====
section
/-! SUPPORT. What a command frame does: an admitted command whose turn it is executes and is answered. -/

namespace Sys2Proof.Machine

theorem whenOk_pos {b : Bool} {s t : State} (h : b = true) : whenOk b s t = .next t := by simp [whenOk, h]

theorem CE_EXP_X_valid (i : Fin 4) : Reg.CE_EXP_X.valid 0 i = true := by
  revert i
  decide

@[simp] theorem heard_expected (s : State) (h : CmdHdr) : (heard s h).expected h.stream = s.expected h.stream :=
  (State.rd_congr (s := s.bump Reg.RX_FRAMES_COUNT) rfl Reg.CE_EXP_X 0 h.stream).trans
    (State.rd_bump_apart (by decide) (CE_EXP_X_valid _))

/-- What the operation of an admitted command reads is what it would read before its frame came. -/
theorem heard_rd {s : State} {h : CmdHdr} {f : Fld} {n i : Nat} (ha : f.apart Reg.RX_FRAMES_COUNT = true)
    (hv : f.valid n i = true) : (heard s h).rd f n i = s.rd f n i :=
  (State.rd_congr (s := s.bump Reg.RX_FRAMES_COUNT) rfl f n i).trans (State.rd_bump_apart ha hv)

/-- What a frame that leaves, or waits for the verdicts that are due, leaves as it was. -/
structure FrameSent (s t : State) : Prop where
  due : verdictDue t = verdictDue s
  streams : t.host.streams = s.host.streams
  rd : ∀ {f : Fld} {n i : Nat}, f.apart Reg.TX_FRAMES_COUNT = true → f.valid n i = true → t.rd f n i = s.rd f n i

theorem sendFrame_sent (s : State) (cls : Nat) (d : HostAddr) (b : Bytes) : FrameSent s (sendFrame s cls d b) := by
  unfold sendFrame
  split
  · exact ⟨rfl, rfl, fun _ _ => rfl⟩
  · exact ⟨rfl, rfl, fun ha hv => (State.rd_congr (s := s.bump Reg.TX_FRAMES_COUNT) rfl _ _ _).trans (State.rd_bump_apart ha hv)⟩

/-- With no verdict due, a frame leaves at once. -/
theorem sendFrame_out {s : State} (h : verdictDue s = false) (cls : Nat) (d : HostAddr) (b : Bytes) :
    (sendFrame s cls d b).out = s.out ++ [.frame cls (frameTo cls d b)] := by
  unfold sendFrame
  rw [if_neg fun c => by simp [h] at c]
  rfl

theorem respond_due (s : State) (src : HostAddr) (c : CtrlCmd) (st : Nat) (body : Bytes) :
    verdictDue (respond s src c st body) = verdictDue s := (sendFrame_sent _ _ _ _).due

theorem respond_out (s : State) (h : CmdHdr) (opc st : Nat) (b body : Bytes)
    (he : s.expected h.stream = (h.seq.toNat + 1) % 2 ^ 32) (hv : verdictDue s = false) :
    (respond s h.src { stream := h.stream, seq := h.seq.toNat, ack := h.ack.toNat, opc := opc, body := b }
      st body).out = s.out ++ [.frame 1 (frameTo 1 h.src (responseBytes h opc st body))] := by
  unfold respond
  refine (sendFrame_out (s := keepResponse _ _ _) hv _ _ _).trans ?_
  simp [responseBytes, he, keepResponse, State.setStream]

/-- The RESPONSE is sent and kept, and nothing else of the stream changes. -/
theorem respond_answered (s : State) (h : CmdHdr) (opc st : Nat) (b body : Bytes)
    (he : s.expected h.stream = (h.seq.toNat + 1) % 2 ^ 32) :
    Answered (respond s h.src { stream := h.stream, seq := h.seq.toNat, ack := h.ack.toNat, opc := opc, body := b }
      st body) h opc st body := by
  refine ⟨fun hv => ?_, ?_, ?_⟩
  · rw [respond_out s h opc st b body he (by rwa [← respond_due s h.src _ st body]), List.getLast?_concat]
  · unfold respond State.stream
    rw [(sendFrame_sent _ _ _ _).streams]
    simp [responseBytes, he, keepResponse, State.setStream, Table.getD_put_same, Table.find_put_same]
  · rw [← he]
    exact (sendFrame_sent _ _ _ _).rd (by decide) (CE_EXP_X_valid _)

/-- The state in which the operation of a command has run and its stream has advanced. -/
def ran (s : State) (h : CmdHdr) (opc : Nat) (body : Bytes) : State :=
  advanceStream (runOperation (heard s h) opc body).s
    { stream := h.stream, seq := h.seq.toNat, ack := h.ack.toNat, opc := opc, body := body }

theorem ran_expected (s : State) (h : CmdHdr) (opc : Nat) (body : Bytes) :
    (ran s h opc body).expected h.stream = (h.seq.toNat + 1) % 2 ^ 32 := by
  refine (State.rd_wr (CE_EXP_X_valid _)).trans (Nat.mod_eq_of_lt ?_)
  exact Nat.mod_lt _ (by decide)

/-- The state in which an in-turn command has been answered. -/
def served (s : State) (h : CmdHdr) (opc : Nat) (body : Bytes) : State :=
  respond (ran s h opc body) h.src
    { stream := h.stream, seq := h.seq.toNat, ack := h.ack.toNat, opc := opc, body := body }
    (runOperation (heard s h) opc body).status (runOperation (heard s h) opc body).body

/-- Only the operations on HBM can have to wait (R213, R225). -/
theorem hostWaits_other {s : State} {opc : Nat} {b : Bytes} (h : opc ≠ 0x10) (h' : opc ≠ 0x11) (k : opc ≠ 0x20) :
    hostWaits s opc b = false := by
  unfold hostWaits
  dsimp only
  split <;> simp_all

/-- R370: an in-turn command that need not wait executes. -/
theorem commandFrame_inTurn {s : State} {h : CmdHdr} {opc : Nat} {body : Bytes} (ht : inTurn s h = true)
    (hne : opc ≠ 1) (hw : hostWaits (heard s h) opc body = false) :
    commandFrame h opc body s = .next (served s h opc body) := by
  simp only [inTurn, admitsCmd, Bool.and_eq_true, beq_iff_eq, Option.isNone_iff_eq_none] at ht
  obtain ⟨⟨⟨h1, h2⟩, h4⟩, h5⟩ := ht
  unfold commandFrame
  rw [whenOk_pos h1, acceptFrame, if_pos h2]
  simp only [takeCommand]
  rw [if_neg (fun e => hne e.1), if_pos, if_neg]
  · rfl
  · have hx : Table.find h.seq.toNat ((heard s h).stream h.stream).waiting = none := h5
    show ¬ holdsTurn (heard s h) _ = true
    simp [holdsTurn, hx, hw]
  · have hx : (heard s h).ahead { stream := h.stream, seq := h.seq.toNat, ack := h.ack.toNat, opc := opc, body := body }
        = 0 := by
      unfold State.ahead
      rw [heard_expected, ← h4]
      exact (congrArg (· % 2 ^ 32) (Nat.add_sub_cancel_left _ _)).trans (Nat.mod_self _)
    exact hx

theorem served_answered (s : State) (h : CmdHdr) (opc : Nat) (body : Bytes) :
    Answered (served s h opc body) h opc (runOperation (heard s h) opc body).status
      (runOperation (heard s h) opc body).body := respond_answered _ _ _ _ _ _ (ran_expected _ _ _ _)

theorem served_out (s : State) (h : CmdHdr) (opc : Nat) (body : Bytes)
    (hv : verdictDue (runOperation (heard s h) opc body).s = false) :
    (served s h opc body).out = (runOperation (heard s h) opc body).s.out ++
      [.frame 1 (frameTo 1 h.src (responseBytes h opc (runOperation (heard s h) opc body).status
        (runOperation (heard s h) opc body).body))] := respond_out _ _ _ _ _ _ (ran_expected _ _ _ _) hv

/-- What a field reads after a command is what its operation left. -/
theorem served_rd {s : State} {h : CmdHdr} {opc : Nat} {body : Bytes} {f : Fld} {n i : Nat}
    (ha : f.apart Reg.CE_EXP_X = true) (hb : f.apart Reg.TX_FRAMES_COUNT = true) (hv : f.valid n i = true) :
    (served s h opc body).rd f n i = (runOperation (heard s h) opc body).s.rd f n i :=
  ((sendFrame_sent _ _ _ _).rd hb hv).trans (State.rd_wr_apart ha hv)

end Sys2Proof.Machine
end

