-- ==== Sys2Proof/Laws/SpoolBytes.lean ====
section
/-! SUPPORT. What a read of memory through the spool returns, before and after accesses (06 R206, R207): bringing sectors
in and writing lines back changes no byte, and a write changes the bytes it writes alone. -/

namespace Sys2Proof.Machine

/-! ### Lines found -/

theorem findLine_cons (x : SpoolLine) (ls : List SpoolLine) (t : Nat) :
    findLine (x :: ls) t = if x.tag = t then some x else findLine ls t := by
  unfold findLine
  rw [List.find?_cons]
  by_cases h : x.tag = t
  · rw [if_pos h, beq_iff_eq.2 h]
  · rw [if_neg h, beq_eq_false_iff_ne.2 h]

theorem findLine_snoc (x : SpoolLine) (ls : List SpoolLine) (t : Nat) (hn : x.tag ∉ ls.map SpoolLine.tag) :
    findLine (ls ++ [x]) t = if x.tag = t then some x else findLine ls t := by
  induction ls with
  | nil => exact findLine_cons x [] t
  | cons y ls ih =>
    rw [List.map_cons, List.mem_cons, not_or] at hn
    rw [List.cons_append, findLine_cons, findLine_cons, ih hn.2]
    by_cases h : y.tag = t
    · rw [if_pos h, if_pos h, if_neg (fun e => hn.1 (e.trans h.symm))]
    · rw [if_neg h, if_neg h]

theorem findLine_drop (ls : List SpoolLine) (tag t : Nat) :
    findLine (dropLine ls tag) t = if t = tag then none else findLine ls t := by
  induction ls with
  | nil => simp [dropLine, findLine]
  | cons y ls ih =>
    unfold dropLine at *
    rw [List.filter_cons]
    by_cases hy : y.tag = tag
    · rw [if_neg (by simp [hy]), ih, findLine_cons]
      by_cases h : t = tag
      · rw [if_pos h, if_pos h]
      · rw [if_neg h, if_neg h, if_neg (fun e => h (e.symm.trans hy))]
    · rw [if_pos (by simp [hy]), findLine_cons, ih, findLine_cons]
      by_cases h : y.tag = t
      · rw [if_pos h, if_pos h, if_neg (fun e => hy (h.trans e))]
      · rw [if_neg h, if_neg h]

theorem findLine_replace (ls : List SpoolLine) (x : SpoolLine) (t : Nat) :
    findLine (replaceLine ls x) t = (findLine ls t).map (fun y => if t = x.tag then x else y) := by
  induction ls with
  | nil => rfl
  | cons y ls ih =>
    unfold replaceLine at *
    rw [List.map_cons, findLine_cons, findLine_cons, ih]
    by_cases hy : y.tag = x.tag
    · rw [if_pos hy]
      by_cases h : x.tag = t
      · rw [if_pos h, if_pos (hy.trans h), Option.map_some, if_pos h.symm]
      · rw [if_neg h, if_neg (fun e => h (hy.symm.trans e))]
    · rw [if_neg hy]
      by_cases h : y.tag = t
      · rw [if_pos h, if_pos h, Option.map_some, if_neg (fun e => hy (h.trans e))]
      · rw [if_neg h, if_neg h]

theorem LinesOk.found {set : Nat} {ls : List SpoolLine} (h : LinesOk set ls) {x : SpoolLine} (hx : x ∈ ls) :
    findLine ls x.tag = some x := by
  have ht := h.tags
  clear h
  induction ls with
  | nil => cases hx
  | cons y ls ih =>
    rw [findLine_cons]
    rw [List.map_cons, List.nodup_cons] at ht
    rcases List.mem_cons.1 hx with rfl | hx
    · rw [if_pos rfl]
    · rw [if_neg (fun e => ht.1 (by rw [e]; exact List.mem_map_of_mem hx)), ih hx ht.2]

/-! ### Bytes -/

/-- The byte a line gives at `a`, the HBM byte being `b`. -/
def lineByte (o : Option SpoolLine) (a : Nat) (b : Byte) : Byte :=
  match o with
  | some x =>
    match x.data (a / 64 % 2) with
    | some d => d.getD (a % 64) 0
    | none => b
  | none => b

theorem memByte_eq (s : State) (a : Nat) :
    memByte s a = lineByte (findLine (s.lines (spoolSet a)) (a / 128)) a (hbmByte s a) := rfl

theorem memByte_congr {s t : State} (h : t.mem.spool = s.mem.spool) (k : t.hbm = s.hbm) (a : Nat) :
    memByte t a = memByte s a := by
  rw [memByte_eq, memByte_eq, State.lines_congr h]
  unfold hbmByte
  rw [k]

theorem hbmWrite_hbm (s : State) (a : Nat) (bs : Bytes) : (hbmWrite s a bs).hbm = Table.storeN hbmBlank s.hbm a bs := by
  unfold hbmWrite
  dsimp only
  split <;> rfl

/-- What HBM holds after a write. -/
theorem hbmByte_hbmWrite (s : State) (a : Nat) (bs : Bytes) (b : Nat) :
    hbmByte (hbmWrite s a bs) b = if a ≤ b ∧ b < a + bs.length then bs.getD (b - a) 0 else hbmByte s b := by
  unfold hbmByte
  rw [hbmWrite_hbm]
  split
  · rename_i h
    have := Table.getD_storeN_in hbmBlank s.hbm a (b - a) bs (by omega)
    rw [show a + (b - a) = b by omega] at this
    rw [this, List.getD_eq_getElem?_getD, List.getElem?_eq_getElem (by omega), Option.getD_some]
  · exact Table.getD_storeN_out _ _ _ _ _ (by omega)

theorem hbmByte_congr {s t : State} (k : t.hbm = s.hbm) (a : Nat) : hbmByte t a = hbmByte s a := by
  unfold hbmByte
  rw [k]

/-! ### Lines that keep nothing HBM has lost -/

/-- No line of a set keeps bytes that HBM has lost. -/
def Unkept (ls : List SpoolLine) : Prop := ∀ x ∈ ls, x.k0 = none ∧ x.k1 = none

theorem nothingKept_iff {s : State} : nothingKept s = true ↔ ∀ e ∈ s.mem.spool, Unkept e.2 := by
  simp only [nothingKept, List.all_eq_true, Bool.and_eq_true, Option.isNone_iff_eq_none, Unkept]

theorem Unkept.of_state {s : State} (h : nothingKept s = true) (set : Nat) : Unkept (s.lines set) := by
  unfold State.lines Table.getD
  cases e : Table.find set s.mem.spool with
  | none => exact fun _ h => (nomatch h)
  | some ls => exact nothingKept_iff.1 h _ (Table.mem_of_find e)

theorem nothingKept_congr {s t : State} (h : nothingKept s = true) (e : t.mem.spool = s.mem.spool) : nothingKept t = true := by
  unfold nothingKept
  rw [e]
  exact h

theorem nothingKept_setLines {s : State} {set : Nat} {ls : List SpoolLine} (h : nothingKept s = true) (hl : Unkept ls) :
    nothingKept (s.setLines set ls) = true := by
  refine nothingKept_iff.2 fun e he => ?_
  rcases Table.mem_put he with rfl | he
  · exact hl
  · exact nothingKept_iff.1 h e he

theorem Unkept.drop {ls : List SpoolLine} (h : Unkept ls) (tag : Nat) : Unkept (dropLine ls tag) :=
  fun x hx => h x (List.mem_filter.1 hx).1

theorem Unkept.replace {ls : List SpoolLine} {x : SpoolLine} (h : Unkept ls) (hx : x.k0 = none ∧ x.k1 = none) :
    Unkept (replaceLine ls x) := by
  intro y hy
  obtain ⟨z, hz, rfl⟩ := List.mem_map.1 hy
  split
  · exact hx
  · exact h z hz

theorem Unkept.touch {ls : List SpoolLine} {x : SpoolLine} (h : Unkept ls) (hx : x.k0 = none ∧ x.k1 = none) (hint : Nat) :
    Unkept (touchLine ls x hint) := by
  unfold touchLine
  split
  · exact h.replace hx
  · exact List.forall_mem_cons.2 ⟨hx, h.drop _⟩

theorem Unkept.alloc {ls : List SpoolLine} {x : SpoolLine} (h : Unkept ls) (hx : x.k0 = none ∧ x.k1 = none)
    (off : Option Nat) (hint : Nat) : Unkept (allocLine off ls x hint) := by
  unfold allocLine
  dsimp only
  split
  · exact List.forall_mem_append.2 ⟨h, List.forall_mem_singleton.2 hx⟩
  · exact List.forall_mem_cons.2 ⟨hx, h⟩

theorem SpoolLine.setValid_unkept {x : SpoolLine} (h : x.k0 = none ∧ x.k1 = none) (k : Nat) :
    (x.setValid k).k0 = none ∧ (x.setValid k).k1 = none := by
  unfold SpoolLine.setValid
  split <;> exact h

theorem SpoolLine.setDirty_unkept {x : SpoolLine} (h : x.k0 = none ∧ x.k1 = none) (k : Nat) (d : Bytes) :
    (x.setDirty k d).k0 = none ∧ (x.setDirty k d).k1 = none := by
  unfold SpoolLine.setDirty
  split
  · exact ⟨rfl, h.2⟩
  · exact ⟨h.1, rfl⟩

theorem nothingKept_makeRoom {s : State} (h : nothingKept s = true) (set : Nat) : nothingKept (makeRoom s set) = true := by
  unfold makeRoom
  dsimp only
  split
  · exact h
  · split
    · exact nothingKept_setLines (nothingKept_congr h (writebackLine_spool _ _ _)) ((Unkept.of_state h set).drop _)
    · exact h

theorem nothingKept_bring {s : State} (h : nothingKept s = true) (a hint : Nat) :
    nothingKept (bringSector s a hint) = true := by
  unfold bringSector
  dsimp only
  split
  · rename_i x hx
    have key : ∀ u : State, u.mem = s.mem →
        nothingKept (u.setLines (spoolSet a) (touchLine (u.lines (spoolSet a)) (x.setValid (a / 64 % 2)) hint)) = true := by
      intro u hu
      have hk := nothingKept_congr h (congrArg Memory.spool hu)
      exact nothingKept_setLines hk ((Unkept.of_state hk _).touch
        (SpoolLine.setValid_unkept (Unkept.of_state h _ x (findLine_mem hx).1) _) hint)
    refine key _ ?_
    split <;> rfl
  · have hk : nothingKept (makeRoom (s.bump64 Reg.SP_MISSES_LO Reg.SP_MISSES_HI (spoolSet a / 16384)) (spoolSet a)) = true :=
      nothingKept_makeRoom (s := s.bump64 Reg.SP_MISSES_LO Reg.SP_MISSES_HI (spoolSet a / 16384)) (nothingKept_congr h rfl) _
    exact nothingKept_setLines hk ((Unkept.of_state hk _).alloc (SpoolLine.setValid_unkept ⟨rfl, rfl⟩ _) _ hint)

theorem nothingKept_readSector {s : State} (h : nothingKept s = true) (a hint : Nat) :
    nothingKept (readSector s a hint).2 = true := by
  unfold readSector
  dsimp only
  split
  · exact nothingKept_congr h rfl
  · exact nothingKept_bring (nothingKept_congr h (congrArg Memory.spool (effectiveHint_spool s _ _ _))) _ _

theorem nothingKept_writeSector {s : State} (h : nothingKept s = true) (a : Nat) (bs : Bytes) (hint : Nat) :
    nothingKept (writeSector s a bs hint).2 = true := by
  unfold writeSector
  dsimp only
  generalize (if hint = 3 then 0 else hint) = h0
  have h1 : nothingKept (effectiveHint s (spoolSet (a / 64 * 64)) (a / 64 * 64 / 128) h0).2 = true :=
    nothingKept_congr h (congrArg Memory.spool (effectiveHint_spool s _ _ _))
  split
  · exact h
  · split
    · exact nothingKept_congr h1 (hbmWrite_spool _ _ _)
    · have h2 := nothingKept_bring h1 (a / 64 * 64)
        (effectiveHint s (spoolSet (a / 64 * 64)) (a / 64 * 64 / 128) h0).1
      split
      · rename_i x hx
        exact nothingKept_setLines h2 ((Unkept.of_state h2 _).replace
          (SpoolLine.setDirty_unkept (Unkept.of_state h2 _ x (findLine_mem hx).1) _ _))
      · exact h2

theorem lineByte_unkept {x : SpoolLine} (h : x.k0 = none ∧ x.k1 = none) (a : Nat) (b : Byte) :
    lineByte (some x) a b = match x.dirty (a / 64 % 2) with | some d => d.getD (a % 64) 0 | none => b := by
  simp [lineByte, SpoolLine.data, SpoolLine.kept, h]

/-! ### Evictions, hits and allocations -/

/-- What HBM holds once a line's dirty sectors are written back. -/
theorem hbmByte_writeback {s : State} {t : Nat} {x : SpoolLine} {set : Nat} (hx : LineOk set x)
    (hn : x.k0 = none ∧ x.k1 = none) (a : Nat) :
    hbmByte (writebackLine s t x) a = if a / 128 = x.tag then lineByte (some x) a (hbmByte s a) else hbmByte s a := by
  have h0 : ∀ d, x.d0 = some d → d.length = 64 := fun d h => hx.whole 0 d (by simp [SpoolLine.dirty, h])
  have h1 : ∀ d, x.d1 = some d → d.length = 64 := fun d h => hx.whole 1 d (by simp [SpoolLine.dirty, h])
  have hb : ∀ (u : State) (f : Fld) (i : Nat) (a : Nat), hbmByte (u.bump f i) a = hbmByte u a := fun _ _ _ _ => rfl
  have hd : lineByte (some x) a (hbmByte s a) = match (if a / 64 % 2 = 0 then x.d0 else x.d1) with
      | some d => d.getD (a % 64) 0 | none => hbmByte s a := lineByte_unkept hn _ _
  rw [hd]
  unfold writebackLine
  cases e0 : x.d0 with
  | none =>
    cases e1 : x.d1 with
    | none => simp
    | some d1 =>
      have l1 := h1 d1 e1
      dsimp only
      rw [hb, hbmByte_hbmWrite, l1]
      by_cases hz : a / 64 % 2 = 0
      · rw [if_pos hz]
        dsimp only
        rw [if_neg (by omega)]
        simp
      · rw [if_neg hz]
        dsimp only
        by_cases ht : a / 128 = x.tag
        · rw [if_pos (by omega), if_pos ht, show a - (x.tag * 128 + 64) = a % 64 by omega]
        · rw [if_neg (by omega), if_neg ht]
  | some d0 =>
    have l0 := h0 d0 e0
    cases e1 : x.d1 with
    | none =>
      dsimp only
      rw [hb, hbmByte_hbmWrite, l0]
      by_cases hz : a / 64 % 2 = 0
      · rw [if_pos hz]
        dsimp only
        by_cases ht : a / 128 = x.tag
        · rw [if_pos (by omega), if_pos ht, show a - x.tag * 128 = a % 64 by omega]
        · rw [if_neg (by omega), if_neg ht]
      · rw [if_neg hz]
        dsimp only
        rw [if_neg (by omega)]
        simp
    | some d1 =>
      have l1 := h1 d1 e1
      dsimp only
      rw [hb, hbmByte_hbmWrite, l1, hb, hbmByte_hbmWrite, l0]
      by_cases hz : a / 64 % 2 = 0
      · rw [if_pos hz, if_neg (by omega)]
        dsimp only
        by_cases ht : a / 128 = x.tag
        · rw [if_pos (by omega), if_pos ht, show a - x.tag * 128 = a % 64 by omega]
        · rw [if_neg (by omega), if_neg ht]
      · rw [if_neg hz]
        dsimp only
        by_cases ht : a / 128 = x.tag
        · rw [if_pos (by omega), if_pos ht, show a - (x.tag * 128 + 64) = a % 64 by omega]
        · rw [if_neg (by omega), if_neg ht, if_neg (by omega)]

/-- A read returns what it did once a line of its set leaves, written back. -/
theorem memByte_evict {s : State} {t : Nat} {x : SpoolLine} {set : Nat} (h : SpoolOk s.mem.spool)
    (hn : nothingKept s = true) (hx : x ∈ s.lines set) (a : Nat) :
    memByte ((writebackLine s t x).setLines set (dropLine (s.lines set) x.tag)) a = memByte s a := by
  have hl : LinesOk set (s.lines set) := h.set set
  have hk := hl.line hx
  rw [memByte_eq, memByte_eq, State.lines_setLines, State.lines_congr (writebackLine_spool s t x)]
  rw [show hbmByte ((writebackLine s t x).setLines set (dropLine (s.lines set) x.tag)) a
    = hbmByte (writebackLine s t x) a from rfl, hbmByte_writeback hk (Unkept.of_state hn set x hx)]
  by_cases ht : a / 128 = x.tag
  · have hs : spoolSet a = set := by rw [← spoolSet_line, ht, hk.home]
    rw [if_pos hs, if_pos ht, findLine_drop, if_pos ht, hs, ht, hl.found hx]
    rfl
  · rw [if_neg ht]
    split
    · rename_i hs
      rw [findLine_drop, if_neg ht, hs]
    · rfl

theorem memByte_makeRoom {s : State} (h : SpoolOk s.mem.spool) (hn : nothingKept s = true) (set a : Nat) :
    memByte (makeRoom s set) a = memByte s a := by
  unfold makeRoom
  dsimp only
  split
  · rfl
  · split
    · rename_i v hv
      exact memByte_evict h hn (List.mem_reverse.1 (List.mem_of_find?_eq_some hv)) a
    · rfl

theorem lineByte_data {x y : SpoolLine} (h : ∀ k, y.data k = x.data k) (a : Nat) (b : Byte) :
    lineByte (some y) a b = lineByte (some x) a b := by
  simp only [lineByte, h]

/-- A line placed in its set with the data that it has there changes no read. -/
theorem memByte_touch {s : State} {set : Nat} {x y : SpoolLine} (hint : Nat) (hf : findLine (s.lines set) x.tag = some x)
    (ht : y.tag = x.tag) (hd : ∀ k, y.data k = x.data k) (a : Nat) :
    memByte (s.setLines set (touchLine (s.lines set) y hint)) a = memByte s a := by
  rw [memByte_eq, memByte_eq, State.lines_setLines,
    show hbmByte (s.setLines set (touchLine (s.lines set) y hint)) a = hbmByte s a from rfl]
  split
  · rename_i hs
    unfold touchLine
    split
    · rw [findLine_replace, hs]
      by_cases e : a / 128 = y.tag
      · rw [e, ht, hf, Option.map_some, if_pos rfl]
        exact lineByte_data hd _ _
      · cases hh : findLine (s.lines set) (a / 128) with
        | none => rfl
        | some z => rw [Option.map_some, if_neg e]
    · rw [findLine_cons, findLine_drop, hs]
      by_cases e : y.tag = a / 128
      · rw [if_pos (by exact e), ← e, ht, hf]
        exact lineByte_data hd _ _
      · rw [if_neg (by exact e), if_neg (fun h => e h.symm)]
  · rfl

/-- A clean line that enters a set that has none of its tag changes no read. -/
theorem memByte_alloc {s : State} {set : Nat} {x : SpoolLine} (hint : Nat) (hn : x.tag ∉ (s.lines set).map SpoolLine.tag)
    (hd : ∀ k, x.data k = none) (off : Option Nat) (a : Nat) :
    memByte (s.setLines set (allocLine off (s.lines set) x hint)) a = memByte s a := by
  have hclean : ∀ (y : SpoolLine) (b : Byte), (∀ k, y.data k = none) → lineByte (some y) a b = b := by
    intro y b h
    simp only [lineByte, h]
  rw [memByte_eq, memByte_eq, State.lines_setLines,
    show hbmByte (s.setLines set (allocLine off (s.lines set) x hint)) a = hbmByte s a from rfl]
  split
  · rename_i hs
    rw [hs]
    have hnone : x.tag = a / 128 → findLine (s.lines set) (a / 128) = none := by
      intro e
      rw [← e]
      cases h : findLine (s.lines set) x.tag with
      | none => rfl
      | some z =>
        obtain ⟨hz, ez⟩ := findLine_mem h
        exact absurd (ez ▸ List.mem_map_of_mem hz) hn
    unfold allocLine
    dsimp only
    split
    · rw [findLine_snoc _ _ _ (by exact hn)]
      by_cases e : x.tag = a / 128
      · rw [if_pos (by exact e), hnone e, hclean _ _ (by exact hd)]
        rfl
      · rw [if_neg (by exact e)]
    · rw [findLine_cons]
      by_cases e : x.tag = a / 128
      · rw [if_pos (by exact e), hnone e, hclean _ _ (by exact hd)]
        rfl
      · rw [if_neg (by exact e)]
  · rfl

/-- R208: bringing a sector in changes no byte that a read returns. -/
theorem memByte_bring {s : State} (h : SpoolOk s.mem.spool) (hk : nothingKept s = true) (b hint a : Nat) :
    memByte (bringSector s b hint) a = memByte s a := by
  unfold bringSector
  dsimp only
  split
  · rename_i x hx
    have key : ∀ u : State, u.mem = s.mem → u.hbm = s.hbm →
        memByte (u.setLines (spoolSet b) (touchLine (u.lines (spoolSet b)) (x.setValid (b / 64 % 2)) hint)) a
          = memByte s a := by
      intro u hm hb
      have hf : findLine (u.lines (spoolSet b)) x.tag = some x := by
        rw [State.lines_congr (congrArg Memory.spool hm), (findLine_mem hx).2]
        exact hx
      rw [memByte_touch hint hf (SpoolLine.setValid_tag _ _) (SpoolLine.setValid_data _ _)]
      exact memByte_congr (congrArg Memory.spool hm) hb a
    refine key _ ?_ ?_ <;> split <;> rfl
  · rename_i hx
    have h1 : SpoolOk (s.bump64 Reg.SP_MISSES_LO Reg.SP_MISSES_HI (spoolSet b / 16384)).mem.spool := h
    have hn : b / 128 ∉ ((makeRoom (s.bump64 Reg.SP_MISSES_LO Reg.SP_MISSES_HI (spoolSet b / 16384))
        (spoolSet b)).lines (spoolSet b)).map SpoolLine.tag := by
      rcases makeRoom_lines (s.bump64 Reg.SP_MISSES_LO Reg.SP_MISSES_HI (spoolSet b / 16384)) (spoolSet b) with e | ⟨t, e⟩
      · rw [e]
        exact findLine_none hx
      · rw [e]
        exact dropLine_sub (findLine_none hx)
    refine (memByte_alloc hint ?_ ?_ _ a).trans ((memByte_makeRoom h1 (nothingKept_congr hk rfl) _ a).trans ?_)
    · rw [SpoolLine.setValid_tag]
      exact hn
    · intro k
      rw [SpoolLine.setValid_data]
      simp [SpoolLine.data, SpoolLine.dirty, SpoolLine.kept]
    · exact memByte_congr rfl rfl a

/-- The line of a sector that was brought in stands in its set. -/
theorem bringSector_found (s : State) (b hint : Nat) :
    ∃ x, findLine ((bringSector s b hint).lines (spoolSet b)) (b / 128) = some x := by
  unfold bringSector
  dsimp only
  split
  · rename_i x hx
    have key : ∀ u : State, u.mem = s.mem → ∃ y, findLine ((u.setLines (spoolSet b)
        (touchLine (u.lines (spoolSet b)) (x.setValid (b / 64 % 2)) hint)).lines (spoolSet b)) (b / 128) = some y := by
      intro u hm
      have hf : findLine (u.lines (spoolSet b)) (b / 128) = some x := by
        rw [State.lines_congr (congrArg Memory.spool hm)]
        exact hx
      rw [State.lines_setLines, if_pos rfl]
      unfold touchLine
      split
      · rw [findLine_replace, hf]
        exact ⟨_, rfl⟩
      · rw [findLine_cons, if_pos (by rw [SpoolLine.setValid_tag, (findLine_mem hx).2])]
        exact ⟨_, rfl⟩
    refine key _ ?_
    split <;> rfl
  · rename_i hx
    rw [State.lines_setLines, if_pos rfl]
    unfold allocLine
    dsimp only
    split
    · rw [findLine_snoc]
      · rw [if_pos (by simp)]
        exact ⟨_, rfl⟩
      · show SpoolLine.tag (SpoolLine.setValid _ _) ∉ _
        rcases makeRoom_lines (s.bump64 Reg.SP_MISSES_LO Reg.SP_MISSES_HI (spoolSet b / 16384)) (spoolSet b) with e | ⟨t, e⟩
        · rw [e, SpoolLine.setValid_tag]
          exact findLine_none hx
        · rw [e, SpoolLine.setValid_tag]
          exact dropLine_sub (findLine_none hx)
    · rw [findLine_cons, if_pos (by simp)]
      exact ⟨_, rfl⟩

theorem bringSector_ok {s : State} (h : Canon s) (b hint : Nat) : Canon (bringSector s b hint) :=
  (bringSector_frame (Frame.refl _ s) (sub_refl _)).canon h

/-- R206: a line's sector made dirty with new data: that sector reads as the data, every other byte as before. -/
theorem memByte_dirty {s : State} {set b : Nat} {x : SpoolLine} {d : Bytes} (hs : spoolSet b = set)
    (hf : findLine (s.lines set) (b / 128) = some x) (a : Nat) :
    memByte (s.setLines set (replaceLine (s.lines set) (x.setDirty (b / 64 % 2) d))) a =
      if a / 64 = b / 64 then d.getD (a % 64) 0 else memByte s a := by
  have ht := (findLine_mem hf).2
  rw [memByte_eq, memByte_eq, State.lines_setLines,
    show hbmByte (s.setLines set (replaceLine (s.lines set) (x.setDirty (b / 64 % 2) d))) a = hbmByte s a from rfl]
  by_cases e : a / 128 = b / 128
  · have hsa : spoolSet a = set := by rw [← spoolSet_line, e, spoolSet_line, hs]
    rw [if_pos hsa, findLine_replace, hsa, e, hf, Option.map_some, if_pos (by rw [SpoolLine.setDirty_tag, ht])]
    simp only [lineByte, SpoolLine.setDirty_data]
    by_cases g : a / 64 = b / 64
    · rw [if_pos g, if_pos (by rw [g])]
    · rw [if_neg g, if_neg]
      intro h
      have h' : (a / 64 % 2 = 0) ↔ (b / 64 % 2 = 0) := iff_of_eq h
      omega
  · rw [if_neg (c := a / 64 = b / 64) (by omega)]
    split
    · rename_i hsa
      rw [findLine_replace, hsa]
      cases hh : findLine (s.lines set) (a / 128) with
      | none => rfl
      | some z => rw [Option.map_some, if_neg (by rw [SpoolLine.setDirty_tag, ht]; exact e)]
    · rfl

theorem memBytes_getD (s : State) (a n i : Nat) (h : i < n) : (memBytes s a n).getD i 0 = memByte s (a + i) := by
  induction n generalizing a i with
  | zero => omega
  | succ n ih =>
    cases i with
    | zero => rfl
    | succ i =>
      rw [memBytes, List.getD_cons_succ, ih _ _ (by omega), show a + 1 + i = a + (i + 1) by omega]

theorem mergeBytes_getD {old bs : Bytes} {o : Nat} (h : old.length = 64) (ho : o + bs.length ≤ 64) (i : Nat)
    (hi : i < 64) :
    (mergeBytes old o bs).getD i 0 = if o ≤ i ∧ i < o + bs.length then bs.getD (i - o) 0 else old.getD i 0 := by
  simp only [mergeBytes, List.getD_eq_getElem?_getD, List.getElem?_take, List.getElem?_append, List.length_append,
    List.length_take, List.getElem?_drop, h]
  rw [if_pos hi, show min o 64 = o by omega]
  by_cases h1 : i < o
  · simp [h1, show i < o + bs.length by omega, show ¬ o ≤ i by omega]
  · by_cases h2 : i < o + bs.length
    · simp [h1, h2, show o ≤ i by omega]
    · simp [h2, show o + bs.length + (i - (o + bs.length)) = i by omega]

/-- A sector stored with its data: it reads as the data, every other byte as before. -/
theorem memByte_sector {s s1 : State} (hc : Canon s1) (hk : nothingKept s1 = true) (e1 : ∀ b, memByte s1 b = memByte s b) (a0 t h1 : Nat)
    (ha : a0 % 64 = 0) {data : Bytes} (hlen : data.length = 64) {c : Bool}
    (hn : c = true → findLine (s1.lines (spoolSet a0)) (a0 / 128) = none) (b : Nat) :
    let r := if c = true then (true, hbmWrite (s1.bump64 Reg.SP_MISSES_LO Reg.SP_MISSES_HI t) a0 data)
      else match findLine ((bringSector s1 a0 h1).lines (spoolSet a0)) (a0 / 128) with
        | some x => (true, (bringSector s1 a0 h1).setLines (spoolSet a0)
            (replaceLine ((bringSector s1 a0 h1).lines (spoolSet a0)) (x.setDirty (a0 / 64 % 2) data)))
        | none => (true, bringSector s1 a0 h1)
    r.1 = true ∧ memByte r.2 b = if b / 64 = a0 / 64 then data.getD (b % 64) 0 else memByte s b := by
  dsimp only
  split
  · rename_i hl3
    refine ⟨rfl, ?_⟩
    rw [memByte_eq, State.lines_congr (hbmWrite_spool _ _ _), hbmByte_hbmWrite, hlen]
    by_cases g : b / 64 = a0 / 64
    · have hs : spoolSet b = spoolSet a0 := by
        rw [← spoolSet_line b, ← spoolSet_line a0, show b / 128 = a0 / 128 by omega]
      rw [if_pos (by omega), if_pos g, show b - a0 = b % 64 by omega, hs, show b / 128 = a0 / 128 by omega]
      have : findLine ((s1.bump64 Reg.SP_MISSES_LO Reg.SP_MISSES_HI t).lines (spoolSet a0)) (a0 / 128) = none := hn hl3
      rw [this]
      rfl
    · rw [if_neg (by omega), if_neg g, ← e1 b, memByte_eq]
      rfl
  · obtain ⟨x, hx⟩ := bringSector_found s1 a0 h1
    rw [hx]
    refine ⟨rfl, ?_⟩
    rw [memByte_dirty rfl hx, memByte_bring hc.spool hk, e1]

/-- R206, R471: a write within a sector, not under LAST: done, it changes the bytes it writes alone; abandoned, none. -/
theorem memByte_writeSector {s : State} (h : Canon s) (hn : nothingKept s = true) {a : Nat} {bs : Bytes} (hint : Nat)
    (hl : a % 64 + bs.length ≤ 64) (b : Nat) :
    memByte (writeSector s a bs hint).2 b =
      if (writeSector s a bs hint).1 = true ∧ a ≤ b ∧ b < a + bs.length then bs.getD (b - a) 0 else memByte s b := by
  unfold writeSector
  dsimp only
  generalize (if hint = 3 then 0 else hint) = h0
  have ha0 : a / 64 * 64 / 64 = a / 64 := by omega
  have hdata : ∀ b, b / 64 = a / 64 →
      (if bs.length = 64 then bs else mergeBytes (memBytes s (a / 64 * 64) 64) (a % 64) bs).getD (b % 64) 0 =
        if a ≤ b ∧ b < a + bs.length then bs.getD (b - a) 0 else memByte s b := by
    intro b hb
    split
    · rw [if_pos (by omega), show b - a = b % 64 by omega]
    · rw [mergeBytes_getD (memBytes_length _ _ _) hl _ (by omega), memBytes_getD _ _ _ _ (by omega),
        show a / 64 * 64 + b % 64 = b by omega]
      by_cases hb' : a % 64 ≤ b % 64 ∧ b % 64 < a % 64 + bs.length
      · rw [if_pos hb', if_pos (by omega), show b - a = b % 64 - a % 64 by omega]
      · rw [if_neg hb', if_neg (by omega)]
  have hlen : (if bs.length = 64 then bs else mergeBytes (memBytes s (a / 64 * 64) 64) (a % 64) bs).length = 64 := by
    split
    · assumption
    · exact mergeBytes_length (memBytes_length _ _ _) (by omega)
  split
  · simp
  · have hm := effectiveHint_spool s (spoolSet (a / 64 * 64)) (a / 64 * 64 / 128) h0
    have hb : (effectiveHint s (spoolSet (a / 64 * 64)) (a / 64 * 64 / 128) h0).2.hbm = s.hbm := by
      unfold effectiveHint
      dsimp only
      repeat' split
      all_goals rfl
    have hc : Canon (effectiveHint s (spoolSet (a / 64 * 64)) (a / 64 * 64 / 128) h0).2 :=
      (effectiveHint_frame (Frame.refl _ s) (sub_refl _)).canon h
    obtain ⟨k1, k2⟩ := memByte_sector hc (nothingKept_congr hn (congrArg Memory.spool hm)) (fun b => memByte_congr (congrArg Memory.spool hm) hb b) (a / 64 * 64)
      (trainOf (a / 64 * 64)) (effectiveHint s (spoolSet (a / 64 * 64)) (a / 64 * 64 / 128) h0).1 (by omega) hlen
      (c := decide (hint = 3) && (findLine
        ((effectiveHint s (spoolSet (a / 64 * 64)) (a / 64 * 64 / 128) h0).2.lines (spoolSet (a / 64 * 64)))
        (a / 64 * 64 / 128)).isNone && s.rd Reg.SPOOL_CTL_LAST_EN (trainOf (a / 64 * 64)) == 1)
      (fun hl => by
        simp only [Bool.and_eq_true, Option.isNone_iff_eq_none] at hl
        exact hl.1.2) b
    have fin : ∀ r : Bool × State, r.1 = true →
        (memByte r.2 b = if b / 64 = a / 64 then
          (if bs.length = 64 then bs else mergeBytes (memBytes s (a / 64 * 64) 64) (a % 64) bs).getD (b % 64) 0
          else memByte s b) →
        memByte r.2 b = if r.1 = true ∧ a ≤ b ∧ b < a + bs.length then bs.getD (b - a) 0 else memByte s b := by
      intro r k1 k2
      rw [k1, k2]
      by_cases g : b / 64 = a / 64
      · rw [if_pos g, hdata b g]
        by_cases hr : a ≤ b ∧ b < a + bs.length
        · rw [if_pos hr, if_pos ⟨rfl, hr⟩]
        · rw [if_neg hr, if_neg (fun k => hr k.2)]
      · rw [if_neg g, if_neg (by omega)]
    exact fin _ k1 (k2.trans (by rw [ha0]))

/-- A write to a range, whatever its hint: the bytes outside it stay. -/
theorem memByte_writeRange_out (fuel : Nat) : ∀ {s : State} (_ : Canon s) (_ : nothingKept s = true) (a : Nat) (bs : Bytes) (hint b : Nat),
    (b < a ∨ a + bs.length ≤ b) → memByte (writeRange fuel s a bs hint).2 b = memByte s b := by
  induction fuel with
  | zero => intros; rfl
  | succ fuel ih =>
    intro s h hk a bs hint b hb
    unfold writeRange
    split
    · rfl
    · dsimp only
      have hn : (bs.take (min bs.length (64 - a % 64))).length = min bs.length (64 - a % 64) := by
        rw [List.length_take]
        omega
      have h1 : Canon (writeSector s a (bs.take (min bs.length (64 - a % 64))) hint).2 :=
        (writeSector_frame (Frame.refl _ s) (sub_refl _)).canon h
      rw [ih h1 (nothingKept_writeSector hk _ _ _) _ _ _ _ (by rw [List.length_drop]; omega),
        memByte_writeSector h hk hint (by rw [hn]; omega), if_neg (by rw [hn]; omega)]

/-- A write to a range whose merge reads all succeed: the range reads as what was written. -/
theorem memByte_writeRange_in (fuel : Nat) : ∀ {s : State} (_ : Canon s) (_ : nothingKept s = true) (a : Nat) (bs : Bytes) (hint b : Nat),
    (writeRange fuel s a bs hint).1 = [] → a % 64 + bs.length ≤ 64 * fuel → a ≤ b → b < a + bs.length →
      memByte (writeRange fuel s a bs hint).2 b = bs.getD (b - a) 0 := by
  induction fuel with
  | zero => intros; omega
  | succ fuel ih =>
    intro s h hk a bs hint b hok hf h1 h2
    unfold writeRange at hok ⊢
    by_cases he : bs = []
    · subst he
      simp at h2
      omega
    · rw [if_neg he] at hok ⊢
      dsimp only at hok ⊢
      have hn : (bs.take (min bs.length (64 - a % 64))).length = min bs.length (64 - a % 64) := by
        rw [List.length_take]
        omega
      have hc : Canon (writeSector s a (bs.take (min bs.length (64 - a % 64))) hint).2 :=
        (writeSector_frame (Frame.refl _ s) (sub_refl _)).canon h
      split at hok
      · rename_i ho
        by_cases hb : b < a + min bs.length (64 - a % 64)
        · rw [memByte_writeRange_out fuel hc (nothingKept_writeSector hk _ _ _) _ _ _ _ (by omega), memByte_writeSector h hk hint (by rw [hn]; omega),
            if_pos ⟨ho, by rw [hn]; omega⟩]
          rw [List.getD_eq_getElem?_getD, List.getD_eq_getElem?_getD, List.getElem?_take, if_pos (by omega)]
        · rw [ih hc (nothingKept_writeSector hk _ _ _) _ _ _ _ hok (by rw [List.length_drop]; omega) (by omega) (by rw [List.length_drop]; omega)]
          rw [List.getD_eq_getElem?_getD, List.getD_eq_getElem?_getD, List.getElem?_drop]
          congr 2
          omega
      · cases hok

/-! ### Reads -/

theorem memBytes_congr {s t : State} (n : Nat) : ∀ {a : Nat}, (∀ b, a ≤ b → b < a + n → memByte t b = memByte s b) →
    memBytes t a n = memBytes s a n := by
  induction n with
  | zero => intros; rfl
  | succ n ih =>
    intro a h
    rw [memBytes, memBytes, h a (Nat.le_refl a) (by omega), ih fun b h1 h2 => h b (by omega) (by omega)]

theorem memBytes_append (s : State) (a n m : Nat) : memBytes s a (n + m) = memBytes s a n ++ memBytes s (a + n) m := by
  induction n generalizing a with
  | zero => simp [memBytes]
  | succ n ih => rw [Nat.succ_add, memBytes, memBytes, ih, List.cons_append, show a + 1 + n = a + (n + 1) by omega]

/-- Part of a sector's bytes. -/
theorem memBytes_slice (s : State) (a o n m : Nat) (h : o + n ≤ m) :
    ((memBytes s a m).drop o).take n = memBytes s (a + o) n := by
  obtain ⟨k, rfl⟩ : ∃ k, m = o + (n + k) := ⟨m - o - n, by omega⟩
  rw [memBytes_append, List.drop_left' (memBytes_length _ _ _), memBytes_append, List.take_left' (memBytes_length _ _ _)]

theorem effectiveHint_hbm (s : State) (set tag hint : Nat) : (effectiveHint s set tag hint).2.hbm = s.hbm := by
  unfold effectiveHint
  dsimp only
  repeat' split
  all_goals rfl

/-- R208: a read that brings its sector in changes no byte. -/
theorem memByte_readSector {s : State} (h : Canon s) (hk : nothingKept s = true) (a b hint : Nat) :
    memByte (readSector s a hint).2 b = memByte s b := by
  unfold readSector
  dsimp only
  split
  · exact memByte_congr rfl rfl b
  · have hc : Canon (effectiveHint s (spoolSet (a / 64 * 64)) (a / 64 * 64 / 128) hint).2 :=
      (effectiveHint_frame (Frame.refl _ s) (sub_refl _)).canon h
    dsimp only
    rw [memByte_bring hc.spool (nothingKept_congr hk (congrArg Memory.spool (effectiveHint_spool s _ _ _)))]
    exact memByte_congr (congrArg Memory.spool (effectiveHint_spool s _ _ _)) (effectiveHint_hbm s _ _ _) b

theorem readSector_data {s : State} {a hint : Nat} {d : Bytes} (h : (readSector s a hint).1 = some d) :
    d = memBytes s (a / 64 * 64) 64 := by
  unfold readSector at h
  dsimp only at h
  split at h
  · cases h
  · exact (Option.some.inj h).symm

/-- A read of a range that brings its sectors in changes no byte. -/
theorem memByte_readRange (fuel : Nat) : ∀ {s : State} (_ : Canon s) (_ : nothingKept s = true) (a len b hint : Nat),
    memByte (readRange fuel s a len hint).2.2 b = memByte s b := by
  induction fuel with
  | zero => intros; rfl
  | succ fuel ih =>
    intro s h hk a len b hint
    unfold readRange
    split
    · rfl
    · have hc : Canon (readSector s a hint).2 := (readSector_frame (Frame.refl _ s) (sub_refl _)).canon h
      have := (ih hc (nothingKept_readSector hk a hint) (a + min len (64 - a % 64)) (len - min len (64 - a % 64)) b hint).trans
        (memByte_readSector h hk a b hint)
      dsimp only
      split <;> exact this

/-- What a read of a range without an uncorrectable transfer returns: the bytes as they stood. -/
theorem readRange_bytes (fuel : Nat) : ∀ {s : State} (_ : Canon s) (_ : nothingKept s = true) (a len hint : Nat),
    (len ≠ 0 → a % 64 + len ≤ 64 * fuel) → (readRange fuel s a len hint).2.1 = [] →
      (readRange fuel s a len hint).1 = memBytes s a len := by
  induction fuel with
  | zero =>
    intro s h hk a len hint hf hn
    obtain rfl : len = 0 := by
      have := hf
      omega
    rfl
  | succ fuel ih =>
    intro s h hk a len hint hf hn
    unfold readRange at hn ⊢
    by_cases hl : len = 0
    · subst hl
      rfl
    · rw [if_neg hl] at hn ⊢
      dsimp only at hn ⊢
      have hc : Canon (readSector s a hint).2 := (readSector_frame (Frame.refl _ s) (sub_refl _)).canon h
      cases hd : (readSector s a hint).1 with
      | none =>
        rw [hd] at hn
        cases hn
      | some d =>
        rw [hd] at hn
        dsimp only at hn ⊢
        rw [ih hc (nothingKept_readSector hk _ _) _ _ _ (by have := hf hl; omega) hn, readSector_data hd, memBytes_slice _ _ _ _ _ (by omega),
          memBytes_congr _ fun b _ _ => memByte_readSector h hk a b hint, show a / 64 * 64 + a % 64 = a by omega,
          ← memBytes_append, show min len (64 - a % 64) + (len - min len (64 - a % 64)) = len by omega]

/-! ### Faulty transfers -/

theorem faulty_hbmWrite {s : State} {a b : Nat} {bs : Bytes} (h : faulty s b = false) :
    faulty (hbmWrite s a bs) b = false := by
  unfold faulty at *
  unfold hbmWrite
  dsimp only
  split
  · show List.contains (State.stack (s.setStack _ _) _).bad _ = false
    unfold State.stack State.setStack at *
    dsimp only
    by_cases e : (decodeAddr b).stack = (decodeAddr a).stack
    · rw [e] at h ⊢
      rw [Table.getD_put_same]
      rw [List.contains_eq_mem, decide_eq_false_iff_not] at h ⊢
      exact fun hm => h (List.mem_filter.1 hm).1
    · rw [Table.getD_put_ne e]
      exact h
  · exact h

theorem faulty_congr {s t : State} (h : t.mem.stackTab = s.mem.stackTab) (b : Nat) : faulty t b = faulty s b := by
  unfold faulty State.stack
  rw [h]

theorem faulty_writeback {s : State} {t b : Nat} {x : SpoolLine} (h : faulty s b = false) :
    faulty (writebackLine s t x) b = false := by
  have hb : ∀ (u : State) (f : Fld) (i : Nat), faulty (u.bump f i) b = faulty u b := fun _ _ _ => rfl
  unfold writebackLine
  cases x.d0 with
  | none =>
    cases x.d1 with
    | none => exact h
    | some d => exact faulty_hbmWrite (a := x.tag * 128 + 64) (bs := d) h
  | some d =>
    have h1 := faulty_hbmWrite (a := x.tag * 128) (bs := d) h
    cases x.d1 with
    | none => exact h1
    | some e =>
      exact faulty_hbmWrite (s := (hbmWrite s (x.tag * 128) d).bump Reg.SP_WRITEBACKS_COUNT t)
        (a := x.tag * 128 + 64) (bs := e) h1

theorem faulty_makeRoom {s : State} {set b : Nat} (h : faulty s b = false) : faulty (makeRoom s set) b = false := by
  unfold makeRoom
  dsimp only
  split
  · exact h
  · split
    · exact faulty_writeback h
    · exact h

theorem faulty_bring {s : State} {a hint b : Nat} (h : faulty s b = false) : faulty (bringSector s a hint) b = false := by
  unfold bringSector
  dsimp only
  split
  · refine (faulty_congr ?_ b).trans h
    simp only [State.setLines]
    split <;> rfl
  · exact faulty_makeRoom (s := s.bump64 Reg.SP_MISSES_LO Reg.SP_MISSES_HI (spoolSet a / 16384)) h

theorem faulty_readSector {s : State} {a hint b : Nat} (h : faulty s b = false) :
    faulty (readSector s a hint).2 b = false := by
  unfold readSector
  dsimp only
  split
  · exact h
  · dsimp only
    refine faulty_bring ((faulty_congr ?_ b).trans h)
    rw [effectiveHint_spool]

/-- A range none of whose transfers is faulty reads without an uncorrectable one. -/
theorem readRange_clean (fuel : Nat) : ∀ {s : State} (a len hint : Nat),
    (∀ b, a ≤ b → b < a + len → faulty s b = false) → (readRange fuel s a len hint).2.1 = [] := by
  induction fuel with
  | zero => intros; rfl
  | succ fuel ih =>
    intro s a len hint hf
    unfold readRange
    by_cases hl : len = 0
    · rw [if_pos hl]
    · rw [if_neg hl]
      dsimp only
      have hd : ∃ d, (readSector s a hint).1 = some d := by
        unfold readSector
        dsimp only
        have ha := hf a (Nat.le_refl a) (by omega)
        have hs : faulty s (a / 64 * 64) = false := by
          unfold faulty at ha ⊢
          have : decodeAddr (a / 64 * 64) = { decodeAddr a with o := a / 64 * 64 % 2048 } := by
            unfold decodeAddr
            rw [show a / 64 * 64 / 2048 = a / 2048 by omega]
          rw [this, show a / 64 * 64 / 64 = a / 64 by omega]
          exact ha
        rw [hs, Bool.and_false, if_neg (by decide)]
        exact ⟨_, rfl⟩
      obtain ⟨d, hd⟩ := hd
      rw [hd]
      exact ih _ _ _ fun b h1 h2 => faulty_readSector (hf b (by omega) (by omega))

/-! ### Writes -/

theorem faulty_writeSector {s : State} {a hint b : Nat} {bs : Bytes} (h : faulty s b = false) :
    faulty (writeSector s a bs hint).2 b = false := by
  unfold writeSector
  dsimp only
  split
  · exact h
  · generalize (if hint = 3 then 0 else hint) = h0
    have h1 : faulty (effectiveHint s (spoolSet (a / 64 * 64)) (a / 64 * 64 / 128) h0).2 b = false :=
      (faulty_congr (by rw [effectiveHint_spool]) b).trans h
    split
    · exact faulty_hbmWrite (s := State.bump64 _ Reg.SP_MISSES_LO Reg.SP_MISSES_HI (trainOf (a / 64 * 64))) h1
    · split
      · exact faulty_bring h1
      · exact faulty_bring h1

theorem faulty_sector (s : State) (a : Nat) : faulty s (a / 64 * 64) = faulty s a := by
  unfold faulty decodeAddr
  rw [show a / 64 * 64 / 2048 = a / 2048 by omega, show a / 64 * 64 / 64 = a / 64 by omega]

/-- A range none of whose transfers is faulty is written without a failed merge. -/
theorem writeRange_clean (fuel : Nat) : ∀ {s : State} (a : Nat) (bs : Bytes) (hint : Nat),
    (∀ b, a ≤ b → b < a + bs.length → faulty s b = false) → (writeRange fuel s a bs hint).1 = [] := by
  induction fuel with
  | zero => intros; rfl
  | succ fuel ih =>
    intro s a bs hint hf
    unfold writeRange
    by_cases he : bs = []
    · rw [if_pos he]
    · rw [if_neg he]
      dsimp only
      have hp : 0 < bs.length := List.length_pos_iff.2 he
      have hok : (writeSector s a (bs.take (min bs.length (64 - a % 64))) hint).1 = true := by
        unfold writeSector
        dsimp only
        rw [faulty_sector, hf a (Nat.le_refl a) (by omega), Bool.and_false, if_neg (by decide)]
        repeat' split
        all_goals rfl
      rw [if_pos hok]
      refine ih _ _ _ fun b h1 h2 => faulty_writeSector (hf b (by omega) ?_)
      rw [List.length_drop] at h2
      omega

/-! ### Regulators -/

theorem raise_mem (s : State) (e : Evt) (n : Nat) : (raise s e n).mem = s.mem :=
  (raise_frame (Frame.refl _ s) (sub_refl _)).same .mem (by decide) (by decide +kernel)

theorem raise_hbm (s : State) (e : Evt) (n : Nat) : (raise s e n).hbm = s.hbm :=
  (raise_frame (Frame.refl _ s) (sub_refl _)).same .hbm (by decide) (by decide +kernel)

/-- Charging a partition leaves the spools, the stacks and HBM. -/
structure Charged (s t : State) : Prop where
  spool : t.mem.spool = s.mem.spool
  stackTab : t.mem.stackTab = s.mem.stackTab
  hbm : t.hbm = s.hbm

theorem chargeStream_charged (s : State) (t p n : Nat) : Charged s (chargeStream s t p n) := by
  unfold chargeStream
  dsimp only
  split
  · exact ⟨rfl, rfl, rfl⟩
  · split
    · exact ⟨rfl, rfl, rfl⟩
    · unfold countStalls
      split
      · exact ⟨rfl, rfl, rfl⟩
      · refine ⟨?_, ?_, ?_⟩
        · rw [raise_mem]
          rfl
        · rw [raise_mem]
          rfl
        · rw [raise_hbm]
          rfl

theorem chargeRange_charged (s : State) (p a len : Nat) : Charged s (chargeRange s p a len) := by
  unfold chargeRange
  generalize List.range 8 = l
  induction l generalizing s with
  | nil => exact ⟨rfl, rfl, rfl⟩
  | cons t l ih =>
    have h1 := chargeStream_charged s t p ((sectorsOf a len).filter (fun x => trainOf x == t)).length
    have h2 := ih (chargeStream s t p ((sectorsOf a len).filter (fun x => trainOf x == t)).length)
    exact ⟨h2.spool.trans h1.spool, h2.stackTab.trans h1.stackTab, h2.hbm.trans h1.hbm⟩

theorem Charged.memByte {s t : State} (h : Charged s t) (a : Nat) : memByte t a = memByte s a :=
  memByte_congr h.spool h.hbm a

/-! ### What a failed merge leaves -/

theorem failedMerge_charged (s : State) (a b : Nat) : memByte (failedMerge s a) b = memByte s b := by
  have hl : (latchUe s a).mem = s.mem := by
    unfold latchUe
    dsimp only
    split <;> simp [raise_mem, State.countUe, State.setHdr, State.bump]
  have hh : (latchUe s a).hbm = s.hbm := (latchUe_frame (Frame.refl _ s) (sub_refl _)).same .hbm (by decide) (by decide +kernel)
  unfold failedMerge markBad
  dsimp only
  split
  · exact memByte_congr (congrArg Memory.spool hl) hh b
  · refine memByte_congr ?_ hh b
    show (latchUe s a).mem.spool = _
    rw [hl]

theorem failedMerges_bytes (bad : List Nat) : ∀ (s : State) (b : Nat), memByte (bad.foldl failedMerge s) b = memByte s b := by
  induction bad with
  | nil => intros; rfl
  | cons a bad ih => exact fun s b => (ih _ b).trans (failedMerge_charged s a b)

end Sys2Proof.Machine
end

