-- ==== Sys2Proof/WellFormed.lean ====
section
/-! DEFINITION. Which commands can be given: the operands that Lean's types do not bound lie within what their fields, frames
and ticks can carry. The meanings do not rest on it. -/

namespace Sys2Proof

/-- A number fits in `n` bits. -/
def below (x n : Nat) : Bool := decide (x < 2 ^ n)

/-- 12: the longest Ethernet frame, in bytes. -/
def frameMax : Nat := 9216

/-- The bytes of a command's body after `n` bytes of fields, within one frame with its 16-byte header. -/
def frameBody (data : Bytes) (n : Nat) : Bool := decide (data.length + n + 16 ≤ frameMax)

/-- An Ethernet address of 48 bits, a tag of 32, an IPv6 address of 128 and a port of 16. -/
def HostAddr.ok (a : HostAddr) : Bool :=
  below a.mac 48 && below a.here 48 && a.tag.all (below · 32)
    && a.udp.all (fun u => below u.ip 128 && below u.port 16 && below u.here 128 && below u.herePort 16)

def CmdVia.ok : CmdVia → Bool
  | .frame h => h.src.ok
  | .register => true

def AttestBy.ok : AttestBy → Bool
  | .host h => h.src.ok
  | .peer _ _ => true

/-- A VLAN identifier has 12 bits. -/
def RxFrame.ok : RxFrame → Bool
  | .vlan vid => vid.all (below · 12)
  | .badFcs | .wrongDest | .twoTags | .badUdpSum | .unknownType => true

/-- IEEE 1588 sequence numbers have 16 bits, times 80. -/
def PtpMsg.ok : PtpMsg → Bool
  | .sync seq t | .followUp seq t | .delayReqSent seq t | .delayResp seq t => below seq 16 && below t 80
  | .announce | .other => true

/-- 01: a scratchpad has 32 banks of 2,048 rows. -/
def bankRow (b r : Nat) : Bool := decide (b < 32) && decide (r < 2048)

def OpEnv.ok (e : OpEnv) : Bool := e.ceRows.all (fun x => bankRow x.1 x.2) && e.ue.all (fun x => bankRow x.1 x.2)

def PartEnv.ok (e : PartEnv) : Bool :=
  e.ceRows.all (fun x => bankRow x.2.1 x.2.2) && e.ue.all (fun x => bankRow x.2.1 x.2.2)

def ArrayPart.ok : ArrayPart → Bool
  | .start _ => true
  | .stream env => env.ok

/-- 04 R148, R152: six counts and 32 bins, of at most 48 bits. -/
def TagRec.ok (r : TagRec) : Bool :=
  r.counts.length == 6 && r.bins.length == 32 && r.counts.all (below · 48) && r.bins.all (below · 48)

def Summary.ok (x : Summary) : Bool := below x.step 64 && x.tags.all (fun e => decide (e.1 < 256) && e.2.ok)

/-- 06 R217: the code corrects one symbol of a transfer. -/
def EccResult.ok : EccResult → Bool
  | .corrected n => n == 1
  | .clean | .retryOk _ | .uncorrectable => true

/-- 06 R206: an access of a unit lies in one sector of 64 bytes, below 736 GiB. -/
def SpoolReq.ok (r : SpoolReq) : Bool :=
  decide (r.addr % 64 + r.len ≤ 64) && decide (r.addr < 736 * 2 ^ 30) && r.write.all (fun b => b.length == r.len)

def WindowReport.ok (w : WindowReport) : Bool :=
  w.scrub.all (fun e => e.res.ok) && w.noRepair.all (fun g => decide (g < 384))

def PeerOp.ok : PeerOp → Bool
  | .read _ count _ => below count 16
  | .write _ count _ words => below count 16 && decide (words.length ≤ 48)

/-- Ticks have 64 bits. -/
def SyncMsg.ok : SyncMsg → Bool
  | .request t1 t2 _ => below t1 64 && below t2 64
  | .reply t1 t2 t3 t4 _ => below t1 64 && below t2 64 && below t3 64 && below t4 64

/-- A command that can be given. -/
def Instr.wellFormed : Instr → Bool
  | .nop h => h.src.ok
  | .openStream h => h.src.ok
  | .regRead h _ count _ => h.src.ok && below count 16
  | .regWrite h _ count _ words => h.src.ok && below count 16 && decide (4 * words.length + 24 ≤ frameMax)
  | .memRead h addr len => h.src.ok && below addr 64 && below len 32
  | .memWrite h addr len data => h.src.ok && below addr 64 && below len 32 && frameBody data 12
  | .planWrite h ofs len data => h.src.ok && below ofs 32 && below len 32 && frameBody data 8
  | .planLoad via => via.ok
  | .stepStart via tick => via.ok && below tick 64
  | .stepStop via => via.ok
  | .commit via => via.ok
  | .attest who n nonce => who.ok && below n 16 && frameBody nonce 2
  | .controlFrameRx src bytes => src.ok && decide (bytes.length ≤ frameMax)
  | .hostFrameDropped f => f.ok
  | .ptpMessage m => m.ok
  | .scoringRequest src payload rx => src.ok && decide (payload.length ≤ frameMax) && below rx 64
  | .batchEnd _ env => env.ok
  | .ready _ step attempt _ => below step 64 && below attempt 32
  | .sealReceived step t _ => below step 64 && below t 64
  | .stop _ step => below step 64
  | .abortReceived step _ => below step 64
  | .replayReady _ step => below step 64
  | .replay step t => below step 64 && below t 64
  | .handover _ step _ => below step 64
  | .arrayOp _ part => part.ok
  | .stationaryLoad _ env => env.ok
  | .map _ env => env.ok
  | .conv _ env => env.ok
  | .scan _ env => env.ok
  | .reduce _ env => env.ok
  | .rescale _ env => env.ok
  | .rng _ env => env.ok
  | .cbfLoad _ env => env.ok
  | .move _ env => env.ok
  | .govSummary _ _ s => s.ok
  | .spoolAccess req => req.ok
  | .hbmRead addr _ res _ => addr % 64 == 0 && decide (addr < 736 * 2 ^ 30) && res.ok
  | .windowWork _ w => w.ok
  | .flitRx _ bytes _ _ _ errs => bytes.length == 256 && errs.all (fun e => decide (e.1 < 9))
  | .done _ _ _ n => below n 48
  | .peerRegisterCommand _ _ op => op.ok
  | .restoreRead _ body progress => decide (body.length ≤ frameMax) && below progress 64
  | .laneSwap _ w _ => below w 64
  | .timeSync _ m => m.ok
  | .slotFree _ _ _ _ seg => below seg 32
  | .burnerRecord _ ue => ue.all (below · 48)
  | .pinInput _ _ cycles => below cycles 64
  | .haulMsg _ t _ _ _ => below t 64
  | .cutMarker _ t _ => below t 64
  | .releaseMsg _ r _ => below r 64
  | .powerEval vin iin watts => below vin 16 && below iin 16 && below watts 16
  | .hbmStage hppr => hppr.length == 16
  | .heldCommandExecute .. | .eventFrameSend | .eventFrameRetx .. | .pauseRx | .batchStart .. | .verdictSend |
    .validate .. | .validated | .weightLoad | .wlDone | .scDwin .. | .planCheckDone | .stepTick | .deviceReady |
    .endReq .. | .replayTick | .stepTimeout | .sync .. | .tileSwap .. | .opInvalid .. | .opComplete .. | .fileCopy ..
    | .faultClr .. | .cbfData .. | .vpData .. | .envWin .. | .govEval | .govReady | .replicaReload .. | .govSvData ..
    | .ufwCtl .. | .regAdmit .. | .retrainDone .. | .pcDead .. | .stackTempRead .. | .maintWindowStart | .tableSwap |
    .windowEnd | .migIntervalEnd .. | .migCopyDone .. | .migrate .. | .ueClr .. | .unpinAll .. | .copy .. | .prefetch
    .. | .unpin .. | .writeback .. | .lineScheduleRecord .. | .flitSend .. | .retryReq .. | .retryTimeout .. |
    .idleAck .. | .dataFlit .. | .transferWritten .. | .nack .. | .tbQuery .. | .ident .. | .discovery | .discTimeout
    .. | .discover | .fabDevnum .. | .lineUp .. | .lineDown .. | .downNotice .. | .alignmentLoss .. | .lineRetrain ..
    | .lineCfg .. | .laneIntervalEnd .. | .laneWindowSwap .. | .laneLockLoss .. | .laneSwapCmd .. | .timeSyncSend |
    .syncTimeout | .routeData .. | .winchRecord .. | .segmentCombine .. | .segmentSend .. | .winchRecordDone .. |
    .wnFaultClr .. | .nanClr .. | .reelCompute .. | .burnerRecordDone .. | .bnFaultClr .. | .bnGwin .. | .ecDeliver |
    .ecEoi .. | .ecCore .. | .ecTimer .. | .evtPend .. | .ecPend .. | .ecCfg .. | .kiteHang .. | .replace .. |
    .coreFailure .. | .roleTakeover | .phaseShed | .planUeDone | .haul .. | .haulCut | .markTimeout | .scanDone |
    .hdDump .. | .dumpDone | .release .. | .releaseTick | .abandon | .traceBurst .. | .trCtl .. | .measure | .measDone
    | .tbNowLo | .lowWordRead .. | .health | .regAddr .. | .regGet | .regPut .. | .healthRefresh | .softReset .. |
    .freeze .. | .registerWrite .. | .powerEnable | .powerGood | .powerOff | .refLost | .thermalEval .. | .reset .. |
    .deviceReset | .romStage | .verifyStage | .loadStage .. | .configStage | .devReady | .flData .. | .erase |
    .flCommit .. | .flDone .. | .stage | .swap | .handoverDone | .extend | .svnBurn .. | .ukhBurn .. | .logWin |
    .serviceHour | .commitTick | .fileCopyDone .. | .ptCopyDone | .govMergeDone | .hostLinkUp .. | .hostLinkDown |
    .refReturn | .entropySample .. | .boundaryScan .. | .dynamicAddressing .. | .sidebandReadDone | .phyMarginLow ..
    => true

end Sys2Proof
end

