-- ==== Sys2Proof/Tests/Slice0.lean ====
section
/-! SUPPORT. The model's own tests: an ill-formed term for each check of `Instr.wellFormed`, the worked examples of the
spec, and, for each obligation with hypotheses, states and operands that meet them (one for each of its clauses). -/

set_option Elab.async false

namespace Sys2Proof.Tests
open Sys2Proof Sys2Proof.Machine

theorem test_reset_queue : State.reset.pending = [] := by decide

/-! ### WellFormed: an ill-formed term for each check -/

/-- An address that can be, and addresses that cannot. -/
def okHost : HostAddr := { mac := 0, here := 0, tag := none, udp := none }

def okUdp : UdpAddr := { ip := 0, port := 0, here := 0, herePort := 0 }

def badHosts : List HostAddr :=
  [{ okHost with mac := 2 ^ 48 }, { okHost with here := 2 ^ 48 }, { okHost with tag := some (2 ^ 32) }] ++
    [{ okUdp with ip := 2 ^ 128 }, { okUdp with port := 65536 }, { okUdp with here := 2 ^ 128 },
      { okUdp with herePort := 65536 }].map (fun u => { okHost with udp := some u })

def hdrOf (a : HostAddr) : CmdHdr := { stream := 0, seq := 0, ack := 0, src := a }

def okHdr : CmdHdr := hdrOf okHost

/-- None of the commands can be given. -/
def allIll (l : List Instr) : Bool := l.all (fun c => !c.wellFormed)

theorem test_wf_well_formed : [Instr.nop okHdr, .regRead okHdr 0 65535 false, .memRead okHdr 0 0, .flitRx 0 (zeros 256)
    false 0 0 [(8, 9)], .hbmStage (List.replicate 16 0), .stepTick].all Instr.wellFormed = true := by decide +kernel

theorem test_wf_senders : badHosts.all (fun a => allIll [.nop (hdrOf a), .openStream (hdrOf a),
    .regRead (hdrOf a) 0 1 false, .regWrite (hdrOf a) 0 0 false [], .memRead (hdrOf a) 0 4, .memWrite (hdrOf a) 0 0 [],
    .planWrite (hdrOf a) 0 0 [], .planLoad (.frame (hdrOf a)), .stepStart (.frame (hdrOf a)) 0,
    .stepStop (.frame (hdrOf a)), .commit (.frame (hdrOf a)), .attest (.host (hdrOf a)) 0 [], .controlFrameRx a [],
    .scoringRequest a [] 0]) = true := by decide +kernel

theorem test_wf_host_fields : allIll [.regRead okHdr 0 65536 false, .regWrite okHdr 0 65536 false [],
    .memRead okHdr (2 ^ 64) 4, .memRead okHdr 0 (2 ^ 32), .memWrite okHdr (2 ^ 64) 0 [], .memWrite okHdr 0 (2 ^ 32) [],
    .planWrite okHdr (2 ^ 32) 0 [], .planWrite okHdr 0 (2 ^ 32) [], .stepStart .register (2 ^ 64),
    .attest (.peer 0 0) 65536 []] = true := by decide +kernel

theorem test_wf_frame_lengths : allIll [.regWrite okHdr 0 0 false (List.replicate 2300 0), .memWrite okHdr 0 0 (zeros 9216),
    .planWrite okHdr 0 0 (zeros 9216), .attest (.peer 0 0) 0 (zeros 9216), .controlFrameRx okHost (zeros 9217),
    .scoringRequest okHost (zeros 9217) 0, .restoreRead 0 (zeros 9217) 0] = true := by decide +kernel

theorem test_wf_host_port : allIll [.hostFrameDropped (.vlan (some 4096)), .ptpMessage (.sync 65536 0),
    .ptpMessage (.sync 0 (2 ^ 80)), .ptpMessage (.followUp 65536 0), .ptpMessage (.followUp 0 (2 ^ 80)),
    .ptpMessage (.delayReqSent 65536 0), .ptpMessage (.delayReqSent 0 (2 ^ 80)), .ptpMessage (.delayResp 65536 0),
    .ptpMessage (.delayResp 0 (2 ^ 80)), .scoringRequest okHost [] (2 ^ 64)] = true := by decide +kernel

theorem test_wf_steps : allIll [.ready 0 (2 ^ 64) 0 0, .ready 0 0 (2 ^ 32) 0, .sealReceived (2 ^ 64) 0 false,
    .sealReceived 0 (2 ^ 64) false, .stop 0 (2 ^ 64), .abortReceived (2 ^ 64) false, .replayReady 0 (2 ^ 64),
    .replay (2 ^ 64) 0, .replay 0 (2 ^ 64), .handover 0 (2 ^ 64) 0] = true := by decide +kernel

/-- Rows and banks no scratchpad has. -/
def badEnvs : List OpEnv :=
  [{ ceRows := [(32, 0)] }, { ceRows := [(0, 2048)] }, { ue := some (32, 0) }, { ue := some (0, 2048) }]

theorem test_wf_kites : badEnvs.all (fun e => allIll [.arrayOp 0 (.stream e), .stationaryLoad 0 e, .map 0 e, .conv 0 e,
    .scan 0 e, .reduce 0 e, .rescale 0 e, .rng 0 e, .cbfLoad 0 e, .move 0 e]) = true := by decide +kernel

theorem test_wf_scoring : allIll [.batchEnd 0 { ceRows := [(0, 32, 0)] }, .batchEnd 0 { ceRows := [(0, 0, 2048)] },
    .batchEnd 0 { ue := some (0, 32, 0) }, .batchEnd 0 { ue := some (0, 0, 2048) }] = true := by decide +kernel

/-- A tag's record that can be. -/
def okTag : TagRec := { counts := List.replicate 6 0, emax := 0, emin := 0, bins := List.replicate 32 0 }

theorem test_wf_governor : allIll [.govSummary 0 false { step := 2 ^ 64, tags := [] },
    .govSummary 0 false { step := 0, tags := [(256, okTag)] },
    .govSummary 0 false { step := 0, tags := [(0, { okTag with counts := [] })] },
    .govSummary 0 false { step := 0, tags := [(0, { okTag with bins := [] })] },
    .govSummary 0 false { step := 0, tags := [(0, { okTag with counts := [2 ^ 48, 0, 0, 0, 0, 0] })] },
    .govSummary 0 false { step := 0, tags := [(0, { okTag with bins := List.replicate 32 (2 ^ 48) })] }] = true := by
  decide +kernel

theorem test_wf_memory : allIll [.spoolAccess { addr := 60, len := 8, hint := 0 },
    .spoolAccess { addr := 736 * 2 ^ 30, len := 4, hint := 0 }, .spoolAccess { addr := 0, len := 4, hint := 0, write := some [0] },
    .hbmRead 32 0 .clean .host, .hbmRead (736 * 2 ^ 30) 0 .clean .host,
    .hbmRead 0 0 (.corrected 2) .host,
    .windowWork 0 { scrub := [{ pc := 0, bank := 0, row := 0, xfer := 0, res := .corrected 0 }] },
    .windowWork 0 { scrub := [{ pc := 0, bank := 0, row := 0, xfer := 0, res := .corrected 2 }] },
    .windowWork 0 { noRepair := [384] }] = true := by decide +kernel

theorem test_wf_fabric : allIll [.flitRx 0 (zeros 255) false 0 0 [], .flitRx 0 (zeros 256) false 0 0 [(9, 0)],
    .done 0 0 0 (2 ^ 48), .peerRegisterCommand 0 0 (.read 0 65536 false), .peerRegisterCommand 0 0 (.write 0 65536 false []),
    .peerRegisterCommand 0 0 (.write 0 0 false (List.replicate 49 0)), .restoreRead 0 [] (2 ^ 64), .laneSwap 0 (2 ^ 64) 0,
    .timeSync 0 (.request (2 ^ 64) 0 0), .timeSync 0 (.request 0 (2 ^ 64) 0), .timeSync 0 (.reply (2 ^ 64) 0 0 0 0),
    .timeSync 0 (.reply 0 (2 ^ 64) 0 0 0), .timeSync 0 (.reply 0 0 (2 ^ 64) 0 0), .timeSync 0 (.reply 0 0 0 (2 ^ 64) 0)] =
    true := by decide +kernel

theorem test_wf_the_rest : allIll [.slotFree 0 0 0 0 (2 ^ 32), .burnerRecord 0 (some (2 ^ 48)), .pinInput 0 false (2 ^ 64),
    .haulMsg 0 (2 ^ 64) 0 0 0, .cutMarker 0 (2 ^ 64) 0, .releaseMsg 0 (2 ^ 64) 0, .powerEval 65536 0 0,
    .powerEval 0 65536 0, .powerEval 0 0 65536, .hbmStage []] = true := by decide +kernel

/-! ### Worked examples of the spec

The expected values are the spec's own; each test names the place. -/

/-- 06 R202, "Decoding 0x0A_BCDE_F9C0": stack 3, lpc 21, q 45,400, offset 448; SID 2, bank group 0, bank 0; spool set
0x37A7 of train 1. -/
theorem test_decode_address :
    decodeAddr 0x0ABCDEF9C0 = { stack := 3, lpc := 21, q := 45400, o := 448 } ∧ bankOf 45400 448 = 32 ∧
    spoolSet 0x0ABCDEF9C0 = 16384 * 1 + 0x37A7 := by decide +kernel

/-- E4M3 codes under one MX32 block scale. -/
def e4Row (scale : Nat) (cs : List Nat) : List Val := blockValues 3 1 [scale] cs

/-- 02 worked dot products, cases 1 to 3. -/
theorem test_dot_cases_1_to_3 :
    rowSum 3 (e4Row 0xC0 [0x7E, 0xFE, 0x28, 0x2C]) (e4Row 0xC0 [0x7E, 0x7E, 0x30, 0x28]) = (0x7F600000, {}) ∧
    rowSum 3 (e4Row 0xC0 [0x7E, 0x7E, 0x28, 0x2C]) (e4Row 0xC0 [0x7E, 0x7E, 0x30, 0x28]) =
      (0x7F800000, { ovf := true }) ∧
    rowSum 3 (e4Row 0xC0 [0x7E, 0x7E, 0x28, 0x2C]) (e4Row 0xC0 [0x7E, 0x7E, 0x30, 0x7F]) =
      (0x7FC00000, { nanIn := true }) := by decide +kernel

/-- 02 worked dot products, cases 4 to 6: an E5M2 row, then BF16 rows under the window rule. -/
theorem test_dot_cases_4_to_6 :
    rowSum 4 ([0x00, 0x3C].map (decodeFmt 4)) ([0x7C, 0x3C].map (decodeFmt 4)) = (0x7FC00000, { invalid := true }) ∧
    rowSum 1 ([0x3F80, 0x3980, 0x3080].map (decodeFmt 1)) ([0x3F80, 0x3980, 0x3080].map (decodeFmt 1)) =
      (0x3F800001, {}) ∧
    rowSum 1 ([0x3F80, 0x3980].map (decodeFmt 1)) ([0x3F80, 0x3980].map (decodeFmt 1)) = (0x3F800000, {}) ∧
    rowSum 1 ([0x3F80, 0x3980, 0xB080].map (decodeFmt 1)) ([0x3F80, 0x3980, 0x3080].map (decodeFmt 1)) =
      (0x3F800001, {}) := by decide +kernel

/-- 02 R83, the table of block scales beyond the E8M0 range. -/
theorem test_block_scales_beyond_range :
    rowSum 3 (e4Row 0xC1 [0x38]) (e4Row 0xC1 [0x38]) = (0x7F800000, { ovf := true }) ∧
    rowSum 3 (e4Row 0x36 [0x39]) (e4Row 0x36 [0x39]) = (0x0000000A, { unf := true }) ∧
    rowSum 3 (e4Row 0x02 [0x7E]) (e4Row 0x02 [0x7E]) = (0, { unf := true }) := by decide +kernel

/-- 02 R98, the table of conversions. -/
theorem test_conversions :
    convert (fp32 0x43E80000) (fp32 0x3F800000) 3 .rne false 0 = { code := 0x7E, flags := {} } ∧
    convert (fp32 0x43E88000) (fp32 0x3F800000) 3 .rne false 0 = { code := 0x7E, flags := { ovf := true, clips := 1 } } ∧
    convert (fp32 0x43E88000) (fp32 0x3F800000) 3 .rne true 0 =
      { code := 0x7F, flags := { ovf := true, invalid := true } } ∧
    convert (fp32 0x47700000) (fp32 0x3F800000) 4 .rne false 0 = { code := 0x7B, flags := { ovf := true, clips := 1 } } ∧
    convert (fp32 0x47700000) (fp32 0x3F800000) 4 .rne true 0 = { code := 0x7C, flags := { ovf := true } } ∧
    convert (fp32 0x47700000) (fp32 0x3F800000) 4 .rtz true 0 = { code := 0x7B, flags := {} } := by decide +kernel

/-- 02 R99's two examples: 1.0625 to E4M3 under SR, and ADD_SR of 1.0 and 2^−25. -/
theorem test_stochastic_rounding :
    (convertVal 3 .sr false 0x9C41 (fp32 0x3F880000)).code = 0x39 ∧
    (convertVal 3 .sr false 0x63BF (fp32 0x3F880000)).code = 0x38 ∧
    (accumulate 0x3F800000 0x33000000 .sr 0xC000).1 = 0x3F800001 ∧
    (accumulate 0x3F800000 0x33000000 .sr 0xBFFF).1 = 0x3F800000 := by decide +kernel

/-- 02 R105's example: logical kite 37 of rank 0x2A5. -/
theorem test_unit_word : unitWord 0x2A5 0 37 = 0x2A502500 := by decide

/-- The run record of a small tile. -/
def runZero : OpRun := { idx := 0, cls := 1, sig := none, start := 0, slip := 0 }

/-- 03, the worked escape column: CB_GSHIFT 4, K_ACTIVE 4; entries 2, 4 and 5 of its record, scale 0x7F. -/
def escTile : Tile :=
  { run := runZero, op := { arrayFields 0 0 with kActive := 4, cbFmt := 3, cbGshift := 4 }, mode := 1, fmt := 10,
    books := [[0, 0, 0xA8, 0, 0xB0, 0x38, 0, 0, 0, 0, 0, 0, 0, 0, 0, 0x7F]] }

theorem test_escape_column :
    let c := tableColumn 4 [0x25, 0x4F, 0x01, 0x02, 0x5B] 0
    c.1 = [5, 2, 15, 4] ∧ escFailure c.1 c.2.1 = none ∧
    rowSum 3 ([0x3C, 0xC0, 0x30, 0x44].map (decodeFmt 3)) (tableWeights escTile c.1 c.2.1) = (0x41380000, {}) := by
  decide +kernel

/-- The same column with COUNT 2 fails check 2. -/
theorem test_escape_count : escCheck [5, 2, 15, 4] { count := 2, entries := [0x5B02, 0] } = 2 := by decide

/-- 03, the worked slice-mode column: INT4 at 1×1, W_BITS 16. -/
def sliceTile : Tile := { run := runZero, op := { arrayFields 0 0 with kActive := 2, wBits := 2 }, mode := 2, fmt := 9 }

theorem test_slice_column :
    sliceWeights sliceTile [0x48, 0xDE, 0xE3, 0xF0] = [1000, -300] ∧
    sliceSum ([0x3, 0xE].map (decodeFmt 9)) [1000, -300] = (0x45610000, {}) ∧
    sliceSkips sliceTile [0x75, 0, 0, 0] = 3 := by decide +kernel

/-- 03 R134's example: 11.5 × 0.0625 + 0.25 into E4M3. -/
theorem test_rescale :
    rescaleElem 3 .rne false 0 (((fp32 0x41380000).mul (fp32 0x3D800000)).add (fp32 0x3E800000), false) =
      { code := 0x38, flags := {} } := by decide +kernel

/-- 04, "a scale raised": 5,000 × 0.125 overflows E4M3, 5,000 × 0.0625 = 312.5 is 320 of its codes (spacing 32). -/
theorem test_scale_raised :
    (convert (fp32 0x459C4000) (fp32 0x3E000000) 3 .rne false 0) = { code := 0x7E, flags := { ovf := true, clips := 1 } } ∧
    (convert (fp32 0x459C4000) (fp32 0x3D800000) 3 .rne false 0) = { code := 0x7A, flags := {} } := by decide +kernel

/-- 05, bias, ReLU and quantisation: the program of three words on 10.0, −8.0 and 5,120.0 with bias 0.5, then the store
divided by 8.0. -/
def reluOf (a : Nat) : Conv :=
  storeElem 3 .rne false (.divBy 0x41000000) 0
    (fp32 ((runProgram false false [0x04010000, 0x1A000000] 0 (fp32 a) (some (fp32 0x3F000000))).t.getD 0 0))

theorem test_relu :
    reluOf 0x41200000 = { code := 0x3A, flags := {} } ∧ reluOf 0xC1000000 = { code := 0, flags := {} } ∧
    reluOf 0x45A00000 = { code := 0x7E, flags := { ovf := true, clips := 1 } } := by decide +kernel

/-- An element of a SCAN or REDUCE with an empty program. -/
def plainElem (c : Nat) : Elem := runProgram false false [] 0 (fp32 c) none

/-- 05, a segmented scan: elements 0 and 3 start segments. -/
theorem test_segmented_scan :
    ((([0x3F800000, 0x33800000, 0x33800000, 0x40400000, 0x4B800000, 0x3F800000].map plainElem).zipIdx.foldl (fun st e =>
      scanStep { vecFields 0 0 with redOp := 0 } (fun i => i == 0 || i == 3) st e.1 e.2) (0, [])).2.reverse.map
        (fun e => (toFp32 e.v).1)) =
    [0x3F800000, 0x3F800000, 0x3F800000, 0x40400000, 0x4B800002, 0x4B800002] := by decide +kernel

/-- 05, the same place: REDUCE pairs the small terms first. -/
theorem test_reduce_tree :
    (toFp32 (reduceSegment { vecFields 0 0 with redOp := 0 } 0
      ([0x3F800000, 0, 0x33800000, 0x33800000].map plainElem)).v).1 = 0x3F800001 := by decide +kernel

/-- 11, a block raised half-way round the ring: ring rank 1's first element, ring rank 2's block and ring rank 3's. -/
theorem test_winch_hops :
    (encodeBlock [0x41380000, 0x3D400000, 0x7FC00000] 0x7A).codes = [0x7C, 0x3C, 0x7F] ∧
    (hopNext 0x41400000 false 0x40880000).s = 0x41820000 ∧
    encodeBlock [0x41820000, 0x3D600000, 0x7FC00000] 0x7A =
      { codes := [0x78, 0x36, 0x7F], scale := 0x7B, raised := true } ∧
    encodeBlock [0x41500000, 0x3D600000, 0x7FC00000] 0x7B = { codes := [0x75, 0x36, 0x7F], scale := 0x7B } ∧
    wireDecode 2 0x75 0x7B = (0x41500000, false) := by decide +kernel

/-- 12, one MOMENT2 element: the words of the group's record. -/
def momentWords : List Nat := [0, 0x3F800000, 0x3E800000, 0x3F600000, 0x3F7E0000, 0x35800000, 0x3D800000, 0x3F800000]

theorem test_reel :
    reelConsts 0x3A800000 (momentWords ++ [0, 0, 0, 0, 0, 0, 0x3F800000, 0]) 1 0 0 1 =
      [0x3A800000, 0x3C000000, 0x43000000, 0x38800000, 0x3E000000, 0x3C000000] := by decide +kernel

theorem test_moment2 :
    (updMoment2 momentWords (ratesOf [0x3A800000, 0x3C000000, 0x43000000, 0x38800000, 0x3E000000, 0x3C000000])
      (fp32 0x3F800000) .zero .zero (prepGrad momentWords 0x3F000000).1).map (fun v => (toFp32 v).1) =
      [0x3F7FBC00, 0x3C800000, 0x39000000] ∧ (convertVal 1 .rne false 0 (fp32 0x3F7FBC00)).code = 0x3F80 := by
  decide +kernel

/-- 14, "a lost response": the address of REG_CFG_2 of train 3, and the word's three fields. -/
theorem test_regulator_address :
    pageBase .regulator 3 + 0x48 = 0x01302048 ∧ Nat.lor (2 ^ 31) (512 * 2 ^ 16 + 3072) = 0x82000C00 := by decide

/-! ### Canonical states -/

/-- The lines of a spool set as LinesOk asks of them. -/
def linesFit (set : Nat) (ls : List SpoolLine) : Bool :=
  decide (ls.map SpoolLine.tag).Nodup && ls.all (fun x => decide (spoolSet (x.tag * 128) = set) &&
    [x.d0, x.d1, x.k0, x.k1].all (fun o => o.all (fun d => decide (d.length = 64))))

theorem lines_of (set : Nat) (ls : List SpoolLine) (h : linesFit set ls = true) : LinesOk set ls := by
  simp only [linesFit, Bool.and_eq_true, decide_eq_true_eq, List.all_eq_true] at h
  refine ⟨h.1, fun x hx => (h.2 x hx).1, fun x hx k d hd => ?_⟩
  have f := (h.2 x hx).2
  have g (o : Option Bytes) (ho : o ∈ [x.d0, x.d1, x.k0, x.k1]) (e : o = some d) : d.length = 64 := by
    have := f o ho
    rw [e] at this
    simpa using this
  rcases hd with hd | hd
  · unfold SpoolLine.dirty at hd
    split at hd
    · exact g _ (by simp) hd
    · exact g _ (by simp) hd
  · unfold SpoolLine.kept at hd
    split at hd
    · exact g _ (by simp) hd
    · exact g _ (by simp) hd

theorem canon_lines (s : State)
    (h : (Table.wf hbmBlank s.hbm && Table.rising none s.regs && Table.rising none s.shadow) = true)
    (g : (Table.rising none s.mem.spool && s.mem.spool.all (fun e => linesFit e.1 e.2)) = true) : Canon s := by
  simp only [Bool.and_eq_true, List.all_eq_true] at h g
  exact ⟨h.1.1, h.1.2, h.2, g.1, fun e he => lines_of e.1 e.2 (g.2 e he)⟩

theorem canon_of (s : State) (h : (Table.wf hbmBlank s.hbm && Table.rising none s.regs && Table.rising none s.shadow &&
    decide (s.mem.spool = [])) = true) : Canon s := by
  simp only [Bool.and_eq_true, decide_eq_true_eq] at h
  exact canon_lines s (by simp [h.1.1.1, h.1.1.2, h.1.2]) (by rw [h.2]; rfl)

theorem clean_of (s : State) (h : s.mem.stackTab = []) (b : Nat) : faulty s b = false := by
  have : s.stack (decodeAddr b).stack = {} := by simp [State.stack, h, Table.getD]
  simp [faulty, this]

theorem readable_lines {s : State}
    (h : (Table.wf hbmBlank s.hbm && Table.rising none s.regs && Table.rising none s.shadow) = true)
    (g : (Table.rising none s.mem.spool && s.mem.spool.all (fun e => linesFit e.1 e.2) && nothingKept s) = true)
    (c : s.mem.stackTab = []) (a n : Nat) : Readable s a n := by
  rw [Bool.and_eq_true] at g
  exact ⟨canon_lines s h g.1, g.2, fun b _ _ => clean_of s c b⟩

theorem readable_of {s : State} (h : (Table.wf hbmBlank s.hbm && Table.rising none s.regs && Table.rising none s.shadow &&
    decide (s.mem.spool = [])) = true) (c : s.mem.stackTab = []) (a n : Nat) : Readable s a n := by
  have e : s.mem.spool = [] := by
    simp only [Bool.and_eq_true, decide_eq_true_eq] at h
    exact h.2
  exact ⟨canon_of s h, by rw [nothingKept, e]; rfl, fun b _ _ => clean_of s c b⟩

/-- A state with live register fields set. -/
def regsOf (l : List (Fld × Nat)) (s : State := State.reset) : State := l.foldl (fun s e => s.wr e.1 e.2) s

/-- The lines are UP and lead to the devices, in pairs (device, line). -/
def routed (l : List (Nat × Nat)) (s : State) : State :=
  l.foldl (fun s e => { s with regs := s.regs.put (routeKey e.1) (2 ^ 31 + e.2) }.wr Reg.LINE_STAT_STATE 2 e.2) s

/-! ### Hypotheses met: control commands, host memory, registers, attestation -/

def hA : CmdHdr := ⟨0, 0, 0, ⟨2, ptpMac, none, none⟩⟩
/-- A device whose start-up is over. -/
def sReady : State := regsOf [(Reg.DEV_STAT_STATE, 6), (Reg.CLK_REF_REF_OK, 1)]
/-- With a plan loaded and the time base locked. -/
def sLoaded : State := { regsOf [(Reg.PLAN_STAT_STATE, 2), (Reg.TB_SYNC_LOCKED, 1), (Reg.START_TICK_LO, 1000)] sReady with
  plan := { firstStep := 7, stepLead := 256, devices := [0], domain := [0] }, tick := 744 }
/-- In step 7 of the plan. -/
def sInStep : State := { regsOf [(Reg.STEP_STAT_STATE, 2), (Reg.STEP_NUM_LO, 7)] sLoaded with tick := 2000 }
/-- A device that answers by MAC 0 while a verdict is ready to leave. -/
def sVerdict : State := { sReady with tick := 100, sc := { sReady.sc with calendar := [⟨50, 64, ⟨2, 0, none, none⟩, 10, some [1]⟩] } }
def sMem : State := { sReady with hbm := [(5000, 9), (5001, 1)] }
def vUfw : Word := 0x80408000

/-- A state and operands for every hypothesis of ControlCommandsComplete. -/
theorem test_ControlCommandsComplete_hypotheses :
    (((inTurn sReady hA = true) ∧ (verdictDue sReady = false)) ∧
    ((inTurn sVerdict hA = true) ∧ (verdictDue sVerdict = true)) ∧
    (admitsCmd sReady hA = true) ∧
    ((inTurn sReady hA = true) ∧ (sReady.rd Reg.DEV_STAT_STATE = 6) ∧ (sReady.rd Reg.STEP_STAT_STATE = 0)) ∧
    (sReady.rd Reg.STEP_STAT_STATE = 0) ∧
    ((inTurn sLoaded hA = true) ∧ (sLoaded.rd Reg.DEV_STAT_STATE = 6) ∧ (sLoaded.rd Reg.PLAN_STAT_STATE = 2) ∧
        (sLoaded.rd Reg.STEP_STAT_STATE = 0) ∧ (sLoaded.rd Reg.TB_SYNC_LOCKED = 1) ∧ (1000 < 2 ^ 64) ∧
        (sLoaded.tick + sLoaded.plan.stepLead ≤ 1000)) ∧
    ((sLoaded.rd64 Reg.START_TICK_LO Reg.START_TICK_HI = 1000) ∧ (sLoaded.rd Reg.PLAN_STAT_STATE = 2) ∧
        (sLoaded.rd Reg.STEP_STAT_STATE = 0) ∧ (sLoaded.rd Reg.TB_SYNC_LOCKED = 1) ∧
        (sLoaded.tick + sLoaded.plan.stepLead ≤ 1000)) ∧
    ((inTurn sInStep hA = true) ∧ (sInStep.rd Reg.DEV_STAT_STATE = 6) ∧ (sInStep.rd Reg.STEP_STAT_STATE ≠ 0))) ∧
    (sInStep.rd Reg.STEP_STAT_STATE ≠ 0) :=
  ⟨by decide +kernel,
   by decide +kernel⟩

/-- A state and operands for every hypothesis of HostMemoryCommandsComplete. -/
theorem test_HostMemoryCommandsComplete_hypotheses :
    (((inTurn sMem hA = true) ∧ (sMem.rd Reg.DEV_STAT_STATE = 6) ∧ (hostRangeOk 4992 64 = true) ∧
        (mustWait sMem (sMem.rd Reg.HOST_PART_PART) 4992 64 = false)) ∧
    ((inTurn sMem hA = true) ∧ (sMem.rd Reg.DEV_STAT_STATE = 6) ∧ (hostRangeOk 5000 [7, 8, 0, 255].length = true) ∧
        (mustWait sMem (sMem.rd Reg.HOST_PART_PART) 5000 [7, 8, 0, 255].length = false)) ∧
    ((inTurn sMem hA = true) ∧ (sMem.rd Reg.DEV_STAT_STATE = 6) ∧ (sMem.rd Reg.STEP_STAT_STATE = 0) ∧
        (4996 % 4 = 0) ∧ (4996 + [1, 2, 3, 4, 5].length ≤ 2 ^ 26) ∧
        (mustWait sMem (sMem.rd Reg.HOST_PART_PART) (planByte sMem 4996) [1, 2, 3, 4, 5].length = false))) ∧
    (Readable sMem 4992 64) ∧
    (Readable sMem 5000 [7, 8, 0, 255].length) ∧
    (Readable sMem (planByte sMem 4996) [1, 2, 3, 4, 5].length) :=
  ⟨by decide +kernel,
   readable_of (by decide +kernel) rfl 4992 64,
   readable_of (by decide +kernel) rfl _ _,
   readable_of (by decide +kernel) rfl _ _⟩

/-- A state and operands for every hypothesis of SpoolWriteStoresItsRangeOnly. -/
theorem test_SpoolWriteStoresItsRangeOnly_hypotheses :
    ((nothingKept sMem = true) ∧ (¬ (5000 ≤ 5002 ∧ 5002 < 5000 + [1, 2].length)) ∧ (5000 ≤ 5001 ∧
        5001 < 5000 + [1, 2].length)) ∧
    (Canon sMem) ∧
    (∀ c, 5000 ≤ c → c < 5000 + [1, 2].length → faulty sMem c = false) :=
  ⟨by decide +kernel,
   canon_of _ (by decide +kernel),
   fun b _ _ => clean_of _ rfl b⟩

/-- A state and operands for every hypothesis of SpoolReadChangesNoByte. -/
theorem test_SpoolReadChangesNoByte_hypotheses :
    ((nothingKept sMem = true) ∧ ((0 : Nat) ≠ 3) ∧ (4991 / 128 < 5000 / 128 ∨ (5000 + 64) / 128 < 4991 / 128) ∧
        (5120 / 128 < 5000 / 128 ∨ (5000 + 64) / 128 < 5120 / 128)) ∧
    (Canon sMem) ∧
    (∀ c, 5000 ≤ c → c < 5000 + 64 → faulty sMem c = false) ∧
    (Readable sMem 5000 64) :=
  ⟨by decide +kernel,
   canon_of _ (by decide +kernel),
   fun b _ _ => clean_of _ rfl b,
   readable_of (by decide +kernel) rfl _ _⟩

/-- A state and operands for every hypothesis of RegisterCommandsComplete. -/
theorem test_RegisterCommandsComplete_hypotheses :
    ((inTurn sReady hA = true) ∧ (1 ≤ 256 ∧ 256 ≤ 256)) ∧
    ((inTurn sReady hA = true) ∧ ((0x00010000 : Word).toNat % 4 = 0) ∧
        ((readReg (heard sReady hA) (0x00010000 : Word).toNat).isSome = true)) ∧
    ((inTurn sReady hA = true) ∧ (257 = 0 ∨ 256 < 257) ∧ (257 < 2 ^ 16)) ∧
    ((inTurn sReady hA = true) ∧ ((List.replicate 256 (0 : Word)) ≠ [] ∧
        (List.replicate 256 (0 : Word)).length ≤ 256)) ∧
    ((inTurn sReady hA = true) ∧ ((0x00009048 : Word).toNat % 4 = 0) ∧
        ((writeReg (heard sReady hA) (0x00009048 : Word).toNat (0 : Word).toNat false).isSome = true)) :=
  by decide +kernel

/-- A state and operands for every hypothesis of AttestCompletes. -/
theorem test_AttestCompletes_hypotheses :
    ((inTurn sReady hA = true) ∧ (16 ≤ (List.replicate 64 (1 : BitVec 8)).length ∧
        (List.replicate 64 (1 : BitVec 8)).length ≤ 64) ∧ (sReady.rd Reg.SEC_STAT_RNG_FAIL = 0)) ∧
    ((keptReply sReady 3 7 = none) ∧ (16 ≤ (List.replicate 16 (1 : BitVec 8)).length ∧
        (List.replicate 16 (1 : BitVec 8)).length ≤ 64) ∧ (sReady.rd Reg.SEC_STAT_RNG_FAIL = 0)) :=
  by decide +kernel

/-- A state and operands for every hypothesis of HostWritesStayInTheirRange. -/
theorem test_HostWritesStayInTheirRange_hypotheses :
    ((nothingKept sMem = true) ∧ ((5000 : Nat) < 2 ^ 64 ∧ (4 : Nat) = [7, 8, 0, 255].length ∧ (4 : Nat) < 2 ^ 32) ∧
        ((5000 : Nat) < 2 ^ 32) ∧ (¬ (5000 ≤ 5004 ∧ 5004 < 5000 + [7, 8, 0, 255].length)) ∧
        (¬ (planByte sMem 5000 ≤ 4999 ∧ 4999 < planByte sMem 5000 + [7, 8, 0, 255].length))) ∧
    (Canon sMem) ∧
    (∃ t, exec (.memWrite hA 5000 4 [7, 8, 0, 255]) sMem = .next t) ∧
    (∃ t, exec (.planWrite hA 5000 4 [7, 8, 0, 255]) sMem = .next t) :=
  ⟨by decide +kernel,
   canon_of _ (by decide +kernel),
   ⟨_, rfl⟩,
   ⟨_, rfl⟩⟩

/-! ### Hypotheses met: control frames and the host port -/

def aA : HostAddr := ⟨2, ptpMac, none, none⟩
/-- A NOP frame in stream 1 with a SEQ. -/
def nopFrame (seq : Nat) : Bytes := [0x31, 0x40, 0, 0] ++ leBytes 4 seq ++ leBytes 4 0 ++ [0, 0, 0, 0]
def sHost : State := { regsOf [(Reg.DEV_STAT_STATE, 6), (Reg.CE_EXP_X, 0)] with
  host := { streams := [(1, { waiting := [(0, ⟨aA, nopFrame 0⟩)], answered := [(2 ^ 32 - 32, ⟨aA, [9]⟩)] })], dest := some aA, events := [{ source := 3, level := true, swSet := false, pend := 0, tick := 5, count := 1 }], unacked := [(4, [1, 2])] } }
/-- The same with no frame held. -/
def sTurn : State := { sHost with host := { sHost.host with streams := [] } }
/-- A host that uses UDP. -/
def uA : HostAddr := ⟨2, ptpMac, none, some ⟨77, 5000, 78, 9000⟩⟩
def sUdp : State := regsOf [(Reg.CE_CTL_CE_UDP_EN, 1), (Reg.CE_CTL_CE_UDP_PORT, 9000)] sTurn
/-- The frame of MEM_READ of 64 bytes in stream 1. -/
def readFrame : Bytes := [0x31, 0x40, 12, 0] ++ leBytes 4 0 ++ leBytes 4 0 ++ [0x10, 0, 0, 0] ++ leBytes 8 4096 ++ leBytes 4 64
def sWindow : State := { sTurn with mem := { sTurn.mem with window := some ⟨0, 0, []⟩ } }
def sVlan : State := regsOf [(Reg.PORT_CFG_VLAN_FILT, 1), (Reg.PORT_CFG_VID, 9)] sHost
def sPtp : State := { sHost with host := { sHost.host with ptp := { syncSeq := 4, syncRx := 100, origin := some 90, reqSeq := 5, reqTx := some 200 } } }
def sLink : State := regsOf [(Reg.PORT_STAT_LINK, 1), (Reg.PORT_STAT_FEC_LOCK, 1)] sHost

/-- A state and operands for every hypothesis of ControlFramesBySequence. -/
theorem test_ControlFramesBySequence_hypotheses :
    ((ctrlServed sHost = true) ∧ (accepts sHost aA (ctrlUdp sHost) = true) ∧ (parseCtrl [1, 2, 3] = none)) ∧
    ((parseCtrl (nopFrame 31)).any (fun c => !(c.opc == 1 && c.body.isEmpty) && sHost.ahead c == 31 && (Table.find
        c.seq (sHost.stream c.stream).waiting).isNone) = true) ∧
    ((ctrlServed sTurn = true ∧ accepts sTurn aA (ctrlUdp sTurn) = true) ∧
        ((parseCtrl (nopFrame 0)).any (fun c => !(c.opc == 1 && c.body.isEmpty) && sTurn.ahead c == 0 && (Table.find
        c.seq (sTurn.stream c.stream).waiting).isNone && !hostWaits (sTurn.bump Reg.RX_FRAMES_COUNT) c.opc c.body) =
        true)) ∧
    (ctrlServed sUdp = true ∧ accepts sUdp uA (ctrlUdp sUdp) = true) ∧
    ((ctrlServed sWindow = true ∧ accepts sWindow aA (ctrlUdp sWindow) = true) ∧
        ((parseCtrl readFrame).any (fun c => !(c.opc == 1 && c.body.isEmpty) && sWindow.ahead c == 0 && (Table.find
        c.seq (sWindow.stream c.stream).waiting).isNone && hostWaits (sWindow.bump Reg.RX_FRAMES_COUNT) c.opc c.body)
        = true)) ∧
    (((parseCtrl (nopFrame (2 ^ 32 - 32))).any (fun c => !(c.opc == 1 && c.body.isEmpty) && sHost.ahead c == 2 ^ 32 -
        32 && (Table.find c.seq (sHost.stream c.stream).answered).isSome) = true) ∧ (verdictDue sHost = false)) ∧
    ((parseCtrl (nopFrame 32)).any (fun c => !(c.opc == 1 && c.body.isEmpty) && sHost.ahead c == 32) = true) ∧
    ((parseCtrl (nopFrame (2 ^ 32 - 33))).any (fun c => !(c.opc == 1 && c.body.isEmpty) && sHost.ahead c == 2 ^ 32 -
        33) = true) :=
  by decide +kernel

/-- A state and operands for every hypothesis of HostPortCommandsComplete. -/
theorem test_HostPortCommandsComplete_hypotheses :
    (((ctrlServed sHost = true) ∧ (nextHeld sHost 1 = some ⟨aA, nopFrame 0⟩) ∧
        ((parseCtrl (nopFrame 0)).any (fun c => c.stream == 1 && !hostWaits sHost c.opc c.body) = true)) ∧
    ((sHost.host.dest = some aA) ∧ (sHost.host.events ≠ []) ∧ (sHost.host.unacked.length < 64) ∧
        (verdictDue sHost = false)) ∧
    ((sHost.host.dest = some aA) ∧ (Table.find (4 : Word).toNat sHost.host.unacked = some [1, 2]) ∧
        (verdictDue sHost = false)) ∧
    (RxFrame.twoTags ≠ .badFcs) ∧
    (vlanPasses sVlan (some 5) = false) ∧
    ((sPtp.host.ptp.origin = some 90) ∧ (sPtp.host.ptp.reqTx = some 200)) ∧
    (PtpMsg.announce = .announce ∨ PtpMsg.announce = .other) ∧
    ((2 ≤ sHost.rd Reg.DEV_STAT_STATE) ∧ (sHost.rd Reg.PORT_STAT_LINK = 0))) ∧
    (sLink.rd Reg.PORT_STAT_LINK = 1) :=
  ⟨by decide +kernel,
   by decide +kernel⟩

/-! ### Hypotheses met: plans, steps and their messages -/

/-- A plan image of no ops: its header with STEP_COUNT 3 and FIRST_STEP 5, and a seal group of device 0 alone. -/
def imgBody (crc : Nat) (bad : Nat) : Bytes :=
  leBytes 4 0x5A504650 ++ leBytes 2 1 ++ leBytes 2 256 ++ leBytes 4 288 ++ leBytes 4 1 ++ leBytes 4 crc ++ leBytes 4 bad
    ++ leBytes 8 77 ++ leBytes 8 5 ++ leBytes 4 3 ++ leBytes 2 0 ++ leBytes 2 1 ++ leBytes 4 0 ++ leBytes 4 256 ++ leBytes 4 0
    ++ leBytes 4 0 ++ zeros 192 ++ leBytes 2 8 ++ leBytes 2 0 ++ leBytes 4 272 ++ leBytes 4 2 ++ leBytes 4 0 ++ zeros 16
def img (bad : Nat) : Bytes := imgBody (crc32 (imgBody 0 bad)) bad
/-- Bytes at an address of empty memory. -/
def placed (a : Nat) (bs : Bytes) : List Host.Cell :=
  bs.zipIdx.filterMap (fun e => if e.1 = 0 then none else some (a + e.2, e.1))
def sPlan (bad : Nat) : State :=
  let s := regsOf [(Reg.DEV_STAT_STATE, 6), (Reg.PLAN_STAT_STATE, 1), (Reg.FAB_DEVNUM_ASSIGNED, 1)]
  { s with hbm := placed (planStart s) (img bad) }
def sPlanOk : State := sPlan 0
def sPlanBad : State := sPlan 13
/-- Its first transfer cannot be corrected. -/
def sPlanUe : State := { sPlanOk with mem := { sPlanOk.mem with stackTab := [((decodeAddr (planStart sPlanOk)).stack, { bad := [planStart sPlanOk / 64] })] } }
def sArmed : State := { regsOf [(Reg.DEV_STAT_STATE, 6), (Reg.PLAN_STAT_STATE, 2), (Reg.STEP_STAT_STATE, 1)] with
  step := { armed := some (1000, 7) }, plan := { firstStep := 7, devices := [0], domain := [0] } }
def sReplay : State := { regsOf [(Reg.DEV_STAT_STATE, 6), (Reg.PLAN_STAT_STATE, 2), (Reg.STEP_STAT_STATE, 4), (Reg.STEP_STAT_REPLAY_RUN, 15)] with
  step := { replayAt := some 1000 }, plan := { firstStep := 7, devices := [0], domain := [0] } }
def sCommit : State := { regsOf [(Reg.DEV_STAT_STATE, 6), (Reg.PT_EPOCH_EPOCH, 0xFFFFFFFF)] with step := { commitAt := [64, 100] } }
/-- In step 7, everything done, alone in its group: the root. -/
def sRun : State := { regsOf [(Reg.DEV_STAT_STATE, 6), (Reg.PLAN_STAT_STATE, 2), (Reg.STEP_STAT_STATE, 2), (Reg.STEP_NUM_LO, 7), (Reg.GOV_CTL_GOV_EN, 0), (Reg.FAB_DEVNUM_ASSIGNED, 1)] with
  plan := { firstStep := 7, devices := [0], domain := [0] }, tick := 5000 }
/-- In step 7 in a group whose root is device 3. -/
def sRun3 : State := routed [(3, 4)] { sRun with plan := { sRun.plan with devices := [3, 0], domain := [3, 0] } }
def sRunLate : State := sRun.wr Reg.GOV_STAT_TABLE_PHASE 1
/-- The root of a group of two. -/
def sRoot : State := routed [(3, 4)] { sRun with plan := { firstStep := 7, devices := [0, 3], domain := [0, 3], domains := [[0, 3]] }, step := { rootReady := [(3, 9)] } }
/-- The root with a READY counted. -/
def withReady (s : State) (d x : Nat) : State :=
  { s with step := { s.step with rootReady := s.step.rootReady.filter (fun e => e.1 != d) ++ [(d, x)] } }
def sRoot0 : State := { sRoot with step := {} }
def sRootMax : State := sRoot.wr Reg.STEP_STAT_REPLAY_RUN 3
/-- A device of the group that is not the root, its step aborted. -/
def sLeaf : State := routed [(0, 5)] ((sRoot.wr Reg.FAB_DEVNUM_DEVNUM 3).wr Reg.STEP_STAT_STATE 4)
def sRootR : State := { sRoot.wr Reg.STEP_STAT_STATE 4 with step := { rootReplay := [0] } }
def sRootR0 : State := { sRootR with step := {} }
/-- Between the root 0 and the leaf 4 of the seal tree, in no step. -/
def sMiddle : State := { routed [(0, 5), (4, 6)] ((sRoot.wr Reg.FAB_DEVNUM_DEVNUM 3).wr Reg.STEP_STAT_STATE 1) with plan := { firstStep := 7, devices := [0, 3, 2, 4], domain := [0, 3, 2, 4] } }
def sLimit : State := { sRoot with plan := { firstStep := 7, stepLimit := 10, devices := [0, 3], domain := [0, 3] } }
def sPartner : State := regsOf [(Reg.FAB_DEVNUM_DEVNUM, 3), (Reg.RANK_PAIR_PAIR_VALID, 1), (Reg.RANK_PAIR_PARTNER, 5)] sRoot
def sRootP : State := regsOf [(Reg.RANK_PAIR_PAIR_VALID, 1), (Reg.RANK_PAIR_PARTNER, 5)] sRoot

set_option maxRecDepth 40000 in
/-- A state and operands for every hypothesis of PlanCheckCompletes. -/
theorem test_PlanCheckCompletes_hypotheses :
    ((sPlanOk.rd Reg.PLAN_STAT_STATE = 1) ∧ (sPlanOk.mem.window = none) ∧
        ((readFor sPlanOk .host (planStart sPlanOk) (max 256 (min planRoom (imageSize (planHeader sPlanOk))))
        0).1.isSome = true) ∧
        (planFailure (readFor sPlanOk .host (planStart sPlanOk) (max 256 (min planRoom (imageSize (planHeader
        sPlanOk)))) 0).2 = none)) ∧
    ((sPlanBad.rd Reg.PLAN_STAT_STATE = 1) ∧ (sPlanBad.mem.window = none) ∧
        ((readFor sPlanBad .host (planStart sPlanBad) (max 256 (min planRoom (imageSize (planHeader sPlanBad))))
        0).1.isSome = true) ∧
        (planFailure (readFor sPlanBad .host (planStart sPlanBad) (max 256 (min planRoom (imageSize (planHeader
        sPlanBad)))) 0).2 = some (0x14, 1))) ∧
    ((sPlanUe.rd Reg.PLAN_STAT_STATE = 1) ∧ (sPlanUe.mem.window = none) ∧
        ((readFor sPlanUe .host (planStart sPlanUe) (max 256 (min planRoom (imageSize (planHeader sPlanUe)))) 0).1 =
        none)) :=
  by decide +kernel

/-- A state and operands for every hypothesis of StepTicksComplete. -/
theorem test_StepTicksComplete_hypotheses :
    ((sArmed.step.armed = some (1000, 7)) ∧ (1000 < 2 ^ 64 ∧ 7 < 2 ^ 64) ∧ (sArmed.islandsRun = true)) ∧
    ((sReplay.step.replayAt = some 1000) ∧ (1000 < 2 ^ 64) ∧ (sReplay.islandsRun = true) ∧
        (sReplay.rd Reg.STEP_STAT_STATE = 4)) ∧
    ((sCommit.step.commitAt = 64 :: [100]) ∧ (sCommit.islandsRun = true)) :=
  by decide +kernel

/-- A state and operands for every hypothesis of StepMessagesComplete. -/
theorem test_StepMessagesComplete_hypotheses :
    (((sRun.islandsRun = true) ∧ (sRun.rd Reg.STEP_STAT_STATE = 2) ∧ (sRun.step.isSealed = false) ∧
        (unitsDone sRun = true) ∧ (governorDone sRun = true)) ∧
    ((sRun3.islandsRun = true) ∧ (sRun3.rd Reg.STEP_STAT_STATE = 2) ∧ (sRun3.step.isSealed = false) ∧
        (unitsDone sRun3 = true) ∧ (governorDone sRun3 = true)) ∧
    ((sRunLate.islandsRun = true) ∧ (sRunLate.rd Reg.STEP_STAT_STATE = 2) ∧ (sRunLate.step.isSealed = false) ∧
        (unitsDone sRunLate = true) ∧ (governorDone sRunLate = false) ∧ (sRunLate.gov.lateSince = none)) ∧
    ((isRoot sRoot0 = true) ∧ (sRoot0.islandsRun = true) ∧ (sRoot0.inStep = true) ∧ (sRoot0.step.rootDone = false) ∧
        (sRoot0.plan.devices.contains 3 = true) ∧
        (groupIn (withReady sRoot0 3 9) ((withReady sRoot0 3 9).step.rootReady.map Prod.fst) = false)) ∧
    ((isRoot sRoot = true) ∧ (sRoot.islandsRun = true) ∧ (sRoot.inStep = true) ∧ (sRoot.step.rootDone = false) ∧
        (sRoot.plan.devices.contains 0 = true) ∧
        (groupIn (withReady sRoot 0 9) ((withReady sRoot 0 9).step.rootReady.map Prod.fst) = true) ∧
        (digestsDiffer (withReady sRoot 0 9) = false)) ∧
    ((groupIn (withReady sRoot 0 8) ((withReady sRoot 0 8).step.rootReady.map Prod.fst) = true) ∧
        (digestsDiffer (withReady sRoot 0 8) = true) ∧ (sRoot.step.diverged = 0) ∧
        (sRoot.rd Reg.STEP_STAT_REPLAY_RUN < sRoot.rd Reg.REPLAY_MAX_MAX)) ∧
    ((isRoot sRoot = true) ∧ (sRoot.islandsRun = true)) ∧
    ((isRoot sRoot = true) ∧ (sRoot.islandsRun = true) ∧ (sRoot.inStep = true) ∧ (sRoot.step.rootDone = false) ∧
        (sRoot.rd Reg.STEP_STAT_REPLAY_RUN < sRoot.rd Reg.REPLAY_MAX_MAX))) ∧
    (((isRoot sRootMax = true) ∧ (sRootMax.islandsRun = true) ∧ (sRootMax.inStep = true) ∧
        (sRootMax.step.rootDone = false) ∧ (sRootMax.rd Reg.REPLAY_MAX_MAX ≤ sRootMax.rd Reg.STEP_STAT_REPLAY_RUN) ∧
        (sRootMax.rd Reg.HD_STAT_STATE = 0)) ∧
    ((sLeaf.islandsRun = true) ∧ (sLeaf.planRuns = true) ∧ ((3 : Dev).val = sLeaf.self) ∧
        (restoresDone sLeaf = true) ∧ (sLeaf.self ≠ sLeaf.sealRoot)) ∧
    ((sRootR.islandsRun = true) ∧ (isRoot sRootR = true) ∧ (sRootR.plan.devices.contains (3 : Dev).val = true) ∧
        ((3 : Dev).val ≠ sRootR.self) ∧ (sRootR.step.replaySent = false)) ∧
    ((sRootR0.islandsRun = true) ∧ (isRoot sRootR0 = true) ∧ (sRootR0.plan.devices.contains (3 : Dev).val = true) ∧
        ((3 : Dev).val ≠ sRootR0.self) ∧ (sRootR0.step.replaySent = false)) ∧
    ((sLeaf.islandsRun = true) ∧ (sLeaf.rd Reg.STEP_STAT_STATE = 4)) ∧
    ((sMiddle.planRuns = true) ∧ (sMiddle.self ≠ sMiddle.sealRoot) ∧ ((4 : Dev).val ≠ sMiddle.self))) :=
  ⟨by decide +kernel,
   by decide +kernel⟩

/-- A state and operands for every hypothesis of StepEndsComplete. -/
theorem test_StepEndsComplete_hypotheses :
    ((sRun.islandsRun = true) ∧ (sRun.inStep = true) ∧ (sRun.step.isSealed = false) ∧ (5000 < 2 ^ 64) ∧
        (false = false ∧ lastStep sRun sRun.stepNum = false)) ∧
    ((sRun.islandsRun = true) ∧ (sRun.inStep = true) ∧ (sRun.step.isSealed = false) ∧ (sRun.step.closing = false)) ∧
    ((sMiddle.planRuns = true) ∧ (sMiddle.self ≠ sMiddle.sealRoot) ∧ (sMiddle.inStep = false)) ∧
    ((isRoot sLimit = true) ∧ (sLimit.islandsRun = true) ∧ (sLimit.plan.stepLimit ≠ 0) ∧
        (sLimit.step.isSealed = false) ∧ (sLimit.inStep = true ∨ sLimit.rd Reg.STEP_STAT_STATE = 4) ∧
        (sLimit.rd Reg.HD_STAT_STATE = 0)) ∧
    ((sPartner.islandsRun = true) ∧ (isRoot sPartner = false) ∧ (sPartner.partner = some (5 : Dev).val) ∧
        ((3 : Dev).val = sPartner.self)) ∧
    ((sRootP.islandsRun = true) ∧ (isRoot sRootP = true) ∧ (sRootP.partner ≠ some (3 : Dev).val) ∧
        (sRootP.inStep = true) ∧ (sRootP.step.rootDone = false) ∧
        (sRootP.rd Reg.STEP_STAT_REPLAY_RUN < sRootP.rd Reg.REPLAY_MAX_MAX)) :=
  by decide +kernel

/-! ### Hypotheses met: the scoring partition -/

def aS : HostAddr := ⟨2, ptpMac, none, none⟩
def words (l : List (Nat × Nat)) (s : State) : State :=
  { s with regs := l.foldl (fun (t : Table Nat) e => t.put (scKey 2 e.1) e.2) s.regs }
/-- A scoring slot 2 with a model of one layer on kite 0. -/
def sModel : State := words [(0, 2 ^ 31 + 2 ^ 24 + 3 * 2 ^ 20 + 5), (1, 2 ^ 16 + 1), (2, 840), (4, 4 * 2 ^ 16 + 1), (5, 3 * 2 ^ 28),
    (7, 0x3F800000)]
  (((((regsOf [(Reg.DEV_STAT_STATE, 6), (Reg.SC_CTL_EN, 1), (Reg.SC_PART_KMASK, 1)]).wr Reg.SC_SLOT_LIVE 1 0 2).wr
    Reg.SC_SLOT_COST_C 100 0 2).wr Reg.SC_SLOT_VERSION 5 0 2))
/-- A request of four features for slot 2 with FLOW_ID 6 and CTAG 9. -/
def scReqBytes : Bytes := leBytes 1 0x11 ++ leBytes 1 0x32 ++ leBytes 2 4 ++ leBytes 8 6 ++ leBytes 4 9 ++ [1, 2, 3, 4]
def badReq : Bytes := leBytes 1 0x11 ++ leBytes 1 0x32 ++ leBytes 2 5 ++ leBytes 8 6 ++ leBytes 4 9 ++ [1, 2, 3, 4]
def wOf (s : State) : State := ((s.bump Reg.RX_FRAMES_COUNT).passTo (1000 + 220)).bump Reg.SC_REQS_COUNT
def bOf (s : State) : Batch := (pendingBatch (wOf s) 2 (wOf s).tick).getD (openBatch (wOf s) 2)
def sPend : State := { sModel with sc := { batches := [{ (bOf sModel) with start := 1300, fin := 1400, reqs := [⟨aS, 0, 1, 2, [], 1400⟩] }], calendar := [{ v := 1400, len := 2, src := aS, rxTick := 0, body := none }] }, tick := 1210 }
def bPend : Batch := (sPend.sc.batches.head?).getD (bOf sModel)
def sBatchRun : State := { sPend with sc := { sPend.sc with batches := [{ bPend with running := true }] } }
def sVerd : State := { sModel with sc := { calendar := [{ v := 40, len := 2, src := aS, rxTick := 0, body := none }, { v := 60, len := 2, src := aS, rxTick := 0, body := some [5] }] } }
def sVal : State := { sModel.wr Reg.SC_STAT_V_BUSY 1 with sc := { validating := some 2 } }
def sVal3 : State := { (sModel.wr Reg.SC_STAT_V_BUSY 1) with sc := { validating := some 2 }, regs := sModel.regs.put (scKey 2 2) 3 }
def sLoad0 : State := sModel
def sLoadW : State := regsOf [(Reg.SC_WL_LEN_LEN, 64)] sModel
def sWl : State := { sModel.wr Reg.SC_STAT_WL_BUSY 1 with sc := { load := some ⟨1, 6291456, 4096, 64⟩ }, hbm := [(4096, 5), (4159, 6)] }
def sDwin : State := regsOf [(Reg.SC_DSEL_SLOT, 2), (Reg.SC_DSEL_WORD, 51), (Reg.SC_DSEL_AUTO_INC, 1)] sModel
def sDwin0 : State := regsOf [(Reg.SC_DSEL_WORD, 0)] sDwin

/-- A state and operands for every hypothesis of ScoringRequestsComplete. -/
theorem test_ScoringRequestsComplete_hypotheses :
    ((accepts sModel aS (scUdp sModel) = true) ∧ (16 ≤ scReqBytes.length ∧ leAt scReqBytes 0 1 = 0x11 ∧
        leAt scReqBytes 1 1 % 16 = 2) ∧
        (calFull ((sModel.bump Reg.RX_FRAMES_COUNT).passTo (1000 + 220)) aS = false) ∧
        (((sModel.bump Reg.RX_FRAMES_COUNT).passTo (1000 + 220)).islandsRun = true) ∧
        (requestStatus (wOf sModel) 2 (leAt scReqBytes 2 2) (leAt scReqBytes 1 1 / 16) scReqBytes.length = none) ∧
        (pendingBatch (wOf sModel) 2 (wOf sModel).tick = none) ∧
        (calFree (verdictLen aS) (wOf sModel).sc.calendar (openBatch (wOf sModel) 2).fin - (wOf sModel).tick ≤ 560)) ∧
    ((requestStatus (wOf sPend) 2 (leAt scReqBytes 2 2) (leAt scReqBytes 1 1 / 16) scReqBytes.length = none) ∧
        (pendingBatch (wOf sPend) 2 (wOf sPend).tick = some (bOf sPend)) ∧
        ((bOf sPend).reqs.length < batchRows (bOf sPend).words) ∧
        (calFree (verdictLen aS) (wOf sPend).sc.calendar (bOf sPend).fin - (wOf sPend).tick ≤ 560)) ∧
    (requestStatus (wOf sModel) 2 (leAt badReq 2 2) (leAt badReq 1 1 / 16) badReq.length = some 3) ∧
    ((sPend.islandsRun = true) ∧ (nextBatch sPend 2 = some bPend) ∧ (batchFree sPend bPend = true)) ∧
    ((sBatchRun.islandsRun = true) ∧ (runningBatch sBatchRun 2 = some { bPend with running := true }) ∧
        (modelEscape bPend.words (batchKites (sBatchRun.passTo bPend.fin) { bPend with running := true }) = none)) ∧
    (sVerd.sc.calendar.find? (fun y => y.body.isSome) = some
        { v := 60, len := 2, src := aS, rxTick := 0, body := some [5] }) :=
  by decide +kernel

/-- A state and operands for every hypothesis of ScoringSetupCompletes. -/
theorem test_ScoringSetupCompletes_hypotheses :
    ((sModel.rd Reg.SC_STAT_V_BUSY = 0) ∧
    ((sVal.sc.validating = some 2) ∧
        ((scCheck (scShadow sVal 2) (sVal.rdSh Reg.SC_PART_KMASK) (shadowKites sVal (sVal.rdSh Reg.SC_PART_TRAIN)
        (scKset (scShadow sVal 2)))).1 = 0)) ∧
    ((sVal3.sc.validating = some 2) ∧
        ((scCheck (scShadow sVal3 2) (sVal3.rdSh Reg.SC_PART_KMASK) (shadowKites sVal3 (sVal3.rdSh Reg.SC_PART_TRAIN)
        (scKset (scShadow sVal3 2)))).1 ≠ 0)) ∧
    ((loadRefused sLoad0 = false) ∧ (sLoad0.rd Reg.SC_WL_LEN_LEN = 0)) ∧
    ((loadRefused sLoadW = false) ∧ (sLoadW.rd Reg.SC_WL_LEN_LEN ≠ 0)) ∧
    ((canLoadWeights sWl = true) ∧ (sWl.sc.load = some ⟨1, 6291456, 4096, 64⟩)) ∧
    (sDwin.nearCommit = false) ∧
    ((sDwin0.nearCommit = false) ∧
        (dwinStored (sDwin0.rd Reg.SC_DSEL_WORD) (sDwin0.nextWord (scKey 2 0)) 0x00F00007 ≠ 0x00F00007))) ∧
    (Readable sWl 4096 64) :=
  ⟨by decide +kernel,
   readable_of (by decide +kernel) rfl _ _⟩

/-! ### Hypotheses met: kites, their ops and files -/

/-- A word with values at bit positions. -/
def bitsAt (l : List (Nat × Nat)) : Nat := l.foldl (fun a e => a + e.2 * 2 ^ e.1) 0
/-- A running step with records at the head of kite 0 and one live FP8 entry 3 in the precision table. -/
def opState (recs : List Nat) : State :=
  let s := (((regsOf [(Reg.DEV_STAT_STATE, 6), (Reg.PLAN_STAT_STATE, 2), (Reg.STEP_STAT_STATE, 2), (Reg.STEP_NUM_LO, 7),
    (Reg.OPS_COUNT_COUNT, 20), (Reg.ACC_SIZE_ACC_SIZE, 2)]).wr Reg.PT_ENTRY_LAD_LEN 1 0 3).wr Reg.PT_ENTRY_LADDER 3 0 3)
  { s with hbm := Table.storeN 0 [] (planStart s) (recs.flatMap (leBytes 16)), tick := 5000,
           plan := { firstStep := 7, devices := [0], domain := [0] } }
/-- An array op: N columns of K 4, one row, weights at byte 256 of the scratchpad, entry 3, its signal at gate 9. -/
def arrRec (n : Nat) : List Nat :=
  [bitsAt [(124, 1), (91, 1), (86, 9), (72, 1), (62, 4), (46, n), (30, 1), (29, 1), (13, 2), (5, 8)],
    bitsAt [(86, 3)]]
def arrRecH (n : Nat) : List Nat :=
  [bitsAt [(124, 1), (91, 1), (86, 9), (72, 1), (62, 4), (46, n), (30, 1), (13, 2), (5, 8)], bitsAt [(86, 3)]]
def e0 : OpEnv := { ceRows := [], ue := none }
def sArr0 : State := opState (arrRec 0)
def sArr : State := opState (arrRec 2)
def sArrH : State := { opState (arrRecH 2) with hbm := Table.storeN 0 (opState (arrRecH 2)).hbm (700 * 2 ^ 30) [1] }
def ex (c : Instr) (s : State) : State := match exec c s with | .next t => t | _ => s
def sArrL : State := ex (.arrayOp 0 (.start false)) sArr
def xL : Tile := ((sArrL.kite 0).tileNext).getD { run := ⟨0, 0, none, 0, 0, 0, 0⟩, op := headArray sArr 0 }
def sArrS : State := ex (.stationaryLoad 0 e0) sArrL
def xS : Tile := ((sArrS.kite 0).tileNext).getD xL
def sArrV : State := ex (.tileSwap 0) sArrS
def sArrC : State := ex (.arrayOp 0 (.stream e0)) sArrV
def vecRec (vop n : Nat) (nanPass : Nat) : List Nat :=
  [bitsAt [(124, 2), (91, 1), (86, 9), (83, vop), (52, n), (33, 64), (14, 128), (9, nanPass), (3, 0)],
    if vop = 4 then bitsAt [(116, 1), (50, n), (42, 1)]
    else bitsAt [(124, 1), (116, 1), (26, if vop = 3 then 0 else 0x3F800000)]]
def sV (vop n : Nat) (p : Nat) : State := opState (vecRec vop n p)
def sV00 : State := sV 0 0 1
def sV50 : State := sV 5 0 1
def sV40 : State := sV 4 0 1
def sV1 : State := sV 1 4 1
def sV0 : State := sV 0 4 1
def sV2 : State := sV 2 4 1
def sV3 : State := sV 3 4 1
def sV4 : State := sV 4 4 1
def sV5 : State := sV 5 4 0
/-- FP16 infinities without NAN_PASS into a MAP with no NaN, and a NaN that traps. -/
def sVn : State := { sV 1 4 0 with kites := [(0, { sp := [(1024, 1), (1025, 0x7F)] })] }
def sVc : State := ex (.rng 0 e0) sV5
def sMvO : State := { opState [bitsAt [(124, 4), (91, 1), (86, 9), (82, 1), (64, 2), (31, 500), (15, 1)]] with kites := [(0, { sp := [(256, 7), (300, 9)] })] }
def sMvI : State := { opState [bitsAt [(124, 4), (91, 1), (86, 9), (64, 2), (31, 0), (15, 1)]] with kites := [(0, { sp := [(256, 7), (300, 9)] })] }
def sMvC : State := ex (.move 0 e0) sMvI
def sCbf : State := { opState [bitsAt [(124, 3), (91, 1), (86, 9), (85, 1), (73, 4094), (60, 2), (44, 2)]] with kites := [(0, { sp := [(256, 7), (265, 9)] })] }
def sCbfW : State := { sCbf with kites := [(0, { sc := { copyDue := true } })] }
def sCbfC : State := ex (.cbfLoad 0 e0) sCbf
def sInv : State := opState [bitsAt [(124, 5)]]
def sSync : State := opState [bitsAt [(91, 1), (86, 31)]]
/-- A memory program of train 0 with one SYNC record at its head, by the plan's section. -/
def seqState (unit : Nat) (recs : List Nat) : State := { opState recs with plan := { firstStep := 7, devices := [0], domain := [0], progs := [(unit, (0, 160))] } }
def sSyncM : State := seqState 0 [bitsAt [(91, 1), (86, 9)]]
def sSyncW : State := seqState 1 [bitsAt [(91, 1), (86, 9)]]
def sSyncB : State := { seqState 2 [bitsAt [(91, 1), (86, 9)]] with burner := [(0, { active := true })] }
def rM : OpRun := { idx := 0, cls := 5, sig := some 9, start := 4000, slip := 0, holds := 0, flags := 0 }
def sMemC : State := { seqState 0 [bitsAt [(124, 5), (91, 1), (86, 9), (71, 3)]] with seqs := [(0, { next := 1, run := some rM })] }
def sCopy : State := { sCbf with kites := [(5, { cb := { live := [(3, 8)], copyDue := true } })] }
def sCopyB : State := sCopy.wr Reg.CB_FILE_STAT_CB_COPY_BUSY 1 5
def sFlt : State := ((sCbf.wr Reg.KITE_FAULT_CODE 7 5).wr Reg.ESC_FAULT_CAUSE 1 5).wr Reg.NAN_TRAP_INFO_VALID 1 5
def sFlt2 : State := { sFlt with kites := [(5, { fault := some ⟨6, 4, none, none⟩ })] }
def sWin : State := (((((sCbf.wr Reg.CBF_CTL_BANK 1 5).wr Reg.CBF_CTL_AUTO_INC 1 5).wr Reg.CBF_INDEX_WORD 8191 5).wr Reg.VP_CTL_BANK 1 5).wr Reg.VP_CTL_AUTO_INC 1 5).wr Reg.VP_INDEX_WORD 4095 5
/-- The same 64 ticks before a commit. -/
def sWinNear : State := { sWin with step := { sWin.step with commitAt := [sWin.tick + 63] } }

/-- A state and operands for every hypothesis of ArrayCommandsComplete. -/
theorem test_ArrayCommandsComplete_hypotheses :
    (((canStartArray sArr0 0 false = true) ∧ ((headArray sArr0 (sArr0.slotOf 0)).n = 0)) ∧
    ((canStartArray sArr 0 false = true) ∧ ((headArray sArr (sArr.slotOf 0)).n ≠ 0) ∧
        (arrayStartFaults sArr (sArr.slotOf 0) (headArray sArr (sArr.slotOf 0)) = []) ∧
        ((headArray sArr (sArr.slotOf 0)).wSrc = 1)) ∧
    ((canStartArray sArrH 0 false = true) ∧ ((headArray sArrH (sArrH.slotOf 0)).n ≠ 0) ∧
        (arrayStartFaults sArrH (sArrH.slotOf 0) (headArray sArrH (sArrH.slotOf 0)) = []) ∧
        ((headArray sArrH (sArrH.slotOf 0)).wSrc ≠ 1)) ∧
    ((canLoad sArrL (sArrL.slotOf 0) e0.together = true) ∧ ((sArrL.kite (sArrL.slotOf 0)).tileNext = some xL) ∧
        (resolveBridle sArrL (sArrL.slotOf 0) xL.op = some 1) ∧ (e0.ue = none) ∧
        (xL.op.mLoad = 0 ∨ operandEnd xL.op (stationaryFmt (loadTile sArrL (sArrL.slotOf 0) xL 1).mode (loadTile
        sArrL (sArrL.slotOf 0) xL 1).fmt xL.op) (loadTile sArrL (sArrL.slotOf 0) xL 1).blk ≤ spTop)) ∧
    ((canSwap sArrS (sArrS.slotOf 0) = true) ∧ ((sArrS.kite (sArrS.slotOf 0)).tileNext = some xS)) ∧
    ((canStream sArrV (sArrV.slotOf 0) e0.together = true) ∧ ((sArrV.kite (sArrV.slotOf 0)).tileLive = some xS) ∧
        (streamFaults sArrV (sArrV.slotOf 0) xS (streamLength sArrV (sArrV.slotOf 0) xS) = []) ∧ (e0.ue = none) ∧
        ((streamColumns sArrV (sArrV.slotOf 0) xS (streamBytes sArrV (sArrV.slotOf 0) xS (streamLength sArrV
        (sArrV.slotOf 0) xS)) (streamLength sArrV (sArrV.slotOf 0) xS)).esc = none) ∧ (xS.op.wSrc = 1))) ∧
    (HeadReadable sArr0 (sArr0.slotOf 0)) ∧
    (HeadReadable sArr (sArr.slotOf 0)) ∧
    (HeadReadable sArrH (sArrH.slotOf 0)) ∧
    (Readable sArrH (wsEntryAddr sArrH (headArray sArrH (sArrH.slotOf 0)).wAddr) 8) :=
  ⟨by decide +kernel,
   readable_of (by decide +kernel) rfl _ _,
   readable_of (by decide +kernel) rfl _ _,
   readable_of (by decide +kernel) rfl _ _,
   readable_of (by decide +kernel) rfl _ _⟩

/-- A state and operands for every hypothesis of OpCompleteCompletes. -/
theorem test_OpCompleteCompletes_hypotheses :
    ((sArrC.islandsRun = true) ∧ (sArrC.inStep = true) ∧
        (opRuns sArrC (sArrC.slotOf 0) ((sArrC.kite (sArrC.slotOf 0)).arr.headD xS.run).idx false = true) ∧
        ((sArrC.kite (sArrC.slotOf 0)).arr = ((sArrC.kite (sArrC.slotOf 0)).arr.headD xS.run) :: []) ∧
        (((sArrC.kite (sArrC.slotOf 0)).arr.headD xS.run).sig = some 9)) ∧
    ((sVc.islandsRun = true) ∧ (sVc.inStep = true) ∧ (((sVc.kite (sVc.slotOf 0)).vec.any (fun r => r.sig = some 9 ∧
        opRuns sVc (sVc.slotOf 0) r.idx false = true)) = true)) ∧
    ((sMvC.islandsRun = true) ∧ (sMvC.inStep = true) ∧
        (((sMvC.kite (sMvC.slotOf 0)).port.any (fun r => r.sig = some 9 ∧
        opRuns sMvC (sMvC.slotOf 0) r.idx false = true)) = true)) ∧
    ((sCbfC.islandsRun = true) ∧ (sCbfC.inStep = true) ∧
        (((sCbfC.kite (sCbfC.slotOf 0)).loader.any (fun r => r.sig = some 9 ∧
        opRuns sCbfC (sCbfC.slotOf 0) r.idx false = true)) = true)) ∧
    ((sMemC.islandsRun = true) ∧ (sMemC.inStep = true) ∧ ((sMemC.seqOf 0 0).run = some rM) ∧ (rM.sig = some 9)) :=
  by decide +kernel

/-- A state and operands for every hypothesis of VectorCommandsComplete. -/
theorem test_VectorCommandsComplete_hypotheses :
    (((canVector sV00 0 0 e0.together = true) ∧ ((headVector sV00 (sV00.slotOf 0)).count = 0)) ∧
    ((canVector sV0 0 0 e0.together = true ∧ (headVector sV0 (sV0.slotOf 0)).count ≠ 0 ∧
        vecStartFaults sV0 (sV0.slotOf 0) (headVector sV0 (sV0.slotOf 0)) = [] ∧ e0.ue = none) ∧
        ((0 : Nat) = 5 ∨ (headVector sV0 (sV0.slotOf 0)).nanPass = true)) ∧
    ((canVector sV1 0 1 e0.together = true ∧ (headVector sV1 (sV1.slotOf 0)).count ≠ 0 ∧
        vecStartFaults sV1 (sV1.slotOf 0) (headVector sV1 (sV1.slotOf 0)) = [] ∧ e0.ue = none) ∧
        ((1 : Nat) = 5 ∨ (headVector sV1 (sV1.slotOf 0)).nanPass = true)) ∧
    (canVector sV2 0 2 e0.together = true ∧ (headVector sV2 (sV2.slotOf 0)).count ≠ 0 ∧
        vecStartFaults sV2 (sV2.slotOf 0) (headVector sV2 (sV2.slotOf 0)) = [] ∧ e0.ue = none) ∧
    (canVector sV3 0 3 e0.together = true ∧ (headVector sV3 (sV3.slotOf 0)).count ≠ 0 ∧
        vecStartFaults sV3 (sV3.slotOf 0) (headVector sV3 (sV3.slotOf 0)) = [] ∧ e0.ue = none) ∧
    (canVector sV4 0 4 e0.together = true ∧ (headVector sV4 (sV4.slotOf 0)).count ≠ 0 ∧
        vecStartFaults sV4 (sV4.slotOf 0) (headVector sV4 (sV4.slotOf 0)) = [] ∧ e0.ue = none) ∧
    (canVector sV5 0 5 e0.together = true ∧ (headVector sV5 (sV5.slotOf 0)).count ≠ 0 ∧
        vecStartFaults sV5 (sV5.slotOf 0) (headVector sV5 (sV5.slotOf 0)) = [] ∧ e0.ue = none) ∧
    (canVector sVn 0 1 e0.together = true ∧ (headVector sVn (sVn.slotOf 0)).count ≠ 0 ∧
        vecStartFaults sVn (sVn.slotOf 0) (headVector sVn (sVn.slotOf 0)) = [] ∧ e0.ue = none ∧ sVn.slotOf 0 < 136)) ∧
    (HeadReadable sV00 (sV00.slotOf 0)) ∧
    (HeadReadable sV0 (sV0.slotOf 0)) ∧
    (HeadReadable sV1 (sV1.slotOf 0)) ∧
    (HeadReadable sV2 (sV2.slotOf 0)) ∧
    (HeadReadable sV3 (sV3.slotOf 0)) ∧
    (HeadReadable sV4 (sV4.slotOf 0)) ∧
    (HeadReadable sV5 (sV5.slotOf 0)) ∧
    (HeadReadable sVn (sVn.slotOf 0)) :=
  ⟨by decide +kernel,
   readable_of (by decide +kernel) rfl _ _,
   readable_of (by decide +kernel) rfl _ _,
   readable_of (by decide +kernel) rfl _ _,
   readable_of (by decide +kernel) rfl _ _,
   readable_of (by decide +kernel) rfl _ _,
   readable_of (by decide +kernel) rfl _ _,
   readable_of (by decide +kernel) rfl _ _,
   readable_of (by decide +kernel) rfl _ _⟩

/-- A state and operands for every hypothesis of EmptyVectorOpsDoNothing. -/
theorem test_EmptyVectorOpsDoNothing_hypotheses :
    (((canVector sV50 0 5 e0.together = true) ∧ ((headVector sV50 (sV50.slotOf 0)).count = 0) ∧
        (signalOf (headRecord sV50 (sV50.slotOf 0)) = some 9)) ∧
    ((canVector sV40 0 4 e0.together = true) ∧ ((headVector sV40 (sV40.slotOf 0)).count = 0))) ∧
    (HeadReadable sV50 (sV50.slotOf 0)) ∧
    (HeadReadable sV40 (sV40.slotOf 0)) :=
  ⟨by decide +kernel,
   readable_of (by decide +kernel) rfl _ _,
   readable_of (by decide +kernel) rfl _ _⟩

/-- A state and operands for every hypothesis of KiteOpsComplete. -/
theorem test_KiteOpsComplete_hypotheses :
    (((canMove sMvO 0 e0.together = true) ∧ (e0.ue = none) ∧ ((headMove sMvO (sMvO.slotOf 0)).len ≠ 0) ∧
        (moveOutside (headMove sMvO (sMvO.slotOf 0)) = false) ∧ ((headMove sMvO (sMvO.slotOf 0)).toHbm = true)) ∧
    ((canMove sMvI 0 e0.together = true) ∧ ((headMove sMvI (sMvI.slotOf 0)).len ≠ 0) ∧
        (moveOutside (headMove sMvI (sMvI.slotOf 0)) = false) ∧ ((headMove sMvI (sMvI.slotOf 0)).toHbm = false) ∧
        ((headMove sMvI (sMvI.slotOf 0)).hint ≠ 3)) ∧
    ((cbfDue sCbfW 0 e0.together = true) ∧ (e0.ue = none) ∧ (copyRuns sCbfW (sCbfW.slotOf 0) = true)) ∧
    ((cbfDue sCbf 0 e0.together = true) ∧ (copyRuns sCbf (sCbf.slotOf 0) = false) ∧ (e0.ue = none) ∧
        ((headCbf sCbf (sCbf.slotOf 0)).count ≠ 0) ∧
        ((headCbf sCbf (sCbf.slotOf 0)).index + (headCbf sCbf (sCbf.slotOf 0)).count ≤ fileRecords (headCbf sCbf
        (sCbf.slotOf 0)).file) ∧
        ((headCbf sCbf (sCbf.slotOf 0)).src + 4 * recordWords (headCbf sCbf (sCbf.slotOf 0)).file * (headCbf sCbf
        (sCbf.slotOf 0)).count ≤ spTop)) ∧
    ((canInvalid sInv 0 false = true) ∧ (sInv.slotOf 0 < 136) ∧ (sInv.rd Reg.KITE_FAULT_CODE (sInv.slotOf 0) = 0)) ∧
    ((canSync sSync 0 = true) ∧ (signalOf (headRecord sSync (sSync.slotOf 0)) = some 31)) ∧
    (syncDue sSyncM 0 0 = true) ∧
    ((syncDue sSyncW 0 1 = true) ∧ (winchRuns sSyncW 0 = true))) ∧
    (burnSyncDue sSyncB 0 = true) ∧
    (HeadReadable sMvO (sMvO.slotOf 0)) ∧
    (Readable sMvO (headMove sMvO (sMvO.slotOf 0)).hbmAddr (headMove sMvO (sMvO.slotOf 0)).len) ∧
    (HeadReadable sMvI (sMvI.slotOf 0)) ∧
    (Readable sMvI (headMove sMvI (sMvI.slotOf 0)).hbmAddr (headMove sMvI (sMvI.slotOf 0)).len) ∧
    (HeadReadable sCbf (sCbf.slotOf 0)) ∧
    (HeadReadable sInv (sInv.slotOf 0)) ∧
    (HeadReadable sSync (sSync.slotOf 0)) ∧
    (NextReadable sSyncM 0 0) ∧
    (NextReadable sSyncW 0 1) ∧
    (NextReadable sSyncB 0 2) :=
  ⟨by decide +kernel,
   by decide +kernel,
   readable_of (by decide +kernel) rfl _ _,
   readable_of (by decide +kernel) rfl _ _,
   readable_of (by decide +kernel) rfl _ _,
   readable_of (by decide +kernel) rfl _ _,
   readable_of (by decide +kernel) rfl _ _,
   readable_of (by decide +kernel) rfl _ _,
   readable_of (by decide +kernel) rfl _ _,
   readable_of (by decide +kernel) rfl _ _,
   readable_of (by decide +kernel) rfl _ _,
   readable_of (by decide +kernel) rfl _ _⟩

/-- A state and operands for every hypothesis of KiteFilesComplete. -/
theorem test_KiteFilesComplete_hypotheses :
    (canCopy sCopy 5 .codebook = true) ∧
    ((copyBusy sCopyB 5 .codebook = true) ∧ (sCopyB.islandsRun = true)) ∧
    ((sFlt.kite 5).fault = none) ∧
    ((sFlt2.kite 5).fault = some ⟨6, 4, none, none⟩) ∧
    ((cbfWritable sWin 5 = true) ∧ (sWin.nearCommit = false) ∧ (sWin.rd Reg.CBF_CTL_AUTO_INC 5 = 1)) ∧
    ((vpWritable sWin 5 (0x5C000001 : Word).toNat = true) ∧ (sWin.nearCommit = false) ∧
        (sWin.rd Reg.VP_CTL_AUTO_INC 5 = 1)) ∧
    ((cbfWritable sWinNear 5 = true) ∧ (sWinNear.nearCommit = true) ∧ (sWinNear.rd Reg.CBF_CTL_AUTO_INC 5 = 1)) ∧
    ((vpWritable sWinNear 5 (0x5C000001 : Word).toNat = true) ∧ (sWinNear.nearCommit = true)) :=
  by decide +kernel

/-! ### Hypotheses met: the governor and the memory system -/

def zT : TagRec := { counts := [5, 0, 0, 0, 0, 0], emax := 1, emin := 0, bins := [] }
def smA : Summary := { step := 6, tags := [(3, zT)] }
def sGov (l : List (Fld × Nat)) : State := { regsOf ([(Reg.DEV_STAT_STATE, 6), (Reg.PLAN_STAT_STATE, 2), (Reg.STEP_STAT_STATE, 2), (Reg.STEP_NUM_LO, 7), (Reg.FAB_DEVNUM_ASSIGNED, 1)] ++ l) with
  plan := { firstStep := 5, devices := [0, 3], domain := [0, 3], domains := [[0, 3]] }, gov := { sealedStep := 6 }, tick := 900 }
def sG1 : State := sGov [(Reg.GOV_STAT_STATS_PHASE, 2)]
def sG0 : State := sGov []
/-- The root of a domain of two in EXCHANGE, and the other device. -/
def sGx : State := routed [(3, 4)] { sG1 with gov := { sG1.gov with own := some [(3, zT)] } }
def sGx3 : State := routed [(0, 5)] { sG1.wr Reg.FAB_DEVNUM_DEVNUM 3 with gov := { sG1.gov with own := some [(3, zT)] }, plan := { sG1.plan with domain := [0, 3, 2, 4], domains := [[0, 3, 2, 4]] } }
def smY (s : State) : Summary := { step := smA.step, tags := addTags ((s.gov.own).getD []) smA.tags }
def sG2 : State := { sGov [(Reg.GOV_STAT_STATS_PHASE, 1)] with plan := { firstStep := 5, devices := [0], domain := [0] }, kites := [(4, { snap := [(3, zT)] })] }
def sG3 : State := { sGov [] with gov := { sealedStep := 6, domain := some smA } }
def sG4 : State := { sGov [(Reg.GOV_STAT_TABLE_PHASE, 1)] with gov := { sealedStep := 6, evalStep := some 6 } }
def sG5 : State := { sGov [(Reg.PT_EPOCH_EPOCH, 4)] with gov := { missing := [.kite 9, .winch 1] }, kites := [(9, { missed := true })] }
def sG6 : State := { regsOf [(Reg.DEV_STAT_STATE, 6), (Reg.GOV_SV_IDX_WORD, 24705), (Reg.GOV_SV_IDX_AUTO_INC, 1)] with gov := { domain := some smA } }
def sG7 : State := { regsOf [(Reg.DEV_STAT_STATE, 6), (Reg.GOV_SV_IDX_WORD, 4225), (Reg.GOV_SV_IDX_AUTO_INC, 1)] with gov := { domain := some smA } }
def sG8 : State := sGov [(Reg.GOV_STAT_TABLE_PHASE, 3)]
def sM0 : State := { regsOf [(Reg.DEV_STAT_STATE, 6)] with hbm := [(6400, 7), (6500, 3)] }
def rqR : SpoolReq := { addr := 6400, len := 64, hint := 0 }
def rqW : SpoolReq := { addr := 6400, len := 0, hint := 1, write := some [1, 2, 3], part := some 7 }
def sMw : State := { sM0 with mem := { window := some { k := 0, start := 0 } } }
def wq : Waiting := { req := rqW, since := 0 }
def sMq : State := { sM0 with mem := { queues := [(8 * trainOf 6400 + 7, [wq, wq])] } }
def trq : Train := ⟨trainOf 6400 % 8, by omega⟩
def sPin : State := { sM0 with mem := { spool := [(5, [{ tag := 9, way := 0, pin := true }]), (16384 * 3, [{ tag := 9, way := 0, pin := true }])] } }
def sRt : State := sM0.wr Reg.PC_REC_ST_STATE 4 15 31
def sNoB : State := sM0.wr Reg.MIG_STAT_BALLAST_USED 1 15
def sMwH : State := sMw.wr Reg.HD_STAT_STATE 5
def sMwS : State := { sM0 with mem := { window := some { k := 0, start := 0 }, stackTab := [(3, { xlatShadow := [(5, 777976)] })] } }
def sInt : State := sM0.wr Reg.PC_REC_ST_INTERVAL_CE 9 3 31
def sMig : State := { sM0 with mem := { stackTab := [(3, { mig := some { src := 4, dst := 31, logical := 4 } })] } }
def bitsAtF (l : List (Nat × Nat)) : Nat := l.foldl (fun a e => a + e.2 * 2 ^ e.1) 0
def sMemF (mop hint len : Nat) : State :=
  let s := regsOf [(Reg.DEV_STAT_STATE, 6), (Reg.PLAN_STAT_STATE, 2), (Reg.STEP_STAT_STATE, 2), (Reg.STEP_NUM_LO, 7)]
  { s with hbm := Table.storeN 0 [(204800, 7), (206000, 3)] (planStart s) (leBytes 16 (bitsAtF [(124, 5), (83, mop), (78, hint), (42, 100), (13, 200), (0, len)])), tick := 5000, plan := { firstStep := 7, devices := [0], domain := [0], progs := [(0, (0, 16))] } }
def sC0 : State := sMemF 0 0 1
def sC1 : State := sMemF 1 2 1
def sC2 : State := { sMemF 2 0 1 with mem := { spool := [(spoolSet 204800, [{ tag := 1600, way := 0, pin := true }])] } }
def sC3 : State := { sMemF 3 0 1 with mem := { spool := [(spoolSet 204800, [{ tag := 1600, way := 0, v0 := true, d0 := some (List.replicate 64 5) }])] } }
def sC00 : State := sMemF 0 0 0

/-- A state and operands for every hypothesis of GovernorCommandsComplete. -/
theorem test_GovernorCommandsComplete_hypotheses :
    (((sG1.islandsRun = true) ∧ (smA.step = sG1.gov.sealedStep) ∧ (sG1.rd Reg.GOV_STAT_STATS_PHASE = 2)) ∧
    ((sG0.islandsRun = true) ∧ (sG0.rd Reg.GOV_STAT_STATS_PHASE ≠ 2)) ∧
    ((sGx.islandsRun = true) ∧ (sGx.rd Reg.GOV_STAT_STATS_PHASE = 2) ∧ (sGx.gov.own = some [(3, zT)]) ∧
        (childDevs sGx = [(3 : Dev).val]) ∧ (sGx.gov.children = []) ∧ (smA.step = sGx.gov.sealedStep) ∧
        (domainIndex sGx = 0)) ∧
    ((sGx3.islandsRun = true) ∧ (sGx3.rd Reg.GOV_STAT_STATS_PHASE = 2) ∧ (sGx3.gov.own = some [(3, zT)]) ∧
        (childDevs sGx3 = [(4 : Dev).val]) ∧ (sGx3.gov.children = []) ∧ (smA.step = sGx3.gov.sealedStep) ∧
        (domainIndex sGx3 ≠ 0)) ∧
    ((sG2.rd Reg.GOV_STAT_STATS_PHASE = 1) ∧ (sG2.islandsRun = true) ∧ (sG2.domainOf.length ≤ 1)) ∧
    ((canEvaluate sG3 = true) ∧ (sG3.gov.domain = some smA)) ∧
    ((sG4.islandsRun = true) ∧ (sG4.rd Reg.GOV_STAT_TABLE_PHASE = 1) ∧ (sG4.gov.missing = []) ∧
        (sG4.gov.evalStep = some 6)) ∧
    (((Replica.kite 9) ∈ sG5.gov.missing) ∧ (sG5.islandsRun = true))) ∧
    ((sG1.planRuns = true) ∧
    ((sG6.planRuns = false) ∧ (sG6.rd Reg.GOV_SV_IDX_AUTO_INC = 1) ∧ (sG6.rd Reg.GOV_SV_IDX_WORD = 24705)) ∧
    ((sG7.planRuns = false) ∧ (sG7.rd Reg.GOV_SV_IDX_WORD < 4226)) ∧
    ((ufwOk (0x02004000 : Word).toNat = true) ∧ (getBits (0x02004000 : Word).toNat 31 1 = 0)) ∧
    ((sG8.rd Reg.GOV_STAT_TABLE_PHASE = 3) ∧ (sG8.islandsRun = true))) :=
  ⟨by decide +kernel,
   by decide +kernel⟩

/-- A state and operands for every hypothesis of SpoolCommandsComplete. -/
theorem test_SpoolCommandsComplete_hypotheses :
    (((accessOk rqR = true ∧ accessRuns sM0 rqR = true ∧ sM0.mem.window = none ∧ rqR.sram = none) ∧
        (rqR.part = none) ∧ (rqR.write = none ∧ rqR.hint.val ≠ 3)) ∧
    ((accessOk rqW = true ∧ accessRuns sM0 rqW = true ∧ sM0.mem.window = none ∧ rqW.sram = none) ∧
        (rqW.part = some 7) ∧ (sM0.mem.queues.getD (8 * trainOf rqW.addr + 7) [] = []) ∧
        (admits sM0 (trainOf rqW.addr) 7 (reqSectors rqW) = true) ∧ (rqW.write = some [1, 2, 3])) ∧
    ((accessOk rqR = true ∧ accessRuns sMw rqR = true) ∧ (sMw.mem.window = some { k := 0, start := 0 })) ∧
    ((accessOk rqW = true ∧ accessRuns sMq rqW = true ∧ sMq.mem.window = none ∧ rqW.part = some 7) ∧
        (sMq.mem.queues.getD (8 * trainOf rqW.addr + 7) [] ≠ [])) ∧
    ((sMq.mem.queues.getD (8 * trq.val + 7) [] = wq :: [wq]) ∧ (admits sMq trq 7 (reqSectors wq.req) = true) ∧
        (sMq.mem.window = none) ∧ (accessRuns sMq wq.req = true)) ∧
    (736 * 2 ^ 30 - 1 < hbmTop) ∧
    (6405 < hbmTop) ∧
    (sM0.rd Reg.UE_ADDR_HI_VALID (decodeAddr (6405 / 64 * 64)).stack ≠ 1)) ∧
    (Readable sM0 rqR.addr (reqBytes rqR)) ∧
    (Readable sM0 rqW.addr (reqBytes rqW)) :=
  ⟨by decide +kernel,
   readable_of (by decide +kernel) rfl _ _,
   readable_of (by decide +kernel) rfl _ _⟩

/-- A state and operands for every hypothesis of StackCommandsComplete. -/
theorem test_StackCommandsComplete_hypotheses :
    ((sRt.rd Reg.PC_REC_ST_STATE 15 31 = 4) ∧
    ((sRt.rd Reg.PC_REC_ST_STATE 15 31 = 4) ∧ ((sRt.stack 15).failedRetrain.getD 31 0 = 0)) ∧
    (((List.range 31).find? (fun l => sM0.ppc 15 l == 30) = some 30) ∧ (sM0.rd Reg.PC_REC_ST_STATE 15 30 ≠ 5) ∧
        (ballastFree sM0 15 = true)) ∧
    (((List.range 31).find? (fun l => sNoB.ppc 15 l == 30) = some 30) ∧ (sNoB.rd Reg.PC_REC_ST_STATE 15 30 ≠ 5) ∧
        (ballastFree sNoB 15 = false)) ∧
    ((channelServes sM0 15 30 = true) ∧ (sM0.rd Reg.PC_REC_ST_STATE 15 30 ≠ 4) ∧
        (sM0.rd Reg.PC_REC_ST_STATE 15 30 ≠ 5)) ∧
    (sM0.rd Reg.STK_TEMP_BAND 15 < bandOf (86 : BitVec 8).toInt) ∧
    (sM0.mem.window = none) ∧
    ((sMwH.mem.window = some { k := 0, start := 0 }) ∧ (2 ≤ sMwH.rd Reg.HD_STAT_STATE) ∧
        (channelActive sMwH 3 5 = true))) ∧
    ((sMw.mem.window = some { k := 0, start := 0 }) ∧
    ((sMwS.mem.window = some { k := 0, start := 0 }) ∧ (sMwS.rd Reg.HD_STAT_STATE < 2)) ∧
    ((sMig.stack 3).mig = some { src := 4, dst := 31, logical := 4 }) ∧
    (canMigrate sM0 3 30 = true)) :=
  ⟨by decide +kernel,
   by decide +kernel⟩

/-- A state and operands for every hypothesis of MemoryProgramCompletes. -/
theorem test_MemoryProgramCompletes_hypotheses :
    (((canRunMemory sC0 0 0 = true) ∧ ((memFields (nextRecord sC0 0 0)).len ≠ 0 ∧
        (memFields (nextRecord sC0 0 0)).hint ≠ 3)) ∧
    ((canRunMemory sC1 0 1 = true) ∧ ((memFields (nextRecord sC1 0 0)).len ≠ 0 ∧
        (memFields (nextRecord sC1 0 0)).hint ≠ 3)) ∧
    ((canRunMemory sC2 0 2 = true) ∧ ((memFields (nextRecord sC2 0 0)).len ≠ 0)) ∧
    ((canRunMemory sC3 0 3 = true) ∧ ((memFields (nextRecord sC3 0 0)).len ≠ 0)) ∧
    ((canRunMemory sC00 0 0 = true) ∧ ((memFields (nextRecord sC00 0 0)).len = 0))) ∧
    (NextReadable sC0 0 0) ∧
    (Readable sC0 (memFields (nextRecord sC0 0 0)).addr (memFields (nextRecord sC0 0 0)).len) ∧
    (Readable sC0 (memFields (nextRecord sC0 0 0)).dst (memFields (nextRecord sC0 0 0)).len) ∧
    (NextReadable sC1 0 0) ∧
    (Readable sC1 (memFields (nextRecord sC1 0 0)).addr (memFields (nextRecord sC1 0 0)).len) ∧
    (NextReadable sC2 0 0) ∧
    (NextReadable sC3 0 0) ∧
    (NextReadable sC00 0 0) :=
  ⟨by decide +kernel,
   readable_of (by decide +kernel) rfl _ _,
   readable_of (by decide +kernel) rfl _ _,
   readable_of (by decide +kernel) rfl _ _,
   readable_of (by decide +kernel) rfl _ _,
   readable_of (by decide +kernel) rfl _ _,
   readable_lines (by decide +kernel) (by decide +kernel) rfl _ _,
   readable_lines (by decide +kernel) (by decide +kernel) rfl _ _,
   readable_of (by decide +kernel) rfl _ _⟩

/-- A state and operands for every hypothesis of WritebackCleansItsRange. -/
theorem test_WritebackCleansItsRange_hypotheses :
    ((canRunMemory sC3 0 3 = true) ∧ ((memFields (nextRecord sC3 0 0)).len ≠ 0)) ∧
    (NextReadable sC3 0 0) :=
  ⟨by decide +kernel,
   readable_lines (by decide +kernel) (by decide +kernel) rfl _ _⟩

/-! ### Hypotheses met: flits, transfers and peer commands -/

def gSd (vc : Nat) (r : Bool) : Send := { txn := 12, vc := vc, src := 1, dst := 50, owner := .lineRecord 0 4, line := none, body := [1, 2, 3], resent := r }
def gf (vc seq dst : Nat) (ty : Nat := 2) (pl : Bytes := [7, 8]) : Flit := { ftype := ty, vc := vc, cls := 0, first := true, last := true, dst := dst, src := 48, txn := 5, ofs := 0, payload := pl, seq := seq }
def gUp (x : LineState) (l : List (Fld × Nat) := []) : State := { regsOf ([(Reg.DEV_STAT_STATE, 6), (Reg.LINE_STAT_STATE, 2), (Reg.LINE_CFG_EN, 1), (Reg.FAB_DEVNUM_ASSIGNED, 1)] ++ l) with
  fab := { lines := [(0, x)] }, tick := 500 }
def gA : State := gUp { link := [[1, 2], [3]], owed := [(4, 70)], rxSeq := 0, anyRx := true }
def gB : State := gUp { rewound := [gf 2 5 48, gf 3 6 48], replay := [gf 2 5 48, gf 3 6 48], credits := [(4, 1)] }
def gC : State := gUp { rewound := [gf 2 5 48], replay := [gf 2 5 48], credits := [(4, 0)] }
def gD : State := gUp { outq := [(4, [gf 2 0 48]), (14, [gf 7 0 48 1])], txSeq := 4095, vc7Wait := 63 }
def gE : State := gUp { replay := List.replicate 1024 (gf 2 5 48) }
def gD7 : State := gUp { outq := [(0, [gf 0 0 48]), (14, [gf 7 0 48 1])], vc7Wait := 64 }
def gIn (seq : Nat) (ty : Nat := 2) : Bytes := flitBytes (gf 2 seq 0 ty) 0 false 0 0
def gG : State := gUp { rxSeq := 4095, discarding := true }
def gH : State := gUp { rxSeq := 9 } [(Reg.FAB_DEVNUM_ASSIGNED, 0)]
def gI : State := gUp { replay := [gf 2 5 48, gf 3 6 48, gf 4 7 48], credits := [(6, 0)] }
def gJ : State := gUp { rxSeq := 9, discarding := true, askedSeq := 9, asked := 2 } [(Reg.LINE_CFG_RETRY_MAX, 3)]
def gK : State := gUp { rxSeq := 9, discarding := true, askedSeq := 9, asked := 3 } [(Reg.LINE_CFG_RETRY_MAX, 3)]
def gRt (e : Nat) (f : Flit) : State := { (gUp { rxq := [(pairKey f.vc f.cls, [f, f])] }).wr Reg.LINE_STAT_STATE 2 1 with regs := ((gUp { rxq := [] }).wr Reg.LINE_STAT_STATE 2 1).regs.put (routeKey 3) e }
def gL : State := gRt (2 ^ 31 + 1) (gf 2 0 50)
def gM : State := gRt 0 (gf 2 0 50)
def gN : State := gRt 0 (gf 2 0 12)
def gO : State := gRt 0 (gf 1 0 10)
/-- The first flit of a transfer of 100 bytes for an address, of step 8, at train 2. -/
def gData (addr step : Nat) : Flit := { gf 3 0 2 1 (descriptorBytes addr 100 none step 0 ++ List.replicate 116 7) with }
def gTr (addr step : Nat) : State := (gRt 0 (gData addr step)).wr Reg.STEP_STAT_STATE 2
def gTrS : State := gTr 4096 9
def gTrR : State := gTr (736 * 2 ^ 30 - 99) 0
def gTrP : State := { gTr 4096 0 with plan := { persistent := [(4195, 8192)] } }
def gTrH : State := { gTr 4096 9 with fab := { (gTr 4096 9).fab with lines := [(0, { rxq := [(2, [gf 1 0 8])] })] } }.wr Reg.HD_STAT_STATE 5
def gRec (len vc : Nat) : Nat := len + (1 <<< 8) + (2 <<< 36) + (3 <<< 71) + (vc <<< 83)
def gSch (r : Nat) : State :=
  let s : State := gUp {} [(Reg.STEP_STAT_STATE, 2)]
  { s with plan := { scheds := [(0, (0, 32))] }, hbm := Table.storeN 0 [(8200, 9)] (planStart s) (leBytes 16 r ++ leBytes 16 r) }
def gP : State := gSch (gRec 0 3)
def gQ : State := gSch (gRec 1 3)
def gW (ep vc : Nat) (sg : Option (Nat × Nat)) : Recv := { src := 49, ep := ep, vc := vc, txn := 77, addr := 4096, bytes := 100, expect := 116, sig := sg }
def gR : State := let s := routed [(3, 4)] (gUp {} [(Reg.STEP_STAT_STATE, 2)]); { s with fab := { s.fab with written := [gW 2 3 (some (0, 4))] } }
def gRo : State := { gR with fab := { gR.fab with written := [{ gW 2 3 none with src := 1 }] } }
def gS (vc : Nat) (r : Bool) : State := let s := routed [(3, 4)] <| gUp { undone := [3, 4] } [(Reg.STEP_STAT_STATE, 2), (Reg.STEP_NUM_LO, 8)]; { s with fab := { s.fab with sends := [gSd vc r] } }
def gS3 : State := gS 3 false
def gS0 : State := gS 0 false
def gS7 : State := gS 7 true
def gRp (l : List (Fld × Nat)) : State := routed [(3, 4)] <| gUp {} ([(Reg.RANK_PAIR_PAIR_VALID, 1), (Reg.RANK_PAIR_PARTNER, 3)] ++ l)
def gT : State := let s := gRp []; { s with recov := { restores := [{ txn := 12, addr := 4096, len := 64, burner := none }] } }
/-- What a peer's register command answers. -/
def peerAns (s : State) (op : PeerOp) : Answer :=
  match op with
  | .read addr count fixed => if s.rd Reg.FAB_CTL_PEER_RD_EN = 0 then fails s stDenied else regRead s addr.toNat count fixed 48
  | .write addr count fixed words =>
    if s.rd Reg.FAB_CTL_PEER_WR_EN = 0 then fails s stDenied
    else if words.length ≠ count then fails s stBadOp
    else regWrite s addr.toNat fixed (words.map BitVec.toNat) 48
def gOpR : PeerOp := .read 0x10000 2 false
def gOpW : PeerOp := .write 0x10038 1 false [5]
def gOpX : PeerOp := .write 0x10038 2 false [5]
def gPn : State := gRp [(Reg.FAB_CTL_PEER_RD_EN, 0)]
def gPe : State := gRp [(Reg.FAB_CTL_PEER_RD_EN, 1), (Reg.FAB_CTL_PEER_WR_EN, 1)]
def gU : State := let s := routed [(3, 4)] (gUp {}); { s with fab := { s.fab with replies := [(3, [(9, .body 0 [1, 2])])] } }
def gRb (len : Nat) : Bytes := leBytes 2 9 ++ leBytes 2 0 ++ leBytes 8 4096 ++ leBytes 4 len ++ leBytes 4 0
def gV : State := gRp []
def gX (b : Nat) : State := gRp [(Reg.ROUTE_INDEX_INDEX, 4095), (Reg.ROUTE_CTL_AUTO_INC, 1), (Reg.ROUTE_CTL_BANK, b)]
def gX0 : State := gX 0
def gXa : State := { gX 1 with step := { armed := some (563, 9) } }
def gX1 : State := { gX 1 with shadow := [(routeKey 4095, 5)] }

/-- A state and operands for every hypothesis of FlitSendCompletes. -/
theorem test_FlitSendCompletes_hypotheses :
    ((gA.lineUp 0 = true) ∧ ((gA.line 0).link = [1, 2] :: [[3]])) ∧
    ((gB.lineUp 0 = true) ∧ ((gB.line 0).link = []) ∧ ((gB.line 0).rewound = gf 2 5 48 :: [gf 3 6 48]) ∧
        (0 < creditOf (gB.line 0) (pairKey 2 0))) ∧
    ((gC.lineUp 0 = true) ∧ ((gC.line 0).link = []) ∧ ((gC.line 0).rewound = gf 2 5 48 :: []) ∧
        (creditOf (gC.line 0) (pairKey 2 0) = 0)) ∧
    ((gD.lineUp 0 = true) ∧ ((gD.line 0).link = []) ∧ ((gD.line 0).rewound = []) ∧
        ((gD.line 0).replay.length < 1024) ∧
        (chooseFlit ((flitTime gD 0).line 0) gD.islandsRun = some (gf 7 0 48 1))) ∧
    ((gE.lineUp 0 = true) ∧ ((gE.line 0).link = []) ∧ ((gE.line 0).rewound = []) ∧
        (1024 ≤ (gE.line 0).replay.length)) ∧
    (((gD7.line 0).outq.getD 14 [] ≠ []) ∧ (64 ≤ (gD7.line 0).vc7Wait) ∧ (readyFlit (gD7.line 0) 1 = none) ∧
        (readyFlit (gD7.line 0) 7 = some (gf 7 0 48 1)) ∧
        (chooseFlit ((flitTime gD7 0).line 0) true = some (gf 7 0 48 1) ∧ ((flitTime gD7 0).line 0).vc7Wait = 65)) ∧
    (gA.lineUp 0 = true) :=
  by decide +kernel

/-- A state and operands for every hypothesis of FlitArrivalCompletes. -/
theorem test_FlitArrivalCompletes_hypotheses :
    (((gG.lineUp 0 = true) ∧ (flitGood (gIn 4095) = true) ∧ (gG.assigned = true) ∧
        ((parseFlit (gIn 4095)).ftype = 2) ∧ ((parseFlit (gIn 4095)).seq = (gG.line 0).rxSeq)) ∧
    ((gG.lineUp 0 = true) ∧ (flitGood (gIn 3) = true) ∧ (gG.assigned = true) ∧ ((parseFlit (gIn 3)).ftype = 2) ∧
        ((parseFlit (gIn 3)).seq ≠ (gG.line 0).rxSeq)) ∧
    ((gG.lineUp 0 = true) ∧ (flitGood (gIn 3 3) = true) ∧ ((parseFlit (gIn 3 3)).ftype = 3)) ∧
    ((gH.lineUp 0 = true) ∧ (flitGood (gIn 9) = true) ∧ (gH.assigned = false)) ∧
    ((gH.lineUp 0 = true) ∧ ((gH.line 0).discarding = false)) ∧
    ((gH.lineUp 0 = true) ∧ (flitGood [1, 2] = false)) ∧
    ((gI.lineUp 0 = true) ∧ ((gI.line 0).replay.findIdx? (fun f => f.seq == 6) = some 1)) ∧
    ((gJ.lineUp 0 = true) ∧ ((gJ.line 0).discarding = true) ∧ (retriesSpent gJ 0 = false))) ∧
    ((gK.lineUp 0 = true) ∧ ((gK.line 0).discarding = true) ∧ (retriesSpent gK 0 = true)) :=
  ⟨by decide +kernel,
   by decide +kernel⟩

/-- A state and operands for every hypothesis of DataFlitCompletes. -/
theorem test_DataFlitCompletes_hypotheses :
    (((gL.line 0).rxq.getD (pairKey 2 0) [] = gf 2 0 50 :: [gf 2 0 50]) ∧ (gL.assigned = true) ∧
        (gL.islandsRun = true) ∧ (landWaits gL (gf 2 0 50) = false) ∧ (routeLine gL 3 = some 1) ∧
        ((gf 2 0 50).dst / 16 ≠ gL.self)) ∧
    (((gM.line 0).rxq.getD (pairKey 2 0) [] = gf 2 0 50 :: [gf 2 0 50]) ∧ (gM.assigned = true) ∧
        (gM.islandsRun = true) ∧ (landWaits gM (gf 2 0 50) = false) ∧ (routeLine gM 3 = none) ∧
        ((gf 2 0 50).dst / 16 ≠ gM.self)) ∧
    (((gN.line 0).rxq.getD (pairKey 2 0) [] = gf 2 0 12 :: [gf 2 0 12]) ∧ (gN.assigned = true) ∧
        (gN.islandsRun = true) ∧ (landWaits gN (gf 2 0 12) = false) ∧ ((gf 2 0 12).dst / 16 = gN.self) ∧
        (11 ≤ (gf 2 0 12).dst % 16)) ∧
    (((gO.line 0).rxq.getD (pairKey 1 0) [] = gf 1 0 10 :: [gf 1 0 10]) ∧ (gO.assigned = true) ∧
        (gO.islandsRun = true) ∧ (landWaits gO (gf 1 0 10) = false) ∧ ((gf 1 0 10).dst / 16 = gO.self) ∧
        ((gf 1 0 10).dst % 16 < 9 ∨ (gf 1 0 10).dst % 16 = 10) ∧ ((gf 1 0 10).ftype = 2)) ∧
    (((gTrS.line 0).rxq.getD (pairKey 3 0) [] = gData 4096 9 :: [gData 4096 9]) ∧ (gTrS.assigned = true ∧
        gTrS.islandsRun = true ∧ landWaits gTrS (gData 4096 9) = false) ∧ ((gData 4096 9).dst / 16 = gTrS.self ∧
        (gData 4096 9).dst % 16 ≤ 7 ∧ (gData 4096 9).ftype ≠ 2 ∧ (gData 4096 9).first = true ∧
        (gData 4096 9).ofs = 0 ∧ gTrS.sinkMode = false) ∧ (openRecv gTrS 48 2 3 = none) ∧
        (judge gTrS 3 2 ((gData 4096 9).payload.take 16) = .stale)) ∧
    (((gTrR.line 0).rxq.getD (pairKey 3 0) [] = gData (736 * 2 ^ 30 - 99) 0 :: [gData (736 * 2 ^ 30 - 99) 0]) ∧
        (gTrR.assigned = true ∧ gTrR.islandsRun = true ∧ landWaits gTrR (gData (736 * 2 ^ 30 - 99) 0) = false) ∧
        (openRecv gTrR 48 2 3 = none) ∧ (judge gTrR 3 2 ((gData (736 * 2 ^ 30 - 99) 0).payload.take 16) = .range)) ∧
    (((gTrP.line 0).rxq.getD (pairKey 3 0) [] = gData 4096 0 :: [gData 4096 0]) ∧ (gTrP.assigned = true ∧
        gTrP.islandsRun = true ∧ landWaits gTrP (gData 4096 0) = false) ∧ (openRecv gTrP 48 2 3 = none) ∧
        (judge gTrP 3 2 ((gData 4096 0).payload.take 16) = .persist)) ∧
    (((gTrH.line 0).rxq.getD (pairKey 1 0) [] = gf 1 0 8 :: []) ∧ (gTrH.assigned = true ∧ gTrH.islandsRun = false ∧
        gondolaFlit gTrH (gf 1 0 8) = true ∧ landWaits gTrH (gf 1 0 8) = false)) :=
  by decide +kernel

/-- A state and operands for every hypothesis of TransferCommandsComplete. -/
theorem test_TransferCommandsComplete_hypotheses :
    (((lineDue gP 0 = true) ∧ ((lineFields (schedRecord gP 0)).len = 0)) ∧
    ((lineDue gQ 0 = true) ∧ ((lineFields (schedRecord gQ 0)).len ≠ 0)) ∧
    ((writtenRecv gR 3 2 3 = some (gW 2 3 (some (0, 4)))) ∧ (canWritten gR (gW 2 3 (some (0, 4))) = true)) ∧
    ((writtenRecv gRo 0 2 3 = some { gW 2 3 none with src := 1 }) ∧
        (canWritten gRo { gW 2 3 none with src := 1 } = true)) ∧
    (sendOf gS3 3 3 12 = some (gSd 3 false)) ∧
    ((restoreOf gS3 3 3 12 = none) ∧ (sendOf gS3 3 3 12 = some (gSd 3 false)) ∧ (gS3.inStep = true) ∧
        (gS3.step.isSealed = false)) ∧
    ((restoreOf gS0 3 0 12 = none) ∧ (sendOf gS0 3 0 12 = some (gSd 0 false))) ∧
    ((restoreOf gS7 3 7 12 = none) ∧ (sendOf gS7 3 7 12 = some (gSd 7 true)))) ∧
    (restoreOf gT 3 7 12 = some { txn := 12, addr := 4096, len := 64, burner := none }) ∧
    (Readable gP (planRecordAddr gP (gP.plan.scheds.getD 0 (0, 0)).1 (gP.line 0).next) 16) ∧
    (Readable gQ (planRecordAddr gQ (gQ.plan.scheds.getD 0 (0, 0)).1 (gQ.line 0).next) 16) ∧
    (Readable gQ (lineFields (schedRecord gQ 0)).src (lineFields (schedRecord gQ 0)).len) :=
  ⟨by decide +kernel,
   by decide +kernel,
   readable_of (by decide +kernel) rfl _ _,
   readable_of (by decide +kernel) rfl _ _,
   readable_of (by decide +kernel) rfl _ _⟩

/-- A state and operands for every hypothesis of PeerCommandsComplete. -/
theorem test_PeerCommandsComplete_hypotheses :
    ((keptReply gPe 3 (9 : BitVec 16).toNat = none) ∧
    (keptReply gPn 3 (9 : BitVec 16).toNat = none) ∧
    (keptReply gU 3 (9 : BitVec 16).toNat = some (.body 0 [1, 2])) ∧
    ((gU.islandsRun = true) ∧ (gU.partner ≠ some 3) ∧ (restoreWaits gU (restoreBody (gRb 2048)) 0 = false)) ∧
    ((gV.partner = some 3) ∧ (gV.mem.window.isSome = false) ∧ (keptReply gV 3 (restoreBody (gRb 2047)).txn = none) ∧
        ((restoreBody (gRb 2047)).burner = false) ∧ (restoreRangeOk (restoreBody (gRb 2047)) = false)) ∧
    ((gV.partner = some 3) ∧ (gV.mem.window.isSome = false) ∧ (keptReply gV 3 (restoreBody (gRb 2048)).txn = none) ∧
        ((restoreBody (gRb 2048)).burner = false) ∧ (restoreRangeOk (restoreBody (gRb 2048)) = true)) ∧
    ((0 : Dev).val = gV.self) ∧
    ((routeOk gX0 (0x8000FC00 : Word).toNat = true) ∧ (gX0.step.armed = none) ∧ (gX0.step.commitAt = []))) ∧
    (((routeOk gXa (0x8000FC00 : Word).toNat = true) ∧ (gXa.step.armed = some (563, 9)) ∧ (gXa.tick ≤ 563 ∧
        563 < gXa.tick + 64)) ∧
    (gX1.rd Reg.ROUTE_CTL_BANK = 1)) ∧
    (Readable gV (restoreBody (gRb 2048)).addr (restoreBody (gRb 2048)).len) :=
  ⟨by decide +kernel,
   by decide +kernel,
   readable_of (by decide +kernel) rfl _ _⟩

/-! ### Hypotheses met: lines, lanes and the time base -/

def hL (x : LineState) (st : Nat) (l : List (Fld × Nat) := []) (dev : List (Fld × Nat) := []) : State :=
  let s := regsOf ([(Reg.DEV_STAT_STATE, 6), (Reg.FAB_DEVNUM_ASSIGNED, 1), (Reg.FAB_TB_TB_MASTER, 3)] ++ dev)
  { l.foldl (fun s e => s.wr e.1 e.2 31) ((s.wr Reg.LINE_STAT_STATE st 31).wr Reg.LINE_CFG_EN 1 31) with fab := { lines := [(31, x)] }, tick := 500 }
def hAH : State := hL {} 2
def hI : IdentInfo := { dev := 4095, assigned := true, line := 31, dist := 31, master := 3, serial := 7 }
def hB : State := (hL {} 0 [] [(Reg.DEV_STAT_STATE, 5)]).wr Reg.LINE_CFG_EN 0 1
def hB2 : State := (List.range 31).foldl (fun s l => s.wr Reg.LINE_STAT_STATE 2 l) (hL {} 2)
def hC : State := hL { laneMap := [0, 1, 2, 3, 4, 5, 6, 8] } 1
def hD : State := hL {} 2 [] [(Reg.STEP_STAT_STATE, 1)]
/-- An UP line whose neighbour is known. -/
def hAn : State := hAH.wr Reg.NBR_VALID 1 0 31
/-- Discovery waits only for line 31. -/
def hAd : State := (List.range 31).foldl (fun s l => s.wr Reg.LINE_STAT_STATE 2 l) ((hL {} 1).wr Reg.FAB_STAT_DISC_STATE 1)
def hE : State := hL {} 3
def hF : State := (hL {} 2 [(Reg.LANE_THRESH_LANE_CE_THRESH, 4), (Reg.LANE_BALLAST_PHYS, 8)]).wr Reg.LANE_REC_ST_INTERVAL_ERR 5 31 7
def hG : State := hL { laneSwap := some (40, 7) } 2 [(Reg.LANE_BALLAST_PHYS, 8)]
def hH : State := hL {} 2 [(Reg.LANE_BALLAST_BALLAST_USED, 1)]
def hT (st : Nat) (l : List (Fld × Nat)) : State := let s := (hL {} st [] l).wr Reg.NBR_PEER_DIST 15 0 31; { s with fab := { s.fab with parent := some 31 } }
def hT0 : State := hT 2 []
def hT1 : State := hT 2 [(Reg.TB_SYNC_LOADED, 1)]
def hT2 : State := hT 2 [(Reg.TB_SYNC_LOADED, 1), (Reg.TB_SYNC_LOCKED, 1)]
def hS1 : State := hT 2 [(Reg.TB_SYNC_LOCKED, 1), (Reg.FAB_TB_TB_BACKUP, 5)]
def hS2 : State := (hT 0 []).wr Reg.FAB_TB_TB_BACKUP 0
def hM : State := { hAH with tb := { running := true }, tick := 2 ^ 64 - 1 }

/-- A state and operands for every hypothesis of LineCommandsComplete. -/
theorem test_LineCommandsComplete_hypotheses :
    (((hAH.lineUp 31 = true) ∧ (nbrChanged hAH 31 hI = true)) ∧
    (hB.rd Reg.DEV_STAT_STATE = 5) ∧
    ((hB.rd Reg.LINE_CFG_EN 31 = 1) ∧ (hB.rd Reg.LINE_STAT_STATE 31 = 0)) ∧
    (((List.finRange 32).all (fun l => hB2.rd Reg.LINE_CFG_EN l.val != 1 || hB2.lineUp l.val)) = true) ∧
    (hC.rd Reg.LINE_STAT_STATE 31 = 1) ∧
    (hAH.planRuns = false) ∧
    (hD.planRuns = true) ∧
    ((hAn.lineUp 31 = true) ∧ (hAn.rd Reg.NBR_VALID 0 31 ≠ 0))) ∧
    ((hAH.lineUp 31 = true) ∧
    (hC.lineUp 31 = false) ∧
    (getBits (0x00001200 : Word).toNat 31 1 = 0) ∧
    ((getBits (0x00001200 : Word).toNat 31 1 = 0) ∧
        (hAd.rd Reg.FAB_STAT_DISC_STATE = 1 ∨ hAd.rd Reg.FAB_STAT_DISC_STATE = 2) ∧
        (((List.finRange 32).all (fun m => m == 31 || hAd.rd Reg.LINE_CFG_EN m.val != 1 || hAd.lineUp m.val ||
        (hAd.line m.val).timedOut)) = true)) ∧
    ((getBits (0x80000000 : Word).toNat 31 1 = 1) ∧ (hE.rd Reg.LINE_STAT_STATE 31 = 3) ∧
        (getBits (0x80000000 : Word).toNat 26 2 = hE.rd Reg.LINE_CFG_MEDIA 31)) ∧
    ((getBits (0x84000000 : Word).toNat 31 1 = 1) ∧ (hAH.rd Reg.LINE_STAT_STATE 31 = 2) ∧
        (getBits (0x84000000 : Word).toNat 26 2 ≠ hAH.rd Reg.LINE_CFG_MEDIA 31) ∧
        (getBits (0x84000000 : Word).toNat 26 2 ≠ 3))) :=
  ⟨by decide +kernel,
   by decide +kernel⟩

/-- A state and operands for every hypothesis of LaneCommandsComplete. -/
theorem test_LaneCommandsComplete_hypotheses :
    ((hF.lineUp 31 = true) ∧ (worstLane hF 31 = some 7) ∧ ((ballastLane hF 31).isSome = true) ∧
        ((hF.line 31).laneSwap = none)) ∧
    ((hF.lineUp 31 = true) ∧ ((ballastLane hF 31).isSome = true)) ∧
    ((hG.lineUp 31 = true) ∧ ((hG.line 31).laneSwap = some (40, 7)) ∧ (ballastLane hG 31 = some 8) ∧
        ((hG.line 31).laneMap.getD 7 0 < 9) ∧ ((hG.line 31).laneMap.getD 7 0 ≠ 8)) ∧
    ((hF.lineUp 31 = true) ∧ (ballastLane hF 31 = some 8)) ∧
    ((hH.lineUp 31 = true) ∧ (ballastLane hH 31 = none)) ∧
    ((hF.lineUp 31 && (ballastLane hF 31).isSome) = true) ∧
    ((hH.lineUp 31 && (ballastLane hH 31).isSome) = false) :=
  by decide +kernel

/-- A state and operands for every hypothesis of TimeBaseCommandsComplete. -/
theorem test_TimeBaseCommandsComplete_hypotheses :
    ((hT0.fab.parent = some 31) ∧ (hT0.lineUp 31 = true)) ∧
    ((hT0.lineUp 31 = true) ∧ (hT0.rd Reg.NBR_PEER_DIST 0 31 ≠ 33 % 32) ∧ (isMaster hT0 = false)) ∧
    ((hT0.lineUp 31 = true) ∧ (hT0.fab.parent = some 31) ∧ (hT0.rd Reg.NBR_PEER_DIST 0 31 = 15 % 32) ∧
        (15 % 32 < 16) ∧ (hT0.rd Reg.TB_SYNC_LOADED = 0)) ∧
    ((hT1.lineUp 31 = true) ∧ (hT1.fab.parent = some 31) ∧ (hT1.rd Reg.NBR_PEER_DIST 0 31 = 15 % 32) ∧
        (15 % 32 < 16) ∧ (hT1.rd Reg.TB_SYNC_LOADED ≠ 0) ∧ (-32 ≤ offset2 hT1 31 8000 8024 8024 8016 ∧
        offset2 hT1 31 8000 8024 8024 8016 ≤ 32)) ∧
    ((hT2.lineUp 31 = true) ∧ (hT2.fab.parent = some 31) ∧ (hT2.rd Reg.NBR_PEER_DIST 0 31 = 15 % 32) ∧
        (15 % 32 < 16) ∧ (hT2.rd Reg.TB_SYNC_LOADED ≠ 0) ∧ (32 < offset2 hT2 31 8000 8033 8033 8000) ∧
        (hT2.rd Reg.TB_SYNC_LOCKED = 1)) ∧
    ((isMaster hS1 = false) ∧ (hS1.rd Reg.TB_SYNC_LOCKED = 1) ∧ (hS1.rd Reg.FAB_TB_TB_BACKUP ≠ hS1.self)) ∧
    ((isMaster hS2 = false) ∧ (((List.finRange 32).all (fun l => !hS2.lineUp l.val)) = true) ∧
        (hS2.assigned = true) ∧ (hS2.rd Reg.FAB_TB_TB_BACKUP = hS2.self) ∧ (hS2.fab.tookOver = false)) ∧
    ((hM.tb.running = true) ∧ (hM.tick < 2 ^ 64)) :=
  by decide +kernel

/-! ### Hypotheses met: the winch -/

def iDesc (count acc wire fmt : Nat) (bad : Nat := 0) : Bytes := leBytes 5 4096 ++ leBytes 5 (8192 + bad) ++ leBytes 5 12288 ++ leBytes 5 16384 ++ leBytes 4 count ++ leBytes 2 77 ++ leBytes 2 acc ++ leBytes 1 255 ++ leBytes 1 9 ++ leBytes 1 (wire + 4 * fmt) ++ leBytes 1 0
def iRec : Nat := (4 <<< 124) + (5 <<< 83) + (7 <<< 80) + (3 <<< 64) + (2 <<< 57)
def iS (desc : Bytes) (step : Nat) (l : List (Fld × Nat) := []) : State :=
  let s := regsOf [(Reg.DEV_STAT_STATE, 6), (Reg.STEP_STAT_STATE, 2), (Reg.STEP_NUM_LO, step), (Reg.FAB_DEVNUM_ASSIGNED, 1)]
  let s := ((s.wr Reg.WN_DESC_BASE_BASE 2 7).wr Reg.WG_CFG_W0_VALID 1 7 7).wr Reg.WG_CFG_W0_SIZE 2 7 7
  let s := l.foldl (fun s e => s.wr e.1 e.2 7 7) s
  { s with plan := { progs := [(29, (0, 16))], firstStep := 5 }, tick := 900, hbm := Table.storeN 0 (Table.storeN 0 (Table.storeN 0 [] 608 desc) 4096 [0, 0, 128, 63, 0, 0, 0, 64]) (planStart s) (leBytes 16 iRec) }
def iA : State := iS (iDesc 0 1 0 0) 7
def iB : State := iS (iDesc 2 256 0 0) 5
def iC : State := iS (iDesc 2 2 0 0) 6
def iW : WinchDesc := { grad := 4096, result := 8192, lacc := 12288, scale := 16384, count := 2, stream := 77, accSteps := 2, pgroup := 255, gtag := 9, wire := 0, gradFmt := 0, gts := false, decay := false, zeroBits := true }
def iRun (rank : Nat) : WinchRun := { idx := 0, ctx := 7, desc := 3, d := { iW with accSteps := 1 }, sig := some 4, kite := 2, part := 5, start := 800, accOnly := false, rho := 2, size := 2, rank := rank }
def iX (r : WinchRun) (l : List (Fld × Nat) := []) : State := { iS (iDesc 2 1 0 0) 7 l with winch := [(7, { runs := [(7, r)] })], seqs := [(29, { next := 1 })] }
def iD : State := iX (iRun 0)
def iG : Segment := { elems := 2, data := [0, 0, 128, 63, 0, 0, 0, 64], scales := [], firstNan := 0xFFFFFFFF, nanRank := 0, raises := 0 }
def iTr : Bytes := iG.data ++ (leBytes 4 0 ++ leBytes 4 2 ++ leBytes 4 0xFFFFFFFF ++ leBytes 2 0 ++ leBytes 2 1 ++ leBytes 4 0 ++ leBytes 1 (1 + 14) ++ zeros 3 ++ leBytes 4 2 ++ leBytes 4 (crc32 iG.data))
def iE : State := { iX { iRun 0 with lap1 := 1, doneP := 1, arrived := [(2, 1)] } with winch := [(7, { runs := [(7, { iRun 0 with lap1 := 1, doneP := 1, arrived := [(2, 1)] })], staged := [(16 * 7 + 8, { src := 55, addr := 20480, bytes := iTr, since := 800, checked := true })] })], hbm := Table.storeN 0 (iX (iRun 0)).hbm 20480 iTr }
def iF : State := iX { iRun 0 with lap1 := 1, outP := [(0, 0, iG)], outB := [(0, 0, iG)] } [(Reg.WG_CFG_W1_NEXT_P, 6), (Reg.WG_CFG_W1_NEXT_B, 4095), (Reg.WG_CFG_W1_NEXT_B_VALID, 1)]
def iFr : WinchRun := { iRun 0 with lap1 := 1, outP := [(0, 0, iG)], outB := [(0, 0, iG)] }
def iFf : State := { iF with winch := [(7, { runs := [(7, iFr)], unfreed := [⟨7, true, 1, 9, 0⟩, ⟨7, false, 1, 9, 0⟩] })] }
def iH : State := iX { iRun 0 with lap1 := 1, lap2 := 1, doneP := 1 }
def iHb : State := iX { iRun 0 with lap1 := 1, lap2 := 1, doneP := 1, outB := [(0, 0, iG)] }
def iI : State := iS (iDesc 2 1 0 0) 7 [(Reg.WG_CFG_W0_VALID, 0)]
def iJ : State := iS (iDesc 2 1 0 0 1) 7
def iJ0 : State := iS (iDesc 2 257 0 0) 7
def iK : State := { iB with winch := [(7, { streams := [77] })] }
def iFt : State := (iS (iDesc 2 1 0 0) 7).wr Reg.WN_FAULT_CODE 5 7

/-- A state and operands for every hypothesis of WinchRecordStarts. -/
theorem test_WinchRecordStarts_hypotheses :
    (((winchDue iA 7 = true) ∧ (iA.rd Reg.WG_CFG_W0_VALID 7 (winchFields (nextRecord iA 7 1)).ctx ≠ 0) ∧
        (iA.rd Reg.WN_DESC_BASE_BASE 7 * 256 + 32 * (winchFields (nextRecord iA 7 1)).desc + 32 ≤ hbmTop) ∧
        (descBad (parseDesc (memBytes iA 608 32)) = false) ∧ ((parseDesc (memBytes iA 608 32)).accSteps = 1) ∧
        ((parseDesc (memBytes iA 608 32)).count = 0)) ∧
    ((winchDue iB 7 = true) ∧ (iB.rd Reg.WG_CFG_W0_VALID 7 (winchFields (nextRecord iB 7 1)).ctx ≠ 0) ∧
        (iB.rd Reg.WN_DESC_BASE_BASE 7 * 256 + 32 * (winchFields (nextRecord iB 7 1)).desc + 32 ≤ hbmTop) ∧
        (descBad (parseDesc (memBytes iB 608 32)) = false) ∧
        ((iB.winchOf 7).streams.contains (parseDesc (memBytes iB 608 32)).stream = false) ∧
        ((parseDesc (memBytes iB 608 32)).count ≠ 0) ∧
        (windowPos iB (parseDesc (memBytes iB 608 32)) + 1 ≠ (parseDesc (memBytes iB 608 32)).accSteps)) ∧
    ((winchDue iC 7 = true) ∧ (iC.rd Reg.WG_CFG_W0_VALID 7 (winchFields (nextRecord iC 7 1)).ctx ≠ 0) ∧
        (iC.rd Reg.WN_DESC_BASE_BASE 7 * 256 + 32 * (winchFields (nextRecord iC 7 1)).desc + 32 ≤ hbmTop) ∧
        (descBad (parseDesc (memBytes iC 608 32)) = false) ∧
        ((iC.winchOf 7).streams.contains (parseDesc (memBytes iC 608 32)).stream = false) ∧
        ((parseDesc (memBytes iC 608 32)).count ≠ 0) ∧
        (windowPos iC (parseDesc (memBytes iC 608 32)) + 1 = (parseDesc (memBytes iC 608 32)).accSteps) ∧
        ((iC.winchOf 7).staged.filter (fun e => e.1 / 16 = 7) = []))) ∧
    (∀ x n, Readable iA x n) ∧
    (∀ x n, Readable iB x n) ∧
    (∀ x n, Readable iC x n) :=
  ⟨by decide +kernel,
   fun x n => readable_of (by decide +kernel) rfl x n,
   fun x n => readable_of (by decide +kernel) rfl x n,
   fun x n => readable_of (by decide +kernel) rfl x n⟩

/-- A state and operands for every hypothesis of WinchCommandsComplete. -/
theorem test_WinchCommandsComplete_hypotheses :
    (((nextContext iD 7 = some (iRun 0, 0, 0)) ∧ (winchWorks iD 7 = true)) ∧
    ((nextContext iE 7 = some ({ iRun 0 with lap1 := 1, doneP := 1, arrived := [(2, 1)] }, 1, 0)) ∧
        (winchWorks iE 7 = true)) ∧
    ((nextSend iF 7 7 true = some ({ iRun 0 with lap1 := 1, outP := [(0, 0, iG)], outB := [(0, 0, iG)] }, 0, 0, iG))
        ∧ (winchWorks iF 7 = true)) ∧
    ((Table.find (7 : Fin 8).val (iFf.winchOf 7).runs = some iFr) ∧ (iFr.ctx = 7) ∧
        ((6 : Dev).val = iFf.rd Reg.WG_CFG_W1_NEXT_P 7 7) ∧
        ((iFf.winchOf 7).unfreed.find? (fun e => e.ctx == 7 && e.backup == false && e.lap == 1 && e.seg == 9) = some
        ⟨7, false, 1, 9, 0⟩) ∧ ((iFf.winchOf 7).backs = [])) ∧
    (successorRole iFf 7 7 9 = none) ∧
    ((Table.find 7 (iH.winchOf 7).runs = some { iRun 0 with lap1 := 1, lap2 := 1, doneP := 1 }) ∧
        (winchWorks iH 7 = true) ∧ (winchFinished { iRun 0 with lap1 := 1, lap2 := 1, doneP := 1 } = true)) ∧
    ((Table.find 7 (iHb.winchOf 7).runs = some
        { iRun 0 with lap1 := 1, lap2 := 1, doneP := 1, outB := [(0, 0, iG)] }) ∧ (winchWorks iHb 7 = true) ∧
        (winchFinished { iRun 0 with lap1 := 1, lap2 := 1, doneP := 1, outB := [(0, 0, iG)] } = true))) ∧
    (∀ x n, Readable iD x n) ∧
    (∀ x n, Readable iE x n) :=
  ⟨by decide +kernel,
   fun x n => readable_of (by decide +kernel) rfl x n,
   fun x n => readable_of (by decide +kernel) rfl x n⟩

/-- A state and operands for every hypothesis of WinchRecordFaults. -/
theorem test_WinchRecordFaults_hypotheses :
    (((winchDue iI 7 = true) ∧ (iI.rd Reg.WN_FAULT_CODE 7 = 0) ∧
        (iI.rd Reg.WG_CFG_W0_VALID 7 (winchFields (nextRecord iI 7 1)).ctx = 0)) ∧
    ((winchDue iB 7 = true) ∧ (iB.rd Reg.WN_FAULT_CODE 7 = 0) ∧
        (iB.rd Reg.WG_CFG_W0_VALID 7 (winchFields (nextRecord iB 7 1)).ctx ≠ 0)) ∧
    ((winchDue iJ 7 = true) ∧ (iJ.rd Reg.WN_FAULT_CODE 7 = 0) ∧
        (iJ.rd Reg.WG_CFG_W0_VALID 7 (winchFields (nextRecord iJ 7 1)).ctx ≠ 0) ∧
        (descBad (parseDesc (memBytes iJ 608 32)) = true)) ∧
    ((winchDue iJ0 7 = true) ∧ (descBad (parseDesc (memBytes iJ0 608 32)) = true)) ∧
    ((winchDue iK 7 = true) ∧ (iK.rd Reg.WN_FAULT_CODE 7 = 0) ∧
        (iK.rd Reg.WG_CFG_W0_VALID 7 (winchFields (nextRecord iK 7 1)).ctx ≠ 0) ∧
        (iK.rd Reg.WN_DESC_BASE_BASE 7 * 256 + 32 * (winchFields (nextRecord iK 7 1)).desc + 32 ≤ hbmTop) ∧
        (descBad (parseDesc (memBytes iK 608 32)) = false) ∧ ((parseDesc (memBytes iK 608 32)).accSteps ≠ 1) ∧
        ((iK.winchOf 7).streams.contains (parseDesc (memBytes iK 608 32)).stream = true)) ∧
    ((iFt.rd Reg.WN_FAULT_CODE 7 ≠ 0) ∧ ((4 : Nat) < 16) ∧ ((winchFault iFt 7 4 9 true).rd Reg.WN_FAULT_CODE 7 = 4) ∧
        ((winchFault iFt 7 6 9 true).rd Reg.WN_FAULT_CODE 7 = 5) ∧
        ((winchFault iFt 7 4 9 false).rd Reg.WN_FAULT_CODE 7 = 5))) ∧
    (NextReadable iI 7 1) ∧
    (NextReadable iB 7 1) ∧
    (NextReadable iJ 7 1) ∧
    (Readable iJ (iJ.rd Reg.WN_DESC_BASE_BASE 7 * 256 + 32 * (winchFields (nextRecord iJ 7 1)).desc) 32) ∧
    (NextReadable iK 7 1) ∧
    (Readable iK (iK.rd Reg.WN_DESC_BASE_BASE 7 * 256 + 32 * (winchFields (nextRecord iK 7 1)).desc) 32) :=
  ⟨by decide +kernel,
   readable_of (by decide +kernel) rfl _ _,
   readable_of (by decide +kernel) rfl _ _,
   readable_of (by decide +kernel) rfl _ _,
   readable_of (by decide +kernel) rfl _ _,
   readable_of (by decide +kernel) rfl _ _,
   readable_of (by decide +kernel) rfl _ _⟩

/-- Every run stands under its own context. -/
def runsFit (s : State) : Bool := s.winch.all (fun e => e.2.runs.all (fun x => decide (x.2.ctx = x.1)))

theorem find_all {α : Type} (p : Nat × α → Bool) (t : Table α) (h : t.all p = true) (k : Nat) (v : α)
    (f : Table.find k t = some v) : p (k, v) = true := by
  induction t with
  | nil => simp [Table.find] at f
  | cons e t ih =>
    obtain ⟨j, w⟩ := e
    simp only [List.all_cons, Bool.and_eq_true] at h
    unfold Table.find at f
    split at f
    · rename_i g
      cases f; rw [g]; exact h.1
    · exact ih h.2 f

theorem runs_fit (s : State) (h : runsFit s = true) (tr c : Nat) (r : WinchRun)
    (f : Table.find c (s.winchOf tr).runs = some r) : r.ctx = c := by
  unfold State.winchOf Table.getD at f
  cases g : Table.find tr s.winch with
  | none => rw [g] at f; simp at f
  | some w =>
    rw [g] at f
    have hw := find_all _ s.winch h tr w g
    simpa using find_all _ w.runs hw c r f

/-- One winch with one running record. -/
def oneRun : State := { winch := [(7, { runs := [(7, iRun 0)] })] }

/-- A state and operands for every hypothesis of WinchRunsKeepTheirContext. -/
theorem test_WinchRunsKeepTheirContext_hypotheses :
    (∀ (tr c : Nat) (r : WinchRun), Table.find c (({ oneRun with pending := [.nanClr 7 false] } : State).winchOf tr).runs = some r →
      r.ctx = c) ∧
    step { oneRun with pending := [.nanClr 7 false] } = .next (clearNan oneRun 7) ∧ (clearNan oneRun 7).winch ≠ [] :=
  ⟨runs_fit _ (by decide +kernel), rfl, by decide +kernel⟩

/-! ### Hypotheses met: the burner -/

def jDesc (count rnd : Nat) : Bytes := leBytes 5 4096 ++ leBytes 5 8192 ++ leBytes 5 12288 ++ leBytes 5 16384 ++ leBytes 4 count ++ leBytes 2 77 ++ leBytes 1 rnd ++ zeros 5
def jRec : Nat := (4 <<< 124) + (1 <<< 91) + (9 <<< 86) + (5 <<< 83) + (255 <<< 75) + (3 <<< 59) + (2 <<< 52)
def jOne : Nat := 0x3F800000
def jWords (rule : Nat) : List Nat := [2 ^ 31 + rule * 2 ^ 29 + 2 ^ 20 + 16, jOne, jOne, 0, 0, jOne, 0, 0, 0, jOne, 0, 0, 0, jOne, jOne, 0]
def jL (upd : Bool) (cs : Option (List Nat) := some [0x3F000000, 0, 0, 0, 0, 0]) (old : Bool := false) : GroupLatch := { stale := old, words := jWords 1, level := 0, scale := 0x3F800000, noFormat := false, invalid := false, skipped := false, updates := upd, consts := cs }
def jS (desc : Bytes) (b : Burner) : State :=
  let s := (regsOf [(Reg.DEV_STAT_STATE, 6), (Reg.STEP_STAT_STATE, 2), (Reg.STEP_NUM_LO, 9)]).wr Reg.BN_DESC_BASE_BASE 2 7
  { s with plan := { progs := [(30, (0, 16))], firstStep := 5 }, tick := 900, burner := [(7, { b with active := true })], hbm := Table.storeN 0 (Table.storeN 0 (Table.storeN 0 [] 608 desc) 4096 (leBytes 4 jOne ++ leBytes 4 0x40000000)) (planStart s) (leBytes 16 jRec) }
def jA : State := jS (jDesc 2 0) {}
def jB : State := jS (jDesc 0 0) { latched := [(255, jL true)] }
def jB2 : State := jS (jDesc 2 0) { latched := [(255, jL false)], words := [(24 * 255 + 20, 2 ^ 31), (24 * 255 + 21, 0x3F800000)] }
/-- A latch of a group that does not update, with a stale copy. -/
def jO : GroupLatch := jL false (old := true)
def jC : State := jS (jDesc 2 4) { latched := [(255, jO)] }
def jD : State := let s := jS (jDesc 2 0) { latched := [(255, jL true)] }; { s with hbm := Table.storeN 0 s.hbm 8192 (leBytes 4 0xBF800000 ++ leBytes 4 jOne) }
def jE : State := jS (jDesc 2 0) { latched := [(255, jL true none)], rates := [255, 3], lrBase := jOne, words := [(24 * 255 + 16, 1)] }
def jRun : BurnRun := { idx := 0, group := 255, d := parseBurnDesc (jDesc 2 0), part := 5, kite := 2, sig := some 9, start := 800, updating := true, pos := 2, whole := true }
def jF : State := { jS (jDesc 2 0) { latched := [(255, jL true)], run := some jRun } with seqs := [(30, { next := 1 })] }
def jG (w g bank : Nat) : State := ((((jS (jDesc 2 0) { words := [(24 * 255 + 23, 5), (24 * 255 + 16, 6)] }).wr Reg.BN_GSEL_WORD w 7).wr Reg.BN_GSEL_GROUP g 7).wr Reg.BN_GSEL_AUTO_INC 1 7).wr Reg.BN_GSEL_BANK bank 7
def jG1 : State := jG 23 255 0
def jG2 : State := jG 15 255 1
def jG3 : State := (jG 16 255 1).wr Reg.STEP_STAT_STATE 0
def jG4 : State := jG 16 255 1
def jFt : State := jA.wr Reg.BN_FAULT_CODE 3 7

/-- A state and operands for every hypothesis of BurnerRecordStarts. -/
theorem test_BurnerRecordStarts_hypotheses :
    (((burnerDue jA 7 = true) ∧ ((jA.burnerOf 7).run = none) ∧
        (Table.find (burnFields (nextRecord jA 7 2)).group (jA.burnerOf 7).latched = none) ∧
        (jA.rd Reg.BN_FAULT_CODE 7 = 0)) ∧
    ((burnerDue jB 7 = true) ∧ ((jB.burnerOf 7).run = none) ∧
        (Table.find (burnFields (nextRecord jB 7 2)).group (jB.burnerOf 7).latched = some (jL true)) ∧
        ((jL true).invalid = false ∧ (jL true).noFormat = false) ∧
        (jB.rd Reg.BN_DESC_BASE_BASE 7 * 256 + 32 * (burnFields (nextRecord jB 7 2)).desc + 32 ≤ hbmTop) ∧
        (burnDescBad (parseBurnDesc (memBytes jB 608 32)) (grpRule ((jL true).words.getD 0 0)) (jL true).level =
        false) ∧ ((parseBurnDesc (memBytes jB 608 32)).rnd ≠ 4) ∧ ((parseBurnDesc (memBytes jB 608 32)).count = 0)) ∧
    ((burnerDue jB2 7 = true) ∧ ((jB2.burnerOf 7).run = none) ∧
        (Table.find (burnFields (nextRecord jB2 7 2)).group (jB2.burnerOf 7).latched = some (jL false)) ∧
        ((jL false).invalid = false ∧ (jL false).noFormat = false) ∧
        (jB2.rd Reg.BN_DESC_BASE_BASE 7 * 256 + 32 * (burnFields (nextRecord jB2 7 2)).desc + 32 ≤ hbmTop) ∧
        (burnDescBad (parseBurnDesc (memBytes jB2 608 32)) (grpRule ((jL false).words.getD 0 0)) (jL false).level =
        false) ∧ ((parseBurnDesc (memBytes jB2 608 32)).rnd ≠ 4) ∧ ((jL false).updates = false ∧
        (jL false).stale = false)) ∧
    ((burnerDue jC 7 = true) ∧ ((jC.burnerOf 7).run = none) ∧
        (Table.find (burnFields (nextRecord jC 7 2)).group (jC.burnerOf 7).latched = some (jO)) ∧
        ((jO).invalid = false ∧ (jO).noFormat = false) ∧
        (jC.rd Reg.BN_DESC_BASE_BASE 7 * 256 + 32 * (burnFields (nextRecord jC 7 2)).desc + 32 ≤ hbmTop) ∧
        (burnDescBad (parseBurnDesc (memBytes jC 608 32)) (grpRule ((jO).words.getD 0 0)) (jO).level = false) ∧
        ((jC.burnerOf 7).streams.contains (parseBurnDesc (memBytes jC 608 32)).stream = false) ∧
        ((parseBurnDesc (memBytes jC 608 32)).count ≠ 0) ∧ (jO.stale = true)) ∧
    ((jC.rd Reg.BN_FAULT_CODE 7 = 0) ∧ ((1 : Nat) < (parseBurnDesc (memBytes jC 608 32)).count))) ∧
    (∀ x n, Readable jA x n) ∧
    (∀ x n, Readable jB x n) ∧
    (∀ x n, Readable jB2 x n) ∧
    (∀ x n, Readable jC x n) :=
  ⟨by decide +kernel,
   fun x n => readable_of (by decide +kernel) rfl x n,
   fun x n => readable_of (by decide +kernel) rfl x n,
   fun x n => readable_of (by decide +kernel) rfl x n,
   fun x n => readable_of (by decide +kernel) rfl x n⟩

/-- A state and operands for every hypothesis of BurnerUpdatesEveryRecord. -/
theorem test_BurnerUpdatesEveryRecord_hypotheses :
    ((burnerDue jD 7 = true) ∧ ((jD.burnerOf 7).run = none) ∧
        (Table.find (burnFields (nextRecord jD 7 2)).group (jD.burnerOf 7).latched = some (jL true)) ∧
        ((jL true).invalid = false ∧ (jL true).noFormat = false ∧ (jL true).updates = true) ∧
        (jD.rd Reg.BN_DESC_BASE_BASE 7 * 256 + 32 * (burnFields (nextRecord jD 7 2)).desc + 32 ≤ hbmTop) ∧
        (burnDescBad (parseBurnDesc (memBytes jD 608 32)) 1 0 = false) ∧
        ((parseBurnDesc (memBytes jD 608 32)).count ≠ 0) ∧ ((parseBurnDesc (memBytes jD 608 32)).rnd ≠ 4) ∧
        (grpRule ((jL true).words.getD 0 0) = 1) ∧ (4096 + recBytes 1 * (2 / recElems 1) ≤ 8192 ∧
        4096 + recBytes 1 * (2 / recElems 1) ≤ 12288 ∧ 4096 + recBytes 1 * (2 / recElems 1) ≤ 16384 ∧
        8192 + 4 * 2 ≤ 12288 ∧ 8192 + 4 * 2 ≤ 16384 ∧ (jL true).level = 0)) ∧
    (∀ x n, Readable jD x n) :=
  ⟨by decide +kernel,
   fun x n => readable_of (by decide +kernel) rfl x n⟩

/-- A state and operands for every hypothesis of BurnerCommandsComplete. -/
theorem test_BurnerCommandsComplete_hypotheses :
    ((jE.islandsRun = true) ∧ ((jE.burnerOf 7).rates = 255 :: [3]) ∧
        (Table.find 255 (jE.burnerOf 7).latched = some (jL true none))) ∧
    (((jF.burnerOf 7).run = some jRun) ∧ (jRun.whole = true) ∧ (jF.islandsRun = true) ∧
        (Table.find jRun.group (jF.burnerOf 7).latched = some (jL true)) ∧ (jRun.sig = some 9)) ∧
    ((jG1.rd Reg.BN_GSEL_WORD 7 < 24) ∧ (jG1.rd Reg.BN_GSEL_AUTO_INC 7 = 1)) ∧
    (jG2.rd Reg.BN_GSEL_WORD 7 < 24) ∧
    ((jG2.rd Reg.BN_GSEL_WORD 7 < 24) ∧ (gwinWritable jG2 7 (0x3F800000 : Word).toNat = true) ∧
        (jG2.rd Reg.BN_GSEL_WORD 7 < 16) ∧ (jG2.step.armed = none ∧ jG2.step.commitAt = [])) ∧
    ((jG3.rd Reg.BN_GSEL_WORD 7 < 24) ∧ (gwinWritable jG3 7 (0xFFFFFFFF : Word).toNat = true) ∧
        (16 ≤ jG3.rd Reg.BN_GSEL_WORD 7)) ∧
    ((jG4.rd Reg.BN_GSEL_WORD 7 < 24) ∧ (gwinWritable jG4 7 (0xFFFFFFFF : Word).toNat = false)) :=
  by decide +kernel

/-! ### Hypotheses met: events and recovery -/

def kB (l : List (Fld × Nat) := []) : State := { regsOf ([(Reg.DEV_STAT_STATE, 6)] ++ l) with tick := 500 }
def kEc (n : Nat) (c : SrcCfg) (l : List (Fld × Nat) := []) : State := { kB ([(Reg.EC_CORE_CORE_EN, 8)] ++ l) with ec := { pend := oneHot n, mask := 0, cfg := [(n, c)] } }
def kA : State := kEc 767 { target := 8, prio := 3, level := false }
def kA0 : State := kB
def kC : State := { kB with ec := { active := oneHot 702, claims := [(3, { source := 702, shownAt := 500 })] }, hdrs := [(pageBase .lineCtl 31, { pend := 1, mask := 0 })] }
def kC1 : State := { kB with ec := { active := oneHot 0, claims := [(3, { source := 0, shownAt := 501 })] } }
def kTm (p : Nat) : State := ((((kB).wr Reg.EC_TMR_EN_EN 1 0 15).wr Reg.EC_TMR_CMP_LO_CMP (2 ^ 32 - 1) 0 15).wr Reg.EC_TMR_CMP_HI_CMP (2 ^ 32 - 1) 0 15).wr Reg.EC_TMR_PERIOD_PERIOD p 0 15
def kT0 : State := kTm 0
def kT1 : State := kTm 5
def kP : State := { kB with ec := { cfg := [(738, { level := false, pol := false, glitch := 16 })] } }
def kP1 : State := { kP with ec := { kP.ec with pend := BitVec.allOnes 1024 } }
def kS (n : Nat) : State := { kB [(Reg.EC_SEL_SRC, n), (Reg.EC_SEL_AUTO_INC, 1)] with ec := { cfg := [(738, { pol := true })] } }
def kS1 : State := kS 738
def kS2 : State := kS 1023
def kH : State := (kB [(Reg.STEP_STAT_STATE, 2), (Reg.STEP_NUM_LO, 8)]).wr Reg.KITE_STATE_STATE 2 135
def kH1 : State := kH.wr Reg.TRN_KMAP_SLOT 16 7 15
/-- The same in a seal group of two, with device 3 its root. -/
def kH2 : State := routed [(3, 4)] { kH1 with plan := { firstStep := 7, devices := [3, 0], domain := [3, 0] } }
def kR0 : State := (kB).wr Reg.TRN_BALLAST_USED 1 7
def kR1 : State := kB [(Reg.STEP_STAT_STATE, 2)]
def kCo : State := kB [(Reg.EC_CORE_CORE_EN, 15)]
def kRo : State := { kB [(Reg.EC_CORE_CORE_EN, 3)] with recov := { role := some (3, 2) } }
def kPh : State := kB [(Reg.PHASES_SHED, 23), (Reg.PHASES_TOTAL, 24)]
/-- A piece of a RESIDENT range waits to be read again. -/
def kPp : State := { kPh with recov := { pieces := [(5, 64, 128, 64)] }, hbm := [(planByte kPh 64, 9)] }

/-- A state and operands for every hypothesis of EventDeliveryCompletes. -/
theorem test_EventDeliveryCompletes_hypotheses :
    (((bestSource kA = some 767) ∧ (coreFor kA 767 = some 3)) ∧
    (bestSource kA0 = none) ∧
    ((claimShown kC 3 = some 702) ∧ ((kC.srcCfg 702).level = true ∧ asserted kC 702 = true)) ∧
    (claimShown kC1 3 ≠ some 0) ∧
    ((0xFFFFFFF7 : Word).getLsbD 3 = false) ∧
    ((canTimer kT0 15 = true) ∧ (kT0.pwr.rails = true) ∧ (kT0.rd Reg.EC_TMR_PERIOD_PERIOD 0 15 = 0)) ∧
    ((canTimer kT1 15 = true) ∧ (kT1.pwr.rails = true) ∧ (kT1.rd Reg.EC_TMR_PERIOD_PERIOD 0 15 ≠ 0)) ∧
    (true = (kP.pin 2).filtered)) ∧
    (((false ≠ (kP.pin 2).filtered) ∧ (15 < (kP.srcCfg 738).glitch)) ∧
    ((false ≠ (kP.pin 2).filtered) ∧ ((kP.srcCfg 738).glitch ≤ 16) ∧ (false = (kP.srcCfg 738).pol) ∧
        (bit1024 kP.ec.active 738 = false))) :=
  ⟨by decide +kernel,
   by decide +kernel⟩

/-- A state and operands for every hypothesis of EventWritesComplete. -/
theorem test_EventWritesComplete_hypotheses :
    (((pageOf kC.slotOf (0x0203E000 : Word).toNat).map (fun p => (p.kind, p.inst)) = some (.lineCtl, 31)) ∧
        (PageKind.lineCtl ≠ .cmdEngine ∧ PageKind.lineCtl ≠ .trace)) ∧
    (((0x80000000 : Word).getLsbD 31 = true) ∧ (driven (32 * 23 + 31) = true) ∧
        ((0x80000000 : Word).getLsbD 30 = false)) ∧
    (((kP1.srcCfg (32 * 23 + 2)).level = false) ∧ (32 * 23 + 2 ≠ 723) ∧ ((0x80000000 : Word).getLsbD 2 = false)) ∧
    (cfgOk (kS1.rd Reg.EC_SEL_SRC) (0xEC500001 : Word).toNat = true) ∧
    (cfgOk (kS1.rd Reg.EC_SEL_SRC) (0xEC500000 : Word).toNat = false) :=
  by decide +kernel

/-- A state and operands for every hypothesis of RecoveryCommandsComplete. -/
theorem test_RecoveryCommandsComplete_hypotheses :
    (((canHang kH1 127 = true) ∧ (kH1.slotOf 127 < 136) ∧ (kH1.step.isSealed = false)) ∧
    ((canHang kH2 127 = true) ∧ (kH2.slotOf 127 < 136) ∧ (kH2.step.isSealed = false)) ∧
    (ballastSlot kR0 7 = none) ∧
    ((ballastSlot kR1 7 = some 135) ∧ (kR1.planRuns = true) ∧ (partitionKite kR1 127 = false)) ∧
    ((ballastSlot kA0 7 = some 135) ∧ (135 < 136) ∧ (kA0.planRuns = false ∨ partitionKite kA0 127 = true) ∧
        (kA0.slotOf 127 < 136 ∧ kA0.slotOf 127 ≠ 135)) ∧
    (kCo.rd Reg.CORE_STAT_STATE 3 ≠ 4) ∧
    (kRo.recov.role = some (3, 2)) ∧
    ((kPh.rd Reg.PHASES_SHED < kPh.rd Reg.PHASES_TOTAL) ∧ (kPh.rd Reg.PHASES_SHED < 255) ∧
        (1 ≤ kPh.rd Reg.PHASES_SHED))) ∧
    (kPh.recov.pieces = []) ∧
    (∀ x n, Readable kPp x n) :=
  ⟨by decide +kernel,
   by decide +kernel,
   fun x n => readable_of (by decide +kernel) rfl x n⟩

/-! ### Hypotheses met: haul-down and trace -/

def lB (st : Nat) (l : List (Fld × Nat) := []) : State := { (regsOf ([(Reg.DEV_STAT_STATE, 6), (Reg.FAB_DEVNUM_ASSIGNED, 1), (Reg.FAB_DEVNUM_DEVNUM, 3), (Reg.HD_STAT_STATE, st)] ++ l)).wr Reg.LINE_STAT_STATE 2 31 with tick := 5000 }
def lA : State := lB 0
def lZ : State := lB 4
def lS : State := { lA with hd := { seen := [(9, 6000)] } }
def lC : State := lB 1 [(Reg.HD_CUT_LO, 5004)]
def lM : State := { lB 2 with hd := { captures := [(31, none)] }, fab := { lines := [(31, { rxSeq := 0 })] } }
def lSc : State := lB 3 [(Reg.HD_DEBUG_BASE, 1)]
def lD : State := { lB 4 [(Reg.HD_DEBUG_BASE, 1)] with kites := [(134, { sp := [(5, 7)] })] }
def lDv : Word := 0x137F01
def lDB : State := lB 4 [(Reg.HD_STAT_DUMP_BUSY, 1)]
def lR : State := lB 4 [(Reg.HD_REL_LO, 2 ^ 31)]
def lRs : State := { lB 4 with hd := { released := [(3, 6000)] } }
def lQ : State := { lB 5 [(Reg.HD_CUT_LO, 4000)] with hd := { resume := 2 ^ 64 - 1 }, step := { armed := some (6000, 8) } }
def lTr : TraceRec := { tick := 2 ^ 64 - 1, kind := 1, unit := 255, attempt := 2, step := 9, a := 1, b := 2, c := 3 }
def lU : State := { (lB 0 [(Reg.TR_CTL_TRAINS, 128), (Reg.TR_BASE_BASE, 2)]).wr Reg.TR_HEAD_OFFSET (2 ^ 22 - 2048) 0 7 with trace := [(7, List.replicate 64 lTr)] }
def lV : State := { (lB 0 [(Reg.TR_CTL_TRAINS, 0)]).wr Reg.TR_HEAD_OFFSET 4096 0 7 with traceFull := [7, 3] }

/-- A state and operands for every hypothesis of HaulCommandsComplete. -/
theorem test_HaulCommandsComplete_hypotheses :
    (((lA.rd Reg.HD_STAT_STATE = 0) ∧ (lA.tick + lA.rd Reg.HD_CTL_LEAD_FAB < 2 ^ 64)) ∧
    (2 ≤ lZ.rd Reg.HD_STAT_STATE) ∧
    (lS.hd.seen.contains (9, 6000) = true) ∧
    ((lA.hd.seen.contains (9, 5000) = false) ∧ (forThisRoot lA 4095 = true) ∧ (lA.rd Reg.HD_STAT_STATE = 0) ∧
        (lA.tick ≤ 5000)) ∧
    ((lA.hd.seen.contains (9, 4999) = false) ∧ (forThisRoot lA 3 = true) ∧ (lA.rd Reg.HD_STAT_STATE = 0) ∧
        (4999 < lA.tick) ∧ (lA.rd Reg.HD_TRIP_EVT_EN = 0) ∧ (lA.tick + 4 < 2 ^ 64)) ∧
    ((lA.hd.seen.contains (9, 4999) = false) ∧ (forThisRoot lA 9 = false)) ∧
    (lC.rd Reg.HD_STAT_STATE = 1) ∧
    (((Table.find 31 lM.hd.captures).isSome = true) ∧ (seqReached (lM.line 31) 4095 = true) ∧
        (lM.rd Reg.HD_STAT_STATE = 2))) ∧
    ((((Table.find 31 lM.hd.captures).isSome = true) ∧ (seqReached (lM.line 31) 0 = false)) ∧
    ((lM.rd Reg.HD_STAT_STATE = 2) ∧ (lM.hd.captures ≠ []))) :=
  ⟨by decide +kernel,
   by decide +kernel⟩

/-- A state and operands for every hypothesis of HaltCommandsComplete. -/
theorem test_HaltCommandsComplete_hypotheses :
    ((lSc.rd Reg.HD_STAT_STATE = 3) ∧
    ((lDv.getLsbD 0 = true) ∧ (canDump lD lDv.toNat = true)) ∧
    (((0x147F01 : Word).getLsbD 0 = true) ∧ (canDump lD (0x147F01 : Word).toNat = false)) ∧
    (lDB.rd Reg.HD_STAT_DUMP_BUSY = 1) ∧
    ((lR.rd Reg.HD_STAT_STATE = 4) ∧ (lR.rd Reg.HD_STAT_DUMP_BUSY = 0) ∧
        (tooEarly lR (lR.rd64 Reg.HD_REL_LO Reg.HD_REL_HI) true = false)) ∧
    (lRs.hd.released.contains (3, 6000) = true) ∧
    ((lZ.hd.released.contains (3, 4999) = false) ∧ (forThisRoot lZ 3 = true) ∧ (lZ.rd Reg.HD_STAT_STATE = 4) ∧
        (4999 < lZ.tick)) ∧
    ((lZ.hd.released.contains (3, 5000) = false) ∧ (forThisRoot lZ 3 = true) ∧ (lZ.rd Reg.HD_STAT_STATE = 4))) ∧
    (((lQ.rd Reg.HD_STAT_STATE = 5) ∧ (lQ.hd.resume < 2 ^ 64) ∧ (lQ.rd Reg.HD_TRIP_EVT_EN = 0)) ∧
    (lZ.rd Reg.HD_STAT_STATE = 4) ∧
    (lA.rd Reg.HD_STAT_STATE ≠ 4)) ∧
    (∀ x n, Readable lSc x n) ∧
    (∀ x n, Readable lD x n) :=
  ⟨by decide +kernel,
   by decide +kernel,
   fun x n => readable_of (by decide +kernel) rfl x n,
   fun x n => readable_of (by decide +kernel) rfl x n⟩

/-- A state and operands for every hypothesis of TraceCommandsComplete. -/
theorem test_TraceCommandsComplete_hypotheses :
    (((canBurst lU 7 = true) ∧ (lU.rd Reg.TR_HEAD_OFFSET 0 7 < 2 ^ 22)) ∧
    ((lV.rd Reg.TR_CTL_TRAINS = 0) ∧ (bit (0x80000000 : Word).toNat 31 = true))) ∧
    (∀ x n, Readable lU x n) :=
  ⟨by decide +kernel,
   fun x n => readable_of (by decide +kernel) rfl x n⟩

/-! ### Hypotheses met: register pages and the sideband -/

def mB (l : List (Fld × Nat) := []) : State := { regsOf ([(Reg.DEV_STAT_STATE, 6)] ++ l) with tick := 2 ^ 40 + 5 }
def mA : State := mB
def mU : State := { mB with hdrs := [(pageBase .kiteCtl 135, { util := 2 ^ 64 - 1 })] }
def mF : State := (mB).wr Reg.LINE_DOWNS_COUNT 9 31
def mF1 : State := setFreeze mF ⟨.lineCtl, 31⟩ true
def mS : State := mB [(Reg.STEP_STAT_STATE, 2)]
def mR : State := { (mB).wr Reg.REG_CFG_RATE 7 7 3 with hdrs := [(pageBase .regulator 7, { pend := 3, mask := 0, freeze := true })] }
def mQ (a : Nat) : State := { mB with sb := { asked := some a } }
def mQ1 : State := mQ 0x01702040
def mQ2 : State := mQ 0x01702041
def mQ3 : State := mQ 0x01000F00
def mQ4 : State := { mB with sb := { asked := some 0xFFFFFFFC } }
def mG : State := { mB with sb := { refused := true, status := 1, value := 7 } }
def mW : State := mB [(Reg.CE_CTL_SB_WR_EN, 1), (Reg.STEP_STAT_STATE, 2)]
def mOff : State := { mB with pwr := { enabled := false, rails := false } }

/-- A state and operands for every hypothesis of PageCommandsComplete. -/
theorem test_PageCommandsComplete_hypotheses :
    ((lowAddr mA (0x00030040 : Word).toNat = true) ∧ (reachPage mA (0x00030040 : Word).toNat = some ⟨.timeBase, 0⟩)) ∧
    ((lowAddr mU (0x01780028 : Word).toNat = true) ∧
        (reachPage mU (0x01780028 : Word).toNat = some ⟨.kiteCtl, 135⟩)) ∧
    ((reachPage mF (0x0203E008 : Word).toNat = some ⟨.lineCtl, 31⟩) ∧ ((mF.hdr .lineCtl 31).freeze ≠ true) ∧
        (((Reg.LINE_DOWNS_COUNT, 0) : Fld × Nat) ∈ countFields .lineCtl)) ∧
    ((reachPage mF1 (0x0203E008 : Word).toNat = some ⟨.lineCtl, 31⟩) ∧ ((mF1.hdr .lineCtl 31).freeze ≠ false)) ∧
    ((reachPage mS (0x00008008 : Word).toNat = some ⟨.plan, 0⟩) ∧ ((busyPages mS).contains ⟨.plan, 0⟩ = true)) ∧
    ((reachPage mR (0x01702008 : Word).toNat = some ⟨.regulator, 7⟩) ∧
        ((busyPages mR).contains ⟨.regulator, 7⟩ = false) ∧ (7 < pageCount .regulator) ∧ (mR.trust.applied = []) ∧
        (PageKind.regulator ∉ [PageKind.lineCtl, .fabric, .mac, .trainCtl, .stackCtl, .eventCtl])) ∧
    (((0x01702040 : Word).toNat % 4 = 0) ∧ (reachPage mA (0x01702040 : Word).toNat = some ⟨.regulator, 7⟩) ∧
        (7 < pageCount .regulator) ∧ ((windowWrite mA ⟨.regulator, 7⟩ 0x40 (0x80007C01 : Word).toNat).isNone = true ∧
        (commandWrite mA ⟨.regulator, 7⟩ 0x40 (0x80007C01 : Word).toNat false).isNone = true) ∧
        ((judgeWord mA ⟨.regulator, 7⟩ 0x40 (0x80007C01 : Word).toNat).whole = false) ∧ (mA.step.armed = none ∧
        mA.step.commitAt = []) ∧
        (fieldBad mA Reg.REG_CFG_RATE 7 0 0x7C01 = true ∨ fieldBad mA Reg.REG_CFG_BURST 7 0 0 = true)) ∧
    (((0x00008040 : Word).toNat % 4 = 0) ∧ (reachPage mS (0x00008040 : Word).toNat = some ⟨.plan, 0⟩) ∧
        (0 < pageCount .plan) ∧ ((windowWrite mS ⟨.plan, 0⟩ 0x40 7).isNone = true ∧
        (commandWrite mS ⟨.plan, 0⟩ 0x40 7 false).isNone = true) ∧ ((judgeWord mS ⟨.plan, 0⟩ 0x40 7).whole = true)) :=
  by decide +kernel

/-- A state and operands for every hypothesis of SidebandCommandsComplete. -/
theorem test_SidebandCommandsComplete_hypotheses :
    (mA.pwr.rails = true) ∧
    ((mQ1.sb.asked = some 0x01702040) ∧ (0x01702040 % 4 = 0) ∧ ((readReg mQ1 0x01702040).isSome = true)) ∧
    ((mQ2.sb.asked = some 0x01702041) ∧ (0x01702041 % 4 ≠ 0)) ∧
    ((mQ4.sb.asked = some 0xFFFFFFFC) ∧ ((readReg mQ4 0xFFFFFFFC).isNone = true)) ∧
    (mG.pwr.rails = true) ∧
    ((mA.pwr.rails = true) ∧ (mA.rd Reg.CE_CTL_SB_WR_EN = 0)) ∧
    ((mW.pwr.rails = true) ∧ (mW.rd Reg.CE_CTL_SB_WR_EN ≠ 0) ∧ ((0x00008040 : Word).toNat % 4 = 0) ∧
        ((writeReg mW 0x00008040 7 true).map Prod.fst = some true)) ∧
    (mOff.pwr.rails = false) :=
  by decide +kernel

/-! ### Hypotheses met: power, start-up and trust -/

def nB (st : Nat) (l : List (Fld × Nat) := []) : State := { regsOf ([(Reg.DEV_STAT_STATE, st)] ++ l) with tick := 5000000 }
def nA : State := nB 6
def nOff : State := { nA with pwr := { enabled := false, rails := false } }
def nG : State := { nA with pwr := { enabled := true, rails := false }, hbm := [(3, 4)], trust := { svnMin := 5, userKey := some (2 ^ 255 + 9), flash := [(0x800000, 7)] } }
def nR : State := { nB 6 [(Reg.TB_SYNC_LOADED, 1)] with trust := { resetAt := some (6000000, 17), svnMin := 5 } }
def nRf : State := nB 6 [(Reg.CLK_REF_REF_OK, 1), (Reg.TB_SYNC_LOCKED, 1)]
def nS0 : State := nB 0
def nS1 : State := nB 1
def nFl (l : List (Nat × Byte)) : Table Byte := l.foldl (fun t e => Table.put t e.1 e.2) []
def nS2 : State := { nB 2 with trust := { flash := nFl ((List.range 16).map (fun i => (0x800000 + i, BitVec.ofNat 8 0))) } }
def nS2b : State := { nB 2 with trust := { flash := nFl ([(0x80000A, 1), (0x80000B, 0)] ++ (List.range 48).map (fun i => (0x800010 + i, BitVec.ofNat 8 0))) } }
def nS3 : State := nB 3
def nS4 : State := nB 4
def nS5 : State := nB 5 [(Reg.FAB_STAT_DISC_STATE, 3)]
def nFa (a : Nat) (l : List (Fld × Nat) := []) : State := { nB 6 ([(Reg.FL_ADDR_ADDR, a)] ++ l) with trust := { flash := nFl [(a, 1), (a + 1, 2), (a + 2, 3), (a + 3, 4)], svnMin := 3 } }
def nF1 : State := nFa 0x68FFFFC
def nF2 : State := nFa 0x6900000
def nOp (op : FlashOp) : State := { nF1 with trust := { nF1.trust with op := some op } }
def nOe : State := nOp (.erase 0x68F)
def nOp1 : State := nOp (.program 0x6800000 0x0A0B0C0D)
def nSt (p : Nat) (x : Option Image) (r : Nat) (l : List (Fld × Nat) := []) : State := { ((nB 6 ([(Reg.FW_STAT_PHASE, p)] ++ l)).wr Reg.CORE_STAT_ROLE 3 3).wr Reg.CORE_STAT_STATE 1 3 with trust := { staged := x, swapRole := r } }
def nIm : Image := { iface := 1, svn := 65537, ver := 65540 }
def nT0 : State := nSt 0 none 0
def nT4 : State := nSt 4 (some nIm) 0
def nH1 : State := (((nSt 2 (some nIm) 1).wr Reg.CORE_STAT_ROLE 1 1).wr Reg.CORE_STAT_ROLE 2 2)
def nH2 : State := (((nSt 2 (some nIm) 2).wr Reg.CORE_STAT_ROLE 1 1).wr Reg.CORE_STAT_ROLE 2 2)
def nV : State := nFa 0x6800000 [(Reg.SEC_SVN_SVN_RUN, 3)]
def nV2 : State := nFa 0x6800000 [(Reg.SEC_SVN_SVN_RUN, 2)]
def nLg (w e : Nat) : State := nB 6 [(Reg.LOG_SEL_WORD, w), (Reg.LOG_SEL_ENTRY, e)]
def nL1 : State := nLg 10 65535
def nL2 : State := nLg 11 65535
def nHr : State := { nB 6 [(Reg.SVC_HOURS_COUNT, 2 ^ 32 - 1)] with recov := { hot := true } }
def nE (p : Nat) (f : Nat) : State := { nB 6 [(Reg.SEC_STAT_RNG_FAIL, f)] with trust := { passes := p } }
def nE0 : State := nE 1022 1
def nE1 : State := nE 1023 1
def nE2 : State := nE 5 0

/-- A state and operands for every hypothesis of PowerCommandsComplete. -/
theorem test_PowerCommandsComplete_hypotheses :
    ((nOff.pwr.enabled = false) ∧
    ((nG.pwr.enabled = true) ∧ (nG.pwr.rails = false)) ∧
    (nR.trust.resetAt = some (6000000, 17)) ∧
    ((shownStep nA = 0) ∧ (nA.trust.resetAt = none)) ∧
    ((0xD1E4 : BitVec 16) ≠ 0xD1E5) ∧
    ((nRf.rd Reg.CLK_REF_REF_OK ≠ 0) ∧ (nRf.rd Reg.TB_SYNC_LOCKED = 1)) ∧
    ((nA.pwr.rails = true) ∧ (4999 ≤ 6000) ∧ (nA.rd Reg.THERM_STAT_PEAK_LAPSED = 0) ∧
        (nA.rd Reg.PWR_CAPS_PEAK_CAP < 2601)) ∧
    ((nA.pwr.rails = true) ∧ (6000 < 6001))) ∧
    (((nA.pwr.rails = true) ∧ (120 ≤ (120 : BitVec 8).toInt)) ∧
    ((nA.pwr.rails = true) ∧ ((95 : BitVec 8).toInt < 120) ∧
        ((nA.rd Reg.THERM_DIE_THROTTLE : Int) ≤ (95 : BitVec 8).toInt ∧
        (95 : BitVec 8).toInt < nA.rd Reg.THERM_DIE_THROTTLE + 10)) ∧
    ((nA.pwr.rails = true) ∧ ((119 : BitVec 8).toInt < 120) ∧
        ((nA.rd Reg.THERM_DIE_THROTTLE : Int) + 10 ≤ (119 : BitVec 8).toInt))) :=
  ⟨by decide +kernel,
   by decide +kernel⟩

/-- A state and operands for every hypothesis of BootStagesComplete. -/
theorem test_BootStagesComplete_hypotheses :
    ((nS0.pwr.rails = true) ∧ (nS0.rd Reg.DEV_STAT_STATE = 0)) ∧
    (nS1.rd Reg.DEV_STAT_STATE = 1) ∧
    ((nS2.rd Reg.DEV_STAT_STATE = 2) ∧ (segmentsOk nS2 (manifest nS2) = true)) ∧
    ((nS2b.rd Reg.DEV_STAT_STATE = 2) ∧ (segmentsOk nS2b (manifest nS2b) = false)) ∧
    (nS2.rd Reg.DEV_STAT_STATE = 2) ∧
    ((nS3.rd Reg.DEV_STAT_STATE = 3) ∧ (nS3.trust.factory.regs = [])) ∧
    (nS4.rd Reg.DEV_STAT_STATE = 4) ∧
    ((nS5.rd Reg.DEV_STAT_STATE = 5) ∧ (nS5.rd Reg.FAB_STAT_DISC_STATE = 3)) :=
  by decide +kernel

/-- A state and operands for every hypothesis of TrustCommandsComplete. -/
theorem test_TrustCommandsComplete_hypotheses :
    ((fwBase ≤ flAddr nF1) ∧
    (flashWritable nF1 (flAddr nF1) = true) ∧
    (flashWritable nF2 (flAddr nF2) = false) ∧
    (flashWritable nF1 fwBase = true) ∧
    (nOe.trust.op = some (.erase 0x68F)) ∧
    ((nOp1.trust.op = some (.program 0x6800000 0x0A0B0C0D)) ∧ (userBase ≤ 0x6800000)) ∧
    (nOp1.trust.op = some (.program 0x6800000 0x0A0B0C0D)) ∧
    ((nT0.rd Reg.FL_STAT_BUSY = 0) ∧ (nT0.rd Reg.FW_STAT_PHASE ≠ 2))) ∧
    (((nT4.rd Reg.FW_STAT_PHASE = 4) ∧ (standbyCore nT4 = some 3) ∧ (nT4.trust.staged.isSome = true)) ∧
    ((standbyCore nH1 = some 3) ∧ (coreOfRole nH1 nH1.trust.swapRole = some 1) ∧ (nH1.trust.staged = some nIm) ∧
        (canHandOver nH1 3 = true) ∧ (nH1.trust.swapRole < 3)) ∧
    ((standbyCore nH2 = some 3) ∧ (coreOfRole nH2 nH2.trust.swapRole = some 2) ∧ (nH2.trust.staged = some nIm) ∧
        (canHandOver nH2 3 = true) ∧ (nH2.trust.swapRole < 3)) ∧
    (nV.trust.svnMin ≤ nV.rd Reg.SEC_SVN_SVN_RUN) ∧
    (nV2.rd Reg.SEC_SVN_SVN_RUN < nV2.trust.svnMin) ∧
    (nV.trust.userKey = none) ∧
    (nG.trust.userKey ≠ none) ∧
    (nL1.rd Reg.LOG_SEL_WORD < 11)) ∧
    ((11 ≤ nL2.rd Reg.LOG_SEL_WORD) ∧
    (wearHot nHr = true) ∧
    (nE0.trust.passes + 1 < 1024) ∧
    (1024 ≤ nE1.trust.passes + 1) ∧
    (nE2.rd Reg.SEC_STAT_RNG_FAIL = 0)) :=
  ⟨by decide +kernel,
   by decide +kernel,
   by decide +kernel⟩

/-! ### Hypotheses met: the whole machine -/

def oI : State := { State.reset with tick := 2 ^ 64 - 2 }
def oT : State := { State.reset with pending := [.tbNowLo, .powerOff] }
def oA : State := { State.reset with shadow := [(Reg.ACC_SIZE_ACC_SIZE.key 135 0, 1), (Reg.ACC_BASE_ACC_BASE.key 135 0, 2047)] }
def oA1 : State := { State.reset with shadow := (Table.put (Table.put [] (Reg.ACC_SIZE_ACC_SIZE.key 135 0) 1) (Reg.ACC_BASE_ACC_BASE.key 135 0) 2047) }
def oA2 : State := { State.reset with shadow := Table.put [] (Reg.ACC_SIZE_ACC_SIZE.key 135 0) 2 }
/-- A write of ACC_SIZE is held for the commit. -/
def oA3 : State := { State.reset with held := [.field (Reg.ACC_SIZE_ACC_SIZE.key 135 0) 2] }
def oD : State := { State.reset with trust := { resetAt := some (7, 1) } }
def oP : State := { State.reset with pwr := { enabled := true, rails := false } }

/-- A state and operands for every hypothesis of StepTakesTheFrontCommand. -/
theorem test_StepTakesTheFrontCommand_hypotheses :
    ((oI.pending = []) ∧ (oI.pwr.rails = true) ∧ (oI.tick + 1 < 2 ^ 64)) :=
  by decide +kernel

/-- A state and operands for every hypothesis of EveryCommandKeepsToItsFootprint. -/
theorem test_EveryCommandKeepsToItsFootprint_hypotheses :
    (Part.hbm ∉ (footprint .tbNowLo).parts ∧ Part.mem ∉ (footprint .tbNowLo).parts) :=
  by decide +kernel

/-- A state and operands for every hypothesis of EveryStepKeepsTheCanonicalForm. -/
theorem test_EveryStepKeepsTheCanonicalForm_hypotheses :
    (Canon oT) ∧
    (step oT = .next { oT with pending := [.powerOff], hiLatch := [(0x30044, 0)], out := [.word 0] }) :=
  ⟨canon_of _ (by decide +kernel),
   rfl⟩

/-- A state and operands for every hypothesis of NoStepLosesAFuse. -/
theorem test_NoStepLosesAFuse_hypotheses :
    (step oT = .next { oT with pending := [.powerOff], hiLatch := [(0x30044, 0)], out := [.word 0] }) :=
  rfl

/-- A state and operands for every hypothesis of AccumulatorAreaStaysInside. -/
theorem test_AccumulatorAreaStaysInside_hypotheses :
    ((reachPage oA2 (0x01780064 : Word).toNat = some ⟨.kiteCtl, 135⟩) ∧ (135 < pageCount .kiteCtl) ∧
        ((0x01780064 : Word).toNat % 0x1000 = 0x64 ∧
        2048 < getBits (0x007FF000 : Word).toNat 12 11 + oA2.rdNext Reg.ACC_SIZE_ACC_SIZE 135)) ∧
    ((reachPage oA1 (0x01780068 : Word).toNat = some ⟨.kiteCtl, 135⟩) ∧ (135 < pageCount .kiteCtl) ∧
        ((0x01780068 : Word).toNat % 0x1000 = 0x68 ∧
        2048 < oA1.rdNext Reg.ACC_BASE_ACC_BASE 135 + getBits (2 : Word).toNat 0 12)) ∧
    ((reachPage oA3 (0x01780064 : Word).toNat = some ⟨.kiteCtl, 135⟩) ∧ (135 < pageCount .kiteCtl) ∧
        ((0x01780064 : Word).toNat % 0x1000 = 0x64 ∧
        2048 < getBits (0x007FF000 : Word).toNat 12 11 + oA3.rdNext Reg.ACC_SIZE_ACC_SIZE 135)) ∧
    ((reachPage oI (0x01780068 : Word).toNat = some ⟨.kiteCtl, 135⟩) ∧ (135 < pageCount .kiteCtl) ∧
        ((0x01780068 : Word).toNat % 0x1000 = 0x68 ∧ 2048 < getBits (2049 : Word).toNat 0 12)) :=
  by decide +kernel

/-- A state and operands for every hypothesis of KiteFilesAtReset. -/
theorem test_KiteFilesAtReset_hypotheses :
    ((oD.trust.resetAt.isSome = true) ∧ ((match exec .deviceReset oD with | .next _ => true | _ => false) = true)) ∧
    ((oP.pwr.enabled = true ∧ oP.pwr.rails = false) ∧
        ((match exec .powerGood oP with | .next _ => true | _ => false) = true)) :=
  by decide +kernel

/-- A state and operands for every hypothesis of AddressesDecode. -/
theorem test_AddressesDecode_hypotheses :
    ((hbmTop - 1 < hbmTop ∧ (decodeAddr (hbmTop - 1)).stack < 16) ∧ (30 < 31 ∧
        777974 < (if 30 < 23 then 777976 else 777975) ∧ 777975 < (if 22 < 23 then 777976 else 777975) ∧
        2047 < 2048) ∧ (encodeAddr ⟨15, 30, 777974, 2047⟩ < hbmTop ∧
        decodeAddr (encodeAddr ⟨15, 22, 777975, 2047⟩) = ⟨15, 22, 777975, 2047⟩) ∧ (268435455 / 16 = 16777215 ∧
        stackOf 0x0FFFFFF = 0)) :=
  by decide +kernel

end Sys2Proof.Tests
end

/-! PROOF. A register write that would push a kite's accumulator area beyond 2,048 units is refused whole (01 R62): what
a refusal leaves as it was, how a word of one field is judged, and the two words of the area. -/

namespace Sys2Proof.Machine

/-! ### A field stored in a word -/

/-- A field just stored in a word reads back, cut to its width. -/
theorem getBits_setBits_same (n lo len v : Nat) : getBits (setBits n lo len v) lo len = v % 2 ^ len := by
  unfold setBits getBits
  have ha : 0 < 2 ^ lo := Nat.two_pow_pos lo
  generalize 2 ^ lo = a at *
  generalize 2 ^ len = b
  have hn : n = n % a + b * (n / a / b) * a + n / a % b * a := by
    rw [Nat.add_assoc, ← Nat.add_mul, Nat.div_add_mod, Nat.mod_add_div']
  have hs : n - n / a % b * a = n % a + b * (n / a / b) * a := Nat.sub_eq_of_eq_add hn
  rw [hs, Nat.add_mul_div_right _ _ ha, Nat.add_mul_div_right _ _ ha, Nat.div_eq_of_lt (Nat.mod_lt n ha), Nat.zero_add,
    Nat.mul_add_mod, Nat.mod_mod]

@[simp] theorem getBits_setBits_getBits (n m lo len : Nat) :
    getBits (setBits n lo len (getBits m lo len)) lo len = getBits m lo len :=
  (getBits_setBits_same n lo len _).trans (Nat.mod_mod _ _)

/-! ### Refusals -/

/-- A frame that leaves the shadow bank alone keeps what a read of a field's shadow value gives. -/
theorem Frame.rdSh {m : Nat} {s t : State} {f : Fld} {n i : Nat} (h : Frame m s t) (hs : m.testBit 3 = false)
    (hm : f.outside m = true) (hv : f.valid n i = true) : t.rdSh f n i = s.rdSh f n i := by
  have e : t.shadow = s.shadow := h.same .shadow (by decide) hs
  unfold State.rdSh
  rw [e, h.rd hm hv]

/-- What the raising of an event may change: the number of `refuse_frame`. -/
def raiseFoot : Nat := 0x814fbc040000000000000000000000000000000000000000000a010380

/-- R10: a refusal leaves both banks of every field that raising an event does not write. -/
theorem refuse_keeps_banks (s : State) (k : PageKind) {f : Fld} {m n i : Nat} (hm : f.outside raiseFoot = true)
    (hv : f.valid n i = true) :
    (refuse s k m).rd f n i = s.rd f n i ∧ (refuse s k m).rdSh f n i = s.rdSh f n i := by
  have h : Frame raiseFoot s (refuse s k m) := refuse_frame (Frame.refl _ s) (sub_refl _)
  exact ⟨h.rd hm hv, h.rdSh (by decide +kernel) hm hv⟩

/-- R10: after a refusal WR_ILLEGAL of the page is pending. -/
theorem refuse_pends (s : State) (k : PageKind) (n : Nat) : Pends (refuse s k n) ⟨k, 0⟩ n :=
  raise_pends s ⟨k, 0⟩ n (Nat.zero_lt_succ _)

theorem plainWrite_of_whole {s : State} {p : Page} {ofs v : Nat} (h : (judgeWord s p ofs v).whole = true) :
    plainWrite s p ofs v = (true, refuse s p.kind p.inst) := by
  simp only [plainWrite, h, if_true]

/-- R375: a register write of an aligned word of a page runs `writeWord`. -/
theorem exec_registerWrite_of_reach {s : State} {addr : Word} {p : Page} (v : Word)
    (hp : reachPage s addr.toNat = some p) (ha : addr.toNat % 4 = 0) :
    exec (.registerWrite addr v) s = .next (writeWord s p (addr.toNat % 0x1000) v.toNat false).2 := by
  show execRegisterWrite addr v s = _
  simp only [execRegisterWrite, writeReg, hp]
  exact whenOk_pos (beq_iff_eq.2 ha)

/-! ### A word of a single field -/

/-- No rule of R10 or of the field's own register bounds its value. -/
def Fld.unruled (f : Fld) : Bool :=
  (fieldRanges.find? (fun r => r.1 == f)).isNone && f != Reg.RANK_PAIR_PARTNER && f != Reg.WS_TABLE_BASE &&
    !([Reg.TR_CTL_CLASSES, Reg.TR_CTL_STOP_FULL, Reg.TR_CTL_PART, Reg.TR_BASE_BASE].contains f)

theorem fieldBad_of_unruled (s : State) {f : Fld} (h : f.unruled = true) (inst i v : Nat) :
    fieldBad s f inst i v = false := by
  simp only [Fld.unruled, Bool.and_eq_true, Option.isNone_iff_eq_none, bne_iff_ne, Bool.not_eq_true'] at h
  obtain ⟨⟨⟨hrange, hpair⟩, htable⟩, htrace⟩ := h
  simp only [fieldBad, fieldFixed, hrange, htrace, beq_eq_false_iff_ne.2 hpair, beq_eq_false_iff_ne.2 htable,
    Bool.false_and, Bool.or_false]

/-- A word that holds one shadowed field and no field rule is judged by the word's rule alone. -/
theorem judgeWord_single (s : State) {p : Page} {ofs i : Nat} {f : Fld} (v : Nat)
    (hw : wordFields p.kind ofs = [(f, i)]) (hk : f.kind = .rwc) (hf : f.unruled = true) :
    (judgeWord s p ofs v).whole =
      !wordOk s p ofs (setBits (s.nextReg p ofs) f.lo f.len (getBits v f.lo f.len)) := by
  have hall : offered p ofs v = [(f, i, getBits v f.lo f.len)] := by simp [offered, hw, hk]
  simp [judgeWord, hall, fieldBad_of_unruled s hf]

/-! ### The accumulator area (R62) -/

/-- 01: ACC_BASE and ACC_SIZE, each alone in its word of the kite control page. -/
theorem wordFields_accBase : wordFields .kiteCtl 0x64 = [(Reg.ACC_BASE_ACC_BASE, 0)] := by decide +kernel

theorem wordFields_accSize : wordFields .kiteCtl 0x68 = [(Reg.ACC_SIZE_ACC_SIZE, 0)] := by decide +kernel

theorem wordOk_accArea (s : State) (n w : Nat) {ofs : Nat} (ho : ofs = 0x64 ∨ ofs = 0x68) :
    wordOk s ⟨.kiteCtl, n⟩ ofs w = accAreaOk s n ofs w := by
  rcases ho with rfl | rfl <;> rfl

/-- R62: a write of ACC_BASE is refused whole when the area would end beyond 2,048 units. -/
theorem judgeWord_accBase (s : State) (n v : Nat) : (judgeWord s ⟨.kiteCtl, n⟩ 0x64 v).whole =
    !decide (getBits v 12 11 + s.rdNext Reg.ACC_SIZE_ACC_SIZE n ≤ 2048) := by
  rw [judgeWord_single s v wordFields_accBase rfl (by decide +kernel), wordOk_accArea s n _ (.inl rfl)]
  simp [accAreaOk, Reg.ACC_BASE_ACC_BASE]

/-- R62: a write of ACC_SIZE is refused whole when the area would end beyond 2,048 units. -/
theorem judgeWord_accSize (s : State) (n v : Nat) : (judgeWord s ⟨.kiteCtl, n⟩ 0x68 v).whole =
    !decide (s.rdNext Reg.ACC_BASE_ACC_BASE n + getBits v 0 12 ≤ 2048) := by
  rw [judgeWord_single s v wordFields_accSize rfl (by decide +kernel), wordOk_accArea s n _ (.inr rfl)]
  simp [accAreaOk, Reg.ACC_SIZE_ACC_SIZE]

/-- The two words of the area are plain words: no window and no command stands behind them. -/
theorem writeWord_accArea (s : State) (n v : Nat) (side : Bool) {ofs : Nat} (ho : ofs = 0x64 ∨ ofs = 0x68) :
    writeWord s ⟨.kiteCtl, n⟩ ofs v side = plainWrite s ⟨.kiteCtl, n⟩ ofs v := by
  rcases ho with rfl | rfl <;> rfl

/-- R62: a write of either word of the area, judged to be refused, only raises WR_ILLEGAL. -/
theorem exec_accArea_refused {s : State} {addr v : Word} {n : Nat} (hp : reachPage s addr.toNat = some ⟨.kiteCtl, n⟩)
    (ho : addr.toNat % 0x1000 = 0x64 ∨ addr.toNat % 0x1000 = 0x68)
    (hj : (judgeWord s ⟨.kiteCtl, n⟩ (addr.toNat % 0x1000) v.toNat).whole = true) :
    exec (.registerWrite addr v) s = .next (refuse s .kiteCtl n) := by
  have ha : addr.toNat % 4 = 0 := by omega
  rw [exec_registerWrite_of_reach v hp ha, writeWord_accArea s n _ _ ho, plainWrite_of_whole hj]

/-- The operands of R62 are judged to be refused. -/
theorem judgeWord_accArea_beyond {s : State} {n ofs v : Nat}
    (h : (ofs = 0x64 ∧ 2048 < getBits v 12 11 + s.rdNext Reg.ACC_SIZE_ACC_SIZE n) ∨
      (ofs = 0x68 ∧ (2048 < s.rdNext Reg.ACC_BASE_ACC_BASE n + getBits v 0 12 ∨ 2048 < getBits v 0 12))) :
    (judgeWord s ⟨.kiteCtl, n⟩ ofs v).whole = true := by
  rcases h with ⟨rfl, hsum⟩ | ⟨rfl, hsum⟩
  · rw [judgeWord_accBase, decide_eq_false (Nat.not_le.2 hsum)]
    rfl
  · have hbeyond : 2048 < s.rdNext Reg.ACC_BASE_ACC_BASE n + getBits v 0 12 := by omega
    rw [judgeWord_accSize, decide_eq_false (Nat.not_le.2 hbeyond)]
    rfl

/-- Settles O6: such a write is refused whole, and a refusal leaves both banks of ACC_BASE and ACC_SIZE. -/
theorem accumulatorAreaStaysInside : Obligations.AccumulatorAreaStaysInside := by
  rintro s addr v ⟨_, n⟩ hp rfl hn hbeyond
  have ho : addr.toNat % 0x1000 = 0x64 ∨ addr.toNat % 0x1000 = 0x68 := hbeyond.imp And.left And.left
  have hv {f : Fld} (hf : f.page = .kiteCtl) (hc : f.count = 1) : f.valid n 0 = true := by
    simpa [Fld.valid, hf, hc] using hn
  obtain ⟨hbase, hbaseSh⟩ := refuse_keeps_banks s .kiteCtl (f := Reg.ACC_BASE_ACC_BASE) (m := n) (by decide +kernel)
    (hv rfl rfl)
  obtain ⟨hsize, hsizeSh⟩ := refuse_keeps_banks s .kiteCtl (f := Reg.ACC_SIZE_ACC_SIZE) (m := n) (by decide +kernel)
    (hv rfl rfl)
  exact ⟨refuse s .kiteCtl n, exec_accArea_refused hp ho (judgeWord_accArea_beyond hbeyond), refuse_pends s .kiteCtl n,
    hbase, hbaseSh, hsize, hsizeSh⟩

end Sys2Proof.Machine

/-! PROOF. The codebook and scale files at reset (03 R138): a device reset and a power-on leave no kite record, so every
file reads its reset words; the configuration stage writes kite records for their spare rows alone, and files stay. -/

namespace Sys2Proof.Machine

/-! ### Files at their reset words -/

/-- Where no kite record stands, both banks of every file read the reset words. -/
theorem windowWord_of_kites_nil {r : State} (h : r.kites = []) (n : Nat) (f : FileKind) (bank w : Nat) :
    windowWord r n f bank w = fileBlank f w := by
  have hkite : r.kite n = {} := by
    rw [State.kite, h]
    rfl
  have hbanks : (({} : KiteState).file f) = {} := by cases f <;> rfl
  simp only [windowWord, hkite, hbanks, ite_self]
  rfl

theorem fileBlank_codebook (w : Nat) : fileBlank .codebook w = 0 := rfl

theorem fileBlank_scale_even (w : Nat) : fileBlank .scale (2 * w) = 0x3F800000 := if_pos (Nat.mul_mod_right 2 w)

theorem fileBlank_scale_odd (w : Nat) : fileBlank .scale (2 * w + 1) = 0 := if_neg (by omega)

theorem showFuses_kites (s : State) : (showFuses s).kites = s.kites :=
  (showFuses_frame (Frame.refl _ s) (sub_refl _)).same .kites (by decide) (by decide)

/-- R442: a device reset leaves no kite record. -/
theorem deviceReset_kites (s : State) (t cause : Nat) : (deviceReset s t cause).kites = [] := by
  simp [deviceReset, showFuses_kites, bareState]

/-- R461: a power-on leaves no kite record. -/
theorem powerOn_kites (s : State) : (powerOn s).kites = [] := showFuses_kites (bareState s)

theorem kites_of_exec_deviceReset {s r : State} (hdue : s.trust.resetAt.isSome = true)
    (h : exec .deviceReset s = .next r) : r.kites = [] := by
  obtain ⟨⟨t, cause⟩, hat⟩ := Option.isSome_iff_exists.1 hdue
  have hexec : exec .deviceReset s = .next (deviceReset s t cause) := by
    show execDeviceReset s = _
    simp only [execDeviceReset, hat]
  obtain rfl := Host.Outcome.next.inj (hexec.symm.trans h)
  exact deviceReset_kites s t cause

theorem kites_of_exec_powerGood {s r : State} (hon : s.pwr.enabled = true) (hdown : s.pwr.rails = false)
    (h : exec .powerGood s = .next r) : r.kites = [] := by
  have hexec : exec .powerGood s = .next (powerOn s) := whenOk_pos (by simp [hon, hdown])
  obtain rfl := Host.Outcome.next.inj (hexec.symm.trans h)
  exact powerOn_kites s

/-! ### What leaves the files -/

/-- Every file of every kite, both banks, is in `t` as in `s`. -/
def FilesKept (s t : State) : Prop := ∀ n f, (t.kite n).file f = (s.kite n).file f

theorem FilesKept.refl (s : State) : FilesKept s s := fun _ _ => rfl

theorem FilesKept.trans {s t u : State} (h : FilesKept s t) (k : FilesKept t u) : FilesKept s u :=
  fun n f => (k n f).trans (h n f)

theorem FilesKept.windowWord {s t : State} (h : FilesKept s t) (n : Nat) (f : FileKind) (bank w : Nat) :
    windowWord t n f bank w = windowWord s n f bank w := by
  simp only [Machine.windowWord, h n f]

theorem FilesKept.of_kites {s t : State} (h : t.kites = s.kites) : FilesKept s t := fun n f => by
  simp only [State.kite, h]

/-- What changes no kite record changes no file. -/
theorem FilesKept.of_frame {m : Nat} {s t : State} (h : Frame m s t) (hm : m.testBit 12 = false) : FilesKept s t :=
  .of_kites (h.same .kites (by decide) hm)

theorem FilesKept.foldl {α : Type} {step : State → α → State} (h : ∀ u a, FilesKept u (step u a)) (l : List α)
    (s : State) : FilesKept s (l.foldl step s) := by
  induction l generalizing s with
  | nil => exact .refl s
  | cons a l ih => exact (h s a).trans (ih (step s a))

/-- A kite record whose files are those of the slot leaves every file. -/
theorem FilesKept.setKite {s : State} {n : Nat} {k : KiteState} (h : ∀ f, k.file f = (s.kite n).file f) :
    FilesKept s (s.setKite n k) := fun m f => by
  by_cases hm : m = n
  · rw [hm, State.kite_setKite, h f]
  · rw [State.kite_setKite_ne hm]

theorem filesKept_raise (s : State) (e : Evt) (n : Nat) : FilesKept s (raise s e n) :=
  .of_frame (raise_frame (Frame.refl _ s) (sub_refl _)) (by decide)

/-! ### The configuration stage (16 R444 stage 4) -/

/-- R49: a slot's spare rows are no part of its files. -/
theorem filesKept_restoreSpares (s : State) (n : Nat) (used : Table Nat) : FilesKept s (restoreSpares s n used) := by
  have hset : FilesKept s (s.setKite n { s.kite n with spares := used }) := .setKite fun f => by cases f <;> rfl
  unfold restoreSpares
  split
  · exact hset.trans (filesKept_raise _ _ _)
  · exact hset

theorem filesKept_foldl_setStack {α : Type} (g : State → α → StackState) (key : α → Nat) (l : List α) (s : State) :
    FilesKept s (l.foldl (fun u e => u.setStack (key e) (g u e)) s) :=
  .foldl (fun _ _ => .of_kites State.setStack_kites) l s

/-- R456: of the restored tables only that of the spare rows touches kite records. -/
theorem filesKept_restoreTables (s : State) (r : Repairs) : FilesKept s (restoreTables s r) := by
  have hsram (u : State) : FilesKept u (restoreSram u r.sram) := .of_kites rfl
  have hspares (u : State) : FilesKept u (r.spares.foldl (fun v e => restoreSpares v e.1 e.2) u) :=
    .foldl (fun v e => filesKept_restoreSpares v e.1 e.2) r.spares u
  have hlanes (u : State) :
      FilesKept u (r.lanes.foldl (fun s e => s.setLine e.1 { s.line e.1 with laneMap := e.2 }) u) :=
    .foldl (fun _ _ => .of_kites State.setLine_kites) _ _
  exact (filesKept_foldl_setStack _ _ r.remap s).trans <| (filesKept_foldl_setStack _ _ r.xlat _).trans <|
    (filesKept_foldl_setStack _ _ r.badSpares _).trans <| (filesKept_foldl_setStack _ _ r.deadReserve _).trans <|
    (hsram _).trans <| (hspares _).trans (hlanes _)

theorem filesKept_restoreRepairs (s : State) : FilesKept s (restoreRepairs s) := by
  have hregs : FilesKept s (restoreRegs s) := .of_kites rfl
  have hsettle (u : State) : FilesKept u (settleAll u) :=
    .of_frame (settleAll_frame (Frame.refl _ u) (sub_refl _)) (by decide)
  have hmark (u : State) : FilesKept u (setRestored u) := .of_kites rfl
  exact hregs.trans <| (filesKept_restoreTables _ _).trans <| (hsettle _).trans (hmark _)

/-- R383: the user image reaches no kite record. -/
theorem filesKept_applyImage (s : State) : FilesKept s (applyImage s) :=
  .of_frame (applyImage_frame (Frame.refl _ s) (sub_refl _)) (by decide)

/-- R138: the user image, the repairs and the choice of the master leave the files. -/
theorem filesKept_configStage (s : State) : FilesKept s (configStage s) := by
  have hhours (u : State) : FilesKept u (restoreHours u) :=
    .of_frame (restoreHours_frame (Frame.refl _ u) (sub_refl _)) (by decide)
  have hmaster (u : State) : FilesKept u (settleMaster u) :=
    .of_frame (settleMaster_frame (Frame.refl _ u) (sub_refl _)) (by decide)
  have hstate : FilesKept (restoreRepairs (applyImage s)) ((restoreRepairs (applyImage s)).wr Reg.DEV_STAT_STATE 4) :=
    .of_kites State.wr_kites
  exact (filesKept_applyImage s).trans <| (filesKept_restoreRepairs _).trans <| hstate.trans <|
    (hhours _).trans (hmaster _)

/-- In stage 3 the configuration stage runs; elsewhere nothing changes. Either way the files stay. -/
theorem exec_configStage_filesKept (s : State) : ∃ t, exec .configStage s = .next t ∧ FilesKept s t := by
  refine ⟨if bootStage s == 3 then configStage s else s, rfl, ?_⟩
  split
  · exact filesKept_configStage s
  · exact .refl s

/-- Settles O7: no kite record stands after a reset, and the configuration stage keeps every file. -/
theorem kiteFilesAtReset : Obligations.KiteFilesAtReset := by
  constructor
  · intro r hr n bank w
    have hnil : r.kites = [] := by
      rcases hr with rfl | ⟨s, hdue, hexec⟩ | ⟨s, hon, hdown, hexec⟩
      · rfl
      · exact kites_of_exec_deviceReset hdue hexec
      · exact kites_of_exec_powerGood hon hdown hexec
    have hblank (f : FileKind) (i : Nat) : windowWord r n f bank i = fileBlank f i :=
      windowWord_of_kites_nil hnil n f bank i
    exact ⟨(hblank _ _).trans (fileBlank_codebook w), (hblank _ _).trans (fileBlank_scale_even w),
      (hblank _ _).trans (fileBlank_scale_odd w)⟩
  · intro s
    obtain ⟨t, hexec, hkept⟩ := exec_configStage_filesKept s
    exact ⟨t, hexec, fun n bank w => ⟨hkept.windowWord n .codebook bank w, hkept.windowWord n .scale bank w⟩⟩

end Sys2Proof.Machine

/-! PROOF. A vector op without elements (05 R178): fetching its records leaves the kites and every byte, it issues and
completes in one cycle, and of its kite's record only the position, the signalled gate and the tick of PLAN_PC move. -/

namespace Sys2Proof.Machine

/-! ### Fields of a kite's control page, whatever the slot's number -/

/-- R376: the page that holds a field's register is read off its key. -/
theorem Fld.key_div_page {f : Fld} {i : Nat} (hp : f.inPage = true) (hi : i < f.count) (n : Nat) :
    f.key n i / 32768 = pageBase f.page n / 4096 := by
  simp only [Fld.inPage, Bool.and_eq_true, beq_iff_eq, decide_eq_true_eq] at hp
  obtain ⟨⟨⟨hofs, hstride⟩, hlo⟩, hend⟩ := hp
  have hle : i * f.stride ≤ (f.count - 1) * f.stride := Nat.mul_le_mul_right _ (by omega)
  have hmod : i * f.stride % 4 = 0 := by rw [Nat.mul_mod, hstride, Nat.mul_zero, Nat.zero_mod]
  have hbase := pageBase_aligned f.page n
  unfold Fld.key
  omega

/-- R376: no page of another kind stands where a kite control page would, even one beyond the 136 slots. -/
theorem pageBase_kiteCtl_ne {k : PageKind} {m : Nat} (hk : k ≠ .kiteCtl) (hm : m < pageCount k) (n : Nat) :
    pageBase .kiteCtl n ≠ pageBase k m := by
  cases k <;> simp only [pageBase, pageCount, ne_eq, not_true_eq_false] at * <;> omega

/-- A numbered footprint holds no field of a kite control page. -/
def sparesKiteCtl (m : Nat) : Bool :=
  !m.testBit 2 && written.zipIdx.all (fun e => !m.testBit (32 + e.2) || (e.1.inPage && e.1.page != .kiteCtl))

/-- Such a frame keeps the fields of every kite control page; the slot's number need not be bounded. -/
theorem Frame.rd_kiteCtl {m : Nat} {s t : State} {x : Fld} (h : Frame m s t) (hm : sparesKiteCtl m = true)
    (hx : x.page = .kiteCtl) (hp : x.inPage = true) (hc : 0 < x.count) (n : Nat) : t.rd x n = s.rd x n := by
  simp only [sparesKiteCtl, Bool.and_eq_true, Bool.not_eq_true', List.all_eq_true] at hm
  obtain ⟨hregs, hfields⟩ := hm
  unfold State.rd Table.getD
  rw [h.regs hregs _ fun j f hj hf a i hv hkey => ?_]
  have hf' := hfields (f, j) (List.mk_mem_zipIdx_iff_getElem?.2 hf)
  simp only [hj, Bool.not_true, Bool.false_or, Bool.and_eq_true, bne_iff_ne] at hf'
  simp only [Fld.valid, Bool.and_eq_true, decide_eq_true_eq] at hv
  have hpages : pageBase .kiteCtl n / 4096 = pageBase f.page a / 4096 := by
    rw [← hx, ← Fld.key_div_page hp hc, hkey, Fld.key_div_page hf'.1 hv.2]
  have h1 := pageBase_aligned .kiteCtl n
  have h2 := pageBase_aligned f.page a
  exact pageBase_kiteCtl_ne hf'.2 hv.1 n (by omega)

/-! ### Fetching the records of the head op (07 R243) -/

/-- What fetching records leaves: every byte, the kites, and where the op streams stand. -/
structure RecordsKept (s u : State) : Prop where
  bytes : ∀ a, memByte u a = memByte s a
  kites : u.kites = s.kites
  planBase : u.rd Reg.PLAN_BASE_BASE = s.rd Reg.PLAN_BASE_BASE
  opsBase : ∀ n, u.rd Reg.OPS_BASE_BASE n = s.rd Reg.OPS_BASE_BASE n

/-- What a read through the spool may change: the number of `memRead_frame`. -/
def memReadFoot : Nat := 0x3fc0814fbc040000000000000000000000000000000000000000000a010f80

theorem memRead_recordsKept {s : State} {a len : Nat} (h : Readable s a len) :
    RecordsKept s (memRead s a len 0).2.2 := by
  have hframe : Frame memReadFoot s (memRead s a len 0).2.2 := memRead_frame (Frame.refl _ s) (sub_refl _)
  exact {
    bytes := fun b => memByte_readRange _ h.canon h.kept a len b 0
    kites := hframe.same .kites (by decide) (by decide +kernel)
    planBase := hframe.rd (by decide +kernel) (by decide)
    opsBase := hframe.rd_kiteCtl (by decide +kernel) rfl (by decide) (by decide) }

/-- A readable range is read whole, and the unit loses nothing. -/
theorem readFor_of_readable {s : State} {a len : Nat} (h : Readable s a len) (who : Consumer) :
    readFor s who a len 0 = (some (memRead s a len 0).1, (memRead s a len 0).2.2) := by
  have hclean : (memRead s a len 0).2.1 = [] := readRange_clean _ a len 0 h.clean
  simp only [readFor, hclean, if_true]

/-- What follows the fetch of readable records sees the records as they stood. -/
theorem fetchHead_of_readable {s : State} {n : Nat} (h : HeadReadable s n) :
    ∃ u, RecordsKept s u ∧ ∀ f, fetchHead s n f = f u :=
  ⟨_, memRead_recordsKept h, fun _ => by simp only [fetchHead, fetchRecords, readFor_of_readable h]⟩

theorem RecordsKept.kite {s u : State} (h : RecordsKept s u) (n : Nat) : u.kite n = s.kite n := by
  simp only [State.kite, h.kites]

theorem RecordsKept.planRecord {s u : State} (h : RecordsKept s u) (base r : Nat) :
    planRecord u base r = planRecord s base r := by
  have hat : planRecordAddr u base r = planRecordAddr s base r := by simp only [planRecordAddr, planByte, h.planBase]
  simp only [Machine.planRecord, hat, memBytes_congr 16 fun b _ _ => h.bytes b]

theorem RecordsKept.headRecord {s u : State} (h : RecordsKept s u) (n : Nat) : headRecord u n = headRecord s n := by
  simp only [Machine.headRecord, h.planRecord, h.opsBase, h.kite]

theorem RecordsKept.headVector {s u : State} (h : RecordsKept s u) (n : Nat) : headVector u n = headVector s n := by
  simp only [Machine.headVector, headExtension, h.headRecord, h.planRecord, h.opsBase, h.kite]

/-! ### What the issue and the completion of an op do to the kites -/

/-- From `s` to `t` the record of slot `n` becomes `k`, and no other slot's record changes. -/
structure KiteBecomes (n : Nat) (k : KiteState) (s t : State) : Prop where
  own : t.kite n = k
  others : ∀ m, m ≠ n → t.kite m = s.kite m

theorem KiteBecomes.setKite (s : State) (n : Nat) (k : KiteState) : KiteBecomes n k s (s.setKite n k) :=
  ⟨State.kite_setKite, fun _ hm => State.kite_setKite_ne hm⟩

theorem KiteBecomes.of_kites {s t : State} (h : t.kites = s.kites) (n : Nat) : KiteBecomes n (s.kite n) s t := by
  constructor <;> simp only [State.kite, h, implies_true]

theorem KiteBecomes.trans {n : Nat} {k k' : KiteState} {s t u : State} (h : KiteBecomes n k s t)
    (h' : KiteBecomes n k' t u) : KiteBecomes n k' s u :=
  ⟨h'.own, fun m hm => (h'.others m hm).trans (h.others m hm)⟩

/-- What changes no kite record after the change of slot `n`'s leaves it as it became. -/
theorem KiteBecomes.then_kept {n : Nat} {k : KiteState} {s t u : State} (h : KiteBecomes n k s t)
    (hu : u.kites = t.kites) : KiteBecomes n k s u :=
  h.own ▸ h.trans (.of_kites hu n)

theorem raise_kites (s : State) (e : Evt) (n : Nat) : (raise s e n).kites = s.kites :=
  (raise_frame (Frame.refl _ s) (sub_refl _)).same .kites (by decide) (by decide +kernel)

theorem traceAdd_kites (s : State) (t cls kind unit a b c : Nat) : (traceAdd s t cls kind unit a b c).kites = s.kites :=
  (traceAdd_frame (Frame.refl _ s) (sub_refl _)).same .kites (by decide) (by decide +kernel)

/-- R248: the sequencer moves past the head op. -/
theorem issueHead_kite (s : State) (n : Nat) :
    KiteBecomes n { s.kite n with nextRec := (s.kite n).nextRec + opRecords (headRecord s n),
                                  nextOp := (s.kite n).nextOp + 1 } s (issueHead s n) := by
  refine (KiteBecomes.setKite s n _).then_kept ?_
  simp only [issueHead, traceAdd_kites]
  split
  · rfl
  · exact raise_kites _ _ _

/-- R247: the gates of a slot after a signal, if there is one. -/
def gatesSignalled (gates : Table Nat) : Option Nat → Table Nat
  | some g => gates.put g (min 65535 (gates.getD g 0 + 1))
  | none => gates

theorem getD_gatesSignalled (gates : Table Nat) (g : Nat) :
    (gatesSignalled gates (some g)).getD g 0 = min 65535 (gates.getD g 0 + 1) :=
  Table.getD_put_same _ _ _ _

/-- R248: a completion signals its gate. -/
theorem completeRun_kite (s : State) (n : Nat) (r : OpRun) :
    KiteBecomes n { s.kite n with gates := gatesSignalled (s.kite n).gates r.sig } s (completeRun s n r) := by
  cases hsig : r.sig with
  | some g =>
    refine (KiteBecomes.setKite s n _).then_kept ?_
    simp only [completeRun, traceAdd_kites, hsig, signalGate, gatesSignalled]
  | none =>
    refine KiteBecomes.of_kites ?_ n
    simp only [completeRun, traceAdd_kites, hsig]

/-- PLAN_PC and KITE_STATE: of the kite's record only the tick of PLAN_PC can move. -/
theorem showStream_kite (s : State) (n : Nat) :
    ∃ c, KiteBecomes n { s.kite n with pcTick := c } s (showStream s n) := by
  have hpc (pc : Nat) : ∃ c, KiteBecomes n { s.kite n with pcTick := c } s (if pc = s.rd Reg.PLAN_PC_PC n then s
      else (s.wr Reg.PLAN_PC_PC pc n).setKite n { s.kite n with pcTick := s.tick }) := by
    split
    · exact ⟨(s.kite n).pcTick, .of_kites rfl n⟩
    · exact ⟨s.tick, (KiteBecomes.setKite s n _).then_kept rfl⟩
  unfold showStream
  dsimp only
  split
  · exact (hpc _).imp fun _ h => h.then_kept State.wr_kites
  · exact hpc _

/-- R178: an op that completes in the cycle it starts moves its kite's position, signals its gate, and leaves the rest of
the record. -/
theorem issueAtOnce_kite (s : State) (n : Nat) :
    ∃ c, KiteBecomes n { s.kite n with
      nextRec := (s.kite n).nextRec + opRecords (headRecord s n), nextOp := (s.kite n).nextOp + 1,
      gates := gatesSignalled (s.kite n).gates (signalOf (headRecord s n)), pcTick := c } s (issueAtOnce s n) := by
  have hissue := issueHead_kite s n
  have hdone := hissue.trans (completeRun_kite _ n (headRun s n))
  obtain ⟨c, hshow⟩ := showStream_kite (completeRun (issueHead s n) n (headRun s n)) n
  refine ⟨c, ?_⟩
  have hall := hdone.trans hshow
  rwa [hdone.own, hissue.own] at hall

/-! ### The vector op without elements -/

/-- VEC_STATUS and VEC_FLAGS are registers: the kites are those that `issueAtOnce` leaves. -/
theorem emptyVector_kites (s : State) (n : Nat) (o : VecFields) : (emptyVector s n o).kites = (issueAtOnce s n).kites := by
  simp only [emptyVector, vecFlags, vecStatus, State.wr_kites]

theorem memByte_emptyVector (s : State) (n : Nat) (o : VecFields) (a : Nat) :
    memByte (emptyVector s n o) a = memByte s a := by
  have hframe := emptyVector_frame (x1 := n) (x2 := o) (Frame.refl _ s) (sub_refl _)
  have hmem : (emptyVector s n o).mem = s.mem := hframe.same .mem (by decide) (by decide +kernel)
  exact memByte_congr (congrArg Memory.spool hmem) (hframe.same .hbm (by decide) (by decide +kernel)) a

theorem acceptVector_of_empty {s : State} {n : Nat} (k : Nat) (env : OpEnv) (h : (headVector s n).count = 0) :
    acceptVector s n k env = emptyVector s n (headVector s n) := by
  simp only [acceptVector, h, if_true]

/-- The vector ops with their VOP codes (07 R251). -/
def vectorOps (k : Kite) (env : OpEnv) : List (Nat × Instr) :=
  [(0, .map k env), (1, .conv k env), (2, .scan k env), (3, .reduce k env), (4, .rescale k env), (5, .rng k env)]

/-- All six vector ops start alike. -/
theorem exec_vectorOp {s : State} {k : Kite} {env : OpEnv} {x : Nat × Instr} (hx : x ∈ vectorOps k env)
    (hcan : canVector s k x.1 env.together = true) : exec x.2 s = .next (startVector s (s.slotOf k) k env) := by
  have harm : exec x.2 s = whenOk (canVector s k x.1 env.together) s (startVector s (s.slotOf k) k env) := by
    simp only [vectorOps, List.mem_cons, List.not_mem_nil, or_false] at hx
    rcases hx with rfl | rfl | rfl | rfl | rfl | rfl <;> rfl
  rw [harm, whenOk_pos hcan]

theorem vecFree_of_canVector {s : State} {k vop : Nat} {w : Bool} (h : canVector s k vop w = true) :
    (s.kite (s.slotOf k)).vec = none := by
  simp only [canVector, vecFree, Bool.and_eq_true, Option.isNone_iff_eq_none] at h
  exact h.2

/-- Settles O9: the fetch leaves the records, and the op moves only its position and its gate. -/
theorem emptyVectorOpsDoNothing : Obligations.EmptyVectorOpsDoNothing := by
  intro s k env x hx hcan hcount hread n
  obtain ⟨u, hu, hfetch⟩ := fetchHead_of_readable hread
  have hempty : (headVector u n).count = 0 := (congrArg VecFields.count (hu.headVector n)).trans hcount
  have hexec : exec x.2 s = .next (emptyVector u n (headVector u n)) := by
    rw [exec_vectorOp hx hcan, startVector, hfetch, acceptVector_of_empty k env hempty]
  obtain ⟨c, hissue⟩ := issueAtOnce_kite u n
  have hkite := ((KiteBecomes.of_kites hu.kites n).trans hissue).then_kept (emptyVector_kites u n (headVector u n))
  rw [hu.kite, hu.headRecord] at hkite
  refine ⟨_, hexec, fun a => (memByte_emptyVector u n _ a).trans (hu.bytes a), ?_, ?_, ?_, ?_, ?_, hkite.others, ?_⟩
  all_goals rw [hkite.own]
  · exact vecFree_of_canVector hcan
  · intro g hg
    rw [hg]
    exact getD_gatesSignalled _ g

end Sys2Proof.Machine

/-! PROOF. How an address decodes (06 R202). Within a block of 16 granules the stack is the exclusive-or of the
granule's lowest nibble with a constant of the block, and an exclusive-or undoes itself: so a block and a stack give one
granule, and `encodeAddr` inverts `decodeAddr`. -/

namespace Sys2Proof.Machine

/-! ### The fold of a granule number -/

theorem foldNibbles_zero (g : Nat) : foldNibbles 0 g = 0 := rfl

theorem foldNibbles_succ (n g : Nat) : foldNibbles (n + 1) g = g % 16 ^^^ foldNibbles n (g / 16) := rfl

theorem foldNibbles_lt (n g : Nat) : foldNibbles n g < 16 := by
  induction n generalizing g with
  | zero => exact Nat.zero_lt_succ 15
  | succ n ih => exact Nat.xor_lt_two_pow (n := 4) (Nat.mod_lt g (by decide)) (ih _)

theorem stackOf_lt (g : Nat) : stackOf g < 16 :=
  Nat.xor_lt_two_pow (n := 4) (foldNibbles_lt 7 g) (Nat.lt_of_lt_of_le (Nat.mod_lt _ Nat.two_pos) (by decide))

/-- In the block of granules `16 * j` to `16 * j + 15` the fold is the lowest nibble with a constant of the block. -/
theorem stackOf_in_block (j : Nat) {low : Nat} (h : low < 16) : stackOf (16 * j + low) = low ^^^ stackOf (16 * j) := by
  have hfold (i : Nat) (hi : i < 16) : stackOf (16 * j + i) = i ^^^ (foldNibbles 6 j ^^^ 16 * j / 2 ^ 28 % 2) := by
    have hlow : (16 * j + i) % 16 = i := by omega
    have hblock : (16 * j + i) / 16 = j := by omega
    have hbit : (16 * j + i) / 2 ^ 28 = 16 * j / 2 ^ 28 := by omega
    calc stackOf (16 * j + i)
        = (16 * j + i) % 16 ^^^ foldNibbles 6 ((16 * j + i) / 16) ^^^ (16 * j + i) / 2 ^ 28 % 2 := rfl
      _ = i ^^^ (foldNibbles 6 j ^^^ 16 * j / 2 ^ 28 % 2) := by rw [hlow, hblock, hbit, Nat.xor_assoc]
  have hstart : stackOf (16 * j) = foldNibbles 6 j ^^^ 16 * j / 2 ^ 28 % 2 := by
    simpa only [Nat.add_zero, Nat.zero_xor] using hfold 0 (by decide)
  rw [hfold low h, hstart]

/-- R202: S is the exclusive-or of bits [27:0] by nibbles and bit 28. -/
theorem stackOf_toNat (g : BitVec 29) : stackOf g.toNat =
    (g.extractLsb' 0 4 ^^^ g.extractLsb' 4 4 ^^^ g.extractLsb' 8 4 ^^^ g.extractLsb' 12 4 ^^^ g.extractLsb' 16 4 ^^^
      g.extractLsb' 20 4 ^^^ g.extractLsb' 24 4 ^^^ (g.extractLsb' 28 1).setWidth 4).toNat := by
  have hbit : g.toNat / 2 ^ 28 % 2 % 2 ^ 4 = g.toNat / 2 ^ 28 % 2 := by omega
  change foldNibbles 7 g.toNat ^^^ g.toNat / 2 ^ 28 % 2 = _
  simp only [foldNibbles_succ, foldNibbles_zero, Nat.xor_zero, Nat.div_div_eq_div_mul, BitVec.toNat_xor,
    BitVec.extractLsb'_toNat, BitVec.toNat_setWidth, Nat.shiftRight_eq_div_pow, Nat.xor_assoc, Nat.reducePow,
    Nat.reduceMul, Nat.div_one] at hbit ⊢
  rw [hbit]

/-! ### The granule of a block that lies in a stack -/

/-- The granule of block `j` that lies in stack `k`. -/
def granuleAt (j k : Nat) : Nat := 16 * j + (stackOf (16 * j) ^^^ k)

theorem encodeAddr_eq (l : Loc) : encodeAddr l = granuleAt (l.q * 31 + l.lpc) l.stack * 2048 + l.o := rfl

theorem granuleAt_low_lt (j : Nat) {k : Nat} (hk : k < 16) : stackOf (16 * j) ^^^ k < 16 :=
  Nat.xor_lt_two_pow (n := 4) (stackOf_lt _) hk

theorem granuleAt_block (j : Nat) {k : Nat} (hk : k < 16) : granuleAt j k / 16 = j := by
  have := granuleAt_low_lt j hk
  unfold granuleAt
  omega

theorem stackOf_granuleAt (j : Nat) {k : Nat} (hk : k < 16) : stackOf (granuleAt j k) = k := by
  rw [granuleAt, stackOf_in_block j (granuleAt_low_lt j hk), Nat.xor_comm, ← Nat.xor_assoc, Nat.xor_self,
    Nat.zero_xor]

theorem granuleAt_stackOf (g : Nat) : granuleAt (g / 16) (stackOf g) = g := by
  have hsplit : 16 * (g / 16) + g % 16 = g := Nat.div_add_mod g 16
  have hstack : stackOf g = g % 16 ^^^ stackOf (16 * (g / 16)) := by
    have hin := stackOf_in_block (g / 16) (Nat.mod_lt g (by decide : 16 > 0))
    rwa [hsplit] at hin
  rw [granuleAt, hstack, Nat.xor_comm (stackOf (16 * (g / 16))), Nat.xor_assoc, Nat.xor_self, Nat.xor_zero, hsplit]

/-! ### Decoding and encoding -/

/-- R202: the 736 GiB are 23 × 2^20 blocks, dealt to 31 pseudo-channels in turn. -/
theorem block_below_top_iff {q lpc : Nat} (h : lpc < 31) :
    q < (if lpc < 23 then 777976 else 777975) ↔ q * 31 + lpc < 23 * 2 ^ 20 := by
  split <;> omega

theorem block_of_decodeAddr (a : Nat) : (decodeAddr a).q * 31 + (decodeAddr a).lpc = a / 2048 / 16 :=
  Nat.div_add_mod' (a / 2048 / 16) 31

theorem encodeAddr_decodeAddr (a : Nat) : encodeAddr (decodeAddr a) = a := by
  calc encodeAddr (decodeAddr a)
      = granuleAt (a / 2048 / 16) (stackOf (a / 2048)) * 2048 + a % 2048 := by
        rw [encodeAddr_eq, block_of_decodeAddr]; rfl
    _ = a := by rw [granuleAt_stackOf, Nat.div_add_mod']

theorem decodeAddr_encodeAddr {l : Loc} (hk : l.stack < 16) (hlpc : l.lpc < 31) (ho : l.o < 2048) :
    decodeAddr (encodeAddr l) = l := by
  have hg : encodeAddr l / 2048 = granuleAt (l.q * 31 + l.lpc) l.stack := by rw [encodeAddr_eq]; omega
  have hofs : encodeAddr l % 2048 = l.o := by rw [encodeAddr_eq]; omega
  have hj : encodeAddr l / 2048 / 16 = l.q * 31 + l.lpc := by rw [hg, granuleAt_block _ hk]
  obtain ⟨hlane, hrow⟩ : (l.q * 31 + l.lpc) % 31 = l.lpc ∧ (l.q * 31 + l.lpc) / 31 = l.q := by omega
  rw [decodeAddr, hj, hlane, hrow, hofs, hg, stackOf_granuleAt _ hk]

theorem encodeAddr_lt_top {l : Loc} (hk : l.stack < 16) (hj : l.q * 31 + l.lpc < 23 * 2 ^ 20) (ho : l.o < 2048) :
    encodeAddr l < hbmTop := by
  have hblock := granuleAt_block (l.q * 31 + l.lpc) hk
  rw [encodeAddr_eq, hbmTop]
  omega

theorem block_lt_of_lt_top {a : Nat} (h : a < hbmTop) : (decodeAddr a).q * 31 + (decodeAddr a).lpc < 23 * 2 ^ 20 := by
  rw [block_of_decodeAddr]
  unfold hbmTop at h
  omega

/-! ### Bank and row -/

theorem bankOf_eq (q o : Nat) :
    bankOf q o = q % 24 / 8 * 16 + (q % 24 % 8 / 4 + if o < 1024 then 0 else 2) * 4 + q % 24 % 4 := by
  simp only [bankOf, ← Nat.not_lt, ite_not]

theorem rowId_eq (s : State) (a : Nat) :
    let l := decodeAddr a
    let q := translate (s.stack l.stack) l.lpc l.q
    s.rowId a = (s.rd Reg.PC_MAP_PHYS l.stack l.lpc * 48 + q % 24 / 8 * 16 +
      (q % 24 % 8 / 4 + if l.o < 1024 then 0 else 2) * 4 + q % 24 % 4) * 32768 + q / 24 := by
  simp only [State.rowId, State.ppc, rowOf, bankOf_eq, Nat.add_assoc]

/-- Settles O8: an address splits into granule and offset, the granule into block and stack, and back. -/
theorem addressesDecode : Obligations.AddressesDecode := by
  refine ⟨fun s a ha => ?_, fun b k hk => ?_, fun l hk hlpc hq ho => ?_⟩
  · intro g l
    have hg : g.toNat = a / 2048 := by
      unfold hbmTop at ha
      rw [BitVec.toNat_ofNat, Nat.mod_eq_of_lt (by omega)]
    have hlpc : l.lpc < 31 := Nat.mod_lt _ (by decide)
    refine ⟨?_, ?_, hlpc, (block_below_top_iff hlpc).2 (block_lt_of_lt_top ha), ?_, Nat.mod_lt _ (by decide),
      encodeAddr_decodeAddr a, _, _, _, _, rowId_eq s a, rfl, rfl, rfl, rfl⟩
    · rw [← stackOf_toNat g, hg]; rfl
    · rw [Nat.mul_comm 31, block_of_decodeAddr, BitVec.toNat_ushiftRight, hg, Nat.shiftRight_eq_div_pow]
    · rw [hg]; exact Nat.div_add_mod a 2048
  · refine ⟨granuleAt b k, granuleAt_block b hk, stackOf_granuleAt b hk, fun h hb hs => ?_⟩
    rw [← granuleAt_stackOf h, hb, hs]
  · exact ⟨encodeAddr_lt_top hk ((block_below_top_iff hlpc).1 hq) ho, decodeAddr_encodeAddr hk hlpc ho⟩

end Sys2Proof.Machine
